-- ==== Sys2Proof/Word.lean ====
section
/-! DEFINITION. Words, bytes and finite tables: the plain data every other file is written in.
A table is a list of (key, value) pairs: the first pair with a key gives its value, a missing key
reads as the default its reader names. -/

namespace Sys2Proof

/-- A 32-bit register value (R10). -/
abbrev Word := BitVec 32
/-- One byte of memory (R15). -/
abbrev Byte := BitVec 8
/-- A 56-bit instruction address (R131, R155). -/
abbrev Pc := BitVec 56

/-- A finite table from keys to values. -/
abbrev Tab (κ α : Type) := List (κ × α)

/-- The value at a key, or the default. -/
def Tab.look {κ α : Type} [DecidableEq κ] (t : Tab κ α) (k : κ) (d : α) : α :=
  match t with
  | [] => d
  | (k', v) :: t' => if k' = k then v else Tab.look t' k d

/-- Is the key listed? -/
def Tab.has {κ α : Type} [DecidableEq κ] (t : Tab κ α) (k : κ) : Bool :=
  match t with
  | [] => false
  | (k', _) :: t' => if k' = k then true else Tab.has t' k

/-- Write the value at a key: in place when the key is listed, at the end otherwise. -/
def Tab.put {κ α : Type} [DecidableEq κ] (t : Tab κ α) (k : κ) (v : α) : Tab κ α :=
  match t with
  | [] => [(k, v)]
  | (k', v') :: t' => if k' = k then (k, v) :: t' else (k', v') :: Tab.put t' k v

/-- Forget a key. -/
def Tab.drop {κ α : Type} [DecidableEq κ] (t : Tab κ α) (k : κ) : Tab κ α :=
  t.filter (fun p => decide (p.1 ≠ k))

/-- The two's-complement value of a word of `w` bits held in a Nat (R73 `sext`). -/
def sext (w x : Nat) : Int :=
  if x % 2 ^ w < 2 ^ (w - 1) then (x % 2 ^ w : Nat) else (x % 2 ^ w : Nat) - (2 ^ w : Nat)

/-- The low `w` bits of an integer, as a Nat below 2^w. -/
def wrap (w : Nat) (x : Int) : Nat := (x % (2 ^ w : Nat)).toNat

/-- Bits hi..lo of a Nat (R5). -/
def bits (x hi lo : Nat) : Nat := x / 2 ^ lo % 2 ^ (hi + 1 - lo)

/-- One bit of a Nat. -/
def bit (x i : Nat) : Bool := x / 2 ^ i % 2 = 1

/-- The smallest n with n at least a / b (b > 0). -/
def ceilDiv (a b : Nat) : Nat := (a + b - 1) / b

end Sys2Proof
end

