-- ==== Sys2Proof/Config.lean ====
section
/-! DEFINITION. What the spec leaves to an implementation, and the free values. A free value is an opaque
constant without a body, applied to the model's own counter `fresh` or to the operands it depends on,
so that no proof can see what it is (log entry 3). -/

namespace Sys2Proof.Config

/-- A free natural number: which of several behaviours the spec allows is taken (log entry 3). -/
opaque choice : Nat → Nat

/-- A free word, named by a counter (log entry 3). -/
opaque freeWord : Nat → Word

/-- XTS encryption of one 1024-bit line under key material and a tweak (R381): a permutation of lines that is not in the spec
(log entry 9). -/
opaque xts : Nat → Nat → Equiv.Perm (BitVec 1024)

/-- The encryption of a line's plain text. -/
def xtsEncrypt (key tweak v : Nat) : Nat := (xts key tweak (BitVec.ofNat 1024 v)).toNat

/-- Its inverse under one key; under another key what it yields is not said (R382). -/
def xtsDecrypt (key tweak v : Nat) : Nat := ((xts key tweak).symm (BitVec.ofNat 1024 v)).toNat

/-- The digest that SPDM answers carry (R399); the hash function is not defined in the spec (log
entry 10). -/
opaque digest : List Nat → Nat

/-- A signature with the module identity key (R399; log entry 10). -/
opaque sign : List Nat → Nat

/-- The certificate chain of the module identity key (R399), by slot; its contents are not in the spec (log
entry 10). -/
opaque certChain : Nat → Nat

/-- Does a controller image's signature verify (R395)? The scheme is not defined in the spec (log entry
10). -/
opaque verify : List Nat → Bool

/-- The words of what a hand-over block of a controller kind holds beyond the sections of the spec, in a later minor version (R397;
log entry 31). -/
opaque laterSection : Nat → Nat → List Nat

/-- How many bytes of the save pool one team takes (R356 gives no layout; log entry 11). -/
opaque saveBytes : Nat → Nat

/-- The bytes that a team's save writes at a clk, by offset in the save pool (R356 gives no layout; log entry 11). -/
opaque saveImage : Nat → Nat → List (Nat × Nat)

end Sys2Proof.Config
end

