-- ==== Sys2Proof/Syntax.lean ====
section
/-! DEFINITION. The instructions of the opcode table, one constructor of Instr per row, over operand
structures that hold the fields of an encoding (R46, R50 to R55), and the three prefix words (R56,
R62, R65). The rows without an encoding are events: what an agent of the machine does by itself or at
the hand of the world outside; what it acts on stands in the state's event argument. -/

namespace Sys2Proof

/-- Format A with two V sources (R50): trap bits of vb and va, sources, destination. -/
structure OpA where
  tb : Bool
  ta : Bool
  vb : BitVec 7
  va : BitVec 7
  vd : BitVec 7
  deriving DecidableEq, Repr

/-- Format A with one V source (R50). -/
structure OpA1 where
  ta : Bool
  va : BitVec 7
  vd : BitVec 7
  deriving DecidableEq, Repr

/-- Format A whose destination is a mask register (R55). -/
structure OpC where
  tb : Bool
  ta : Bool
  vb : BitVec 7
  va : BitVec 7
  md : BitVec 3
  deriving DecidableEq, Repr

/-- Format I: an 8-bit immediate, a source and a destination (R51). -/
structure OpI where
  imm : BitVec 8
  ta : Bool
  va : BitVec 7
  vd : BitVec 7
  deriving DecidableEq, Repr

/-- MOVI: imm15 as imm8 (bits 14:7) and the raw va field (bits 6:0) (R51). -/
structure OpMovi where
  imm : BitVec 8
  lo : BitVec 7
  vd : BitVec 7
  deriving DecidableEq, Repr

/-- UNPK: which half of the source (R100). -/
structure OpUnpk where
  ta : Bool
  n : BitVec 1
  va : BitVec 7
  vd : BitVec 7
  deriving DecidableEq, Repr

/-- BCAST: which lane of the slice is the source (R100). -/
structure OpBcast where
  ta : Bool
  n : BitVec 2
  va : BitVec 7
  vd : BitVec 7
  deriving DecidableEq, Repr

/-- VGET: the selector in the vb field (R100). -/
structure OpVget where
  sel : BitVec 7
  va : BitVec 7
  vd : BitVec 7
  deriving DecidableEq, Repr

/-- Format X: two S sources and an S destination (R54). -/
structure OpX where
  sb : BitVec 6
  sa : BitVec 6
  sd : BitVec 6
  deriving DecidableEq, Repr

/-- SADDI: an immediate, an S source and an S destination (R51, R54). -/
structure OpXI where
  imm : BitVec 8
  sa : BitVec 6
  sd : BitVec 6
  deriving DecidableEq, Repr

/-- SMOVI and SMOVHI: imm15 and an S destination (R51). -/
structure OpSmovi where
  imm : BitVec 8
  lo : BitVec 7
  sd : BitVec 6
  deriving DecidableEq, Repr

/-- Format X with one S source (R54). -/
structure OpX1 where
  sa : BitVec 6
  sd : BitVec 6
  deriving DecidableEq, Repr

/-- VPUT: the lane number, a V source and an S destination. -/
structure OpVput where
  ta : Bool
  n : BitVec 7
  va : BitVec 7
  sd : BitVec 6
  deriving DecidableEq, Repr

/-- FCVT: target and source format codes. -/
structure OpFcvt where
  ta : Bool
  tgt : BitVec 3
  src : BitVec 3
  va : BitVec 7
  vd : BitVec 7
  deriving DecidableEq, Repr

/-- ICVTF and FCVTI: integer and floating-point codes. -/
structure OpIcvt where
  ta : Bool
  icode : BitVec 4
  fcode : BitVec 3
  va : BitVec 7
  vd : BitVec 7
  deriving DecidableEq, Repr

/-- Format B: join and target offsets, sense and mask (R53). -/
structure OpB where
  join : BitVec 8
  target : BitVec 10
  sense : Bool
  mreg : BitVec 3
  deriving DecidableEq, Repr

/-- BRAI and CALLI: a join offset and an address pair. -/
structure OpBI where
  join : BitVec 8
  ta : Bool
  va : BitVec 7
  deriving DecidableEq, Repr

/-- Format I with only an immediate. -/
structure OpImm where
  imm : BitVec 8
  deriving DecidableEq, Repr

/-- SREAD: a system register number and an S destination. -/
structure OpSread where
  num : BitVec 8
  sd : BitVec 6
  deriving DecidableEq, Repr

/-- SWRITE: a system register number and an S source. -/
structure OpSwrite where
  num : BitVec 8
  sa : BitVec 6
  deriving DecidableEq, Repr

/-- Format M without a data register (R52). -/
structure OpMC where
  off : BitVec 3
  cnt : BitVec 4
  ta : Bool
  va : BitVec 7
  deriving DecidableEq, Repr

/-- VOTE: kind, mask register and destination. -/
structure OpVote where
  sel : BitVec 7
  ma : BitVec 3
  vd : BitVec 7
  deriving DecidableEq, Repr

/-- ELECT: the mask register written. -/
structure OpElect where
  md : BitVec 3
  deriving DecidableEq, Repr

/-- REDUCE: the operator code in the vb field. -/
structure OpReduce where
  ta : Bool
  op : BitVec 4
  va : BitVec 7
  vd : BitVec 7
  deriving DecidableEq, Repr

/-- SCAN: the operator code and the exclusive bit in the vb field. -/
structure OpScan where
  ta : Bool
  op : BitVec 5
  va : BitVec 7
  vd : BitVec 7
  deriving DecidableEq, Repr

/-- RANK: the mask register read and the destination. -/
structure OpRank where
  ma : BitVec 3
  vd : BitVec 7
  deriving DecidableEq, Repr

/-- Format M of a load: offset, counter, address pair, destination (R52). -/
structure OpL where
  off : BitVec 3
  cnt : BitVec 4
  ta : Bool
  va : BitVec 7
  vd : BitVec 7
  deriving DecidableEq, Repr

/-- Format M with a data register read under trap bit td (R52). -/
structure OpS where
  off : BitVec 3
  cnt : BitVec 4
  td : Bool
  ta : Bool
  va : BitVec 7
  vd : BitVec 7
  deriving DecidableEq, Repr

/-- PREFETCH: the level in the vd field. -/
structure OpPre where
  off : BitVec 3
  ta : Bool
  va : BitVec 7
  level : BitVec 7
  deriving DecidableEq, Repr

/-- WAITC: the threshold, or the S register that holds it, and the counter. -/
structure OpWaitc where
  imm : BitVec 8
  va : BitVec 7
  bySa : Bool
  n : BitVec 4
  deriving DecidableEq, Repr

/-- MONITOR: offset and address pair. -/
structure OpMon where
  off : BitVec 3
  ta : Bool
  va : BitVec 7
  deriving DecidableEq, Repr

/-- Format A with a V destination only. -/
structure OpD where
  vd : BitVec 7
  deriving DecidableEq, Repr

/-- SPCMP: the pattern selector in the vb field. -/
structure OpSpcmp where
  ta : Bool
  sel : BitVec 7
  va : BitVec 7
  vd : BitVec 7
  deriving DecidableEq, Repr

/-- CONSORT: the pair that lane 0 reads. -/
structure OpConsort where
  va : BitVec 7
  deriving DecidableEq, Repr

/-- FINV: the pair that holds the handle. -/
structure OpFinv where
  tb : Bool
  vb : BitVec 7
  deriving DecidableEq, Repr

/-- Format X with an S destination only. -/
structure OpSd where
  sd : BitVec 6
  deriving DecidableEq, Repr

/-- The 16-bit form: trap bit, second source, destination and first source (R46). -/
structure Op16 where
  ta : Bool
  va : BitVec 5
  vd : BitVec 5
  deriving DecidableEq, Repr

/-- The 16-bit form with a signed 5-bit immediate (R46). -/
structure Op16I where
  ta : Bool
  imm : BitVec 5
  vd : BitVec 5
  deriving DecidableEq, Repr

/-- MOVI in the 16-bit form (R46). -/
structure Op16M where
  imm : BitVec 5
  vd : BitVec 5
  deriving DecidableEq, Repr

/-- MODP (R56). -/
structure Modp where
  sat : Bool
  alt : Bool
  pack : BitVec 2
  tc : Bool
  vc : BitVec 7
  rnd : BitVec 3
  zi : Bool
  mask : BitVec 3
  deriving DecidableEq, Repr

/-- PBLK (R62): the pattern, the number of covered instructions minus one, and the mask register. -/
structure Pblk where
  pattern : BitVec 8
  count : BitVec 3
  mask : BitVec 3
  deriving DecidableEq, Repr


/-- The instructions and events of the opcode table. -/
inductive Instr where
  /-- IADD (R93): Adds two integer sources per element, wrapping or saturating, and delivers the result. -/
  | iadd (o : OpA)
  /-- ISUB (R93): Subtracts vb from va per element, wrapping or saturating. -/
  | isub (o : OpA)
  /-- IMIN (R93): Signed minimum per element. -/
  | imin (o : OpA)
  /-- IMAX (R93): Signed maximum per element. -/
  | imax (o : OpA)
  /-- IMINU (R93): Unsigned minimum per element. -/
  | iminu (o : OpA)
  /-- IMAXU (R93): Unsigned maximum per element. -/
  | imaxu (o : OpA)
  /-- IADDC (R93): Delivers the carry out of a + b + (c AND 1). -/
  | iaddc (o : OpA)
  /-- IABSD (R93): Absolute difference per element. -/
  | iabsd (o : OpA)
  /-- IMUL (R94): Low bits of the product per element, wrapping or saturating. -/
  | imul (o : OpA)
  /-- IMULH (R94): High 32 bits of the signed 64-bit product. -/
  | imulh (o : OpA)
  /-- IMULHU (R94): High 32 bits of the unsigned 64-bit product. -/
  | imulhu (o : OpA)
  /-- IMAD (R94): Integer multiply-add a × b + c per element. -/
  | imad (o : OpA)
  /-- IDOT4 (R94): Signed four-byte dot product added to c. -/
  | idot4 (o : OpA)
  /-- IDOT4U (R94): Unsigned four-byte dot product added to c. -/
  | idot4u (o : OpA)
  /-- POPC (R94): Counts the one bits of each element. -/
  | popc (o : OpA1)
  /-- CLZ (R94): Counts the leading zero bits of each element. -/
  | clz (o : OpA1)
  /-- AND (R95): Bitwise AND. -/
  | andB (o : OpA)
  /-- OR (R95): Bitwise OR. -/
  | orB (o : OpA)
  /-- XOR (R95): Bitwise exclusive OR. -/
  | xorB (o : OpA)
  /-- ANDN (R95): Bitwise a AND NOT b. -/
  | andn (o : OpA)
  /-- ORN (R95): Bitwise a OR NOT b. -/
  | orn (o : OpA)
  /-- XNOR (R95): Bitwise NOT (a XOR b). -/
  | xnor (o : OpA)
  /-- SEL (R95): Bitwise select of a or b under c. -/
  | sel (o : OpA)
  /-- BREV (R95): Reverses the bits of each element. -/
  | brev (o : OpA1)
  /-- SHL (R96): Shifts each element left by its amount. -/
  | shl (o : OpA)
  /-- SHR (R96): Logical right shift per element. -/
  | shr (o : OpA)
  /-- SAR (R96): Arithmetic right shift per element. -/
  | sar (o : OpA)
  /-- ROL (R96): Rotates each element left by amount mod w. -/
  | rol (o : OpA)
  /-- ROR (R96): Rotates each element right by amount mod w. -/
  | ror (o : OpA)
  /-- FSHL (R96): Funnel shift left of the pair a:c, high word delivered. -/
  | fshl (o : OpA)
  /-- BFX (R96): Extracts a bit field of a, sign- or zero-extended. -/
  | bfx (o : OpA)
  /-- BFI (R96): Inserts the low bits of a into a field of c. -/
  | bfi (o : OpA)
  /-- ICMP_EQ (R97): Sets the mask bit where a equals b. -/
  | icmpEq (o : OpC)
  /-- ICMP_NE (R97): Sets the mask bit where a differs from b. -/
  | icmpNe (o : OpC)
  /-- ICMP_LT (R97): Signed less-than compare into a mask. -/
  | icmpLt (o : OpC)
  /-- ICMP_LE (R97): Signed less-or-equal compare into a mask. -/
  | icmpLe (o : OpC)
  /-- ICMP_GT (R97): Signed greater-than compare into a mask. -/
  | icmpGt (o : OpC)
  /-- ICMP_GE (R97): Signed greater-or-equal compare into a mask. -/
  | icmpGe (o : OpC)
  /-- ICMP_LTU (R97): Unsigned less-than compare into a mask. -/
  | icmpLtu (o : OpC)
  /-- ICMP_GEU (R97): Unsigned greater-or-equal compare into a mask. -/
  | icmpGeu (o : OpC)
  /-- IADDI (R98): Adds a signed immediate per element. -/
  | iaddi (o : OpI)
  /-- ANDI (R98): ANDs with a sign-extended immediate. -/
  | andi (o : OpI)
  /-- ORI (R98): ORs with a sign-extended immediate. -/
  | ori (o : OpI)
  /-- XORI (R98): Exclusive-ORs with a sign-extended immediate. -/
  | xori (o : OpI)
  /-- SHLI (R98): Left shift by an immediate amount. -/
  | shli (o : OpI)
  /-- SHRI (R98): Logical right shift by an immediate amount. -/
  | shri (o : OpI)
  /-- SARI (R98): Arithmetic right shift by an immediate amount. -/
  | sari (o : OpI)
  /-- MOVI (R98): Loads a sign-extended 15-bit immediate, or 32 bits under IMMX. -/
  | movi (o : OpMovi)
  /-- MOV (R99): Copies va to vd, checking its source. -/
  | mov (o : OpA1)
  /-- MOVHI (R99): Places the low half of va above the low half of vc. -/
  | movhi (o : OpA1)
  /-- LEA (R99): Adds an extended 32-bit offset to a 64-bit address pair. -/
  | lea (o : OpA)
  /-- PACK (R100): Narrows two sources into packed elements. -/
  | pack (o : OpA)
  /-- UNPK (R100): Widens half of the packed elements of va. -/
  | unpk (o : OpUnpk)
  /-- PERM (R101): Permutes bytes of va and vc under vb selectors. -/
  | perm (o : OpA)
  /-- BCAST (R101): Broadcasts va of one lane of the slice to the slice's lanes. -/
  | bcast (o : OpBcast)
  /-- VGET (R102): Fills a V register from an S register or a lane number. -/
  | vget (o : OpVget)
  /-- SADD (R103): Scalar wrapping add. -/
  | sadd (o : OpX)
  /-- SSUB (R103): Scalar wrapping subtract. -/
  | ssub (o : OpX)
  /-- SMUL (R103): Scalar wrapping multiply. -/
  | smul (o : OpX)
  /-- SAND (R103): Scalar AND. -/
  | sand (o : OpX)
  /-- SOR (R103): Scalar OR. -/
  | sor (o : OpX)
  /-- SXOR (R103): Scalar exclusive OR. -/
  | sxor (o : OpX)
  /-- SSHL (R103): Scalar left shift. -/
  | sshl (o : OpX)
  /-- SSHR (R103): Scalar logical right shift. -/
  | sshr (o : OpX)
  /-- SADDI (R104): Scalar add of a signed immediate. -/
  | saddi (o : OpXI)
  /-- SMOVI (R104): Loads a sign-extended 15-bit immediate into an S register. -/
  | smovi (o : OpSmovi)
  /-- SCMP (R104): Signed three-way scalar compare giving -1, 0 or +1. -/
  | scmp (o : OpX)
  /-- SMOV (R104): Copies one S register to another. -/
  | smov (o : OpX1)
  /-- VPUT (R104): Copies va of one lane of the slice into an S register. -/
  | vput (o : OpVput)
  /-- SMOVHI (R104): Replaces the high half of Sa with an unsigned immediate. -/
  | smovhi (o : OpXI)
  /-- SSAR (R104): Scalar arithmetic right shift. -/
  | ssar (o : OpX)
  /-- SSEL (R104): Selects Sa if the old Sd is nonzero, else Sb. -/
  | ssel (o : OpX)
  /-- FADD (R111): Floating-point add, rounded once. -/
  | fadd (o : OpA)
  /-- FSUB (R111): Floating-point subtract, rounded once. -/
  | fsub (o : OpA)
  /-- FMUL (R111): Floating-point multiply, rounded once. -/
  | fmul (o : OpA)
  /-- FMIN (R111): minimumNumber selection. -/
  | fmin (o : OpA)
  /-- FMAX (R111): maximumNumber selection. -/
  | fmax (o : OpA)
  /-- FMINM (R111): minimum selection propagating NaN. -/
  | fminm (o : OpA)
  /-- FMAXM (R111): maximum selection propagating NaN. -/
  | fmaxm (o : OpA)
  /-- FCPYS (R111): Copies the sign of b onto a. -/
  | fcpys (o : OpA)
  /-- FFMA (R112): Fused a × b + c, rounded once. -/
  | ffma (o : OpA)
  /-- FFMS (R112): Fused a × b − c, rounded once. -/
  | ffms (o : OpA)
  /-- FNMA (R112): Fused −(a × b) + c, rounded once. -/
  | fnma (o : OpA)
  /-- FNMS (R112): Fused −(a × b) − c, rounded once. -/
  | fnms (o : OpA)
  /-- FDOT2 (R113): Exact two-term 16-bit dot product added to c, rounded once to FP32. -/
  | fdot2 (o : OpA)
  /-- FDOT4 (R113): Exact four-term 8-bit dot product added to c, rounded once to FP32. -/
  | fdot4 (o : OpA)
  /-- FSCALE (R114): Multiplies by 2^n with one rounding. -/
  | fscale (o : OpA)
  /-- FCMP_EQ (R115): Ordered equal compare into a mask. -/
  | fcmpEq (o : OpC)
  /-- FCMP_NE (R115): Not-equal or unordered compare into a mask. -/
  | fcmpNe (o : OpC)
  /-- FCMP_LT (R115): Ordered less-than compare into a mask. -/
  | fcmpLt (o : OpC)
  /-- FCMP_LE (R115): Ordered less-or-equal compare into a mask. -/
  | fcmpLe (o : OpC)
  /-- FCMP_GT (R115): Ordered greater-than compare into a mask. -/
  | fcmpGt (o : OpC)
  /-- FCMP_GE (R115): Ordered greater-or-equal compare into a mask. -/
  | fcmpGe (o : OpC)
  /-- FCMP_UN (R115): Unordered test into a mask. -/
  | fcmpUn (o : OpC)
  /-- FCMP_ORD (R115): Ordered test into a mask. -/
  | fcmpOrd (o : OpC)
  /-- FRCP (R117): Issues a correctly rounded reciprocal on the SFU, emptying vd. -/
  | frcp (o : OpA1)
  /-- FRSQ (R117): Issues a correctly rounded reciprocal square root on the SFU. -/
  | frsq (o : OpA1)
  /-- FSQRT (R117): Issues a correctly rounded square root on the SFU. -/
  | fsqrt (o : OpA1)
  /-- FEXP2 (R117): Issues a correctly rounded base-2 exponential on the SFU. -/
  | fexp2 (o : OpA1)
  /-- FLOG2 (R117): Issues a correctly rounded base-2 logarithm on the SFU. -/
  | flog2 (o : OpA1)
  /-- FSIN (R117): Issues a nearest-value sine on the SFU. -/
  | fsin (o : OpA1)
  /-- FCOS (R117): Issues a nearest-value cosine on the SFU. -/
  | fcos (o : OpA1)
  /-- FTANH (R117): Issues a nearest-value hyperbolic tangent on the SFU. -/
  | ftanh (o : OpA1)
  /-- FCVT (R121): Converts between float formats under the part shape rule. -/
  | fcvt (o : OpFcvt)
  /-- ICVTF (R121): Converts integer elements to float. -/
  | icvtf (o : OpIcvt)
  /-- FCVTI (R121): Converts float elements to saturated integers. -/
  | fcvti (o : OpIcvt)
  /-- FROUND (R122): Rounds each element to an integral value in its format. -/
  | fround (o : OpA1)
  /-- FCLASS (R123): Delivers a one-hot class mask per element. -/
  | fclass (o : OpA1)
  /-- DXPACK (R125): Packs 32 values per lane into one DX micro-block with its exponents. -/
  | dxpack (o : OpA1)
  /-- DXUNPK (R126): Unpacks one DX micro-block per lane to FP32 or 16-bit floats. -/
  | dxunpk (o : OpA1)
  /-- FEXPO (R124): Delivers floor(log2 |a|) as an integer. -/
  | fexpo (o : OpA1)
  /-- BRA (R142): Branches uniformly or divergently, pushing mask-stack entries and splitting the split. -/
  | bra (o : OpB)
  /-- BRAI (R142): Branches each lane to the address in its register pair. -/
  | brai (o : OpBI)
  /-- CALL (R143): Branches as BRA and writes the link into S62, S63. -/
  | call (o : OpB)
  /-- CALLI (R143): Branches as BRAI and writes the link into S62, S63. -/
  | calli (o : OpBI)
  /-- TRAP (R218): Raises TRAP for the split with the immediate in INFO. -/
  | trap (o : OpImm)
  /-- BKPT (R218): Raises BREAKPOINT, or stops the group when DBGEN is set. -/
  | bkpt (o : OpImm)
  /-- SREAD (R175): Reads a system register into an S register. -/
  | sread (o : OpSread)
  /-- SWRITE (R175): Writes an S register into a system register, slice by slice. -/
  | swrite (o : OpSwrite)
  /-- SLEEP (R174): Makes the split not ready for imm clk. -/
  | sleep (o : OpImm)
  /-- CACHE_IINV (R266): Drops the named lines from every instruction cache and fetch path of the module. -/
  | cacheIinv (o : OpMC)
  /-- CACHE_L1INV (R265): Drops the named lines from the issuing core's L1. -/
  | cacheL1inv (o : OpMC)
  /-- CACHE_L2CLEAN (R265): Writes dirty home-slice copies of the lines back to the MSC. -/
  | cacheL2clean (o : OpMC)
  /-- CACHE_L2FLUSH (R265): Cleans the lines and invalidates them at home, guests and L1 sharers. -/
  | cacheL2flush (o : OpMC)
  /-- VOTE (R151): Combines a mask over the participants (ANY, ALL, UNI or BALLOT). -/
  | vote (o : OpVote)
  /-- ELECT (R151): Sets a mask bit in the lowest participant only. -/
  | elect (o : OpElect)
  /-- MATCH (R151): Delivers the ballot of participants holding an equal value. -/
  | matchV (o : OpA1)
  /-- SHFL (R151): Reads va from the participant lane named by vb. -/
  | shfl (o : OpA)
  /-- REDUCE (R152): Reduces the operand over the group by a fixed tree. -/
  | reduce (o : OpReduce)
  /-- SCAN (R153): Computes an inclusive or exclusive prefix over the group. -/
  | scan (o : OpScan)
  /-- RANK (R151): Counts mask-set participants below each lane. -/
  | rank (o : OpRank)
  /-- LD_B8U (R161): Issues a zero-extended byte load, emptying vd and raising the counter. -/
  | ldB8u (o : OpL)
  /-- LD_B8S (R161): Issues a sign-extended byte load. -/
  | ldB8s (o : OpL)
  /-- LD_B16U (R161): Issues a zero-extended halfword load. -/
  | ldB16u (o : OpL)
  /-- LD_B16S (R161): Issues a sign-extended halfword load. -/
  | ldB16s (o : OpL)
  /-- LD_B32 (R161): Issues a word load. -/
  | ldB32 (o : OpL)
  /-- LD_B64 (R161): Issues a 64-bit load into a register pair. -/
  | ldB64 (o : OpL)
  /-- LD_B128 (R161): Issues a 16-byte load into four registers. -/
  | ldB128 (o : OpL)
  /-- LDC (R166): Issues a 4-byte load through the constant cache. -/
  | ldc (o : OpL)
  /-- ST_B8 (R162): Issues a byte store. -/
  | stB8 (o : OpS)
  /-- ST_B16 (R162): Issues a halfword store. -/
  | stB16 (o : OpS)
  /-- ST_B32 (R162): Issues a word store, or a STORE record on a deferred page. -/
  | stB32 (o : OpS)
  /-- ST_B64 (R162): Issues an 8-byte store. -/
  | stB64 (o : OpS)
  /-- ST_B128 (R162): Issues a 16-byte store as one access. -/
  | stB128 (o : OpS)
  /-- STNT (R162): Issues a 16-byte store written at the MSC without L1 or L2 allocation. -/
  | stnt (o : OpS)
  /-- PREFETCH (R167): Prefetches a line into the L1, home L2 slice or MSC without architectural effect. -/
  | prefetch (o : OpPre)
  /-- ATOM_ADD (R168): Issues an atomic add returning the old value. -/
  | atomAdd (o : OpS)
  /-- ATOM_MIN (R168): Issues an atomic signed minimum. -/
  | atomMin (o : OpS)
  /-- ATOM_MAX (R168): Issues an atomic signed maximum. -/
  | atomMax (o : OpS)
  /-- ATOM_AND (R168): Issues an atomic AND. -/
  | atomAnd (o : OpS)
  /-- ATOM_OR (R168): Issues an atomic OR. -/
  | atomOr (o : OpS)
  /-- ATOM_XOR (R168): Issues an atomic exclusive OR. -/
  | atomXor (o : OpS)
  /-- ATOM_EXCH (R168): Issues an atomic exchange. -/
  | atomExch (o : OpS)
  /-- ATOM_CAS (R168): Issues an atomic compare-and-swap. -/
  | atomCas (o : OpS)
  /-- ATOMF_FADD32 (R169): Issues an atomic FP32 add. -/
  | atomfFadd32 (o : OpS)
  /-- ATOMF_FADD64 (R169): Issues an atomic FP64 add. -/
  | atomfFadd64 (o : OpS)
  /-- ATOMF_FMIN32 (R169): Issues an atomic FP32 minimumNumber. -/
  | atomfFmin32 (o : OpS)
  /-- ATOMF_FMAX32 (R169): Issues an atomic FP32 maximumNumber. -/
  | atomfFmax32 (o : OpS)
  /-- ATOMF_FADDH2 (R169): Issues an atomic packed FP16 add. -/
  | atomfFaddh2 (o : OpS)
  /-- ATOMF_FADDB2 (R169): Issues an atomic packed BF16 add. -/
  | atomfFaddb2 (o : OpS)
  /-- ATOMF_INC (R169): Issues an atomic wrapping increment. -/
  | atomfInc (o : OpS)
  /-- ATOMF_DEC (R169): Issues an atomic wrapping decrement. -/
  | atomfDec (o : OpS)
  /-- WAITC (R171): Waits until a counter is at or below a threshold in every slice. -/
  | waitc (o : OpWaitc)
  /-- MONITOR (R172): Arms each slice's watch on a line. -/
  | monitor (o : OpMon)
  /-- SETTLE_L (R311): Waits until the masked lanes' own records are applied. -/
  | settleL (o : OpD)
  /-- SETTLE_T (R311): Arrives at a team round and waits until the team's records are applied. -/
  | settleT (o : OpD)
  /-- SETTLE_G (R311): Arrives at a grid round and waits until the grid's records are applied. -/
  | settleG (o : OpD)
  /-- SETTLE_P (R431): Arrives at the pod job's round and waits until every participant's records are applied. -/
  | settleP (o : OpD)
  /-- DST_STORE (R302): Appends a STORE record, or stores at once on a non-deferred page. -/
  | dstStore (o : OpS)
  /-- DST_ADD (R302): Appends an ADD record. -/
  | dstAdd (o : OpS)
  /-- DST_FADD (R302): Appends an FADD or FADDB record. -/
  | dstFadd (o : OpS)
  /-- DST_MIN (R302): Appends a MIN or MINU record. -/
  | dstMin (o : OpS)
  /-- DST_MAX (R302): Appends a MAX or MAXU record. -/
  | dstMax (o : OpS)
  /-- DST_OR (R302): Appends an OR record. -/
  | dstOr (o : OpS)
  /-- DST_AND (R302): Appends an AND record. -/
  | dstAnd (o : OpS)
  /-- DST_APPEND (R316): Appends an APPEND record naming a queue descriptor. -/
  | dstAppend (o : OpS)
  /-- MMA (R187): Dense group-wide multiply-accumulate, or a joint deposit with J. -/
  | mma (o : OpA)
  /-- MMAS (R190): Structured-sparse multiply-accumulate with metadata check. -/
  | mmas (o : OpA)
  /-- MMAD (R188): FP64 fused chain multiply-accumulate. -/
  | mmad (o : OpA)
  /-- SPCMP (R189): Prunes each lane's row to 4-of-8 or 2-of-4 with metadata. -/
  | spcmp (o : OpSpcmp)
  /-- XQT (R198): Transposes DX or INT4 fragments, repacking DX blocks. -/
  | xqt (o : OpA1)
  /-- SMXACC (R201): Accumulates one value into an online softmax state. -/
  | smxacc (o : OpA1)
  /-- SMXFIN (R202): Merges two online softmax states. -/
  | smxfin (o : OpA)
  /-- ACCZ (R199): Zeroes an accumulator range and resets the chunk state. -/
  | accz (o : OpD)
  /-- CONSORT (R191): Loads the group's CONSORT register from lane 0's pair. -/
  | consort (o : OpConsort)
  /-- MSCALE (R194): Loads macro scales and arms the group. -/
  | mscale (o : OpMC)
  /-- FRAGT (R197): Transposes fragment bits in place by squares. -/
  | fragt (o : OpA1)
  /-- SETFMT (R200): Writes F in each slice of the split. -/
  | setfmt (o : OpImm)
  /-- GETFMT (R200): Delivers F to each lane. -/
  | getfmt (o : OpD)
  /-- CPY (R246): Issues a per-lane chunk copy to the cluster copy engine. -/
  | cpy (o : OpX)
  /-- TCPY (R247): Issues a box copy between two layout records. -/
  | tcpy (o : OpX)
  /-- TCPYM (R248): Issues a multicast box copy into several batch members. -/
  | tcpym (o : OpX)
  /-- TSTORE (R249): Issues a pattern fill of a box. -/
  | tstore (o : OpX)
  /-- RPUSH (R214): Commits the head slot of a stage ring to the consumer. -/
  | rpush (o : OpX1)
  /-- RPOP (R214): Frees the tail slot of a stage ring. -/
  | rpop (o : OpX1)
  /-- RWAIT (R214): Waits for a free or filled slot and writes its address. -/
  | rwait (o : OpX)
  /-- BINIT (R209): Initialises a scratchpad barrier and advances its incarnation. -/
  | binit (o : OpX)
  /-- BARV (R209): Arrives at a scratchpad barrier with a count. -/
  | barv (o : OpX)
  /-- BWAIT (R211): Waits on a barrier token until its phase moves on or it resets. -/
  | bwait (o : OpX)
  /-- BTEST (R211): Examines a barrier token once. -/
  | btest (o : OpX)
  /-- BEXPECT (R209): Raises the outstanding arrivals of the current phase. -/
  | bexpect (o : OpX)
  /-- BINVAL (R209): Invalidates a barrier and wakes its waiters with RESET. -/
  | binval (o : OpX1)
  /-- TMINT (R275): Validates a record and mints a tile handle. -/
  | tmint (o : OpX1)
  /-- TFREE (R276): Frees a handle's directory entry. -/
  | tfree (o : OpX1)
  /-- TACQ (R277): Requests read or write tenure on a tile. -/
  | tacq (o : OpX)
  /-- TREL (R278): Releases tenure and reports its breach record. -/
  | trel (o : OpX1)
  /-- TSPLIT (R281): Splits a tile into two children along one axis. -/
  | tsplit (o : OpX)
  /-- TMERGE (R282): Rejoins two sibling children into their parent. -/
  | tmerge (o : OpX)
  /-- TSTAT (R280): Reports a tile's state without changing it. -/
  | tstat (o : OpX1)
  /-- TDOWN (R279): Turns write tenure into read tenure. -/
  | tdown (o : OpX1)
  /-- FETCH (R291): Issues a 16-byte run read of a tile per lane through the fetch unit. -/
  | fetch (o : OpA)
  /-- FETCHX (R293): Issues a gather through an index list tile. -/
  | fetchx (o : OpA)
  /-- FETCHS (R292): Issues an expansion of structured-sparse data. -/
  | fetchs (o : OpA)
  /-- FINV (R294): Drops a handle's lines from the core's fetch-unit cache. -/
  | finv (o : OpFinv)
  /-- SPAWN (R350): Pushes a child task block and counts it in the team's JOIN. -/
  | spawn (o : OpX1)
  /-- JOIN (R351): Waits until every spawned child has retired. -/
  | joinTask (o : OpSd)
  /-- JOIN_POLL (R351): Tests once whether every spawned child has retired. -/
  | joinPoll (o : OpSd)
  /-- LAUNCH (R352): Appends a LAUNCH command to a work queue from the device. -/
  | launchCmd (o : OpX)
  /-- TASKEND (R353): Retires the team's task now. -/
  | taskend (o : OpSd)
  /-- QSTAT (R354): Reports a queue's pending count or the ready task count. -/
  | qstat (o : OpX1)
  /-- RSHARD (R442): Submits a re-shard command and waits for its acceptance code. -/
  | rshard (o : OpX)
  /-- RSPOLL (R448): Reads a re-shard command's progress and status. -/
  | rspoll (o : OpX1)
  /-- MIGRATE (R425): Queues a migration of a migrate-on-count page to this module. -/
  | migrate (o : OpX1)
  /-- PEERID (R426): Reports the module's device number, pod size and up ports. -/
  | peerid (o : OpSd)
  /-- PEERID_Q (R426): Reports whether a peer is reachable and over how many planes. -/
  | peeridQ (o : OpX1)
  /-- MOV_16 (R47): 16-bit copy; with vd = va a no-op. -/
  | mov16 (o : Op16)
  /-- IADD_16 (R47): 16-bit two-address wrapping add. -/
  | iadd16 (o : Op16)
  /-- ISUB_16 (R47): 16-bit two-address wrapping subtract. -/
  | isub16 (o : Op16)
  /-- AND_16 (R47): 16-bit two-address AND. -/
  | and16 (o : Op16)
  /-- OR_16 (R47): 16-bit two-address OR. -/
  | or16 (o : Op16)
  /-- XOR_16 (R47): 16-bit two-address exclusive OR. -/
  | xor16 (o : Op16)
  /-- SHL_16 (R47): 16-bit two-address left shift. -/
  | shl16 (o : Op16)
  /-- SHR_16 (R47): 16-bit two-address logical right shift. -/
  | shr16 (o : Op16)
  /-- FADD_16 (R47): 16-bit two-address FP32 add. -/
  | fadd16 (o : Op16)
  /-- FSUB_16 (R47): 16-bit two-address FP32 subtract. -/
  | fsub16 (o : Op16)
  /-- FMUL_16 (R47): 16-bit two-address FP32 multiply. -/
  | fmul16 (o : Op16)
  /-- FMAX_16 (R47): 16-bit two-address FP32 maximumNumber. -/
  | fmax16 (o : Op16)
  /-- IADDI_16 (R47): 16-bit add of a signed 5-bit immediate. -/
  | iaddi16 (o : Op16I)
  /-- MOVI_16 (R47): 16-bit load of a signed 5-bit immediate. -/
  | movi16 (o : Op16M)
  /-- LD_16 (R47): 16-bit word load on counter C0 with offset 0. -/
  | ld16 (o : Op16)
  /-- IMUL_16 (R47): 16-bit two-address low-word multiply. -/
  | imul16 (o : Op16)
  /-- RET (R143): Sends each slice to the link in its S62, S63. -/
  | ret
  /-- REGANG (R135): Pops path entries at a join, parks arrived slices and merges with parked splits. -/
  | regang
  /-- EXIT (R138): Removes the masked lanes, retiring slices whose mask empties. -/
  | exit
  /-- YIELD (R144): Resets the split's AGE to now and its waiting count to zero. -/
  | yield
  /-- RTE (R218): Returns each slice from handler mode to its saved resume address and block state. -/
  | rte
  /-- NOP (R174): Takes one issue and does nothing. -/
  | nop
  /-- FENCE (R328): Orders the executing lanes' accesses at a scope and holds later memory issue until complete. -/
  | fence
  /-- MWAIT (R173): Puts the split to sleep until a watch triggers or the timeout passes. -/
  | mwait
  /-- BAR (R204): Arrives at the team barrier and waits for every live lane. -/
  | bar
  /-- GRIDSYNC (R345): Arrives at the co-operative grid barrier and waits. -/
  | gridsync
  /-- PODSYNC (R430): Arrives at the pod job barrier and waits. -/
  | podsync
  /-- MSCALE_OFF (R194): Disarms the group, clears KPOS and discards the chunk buffer. -/
  | mscaleOff
  /-- REPLY_LAND (R159): A load, atomic, fetch or MSCALE reply lands, fills its destination, marks it full and lowers the counter. -/
  | replyLand
  /-- STORE_PERFORMED (R160): A store is performed at its scope or appended to the log and its counter falls. -/
  | storePerformed
  /-- SFU_RESULT (R116): An SFU result lands and marks its destination full. -/
  | sfuResult
  /-- MATRIX_DELIVER (R186): The matrix engine delivers a destination range and ends its pending state. -/
  | matrixDeliver
  /-- JOINT_START (R192): With every consort member deposited, the joint operation starts on the leader's engine. -/
  | jointStart
  /-- RENDEZVOUS_TIMEOUT (R193): A latch deposit waits longer than SYS_BARWATCH and every deposited group takes RENDEZVOUS. -/
  | rendezvousTimeout
  /-- LATE_FAULT_DELIVERY (R217): A late fault is taken at the split's next issue boundary under the grid's fault policy. -/
  | lateFaultDelivery
  /-- BARRIER_STALL (R205): A barrier, ring or round wait exceeds SYS_BARWATCH and the waiting splits take BARRIER_STALL. -/
  | barrierStall
  /-- SPLIT_STARVED (R147): A ready split's waiting count reaches 256 and it is ordered first. -/
  | splitStarved
  /-- MWAIT_WAKE (R173): A triggered watch wakes a sleeping split and disarms its watches. -/
  | mwaitWake
  /-- MWAIT_TIMEOUT (R173): SYS_MWTIMEOUT clk pass and the sleeping split completes MWAIT. -/
  | mwaitTimeout
  /-- SLEEP_EXPIRY (R174): The SLEEP interval ends and the split becomes ready. -/
  | sleepExpiry
  /-- RNGSEED_WRITE (R29): A write to SYS_RNGSEED reseeds the generators of the slice's four lanes. -/
  | rngseedWrite
  /-- HOME_ACCESS (R259): An access reaches its home L2 slice and is served, allocated, tracked or held. -/
  | homeAccess
  /-- RECALL_RELEASE (R287): The holder's writes to the line are performed and the held access is served. -/
  | recallRelease
  /-- RECALL_RETRY (R287): A retried access is resent 256 clk after the holding space was full. -/
  | recallRetry
  /-- INVALIDATION (R259): An invalidation reaches an L1 or guest slice, which drops the region and acknowledges. -/
  | invalidation
  /-- REGION_MERGE (R260): Buddy region halves quiet for SYS_MERGEQUIET clk merge into their parent. -/
  | regionMerge
  /-- TENURE_GRANT (R284): A waiting tenure request is granted after the drain of the old holder. -/
  | tenureGrant
  /-- TENURE_TIMEOUT (R277): A tenure request waits longer than SYS_BARWATCH and is withdrawn with TIMEOUT. -/
  | tenureTimeout
  /-- COPY_START (R240): The copy engine is granted engine tenure and begins the transfer. -/
  | copyStart
  /-- COPY_COMPLETE (R240): A copy command completes, delivers its status and makes its barrier arrivals. -/
  | copyComplete
  /-- LOG_DRAIN (R303): A record drains from a core's log into its binning unit and joins or merges in a bin. -/
  | logDrain
  /-- BIN_AGE_EXPIRY (R305): An open bin reaches SYS_BINAGE clk and ships. -/
  | binAgeExpiry
  /-- INGRESS_BIN (R305): A bin from another module arrives and its records are re-binned. -/
  | ingressBin
  /-- BIN_APPLY (R379): A clearing engine applies a bin row by row and acknowledges it. -/
  | binApply
  /-- BIN_ACK (R380): A bin acknowledgement marks its records applied, forwarding to the source module if needed. -/
  | binAck
  /-- REFUSAL_NOTICE (R318): A refusal notice reaches its lane and raises its refusal count. -/
  | refusalNotice
  /-- SETTLE_COMPLETE (R311): Every covered record is applied and the SETTLE status is delivered. -/
  | settleComplete
  /-- DOORBELL (R387): A host doorbell write sets a queue's TAIL and wakes the dispatch controller. -/
  | doorbell
  /-- QUEUE_NOP (R337): A NOP command is consumed. -/
  | queueNop
  /-- QUEUE_LAUNCH (R337): A LAUNCH command begins when its grid is admitted. -/
  | queueLaunch
  /-- QUEUE_EVENT (R337): An EVENT command begins and waits for earlier grids to retire. -/
  | queueEvent
  /-- EVENT_WRITE (R337): Once earlier grids retire, the EVENT value is written at system scope and the vector raised. -/
  | eventWrite
  /-- QUEUE_WAIT (R337): A WAIT command holds the queue until a word reaches its target. -/
  | queueWait
  /-- WAIT_RECHECK (R337): The controller re-reads a WAIT word at least every 4096 clk. -/
  | waitRecheck
  /-- QUEUE_INVAL (R361): An INVAL command drops translations of an ASID or a range from every TLB. -/
  | queueInval
  /-- INVAL_TEARDOWN (R361): An INVAL with TEARDOWN frees the ASID's handles and invalidates its context entries. -/
  | invalTeardown
  /-- RESUME_REPLAY (R363): A RESUME command replays the held accesses of a fault record. -/
  | resumeReplay
  /-- RESUME_CANCEL (R363): A RESUME command cancels held accesses and delivers the fault to the policy. -/
  | resumeCancel
  /-- RESUME_UNITPC (R363): A RESUME command restarts a REPLAY-policy split at UNITPC. -/
  | resumeUnitpc
  /-- RESUME_NEXT (R363): A RESUME command restarts a REPLAY-policy split at the next issue unit. -/
  | resumeNext
  /-- RESUME_ABORT (R363): A RESUME command aborts the grid under ABORT_GRID. -/
  | resumeAbort
  /-- SEAL_RETRY (R389): After DELAY × 64 clk the controller re-reads a sealed command whose stamp mismatched. -/
  | sealRetry
  /-- DISPATCH_STEP (R343): The dispatch controller places waiting teams, serves queue heads and ready tasks, and pre-empts. -/
  | dispatchStep
  /-- TEAM_SAVE (R356): A team stops, drains and is written to the save pool. -/
  | teamSave
  /-- GRID_RETIRE (R344): Every lane has exited and every operation completed, so the grid's resources are released. -/
  | gridRetire
  /-- WATCHDOG (R344): A grid's run-time LIMIT expires and WATCHDOG is delivered late in every split. -/
  | watchdog
  /-- TASK_RETIRE (R348): A task retires, decrementing successors' PRED and its parent's JOIN. -/
  | taskRetire
  /-- PAGE_WALK (R359): A translation walk completes and fills the TLBs or faults. -/
  | pageWalk
  /-- FAULT_QUEUE_WRITE (R362): A fault record is written into the die's fault queue once a slot is free. -/
  | faultQueueWrite
  /-- DEBUG_HALT (R219): A debugger halt request stops the group, or the team, at the next boundary. -/
  | debugHalt
  /-- SINGLE_STEP (R220): The stopped split runs exactly one issue unit and stops again. -/
  | singleStep
  /-- DEBUG_RESUME (R220): The debugger resumes a halted group, every split running from its boundary. -/
  | debugResume
  /-- HOST_REG_WRITE (R386): The host writes a BAR0 register that has no row of its own. -/
  | hostRegWrite
  /-- BAR0_BAD_ACCESS (R384): A BAR0 access of bad size, alignment or offset is dropped or reads zero and counts in BADACC. -/
  | bar0BadAccess
  /-- CHIPCARVE_WRITE (R254): The host writes SYS_CHIPCARVE, which waits for grids with chip allocations to retire. -/
  | chipcarveWrite
  /-- CHIPCARVE_APPLY (R254): The new carving takes effect, writing back and evicting lines from the taken ways. -/
  | chipcarveApply
  /-- RESCTL_WRITE (R256): The host writes a residency range control, ignored if it breaks the way limits. -/
  | resctlWrite
  /-- HOST_BAR2_READ (R385): A host read through BAR2 is translated and performed at system scope. -/
  | hostBar2Read
  /-- HOST_BAR2_WRITE (R385): A host write through BAR2 is translated and performed at system scope. -/
  | hostBar2Write
  /-- KEY_LOAD (R382): The security controller writes back lines tagged with a key index and installs a new key. -/
  | keyLoad
  /-- BRING_UP (R390): Power-on or fundamental reset runs the bring-up stages to READY. -/
  | bringUp
  /-- STAGE_TIMEOUT (R390): A bring-up stage exceeds its limit and bring-up stops with FAIL. -/
  | stageTimeout
  /-- SET_POWER_CAP (R394): A management message sets the module's power cap. -/
  | setPowerCap
  /-- CLOCK_LOWER (R394): Power above the cap or a 105 °C junction lowers the arithmetic clock by 20 MHz. -/
  | clockLower
  /-- CLOCK_RAISE (R394): After 100 ms clear, the arithmetic clock is raised again. -/
  | clockRaise
  /-- THERMAL_TRIP (R394): A 120 °C junction removes power and counts a thermal trip. -/
  | thermalTrip
  /-- FW_IMAGE_WRITE (R396): Management messages write a new image into a controller's inactive slot. -/
  | fwImageWrite
  /-- LIVE_UPDATE (R396): An update request holds launches, hands over state and starts the new image. -/
  | liveUpdate
  /-- ALIVE (R396): The new image posts alive and becomes the active slot. -/
  | aliveMsg
  /-- UPDATE_ROLLBACK (R398): A late import or missing alive rolls the update back to the previous image. -/
  | updateRollback
  /-- FLOOR_RAISE (R395): A management message raises a controller's version floor to the running version. -/
  | floorRaise
  /-- LIFETIME_READ (R400): A management message reads the lifetime record. -/
  | lifetimeRead
  /-- LIFETIME_PERSIST (R400): Every 600 s the lifetime counts are written to the non-volatile store. -/
  | lifetimePersist
  /-- POWER_DOWN (R400): An orderly power-down writes the lifetime counts. -/
  | powerDown
  /-- GET_VERSION (R399): SPDM request for the supported version. -/
  | getVersion
  /-- GET_CAPABILITIES (R399): SPDM request for capabilities. -/
  | getCapabilities
  /-- NEGOTIATE_ALGORITHMS (R399): SPDM algorithm negotiation. -/
  | negotiateAlgorithms
  /-- GET_DIGESTS (R399): SPDM request for certificate chain digests. -/
  | getDigests
  /-- GET_CERTIFICATE (R399): SPDM request for the certificate chain. -/
  | getCertificate
  /-- CHALLENGE (R399): SPDM challenge signed with the module identity key. -/
  | challenge
  /-- GET_MEASUREMENTS (R399): SPDM request for the image digests and version floors. -/
  | getMeasurements
  /-- SET_ARREARS (R418): A management message sets the arrears thresholds in every core. -/
  | setArrears
  /-- MIGRATION_POOL (R424): A management message gives frames to the migration pool. -/
  | migrationPool
  /-- POD_JOB_REGISTER (R429): The host registers a pod job with its participants. -/
  | podJobRegister
  /-- POD_ARRIVAL_MSG (R429): A tier-0 arrival message reaches the pod job leader. -/
  | podArrivalMsg
  /-- POD_COMPLETION_MSG (R429): A tier-0 completion message reaches a participant and ends its round. -/
  | podCompletionMsg
  /-- FLIT_RECEIVE (R415): A flit arrives; a CRC failure drops it and triggers replay. -/
  | flitReceive
  /-- LINK_RETRAIN (R415): Sixteen failed replays retrain the link, which goes down if retraining fails. -/
  | linkRetrain
  /-- ARREARS_WIN (R418): A tier's arrears counter reaches its threshold and the tier wins the next grant. -/
  | arrearsWin
  /-- REMOTE_ACCESS (R420): A remote request arrives and is served at the home die of its PA. -/
  | remoteAccess
  /-- REMOTE_STORE_ACK (R421): A home acknowledgement performs a remote store and releases held later stores. -/
  | remoteStoreAck
  /-- DELIVERY_TIMEOUT (R428): A request's response misses the delivery limit and the request fails with FABRIC. -/
  | deliveryTimeout
  /-- MIGRATION_RUN (R424): The fabric manager holds, copies and remaps a page to its new module. -/
  | migrationRun
  /-- RESHARD_ACCEPT (R443): The engine reads the descriptors and record, checks them and writes the acceptance code. -/
  | reshardAccept
  /-- RESHARD_STEP_COMPLETE (R438): A plan step's writes are performed at device scope. -/
  | reshardStepComplete
  /-- PROGRESS_WRITE (R441): Every 4096 clk an active command writes its progress words to memory. -/
  | progressWrite
  /-- RESHARD_END (R446): A command ends, writes its record, delivers Vs and releases its tenure. -/
  | reshardEnd
  /-- RESHARD_STOP (R444): A save, abort or step error stops the command after started steps complete. -/
  | reshardStop
  /-- POWER_LOSS (R400): Power is lost without an orderly power-down: MSC contents and lifetime counts since the last persist are lost. -/
  | powerLoss
  /-- DBGCTL_HOST_WRITE (R219): The host debug agent writes a team's SYS_DBGCTL through the queue interface, and the change takes effect at the next issue-unit boundary. -/
  | dbgctlHostWrite
  /-- STEP_CANCEL (R220): The debugger cancels a pending single step of a split waiting in an unissued unit. -/
  | stepCancel
  /-- HISTOGRAM_MINUTE (R400): Each minute the controller adds to the temperature and voltage histogram bins, and the powered-hours count advances. -/
  | histogramMinute
  deriving DecidableEq, Repr

end Sys2Proof
end

