-- ==== Sys2Proof/Machine/State.lean ====
section
/-! DEFINITION. The state of one SX768 module as plain data, and the state right after reset. The state is
grouped by where the spec keeps things: register files, what runs, memories, caches and accesses in
flight, engines, die registers and dispatch, package, fabric, and the model's own bookkeeping. A table
lists what differs from the value at team start (or reset), which each accessor in Machine/Ops.lean
names. -/

namespace Sys2Proof.Machine

/-- A lane: resident team, group of the team, lane number within the group. -/
structure LaneId where
  t : Nat
  g : Nat
  l : Nat
  deriving DecidableEq, Repr

/-- A slice: resident team, group, slice of the group. -/
structure SliceId where
  t : Nat
  g : Nat
  s : Nat
  deriving DecidableEq, Repr

/-- A group of a resident team. -/
structure GroupId where
  t : Nat
  g : Nat
  deriving DecidableEq, Repr

/-- The role of a group (R130, R148). -/
inductive Role where
  | copy | matrix | vector | general
  deriving DecidableEq, Repr

/-- Fault policy of a grid (R217, R338). -/
inductive Policy where
  | abortGrid | handler | replay
  deriving DecidableEq, Repr

/-- A memory order (R59). -/
inductive Order where
  | relaxed | acquire | release | acqRel | sc
  deriving DecidableEq, Repr

/-- A scope (R319). -/
inductive Scope where
  | lane | team | cluster | device | pod | system
  deriving DecidableEq, Repr

/-- A mask-stack entry (R87); `isJoin` tells the join entry of a divergence from a path entry (R134). -/
structure StackEntry where
  pc : Pc
  mask : BitVec 4
  join : Pc
  fcopy : BitVec 3
  isJoin : Bool
  deriving DecidableEq, Repr

/-- The watch of MONITOR (R172): the line it is armed on, whether it has triggered, and the name of the access whose read arms
it. -/
structure Watch where
  line : Nat
  triggered : Bool
  by_ : Nat := 0
  deriving DecidableEq, Repr

/-- What a slice holds beside its S, M and C registers (R80, R81, R86, R87). -/
structure Slice where
  f : BitVec 3 := 0
  fpctl : Word := 8
  rngSeed : Word := 0
  mwTimeout : Word := 0x00010000
  faultRec : List Word := []
  epc : Pc := 0
  ebCount : Nat := 0
  ebPattern : BitVec 8 := 0
  ebMask : BitVec 4 := 0
  hmode : Bool := false
  stack : List StackEntry := []
  mask : BitVec 4 := 15
  blkMask : BitVec 4 := 0
  watch : Option Watch := none
  gone : Bool := false
  deriving DecidableEq, Repr

/-- What a lane holds beside its V registers: generator state (0: as the launch seeded it, since the state
is never 0 otherwise, R29), and the refusal state of APPEND (R313, R315). -/
structure Lane where
  gen : Word := 0
  refused : Nat := 0
  rsat : Bool := false
  lost : Bool := false
  badq : Bool := false
  deriving DecidableEq, Repr

/-- An exact dyadic number: sign, magnitude and binary exponent; or a special value (R18, R39). -/
inductive XVal where
  | nan
  | inf (neg : Bool)
  | fin (neg : Bool) (m : Nat) (e : Int)
  deriving DecidableEq, Repr

/-- What a group holds (R129, R130, R191 to R196, R219, R220). -/
structure Group where
  role : Role := .general
  pipe : Nat := 0
  half : Nat := 0
  consort : BitVec 48 := 0
  sa : List Word := []
  sb : Word := 0
  armed : Bool := false
  kpos : Nat := 0
  bind : Option (Nat × Nat) := none
  chunk : List XVal := []
  mscBusy : Nat := 0
  halted : Bool := false
  stopped : Option Nat := none
  stepping : Bool := false
  deriving DecidableEq, Repr

/-- A frame of a split's frame list (R131). -/
structure Frame where
  join : Pc
  token : Nat
  deriving DecidableEq, Repr

/-- What a split waits in without being examined for issue: the unit it has issued (BAR, GRIDSYNC,
PODSYNC, SETTLE, MWAIT, SLEEP, RSHARD acceptance) or the record it is held for (REPLAY). -/
inductive Park where
  | run
  | bar (unitPc : Pc)
  | gridsync (unitPc : Pc)
  | podsync (unitPc : Pc)
  | settle (kind : Nat) (vd : Nat) (lanes : List Nat) (opn : Nat) (unitPc : Pc) (arrived : Bool)
  | mwait (until_ : Nat)
  | sleep (until_ : Nat)
  | rshard (cmd : Nat)
  | replay (unitPc wordPc : Pc)
  deriving DecidableEq, Repr

/-- The FENCE in force on a split: executing lanes, order, scope and the unit number it stands at
(R328). -/
structure FenceIn where
  lanes : List Nat
  order : Order
  scope : Scope
  seq : Nat
  deriving DecidableEq, Repr

/-- A fault as raised, before its record is built (R215): code, register, lanes (none: the split's active
lanes), address, INFO, detecting word, unit. -/
structure FaultInfo where
  code : Nat
  reg : Nat := 0
  lanes : Option (List Nat) := none
  addr : Nat := 0
  info : Nat := 0
  wordPc : Option Pc := none
  unitPc : Pc := 0
  held : Bool := false
  replayable : Bool := false
  late : Bool := false
  deriving DecidableEq, Repr

/-- The barrier word that a split waits on in BWAIT: its location, the token, and the word at the first change since that answered
the token (R211). -/
structure Await where
  loc : Nat
  token : Nat
  found : Option Nat := none
  deriving DecidableEq, Repr

/-- An entry of the split table (R131), with what the split waits in; `able`: at the last clk it was ready and its unit
could issue (R146, R147); `await` the barrier word of a BWAIT that waits. -/
structure Split where
  sid : Nat
  team : Nat
  group : Nat
  tix : Nat
  pc : Pc
  slices : List Nat
  frames : List Frame := []
  wait : Bool := false
  age : Nat := 0
  wcount : Nat := 0
  blkPattern : BitVec 8 := 0
  blkCount : Nat := 0
  park : Park := .run
  waitFrom : Option Nat := none
  fences : List FenceIn := []
  late : List FaultInfo := []
  able : Bool := false
  await : Option Await := none
  deriving DecidableEq, Repr

/-- The launch record (R338). -/
structure Launch where
  entry : Pc := 0
  trapPc : Nat := 0
  tag : Nat := 0
  spill : Nat := 0
  dieMask : Nat := 0
  chain : Nat := 0
  prio : Nat := 0
  policy : Policy := .abortGrid
  spread : Bool := false
  coop : Bool := false
  width : Nat := 16
  pair : Bool := false
  lanes : Nat := 16
  roles : List Nat := [0, 0, 0, 1]
  regs : List Nat := [0, 0, 0, 128]
  asid : Nat := 0
  scratch : Nat := 0
  cluster : Nat := 0
  lanePriv : Nat := 0
  chip : Nat := 0
  gridX : Nat := 1
  gridY : Nat := 1
  gridZ : Nat := 1
  limit : Nat := 0
  taskBase : Nat := 0
  taskN : Nat := 0
  args : List Word := []
  deriving DecidableEq, Repr

/-- Where a team stands in its life (R341, R355, R356). -/
inductive TStatus where
  | waiting | running | saving | saved | retired
  deriving DecidableEq, Repr

/-- A team of an admitted grid, or of a task (R340, R347); `slots` the resident slices of its cores that its slices take
(R316, R341), `unzeroed` the 16-byte pieces of its spill area that could not be cleared at its start (R89). -/
structure Team where
  uid : Nat
  grid : Nat
  index : Nat := 0
  die : Nat := 0
  core : Nat := 0
  batch : Nat := 0
  member : Nat := 0
  status : TStatus := .running
  taskBlk : Nat := 0xFFFFFFFF
  isTask : Bool := false
  taskDone : Bool := false
  barWatch : Word := 0x01000000
  dbgen : Bool := false
  teamStop : Bool := false
  barFrom : Option Nat := none
  settleFrom : Option Nat := none
  savedLate : Bool := false
  slots : List Nat := []
  unzeroed : List Nat := []
  deriving DecidableEq, Repr

/-- A grid admitted from a queue (R342), with the count of its teams placed so far; a task's team has a grid
record of its own that names its parent grid. -/
structure Grid where
  uid : Nat
  launch : Launch
  queue : Nat := 0
  die : Nat := 0
  admitted : Nat := 0
  residentFrom : Nat := 0
  chipBase : Tab Nat Nat := []
  aborted : Bool := false
  watchdogDone : Bool := false
  syncFrom : Option Nat := none
  settleFrom : Option Nat := none
  chainEnd : Bool := false
  placed : Nat := 0
  parent : Option Nat := none
  retired : Bool := false
  deriving DecidableEq, Repr

/-- What exec reads of the issue unit under way (log entry 2): the split and the unit's addresses and
prefixes (R44, R56, R65), the pattern bit of the block that covers it (R61), and whether exec found that
the unit only waits. -/
structure Issue where
  sid : Nat := 0
  team : Nat := 0
  group : Nat := 0
  unitPc : Pc := 0
  wordPc : Pc := 0
  nextPc : Pc := 0
  modp : Option Modp := none
  immx : Option Nat := none
  cond : Option Bool := none
  waited : Bool := false
  deriving DecidableEq, Repr

/-- What an event acts on (log entry 1). -/
structure EventArg where
  id : Nat := 0
  n : Nat := 0
  value : Nat := 0
  size : Nat := 0
  flag : Bool := false
  list : List Nat := []
  deriving DecidableEq, Repr

/-- One turn of the agenda (log entry 1): a split issues, or an event happens. -/
inductive Turn where
  | issue (sid : Nat)
  | event (i : Instr) (arg : EventArg)
  deriving DecidableEq, Repr

/-- The register files (R71, R80). -/
structure Regs where
  v : Tab (LaneId × Nat) Word := []
  ve : Tab (LaneId × Nat) Bool := []
  sr : Tab (SliceId × Nat) Word := []
  mr : Tab (SliceId × Nat) (BitVec 4) := []
  cn : Tab (SliceId × Nat) Nat := []
  sl : Tab SliceId Slice := []
  ln : Tab LaneId Lane := []
  gr : Tab GroupId Group := []
  deriving DecidableEq, Repr

/-- What runs: teams, grids and the split tables (R131, R341). -/
structure Run where
  teams : List Team := []
  grids : List Grid := []
  splits : List Split := []
  deriving DecidableEq, Repr

/-- The attributes of a leaf (R359): page base and size in the address space, frame, and fields. -/
structure Leaf where
  va : Nat := 0
  size : Nat := 0
  frame : Nat := 0
  peer : Nat := 0
  key : Nat := 0
  mode : Nat := 0
  il : Nat := 0
  df : Bool := false
  ut : Bool := false
  x : Bool := false
  w : Bool := false
  r : Bool := false
  deriving DecidableEq, Repr

/-- Which TLB holds a translation (R360). -/
inductive TlbAt where
  | core (c : Nat)
  | cluster (c : Nat)
  | die (d : Nat)
  deriving DecidableEq, Repr

/-- A cached translation (R360). -/
structure TlbEntry where
  at_ : TlbAt
  asid : Nat
  leaf : Leaf
  deriving DecidableEq, Repr

/-- Who holds a copy of a line that stores do not reach (R45, R166, R263, R289, R333, R334): instruction
cache, constant cache, an L1 (untracked or cached-remote lines), each with the physical address under which it knows the
line (R375), a die's L2 (cached-remote lines), the MSC for a line dirty at its home slice, or the line of another physical
address of the same location (R375). -/
inductive Holder where
  | icache (core asid pa : Nat)
  | ccache (core asid pa : Nat)
  | l1 (core pa : Nat)
  | guest (die : Nat)
  | msc
  | atPa (pa : Nat)
  deriving DecidableEq, Repr

/-- A copy of a 128-byte line: the bytes overwritten at home since the copy was taken. Every other byte of
the copy equals home. -/
structure Snap where
  holder : Holder
  line : Nat
  old : List Host.Cell := []
  deriving DecidableEq, Repr

/-- A line present in an L2 slice: of its home die, or a guest copy of another die (R253, R257, R261, R264). -/
structure L2Line where
  die : Nat
  pa : Nat
  loc : Nat
  tracked : Bool := true
  retained : Option Nat := none
  guests : List Nat := []
  guest : Bool := false
  used : Nat := 0
  deriving DecidableEq, Repr

/-- An entry of a region directory (R258): the die that keeps it, home or guest, base and log2 size,
sharing cores, and the clk of its last conflict. -/
structure Region where
  die : Nat
  slice : Nat
  base : Nat
  log : Nat
  sharers : List Nat := []
  conflictAt : Nat := 0
  deriving DecidableEq, Repr

/-- An invalidation not yet acknowledged (R259, R261): the access it belongs to (0: an eviction), the
core or guest die it goes to, and the region. -/
structure Inv where
  id : Nat
  access : Nat
  core : Option Nat
  die : Nat
  slice : Nat
  base : Nat
  log : Nat
  deriving DecidableEq, Repr

/-- A line that a core's L1 or its fetch-unit cache holds (R180, R289): where it lies, its physical address and, in
the fetch-unit cache, the address of the tile under which it came (R294). -/
structure L1Line where
  core : Nat
  line : Nat
  pa : Nat
  va : Nat := 0
  deriving DecidableEq, Repr

/-- An MSC line: its location and physical address, its key index and chain tag, and whether it is dirty (R375, R377,
R378). -/
structure MscLine where
  line : Nat
  pa : Nat := 0
  dirty : Bool := false
  key : Nat := 0
  die : Nat := 0
  chain : Nat := 0
  gen : Nat := 0
  deriving DecidableEq, Repr

/-- The operation of an atomic (R168, R169). -/
inductive AtomOp where
  | add | min | max | and | or | xor | exch | cas
  | fadd32 | fadd64 | fmin32 | fmax32 | faddh2 | faddb2 | inc | dec
  deriving DecidableEq, Repr

/-- What an access does. -/
inductive AccKind where
  | load (signed : Bool)
  | ldc
  | store (stnt : Bool)
  | atom (op : AtomOp)
  | dst (op wid : Nat)
  | cache (op : Nat)
  | monitor
  | mscale
  | fetch
  deriving DecidableEq, Repr

/-- Who holds a tenure (R277, R289). -/
inductive Holding where
  | team (t : Nat)
  | copy (id : Nat)
  | reshard (id : Nat)
  deriving DecidableEq, Repr

/-- Where an access stands (R159, R176, R259, R287, R421). -/
inductive Phase where
  | issued
  | atHome
  | recalled
  | retry (until_ : Nat)
  | remote
  | performed
  | held (code : Nat)
  deriving DecidableEq, Repr

/-- One lane's access in flight (R159, R160). `loc` is the location of its first byte; `glob` its module,
physical address and leaf when it goes to global memory; `priv` a lane-private window access (R89); `void` a fill that
is not installed (R262); `spec` a load performed before an order of narrower scope in front of it (R319); `holders` those
whose writes a recalled access waits for (R287); `near` the narrow scope at which a FENCE has found a store performed
(R320, R328); `sent` the clk at which a request left the module (R428). -/
structure Access where
  id : Nat
  sid : Nat
  lane : LaneId
  unitPc : Pc
  seq : Nat
  kind : AccKind
  gaddr : Nat
  size : Nat
  order : Order := .relaxed
  scope : Scope := .device
  nt : Bool := false
  data : Nat := 0
  data2 : Nat := 0
  dst : Nat := 0
  dstN : Nat := 0
  cnt : Option Nat := none
  loc : Nat := 0
  dev : Nat := 0
  pa : Nat := 0
  leaf : Option Leaf := none
  phase : Phase := .issued
  value : Nat := 0
  poisoned : Bool := false
  failed : Nat := 0
  priv : Bool := false
  void : Bool := false
  spec : Bool := false
  holders : List Holding := []
  time : Nat := 0
  born : Nat := 0
  near : Option Scope := none
  sent : Option Nat := none
  deriving DecidableEq, Repr

/-- Memory and the copies of its lines. Locations are laid out in Machine/Memory.lean. -/
structure Mems where
  mem : List Host.Cell := []
  snaps : List Snap := []
  poison : List Nat := []
  retiredPc : List Nat := []
  deriving DecidableEq, Repr

/-- Caches, directory, translations, and accesses in flight. `keyBase` and `keyGen` number the key material that an index has
had: since the last bring-up, and in loads since then (R382, R392). `walks` lists the walks of the clk under way: die, ASID and
address (R360). `syncs` lists completed rounds (R330): the teams whose lanes took part and the program-order number that
separates what came before from what comes after. -/
structure Caches where
  l2 : List L2Line := []
  l1 : List L1Line := []
  fc : List L1Line := []
  regions : List Region := []
  invs : List Inv := []
  resCnt : Tab (Nat × Nat × Nat) Nat := []
  msc : List MscLine := []
  mscGen : Tab (Nat × Nat) Nat := []
  lineKey : Tab Nat Nat := []
  keyGen : Tab Nat Nat := []
  keyBase : Nat := 0
  tlb : List TlbEntry := []
  walks : List (Nat × Nat × Nat) := []
  acc : List Access := []
  syncs : List (List Nat × Nat) := []
  deriving DecidableEq, Repr

/-- Registers held per core, cluster and die (R81). -/
structure SysRegs where
  core : Tab (Nat × Nat) Word := []
  die : Tab (Nat × Nat) Word := []
  carveWait : Tab Nat Nat := []
  deriving DecidableEq, Repr

/-- The model's own bookkeeping and the clock. -/
structure Model where
  clk : Nat := 0
  agenda : List Turn := []
  iss : Issue := {}
  ev : EventArg := {}
  fresh : Nat := 0
  uid : Nat := 1
  seqNo : Nat := 1
  deriving DecidableEq, Repr

/-- Why a machine stops with a fault: nothing does. Every fault of the spec is taken as an exception or
reported, and the machine goes on. -/
inductive Fault where
  deriving DecidableEq, Repr

/-- Why an instruction has no meaning. -/
inductive Refusal where
  /-- Raised by Machine/Dispatch.lean for a constructor without a meaning; safe, since nothing is claimed of
  it. -/
  | notModelled (mnemonic : String)
  deriving DecidableEq, Repr

/-- An SFU operation in flight (R116): the results of its lanes. -/
structure SfuOp where
  id : Nat
  team : Nat
  group : Nat
  vd : Nat
  results : List (Nat × Word)
  deriving DecidableEq, Repr

/-- A layout record as captured (R267): base, extents of the four dimensions, strides of dimensions 1 to 3,
swizzle code, rank 1 to 4, format code, and the bits 31:11 of word 7. -/
structure Layout where
  base : Nat := 0
  ext : List Nat := [1, 1, 1, 1]
  str : List Nat := [0, 0, 0]
  swz : Nat := 0
  rank : Nat := 1
  fmt : Nat := 0
  extra : Nat := 0
  deriving DecidableEq, Repr

/-- The bytes a tenure is on: layout records (several for the chunks of a CPY) and the leaves of the pages they
lie in, as translated when the tile was minted or the copy issued (R275, R242). -/
structure Foot where
  recs : List Layout := []
  pages : List Leaf := []
  deriving DecidableEq, Repr

/-- A tile directory entry (R270, R281): its die and number, generation, whether it is live, the ASID that
minted it, the record, whether it is split, and its parent. -/
structure Tile where
  die : Nat
  entry : Nat
  gen : Nat
  live : Bool
  asid : Nat := 0
  foot : Foot := {}
  isSplit : Bool := false
  parent : Option (Nat × Nat) := none
  freedAt : Nat := 0
  deriving DecidableEq, Repr

/-- A tenure held, or requested (R277, R284, R288): the directory entry (none for engine tenure), the team on
whose behalf an engine holds it, and the breached lines; for a request, the split that waits and since when. -/
structure Tenure where
  holder : Holding
  team : Nat
  write : Bool
  tile : Option (Nat × Nat) := none
  foot : Foot := {}
  lines : List Nat := []
  brch : Bool := false
  sid : Nat := 0
  since : Nat := 0
  deriving DecidableEq, Repr

/-- The drain of an old holder (R278, R279, R285): the writes of its team with a smaller program-order number, its
copies and re-shard commands, and what the releasing lanes' release covers, must be performed before a tenure that conflicts
with the released one is granted; `write` tells a write tenure, and `asid` the address space of its footprint. -/
structure Drain where
  team : Nat
  foot : Foot
  seq : Nat
  copies : List Nat
  rshs : List Nat := []
  write : Bool := true
  asid : Nat := 0
  lanes : List LaneId := []
  deriving DecidableEq, Repr

/-- A deferred record (R298) and what travels beside it: the lanes it stands for with their program-order
numbers, the source core, the page's scheme, key and size, and the packets of other modules that it came in (R380). -/
structure Rec where
  owners : List (LaneId × Nat) := []
  src : Nat := 0
  dev : Nat := 0
  pa : Nat := 0
  op : Nat := 0
  wid : Nat := 0
  val : Nat := 0
  il : Nat := 0
  key : Nat := 0
  psize : Nat := 65536
  applied : Bool := false
  pkts : List (Nat × Nat) := []
  deriving DecidableEq, Repr

/-- Where a bin stands (R305, R379, R380). -/
inductive BinPhase where
  | open_ | shipped | applied
  deriving DecidableEq, Repr

/-- A bin of a die's binning unit (R304): its key is a pseudo-channel of this module or another module;
`from_` is the module a bin came from (R305); `sent` the clk at which it shipped (R428). -/
structure Bin where
  id : Nat
  die : Nat
  unit : Nat
  toDev : Bool
  key : Nat
  from_ : Nat
  recs : List Rec := []
  opened : Nat := 0
  phase : BinPhase := .open_
  sent : Nat := 0
  deriving DecidableEq, Repr

/-- A refusal notice in flight (R318). -/
structure Notice where
  lane : LaneId
  bad : Bool
  deriving DecidableEq, Repr

/-- What a copy command moves (R246 to R249). -/
inductive CopyKind where
  | cpy | tcpy | tcpym | tstore
  deriving DecidableEq, Repr

/-- Where a copy command stands (R240, R251). -/
inductive CopyPhase where
  | waiting | started | suspended
  deriving DecidableEq, Repr

/-- A copy command in flight (R237 to R252), as captured at issue: operands, taking-part lanes, the
split's active lanes, the status register with its lanes, the barriers with their captured INC values, the teams a TCPYM
writes to, how many steps of its transfer are done, and the clk at which it started or last moved bytes (R428). -/
structure Copy where
  id : Nat
  kind : CopyKind
  sid : Nat
  team : Nat
  group : Nat
  core : Nat
  seq : Nat
  dst : Layout := {}
  src : Layout := {}
  pattern : Nat := 0
  ctl : Nat := 0
  lanes : List Nat := []
  act : List Nat := []
  vs : Option Nat := none
  slanes : List Nat := []
  incs : List (Nat × Nat) := []
  bad : Nat := 0
  members : List Nat := []
  phase : CopyPhase := .waiting
  done : Nat := 0
  code : Nat := 0
  stale : Bool := false
  breach : Bool := false
  wrote : Bool := false
  moved : Nat := 0
  deriving DecidableEq, Repr

/-- A matrix-engine operation whose destination range is pending (R186): registers vd to vd + n − 1 of the
group, the clk at which it delivers, and what it delivers to each lane (none: the range is only released). -/
structure MatOp where
  id : Nat
  team : Nat
  group : Nat
  vd : Nat
  n : Nat
  at_ : Nat
  results : List (Nat × Nat) := []
  deriving DecidableEq, Repr

/-- What a joint issue unit deposits in its team's rendezvous latch (R192): its group, its key (minor, type,
rounding, sat, SP and CONSORT value), the captured registers of A, B and the metadata for each lane, and the
destination and C ranges. -/
structure Deposit where
  team : Nat
  group : Nat
  sid : Nat
  unitPc : Pc
  consort : BitVec 48
  key : List Nat
  dx : Nat
  a : List (List Word)
  b : List (List Word)
  meta_ : List (List Word)
  vd : Nat
  vc : Nat
  since : Nat
  deriving DecidableEq, Repr

/-- Where a re-shard command stands (R443, R444). -/
inductive RshPhase where
  | asked | queued | running
  deriving DecidableEq, Repr

/-- A re-shard command (R442 to R446): its program-order number, the addresses of its descriptors, its status register with
its lanes,
the destination of the acceptance code, the page of its record, its descriptors and rank table, its progress,
the steps started (each with its clk) and those complete out of order, whether it takes a tenure of its own, and
why it stops. -/
structure Rsh where
  id : Nat
  sid : Nat
  team : Nat
  group : Nat
  core : Nat
  seq : Nat := 0
  sd : Nat
  srcVa : Nat
  dstVa : Nat
  vs : Option Nat := none
  slanes : List Nat := []
  phase : RshPhase := .asked
  recVa : Nat := 0
  page : Leaf := {}
  handle : Nat := 0
  words : List Word := []
  table : List Nat := []
  crc : Nat := 0
  steps : Nat := 0
  step : Nat := 0
  bytes : Nat := 0
  started : List (Nat × Nat) := []
  complete : List Nat := []
  own : Bool := false
  resumed : Bool := false
  poison : Bool := false
  stop : Option Nat := none
  lastWrite : Nat := 0
  deriving DecidableEq, Repr

/-- A run that the fetch unit reads for one lane (R291 to R293): its access, the minor, the records of the data
tile and of the plane, metadata or index tile, the coordinates, and the MODP's conversion fields. -/
structure FetchOp where
  acc : Nat
  minor : Nat
  data : Layout
  aux : Layout
  x : List Nat
  pack : Nat := 0
  alt : Bool := false
  mode : Nat := 0
  sat : Bool := false
  sat8 : Bool := true
  deriving DecidableEq, Repr

/-- The engines: SFU, matrix engine, tile directory, deferred stores, copies, re-shard. `busy` is the clk until
which a core's matrix engine is occupied; `calls` lists the lines of this module at which an access outside the lanes' own is
held by a recall (R287, R440). -/
structure Engines where
  sfu : List SfuOp := []
  mats : List MatOp := []
  latch : List Deposit := []
  busy : Tab Nat Nat := []
  rsh : List Rsh := []
  tiles : List Tile := []
  tens : List Tenure := []
  reqs : List Tenure := []
  drains : List Drain := []
  log : List Rec := []
  bins : List Bin := []
  notices : List Notice := []
  copies : List Copy := []
  fetches : List FetchOp := []
  calls : List Nat := []
  deriving DecidableEq, Repr

/-- What a fault-queue record is about (R362): a report; held accesses of a unit (R176); a split stopped
under REPLAY (R217). -/
inductive FqKind where
  | report | held | replay
  deriving DecidableEq, Repr

/-- A fault record on its way to, or in, a die's fault queue until it is resolved (R362, R363): `slot` is the
count of PROD it was written under; `done`: a RESUME has resolved it, and only an abort of its `grid` may still name it
(R363). -/
structure FqRec where
  die : Nat
  words : List Word
  kind : FqKind
  sid : Nat := 0
  seq : Nat := 0
  code : Nat := 0
  lanes : List Nat := []
  slot : Option Nat := none
  grid : Nat := 0
  done : Bool := false
  deriving DecidableEq, Repr

/-- An EVENT command that has begun and waits for the grids launched before it (R337). -/
structure QEvent where
  q : Nat
  va : Nat
  value : Nat
  irq : Option Nat
  grids : List Nat
  deriving DecidableEq, Repr

/-- A ready task (R347): die of the queue, the grid that owns the arena, block index, priority. -/
structure ReadyTask where
  die : Nat
  grid : Nat
  blk : Nat
  level : Nat
  deriving DecidableEq, Repr

/-- Dispatch: fault queues, task queues and work queues (R336 to R363, R389). `sealTry` holds, for a queue whose
sealed command did not match, the re-reads made and the clk of the next; `wait` the clk of the last read of a
WAIT word; `turn` the queue whose turn comes next on a die and level. `hold` lists the controllers whose update holds launches,
a dispatch controller by its die (R396); `rung` the queues that a doorbell or LAUNCH has made the controller look at. -/
structure Disp where
  fq : List FqRec := []
  events : List QEvent := []
  taskQ : List ReadyTask := []
  sealTry : Tab Nat (Nat × Nat) := []
  wait : Tab Nat Nat := []
  turn : Tab (Nat × Nat) Nat := []
  hold : List Nat := []
  rung : List Nat := []
  deriving DecidableEq, Repr

/-- A page migration queued at a die (R424). -/
structure Mig where
  die : Nat
  asid : Nat
  va : Nat
  deriving DecidableEq, Repr

/-- A registered pod job (R429): number, ASID, participants' device numbers; for each of its two rounds
(PODSYNC, SETTLE.P) the other modules whose participant has arrived, the clk of the first arrival here, and
whether this module has told the leader. -/
structure PodJob where
  num : Nat
  asid : Nat
  devs : List Nat
  arrived : List (Nat × Nat) := []
  from_ : Tab Nat Nat := []
  told : List Nat := []
  settled : List Nat := []
  deriving DecidableEq, Repr

/-- A request of a peer: scheme, key, what it does, and the bytes it is about. -/
structure Request where
  il : Nat
  key : Nat
  kind : Nat
  op : Nat
  wid : Nat
  core : Nat
  psize : Nat
  data2 : Nat
  deriving DecidableEq, Repr

/-- A request of a peer that a recall holds at its home slice (R287, R419): its name, the request with its address, bytes and
value, the holders whose writes it waits for, and the program-order number at its arrival. -/
structure PeerReq where
  id : Nat
  req : Request
  pa : Nat
  size : Nat
  value : Nat
  holders : List Holding := []
  time : Nat := 0
  deriving DecidableEq, Repr

/-- The fabric side (R414, R424, R426): device number, modules of the pod, UX ports that are down, for each
other module the planes on which its own port is up, access counters of 64 KiB chunks (die, peer and PA of the chunk; the
most recently counted last), the migration queues, the pages queued at other modules, the pages held for a migration, for each
port the flits in a row whose CRC failed (R415), the answer to the last request of a peer and whether it was a retry, the requests of peers that recalls hold (R419), the tier that each arbitration point granted last (R418), the
port changes that wait for the fabric manager's import (R432), and the acknowledgements forwarded to other modules: module and
packet (R380). -/
structure Fab where
  dev : Nat := 0
  podSize : Nat := 1
  down : List Nat := []
  planes : Tab Nat (List Nat) := []
  migCnt : List ((Nat × Nat × Nat) × Nat) := []
  migQ : List Mig := []
  migFar : List (Nat × Nat) := []
  migHold : List (Nat × Nat) := []
  migPool : List Nat := []
  replays : Tab Nat Nat := []
  resp : Option Nat := none
  retried : Bool := false
  peerHeld : List PeerReq := []
  grants : Tab Nat Nat := []
  portWait : List (Nat × List Nat) := []
  acks : List (Nat × Nat) := []
  arrears : Tab (Nat × Nat) Nat := []
  jobs : List PodJob := []
  deriving DecidableEq, Repr

/-- A controller image (R395): controller kind (0 dispatch, 1 the fabric manager, 2 the memory and clearing controller, 3 the
power and security controller), version, the range of hand-over major versions it imports, its bytes, its signature, and the
minor version of the blocks that it writes (R397). -/
structure Image where
  kind : Nat
  version : Nat
  lo : Nat
  hi : Nat
  body : List Nat
  sig : List Nat
  minor : Nat := 0
  deriving DecidableEq, Repr

/-- Where a live update stands (R396, R398): held since, imported at, or rolled back at, the previous image having still to import
the block. -/
inductive UpdPhase where
  | held (since : Nat)
  | imported (at_ : Nat)
  | rolling (since : Nat)
  deriving DecidableEq, Repr

/-- A controller's firmware (R395, R396). -/
structure Ctrl where
  slotA : Option Image := none
  slotB : Option Image := none
  activeB : Bool := false
  running : Option Image := none
  floor : Nat := 0
  upd : Option UpdPhase := none
  deriving DecidableEq, Repr

/-- The package side (R383, R384, R390 to R400): BAR0 registers beside the per-die ones, the size of BAR2, bring-up with the clk
at which its stage was entered, power (the cap, the clock, the clocks before it with the clk at which each ended, the last first, and the clk at which a limit was last
found exceeded), firmware,
lifetime records (and the copy in the non-volatile store), and the SPDM responder. -/
structure Pkg where
  hostAsid : Nat := 0
  hostVa : Nat := 0
  hostBase : Nat := 0
  msix : Tab Nat Word := []
  msixPend : List Nat := []
  powered : Bool := true
  ready : Bool := false
  degraded : Bool := false
  failed : Bool := false
  stage : Nat := 0
  stageAt : Nat := 0
  code : Nat := 0
  upd : Nat := 0
  badAcc : Nat := 0
  cap : Nat := 3200
  mhz : Nat := 940
  clocks : List (Nat × Nat) := []
  hotAt : Nat := 0
  bar2 : Nat := 2 ^ 30
  ctrl : Tab Nat Ctrl := []
  life : Tab (Nat × Nat × Nat) Nat := []
  lifeNv : Tab (Nat × Nat × Nat) Nat := []
  spdm : Nat := 0
  answer : List Nat := []
  hostRead : Option Nat := none
  deriving DecidableEq, Repr

/-- The machine. -/
structure State where
  r : Regs := {}
  x : Run := {}
  m : Mems := {}
  k : Caches := {}
  g : SysRegs := {}
  e : Engines := {}
  d : Disp := {}
  f : Fab := {}
  p : Pkg := {}
  u : Model := {}
  deriving DecidableEq, Repr

/-- Right after reset, before bring-up: nothing is resident. -/
def State.reset : State := {}

end Sys2Proof.Machine
end

