-- ==== Sys2Proof/Machine/NumFormat.lean ====
section
/-! DEFINITION. Floating-point formats and exact arithmetic (R18 to R30, R38, R39): an operand is read as an
exact dyadic value, an operation computes exactly, and `roundTo` rounds once into the target format. -/

namespace Sys2Proof.Machine

/-- A floating-point format: exponent and fraction bits (R18). E4M3 is the one without an infinity. -/
structure Fmt where
  eb : Nat
  fb : Nat
  noInf : Bool := false
  deriving DecidableEq, Repr

/-- The formats of R18. -/
def fp64 : Fmt := { eb := 11, fb := 52 }
def fp32 : Fmt := { eb := 8, fb := 23 }
def fp16 : Fmt := { eb := 5, fb := 10 }
def bf16 : Fmt := { eb := 8, fb := 7 }
def e4m3 : Fmt := { eb := 4, fb := 3, noInf := true }
def e5m2 : Fmt := { eb := 5, fb := 2 }

/-- Bits of the format. -/
def Fmt.width (f : Fmt) : Nat := 1 + f.eb + f.fb
/-- Exponent bias (R18). -/
def Fmt.bias (f : Fmt) : Nat := 2 ^ (f.eb - 1) - 1
/-- Exponent of the last place of the subnormals (R18). -/
def Fmt.emin (f : Fmt) : Int := 1 - (f.bias : Int) - (f.fb : Int)
/-- Magnitude bits of infinity, where the format has one (R19). -/
def Fmt.infBits (f : Fmt) : Nat := (2 ^ f.eb - 1) * 2 ^ f.fb
/-- Magnitude bits of the largest finite value (R18, R19). -/
def Fmt.maxBits (f : Fmt) : Nat := if f.noInf then 2 ^ (f.eb + f.fb) - 2 else f.infBits - 1
/-- The canonical NaN (R19). -/
def Fmt.nan (f : Fmt) : Nat :=
  if f.noInf then 2 ^ (f.eb + f.fb) - 1 else f.infBits + 2 ^ (f.fb - 1)
/-- A sign bit above magnitude bits. -/
def Fmt.signed (f : Fmt) (neg : Bool) (mag : Nat) : Nat := (if neg then 2 ^ (f.eb + f.fb) else 0) + mag
/-- Is it a NaN (R19)? -/
def Fmt.isNan (f : Fmt) (x : Nat) : Bool :=
  let mag := x % 2 ^ (f.eb + f.fb)
  if f.noInf then decide (mag = 2 ^ (f.eb + f.fb) - 1) else decide (f.infBits < mag)
/-- The sign bit. -/
def Fmt.neg (f : Fmt) (x : Nat) : Bool := bit x (f.eb + f.fb)

/-- The exact value of an encoding (R18, R19). -/
def Fmt.value (f : Fmt) (x : Nat) : XVal :=
  let mag := x % 2 ^ (f.eb + f.fb)
  if f.isNan x then .nan
  else if !f.noInf && decide (mag = f.infBits) then .inf (f.neg x)
  else
    let e := mag / 2 ^ f.fb
    let m := mag % 2 ^ f.fb
    if e = 0 then .fin (f.neg x) m f.emin else .fin (f.neg x) (2 ^ f.fb + m) (f.emin + (e - 1 : Nat))

/-- A rounding mode with what it needs (R21, R30). -/
inductive RMode where
  | rne | rtz | rup | rdn | rna
  | stoch (u : Nat)
  deriving DecidableEq, Repr

/-- How a result is rounded: the mode, the MODP saturate bit, and whether an 8-bit target saturates (R24). -/
structure Rnd where
  mode : RMode := .rne
  sat : Bool := false
  sat8 : Bool := true
  deriving DecidableEq, Repr

/-- Does a magnitude n + r/d of a value with this sign round up (R21, R30)? -/
def RMode.up (m : RMode) (neg : Bool) (n r d : Nat) : Bool :=
  match m with
  | .rne => decide (d < 2 * r) || (decide (2 * r = d) && decide (n % 2 = 1))
  | .rtz => false
  | .rup => decide (0 < r) && !neg
  | .rdn => decide (0 < r) && neg
  | .rna => decide (d ≤ 2 * r)
  | .stoch u => decide (u < r * 2 ^ 32 / d)

/-- m × 2^e, rounded to a whole number of units 2^q. -/
def RMode.roundUnits (md : RMode) (neg : Bool) (m : Nat) (e q : Int) : Nat :=
  if q ≤ e then m * 2 ^ (e - q).toNat
  else
    let d := 2 ^ (q - e).toNat
    let n := m / d
    if md.up neg n (m % d) d then n + 1 else n

/-- The result of an overflow (R24). -/
def Fmt.overflow (f : Fmt) (r : Rnd) (neg : Bool) : Nat :=
  let big := f.signed neg f.maxBits
  if r.sat then big
  else if f.width = 8 && r.sat8 then big
  else if f.noInf then f.nan
  else
    match r.mode with
    | .rtz => big
    | .rup => if neg then big else f.signed neg f.infBits
    | .rdn => if neg then f.signed neg f.infBits else big
    | _ => f.signed neg f.infBits

/-- The result for an infinite value (R24). -/
def Fmt.infinite (f : Fmt) (r : Rnd) (neg : Bool) : Nat :=
  if r.sat || (decide (f.width = 8) && r.sat8) then f.signed neg f.maxBits
  else if f.noInf then f.nan
  else f.signed neg f.infBits

/-- round_to (R23, R24, R73): one rounding of an exact value into the format. -/
def roundTo (f : Fmt) (r : Rnd) (x : XVal) : Nat :=
  match x with
  | .nan => f.nan
  | .inf neg => f.infinite r neg
  | .fin neg m e =>
    if m = 0 then f.signed neg 0
    else
      let q := max f.emin ((m.log2 : Int) + e - (f.fb : Int))
      let n := r.mode.roundUnits neg m e q
      let mag := (q - f.emin).toNat * 2 ^ f.fb + n
      if f.maxBits < mag then f.overflow r neg else f.signed neg mag

/-- Round to an integer by the mode and saturate to [lo, hi] (R26). -/
def roundInt (md : RMode) (lo hi : Int) (x : XVal) : Int :=
  match x with
  | .nan => 0
  | .inf neg => if neg then lo else hi
  | .fin neg m e =>
    let n : Int := md.roundUnits neg m e 0
    max lo (min hi (if neg then -n else n))

/-! ### Exact operations -/

/-- Negation. -/
def XVal.negate (x : XVal) : XVal :=
  match x with
  | .nan => .nan
  | .inf s => .inf (!s)
  | .fin s m e => .fin (!s) m e

/-- An exact product; 0 × ∞ is a NaN (R39, R109). -/
def XVal.mul (a b : XVal) : XVal :=
  match a, b with
  | .nan, _ => .nan
  | _, .nan => .nan
  | .inf s, .inf t => .inf (s != t)
  | .inf s, .fin t m _ => if m = 0 then .nan else .inf (s != t)
  | .fin s m _, .inf t => if m = 0 then .nan else .inf (s != t)
  | .fin s m e, .fin t n g => .fin (s != t) (m * n) (e + g)

/-- The value as an integer of units 2^q, for q at or below its exponent. -/
def XVal.units (x : XVal) (q : Int) : Int :=
  match x with
  | .fin s m e => let n : Int := m * 2 ^ (e - q).toNat; if s then -n else n
  | _ => 0

/-- The lowest exponent in a list of values, with a start. -/
def minExp (q : Int) : List XVal → Int
  | [] => q
  | .fin _ m e :: t => minExp (if m = 0 then q else min q e) t
  | _ :: t => minExp q t

/-- Is the value −0? -/
def XVal.isNegZero (x : XVal) : Bool := match x with | .fin true 0 _ => true | _ => false
/-- Is the value +0? -/
def XVal.isPosZero (x : XVal) : Bool := match x with | .fin false 0 _ => true | _ => false
/-- Is the value a NaN? -/
def XVal.isNan (x : XVal) : Bool := match x with | .nan => true | _ => false

/-- exact_sum (R39): special values first; the sign of an exact zero depends on the mode. -/
def exactSum (md : RMode) (xs : List XVal) : XVal :=
  if xs.any XVal.isNan then .nan
  else if xs.contains (.inf false) && xs.contains (.inf true) then .nan
  else if xs.contains (.inf false) then .inf false
  else if xs.contains (.inf true) then .inf true
  else
    let q := minExp 0 xs
    let t : Int := (xs.map fun x => x.units q).sum
    if t = 0 then
      .fin ((!xs.isEmpty && xs.all XVal.isNegZero) || (decide (md = .rdn) && !xs.all XVal.isPosZero)) 0 0
    else .fin (decide (t < 0)) t.natAbs q

/-! ### Comparison and selection -/

/-- Order of two non-NaN values as real numbers, −0 equal to +0 (R115): less, equal or greater. -/
def XVal.cmp (a b : XVal) : Ordering :=
  match a, b with
  | .inf s, .inf t => if s = t then .eq else if s then .lt else .gt
  | .inf s, _ => if s then .lt else .gt
  | _, .inf t => if t then .gt else .lt
  | x, y =>
    let q := minExp 0 [x, y]
    compare (x.units q) (y.units q)

/-- Order of two non-NaN encodings with −0 strictly below +0 (R111): sign and magnitude decide. -/
def Fmt.below (f : Fmt) (a b : Nat) : Bool :=
  let w := f.eb + f.fb
  let x := a % 2 ^ w
  let y := b % 2 ^ w
  match f.neg a, f.neg b with
  | true, false => true
  | false, true => false
  | false, false => decide (x < y)
  | true, true => decide (y < x)

/-- minimumNumber and maximumNumber (R111): the other operand when exactly one is a NaN. -/
def Fmt.pickNumber (f : Fmt) (max : Bool) (a b : Nat) : Nat :=
  if f.isNan a then (if f.isNan b then f.nan else b)
  else if f.isNan b then a
  else if max then (if f.below a b then b else a) else (if f.below b a then b else a)

/-- minimum and maximum (R111): the canonical NaN when either is a NaN. -/
def Fmt.pick (f : Fmt) (max : Bool) (a b : Nat) : Nat :=
  if f.isNan a || f.isNan b then f.nan else f.pickNumber max a b

/-- One step of the lane's generator (R27). -/
def genStep (g : Word) : Word :=
  let h := g >>> 1
  if g.getLsbD 0 then h ^^^ 0x80200003 else h

/-- `n` steps of the generator. -/
def genSteps (g : Word) : Nat → Word
  | 0 => g
  | n + 1 => genSteps (genStep g) n

/-- The next word of the generator, which is also its next state (R27). -/
def genWord (g : Word) : Word := genSteps g 32

/-- Seed of a lane's generator (R29): `t` is its team lane number. -/
def genSeed (seed : Word) (t : Nat) : Word :=
  let g := seed ^^^ BitVec.ofNat 32 ((t + 1) * 0x9E3779B9)
  if g = 0 then 1 else g

end Sys2Proof.Machine
end

