-- ==== Sys2Proof/Machine/Memory.lean ====
section
/-! DEFINITION. Memory as one canonical list of (location, byte) pairs, the layout of locations, the
interleave schemes of R374, the copies of lines that stores do not reach, and the translation walk of
R358 to R361. A byte that nothing has written reads 0: the module clears its memory at bring-up (R390),
scratchpads read zero at team start (R180, R255), and host memory is log entry 12's choice. -/

namespace Sys2Proof.Machine

/-- The byte at a location. -/
def Memory.get (m : List Host.Cell) (a : Nat) : Byte :=
  match m with
  | [] => 0
  | (k, b) :: t => if k = a then b else Memory.get t a

/-- Write a byte, keeping the list strictly rising and without zero bytes. -/
def Memory.put (m : List Host.Cell) (a : Nat) (b : Byte) : List Host.Cell :=
  match m with
  | [] => if b = 0 then [] else [(a, b)]
  | (k, c) :: t =>
    if a < k then (if b = 0 then (k, c) :: t else (a, b) :: (k, c) :: t)
    else if k = a then (if b = 0 then t else (a, b) :: t)
    else (k, c) :: Memory.put t a b

/-- Every listed location is at or above `lo`, the locations rise strictly, and no zero byte is listed. -/
def Memory.above (lo : Nat) (m : List Host.Cell) : Bool :=
  match m with
  | [] => true
  | (k, b) :: t => decide (lo ≤ k) && decide (b ≠ 0) && Memory.above (k + 1) t

/-- The canonical form. -/
abbrev Memory.wf (m : List Host.Cell) : Prop := Memory.above 0 m = true

/-- `n` bytes from a location, little-endian (R15). -/
def Memory.read (m : List Host.Cell) (a : Nat) : Nat → Nat
  | 0 => 0
  | n + 1 => (Memory.get m a).toNat + 256 * Memory.read m (a + 1) n

/-- Write the low `n` bytes of a value, little-endian (R15). -/
def Memory.write (m : List Host.Cell) (a : Nat) (v : Nat) : Nat → List Host.Cell
  | 0 => m
  | n + 1 => Memory.write (Memory.put m a (BitVec.ofNat 8 v)) (a + 1) (v / 256) n

/-- Forget every byte from `lo` up to but not at `hi`: they read 0 again. -/
def Memory.clear (m : List Host.Cell) (lo hi : Nat) : List Host.Cell :=
  m.filter (fun c => decide (c.1 < lo ∨ hi ≤ c.1))

/-! ### Locations -/

/-- Location of offset o of pseudo-channel p of a module (R372). -/
def locDev (dev p o : Nat) : Nat := dev * 2 ^ 40 + p * 2 ^ 30 + o
/-- Location of a byte of host memory (R376). -/
def locHost (a : Nat) : Nat := 2 ^ 64 + a
/-- Location of a carved byte of a slice of a die (R254, R255). -/
def locCarved (die slice o : Nat) : Nat := 2 ^ 66 + die * 2 ^ 27 + slice * 2 ^ 18 + o
/-- Location of byte q of the chip scratchpad pool of a die: its slice, and its carved offset there (R255). -/
def locChip (die q : Nat) : Nat := locCarved die (q / 256 % 256) (q / 65536 * 256 + q % 256)
/-- Location of a byte of a team's core scratchpad (R155, R234). -/
def locScr (team o : Nat) : Nat := (team + 1) * 2 ^ 80 + o
/-- Location of a lane-private byte held in the scratchpad (R89): lane by team lane number. -/
def locPriv (team tl o : Nat) : Nat := (team + 1) * 2 ^ 80 + 2 ^ 30 + tl * 2 ^ 16 + o

/-- The hash x(q) of R374. -/
def ilHash (q : Nat) : Nat := (q % 256) ^^^ (q / 256 % 256) ^^^ (q / 65536 % 64)

/-- Pseudo-channel and offset of a device address under an interleave scheme (R374). -/
def ilMap (il a : Nat) : Nat × Nat :=
  let g := 2 ^ 30
  match il with
  | 0 =>
    let b := a / 256
    let q := b / 768
    ((b % 768 + 3 * ilHash q) % 768, 256 * q + a % 256)
  | 1 =>
    let d := a / (192 * g)
    let b := a % (192 * g) / 256
    let q := b / 192
    (192 * d + (b % 192 + ilHash q) % 192, 256 * q + a % 256)
  | 2 => let b := a / 1024; (b % 768, 1024 * (b / 768) + a % 1024)
  | 3 => let b := a / 4096; (b % 768, 4096 * (b / 768) + a % 4096)
  | 4 => let b := a / 65536; (b % 768, 65536 * (b / 768) + a % 65536)
  | 5 =>
    let t := a / (64 * g)
    let b := a % (64 * g) / 4096
    (64 * t + b % 64, 4096 * (b / 64) + a % 4096)
  | 6 =>
    let c := a / (2 * g)
    (2 * c + a / 256 % 2, 256 * (a % (2 * g) / 512) + a % 256)
  | _ => (a / g, a % g)

/-- First PA of the host window (R373). -/
def hostWindow : Nat := 0xC000000000

/-- Is the PA in the host window (R373)? -/
def inHost (pa : Nat) : Bool := decide (hostWindow ≤ pa)

/-- Location of a PA of a module under a scheme (R373, R374); host addresses start at `hostBase`. -/
def locPa (dev hostBase il pa : Nat) : Nat :=
  if inHost pa then locHost (hostBase + (pa - hostWindow))
  else let po := ilMap il pa; locDev dev po.1 po.2

/-- The pseudo-channel of a PA (R374). -/
def channelOf (il pa : Nat) : Nat := (ilMap il pa).1

/-- The home die of a PA (R253, R374). -/
def homeDie (il pa : Nat) : Nat := channelOf il pa / 192

/-- The home slice of a PA (R253). -/
def homeSlice (pa : Nat) : Nat :=
  (pa / 2 ^ 8 % 256) ^^^ (pa / 2 ^ 16 % 256) ^^^ (pa / 2 ^ 24 % 256) ^^^ (pa / 2 ^ 32 % 256)

/-- The set of a PA within its slice (R253). -/
def l2Set (pa : Nat) : Nat := pa / 128 % 256

/-! ### Copies and watches -/

/-- Remember the byte a copy of the line still shows when a store overwrites it at home. -/
def Snap.keep (c : Snap) (a : Nat) (b : Byte) : Snap :=
  if c.line = a / 128 ∧ (c.old.all fun p => decide (p.1 ≠ a)) then
    { c with old := (a, b) :: c.old }
  else c

/-- The byte a copy shows. -/
def Snap.get (c : Snap) (m : List Host.Cell) (a : Nat) : Byte :=
  Tab.look c.old a (Memory.get m a)

/-- Bytes as a copy shows them. -/
def Snap.read (c : Snap) (m : List Host.Cell) (a : Nat) : Nat → Nat
  | 0 => 0
  | n + 1 => (c.get m a).toNat + 256 * c.read m (a + 1) n

/-- The copy of a line that a holder has. -/
def State.snapOf (s : State) (h : Holder) (line : Nat) : Option Snap :=
  s.m.snaps.find? fun c => decide (c.holder = h ∧ c.line = line)

/-- Give a holder a fresh copy of a line, unless it has one. -/
def State.addSnap (s : State) (h : Holder) (line : Nat) : State :=
  if (s.snapOf h line).isSome then s
  else { s with m.snaps := s.m.snaps ++ [{ holder := h, line := line }] }

/-- Drop the copies that satisfy a test. -/
def State.dropSnaps (s : State) (p : Snap → Bool) : State :=
  { s with m.snaps := s.m.snaps.filter fun c => !p c }

/-- A slice's watch is triggered by an event on its line (R172). -/
def Slice.trigger (c : Slice) (line : Nat) : Slice :=
  match c.watch with
  | some w => if w.line = line then { c with watch := some { w with triggered := true } } else c
  | none => c

/-- Trigger every watch on a line (R172). -/
def State.triggerLine (s : State) (line : Nat) : State :=
  { s with r.sl := s.r.sl.map fun p => (p.1, p.2.trigger line) }

/-- Copies that take a store's bytes with it forget what they showed there (R180, R423). -/
def Snap.refresh (c : Snap) (a n : Nat) : Snap :=
  { c with old := c.old.filter fun p => decide (p.1 < a ∨ a + n ≤ p.1) }

/-- Write one byte: copies keep what they showed, and poison there ends (R177). -/
def State.writeByte (s : State) (a : Nat) (b : Byte) : State :=
  { s with
    m.mem := Memory.put s.m.mem a b
    m.snaps := s.m.snaps.map fun c => c.keep a (Memory.get s.m.mem a)
    m.poison := s.m.poison.filter fun p => decide (p ≠ a) }

/-- Write the low `n` bytes of a value at a location. -/
def State.writeBytes (s : State) (a v : Nat) : Nat → State
  | 0 => s
  | n + 1 => (s.writeByte a (BitVec.ofNat 8 v)).writeBytes (a + 1) (v / 256) n

/-- A write performed in memory: the bytes, then the watches on its line (R172). -/
def State.store (s : State) (a v n : Nat) : State := (s.writeBytes a v n).triggerLine (a / 128)

/-- A store performed at home whose bytes the copies of the holders in `upd` take as well. -/
def State.storeAt (s : State) (a v n : Nat) (upd : Holder → Bool) : State :=
  let s := s.store a v n
  { s with m.snaps := s.m.snaps.map fun c => if upd c.holder then c.refresh a n else c }

/-- Poison `n` bytes (R177, R308). -/
def State.poisonBytes (s : State) (a : Nat) : Nat → State
  | 0 => s
  | n + 1 => { s with m.poison := if a ∈ s.m.poison then s.m.poison else s.m.poison ++ [a] }.poisonBytes
      (a + 1) n

/-- Is any of `n` bytes poisoned (R177)? -/
def State.poisoned (s : State) (a n : Nat) : Bool :=
  s.m.poison.any fun p => decide (a ≤ p ∧ p < a + n)

/-- The bytes at home. -/
def State.load (s : State) (a n : Nat) : Nat := Memory.read s.m.mem a n

/-- The bytes as the MSC and DRAM hold them: what hosts and pod peers read (R334). -/
def State.loadMsc (s : State) (a n : Nat) : Nat :=
  match s.snapOf .msc (a / 128) with
  | some c => c.read s.m.mem a n
  | none => s.load a n

/-! ### Registers held per core and per die -/

/-- Reset value of a register held per core or cluster (R81, R418, R424). -/
def coreRegReset (n : Nat) : Word :=
  match n with
  | 0x82 => 0x0040
  | 0x83 => 0x0400
  | 0x84 => 0x0100
  | _ => 0

/-- Reset value of a register held per die (R260, R305, R386). -/
def dieRegReset (n : Nat) : Word :=
  match n with
  | 0xC1 => 0x00010000
  | 0xC2 => 0x00001000
  | 0xC8 => 6
  | 0xCD => 0x1008
  | _ => 0

/-- The core whose entry holds a core register: SYS_ARREARS1, SYS_ARREARS2 and SYS_MIGTHRESH are the same in every core (R418). -/
def regHome (core n : Nat) : Nat := if n = 0x82 ∨ n = 0x83 ∨ n = 0x84 then 0 else core
/-- A register held per core. -/
def State.coreReg (s : State) (core n : Nat) : Word := s.g.core.look (regHome core n, n) (coreRegReset n)
/-- Write a register held per core. -/
def State.setCoreReg (s : State) (core n : Nat) (v : Word) : State :=
  { s with g.core := s.g.core.put (regHome core n, n) v }
/-- A register held per die. -/
def State.dieReg (s : State) (die n : Nat) : Word := s.g.die.look (die, n) (dieRegReset n)
/-- Write a register held per die. -/
def State.setDieReg (s : State) (die n : Nat) (v : Word) : State :=
  { s with g.die := s.g.die.put (die, n) v }

/-- Add one to a register that stops at 0xFFFF_FFFF. -/
def bumpSat (w : Word) : Word := if w = 0xFFFFFFFF then w else w + 1

/-! ### Translation -/

/-- The scheme under which the hardware's own tables at physical addresses lie; the spec names none (log
entry 13). -/
def physScheme : Nat := 0

/-- Is a UX port of this module up (R414)? -/
def State.portUp (s : State) (port : Nat) : Bool := decide (port < 64 ∧ port ∉ s.f.down)

/-- The planes that reach a peer: those with an up port at both ends (R414). -/
def State.planesTo (s : State) (d : Nat) : List Nat := (List.range 64).filter fun n => s.portUp n && decide (n ∈ s.f.planes.look d [])

/-- Is a module reachable (R414)? -/
def State.reachable (s : State) (d : Nat) : Bool := decide (d = s.f.dev) || !(s.planesTo d).isEmpty

/-- The port on which all requests of the path from a core to a module leave (R416): the first, from the one that the path
names, of the core's die that reaches the module, or else of the lowest-numbered die that has one. -/
def State.pathPort (s : State) (core dev : Nat) : Option Nat :=
  (core / 192 :: [0, 1, 2, 3]).findSome? fun d =>
    ((List.range 16).map fun i => 16 * d + (core + dev + i) % 16).find? fun n => decide (n ∈ s.planesTo dev)

/-- Location of a byte of this module or of host memory. -/
def State.locHere (s : State) (il pa : Nat) : Nat := locPa s.f.dev s.p.hostBase il pa

/-- Location of a table byte at a physical address of this module (R373, R376). -/
def State.locPhys (s : State) (pa : Nat) : Nat := locPa s.f.dev s.p.hostBase physScheme pa

/-- Bits of a leaf as its fields, for a page of `size` bytes at `va` (R359); none when a reserved bit is set,
or when a host-window frame has DF or a MODE (R376). -/
def leafOf (e va size : Nat) : Option Leaf :=
  let frame := e / 2 ^ 16 % 2 ^ 24 * 2 ^ 16
  let lf : Leaf :=
    { va := va, size := size, frame := frame, peer := e / 2 ^ 77 % 512, key := e / 2 ^ 64 % 8192,
      mode := e / 2 ^ 10 % 4, il := e / 2 ^ 7 % 8, df := bit e 6, ut := bit e 5, x := bit e 4,
      w := bit e 3, r := bit e 2 }
  if e / 2 ^ 86 % 2 ^ 10 = 0 ∧ e / 2 ^ 40 % 2 ^ 24 = 0 ∧ e / 2 ^ 12 % 16 = 0 ∧ frame % size = 0 ∧
      ¬ (inHost frame ∧ (lf.df ∨ lf.mode ≠ 0)) then some lf
  else none

/-- One level of a walk: entries of the table at `base`; `levels` holds, for this level and those below, the
low bit and the width of the index (R359). -/
def State.walkFrom (s : State) (va base : Nat) : List (Nat × Nat) → Option Leaf
  | [] => none
  | (lo, n) :: rest =>
    let e := s.load (s.locPhys (base + 16 * (va / 2 ^ lo % 2 ^ n))) 16
    if !bit e 0 then none
    else if bit e 1 then
      if lo = 43 then none else leafOf e (va / 2 ^ lo * 2 ^ lo) (2 ^ lo)
    else
      match rest with
      | [] => none
      | (_, n') :: _ =>
        let next := e / 2 ^ 8 % 2 ^ 32 * 2 ^ 8
        if e / 2 ^ 40 = 0 ∧ e / 2 % 2 ^ 7 = 0 ∧ next % (16 * 2 ^ n') = 0 then s.walkFrom va next rest
        else none

/-- Index position and width of each level (R359). -/
def walkLevels : List (Nat × Nat) := [(43, 13), (30, 13), (25, 5), (21, 4), (16, 5)]

/-- A walk by a die under an ASID (R358, R359): none is PAGE_FAULT. -/
def State.walk (s : State) (die asid va : Nat) : Option Leaf :=
  let ctx := (s.dieReg die 0xC6).toNat % 2 ^ 20 * 2 ^ 20
  let e := s.load (s.locPhys (ctx + 16 * asid)) 16
  if bit e 0 ∧ e / 2 ^ 40 = 0 ∧ e / 2 % 2 ^ 16 = 0 then
    s.walkFrom va (e / 2 ^ 17 % 2 ^ 23 * 2 ^ 17) walkLevels
  else none

/-- Does a TLB entry translate an address for a core (R360)? -/
def TlbEntry.covers (t : TlbEntry) (core asid va : Nat) : Bool :=
  decide ((t.at_ = .core core ∨ t.at_ = .cluster (core / 8) ∨ t.at_ = .die (core / 192)) ∧
    t.asid = asid ∧ t.leaf.va ≤ va ∧ va < t.leaf.va + t.leaf.size)

/-- The k-th free choice of the step under way (log entry 3). -/
def State.choose (s : State) (k : Nat) : Nat := Config.choice (128 * s.u.fresh + k % 128)

/-- Translate for a core: with a cached translation the old entry or the new one, the k-th free choice
(R360). -/
def State.translate (s : State) (core asid va : Nat) (k : Nat) : Option Leaf :=
  match s.k.tlb.find? fun t => t.covers core asid va with
  | some t => if s.choose k % 2 = 0 then some t.leaf else s.walk (core / 192) asid va
  | none => s.walk (core / 192) asid va

/-- Physical address of a virtual address under a leaf. -/
def Leaf.pa (lf : Leaf) (va : Nat) : Nat := lf.frame + (va - lf.va)

/-! ### Keys and MSC tags -/

/-- A line of device memory that another module holds. -/
def State.lineAway (s : State) (line : Nat) : Bool := decide (line < 2 ^ 57 ∧ line / 2 ^ 33 ≠ s.f.dev)

/-- The key material that an index names now in the key table of the module that holds a line (R381, R382, R420): an even number
for this module, an odd one for another, whose table is its own affair (log entry 73). -/
def State.keyId (s : State) (line k : Nat) : Nat :=
  if s.lineAway line then 2 * (8192 * (line / 2 ^ 33) + k) + 1
  else 2 * (8192 * (s.k.keyBase + s.k.keyGen.look k 0) + k)

/-- The key material that a line is stored under: at bring-up that of index 0 (R392). -/
def State.keyAt (s : State) (line : Nat) : Nat :=
  s.k.lineKey.look line (if s.lineAway line then 2 * (8192 * (line / 2 ^ 33)) + 1 else 2 * (8192 * s.k.keyBase))

/-- An access under a key index other than the one a line is stored under meets the line encrypted under the
old key and decrypted under the new one (R381). -/
def State.rekey (s : State) (loc pa key : Nat) : State :=
  let line := loc / 128
  let old := s.keyAt line
  let new := s.keyId line key
  if old = new then s
  else
    let d := Config.xtsDecrypt new (pa / 128) (Config.xtsEncrypt old (pa / 128) (s.load (line * 128) 128))
    let s := s.writeBytes (line * 128) d 128
    { s with k.lineKey := s.k.lineKey.put line new }

/-- Sets of a base die's MSC (R377): 48 MiB of 16 ways of 128 bytes. -/
def mscSets : Nat := 24576

/-- The set of a line of device memory: its stack, and its place there (R377; log entry 58). -/
def mscSet (line : Nat) : Nat × Nat := (line / 2 ^ 29, line % 2 ^ 29 % mscSets)

/-- A line's generation differs from its chain's: it is demoted (R378). -/
def State.demoted (s : State) (m : MscLine) : Bool := decide (m.gen ≠ s.k.mscGen.look (m.die, m.chain) 0)

/-- The line that a full set of the MSC gives up: a demoted one first, the least recently used first (R378). The list
holds the most recently used line first. -/
def State.mscVictim (s : State) (line : Nat) : Option MscLine :=
  let mine := s.k.msc.filter fun m => decide (mscSet m.line = mscSet line)
  if mine.length < 16 then none
  else (mine.reverse.find? s.demoted) <|> mine.getLast?

/-- Tag the MSC line an access allocates or hits (R377, R378); without a grid it tags only what it
allocates. A line of another physical address of the location is another line (R375). -/
def State.mscTouch (s : State) (loc pa key : Nat) (chain : Option (Nat × Nat)) (dirty : Bool) : State :=
  let line := loc / 128
  let here := fun (m : MscLine) => decide (m.line = line ∧ m.pa = pa / 128 * 128)
  let c := chain.getD (0, 0)
  match s.k.msc.find? here with
  | some m =>
    let n := if chain.isSome then { m with die := c.1, chain := c.2, gen := s.k.mscGen.look c 0 } else m
    { s with k.msc := { n with key := key, dirty := m.dirty || dirty } :: s.k.msc.filter fun x => !here x }
  | none =>
    let rest := match s.mscVictim line with
      | some v => s.k.msc.erase v
      | none => s.k.msc
    { s with k.msc := { line := line, pa := pa / 128 * 128, dirty := dirty, key := key, die := c.1, chain := c.2
                        gen := s.k.mscGen.look c 0 } :: rest }

/-! ### The hardware's own tables -/

/-- An access by hardware at a physical address passes through the MSC: it carries chain 0 and leaves the line under the key it
is stored under (R377, R378; log entry 13). -/
def State.physTouch (s : State) (pa : Nat) (write : Bool) : State :=
  if inHost pa then s
  else s.mscTouch (s.locPhys pa) pa (s.keyAt (s.locPhys pa / 128) / 2 % 8192) none write

/-- A write by hardware within a line at a physical address: it reaches the MSC, where hosts see it (R334), and a retired
channel takes nothing (R391). -/
def State.physStore (s : State) (pa v n : Nat) : State :=
  if !inHost pa && decide (channelOf physScheme pa ∈ s.m.retiredPc) then s
  else ((s.physTouch pa true).dropSnaps fun c => decide (c.holder = .msc ∧ c.line = s.locPhys pa / 128)).store
    (s.locPhys pa) v n

end Sys2Proof.Machine
end

