-- ==== Sys2Proof/Machine/Ops.lean ====
section
/-! DEFINITION. The named operations over the register files, splits, groups and teams; the effective mask and
deliver (R61, R73); fault records and taking a fault under the grid's policy (R215 to R219), with the
return from a handler (R218) beside it; and the frame every issue unit runs in: legality, role,
examination of its registers, its effect, and its faults (R70, R82, R146). -/

namespace Sys2Proof.Machine

/-- Insert into a list sorted by `le`. -/
def insertBy {α : Type} (le : α → α → Bool) (a : α) : List α → List α
  | [] => [a]
  | b :: t => if le a b then a :: b :: t else b :: insertBy le a t

/-- Sort by `le`, equal elements keeping their order. -/
def sortBy {α : Type} (le : α → α → Bool) (l : List α) : List α := l.foldr (insertBy le) []

/-! ### Tables of what runs -/

/-- The split of a name. -/
def State.split? (s : State) (sid : Nat) : Option Split := s.x.splits.find? fun p => decide (p.sid = sid)
/-- A resident team. -/
def State.team? (s : State) (t : Nat) : Option Team := s.x.teams.find? fun p => decide (p.uid = t)
/-- A grid. -/
def State.grid? (s : State) (g : Nat) : Option Grid := s.x.grids.find? fun p => decide (p.uid = g)
/-- A team, or a blank one. -/
def State.team (s : State) (t : Nat) : Team := (s.team? t).getD { uid := t, grid := 0 }
/-- A grid, or a blank one. -/
def State.grid (s : State) (g : Nat) : Grid := (s.grid? g).getD { uid := g, launch := {} }
/-- The launch record a team runs under. -/
def State.launch (s : State) (t : Nat) : Launch := (s.grid (s.team t).grid).launch
/-- A split, or a blank one. -/
def State.split (s : State) (sid : Nat) : Split :=
  (s.split? sid).getD { sid := sid, team := 0, group := 0, tix := 0, pc := 0, slices := [] }

/-- Change one split. -/
def State.modSplit (s : State) (sid : Nat) (f : Split → Split) : State :=
  { s with x.splits := s.x.splits.map fun p => if p.sid = sid then f p else p }
/-- Change one team. -/
def State.modTeam (s : State) (t : Nat) (f : Team → Team) : State :=
  { s with x.teams := s.x.teams.map fun p => if p.uid = t then f p else p }
/-- Change one grid. -/
def State.modGrid (s : State) (g : Nat) (f : Grid → Grid) : State :=
  { s with x.grids := s.x.grids.map fun p => if p.uid = g then f p else p }

/-- Lanes of a team's group (R338 WIDTH). -/
def State.width (s : State) (t : Nat) : Nat := (s.launch t).width
/-- The groups of a team. -/
def State.groups (s : State) (t : Nat) : List Nat :=
  List.range ((s.launch t).lanes / (s.launch t).width)
/-- Team lane number (R88). -/
def State.teamLane (s : State) (l : LaneId) : Nat := l.g * s.width l.t + l.l

/-- A group's record. -/
def State.grp (s : State) (g : GroupId) : Group := s.r.gr.look g {}
/-- Write a group's record. -/
def State.setGrp (s : State) (g : GroupId) (v : Group) : State := { s with r.gr := s.r.gr.put g v }
/-- Change a group's record. -/
def State.modGrp (s : State) (g : GroupId) (f : Group → Group) : State := s.setGrp g (f (s.grp g))
/-- A slice's record. -/
def State.slc (s : State) (c : SliceId) : Slice := s.r.sl.look c {}
/-- Write a slice's record. -/
def State.setSlc (s : State) (c : SliceId) (v : Slice) : State := { s with r.sl := s.r.sl.put c v }
/-- Change a slice's record. -/
def State.modSlc (s : State) (c : SliceId) (f : Slice → Slice) : State := s.setSlc c (f (s.slc c))
/-- A lane's record. -/
def State.lan (s : State) (l : LaneId) : Lane := s.r.ln.look l {}
/-- Write a lane's record. -/
def State.setLan (s : State) (l : LaneId) (v : Lane) : State := { s with r.ln := s.r.ln.put l v }
/-- Change a lane's record. -/
def State.modLan (s : State) (l : LaneId) (f : Lane → Lane) : State := s.setLan l (f (s.lan l))

/-- The slice of a lane (R80). -/
def LaneId.slice (l : LaneId) : SliceId := ⟨l.t, l.g, l.l / 4⟩
/-- The group of a lane. -/
def LaneId.group (l : LaneId) : GroupId := ⟨l.t, l.g⟩

/-! ### Registers -/

/-- V register n of a lane: 0 at team start (R80). -/
def State.getV (s : State) (l : LaneId) (n : Nat) : Word := s.r.v.look (l, n) 0
/-- Write V register n of a lane, without its full/empty bit. -/
def State.putV (s : State) (l : LaneId) (n : Nat) (w : Word) : State := { s with r.v := s.r.v.put (l, n) w }
/-- Is V register n of a lane empty (R80, R82)? Full at team start. -/
def State.isEmpty (s : State) (l : LaneId) (n : Nat) : Bool := s.r.ve.look (l, n) false
/-- Mark a V register empty or full. -/
def State.setEmpty (s : State) (l : LaneId) (n : Nat) (e : Bool) : State :=
  { s with r.ve := if e then s.r.ve.put (l, n) true else s.r.ve.drop (l, n) }
/-- Write a V register and mark it full (R82). -/
def State.setV (s : State) (l : LaneId) (n : Nat) (w : Word) : State := (s.putV l n w).setEmpty l n false
/-- A range of V registers as one number, the lowest register first. -/
def State.getVs (s : State) (l : LaneId) (n : Nat) : Nat → Nat
  | 0 => 0
  | k + 1 => (s.getV l n).toNat + 2 ^ 32 * s.getVs l (n + 1) k
/-- Write a range of V registers from one number and mark them full. -/
def State.setVs (s : State) (l : LaneId) (n v : Nat) : Nat → State
  | 0 => s
  | k + 1 => (s.setV l n (BitVec.ofNat 32 v)).setVs l (n + 1) (v / 2 ^ 32) k
/-- Mark a range of V registers empty or full, contents unchanged. -/
def State.markVs (s : State) (l : LaneId) (n : Nat) (e : Bool) : Nat → State
  | 0 => s
  | k + 1 => (s.setEmpty l n e).markVs l (n + 1) e k
/-- The first empty register of a range, if any. -/
def State.emptyIn (s : State) (l : LaneId) (n : Nat) : Nat → Option Nat
  | 0 => none
  | k + 1 => if s.isEmpty l n then some n else s.emptyIn l (n + 1) k

/-- S register n of a slice (R83). -/
def State.getS (s : State) (c : SliceId) (n : Nat) : Word := s.r.sr.look (c, n) 0
/-- Write an S register. -/
def State.setS (s : State) (c : SliceId) (n : Nat) (w : Word) : State :=
  { s with r.sr := s.r.sr.put (c, n) w }
/-- A pair of S registers as one number. -/
def State.getSPair (s : State) (c : SliceId) (n : Nat) : Nat :=
  (s.getS c n).toNat + 2 ^ 32 * (s.getS c (n + 1)).toNat

/-- Mask register n of a slice: M0 reads 1111 (R84). -/
def State.getM (s : State) (c : SliceId) (n : Nat) : BitVec 4 := if n = 0 then 15 else s.r.mr.look (c, n) 0
/-- Write a mask register; a write to M0 is discarded (R84). -/
def State.setM (s : State) (c : SliceId) (n : Nat) (m : BitVec 4) : State :=
  if n = 0 then s else { s with r.mr := s.r.mr.put (c, n) m }
/-- Write one lane's bit of a mask register. -/
def State.setMBit (s : State) (l : LaneId) (n : Nat) (b : Bool) : State :=
  let m := s.getM l.slice n
  let w := BitVec.ofNat 4 (2 ^ (l.l % 4))
  s.setM l.slice n (if b then m ||| w else m &&& ~~~w)

/-- Arrival counter n of a slice (R85). -/
def State.getC (s : State) (c : SliceId) (n : Nat) : Nat := s.r.cn.look (c, n) 0
/-- Write an arrival counter. -/
def State.setC (s : State) (c : SliceId) (n v : Nat) : State := { s with r.cn := s.r.cn.put (c, n) v }
/-- Lower an arrival counter by one; it never falls below 0 (R85). -/
def State.lowerC (s : State) (c : SliceId) (n : Nat) : State := s.setC c n (s.getC c n - 1)

/-! ### Lanes of a split, effective mask, deliver -/

/-- Bit i of a four-bit mask. -/
def maskBit (m : BitVec 4) (i : Nat) : Bool := m.getLsbD i

/-- The active lanes of one slice, as lane numbers within the group (R87). -/
def State.sliceLanes (s : State) (t g c : Nat) : List Nat :=
  ([0, 1, 2, 3].filter fun i => maskBit (s.slc ⟨t, g, c⟩).mask i).map fun i => 4 * c + i

/-- The active lanes of a split, in ascending order (R61). -/
def State.active (s : State) (p : Split) : List Nat :=
  p.slices.flatMap fun c => s.sliceLanes p.team p.group c

/-- The split under issue. -/
def State.cur (s : State) : Split := s.split s.u.iss.sid
/-- The active lanes of the split under issue. -/
def State.act (s : State) : List Nat := s.active s.cur
/-- Lane number l of the group under issue. -/
def State.lane (s : State) (l : Nat) : LaneId := ⟨s.u.iss.team, s.u.iss.group, l⟩
/-- Slice c of the group under issue. -/
def State.slice (s : State) (c : Nat) : SliceId := ⟨s.u.iss.team, s.u.iss.group, c⟩
/-- The group under issue. -/
def State.gid (s : State) : GroupId := ⟨s.u.iss.team, s.u.iss.group⟩
/-- The slices of the split under issue. -/
def State.slices (s : State) : List SliceId := s.cur.slices.map s.slice
/-- The mask register a MODP selects; M0 without one (R57). -/
def State.maskReg (s : State) : Nat := match s.u.iss.modp with | some m => m.mask.toNat | none => 0
/-- zi of the MODP (R56). -/
def State.zi (s : State) : Bool := match s.u.iss.modp with | some m => m.zi | none => false
/-- The MODP mask bit of a lane and the block condition hold (R61). -/
def State.maskOk (s : State) (l : Nat) : Bool :=
  maskBit (s.getM (s.slice (l / 4)) s.maskReg) (l % 4) &&
    match s.u.iss.cond with
    | none => true
    | some b => maskBit (s.slc (s.slice (l / 4))).blkMask (l % 4) == b
/-- The effective mask of an active lane (R61). -/
def State.emask (s : State) (l : Nat) : Bool := decide (l ∈ s.act) && s.maskOk l
/-- The lanes with a true effective mask, in ascending order. -/
def State.elanes (s : State) : List Nat := s.act.filter s.maskOk
/-- The lanes whose destination an instruction may write (R61). -/
def State.wlanes (s : State) : List Nat := if s.zi then s.act else s.elanes

/-- deliver for a range of `k` registers in the lane (R73). -/
def State.deliver (s : State) (vd l v k : Nat) : State :=
  if s.emask l then s.setVs (s.lane l) vd v k
  else if s.zi && decide (l ∈ s.act) then s.setVs (s.lane l) vd 0 k
  else s

/-- deliver of one value per lane, each computed from the state `s0` before the unit. -/
def State.deliverAll (s0 : State) (vd k : Nat) (f : Nat → Nat) : State :=
  s0.act.foldl (fun s l =>
    if s0.maskOk l then s.setVs (s0.lane l) vd (f l) k
    else if s0.zi then s.setVs (s0.lane l) vd 0 k
    else s) s0

/-- deliver to a mask register, bit by bit (R73, R97). -/
def State.deliverMask (s0 : State) (md : Nat) (f : Nat → Bool) : State :=
  s0.act.foldl (fun s l =>
    if s0.maskOk l then s.setMBit (s0.lane l) md (f l)
    else if s0.zi then s.setMBit (s0.lane l) md false
    else s) s0

/-- The lowest slice of a split that has an active lane: where once-per-split instructions take their S
operands (R139). -/
def State.lead (s : State) : SliceId :=
  match s.cur.slices.find? fun c => !(s.sliceLanes s.u.iss.team s.u.iss.group c).isEmpty with
  | some c => s.slice c
  | none => s.slice 0

/-- Write an S register in every slice of the split (R139). -/
def State.setSAll (s : State) (n : Nat) (w : Word) : State :=
  s.slices.foldl (fun t c => t.setS c n w) s

/-- Split, team and role of the unit. -/
def State.role (s : State) : Role := (s.grp s.gid).role

/-- Budget of V registers of a role (R130, R338). -/
def State.budget (s : State) : Nat :=
  let i := match s.role with | .copy => 0 | .matrix => 1 | .vector => 2 | .general => 3
  (s.launch s.u.iss.team).regs.getD i 0

/-- The core a group sits on (R129). -/
def State.coreOf (s : State) (g : GroupId) : Nat := (s.team g.t).core + (s.grp g).half

/-- A lane is live while its slice's mask or stack still holds it (R138, R204). -/
def Slice.live (c : Slice) (i : Nat) : Bool :=
  !c.gone && (maskBit c.mask i || c.stack.any fun e => maskBit e.mask i)

/-- The live lanes of a group. -/
def State.liveLanes (s : State) (t g : Nat) : List Nat :=
  (List.range (s.width t)).filter fun l => (s.slc ⟨t, g, l / 4⟩).live (l % 4)

/-! ### Fault records (R215) -/

/-- The fault codes of R216. -/
abbrev ILLEGAL_OP := 0x01
abbrev EMPTY_READ := 0x02
abbrev MISALIGN := 0x03
abbrev PAGE_FAULT := 0x04
abbrev ACCESS := 0x05
abbrev WINDOW := 0x06
abbrev DEFERRED_ACCESS := 0x07
abbrev HANDLE_STALE := 0x08
abbrev HANDLE_INVALID := 0x09
abbrev META_MALFORMED := 0x0A
abbrev RENDEZVOUS := 0x0B
abbrev ROLE := 0x0C
abbrev BARRIER_STALL := 0x0D
abbrev FORMAT := 0x0E
abbrev POISON := 0x0F
abbrev TRAP := 0x10
abbrev BREAKPOINT := 0x11
abbrev STACK := 0x12
abbrev DIVERGE := 0x13
abbrev FABRIC := 0x14
abbrev TASK := 0x15
abbrev NOT_COOP := 0x16
abbrev WATCHDOG := 0x17
abbrev ALIAS := 0x18

/-- A set of lane numbers as a 64-bit mask (R215 LANES). -/
def laneBits (ls : List Nat) : Nat := ls.foldl (fun n l => n ||| 2 ^ l) 0

/-- Low and high words of a 64-bit value. -/
def words64 (v : Nat) : List Word := [BitVec.ofNat 32 v, BitVec.ofNat 32 (v / 2 ^ 32)]

/-- The 16 words of the record of a fault of a split (R215). -/
def State.faultWords (s : State) (p : Split) (f : FaultInfo) (nested : Bool) : List Word :=
  let t := s.team p.team
  let g := s.grp ⟨p.team, p.group⟩
  let lanes := f.lanes.getD (s.active p)
  let w0 := 2 ^ 31 + (if nested then 2 ^ 30 else 0) + (if f.held then 2 ^ 29 else 0) +
    (if f.replayable then 2 ^ 28 else 0) + p.slices.headD 0 % 16 * 2 ^ 24 + f.reg % 256 * 2 ^ 16 +
    f.code % 256
  let w1 := g.half % 2 * 2 ^ 23 + p.group % 128 * 2 ^ 16 + (s.launch p.team).asid % 2 ^ 16
  [BitVec.ofNat 32 w0, BitVec.ofNat 32 w1, BitVec.ofNat 32 ((t.core + g.half) % 1024)] ++
    words64 f.unitPc.toNat ++ words64 (f.wordPc.getD f.unitPc).toNat ++ words64 (laneBits lanes) ++
    words64 f.addr ++ [BitVec.ofNat 32 f.info] ++ words64 (s.launch p.team).tag ++ words64 s.u.clk

/-- Is any slice of the split in handler mode (R217)? -/
def State.inHandler (s : State) (p : Split) : Bool :=
  p.slices.any fun c => (s.slc ⟨p.team, p.group, c⟩).hmode

/-- Latch a record in every slice of a split (R215). -/
def State.latchRec (s : State) (p : Split) (w : List Word) : State :=
  p.slices.foldl (fun t c => t.modSlc ⟨p.team, p.group, c⟩ fun x => { x with faultRec := w }) s

/-! ### Splits -/

/-- The lowest entry of a core's split table that no split holds, those of saved teams holding none (R131, R356; log
entry 57). -/
def State.freeTix (s : State) (core : Nat) : Nat :=
  let used := (s.x.splits.filter fun p =>
    decide (s.coreOf ⟨p.team, p.group⟩ = core ∧ (s.team p.team).status ≠ .saved)).map (·.tix)
  ((List.range (used.length + 1)).find? fun n => decide (n ∉ used)).getD 0

/-- The order of splits at issue (R146): starved first, then smaller AGE, then lower table index. -/
def Split.ahead (p q : Split) : Bool :=
  let k := fun (x : Split) => if 256 ≤ x.wcount then 0 else 1
  decide (k p < k q) || (decide (k p = k q) && (decide (p.age < q.age) || decide (p.age = q.age ∧ p.tix ≤ q.tix)))

/-- A name the machine has not used. -/
def State.takeUid (s : State) : State := { s with u.uid := s.u.uid + 1 }

/-- Add a split that takes a fresh name and a free table entry. -/
def State.addSplit (s : State) (p : Split) : State :=
  { s with
    x.splits := s.x.splits ++
      [{ p with sid := s.u.uid, tix := s.freeTix (s.coreOf ⟨p.team, p.group⟩) }]
    u.uid := s.u.uid + 1 }

/-- Divide a split by the next PC of each of its slices (R134, R143, R218): the part with the lowest slice
keeps the entry, the others take free ones and inherit what the split held. `upd` adjusts each part. -/
def State.divide (s : State) (sid : Nat) (pcOf : Nat → Pc) (upd : Split → Split) : State :=
  match s.split? sid with
  | none => s
  | some p =>
    let part := fun q => upd { p with pc := q, slices := p.slices.filter fun c => pcOf c == q }
    match (p.slices.map pcOf).eraseDups with
    | [] => s
    | q :: qs =>
      qs.foldl (fun t r => t.addSplit { part r with late := [] }) (s.modSplit sid fun _ => part q)

/-- The split that holds a slice of a group. -/
def State.splitOf (s : State) (c : SliceId) : Option Split :=
  s.x.splits.find? fun p => decide (p.team = c.t ∧ p.group = c.g ∧ c.s ∈ p.slices)

/-! ### Taking a fault, and the return from a handler (R217 to R219) -/

/-- Physical address of the state record of a queue (R336, R386). -/
def State.queuePa (s : State) (q : Nat) : Nat :=
  (s.dieReg (q / 8192) 0xC5).toNat % 2 ^ 20 * 2 ^ 20 + 128 * (q % 8192)

/-- Location of the state record of a queue. -/
def State.queueLoc (s : State) (q : Nat) : Nat := s.locPhys (s.queuePa q)

/-- Write a list of words at a physical address. -/
def State.storeWords (s : State) (pa : Nat) : List Word → State
  | [] => s
  | w :: ws => (s.physStore pa w.toNat 4).storeWords (pa + 4) ws

/-- Set ERROR on a queue, with its ERRREC (R336, R344). -/
def State.queueError (s : State) (q : Nat) (rec16 : List Word) : State :=
  let w5 := s.load (s.queueLoc q + 20) 4
  (s.physStore (s.queuePa q + 20) (w5 ||| 1) 4).storeWords (s.queuePa q + 64) rec16

/-- The splits of a grid's teams. -/
def State.inGrid (s : State) (g : Nat) (t : Nat) : Bool := decide ((s.team t).grid = g ∧ (s.team? t).isSome)

/-- ABORT_GRID (R217, R252, R272): the grid's splits never issue again, its held accesses are cancelled, its
copies stop, its teams' tenures are released into their drains and their requests withdrawn, and its queue
reports the record. What else its teams had begun runs to its end; GRID_RETIRE releases the rest. -/
def State.abortGrid (s : State) (g : Nat) (rec16 : List Word) : State :=
  let mine := s.inGrid g
  let q := (s.grid g).queue
  let ours := fun (h : Tenure) => mine h.team && match h.holder with | .reshard _ => false | _ => true
  let left := (s.e.tens.filter ours).filter fun h => match h.holder with | .team _ => true | _ => false
  { s.queueError q rec16 with
    x.grids := s.x.grids.map fun x => if x.uid = g then { x with aborted := true } else x
    x.splits := s.x.splits.filter fun p => !mine p.team
    k.acc := s.k.acc.filter fun a => !(mine a.lane.t && match a.phase with | .held _ => true | _ => false)
    d.fq := s.d.fq.filter fun r => !(decide (r.kind ≠ .report) && mine (s.split r.sid).team)
    e.copies := s.e.copies.filter fun c => !mine c.team
    e.latch := s.e.latch.filter fun d => !mine d.team
    e.tens := s.e.tens.filter fun h => !ours h
    e.reqs := s.e.reqs.filter fun h => !ours h
    e.drains := s.e.drains ++ left.map fun h =>
      { team := h.team, foot := h.foot, seq := s.u.seqNo, copies := [], write := h.write, asid := (s.launch h.team).asid
        rshs := (s.e.rsh.filter fun r => decide (r.team = h.team ∧ r.own = false ∧ r.phase ≠ .asked)).map (·.id) } }

/-- Queue a record to a die's fault queue (R362). -/
def State.postFq (s : State) (r : FqRec) : State := { s with d.fq := s.d.fq ++ [r] }

/-- Disarm the watches of a split (R173). -/
def State.disarm (s : State) (p : Split) : State :=
  p.slices.foldl (fun t c => t.modSlc ⟨p.team, p.group, c⟩ fun x => { x with watch := none }) s

/-- A split asleep in MWAIT. -/
def Split.asleep (p : Split) : Bool := match p.park with | .mwait _ => true | _ => false

/-- Wake the splits of a test that sleep in MWAIT: their watches are disarmed, and each goes on after it (R173). -/
def State.wakeAll (s : State) (f : Split → Bool) : State :=
  let w := s.x.splits.filter fun p => f p && p.asleep
  let s := w.foldl (fun t p => t.disarm p) s
  { s with x.splits := s.x.splits.map fun p => if f p && p.asleep then { p with park := .run } else p }

/-- Halt a group, its stopped split being `sid` if given (R219); its sleeping splits wake (R173). -/
def State.haltGroup (s : State) (g : GroupId) (sid : Option Nat) : State :=
  (s.modGrp g fun x => { x with halted := true, stopped := sid <|> x.stopped, stepping := false }).wakeAll
    fun p => decide (p.team = g.t ∧ p.group = g.g)

/-- The results of an SFU operation land (R116). -/
def State.landSfu (s : State) (o : SfuOp) : State :=
  let t := o.results.foldl (fun (t : State) r => t.setV ⟨o.team, o.group, r.1⟩ o.vd r.2) s
  { t with e.sfu := t.e.sfu.filter fun q => decide (q.id ≠ o.id) }

/-- Every SFU result of a team in flight lands: a stop of its group waits for them (R116). -/
def State.landTeamSfu (s : State) (t : Nat) : State :=
  (s.e.sfu.filter fun o => decide (o.team = t)).foldl (fun u o => u.landSfu o) s

/-- Halt the group of a split, or with TEAMSTOP the whole team, the split being the stopped one (R219); the team's SFU
results in flight land first (R116). -/
def State.stop (s : State) (p : Split) : State :=
  let s := (s.landTeamSfu p.team).haltGroup ⟨p.team, p.group⟩ (some p.sid)
  if (s.team p.team).teamStop then
    ((s.groups p.team).filter fun g => decide (g ≠ p.group)).foldl (fun t g => t.haltGroup ⟨p.team, g⟩ none) s
  else s

/-- Where a split resumes after a fault: the next unit for TRAP and BREAKPOINT, the unit at which it stopped
for a late fault, otherwise the unit itself (R216, R217). -/
def FaultInfo.resume (f : FaultInfo) (next : Pc) : Pc :=
  if f.code = TRAP ∨ f.code = BREAKPOINT then next
  else if f.late then f.wordPc.getD f.unitPc
  else f.unitPc

/-- Entry of every slice of a split into its trap handler (R217, R64). -/
def State.enterHandler (s : State) (p : Split) (resume : Pc) (handler : Pc) : State :=
  let s := p.slices.foldl (fun t c => t.modSlc ⟨p.team, p.group, c⟩ fun x =>
    { x with hmode := true, epc := resume, ebCount := p.blkCount, ebPattern := p.blkPattern,
             ebMask := if p.blkCount = 0 then 0 else x.blkMask, blkMask := 0 }) s
  s.modSplit p.sid fun x => { x with pc := handler, blkCount := 0, blkPattern := 0, waitFrom := none,
                                     park := .run }

/-- Take a fault in a split (R215 to R219): latch its record in every slice; with DBGEN stop the group;
otherwise act under the grid's policy, a fault in handler mode being NESTED and handled by ABORT_GRID.
`next` is the address of the unit after the faulting one. -/
def State.takeFault (s : State) (sid : Nat) (f : FaultInfo) (next : Pc) : State :=
  match s.split? sid with
  | none => s
  | some p =>
    let nested := s.inHandler p
    let w := s.faultWords p f nested
    let s1 := s.latchRec p w
    let la := s.launch p.team
    if (s.team p.team).dbgen then
      (s1.stop p).modSplit sid fun x => { x with pc := f.resume next, waitFrom := none, park := .run }
    else if nested then s1.abortGrid (s.team p.team).grid w
    else
      match la.policy with
      | .abortGrid => s1.abortGrid (s.team p.team).grid w
      | .handler =>
        if la.trapPc = 0 then s1.abortGrid (s.team p.team).grid w
        else s1.enterHandler p (f.resume next) (BitVec.ofNat 56 la.trapPc)
      | .replay =>
        (s1.modSplit sid fun x =>
            { x with park := .replay f.unitPc (if f.late then f.resume next else next), pc := f.unitPc, waitFrom := none }).postFq
          { die := s.coreOf ⟨p.team, p.group⟩ / 192, words := w, kind := .replay, sid := sid,
            code := f.code }

/-- The resume address of a slice (R217). -/
def State.epcOf (s : State) (c : SliceId) : Pc := (s.slc c).epc

/-- RTE's return (R218): each slice goes to its own resume address; COUNT and PATTERN come from the lowest
slice of each resulting split, MASK from each slice's own register; handler mode is cleared. -/
def State.returnFromTrap (s : State) (sid : Nat) : State :=
  match s.split? sid with
  | none => s
  | some p =>
    let s1 := s.divide sid (fun c => s.epcOf ⟨p.team, p.group, c⟩) fun x =>
      let e := s.slc ⟨p.team, p.group, x.slices.headD 0⟩
      { x with blkCount := e.ebCount, blkPattern := e.ebPattern }
    p.slices.foldl (fun t c => t.modSlc ⟨p.team, p.group, c⟩ fun x =>
      { x with hmode := false, blkMask := x.ebMask }) s1

/-! ### The frame of an issue unit (R70, R82, R146) -/

/-- A checked read: a range of V registers, its trap bit, and the lanes read (none: the lanes with a true
effective mask) (R82). -/
structure Read where
  reg : Nat
  n : Nat := 1
  trap : Bool := false
  lanes : Option (List Nat) := none
  deriving DecidableEq, Repr

/-- What an issue unit uses, as its encoding and prefixes say. -/
structure Use where
  /-- its major opcode -/
  major : Nat
  /-- no breach of the rules that raise ILLEGAL_OP -/
  legal : Bool
  /-- V register ranges read -/
  reads : List Read := []
  /-- V register ranges written -/
  dests : List (Nat × Nat) := []
  /-- roles that may issue it besides those of its major (R148) -/
  allRoles : Bool := false
  /-- roles that may not, though its major may (R148) -/
  notVector : Bool := false
  notCopy : Bool := false
  matrixToo : Bool := false
  /-- may a PBLK cover it (R63)? -/
  cover : Bool := true
  /-- every other condition of readiness (R82, R146) -/
  ready : Bool := true
  /-- it is a REGANG (R137) -/
  regang : Bool := false
  /-- it is group-wide and its split does not hold the whole group (R181) -/
  partGroup : Bool := false
  /-- lanes whose destinations must not be empty, where they are not those of the effective mask -/
  dlanes : Option (List Nat) := none
  deriving DecidableEq, Repr

/-- Majors that no PBLK covers: FLOW, the SARITH and SMISC scalars, formats B and X (R63). -/
def majorCovered (m : Nat) : Bool :=
  !decide (m ∈ [0x07, 0x08, 0x0E, 0x15, 0x17, 0x18, 0x19, 0x1A, 0x1B, 0x1D, 0x1E])

/-- May a role issue an instruction of a major (R148)? -/
def roleMay (r : Role) (m : Nat) : Bool :=
  if m ∈ [0x07, 0x08, 0x0E, 0x0F, 0x1A] then true
  else
    match r with
    | .copy => decide (m ∈ [0x11, 0x12, 0x13, 0x14, 0x15, 0x16, 0x19, 0x1B, 0x1C])
    | .matrix => decide (m ∈ [0x17, 0x18])
    | .vector => decide (m ≠ 0x17)
    | .general => true

/-- The role rules for a unit (R148). -/
def Use.roleOk (u : Use) (r : Role) : Bool :=
  u.allRoles ||
    match r with
    | .vector => roleMay .vector u.major && !u.notVector
    | .copy => roleMay .copy u.major && !u.notCopy
    | .matrix => roleMay .matrix u.major || u.matrixToo
    | .general => true

/-- Register ranges lie in the file and below the role's budget (R55). -/
def Use.inBudget (u : Use) (b : Nat) : Bool :=
  (u.reads.all fun r => decide (r.reg + r.n ≤ b)) && u.dests.all fun d => decide (d.1 + d.2 ≤ b)

/-- No rule that raises ILLEGAL_OP is broken (R55, R63, R69). -/
def State.unitLegal (s : State) (u : Use) : Bool :=
  u.legal && u.inBudget s.budget && (s.u.iss.cond.isNone || (u.cover && majorCovered u.major))

/-- The lanes of a checked read. -/
def State.readLanes (s : State) (r : Read) : List Nat := r.lanes.getD s.elanes

/-- The first empty register of a read in a lane. -/
def State.readEmpty (s : State) (r : Read) (l : Nat) : Option Nat := s.emptyIn (s.lane l) r.reg r.n

/-- The empty checked read with its trap bit set that EMPTY_READ names: register and lanes (R82, R106). -/
def State.trapRead (s : State) : List Read → Option (Nat × List Nat)
  | [] => none
  | r :: rs =>
    if r.trap then
      match (s.readLanes r).findSome? fun l => s.readEmpty r l with
      | some n => some (n, (s.readLanes r).filter fun l => s.isEmpty (s.lane l) n)
      | none => s.trapRead rs
    else s.trapRead rs

/-- Is any checked read empty (R82)? -/
def State.anyEmpty (s : State) (rs : List Read) : Bool :=
  rs.any fun r => (s.readLanes r).any fun l => (s.readEmpty r l).isSome

/-- Is a destination empty in a lane the unit would write (R82)? -/
def State.destEmpty (s : State) (u : Use) : Bool :=
  u.dests.any fun d => (u.dlanes.getD s.wlanes).any fun l => (s.emptyIn (s.lane l) d.1 d.2).isSome

/-- The unit, or the PBLK in front of it, stands at the JOIN of its split's innermost frame without being a REGANG
(R137). -/
def State.joinBreach (s : State) (p : Split) (u : Use) : Bool :=
  match p.frames with
  | f :: _ => (f.join == s.u.iss.unitPc || f.join == p.pc) && !u.regang
  | [] => false

/-- Majors 0x17 and 0x18 take DIVERGE before they wait and before EMPTY_READ (R203). -/
def joinFirst (major : Nat) : Bool := decide (major = 0x17 ∨ major = 0x18)

/-- The access has not completed (R160). -/
def Access.isLoad (a : Access) : Bool :=
  match a.kind with
  | .load _ | .ldc | .atom _ | .mscale | .fetch | .monitor => true
  | .store _ | .cache _ | .dst _ _ => false

/-- A store or record that a deferred page takes: appending it is not a write (R332). -/
def Access.append (a : Access) : Bool :=
  match a.kind, a.leaf with
  | .store _, some lf => lf.df
  | .dst _ _, some lf => lf.df
  | _, _ => false

/-- An access is held at a fault of its translation (R176). -/
def Access.isHeld (a : Access) : Bool := match a.phase with | .held _ => true | _ => false

/-- An access stands before a completed round, and team `t` took part in the round before its program-order number `seq`:
the access happens before what a lane of the team does there (R204, R325, R330). -/
def State.beforeRound (s : State) (a : Access) (t seq : Nat) : Bool :=
  !a.append && s.k.syncs.any fun y => decide (a.lane.t ∈ y.1 ∧ t ∈ y.1 ∧ a.seq < y.2 ∧ y.2 ≤ seq)

/-- An access that a fence covers is still in flight: its lanes' own earlier ones, and for a release those that a round put
before it (R323, R328, R330); no record is (R332). -/
def State.fenceCovers (s : State) (f : FenceIn) (p : Split) (a : Access) : Bool :=
  (!a.append && decide (a.lane.t = p.team ∧ a.lane.g = p.group ∧ a.lane.l ∈ f.lanes ∧ a.seq < f.seq) &&
    (decide (f.order ≠ .acquire) || a.isLoad)) ||
    (decide (f.order ≠ .acquire) && s.beforeRound a p.team f.seq)

/-- A FENCE of a split has completed (R328). -/
def State.fenceMet (s : State) (p : Split) (f : FenceIn) : Bool := s.k.acc.all fun a => !s.fenceCovers f p a

/-- A scope narrower than the device: its instances are teams or clusters (R319). -/
def Scope.narrow : Scope → Bool
  | .team | .cluster => true
  | _ => false

/-- Lane m is in lane l's instance of a scope (R319); every lane of the machine is a lane of the module. -/
def State.inScope (s : State) (sc : Scope) (l m : LaneId) : Bool :=
  match sc with
  | .lane => decide (l = m)
  | .team => decide (l.t = m.t)
  | .cluster => decide (s.coreOf l.group / 8 = s.coreOf m.group / 8)
  | _ => true

/-- A store that stands at its home, or at its module's port, and waits only for acknowledgements. -/
def Access.passing (a : Access) : Bool :=
  match a.kind, a.phase with
  | .store _, .atHome => true
  | .store _, .remote => true
  | _, _ => false

/-- A FENCE of narrow scope lets its split go on once what it covers is performed at that scope: its lanes' stores need reach
no further agent (R319, R320, R328). -/
def State.fencePassed (s : State) (p : Split) (f : FenceIn) : Bool :=
  f.scope.narrow && s.k.acc.all fun a =>
    !s.fenceCovers f p a || (a.passing && decide (a.lane.t = p.team ∧ a.lane.g = p.group ∧ a.lane.l ∈ f.lanes))

/-- Every FENCE in force on a split has completed at its scope (R328). -/
def State.fenceDone (s : State) (p : Split) : Bool := p.fences.all fun f => s.fenceMet p f || s.fencePassed p f

/-- A range of registers meets a pending destination range of the group under issue (R186): of an operation in
flight, or of the leader's deposit (R192). -/
def State.pending (s : State) (reg n : Nat) : Bool :=
  (s.e.mats.any fun m => decide (m.team = s.u.iss.team ∧ m.group = s.u.iss.group ∧ reg < m.vd + m.n ∧
    m.vd < reg + n)) ||
    s.e.latch.any fun d => decide (d.team = s.u.iss.team ∧ d.group = s.u.iss.group ∧ reg < d.vd + 32 ∧
      d.vd < reg + n ∧ d.consort.toNat / 2 ^ (7 * (d.consort.toNat / 2 ^ 45 % 8)) % 128 = d.group)

/-- No register the unit reads or writes is pending (R186). -/
def State.pendFree (s : State) (u : Use) : Bool :=
  (u.reads.all fun r => !s.pending r.reg r.n) && u.dests.all fun d => !s.pending d.1 d.2

/-- MEM and ENGINE class units wait for a FENCE (R145, R328). -/
def gatedByFence (m : Nat) : Bool := decide ((0x11 ≤ m ∧ m ≤ 0x16) ∨ (0x19 ≤ m ∧ m ≤ 0x1E))

/-- What a unit's own effect came to: a next state; the unit waits unissued, the second form with an effect on
the state before the unit; a fault, the second form with an effect beside it. -/
inductive Res where
  | ok (s : State)
  | wait
  | hold (f : State → State)
  | trap (f : FaultInfo)
  | fail (g : State → State) (f : FaultInfo)

/-- The split's bookkeeping of an issue (R62, R146, R147): next unit, AGE, waiting count, block. -/
def State.issued (s : State) : State :=
  let i := s.u.iss
  s.modSplit i.sid fun p =>
    { p with
      pc := i.nextPc, age := s.u.clk, wcount := 0, waitFrom := none, await := none
      blkCount := if i.cond.isSome then p.blkCount - 1 else p.blkCount
      blkPattern := if i.cond.isSome then p.blkPattern >>> 1 else p.blkPattern }

/-- The unit has not issued; its wait is counted from the clk it was first examined (R205). -/
def State.waiting (s : State) : State :=
  let s := s.modSplit s.u.iss.sid fun p =>
    { p with waitFrom := match p.waitFrom with | some c => some c | none => some s.u.clk }
  { s with u.iss.waited := true }

/-- An illegal unit leaves the block state as it was: the PBLK issued together with it takes no effect (R69). -/
def State.unblock (s : State) (code : Nat) : State :=
  let i := s.u.iss
  if code = ILLEGAL_OP ∧ (s.split i.sid).pc ≠ i.unitPc then
    s.modSplit i.sid fun p => { p with blkCount := 0, blkPattern := 0 }
  else s

/-- The fault of the unit under issue. -/
def State.fault (s : State) (f : FaultInfo) : State :=
  let i := s.u.iss
  (s.unblock f.code).takeFault i.sid { f with unitPc := i.unitPc } i.nextPc

/-- One issue unit (R70, R82, R146). -/
def unit (u : Use) (body : State → Res) (s : State) : Host.Outcome State Fault Refusal :=
  match s.split? s.u.iss.sid with
  | none => .next s
  | some p =>
    if !s.unitLegal u then
      .next (s.fault { code := ILLEGAL_OP, wordPc := some s.u.iss.wordPc })
    else if !u.roleOk s.role then .next (s.fault { code := ROLE })
    else if u.partGroup then .next (s.fault { code := DIVERGE, info := 2 })
    else if joinFirst u.major && s.joinBreach p u then .next (s.fault { code := DIVERGE, info := 1 })
    else if !(u.ready && s.pendFree u && (!gatedByFence u.major || s.fenceDone p) && !s.destEmpty u) then
      .next s.waiting
    else
      match s.trapRead u.reads with
      | some (n, ls) => .next (s.fault { code := EMPTY_READ, reg := n, lanes := some ls })
      | none =>
        if s.joinBreach p u && !(decide (u.major = 0x0E) && s.anyEmpty u.reads) then
          .next (s.fault
            (match (if u.major = 0x0E then body s.issued else .wait) with
             | .trap f => if f.code = MISALIGN then f else { code := DIVERGE, info := 1 }
             | _ => { code := DIVERGE, info := 1 }))
        else if s.anyEmpty u.reads then .next s.waiting
        else
          match body s.issued with
          | .ok t => .next t
          | .wait => .next s.waiting
          | .hold f => .next (f s).waiting
          | .trap f => .next (s.fault f)
          | .fail g f => .next ((g s).fault f)

/-- The meaning of an instruction: what its issue unit uses, and what the unit does once it issues. -/
structure Meaning where
  use : Use
  body : State → Res

/-- An instruction runs as one issue unit. -/
def Meaning.run (m : Meaning) (s : State) : Host.Outcome State Fault Refusal := unit m.use m.body s

/-! ### Lifetime records (R400) -/

/-- The maximum of a record's count, by its kind. -/
def lifeMax (kind : Nat) : Nat :=
  if kind = 7 ∨ kind = 8 then 2 ^ 16 - 1 else if kind = 9 then 2 ^ 8 - 1 else 2 ^ 32 - 1

/-- Add one to a count of a table; it saturates. -/
def bumpLife (t : Tab (Nat × Nat × Nat) Nat) (k : Nat × Nat × Nat) : Tab (Nat × Nat × Nat) Nat :=
  t.put k (min (t.look k 0 + 1) (lifeMax k.1))

/-- A lifetime count rises: kinds are 0 corrected errors of a core, 1 of a stack, 2 poison events of a stack, 3 of a
die, 4 temperature (die, bin), 5 voltage (rail, bin), 6 link retrains, 7 rollbacks, 8 thermal trips, 9 retired
pseudo-channels, 10 powered hours, 11 the minutes of the hour under way, which are no record. -/
def State.bump (s : State) (k : Nat × Nat × Nat) : State := { s with p.life := bumpLife s.p.life k }

end Sys2Proof.Machine
end

