-- ==== Sys2Proof/Machine/Operands.lean ====
section
/-! DEFINITION. Operand forms: what a MODP or an IMMX may carry before an instruction (R58 to R60, R65), packed
elements (R90), the rounding in force (R21, R22), and register pairs (R55). -/

namespace Sys2Proof.Machine

/-- What of a MODP an instruction uses (R58); every other field must be 0. -/
structure Allow where
  packs : List Nat := [0]
  vc : Bool := false
  /-- highest rounding code: 0 none, 5 DYN, 6 STOCH (R21) -/
  rnd : Nat := 0
  sat : Bool := false
  alt : Bool := false
  zi : Bool := true

/-- The MODP, if any, carries only what is allowed. -/
def Allow.ok (a : Allow) (m : Option Modp) : Bool :=
  match m with
  | none => true
  | some m =>
    decide (m.pack.toNat ∈ a.packs) && (a.vc || (decide (m.vc = 0) && !m.tc)) &&
      decide (m.rnd.toNat ≤ a.rnd) && (a.sat || !m.sat) && (a.alt || !m.alt) && (a.zi || !m.zi)

/-- The pack field; 0 without a MODP. -/
def State.pack (s : State) : Nat := match s.u.iss.modp with | some m => m.pack.toNat | none => 0
/-- The alt bit. -/
def State.alt (s : State) : Bool := match s.u.iss.modp with | some m => m.alt | none => false
/-- The sat bit. -/
def State.sat (s : State) : Bool := match s.u.iss.modp with | some m => m.sat | none => false
/-- The third source: vc of the MODP, or vd without one (R50, R57). -/
def State.vc (s : State) (vd : Nat) : Nat := match s.u.iss.modp with | some m => m.vc.toNat | none => vd
/-- Trap bit of the third source. -/
def State.tc (s : State) : Bool := match s.u.iss.modp with | some m => m.tc | none => false
/-- Neither MODP nor IMMX stands before the instruction. -/
def State.bare (s : State) : Bool := s.u.iss.modp.isNone && s.u.iss.immx.isNone
/-- No IMMX stands before the instruction. -/
def State.noImmx (s : State) : Bool := s.u.iss.immx.isNone
/-- The MODP is allowed, and no IMMX stands before the instruction (formats A and X, R65). -/
def State.modpOk (s : State) (a : Allow) : Bool := a.ok s.u.iss.modp && s.noImmx

/-- A register that starts a range aligned to `n`. -/
def aligned (r n : Nat) : Bool := decide (r % n = 0)

/-- The registers of an operand under the pack field: a pair under 64-bit packing (R90). -/
def State.regsPer (s : State) : Nat := if s.pack = 3 then 2 else 1
/-- An operand register that must be even under 64-bit packing. -/
def State.pairOk (s : State) (r : Nat) : Bool := decide (s.pack ≠ 3) || aligned r 2

/-- Number of elements and element width of a packing (R90). -/
def packShape (p : Nat) : Nat × Nat :=
  match p with
  | 0 => (1, 32)
  | 1 => (2, 16)
  | 2 => (4, 8)
  | _ => (1, 64)

/-- Element e of width w of a value (R90). -/
def elem (x e w : Nat) : Nat := x / 2 ^ (w * e) % 2 ^ w

/-- Elements 0 to n − 1 of width w put together; each is taken modulo 2^w. -/
def joinElems (w : Nat) (f : Nat → Nat) : Nat → Nat
  | 0 => 0
  | n + 1 => joinElems w f n + f n % 2 ^ w * 2 ^ (w * n)

/-- A value with element e of width w replaced. -/
def setElem (x e w v : Nat) : Nat := x - elem x e w * 2 ^ (w * e) + v % 2 ^ w * 2 ^ (w * e)

/-- Sign-extend the low n bits to a 32-bit word. -/
def sextWord (n x : Nat) : Word := BitVec.ofInt 32 (sext n x)

/-- An 8-bit signed immediate with its IMMX extension (R65): 31 bits when extended. -/
def State.immS (s : State) (imm : BitVec 8) : Int :=
  match s.u.iss.immx with
  | some p => sext 31 (p * 2 ^ 8 + imm.toNat)
  | none => imm.toInt

/-- An 8-bit unsigned immediate with its IMMX extension (R65). -/
def State.immU (s : State) (imm : BitVec 8) : Nat :=
  match s.u.iss.immx with
  | some p => p * 2 ^ 8 + imm.toNat
  | none => imm.toNat

/-- imm15 of MOVI and SMOVI, sign-extended, or the full 32 bits under IMMX (R51, R65). -/
def State.imm15 (s : State) (imm : BitVec 8) (lo : BitVec 7) : Word :=
  let v := imm.toNat * 2 ^ 7 + lo.toNat
  match s.u.iss.immx with
  | some p => BitVec.ofNat 32 (p * 2 ^ 15 + v)
  | none => sextWord 15 v

/-- IMMX before MOVI and SMOVI: bits 22:17 of the payload are 0 (R65). -/
def State.imm15Ok (s : State) : Bool :=
  match s.u.iss.immx with | some p => decide (p < 2 ^ 17) | none => true

/-- The rounding code of the MODP; RNE without one (R57). -/
def State.rndCode (s : State) : Nat := match s.u.iss.modp with | some m => m.rnd.toNat | none => 0

/-- The mode of a code from 0 to 4, or 6 with the generator word `u`, or RNE (R21). -/
def modeOf (code u : Nat) : RMode :=
  match code with
  | 1 => .rtz
  | 2 => .rup
  | 3 => .rdn
  | 4 => .rna
  | 6 => .stoch u
  | _ => .rne

/-- The mode code in force for a slice: DYN reads DRM (R21, R22). -/
def State.modeCode (s : State) (c : SliceId) : Nat :=
  if s.rndCode = 5 then (s.slc c).fpctl.toNat % 8 else s.rndCode

/-- The rounding of an instruction that is not a conversion; DRM = 6 counts as RNE (R21). -/
def State.roundOf (s : State) (c : SliceId) : Rnd :=
  let k := s.modeCode c
  { mode := modeOf (if k = 6 then 0 else k) 0, sat := false,
    sat8 := !(decide (s.rndCode = 5) && !(s.slc c).fpctl.getLsbD 3) }

/-- The rounding of a conversion, `u` being the generator word it consumes (R21, R24, R30). -/
def State.roundCvt (s : State) (c : SliceId) (u : Nat) : Rnd :=
  { mode := modeOf (s.modeCode c) u, sat := s.sat,
    sat8 := !(decide (s.rndCode = 5) && !(s.slc c).fpctl.getLsbD 3) }

/-- Does a conversion round by STOCH in a slice, so that it consumes generator words (R28)? -/
def State.stoch (s : State) (c : SliceId) : Bool := decide (s.modeCode c = 6)

/-- The element format of the floating-point packings (R108). -/
def State.fmt (s : State) : Fmt :=
  match s.pack with
  | 1 => if s.alt then bf16 else fp16
  | 3 => fp64
  | _ => fp32

/-- alt is legal with the packing (R108). -/
def State.fmtOk (s : State) : Bool := !s.alt || decide (s.pack = 1)

/-- The value of V operand r in lane l under the packing. -/
def State.opV (s : State) (l r : Nat) : Nat := s.getVs (s.lane l) r s.regsPer

/-- Use of a format A instruction with two V sources, and vc where it reads one, of `n` registers each. -/
def State.useA (s : State) (major : Nat) (o : OpA) (al : Allow) (third : Bool := false)
    (extra : Bool := true) : Use :=
  let n := s.regsPer
  let vc := s.vc o.vd.toNat
  { major := major
    legal := extra && s.modpOk { al with vc := third } && s.pairOk o.va.toNat && s.pairOk o.vb.toNat &&
      s.pairOk o.vd.toNat && (!third || s.pairOk vc)
    reads := [{ reg := o.va.toNat, n := n, trap := o.ta }, { reg := o.vb.toNat, n := n, trap := o.tb }] ++
      (if third then [{ reg := vc, n := n, trap := s.tc }] else [])
    dests := [(o.vd.toNat, n)] }

/-- Use of a format A instruction with one V source. -/
def State.useA1 (s : State) (major : Nat) (o : OpA1) (al : Allow) (extra : Bool := true) : Use :=
  let n := s.regsPer
  { major := major
    legal := extra && s.modpOk al && s.pairOk o.va.toNat && s.pairOk o.vd.toNat
    reads := [{ reg := o.va.toNat, n := n, trap := o.ta }]
    dests := [(o.vd.toNat, n)] }

/-- The packed result of lane l: `f w a b c` on the elements of three operand registers (R90). -/
def State.perElem (s : State) (ra rb rc : Nat) (f : Nat → Nat → Nat → Nat → Nat) (l : Nat) : Nat :=
  let nw := packShape s.pack
  let a := s.opV l ra
  let b := s.opV l rb
  let c := s.opV l rc
  joinElems nw.2 (fun e => f nw.2 (elem a e nw.2) (elem b e nw.2) (elem c e nw.2)) nw.1

/-- Deliver a packed result computed element by element from va, vb and vc (R90). -/
def State.deliverA (s : State) (o : OpA) (f : Nat → Nat → Nat → Nat → Nat) : Res :=
  .ok (s.deliverAll o.vd.toNat s.regsPer (s.perElem o.va.toNat o.vb.toNat (s.vc o.vd.toNat) f))

/-- Deliver a packed result computed element by element from va (R90). -/
def State.deliverA1 (s : State) (o : OpA1) (f : Nat → Nat → Nat) : Res :=
  .ok (s.deliverAll o.vd.toNat s.regsPer
    (s.perElem o.va.toNat o.va.toNat o.va.toNat fun w a _ _ => f w a))

/-- alt without sat is illegal on an instruction that takes sat (R91). -/
def State.satAlt (s : State) : Bool := !s.alt || s.sat

/-- Generator state of a lane: as the launch seeded it until it is written (R29). -/
def State.gen (s : State) (l : LaneId) : Word :=
  let g := (s.lan l).gen
  if g = 0 then genSeed 0 (s.teamLane l) else g

end Sys2Proof.Machine
end

