-- ==== Sys2Proof/Machine/Coherence.lean ====
section
/-! DEFINITION. What accesses meet on their way: footprints of layout records (R267 to R269, R283), tenure
with its recalls and breaches (R287, R288), keys and MSC tags (R378, R381), L2 lines and residency (R253
to R257), the region directory (R258 to R262), L1 fills; and the events INVALIDATION and REGION_MERGE. -/

namespace Sys2Proof.Machine

/-! ### Layout records and footprints -/

/-- Bits of an element of a format code (R20); 0 for a reserved code. -/
def fmtBits (c : Nat) : Nat :=
  match c with
  | 0x00 | 0x05 | 0x06 | 0x0B | 0x0C | 0x0E => 8
  | 0x01 | 0x11 => 64
  | 0x02 | 0x07 | 0x08 => 32
  | 0x03 | 0x04 | 0x09 | 0x0A => 16
  | 0x0D | 0x10 => 4
  | 0x0F => 6
  | _ => 0

/-- Is the format one of DX8, DX6, DX4 (R20)? -/
def fmtDx (c : Nat) : Bool := decide (0x0E ≤ c ∧ c ≤ 0x10)

/-- The layout record of eight words (R267). -/
def Layout.ofWords (w : List Word) : Layout :=
  let n := fun i => (w.getD i 0).toNat
  { base := n 0 + 2 ^ 32 * n 1
    ext := [n 2 % 2 ^ 16 + 1, n 2 / 2 ^ 16 + 1, n 3 % 2 ^ 16 + 1, n 3 / 2 ^ 16 + 1]
    str := [n 4, n 5, n 6]
    swz := bits (n 7) 10 8
    rank := bits (n 7) 7 6 + 1
    fmt := n 7 % 64
    extra := n 7 / 2 ^ 11 }

/-- Extent of a dimension. -/
def Layout.e (r : Layout) (d : Nat) : Nat := r.ext.getD d 1
/-- Stride of dimension 1, 2 or 3. -/
def Layout.s (r : Layout) (d : Nat) : Nat := r.str.getD (d - 1) 0
/-- Bits of an element. -/
def Layout.eb (r : Layout) : Nat := fmtBits r.fmt
/-- Bytes of a row: the elements of dimension 0 (R15, R32). -/
def Layout.rowBytes (r : Layout) : Nat := ceilDiv (r.e 0 * r.eb) 8
/-- Coordinates of the rows, with x3 most significant. -/
def Layout.rowCoords (r : Layout) : List (Nat × Nat × Nat) :=
  (List.range (r.e 3)).flatMap fun c => (List.range (r.e 2)).flatMap fun b =>
    (List.range (r.e 1)).map fun a => (a, b, c)
/-- First byte of the row at (x1, x2, x3). -/
def Layout.rowAt (r : Layout) (x : Nat × Nat × Nat) : Nat :=
  r.base + x.1 * r.s 1 + x.2.1 * r.s 2 + x.2.2 * r.s 3
/-- First bytes of the rows. -/
def Layout.rows (r : Layout) : List Nat := r.rowCoords.map r.rowAt
/-- Does the footprint meet `n` bytes from `lo` (R269)? -/
def Layout.meets (r : Layout) (lo n : Nat) : Bool :=
  r.rows.any fun a => decide (a < lo + n ∧ lo < a + r.rowBytes)
/-- One past the highest byte of the footprint. -/
def Layout.top (r : Layout) : Nat :=
  r.base + (r.e 1 - 1) * r.s 1 + (r.e 2 - 1) * r.s 2 + (r.e 3 - 1) * r.s 3 + r.rowBytes
/-- Span of a swizzle code in bytes; 0 for none (R268). -/
def swzSpan (c : Nat) : Nat := if c = 0 then 0 else 16 * 2 ^ c
/-- Byte offset within its row of an element of at least one byte, swizzled (R268). -/
def Layout.swizzled (r : Layout) (a x1 : Nat) : Nat :=
  let sp := swzSpan r.swz
  if sp = 0 then a else a / sp * sp + ((a % sp / 16) ^^^ (x1 % (sp / 16))) * 16 + a % 16

/-- Two records overlap (R283): exactly when formats, strides and swizzles agree, otherwise by bounding
intervals. -/
def Layout.overlaps (p q : Layout) : Bool :=
  if p.fmt = q.fmt ∧ p.str = q.str ∧ p.swz = q.swz then p.rows.any fun a => q.meets a p.rowBytes
  else decide (p.base < q.top ∧ q.base < p.top)

/-- Two footprints overlap. -/
def Foot.overlaps (f g : Foot) : Bool := f.recs.any fun p => g.recs.any fun q => p.overlaps q

/-- Does a footprint hold any of `n` bytes at a physical address of this module? -/
def Foot.meetsPa (f : Foot) (pa n : Nat) : Bool :=
  f.pages.any fun lf =>
    decide (lf.frame ≤ pa ∧ pa < lf.frame + lf.size) &&
      f.recs.any fun r => r.meets (lf.va + (pa - lf.frame)) n

/-! ### Tenure at accesses -/

/-- The agent of an access (R287): the team it counts for, and the engine that performs it. -/
structure Agent where
  team : Option Nat := none
  engine : Option Holding := none
  core : Option Nat := none
  asid : Nat := 0
  deriving DecidableEq, Repr

/-- A holder access (R287). -/
def Tenure.heldBy (h : Tenure) (a : Agent) : Bool :=
  match h.holder with
  | .team t => decide (a.team = some t)
  | e => decide (a.engine = some e)

/-- The tenures whose tile has the line of a physical address of this module. -/
def State.tenuresOn (s : State) (pa : Nat) : List Tenure :=
  s.e.tens.filter fun h => h.foot.meetsPa (pa / 128 * 128) 128

/-- The write tenures that recall an access to a line (R287); engine reads are never held. -/
def State.recallers (s : State) (a : Agent) (pa : Nat) (write : Bool) : List Tenure :=
  if a.engine.isSome && !write then []
  else (s.tenuresOn pa).filter fun h => h.write && !h.heldBy a

/-- Is a holder breached by an access of an agent (R287)? -/
def Tenure.breachedBy (h : Tenure) (a : Agent) (write : Bool) : Bool := !h.heldBy a && (h.write || write)

/-- Count a line in a breach record (R288). -/
def Tenure.addLine (h : Tenure) (line : Nat) : Tenure :=
  { h with brch := true, lines := if line ∈ h.lines then h.lines else h.lines ++ [line] }

/-- The breaches of an access to a line (R287, R288). -/
def State.breach (s : State) (a : Agent) (pa : Nat) (write : Bool) : State :=
  { s with e.tens := s.e.tens.map fun h =>
      if h.foot.meetsPa (pa / 128 * 128) 128 && h.breachedBy a write then h.addLine (pa / 128) else h }

/-! ### Reports (R216, R362) -/

/-- Words of a record that no split takes. -/
def State.reportWords (s : State) (code addr info core asid : Nat) : List Word :=
  [BitVec.ofNat 32 (2 ^ 31 + code), BitVec.ofNat 32 asid, BitVec.ofNat 32 core, 0, 0, 0, 0, 0, 0] ++
    words64 addr ++ [BitVec.ofNat 32 info, 0, 0] ++ words64 s.u.clk

/-! ### L1, region directory and invalidations -/

/-- Does a core's L1 hold the line of a physical address? -/
def State.inL1 (s : State) (core pa : Nat) : Bool :=
  s.k.l1.any fun x => decide (x.core = core ∧ x.pa = pa / 128 * 128)

/-- Trigger the watches of a core's slices on a line that its L1 lost (R172). -/
def State.triggerCore (s : State) (core line : Nat) : State :=
  { s with r.sl := s.r.sl.map fun p =>
      (p.1, if s.coreOf ⟨p.1.t, p.1.g⟩ = core then p.2.trigger line else p.2) }

/-- Drop lines from the L1s, with their copies. -/
def State.dropData (s : State) (f : L1Line → Bool) : State :=
  let lost := s.k.l1.filter f
  let s := lost.foldl (fun t x => t.triggerCore x.core x.line) s
  { s with
    k.l1 := s.k.l1.filter fun x => !f x
    m.snaps := s.m.snaps.filter fun c =>
      match c.holder with
      | .l1 core pa => !(lost.any fun x => decide (x.core = core ∧ x.pa = pa))
      | _ => true }

/-- Drop lines from the L1s and from the fetch-unit caches beside them, which share them in the directory (R289). -/
def State.dropL1 (s : State) (f : L1Line → Bool) : State :=
  { s.dropData f with k.fc := (s.dropData f).k.fc.filter fun x => !f x }

/-- Lines an L1 holds (R180): 128 KiB of 128-byte lines. -/
def l1Lines : Nat := 1024

/-- Put a line into a core's L1; a full L1 loses its oldest line (log entry 8). -/
def State.addL1 (s : State) (core loc pa : Nat) : State :=
  if s.inL1 core pa then s
  else
    let mine := s.k.l1.filter fun x => decide (x.core = core)
    let s :=
      if mine.length < l1Lines then s
      else match mine with
        | x :: _ => s.dropData fun y => decide (y = x)
        | [] => s
    { s with k.l1 := s.k.l1 ++ [{ core := core, line := loc / 128, pa := pa / 128 * 128 }] }

/-- Does a region cover a physical address? -/
def Region.covers (r : Region) (pa : Nat) : Bool := decide (r.base ≤ pa ∧ pa < r.base + 2 ^ r.log)

/-- The directory entry of a die that covers a physical address (R258). -/
def State.regionOf (s : State) (die pa : Nat) : Option Region :=
  s.k.regions.find? fun r => decide (r.die = die ∧ r.slice = homeSlice pa) && r.covers pa

/-- Regions of one slice do not overlap: the largest aligned region around an address that meets no entry, at
most 64 KiB (R258). -/
def State.freeRegion (s : State) (die pa : Nat) : Nat :=
  let mine := s.k.regions.filter fun r => decide (r.die = die ∧ r.slice = homeSlice pa)
  let free := fun lg =>
    let b := pa / 2 ^ lg * 2 ^ lg
    mine.all fun r => decide (r.base + 2 ^ r.log ≤ b ∨ b + 2 ^ lg ≤ r.base)
  ([16, 15, 14, 13, 12, 11, 10, 9, 8].find? free).getD 7

/-- Send an invalidation of a region (R259, R261). -/
def State.sendInv (s : State) (access : Nat) (core : Option Nat) (die slice base lg : Nat) : State :=
  { s with
    k.invs := s.k.invs ++
      [{ id := s.u.uid, access := access, core := core, die := die, slice := slice, base := base, log := lg }]
    u.uid := s.u.uid + 1 }

/-- Entries of a slice's region directory (R258). -/
def regionEntries : Nat := 8192

/-- The physical address under which a module's caches know a line: one of another module is set apart by that module's
number (R423). -/
def State.cachePa (s : State) (dev pa : Nat) : Nat := if dev = s.f.dev then pa else pa + 2 ^ 40 * (dev + 1)

/-- An access of a core goes to a line of a region, as the core's caches know it. -/
def State.inRegion (s : State) (a : Access) (core slice base lg : Nat) : Bool :=
  let pa := s.cachePa a.dev a.pa
  a.leaf.isSome && decide (s.coreOf a.lane.group = core ∧ homeSlice pa = slice ∧ base ≤ pa ∧ pa < base + 2 ^ lg)

/-- The fills of a core that are under way to lines of a region become void (R262). -/
def State.voidFills (s : State) (core slice base lg : Nat) : State :=
  { s with k.acc := s.k.acc.map fun a => if s.inRegion a core slice base lg then { a with void := true } else a }

/-- An L1 takes an invalidation: it drops the region's lines and voids its pending fills of them (R259, R262). -/
def State.dropRegion (s : State) (slice base lg core : Nat) : State :=
  (s.dropL1 fun x => decide (x.core = core ∧ homeSlice x.pa = slice ∧ base ≤ x.pa ∧ x.pa < base + 2 ^ lg)).voidFills
    core slice base lg

/-- Give up a directory entry: its region leaves every sharer first (R259). -/
def State.dropEntry (s : State) (r : Region) : State :=
  let s := r.sharers.foldl (fun (t : State) c => t.dropRegion r.slice r.base r.log c) s
  { s with k.regions := s.k.regions.filter fun x => decide (x ≠ r) }

/-- A slice's directory has room for one entry more; a full one gives up the entry that conflicted least recently, but not
the one that a test keeps (R259). -/
def State.entryRoom (s : State) (die slice : Nat) (keep : Region → Bool) : State :=
  let mine := s.k.regions.filter fun r => decide (r.die = die ∧ r.slice = slice)
  if mine.length < regionEntries then s
  else
    let mine := mine.filter fun r => !keep r
    match mine.filter fun r => mine.all fun x => decide (r.conflictAt ≤ x.conflictAt) with
    | r :: _ => s.dropEntry r
    | [] => s

/-- Record a core as a sharer of the region around an address (R258). -/
def State.share (s : State) (core pa : Nat) : State :=
  let die := core / 192
  match s.regionOf die pa with
  | some r =>
    { s with k.regions := s.k.regions.map fun x =>
        if x = r ∧ core ∉ x.sharers then { x with sharers := x.sharers ++ [core] } else x }
  | none =>
    let s := s.entryRoom die (homeSlice pa) fun _ => false
    let lg := s.freeRegion die pa
    { s with k.regions := s.k.regions ++
        [{ die := die, slice := homeSlice pa, base := pa / 2 ^ lg * 2 ^ lg, log := lg, sharers := [core] }] }

/-- A write at the directory of one die (R259): the entry that covers the line is split once. The answer holds the cores
to invalidate, and the base and log2 size of the region. -/
def State.splitFor (s : State) (writer : Option Nat) (die pa : Nat) : State × List Nat × Nat × Nat :=
  match s.regionOf die pa with
  | none => (s, [], 0, 7)
  | some r =>
    let others := r.sharers.filter fun c => decide (some c ≠ writer)
    if others.isEmpty then (s, [], 0, 7)
    else
      let lg := if 7 < r.log then r.log - 1 else 7
      let b := pa / 2 ^ lg * 2 ^ lg
      let e : Region := { r with base := b, log := lg, conflictAt := s.u.clk,
                                 sharers := r.sharers.filter fun c => decide (some c = writer) }
      let half : List Region :=
        if 7 < r.log then
          [{ r with base := if b = r.base then b + 2 ^ lg else r.base, log := lg }]
        else []
      let s := if half.isEmpty then s else s.entryRoom die r.slice fun x => decide (x = r)
      ({ s with k.regions := (s.k.regions.filter fun x => decide (x ≠ r)) ++ e :: half }, others, b, lg)

/-- A write at the directory of one die: invalidations go to every sharer but the writer (R259). -/
def State.conflictAt (s : State) (access : Nat) (writer : Option Nat) (die pa : Nat) : State :=
  let x := s.splitFor writer die pa
  x.2.1.foldl (fun t c => t.sendInv access (some c) die (homeSlice pa) x.2.2.1 x.2.2.2) x.1

/-- The line of a slice (R253, R261). -/
def State.l2Line (s : State) (die pa : Nat) : Option L2Line :=
  s.k.l2.find? fun x => decide (x.die = die ∧ x.pa = pa / 128 * 128)

/-- The guest copies of a line are gone, and so are its guest bits (R261). -/
def State.dropGuests (s : State) (pa : Nat) (f : Nat → Bool) : State :=
  { s with k.l2 := (s.k.l2.filter fun y => !(decide (y.pa = pa / 128 * 128) && y.guest && f y.die)).map fun y =>
      if y.pa = pa / 128 * 128 then { y with guests := y.guests.filter fun d => !f d } else y }

/-- A write to a tracked line (R259, R261): conflicts at the directory of every die, the guest copy on the writer's die goes
as the write passes, and invalidations go to the guest copies on other dies. -/
def State.conflicts (s : State) (access : Nat) (writer : Option Nat) (home pa : Nat) : State :=
  let s := [0, 1, 2, 3].foldl (fun t d => t.conflictAt access writer d pa) s
  let s := s.dropGuests pa fun d => decide (some d = writer.map (· / 192))
  match s.l2Line home pa with
  | none => s
  | some x => x.guests.foldl (fun t d => t.sendInv access none d (homeSlice pa) (pa / 128 * 128) 7) s

/-- The cores that a die's directory names for a line drop it (R261, R264, R265). -/
def State.dropSharers (s : State) (die pa : Nat) : State :=
  match s.regionOf die pa with
  | some r => r.sharers.foldl (fun (t : State) c => t.dropRegion r.slice (pa / 128 * 128) 7 c) s
  | none => s

/-- Invalidate a line in every L1 sharer and guest, acknowledged at once (R264, R265). -/
def State.purgeLine (s : State) (pa : Nat) : State :=
  (([0, 1, 2, 3] : List Nat).foldl (fun (t : State) d => t.dropSharers d pa) s).dropGuests pa fun _ => true

/-- A write to a tracked line by an engine, a controller, a host or a peer: the conflict of R259 at every directory, with
every invalidation acknowledged before the write is performed. -/
def State.conflictNow (s : State) (pa : Nat) : State :=
  (([0, 1, 2, 3] : List Nat).foldl (fun (t : State) d =>
    let x := t.splitFor none d pa
    x.2.1.foldl (fun (u : State) c => u.dropRegion (homeSlice pa) x.2.2.1 x.2.2.2 c) x.1) s).dropGuests pa fun _ => true

/-- INVALIDATION (R259, R261, R262): an L1 drops the region it holds and acknowledges; a guest slice
acknowledges once its own sharers have, and its copy is gone. -/
def execInvalidation (s : State) : Host.Outcome State Fault Refusal :=
  match s.k.invs.find? fun i => decide (i.id = s.u.ev.id) with
  | none => .next s
  | some i =>
    let t := { s with k.invs := s.k.invs.filter fun x => decide (x.id ≠ i.id) }
    match i.core with
    | some c => .next (t.dropRegion i.slice i.base i.log c)
    | none =>
      if s.k.invs.any fun x => decide (x.access = i.access ∧ x.die = i.die ∧ x.core.isSome) then .next s
      else .next (t.dropGuests i.base fun d => decide (d = i.die))

/-- REGION_MERGE (R260): two buddy halves, quiet for SYS_MERGEQUIET clk, become their parent. The event names
the die, the slice, and base and log2 size of one half. -/
def execRegionMerge (s : State) : Host.Outcome State Fault Refusal :=
  match s.u.ev.list with
  | [die, slice, base, lg] =>
    let par := base / 2 ^ (lg + 1) * 2 ^ (lg + 1)
    let half := fun b => s.k.regions.find? fun r =>
      decide (r.die = die ∧ r.slice = slice ∧ r.base = b ∧ r.log = lg)
    let quiet := (s.dieReg die 0xC1).toNat
    match half par, half (par + 2 ^ lg) with
    | some a, some b =>
      if quiet ≠ 0 ∧ lg < 16 ∧ a.conflictAt + quiet ≤ s.u.clk ∧ b.conflictAt + quiet ≤ s.u.clk then
        .next { s with k.regions := (s.k.regions.filter fun r => decide (r ≠ a ∧ r ≠ b)) ++
          [{ a with base := par, log := lg + 1, sharers := (a.sharers ++ b.sharers).eraseDups,
                    conflictAt := max a.conflictAt b.conflictAt }] }
      else .next s
    | _, _ => .next s
  | _ => .next s

/-! ### L2 lines and residency -/

/-- Carving K of a die (R254). -/
def State.carve (s : State) (die : Nat) : Nat := (s.dieReg die 0xC0).toNat % 8
/-- A residency range of a die: enabled, first and last block, ways, sampling ratio minus one (R256). -/
def State.resEn (s : State) (die n : Nat) : Bool := (s.dieReg die (0xD2 + 3 * n)).getLsbD 31
def State.resBase (s : State) (die n : Nat) : Nat := (s.dieReg die (0xD0 + 3 * n)).toNat % 2 ^ 24
def State.resLim (s : State) (die n : Nat) : Nat := (s.dieReg die (0xD1 + 3 * n)).toNat % 2 ^ 24
def State.resWays (s : State) (die n : Nat) : Nat := (s.dieReg die (0xD2 + 3 * n)).toNat % 16
def State.resSample (s : State) (die n : Nat) : Nat := bits (s.dieReg die (0xD2 + 3 * n)).toNat 11 4
/-- Ways of every slice reserved for enabled ranges (R256). -/
def State.reserved (s : State) (die : Nat) : Nat :=
  ((List.range 16).map fun n => if s.resEn die n then s.resWays die n else 0).sum
/-- The range an access falls in, by bits 39:16 of its physical address (R257). -/
def State.rangeOf (s : State) (die pa : Nat) : Option Nat :=
  (List.range 16).find? fun n =>
    s.resEn die n && decide (s.resBase die n ≤ pa % 2 ^ 40 / 2 ^ 16 ∧ pa % 2 ^ 40 / 2 ^ 16 ≤ s.resLim die n)

/-- A dirty line reaches the MSC (R253). -/
def State.writeBack (s : State) (line : Nat) : State :=
  s.dropSnaps fun c => decide (c.holder = .msc ∧ c.line = line)

/-- Evict a line: a home line is written back and leaves its guests and their L1 sharers first; a guest copy is clean, and
so is a line of another module (R253, R261, R423). The line's view of its location goes with it (R375). -/
def State.evictL2 (s : State) (x : L2Line) : State :=
  let s := if x.guest then s else
    (x.guests.foldl (fun (t : State) d => t.dropSharers d x.pa) (s.writeBack (x.loc / 128))).dropGuests x.pa fun _ => true
  let s := s.dropSnaps fun c => decide (c.holder = .atPa x.pa ∨ (c.holder = .guest x.die ∧ c.line = x.loc / 128))
  { s with k.l2 := s.k.l2.filter fun y => decide (y.die ≠ x.die ∨ y.pa ≠ x.pa) }

/-- The lines of a set. -/
def State.setLines (s : State) (die pa : Nat) : List L2Line :=
  s.k.l2.filter fun x => decide (x.die = die ∧ homeSlice x.pa = homeSlice pa ∧ l2Set x.pa = l2Set pa)

/-- The least recently used line of a set among those a test selects. -/
def State.lru (s : State) (die pa : Nat) (f : L2Line → Bool) : Option L2Line :=
  let mine := (s.setLines die pa).filter f
  mine.find? fun x => mine.all fun y => decide (x.used ≤ y.used)

/-- Evict that line. -/
def State.evictOne (s : State) (die pa : Nat) (f : L2Line → Bool) : State :=
  match s.lru die pa f with
  | some x => s.evictL2 x
  | none => s

/-- Ways of a set: those that carving leaves; a carving that waits takes none yet (R254). -/
def State.l2Ways (s : State) (die : Nat) : Nat := 16 - 2 * s.carve die

/-- The line of a set that leaves for an ordinary one (R253, R257): the least recently used ordinary line, with the ordinary
ways or all of them in use. The answer tells whether there is room then; where retained lines take every way there is none. -/
def State.roomOrdinary (s : State) (die pa : Nat) : Bool × Option L2Line :=
  let all := (s.setLines die pa).length
  let ord := ((s.setLines die pa).filter fun x => x.retained.isNone).length
  if ord + s.reserved die < s.l2Ways die ∧ all < s.l2Ways die then (true, none)
  else
    let x := s.lru die pa fun x => x.retained.isNone
    (x.isSome, x)

/-- The line of a set that leaves for a retained one of range n (R257): with the range's ways in use its least recently used
line, else with all ways in use an ordinary one, or where there is none, one of the range. -/
def State.roomRetained (s : State) (die pa n : Nat) : Bool × Option L2Line :=
  let mine := fun (x : L2Line) => decide (x.retained = some n)
  let full := decide (s.resWays die n ≤ ((s.setLines die pa).filter mine).length)
  if !full && decide ((s.setLines die pa).length < s.l2Ways die) then (true, none)
  else
    let x := if full then s.lru die pa mine else s.lru die pa (fun x => x.retained.isNone) <|> s.lru die pa mine
    (x.isSome, x)

/-- An access falls in a range and advances its counter; the answer is the range if the access takes the retained class
(R257). -/
def State.resCount (s : State) (die pa : Nat) : State × Option Nat :=
  match s.rangeOf die pa with
  | none => (s, none)
  | some n =>
    let key := (die, homeSlice pa, n)
    let c := s.k.resCnt.look key 0
    ({ s with k.resCnt := s.k.resCnt.put key ((c + 1) % (s.resSample die n + 1)) }, if c = 0 then some n else none)

/-- A hit of class `cls` on a line of a slice (R257, R264): it records the access's kind, and the retained class moves an
ordinary line into the range's ways, whose least recently used line goes when they are in use. -/
def State.l2Hit (s : State) (die pa : Nat) (tracked : Bool) (cls : Option Nat) (y : L2Line) : State :=
  let s := match cls, y.retained with
    | some n, none =>
      if s.resWays die n ≤ ((s.setLines die pa).filter fun (z : L2Line) => decide (z.retained = some n)).length then
        s.evictOne die pa fun (z : L2Line) => decide (z.retained = some n)
      else s
    | _, _ => s
  { s with k.l2 := s.k.l2.map fun (z : L2Line) =>
      if z.die = die ∧ z.pa = y.pa then { z with tracked := tracked, used := s.u.clk, retained := z.retained <|> cls }
      else z }

/-- A miss of class `cls` allocates its line, at the eviction end of the ordinary ways for a non-temporal one (R165, R257);
with no room the line is served and not kept (log entry 80). -/
def State.l2Miss (s : State) (die pa loc : Nat) (tracked nt guest : Bool) (cls : Option Nat) : State :=
  let room := match cls with
    | some n => s.roomRetained die pa n
    | none => s.roomOrdinary die pa
  let s := match room.2 with
    | some x => s.evictL2 x
    | none => s
  if !room.1 then s
  else
    { s with k.l2 := s.k.l2 ++
        [{ die := die, pa := pa / 128 * 128, loc := loc / 128 * 128, tracked := tracked, retained := cls, guest := guest
           used := if nt && cls.isNone then 0 else s.u.clk }] }

/-- An access to a slice (R253, R257): it advances the counter of its range, then hits or allocates. -/
def State.l2Place (s : State) (die pa loc : Nat) (tracked nt guest : Bool) : State :=
  let x := s.resCount die pa
  match x.1.l2Line die pa with
  | some y => x.1.l2Hit die pa tracked x.2 y
  | none => x.1.l2Miss die pa loc tracked nt guest x.2

/-- An access to a slice that allocates nothing there, an STNT's (R162): it counts, and a hit is a hit. -/
def State.l2Pass (s : State) (die pa : Nat) (tracked : Bool) : State :=
  let x := s.resCount die pa
  match x.1.l2Line die pa with
  | some y => x.1.l2Hit die pa tracked x.2 y
  | none => x.1

/-- Two lines of one location are different lines to the caches (R375): each may go on to show what it held. -/
def State.noteAlias (s : State) (pa loc : Nat) : State :=
  (s.k.l2.filter fun x => decide (x.loc = loc / 128 * 128 ∧ x.pa ≠ pa / 128 * 128) && !x.guest).foldl
    (fun (t : State) x => (t.addSnap (.atPa x.pa) (loc / 128)).addSnap (.atPa (pa / 128 * 128)) (loc / 128)) s

/-- An access that finds the line present with the other kind: the line leaves its sharers and guests, and the ALIAS report is
queued (R264). -/
def State.aliasCheck (s : State) (die pa : Nat) (tracked : Bool) (core asid : Nat) : State :=
  match s.l2Line die pa with
  | some x =>
    if x.tracked = tracked ∨ x.guest then s
    else
      (s.purgeLine pa).postFq
        { die := die, kind := .report, code := ALIAS
          words := s.reportWords ALIAS (pa / 128 * 128) (if tracked then 1 else 0) core asid }
  | none => s

/-- An access to a home slice (R253, R257, R264): the ALIAS report, then counting and allocation. -/
def State.l2Touch (s : State) (die pa loc : Nat) (tracked nt : Bool) (core asid : Nat) : State :=
  ((s.aliasCheck die pa tracked core asid).l2Place die pa loc tracked nt false).noteAlias pa loc

/-- An STNT at a home slice (R162, R257, R264). -/
def State.l2Bypass (s : State) (die pa : Nat) (tracked : Bool) (core asid : Nat) : State :=
  (s.aliasCheck die pa tracked core asid).l2Pass die pa tracked

/-- A die other than the home takes a guest copy of a tracked line into its own slice, where the home notes it (R261). -/
def State.guest (s : State) (home die pa loc : Nat) (nt : Bool) : State :=
  if die = home ∨ (s.l2Line home pa).isNone then s
  else
    { (s.l2Place die pa loc true nt true) with
      k.l2 := (s.l2Place die pa loc true nt true).k.l2.map fun y =>
        if y.die = home ∧ y.pa = pa / 128 * 128 ∧ !y.guest ∧ die ∉ y.guests then { y with guests := y.guests ++ [die] }
        else y }

/-! ### Walks (R360) -/

/-- Physical addresses of the entries that a walk reads from a table on (R359). -/
def State.walkReads (s : State) (va base : Nat) : List (Nat × Nat) → List Nat
  | [] => []
  | (lo, n) :: rest =>
    let pa := base + 16 * (va / 2 ^ lo % 2 ^ n)
    let e := s.load (s.locPhys pa) 16
    pa :: if bit e 0 && !bit e 1 then s.walkReads va (e / 2 ^ 8 % 2 ^ 32 * 2 ^ 8) rest else []

/-- A walk reads a table entry through its home L2 slice and the MSC (R360, R377). -/
def State.walkTouch (s : State) (pa : Nat) : State :=
  if inHost pa then s
  else
    let die := homeDie physScheme pa
    (s.physTouch pa false).l2Place die pa (s.locPhys pa) (((s.l2Line die pa).map (·.tracked)).getD true) false false

/-- Every entry that a die's walk reads, the context entry first (R358). -/
def State.walkAll (s : State) (die asid va : Nat) : State :=
  let ctx := (s.dieReg die 0xC6).toNat % 2 ^ 20 * 2 ^ 20 + 16 * asid
  let e := s.load (s.locPhys ctx) 16
  (ctx :: if bit e 0 then s.walkReads va (e / 2 ^ 17 % 2 ^ 23 * 2 ^ 17) walkLevels else []).foldl
    (fun (t : State) pa => t.walkTouch pa) s

/-- The walks that the translations of some addresses for a core need: one for each page that no TLB of the core translates. Their
reads reach the tables' homes as the clk ends (R257, R360, R377). -/
def State.missWalks (s : State) (core asid : Nat) (vas : List Nat) : State :=
  { s with k.walks := s.k.walks ++ ((vas.filter fun a => !s.k.tlb.any fun t => t.covers core asid a).map fun a =>
      (core / 192, asid, a / 65536 * 65536)).eraseDups }

/-- The reads of the walks that the clk began. -/
def State.runWalks (s : State) : State :=
  { (s.k.walks.foldl (fun (t : State) w => t.walkAll w.1 w.2.1 w.2.2) s) with k.walks := [] }

/-! ### Lines of other modules (R333, R423) -/

/-- Take a fresh copy of a line. -/
def State.freshSnap (s : State) (h : Holder) (line : Nat) : State :=
  (s.dropSnaps fun c => decide (c.holder = h ∧ c.line = line)).addSnap h line

/-- The core of a copy in a constant or instruction cache, and the lines that such a cache holds: 64 KiB and 256 KiB (R180). -/
def Holder.cacheOf : Holder → Option (Bool × Nat × Nat)
  | .ccache core _ _ => some (false, core, 512)
  | .icache core _ _ => some (true, core, 2048)
  | _ => none

/-- A constant or instruction cache takes a fresh copy of a line; a full one loses its oldest (R180; log entry 8). -/
def State.keepCopy (s : State) (h : Holder) (line : Nat) : State :=
  let s := s.dropSnaps fun c => decide (c.holder = h ∧ c.line = line)
  let mine := s.m.snaps.filter fun c => h.cacheOf.isSome && decide (c.holder.cacheOf = h.cacheOf)
  let s : State := match h.cacheOf, mine with
    | some k, x :: _ => if mine.length < k.2.2 then s else { s with m.snaps := s.m.snaps.erase x }
    | _, _ => s
  s.addSnap h line

/-- The line of another module comes into a core's L1, unless the access is non-temporal, and its die's directory tracks
it (R165, R423). -/
def State.fillAway (s : State) (core dev pa loc : Nat) (nt : Bool) : State :=
  if nt then s
  else ((s.freshSnap (.l1 core (s.cachePa dev pa / 128 * 128)) (loc / 128)).addL1 core loc (s.cachePa dev pa)).share core
    (s.cachePa dev pa)

/-- The line of another module comes into the L2 slice of a core's die (R423). -/
def State.guestAway (s : State) (core dev pa loc : Nat) (nt : Bool) : State :=
  (s.freshSnap (.guest (core / 192)) (loc / 128)).l2Place (core / 192) (s.cachePa dev pa) loc true nt true

/-! ### Late faults (R217) -/

/-- A late fault of a group that finds no split to take it aborts the grid or is queued as a report (R217). -/
def State.orphanFault (s : State) (g : GroupId) (slices : List Nat) (f : FaultInfo) : State :=
  let p : Split := { sid := 0, team := g.t, group := g.g, tix := 0, pc := f.unitPc, slices := slices }
  let w := s.faultWords p f false
  if (s.launch g.t).policy = .abortGrid then s.abortGrid (s.team g.t).grid w
  else s.postFq { die := s.coreOf g / 192, words := w, kind := .report, code := f.code }

/-- The split that takes a late fault of a lane: the one that holds its slice, or the one that issued the access while it has
live lanes (R217). -/
def State.lateSplit (s : State) (sid : Nat) (l : LaneId) : Option Split :=
  s.splitOf l.slice <|> (s.split? sid).filter fun p => decide (p.team = l.t ∧ p.group = l.g)

/-- A late fault for a lane: taken at its split's next issue boundary, or by no split when every lane of it has exited (R217). -/
def State.lateFault (s : State) (sid : Nat) (l : LaneId) (f : FaultInfo) : State :=
  let f := { f with lanes := some [l.l], late := true }
  match s.lateSplit sid l with
  | some p => s.modSplit p.sid fun x => { x with late := x.late ++ [f] }
  | none => s.orphanFault l.group [l.l / 4] f

/-- What a split issued belongs from now on to another, which it became part of (R136, R217). -/
def State.mergeNames (s : State) (old new : Nat) : State :=
  { s with
    k.acc := s.k.acc.map fun a => if a.sid = old then { a with sid := new } else a
    d.fq := s.d.fq.map fun r => if r.sid = old then { r with sid := new } else r
    e.latch := s.e.latch.map fun d => if d.sid = old then { d with sid := new } else d }

/-! ### Copies of other modules' lines -/

/-- Every copy that the module keeps of other modules' lines goes (R333). -/
def State.dropAway (s : State) : State :=
  { ((s.dropL1 fun x => s.lineAway x.line).dropSnaps fun c => s.lineAway c.line && match c.holder with
      | .guest _ | .l1 _ _ => true
      | _ => false) with k.l2 := s.k.l2.filter fun x => !s.lineAway (x.loc / 128) }

/-- The copies that the module keeps of one line of another module go (R265, R423). -/
def State.dropAwayLine (s : State) (line : Nat) : State :=
  { ((s.dropL1 fun x => decide (x.line = line)).dropSnaps fun c => decide (c.line = line) && match c.holder with
      | .guest _ | .l1 _ _ => true
      | _ => false) with k.l2 := s.k.l2.filter fun x => decide (x.loc / 128 ≠ line) }

end Sys2Proof.Machine
end

