-- ==== Sys2Proof/Machine/Access.lean ====
section
/-! DEFINITION. Memory accesses at issue: the memory meaning of a MODP (R59, R60, R164), addresses and windows
(R155 to R158, R89, R234), translation and its permissions (R359, R420), the order of faults (R179), held
accesses (R176), and the meanings of majors 0x11 to 0x14, of CACHE (R265), MONITOR (R172), WAITC (R171),
MWAIT (R173) and FENCE (R327). -/

namespace Sys2Proof.Machine

/-! ### Orders and scopes -/

/-- Order and scope of a code pair (R59). -/
def memOrder (rnd pack : Nat) : Option (Order × Scope) :=
  let o := match pack with | 0 => Order.relaxed | 1 => .acquire | 2 => .release | _ => .acqRel
  match rnd with
  | 0 => some (o, .lane)
  | 1 => some (o, .team)
  | 2 => some (o, .cluster)
  | 3 => some (o, .device)
  | 4 => some (o, .pod)
  | 5 => some (o, .system)
  | 6 => some (.sc, match pack with | 0 => .team | 1 => .cluster | 2 => .device | _ => .pod)
  | _ => if pack = 0 then some (.sc, .system) else none

/-- Lane scope allows only relaxed (R164). -/
def laneOk (m : Order × Scope) : Bool := decide (m.2 ≠ .lane) || decide (m.1 = .relaxed)

/-- Order and scope of an LD, ST, STNT or ATOMF (R57, R59): none when the MODP is not allowed; `orders` lists
the orders besides relaxed that the instruction allows. -/
def State.memMode (s : State) (orders : List Order) (nt zi : Bool) : Option (Order × Scope) :=
  match s.u.iss.modp with
  | none => some (.relaxed, .device)
  | some m =>
    if m.sat ∨ (m.alt ∧ !nt) ∨ m.tc ∨ m.vc ≠ 0 ∨ (m.zi ∧ !zi) then none
    else
      (memOrder m.rnd.toNat m.pack.toNat).filter fun x =>
        laneOk x && (decide (x.1 = .relaxed) || decide (x.1 ∈ orders))

/-- Width, order and scope of an ATOM (R60). -/
def State.atomMode (s : State) : Option (Bool × Order × Scope) :=
  match s.u.iss.modp with
  | none => some (false, .relaxed, .device)
  | some m =>
    if m.sat ∨ m.alt ∨ m.tc ∨ 4 ≤ m.vc.toNat ∨ (m.pack ≠ 0 ∧ m.pack ≠ 3) then none
    else ((memOrder m.rnd.toNat m.vc.toNat).filter laneOk).map fun x => (m.pack == 3, x)

/-- A MODP that carries only the mask, and zi where allowed (R164). -/
def State.maskOnly (s : State) (zi : Bool) : Bool :=
  match s.u.iss.modp with
  | none => true
  | some m =>
    decide (m.rnd = 0 ∧ m.pack = 0 ∧ m.vc = 0) && !m.sat && !m.alt && !m.tc && (zi || !m.zi)

/-! ### Addresses -/

/-- The va field of format M names a legal pair, and a scalar pair has ta clear (R52). -/
def pairField (va : Nat) (ta : Bool) : Bool := decide (va % 2 = 0) || (decide (va ≤ 63) && !ta)

/-- The pair's value in a lane of the group under issue (R52). -/
def State.pairVal (s : State) (va l : Nat) : Nat :=
  if va % 2 = 0 then s.getVs (s.lane l) va 2 else s.getSPair (s.slice (l / 4)) (va - 1)

/-- off3 with its IMMX extension, in units of the access size (R52, R65). -/
def State.off (s : State) (off : BitVec 3) : Int :=
  match s.u.iss.immx with
  | some p => sext 26 (p * 8 + off.toNat)
  | none => off.toNat

/-- The generic address of a lane (R158). -/
def State.addr (s : State) (va : Nat) (off : BitVec 3) (size l : Nat) : Nat :=
  wrap 64 (s.pairVal va l + s.off off * size)

/-- The checked read of an address pair. -/
def pairRead (va : Nat) (ta : Bool) : List Read :=
  if va % 2 = 0 then [{ reg := va, n := 2, trap := ta }] else []

/-- Where an address leads (R155): global space (or a spill area), a window location, or nowhere. -/
inductive Target where
  | glob (va : Nat) (spill : Bool)
  | loc (n : Nat)
  | priv (n : Nat)
  | bad

/-- Base addresses of the windows (R155). -/
def chipWindow : Nat := 0xFFFFC00000000000
def clusterWindow : Nat := 0xFFFFD00000000000
def scratchWindow : Nat := 0xFFFFE00000000000
def privWindow : Nat := 0xFFFFF00000000000

/-- Does the lane-private allocation of a launch fit in the scratchpad (R89)? -/
def Launch.privFits (la : Launch) : Bool :=
  decide (la.scratch + la.lanes * la.lanePriv ≤ if la.pair then 2 ^ 21 else 2 ^ 20)

/-- The batch member whose cluster-shared part a window index reaches, and the byte of it (R234). -/
def State.member (s : State) (t i o : Nat) : Option (Nat × Nat) :=
  let x := s.team t
  let la := s.launch t
  let j := if la.pair then i / 2 else i
  let b := if la.pair then i % 2 * 2 ^ 20 + o else o
  match s.x.teams.find? fun y => decide (y.grid = x.grid ∧ y.batch = x.batch ∧ y.member = j) with
  | some y => if i ≤ 7 ∧ b < la.cluster then some (y.uid, b) else none
  | none => none

/-- Decode an address for a lane (R155, R156). -/
def State.target (s : State) (l : LaneId) (a : Nat) : Target :=
  let la := s.launch l.t
  if a < 2 ^ 56 then .glob a false
  else if a < chipWindow then .bad
  else if a < clusterWindow then
    let die := s.coreOf l.group / 192
    let g := s.grid (s.team l.t).grid
    if a - chipWindow < la.chip then .loc (locChip die (g.chipBase.look die 0 + (a - chipWindow))) else .bad
  else if a < scratchWindow then
    let o := a - clusterWindow
    match s.member l.t (o / 2 ^ 20) (o % 2 ^ 20) with
    | some (t, b) => .loc (locScr t b)
    | none => .bad
  else if a < privWindow then
    if a - scratchWindow < la.scratch then .loc (locScr l.t (a - scratchWindow)) else .bad
  else
    let o := a - privWindow
    if o < la.lanePriv then
      if la.privFits then .priv (locPriv l.t (s.teamLane l) o)
      else .glob (la.spill + s.teamLane l * la.lanePriv + o) true
    else .bad

/-! ### Translation -/

/-- The mode in force for a page (R296, R376, R420): its own device is local; deferred pages, and
migrate-on-count pages of 32 MiB or more, act as direct. -/
def State.modeOf (s : State) (lf : Leaf) : Nat :=
  if lf.peer = s.f.dev then 0
  else if lf.mode < 2 then lf.mode
  else if lf.df then 1
  else if lf.mode = 3 ∧ 2 ^ 25 ≤ lf.size then 1
  else lf.mode

/-- A pseudo-channel of this module that failed training (R391). -/
def State.retiredAt (s : State) (lf : Leaf) (pa : Nat) : Bool :=
  decide (s.modeOf lf = 0 ∧ ¬ inHost pa) && decide (channelOf lf.il pa ∈ s.m.retiredPc)

/-- A read meets poison: the event counts for the stack of this module's memory that delivers it, and what comes from elsewhere (a
scratchpad, host memory, another module) for the die that meets it (R400; log entry 83). -/
def State.poisonEvent (s : State) (lf : Option Leaf) (pa die : Nat) : State :=
  match lf with
  | some lf => if s.modeOf lf = 0 ∧ ¬ inHost pa then s.bump (2, channelOf lf.il pa / 64, 0) else s.bump (3, die, 0)
  | none => s.bump (3, die, 0)

/-- The module that holds a page. -/
def State.devOf (s : State) (lf : Leaf) : Nat := if s.modeOf lf = 0 then s.f.dev else lf.peer

/-- Location of a physical address under a leaf: another module's host window is its own affair and is taken
as host memory of this one (log entry 15). -/
def State.locOf (s : State) (lf : Leaf) (pa : Nat) : Nat := locPa (s.devOf lf) s.p.hostBase lf.il pa

/-- Permission of a page for a kind of access (R359). -/
def AccKind.allowed (k : AccKind) (lf : Leaf) : Bool :=
  match k with
  | .load _ | .ldc | .mscale | .fetch | .cache _ => lf.r
  | .monitor => lf.r || lf.df
  | .store _ | .dst _ _ => lf.w
  | .atom _ => lf.r && lf.w

/-- Access kind of a fault record's INFO (R215). -/
def AccKind.info (k : AccKind) : Nat :=
  match k with
  | .load _ | .ldc | .mscale | .fetch | .cache _ | .monitor => 0
  | .store _ | .dst _ _ => 1
  | .atom _ => 2

/-- A lane's access as resolved at issue: its address, the address a record names, where it goes, and the code
of the translation fault it met (0: none). -/
structure LanePlan where
  l : Nat
  addr : Nat
  gaddr : Nat
  bad : Bool := false
  window : Bool := false
  priv : Bool := false
  loc : Nat := 0
  dev : Nat := 0
  pa : Nat := 0
  leaf : Option Leaf := none
  code : Nat := 0
  deriving DecidableEq, Repr

/-- The code with which an access is held for a migration: no fault, and no record (R424). -/
def migCode : Nat := 256

/-- A page is held for a migration, and the access misses translation (R424). -/
def State.migHeld (s : State) (core asid : Nat) (lf : Leaf) (va : Nat) : Bool :=
  decide ((asid, lf.va) ∈ s.f.migHold) && !s.k.tlb.any fun t => t.covers core asid va

/-- Translate a global address for a lane under the team's ASID (R359); spilled lane-private pages must be
local, grant R and W and not be deferred (R89). -/
def State.planGlobal (s : State) (k : AccKind) (l : LaneId) (p : LanePlan) (va : Nat) (spill : Bool)
    (n : Nat) : LanePlan :=
  let p := { p with gaddr := va }
  match s.translate (s.coreOf l.group) (s.launch l.t).asid va n with
  | none => { p with code := PAGE_FAULT }
  | some lf =>
    let ok := if spill then lf.r && lf.w && !lf.df && decide (s.modeOf lf = 0) else k.allowed lf
    if s.migHeld (s.coreOf l.group) (s.launch l.t).asid lf va then { p with code := migCode }
    else if ok then
      let pa := lf.pa va
      { p with leaf := some lf, dev := s.devOf lf, pa := pa, loc := s.locOf lf pa }
    else { p with code := ACCESS }

/-- Resolve a lane's access. -/
def State.planLane (s : State) (k : AccKind) (l : LaneId) (a : Nat) (n : Nat) : LanePlan :=
  let p : LanePlan := { l := l.l, addr := a, gaddr := a }
  match s.target l a with
  | .bad => { p with bad := true }
  | .loc x => { p with window := true, loc := x }
  | .priv x => { p with window := true, priv := true, loc := x }
  | .glob va spill => s.planGlobal k l { p with priv := spill } va spill n

/-- A deferred page forbids the access (R170). -/
def AccKind.forbidden (k : AccKind) (size : Nat) : Bool :=
  match k with
  | .store _ => decide (size < 4)
  | .atom _ => true
  | _ => false

/-- Records that an access on a deferred page appends (R170, R302). -/
def AccKind.records (k : AccKind) (size : Nat) : Nat :=
  match k with
  | .store _ => if size = 16 then 2 else 1
  | .dst _ _ => 1
  | _ => 0

/-- The plan of a lane is on a deferred page. -/
def LanePlan.df (p : LanePlan) : Bool := match p.leaf with | some lf => lf.df | none => false

/-! ### Held accesses (R176) -/

/-- A record of a unit's held lanes is queued and not resolved: one stands at a time (R176). -/
def State.heldRecord (s : State) (sid seq : Nat) : Bool :=
  s.d.fq.any fun r => decide (r.kind = .held ∧ r.sid = sid ∧ r.seq = seq) && !r.done

/-- Queue the record of a unit's held lanes: the earlier of PAGE_FAULT and ACCESS that they met. -/
def State.postHeld (s : State) (sid seq : Nat) : State :=
  let held := s.k.acc.filter fun a =>
    decide (a.seq = seq) && match a.phase with | .held _ => true | _ => false
  let of := fun c => held.filter fun a => decide (a.phase = .held c)
  let c := if (of PAGE_FAULT).isEmpty then ACCESS else PAGE_FAULT
  match of c, s.split? sid with
  | a :: as, some p =>
    s.postFq
      { die := s.coreOf a.lane.group / 192, kind := .held, sid := sid, seq := seq, code := c
        lanes := (a :: as).map fun x => x.lane.l
        words := s.faultWords p
          { code := c, lanes := some ((a :: as).map fun x => x.lane.l), addr := a.gaddr,
            info := a.kind.info, unitPc := a.unitPc, held := true, replayable := true } (s.inHandler p) }
  | _, _ => s

/-! ### Counters of accesses (R424) -/

/-- A page is queued for a migration somewhere in the pod, or is migrating (R424). -/
def State.migQueued (s : State) (asid page : Nat) : Bool :=
  s.f.migQ.any (fun m => decide (m.asid = asid ∧ m.va = page)) || decide ((asid, page) ∈ s.f.migFar ∨ (asid, page) ∈ s.f.migHold)

/-- Count an access to a chunk of a migrate-on-count page, and queue the page's migration at the threshold
(R424). -/
def State.countChunk (s : State) (core asid : Nat) (lf : Leaf) (pa : Nat) : State :=
  let die := core / 192
  let key := (die, lf.peer, pa / 65536)
  let lim := (s.coreReg core 0x84).toNat % 65536
  if lim = 0 then s
  else
    let n := ((s.f.migCnt.find? fun x => decide (x.1 = key)).map (·.2)).getD 0 + 1
    let rest := s.f.migCnt.filter fun x => decide (x.1 ≠ key)
    let mine := rest.filter fun x => decide (x.1.1 = die)
    let rest := if mine.length < 4096 then rest
      else match mine with | x :: _ => rest.filter fun y => decide (y ≠ x) | [] => rest
    let q := s.f.migQ.filter fun m => decide (m.die = die)
    let page := lf.va
    if n < lim then { s with f.migCnt := rest ++ [(key, n)] }
    else
      { s with
        f.migCnt := rest ++ [(key, 0)]
        f.migQ := if q.length < 64 && !s.migQueued asid page then s.f.migQ ++ [{ die := die, asid := asid, va := page }]
          else s.f.migQ }

/-- Count the chunks that the lanes of a unit access, each once: the pages and physical addresses of its bytes (R424). -/
def State.countChunks (s : State) (core asid : Nat) (ps : List (Leaf × Nat)) : State :=
  let xs := (ps.filterMap fun p => if s.modeOf p.1 = 3 then some (p.1, p.2 / 65536 * 65536) else none).eraseDups
  xs.foldl (fun t x => t.countChunk core asid x.1 x.2) s

/-- Where a plan leads in global memory. -/
def LanePlan.place (p : LanePlan) : Option (Leaf × Nat) := p.leaf.map fun lf => (lf, p.pa)

/-- The global address that a plan translates. -/
def LanePlan.va? (p : LanePlan) : Option Nat := if p.leaf.isSome ∨ p.code ≠ 0 then some p.gaddr else none

/-! ### Issue of an access unit -/

/-- A memory instruction as its encoding and prefixes give it. -/
structure MemOp where
  kind : AccKind
  size : Nat
  va : Nat
  off : BitVec 3
  ta : Bool
  cnt : Option Nat := none
  /-- destination range, emptied at issue -/
  dst : Nat := 0
  dstN : Nat := 0
  /-- operand range, and where a CAS finds its new value -/
  dat : Nat := 0
  datN : Nat := 0
  td : Bool := false
  cas : Option Nat := none
  order : Order := .relaxed
  scope : Scope := .device
  nt : Bool := false
  /-- windows are refused (LDC, MONITOR of a lane's own bytes) -/
  noWindow : Bool := false
  noPriv : Bool := false
  align : Bool := true

/-- The lanes' plans of a unit. -/
def State.plans (s : State) (o : MemOp) : List LanePlan :=
  s.elanes.map fun l =>
    let p := s.planLane o.kind (s.lane l) (s.addr o.va o.off o.size l) l
    if (o.noWindow && p.window) || (o.noPriv && p.priv) then { p with bad := true } else p

/-- The precise memory fault of a unit, if any, in the order of R179. -/
def State.memFault (o : MemOp) (ps : List LanePlan) : Option FaultInfo :=
  let pick := fun code (f : LanePlan → Bool) =>
    match ps.filter f with
    | [] => none
    | p :: q => some { code := code, lanes := some ((p :: q).map (·.l)), addr := p.addr,
                       info := o.kind.info : FaultInfo }
  pick MISALIGN (fun p => o.align && decide (p.addr % o.size ≠ 0)) <|>
    pick WINDOW (fun p => p.bad) <|>
    pick DEFERRED_ACCESS (fun p => decide (p.code = 0) && p.df && o.kind.forbidden o.size)

/-- Records a unit would append. -/
def State.recordsOf (o : MemOp) (ps : List LanePlan) : Nat :=
  ((ps.filter fun p => decide (p.code = 0) && p.df).length) * o.kind.records o.size

/-- Records in a core's log and those its issued units are about to append (R303). -/
def State.logUsed (s : State) (core : Nat) : Nat :=
  (s.e.log.filter fun r => decide (r.src = core)).length +
    ((s.k.acc.filter fun a => a.append && decide (s.coreOf a.lane.group = core)).map
      fun a => a.kind.records a.size).sum

/-- Room in the log for a unit's records (R303); not examined while an address register is empty. -/
def State.logRoom (s : State) (o : MemOp) : Bool :=
  if s.anyEmpty (pairRead o.va o.ta) then true
  else if o.kind.records o.size = 0 then true
  else
    let ps := s.plans o
    (State.memFault o ps).isSome ||
      decide (s.logUsed (s.coreOf s.gid) + State.recordsOf o ps ≤ 2048)

/-- Counter room in every slice (R85, R160). -/
def State.cntRoom (s : State) (n : Nat) : Bool :=
  s.cur.slices.all fun c =>
    decide (s.getC (s.slice c) n + (s.elanes.filter fun l => decide (l / 4 = c)).length ≤ 4095)

/-- Raise a counter by the lanes with a true effective mask in each slice (R160). -/
def State.raiseC (s : State) (n : Nat) : State :=
  s.cur.slices.foldl (fun t c =>
    let k := (s.elanes.filter fun l => decide (l / 4 = c)).length
    if k = 0 then t else t.setC (s.slice c) n (t.getC (s.slice c) n + k)) s

/-- The access of a lane. -/
def State.accessOf (s : State) (o : MemOp) (p : LanePlan) (i : Nat) : Access :=
  { id := s.u.uid + i, sid := s.u.iss.sid, lane := s.lane p.l, unitPc := s.u.iss.unitPc, seq := s.u.seqNo
    kind := o.kind, gaddr := p.gaddr, size := o.size, order := o.order, scope := o.scope, nt := o.nt
    data := s.getVs (s.lane p.l) o.dat o.datN
    data2 := match o.cas with | some r => s.getVs (s.lane p.l) r o.dstN | none => 0
    dst := o.dst, dstN := o.dstN, cnt := o.cnt, loc := p.loc, dev := p.dev, pa := p.pa, leaf := p.leaf
    phase := if p.code = 0 then .issued else .held p.code, priv := p.priv, born := s.u.clk }

/-- Issue a unit's accesses: counters rise, destinations become empty, held lanes are reported (R158 to R160,
R176). -/
def State.issueAccesses (s : State) (o : MemOp) (ps : List LanePlan) : State :=
  let acc := ps.mapIdx fun i p => s.accessOf o p i
  let t := match o.cnt with | some n => s.raiseC n | none => s
  let t := if o.dstN = 0 then t
    else s.act.foldl (fun t l =>
      if s.maskOk l then t.markVs (s.lane l) o.dst true o.dstN
      else if s.zi then t.setVs (s.lane l) o.dst 0 o.dstN
      else t) t
  let t := { t with
    k.acc := t.k.acc ++ acc
    u.uid := t.u.uid + ps.length
    u.seqNo := t.u.seqNo + 1 }
  let core := s.coreOf s.gid
  let asid := (s.launch s.u.iss.team).asid
  let t := (t.missWalks core asid (ps.filterMap LanePlan.va?)).countChunks core asid (ps.filterMap LanePlan.place)
  t.postHeld s.u.iss.sid s.u.seqNo

/-- The effect of a memory unit. -/
def State.memBody (s : State) (o : MemOp) : Res :=
  let ps := s.plans o
  match State.memFault o ps with
  | some f => .trap f
  | none => .ok (s.issueAccesses o ps)

/-- What a memory unit uses. -/
def State.useMem (s : State) (major : Nat) (o : MemOp) (legal : Bool) : Use :=
  { major := major
    legal := legal && pairField o.va o.ta
    reads := pairRead o.va o.ta ++ (if o.datN = 0 then [] else [{ reg := o.dat, n := o.datN, trap := o.td }]) ++
      (match o.cas with | some r => [{ reg := r, n := o.dstN, trap := o.td }] | none => [])
    dests := if o.dstN = 0 then [] else [(o.dst, o.dstN)]
    ready := (match o.cnt with | some n => s.cntRoom n | none => true) && s.logRoom o }

/-- A memory unit. -/
def memUnit (major : Nat) (o : MemOp) (legal : Bool) (s : State) : Meaning :=
  Meaning.mk (s.useMem major o legal) (fun t => t.memBody o)

/-! ### LD -/

/-- Order and scope of a load (R59, R161). -/
def State.loadMode (s : State) : Option (Order × Scope) := s.memMode [.acquire, .sc] true true

/-- What a load of `size` bytes into `n` registers accesses (R161). -/
def State.loadOp (s : State) (o : OpL) (size n : Nat) (signed : Bool) : MemOp :=
  let x := s.loadMode.getD (.relaxed, .device)
  { kind := .load signed, size := size, va := o.va.toNat, off := o.off, ta := o.ta, cnt := some o.cnt.toNat
    dst := o.vd.toNat, dstN := n, order := x.1, scope := x.2, nt := s.alt }

/-- A load of `size` bytes into `n` registers (R161); the matrix role issues those of 8 and 16 bytes (R148). -/
def loadUnit (o : OpL) (size n : Nat) (signed : Bool) (s : State) : Meaning :=
  let op := s.loadOp o size n signed
  Meaning.mk { s.useMem 0x11 op (s.loadMode.isSome && aligned o.vd.toNat n) with matrixToo := decide (2 ≤ n) }
    (fun t => t.memBody op)

/-- LD.B8U (R161). -/
def meanLdB8u (o : OpL) (s : State) : Meaning := loadUnit o 1 1 false s
/-- LDB8U: its issue unit, run. -/
def execLdB8u (o : OpL) (s : State) : Host.Outcome State Fault Refusal := (meanLdB8u o s).run s
/-- LD.B8S (R161). -/
def meanLdB8s (o : OpL) (s : State) : Meaning := loadUnit o 1 1 true s
/-- LDB8S: its issue unit, run. -/
def execLdB8s (o : OpL) (s : State) : Host.Outcome State Fault Refusal := (meanLdB8s o s).run s
/-- LD.B16U (R161). -/
def meanLdB16u (o : OpL) (s : State) : Meaning := loadUnit o 2 1 false s
/-- LDB16U: its issue unit, run. -/
def execLdB16u (o : OpL) (s : State) : Host.Outcome State Fault Refusal := (meanLdB16u o s).run s
/-- LD.B16S (R161). -/
def meanLdB16s (o : OpL) (s : State) : Meaning := loadUnit o 2 1 true s
/-- LDB16S: its issue unit, run. -/
def execLdB16s (o : OpL) (s : State) : Host.Outcome State Fault Refusal := (meanLdB16s o s).run s
/-- LD.B32 (R161). -/
def meanLdB32 (o : OpL) (s : State) : Meaning := loadUnit o 4 1 false s
/-- LDB32: its issue unit, run. -/
def execLdB32 (o : OpL) (s : State) : Host.Outcome State Fault Refusal := (meanLdB32 o s).run s
/-- LD.B64 (R161). -/
def meanLdB64 (o : OpL) (s : State) : Meaning := loadUnit o 8 2 false s
/-- LDB64: its issue unit, run. -/
def execLdB64 (o : OpL) (s : State) : Host.Outcome State Fault Refusal := (meanLdB64 o s).run s
/-- LD.B128 (R161). -/
def meanLdB128 (o : OpL) (s : State) : Meaning := loadUnit o 16 4 false s
/-- LDB128: its issue unit, run. -/
def execLdB128 (o : OpL) (s : State) : Host.Outcome State Fault Refusal := (meanLdB128 o s).run s

/-- What LDC accesses: a window address raises WINDOW (R166). -/
def ldcOp (o : OpL) : MemOp :=
  { kind := .ldc, size := 4, va := o.va.toNat, off := o.off, ta := o.ta, cnt := some o.cnt.toNat
    dst := o.vd.toNat, dstN := 1, noWindow := true, noPriv := true }

/-- LDC: through the constant cache (R166). -/
def meanLdc (o : OpL) (s : State) : Meaning := memUnit 0x11 (ldcOp o) (s.maskOnly true) s
/-- LDC: its issue unit, run. -/
def execLdc (o : OpL) (s : State) : Host.Outcome State Fault Refusal := (meanLdc o s).run s

/-! ### ST and PREFETCH -/

/-- Order and scope of a store (R59, R162). -/
def State.storeMode (s : State) (stnt : Bool) : Option (Order × Scope) :=
  s.memMode (if stnt then [.release] else [.release, .sc]) (!stnt) false

/-- What a store of `size` bytes from `n` registers accesses (R162). -/
def State.storeOp (s : State) (o : OpS) (size n : Nat) (stnt : Bool) : MemOp :=
  let x := (s.storeMode stnt).getD (.relaxed, .device)
  { kind := .store stnt, size := size, va := o.va.toNat, off := o.off, ta := o.ta, cnt := some o.cnt.toNat
    dat := o.vd.toNat, datN := n, td := o.td, order := x.1, scope := x.2, nt := s.alt }

/-- A store of `size` bytes from `n` registers (R162). -/
def storeUnit (o : OpS) (size n : Nat) (stnt : Bool) (s : State) : Meaning :=
  memUnit 0x12 (s.storeOp o size n stnt) ((s.storeMode stnt).isSome && aligned o.vd.toNat n) s

/-- ST.B8 (R162). -/
def meanStB8 (o : OpS) (s : State) : Meaning := storeUnit o 1 1 false s
/-- STB8: its issue unit, run. -/
def execStB8 (o : OpS) (s : State) : Host.Outcome State Fault Refusal := (meanStB8 o s).run s
/-- ST.B16 (R162). -/
def meanStB16 (o : OpS) (s : State) : Meaning := storeUnit o 2 1 false s
/-- STB16: its issue unit, run. -/
def execStB16 (o : OpS) (s : State) : Host.Outcome State Fault Refusal := (meanStB16 o s).run s
/-- ST.B32 (R162). -/
def meanStB32 (o : OpS) (s : State) : Meaning := storeUnit o 4 1 false s
/-- STB32: its issue unit, run. -/
def execStB32 (o : OpS) (s : State) : Host.Outcome State Fault Refusal := (meanStB32 o s).run s
/-- ST.B64 (R162). -/
def meanStB64 (o : OpS) (s : State) : Meaning := storeUnit o 8 2 false s
/-- STB64: its issue unit, run. -/
def execStB64 (o : OpS) (s : State) : Host.Outcome State Fault Refusal := (meanStB64 o s).run s
/-- ST.B128 (R162). -/
def meanStB128 (o : OpS) (s : State) : Meaning := storeUnit o 16 4 false s
/-- STB128: its issue unit, run. -/
def execStB128 (o : OpS) (s : State) : Host.Outcome State Fault Refusal := (meanStB128 o s).run s
/-- STNT (R162). -/
def meanStnt (o : OpS) (s : State) : Meaning := storeUnit o 16 4 true s
/-- STNT: its issue unit, run. -/
def execStnt (o : OpS) (s : State) : Host.Outcome State Fault Refusal := (meanStnt o s).run s

/-- Chain tag of a lane's accesses (R378). -/
def State.chainOf (s : State) (l : LaneId) : Option (Nat × Nat) :=
  some (s.coreOf l.group / 192, (s.launch l.t).chain)

/-- Fill a line into an L1 from a local tracked or untracked page (R258, R261, R263); a non-temporal load leaves the L1 as
it is (R165). -/
def State.fillL1 (s : State) (core : Nat) (lf : Leaf) (pa loc : Nat) (nt : Bool) : State :=
  if lf.ut then
    let h := Holder.l1 core (pa / 128 * 128)
    if nt then s.dropSnaps fun c => decide (c.holder = h ∧ c.line = loc / 128)
    else (s.addL1 core loc pa).freshSnap h (loc / 128)
  else (if nt then s else (s.addL1 core loc pa).share core pa).guest (homeDie lf.il pa) (core / 192) pa loc nt

/-- The line a PREFETCH brings in (R167): what would fault drops it, and so do a lane-private window and a line of a retired
channel, which is poisoned (R391). Nothing of a direct
page or of the host window is kept on the module (R376, R422), and of a cached-remote line only the copies that lie on it
(R423). -/
def State.prefetchLine (s : State) (level : Nat) (l : LaneId) (p : LanePlan) : State :=
  match p.leaf with
  | some lf =>
    if p.priv ∨ p.code ≠ 0 ∨ lf.df ∨ inHost p.pa ∨ s.poisoned (p.loc / 128 * 128) 128 ∨ s.retiredAt lf p.pa then s
    else
      let core := s.coreOf l.group
      match s.modeOf lf with
      | 0 =>
        let s := (s.rekey p.loc p.pa lf.key).mscTouch p.loc p.pa lf.key (s.chainOf l) false
        let s := if level ≤ 1 then
          s.l2Touch (homeDie lf.il p.pa) p.pa p.loc (!lf.ut) false core (s.launch l.t).asid else s
        if level = 0 then s.fillL1 core lf p.pa p.loc false else s
      | 2 => if level = 0 then (s.guestAway core lf.peer p.pa p.loc false).fillAway core lf.peer p.pa p.loc false else s
      | _ => s
  | none => s

/-- The line PREFETCH names (R167). -/
def prefetchOp (o : OpPre) : MemOp := { kind := .load false, size := 128, va := o.va.toNat, off := o.off, ta := o.ta }

/-- PREFETCH: no register, counter or fault (R167). -/
def meanPrefetch (o : OpPre) (s : State) : Meaning :=
  let m := prefetchOp o
  Meaning.mk { s.useMem 0x12 m (s.maskOnly false && decide (o.level.toNat ≤ 2)) with ready := true }
    (fun t =>
      let ps := t.plans m
      let u := t.missWalks (t.coreOf t.gid) (t.launch t.u.iss.team).asid (ps.filterMap LanePlan.va?)
      .ok (ps.foldl (fun u p => u.prefetchLine o.level.toNat (t.lane p.l) p) u))
/-- PREFETCH: its issue unit, run. -/
def execPrefetch (o : OpPre) (s : State) : Host.Outcome State Fault Refusal := (meanPrefetch o s).run s

/-! ### ATOM and ATOMF -/

/-- Registers of an ATOM's operand: one, or two under pack 11 (R168). -/
def State.atomRegs (s : State) : Nat := if (s.atomMode.getD (false, .relaxed, .device)).1 then 2 else 1

/-- What an ATOM accesses: the operand is in vd, and CAS finds its new value behind it (R168). -/
def State.atomOp (s : State) (o : OpS) (op : AtomOp) : MemOp :=
  let x := s.atomMode.getD (false, .relaxed, .device)
  let n := s.atomRegs
  { kind := .atom op, size := 4 * n, va := o.va.toNat, off := o.off, ta := o.ta, cnt := some o.cnt.toNat
    dst := o.vd.toNat, dstN := n, dat := o.vd.toNat, datN := n, td := o.td
    cas := if op = .cas then some (o.vd.toNat + n) else none, order := x.2.1, scope := x.2.2 }

/-- ATOM: 32-bit, or 64-bit under pack 11 (R168). -/
def atomUnit (o : OpS) (op : AtomOp) (s : State) : Meaning :=
  memUnit 0x13 (s.atomOp o op)
    (s.atomMode.isSome && aligned o.vd.toNat (if op = .cas then 2 * s.atomRegs else s.atomRegs)) s

/-- ATOM.ADD (R168). -/
def meanAtomAdd (o : OpS) (s : State) : Meaning := atomUnit o .add s
/-- ATOMADD: its issue unit, run. -/
def execAtomAdd (o : OpS) (s : State) : Host.Outcome State Fault Refusal := (meanAtomAdd o s).run s
/-- ATOM.MIN (R168). -/
def meanAtomMin (o : OpS) (s : State) : Meaning := atomUnit o .min s
/-- ATOMMIN: its issue unit, run. -/
def execAtomMin (o : OpS) (s : State) : Host.Outcome State Fault Refusal := (meanAtomMin o s).run s
/-- ATOM.MAX (R168). -/
def meanAtomMax (o : OpS) (s : State) : Meaning := atomUnit o .max s
/-- ATOMMAX: its issue unit, run. -/
def execAtomMax (o : OpS) (s : State) : Host.Outcome State Fault Refusal := (meanAtomMax o s).run s
/-- ATOM.AND (R168). -/
def meanAtomAnd (o : OpS) (s : State) : Meaning := atomUnit o .and s
/-- ATOMAND: its issue unit, run. -/
def execAtomAnd (o : OpS) (s : State) : Host.Outcome State Fault Refusal := (meanAtomAnd o s).run s
/-- ATOM.OR (R168). -/
def meanAtomOr (o : OpS) (s : State) : Meaning := atomUnit o .or s
/-- ATOMOR: its issue unit, run. -/
def execAtomOr (o : OpS) (s : State) : Host.Outcome State Fault Refusal := (meanAtomOr o s).run s
/-- ATOM.XOR (R168). -/
def meanAtomXor (o : OpS) (s : State) : Meaning := atomUnit o .xor s
/-- ATOMXOR: its issue unit, run. -/
def execAtomXor (o : OpS) (s : State) : Host.Outcome State Fault Refusal := (meanAtomXor o s).run s
/-- ATOM.EXCH (R168). -/
def meanAtomExch (o : OpS) (s : State) : Meaning := atomUnit o .exch s
/-- ATOMEXCH: its issue unit, run. -/
def execAtomExch (o : OpS) (s : State) : Host.Outcome State Fault Refusal := (meanAtomExch o s).run s
/-- ATOM.CAS (R168). -/
def meanAtomCas (o : OpS) (s : State) : Meaning := atomUnit o .cas s
/-- ATOMCAS: its issue unit, run. -/
def execAtomCas (o : OpS) (s : State) : Host.Outcome State Fault Refusal := (meanAtomCas o s).run s

/-- Order and scope of an ATOMF (R59, R169). -/
def State.atomfMode (s : State) : Option (Order × Scope) := s.memMode [.acquire, .release, .acqRel, .sc] false true

/-- Registers of an ATOMF's operand: FADD64 is the only 64-bit form (R169). -/
def atomfRegs (op : AtomOp) : Nat := if op = .fadd64 then 2 else 1

/-- What an ATOMF accesses (R169). -/
def State.atomfOp (s : State) (o : OpS) (op : AtomOp) : MemOp :=
  let x := s.atomfMode.getD (.relaxed, .device)
  let n := atomfRegs op
  { kind := .atom op, size := 4 * n, va := o.va.toNat, off := o.off, ta := o.ta, cnt := some o.cnt.toNat
    dst := o.vd.toNat, dstN := n, dat := o.vd.toNat, datN := n, td := o.td, order := x.1, scope := x.2 }

/-- ATOMF (R169). -/
def atomfUnit (o : OpS) (op : AtomOp) (s : State) : Meaning :=
  memUnit 0x14 (s.atomfOp o op) (s.atomfMode.isSome && aligned o.vd.toNat (atomfRegs op)) s

/-- ATOMF.FADD32 (R169). -/
def meanAtomfFadd32 (o : OpS) (s : State) : Meaning := atomfUnit o .fadd32 s
/-- ATOMFFADD32: its issue unit, run. -/
def execAtomfFadd32 (o : OpS) (s : State) : Host.Outcome State Fault Refusal := (meanAtomfFadd32 o s).run s
/-- ATOMF.FADD64 (R169). -/
def meanAtomfFadd64 (o : OpS) (s : State) : Meaning := atomfUnit o .fadd64 s
/-- ATOMFFADD64: its issue unit, run. -/
def execAtomfFadd64 (o : OpS) (s : State) : Host.Outcome State Fault Refusal := (meanAtomfFadd64 o s).run s
/-- ATOMF.FMIN32 (R169). -/
def meanAtomfFmin32 (o : OpS) (s : State) : Meaning := atomfUnit o .fmin32 s
/-- ATOMFFMIN32: its issue unit, run. -/
def execAtomfFmin32 (o : OpS) (s : State) : Host.Outcome State Fault Refusal := (meanAtomfFmin32 o s).run s
/-- ATOMF.FMAX32 (R169). -/
def meanAtomfFmax32 (o : OpS) (s : State) : Meaning := atomfUnit o .fmax32 s
/-- ATOMFFMAX32: its issue unit, run. -/
def execAtomfFmax32 (o : OpS) (s : State) : Host.Outcome State Fault Refusal := (meanAtomfFmax32 o s).run s
/-- ATOMF.FADDH2 (R169). -/
def meanAtomfFaddh2 (o : OpS) (s : State) : Meaning := atomfUnit o .faddh2 s
/-- ATOMFFADDH2: its issue unit, run. -/
def execAtomfFaddh2 (o : OpS) (s : State) : Host.Outcome State Fault Refusal := (meanAtomfFaddh2 o s).run s
/-- ATOMF.FADDB2 (R169). -/
def meanAtomfFaddb2 (o : OpS) (s : State) : Meaning := atomfUnit o .faddb2 s
/-- ATOMFFADDB2: its issue unit, run. -/
def execAtomfFaddb2 (o : OpS) (s : State) : Host.Outcome State Fault Refusal := (meanAtomfFaddb2 o s).run s
/-- ATOMF.INC (R169). -/
def meanAtomfInc (o : OpS) (s : State) : Meaning := atomfUnit o .inc s
/-- ATOMFINC: its issue unit, run. -/
def execAtomfInc (o : OpS) (s : State) : Host.Outcome State Fault Refusal := (meanAtomfInc o s).run s
/-- ATOMF.DEC (R169). -/
def meanAtomfDec (o : OpS) (s : State) : Meaning := atomfUnit o .dec s
/-- ATOMFDEC: its issue unit, run. -/
def execAtomfDec (o : OpS) (s : State) : Host.Outcome State Fault Refusal := (meanAtomfDec o s).run s

/-! ### CACHE (R265) -/

/-- An operation on a deferred page, a window, also one served from a spill area (R89), or a direct page does nothing and
completes at once (R265). -/
def State.cacheIdle (s : State) (p : LanePlan) : Bool :=
  p.bad || p.window || p.priv || match p.leaf with
    | some lf => lf.df || decide (s.modeOf lf = 1 ∨ s.modeOf lf = 3) || inHost p.pa
    | none => false

/-- The effect of CACHE: each lane names a line. -/
def State.cacheBody (s : State) (o : MemOp) : Res :=
  let ps := ((s.plans o).map fun p => { p with addr := p.addr / 128 * 128, gaddr := p.gaddr / 128 * 128,
                                               pa := p.pa / 128 * 128, loc := p.loc / 128 * 128 })
  let busy := ps.filter fun p => !s.cacheIdle p
  let idle := ps.filter s.cacheIdle
  let t := s.issueAccesses o busy
  .ok (match o.cnt with
    | some n => idle.foldl (fun t p => t.lowerC (s.lane p.l).slice n) t
    | none => t)

/-- What CACHE operation `op` names: a line, and no alignment rule (R265). -/
def cacheOp (op : Nat) (o : OpMC) : MemOp :=
  { kind := .cache op, size := 128, va := o.va.toNat, off := o.off, ta := o.ta, cnt := some o.cnt.toNat, align := false }

/-- CACHE operation `op` (R265): every role may issue it. -/
def cacheUnit (op : Nat) (o : OpMC) (s : State) : Meaning :=
  Meaning.mk (s.useMem 0x0F (cacheOp op o) (s.maskOnly false)) (fun t => t.cacheBody (cacheOp op o))

/-- CACHE.IINV (R265, R266). -/
def meanCacheIinv (o : OpMC) (s : State) : Meaning := cacheUnit 0 o s
/-- CACHEIINV: its issue unit, run. -/
def execCacheIinv (o : OpMC) (s : State) : Host.Outcome State Fault Refusal := (meanCacheIinv o s).run s
/-- CACHE.L1INV (R265). -/
def meanCacheL1inv (o : OpMC) (s : State) : Meaning := cacheUnit 1 o s
/-- CACHEL1INV: its issue unit, run. -/
def execCacheL1inv (o : OpMC) (s : State) : Host.Outcome State Fault Refusal := (meanCacheL1inv o s).run s
/-- CACHE.L2CLEAN (R265). -/
def meanCacheL2clean (o : OpMC) (s : State) : Meaning := cacheUnit 2 o s
/-- CACHEL2CLEAN: its issue unit, run. -/
def execCacheL2clean (o : OpMC) (s : State) : Host.Outcome State Fault Refusal := (meanCacheL2clean o s).run s
/-- CACHE.L2FLUSH (R265). -/
def meanCacheL2flush (o : OpMC) (s : State) : Meaning := cacheUnit 3 o s
/-- CACHEL2FLUSH: its issue unit, run. -/
def execCacheL2flush (o : OpMC) (s : State) : Host.Outcome State Fault Refusal := (meanCacheL2flush o s).run s

/-! ### WAITC, MONITOR, MWAIT, FENCE -/

/-- WAITC: ready when the counter is at or below the threshold in every slice (R171). -/
def meanWaitc (o : OpWaitc) (s : State) : Meaning :=
  let thr := fun (t : State) c =>
    if o.bySa then (t.getS (t.slice c) (o.va.toNat % 64)).toNat else t.immU o.imm
  Meaning.mk
    { major := 0x15
      legal := s.u.iss.modp.isNone &&
        (if o.bySa then decide (o.imm = 0 ∧ o.va.toNat < 64) && s.noImmx else decide (o.va = 0))
      cover := false
      allRoles := true
      ready := s.cur.slices.all fun c => decide (s.getC (s.slice c) o.n.toNat ≤ thr s c) }
    (fun t => .ok t)
/-- WAITC: its issue unit, run. -/
def execWaitc (o : OpWaitc) (s : State) : Host.Outcome State Fault Refusal := (meanWaitc o s).run s

/-- Arm a slice's watch on the line of a location (R172); `n` names the access whose read arms it. -/
def State.arm (s : State) (c : SliceId) (loc n : Nat) : State :=
  s.modSlc c fun x => { x with watch := some { line := loc / 128, triggered := false, by_ := n } }

/-- The read of a MONITOR is performed: its watch counts from now, unless a later MONITOR has replaced it (R172). -/
def State.armRead (s : State) (c : SliceId) (loc n : Nat) : State :=
  match (s.slc c).watch with
  | some w => if w.by_ ≤ n then s.arm c loc n else s
  | none => s.arm c loc n

/-- The lowest lane of each slice among plans in ascending lane order. -/
def lowestPerSlice : List LanePlan → List LanePlan
  | [] => []
  | p :: ps => p :: (lowestPerSlice ps).filter fun q => decide (q.l / 4 ≠ p.l / 4)

/-- What MONITOR accesses (R172). -/
def monitorOp (o : OpMon) : MemOp :=
  { kind := .monitor, size := 4, va := o.va.toNat, off := o.off, ta := o.ta, noPriv := true }

/-- MONITOR (R172): each slice watches the line of its lowest lane with a true effective mask. On global memory the relaxed
read that arms it is in flight, and the watch counts from that read. -/
def meanMonitor (o : OpMon) (s : State) : Meaning :=
  let m := monitorOp o
  Meaning.mk { s.useMem 0x15 m (s.maskOnly false) with cover := false }
    (fun t =>
      let ps := t.plans m
      match State.memFault m ps with
      | some f => .trap f
      | none =>
        let ps := lowestPerSlice ps
        let u := (ps.filter fun p => decide (p.code = 0)).foldl
          (fun u p => u.arm (t.lane p.l).slice p.loc t.u.uid) t
        .ok { u.issueAccesses { m with cnt := none } (ps.filter fun p => p.leaf.isSome || decide (p.code ≠ 0)) with
              u.uid := u.u.uid + ps.length + 1 })
/-- MONITOR: its issue unit, run. -/
def execMonitor (o : OpMon) (s : State) : Host.Outcome State Fault Refusal := (meanMonitor o s).run s

/-- The watches of a split. -/
def State.watches (s : State) (p : Split) : List Watch :=
  p.slices.filterMap fun c => (s.slc ⟨p.team, p.group, c⟩).watch

/-- MWAIT's limit: the smallest SYS_MWTIMEOUT of the split's slices (log entry 23). -/
def State.mwLimit (s : State) (p : Split) : Nat :=
  (p.slices.map fun c => (s.slc ⟨p.team, p.group, c⟩).mwTimeout.toNat).foldl min (2 ^ 32)

/-- A read that arms a watch of the split is under way (R172). -/
def State.arming (s : State) (p : Split) : Bool :=
  s.k.acc.any fun a => decide (a.kind = .monitor ∧ a.lane.t = p.team ∧ a.lane.g = p.group ∧ a.lane.l / 4 ∈ p.slices)

/-- MWAIT (R173): completes at once without an armed watch, with a triggered one, or with a timeout of 0;
otherwise the split sleeps. It issues once the reads that arm the split's watches are performed (R172). -/
def meanMwait (s : State) : Meaning :=
  Meaning.mk { major := 0x15, legal := s.bare, cover := false, ready := !s.arming s.cur }
    (fun t =>
      let p := t.cur
      let ws := t.watches p
      .ok (if ws.isEmpty || ws.any (·.triggered) || decide (t.mwLimit p = 0) then t.disarm p
        else t.modSplit p.sid fun x => { x with park := .mwait (t.u.clk + t.mwLimit p) }))
/-- MWAIT: its issue unit, run. -/
def execMwait (s : State) : Host.Outcome State Fault Refusal := (meanMwait s).run s

/-- The order and scope of a FENCE (R327): a MODP is required; relaxed and lane scope are illegal. -/
def State.fenceMode (s : State) : Option (Order × Scope) :=
  match s.u.iss.modp with
  | none => none
  | some m =>
    if m.sat ∨ m.alt ∨ m.tc ∨ m.vc ≠ 0 ∨ m.zi then none
    else (memOrder m.rnd.toNat m.pack.toNat).filter fun x =>
      decide (x.1 ≠ .relaxed ∧ x.2 ≠ .lane)

/-- The wider of the narrow scopes at which a store is performed (R319, R320). -/
def Scope.widen (sc : Scope) : Option Scope → Option Scope
  | some .cluster => some .cluster
  | _ => some sc

/-- The executing lanes' own earlier stores that a FENCE of narrow scope covers are performed at that scope once it lets its split
go on (R320, R323, R328). -/
def State.noteNear (s : State) (p : Split) (f : FenceIn) : State :=
  if !f.scope.narrow ∨ f.order = .acquire then s
  else
    { s with k.acc := s.k.acc.map fun a =>
        if a.lane.t = p.team ∧ a.lane.g = p.group ∧ a.lane.l ∈ f.lanes ∧ a.seq < f.seq then { a with near := f.scope.widen a.near }
        else a }

/-- FENCE (R327, R328): the split issues no later MEM or ENGINE unit until it has completed. -/
def meanFence (s : State) : Meaning :=
  let m := s.fenceMode
  Meaning.mk { major := 0x15, legal := m.isSome && s.noImmx, cover := false }
    (fun t =>
      match m with
      | none => .ok t
      | some (o, sc) =>
        if t.elanes.isEmpty then .ok t
        else
          let f : FenceIn := { lanes := t.elanes, order := o, scope := sc, seq := t.u.seqNo }
          .ok ((t.noteNear t.cur f).modSplit t.cur.sid fun p => { p with fences := p.fences ++ [f] }))
/-- FENCE: its issue unit, run. -/
def execFence (s : State) : Host.Outcome State Fault Refusal := (meanFence s).run s

end Sys2Proof.Machine
end

