-- ==== Sys2Proof/Machine/Flags.lean ====
section
/-! DEFINITION. Results of comparisons and clamps: the conditions of ICMP and FCMP (R97, R115), saturation of
integer results (R17, R91), and the sign computations of the shifts (R92). The machine keeps no carry,
overflow or exception flags (R17). -/

namespace Sys2Proof.Machine

/-- Clamp an exact integer to w bits, unsigned or signed (R17, R91). -/
def clampTo (w : Nat) (unsigned : Bool) (x : Int) : Int :=
  if unsigned then max 0 (min (2 ^ w - 1) x) else max (-(2 ^ (w - 1))) (min (2 ^ (w - 1) - 1) x)

/-- An integer result in w bits: clamped with sat, wrapped without (R90, R91). -/
def fitTo (w : Nat) (sat unsigned : Bool) (x : Int) : Nat :=
  wrap w (if sat then clampTo w unsigned x else x)

/-- A reading of w bits: signed, or unsigned (R91). -/
def readInt (w : Nat) (unsigned : Bool) (x : Nat) : Int :=
  if unsigned then (x % 2 ^ w : Nat) else sext w x

/-- The integer conditions by minor (R97). -/
def icond (minor w a b : Nat) : Bool :=
  match minor with
  | 0 => decide (a = b)
  | 1 => decide (a ≠ b)
  | 2 => decide (sext w a < sext w b)
  | 3 => decide (sext w a ≤ sext w b)
  | 4 => decide (sext w b < sext w a)
  | 5 => decide (sext w b ≤ sext w a)
  | 6 => decide (a < b)
  | _ => decide (b ≤ a)

/-- The floating-point conditions by minor (R115). -/
def fcond (minor : Nat) (f : Fmt) (a b : Nat) : Bool :=
  let un := f.isNan a || f.isNan b
  let c := (f.value a).cmp (f.value b)
  match minor with
  | 0 => !un && decide (c = .eq)
  | 1 => un || decide (c ≠ .eq)
  | 2 => !un && decide (c = .lt)
  | 3 => !un && decide (c ≠ .gt)
  | 4 => !un && decide (c = .gt)
  | 5 => !un && decide (c ≠ .lt)
  | 6 => un
  | _ => !un

/-- Left shift of w bits; an amount of w or more gives 0 (R92). -/
def shlBits (w a n : Nat) : Nat := if w ≤ n then 0 else a * 2 ^ n % 2 ^ w
/-- Logical right shift (R92). -/
def shrBits (w a n : Nat) : Nat := if w ≤ n then 0 else a % 2 ^ w / 2 ^ n
/-- Arithmetic right shift: an amount of w or more gives copies of the sign (R92). -/
def sarBits (w a n : Nat) : Nat := wrap w (sext w a / 2 ^ (min n w))
/-- Left rotation by n mod w (R92). -/
def rolBits (w a n : Nat) : Nat :=
  let k := n % w
  (a % 2 ^ w * 2 ^ k + a % 2 ^ w / 2 ^ (w - k)) % 2 ^ w
/-- Right rotation by n mod w (R92). -/
def rorBits (w a n : Nat) : Nat := rolBits w a (w - n % w)

/-- The bits of w-bit a in reverse order (R95 BREV). -/
def revBits (w a : Nat) : Nat := (List.range w).foldl (fun n i => 2 * n + a / 2 ^ i % 2) 0
/-- Number of one bits (R94 POPC). -/
def popBits (w a : Nat) : Nat := (List.range w).foldl (fun n i => n + a / 2 ^ i % 2) 0
/-- Number of zero bits above the highest one (R94 CLZ). -/
def clzBits (w a : Nat) : Nat := if a % 2 ^ w = 0 then w else w - 1 - (a % 2 ^ w).log2
/-- Bitwise complement of w bits. -/
def notBits (w a : Nat) : Nat := 2 ^ w - 1 - a % 2 ^ w

end Sys2Proof.Machine
end

