-- ==== Sys2Proof/Machine/Iarith.lean ====
section
/-! DEFINITION. Majors 0x00 IARITH and 0x01 IMULT (R90 to R94). -/

namespace Sys2Proof.Machine

/-- Packings 32, 2×16, 4×8 and 64 (R90). -/
def packsAll : List Nat := [0, 1, 2, 3]
/-- Packings 32, 2×16 and 4×8. -/
def packsNarrow : List Nat := [0, 1, 2]
/-- Packings 32 and 64. -/
def packsWide : List Nat := [0, 3]

/-- IADD (R93). -/
def meanIadd (o : OpA) (s : State) : Meaning :=
  Meaning.mk (s.useA 0x00 o { packs := packsAll, sat := true, alt := true } false s.satAlt)
    (fun t => t.deliverA o fun w a b _ =>
      fitTo w t.sat t.alt (readInt w t.alt a + readInt w t.alt b))
/-- IADD: its issue unit, run. -/
def execIadd (o : OpA) (s : State) : Host.Outcome State Fault Refusal := (meanIadd o s).run s

/-- ISUB (R93). -/
def meanIsub (o : OpA) (s : State) : Meaning :=
  Meaning.mk (s.useA 0x00 o { packs := packsAll, sat := true, alt := true } false s.satAlt)
    (fun t => t.deliverA o fun w a b _ =>
      fitTo w t.sat t.alt (readInt w t.alt a - readInt w t.alt b))
/-- ISUB: its issue unit, run. -/
def execIsub (o : OpA) (s : State) : Host.Outcome State Fault Refusal := (meanIsub o s).run s

/-- IMIN (R93). -/
def meanImin (o : OpA) (s : State) : Meaning :=
  Meaning.mk (s.useA 0x00 o { packs := packsAll })
    (fun t => t.deliverA o fun w a b _ => wrap w (min (sext w a) (sext w b)))
/-- IMIN: its issue unit, run. -/
def execImin (o : OpA) (s : State) : Host.Outcome State Fault Refusal := (meanImin o s).run s

/-- IMAX (R93). -/
def meanImax (o : OpA) (s : State) : Meaning :=
  Meaning.mk (s.useA 0x00 o { packs := packsAll })
    (fun t => t.deliverA o fun w a b _ => wrap w (max (sext w a) (sext w b)))
/-- IMAX: its issue unit, run. -/
def execImax (o : OpA) (s : State) : Host.Outcome State Fault Refusal := (meanImax o s).run s

/-- IMINU (R93). -/
def meanIminu (o : OpA) (s : State) : Meaning :=
  Meaning.mk (s.useA 0x00 o { packs := packsAll }) (fun t => t.deliverA o fun _ a b _ => min a b)
/-- IMINU: its issue unit, run. -/
def execIminu (o : OpA) (s : State) : Host.Outcome State Fault Refusal := (meanIminu o s).run s

/-- IMAXU (R93). -/
def meanImaxu (o : OpA) (s : State) : Meaning :=
  Meaning.mk (s.useA 0x00 o { packs := packsAll }) (fun t => t.deliverA o fun _ a b _ => max a b)
/-- IMAXU: its issue unit, run. -/
def execImaxu (o : OpA) (s : State) : Host.Outcome State Fault Refusal := (meanImaxu o s).run s

/-- IADDC: the carry out of a + b + (c AND 1) (R93). -/
def meanIaddc (o : OpA) (s : State) : Meaning :=
  Meaning.mk (s.useA 0x00 o {} true) (fun t => t.deliverA o fun _ a b c => (a + b + c % 2) / 2 ^ 32)
/-- IADDC: its issue unit, run. -/
def execIaddc (o : OpA) (s : State) : Host.Outcome State Fault Refusal := (meanIaddc o s).run s

/-- IABSD (R93): operands signed, or unsigned with alt. -/
def meanIabsd (o : OpA) (s : State) : Meaning :=
  Meaning.mk (s.useA 0x00 o { packs := packsNarrow, alt := true })
    (fun t => t.deliverA o fun w a b _ => (readInt w t.alt a - readInt w t.alt b).natAbs)
/-- IABSD: its issue unit, run. -/
def execIabsd (o : OpA) (s : State) : Host.Outcome State Fault Refusal := (meanIabsd o s).run s

/-- IMUL (R94). -/
def meanImul (o : OpA) (s : State) : Meaning :=
  Meaning.mk (s.useA 0x01 o { packs := packsNarrow, sat := true, alt := true } false s.satAlt)
    (fun t => t.deliverA o fun w a b _ =>
      fitTo w t.sat t.alt (readInt w t.alt a * readInt w t.alt b))
/-- IMUL: its issue unit, run. -/
def execImul (o : OpA) (s : State) : Host.Outcome State Fault Refusal := (meanImul o s).run s

/-- IMULH: bits 63:32 of the signed product (R94). -/
def meanImulh (o : OpA) (s : State) : Meaning :=
  Meaning.mk (s.useA 0x01 o {})
    (fun t => t.deliverA o fun w a b _ => wrap 32 (sext w a * sext w b / 2 ^ 32))
/-- IMULH: its issue unit, run. -/
def execImulh (o : OpA) (s : State) : Host.Outcome State Fault Refusal := (meanImulh o s).run s

/-- IMULHU: bits 63:32 of the unsigned product (R94). -/
def meanImulhu (o : OpA) (s : State) : Meaning :=
  Meaning.mk (s.useA 0x01 o {}) (fun t => t.deliverA o fun _ a b _ => a * b / 2 ^ 32)
/-- IMULHU: its issue unit, run. -/
def execImulhu (o : OpA) (s : State) : Host.Outcome State Fault Refusal := (meanImulhu o s).run s

/-- IMAD: a × b + c (R94). -/
def meanImad (o : OpA) (s : State) : Meaning :=
  Meaning.mk (s.useA 0x01 o { packs := packsNarrow, sat := true, alt := true } true s.satAlt)
    (fun t => t.deliverA o fun w a b c =>
      fitTo w t.sat t.alt (readInt w t.alt a * readInt w t.alt b + readInt w t.alt c))
/-- IMAD: its issue unit, run. -/
def execImad (o : OpA) (s : State) : Host.Outcome State Fault Refusal := (meanImad o s).run s

/-- IDOT4: signed byte products added to signed c; sat clamps signed (R94). -/
def meanIdot4 (o : OpA) (s : State) : Meaning :=
  Meaning.mk (s.useA 0x01 o { sat := true } true)
    (fun t => t.deliverA o fun _ a b c =>
      fitTo 32 t.sat false
        (sext 32 c + ([0, 1, 2, 3].map fun i => sext 8 (elem a i 8) * sext 8 (elem b i 8)).sum))
/-- IDOT4: its issue unit, run. -/
def execIdot4 (o : OpA) (s : State) : Host.Outcome State Fault Refusal := (meanIdot4 o s).run s

/-- IDOT4U: unsigned byte products added to unsigned c; sat clamps unsigned (R94). -/
def meanIdot4u (o : OpA) (s : State) : Meaning :=
  Meaning.mk (s.useA 0x01 o { sat := true } true)
    (fun t => t.deliverA o fun _ a b c =>
      fitTo 32 t.sat true
        ((c : Int) + ([0, 1, 2, 3].map fun i => ((elem a i 8 * elem b i 8 : Nat) : Int)).sum))
/-- IDOT4U: its issue unit, run. -/
def execIdot4u (o : OpA) (s : State) : Host.Outcome State Fault Refusal := (meanIdot4u o s).run s

/-- POPC (R94). -/
def meanPopc (o : OpA1) (s : State) : Meaning :=
  Meaning.mk (s.useA1 0x01 o { packs := packsNarrow }) (fun t => t.deliverA1 o popBits)
/-- POPC: its issue unit, run. -/
def execPopc (o : OpA1) (s : State) : Host.Outcome State Fault Refusal := (meanPopc o s).run s

/-- CLZ (R94). -/
def meanClz (o : OpA1) (s : State) : Meaning :=
  Meaning.mk (s.useA1 0x01 o { packs := packsNarrow }) (fun t => t.deliverA1 o clzBits)
/-- CLZ: its issue unit, run. -/
def execClz (o : OpA1) (s : State) : Host.Outcome State Fault Refusal := (meanClz o s).run s

end Sys2Proof.Machine
end

