-- ==== Sys2Proof/Machine/Farith.lean ====
section
/-! DEFINITION. Majors 0x09 FARITH and 0x0A FFMA (R108 to R114). -/

namespace Sys2Proof.Machine

/-- Packings of the floating-point instructions: 32, 2×16, 64 (R108). -/
def packsFp : List Nat := [0, 1, 3]

/-- Slice of a lane of the group under issue. -/
def State.sliceOf (s : State) (l : Nat) : SliceId := s.slice (l / 4)

/-- Deliver a floating-point result computed element by element: `f fmt rnd a b c` (R108). -/
def State.deliverF (s : State) (o : OpA) (f : Fmt → Rnd → Nat → Nat → Nat → Nat) : Res :=
  .ok (s.deliverAll o.vd.toNat s.regsPer fun l =>
    s.perElem o.va.toNat o.vb.toNat (s.vc o.vd.toNat)
      (fun _ a b c => f s.fmt (s.roundOf (s.sliceOf l)) a b c) l)

/-- One rounding of an exact sum of values (R23, R39). -/
def roundSum (f : Fmt) (r : Rnd) (xs : List XVal) : Nat := roundTo f r (exactSum r.mode xs)

/-- a × b of two encodings, exactly. -/
def Fmt.prod (f : Fmt) (a b : Nat) : XVal := (f.value a).mul (f.value b)

/-- FADD (R111). -/
def meanFadd (o : OpA) (s : State) : Meaning :=
  Meaning.mk (s.useA 0x09 o { packs := packsFp, rnd := 5, alt := true } false s.fmtOk)
    (fun t => t.deliverF o fun f r a b _ => roundSum f r [f.value a, f.value b])
/-- FADD: its issue unit, run. -/
def execFadd (o : OpA) (s : State) : Host.Outcome State Fault Refusal := (meanFadd o s).run s

/-- FSUB (R111). -/
def meanFsub (o : OpA) (s : State) : Meaning :=
  Meaning.mk (s.useA 0x09 o { packs := packsFp, rnd := 5, alt := true } false s.fmtOk)
    (fun t => t.deliverF o fun f r a b _ => roundSum f r [f.value a, (f.value b).negate])
/-- FSUB: its issue unit, run. -/
def execFsub (o : OpA) (s : State) : Host.Outcome State Fault Refusal := (meanFsub o s).run s

/-- FMUL (R111). -/
def meanFmul (o : OpA) (s : State) : Meaning :=
  Meaning.mk (s.useA 0x09 o { packs := packsFp, rnd := 5, alt := true } false s.fmtOk)
    (fun t => t.deliverF o fun f r a b _ => roundTo f r (f.prod a b))
/-- FMUL: its issue unit, run. -/
def execFmul (o : OpA) (s : State) : Host.Outcome State Fault Refusal := (meanFmul o s).run s

/-- FMIN: minimumNumber (R111). -/
def meanFmin (o : OpA) (s : State) : Meaning :=
  Meaning.mk (s.useA 0x09 o { packs := packsFp, alt := true } false s.fmtOk)
    (fun t => t.deliverF o fun f _ a b _ => f.pickNumber false a b)
/-- FMIN: its issue unit, run. -/
def execFmin (o : OpA) (s : State) : Host.Outcome State Fault Refusal := (meanFmin o s).run s

/-- FMAX: maximumNumber (R111). -/
def meanFmax (o : OpA) (s : State) : Meaning :=
  Meaning.mk (s.useA 0x09 o { packs := packsFp, alt := true } false s.fmtOk)
    (fun t => t.deliverF o fun f _ a b _ => f.pickNumber true a b)
/-- FMAX: its issue unit, run. -/
def execFmax (o : OpA) (s : State) : Host.Outcome State Fault Refusal := (meanFmax o s).run s

/-- FMINM: minimum (R111). -/
def meanFminm (o : OpA) (s : State) : Meaning :=
  Meaning.mk (s.useA 0x09 o { packs := packsFp, alt := true } false s.fmtOk)
    (fun t => t.deliverF o fun f _ a b _ => f.pick false a b)
/-- FMINM: its issue unit, run. -/
def execFminm (o : OpA) (s : State) : Host.Outcome State Fault Refusal := (meanFminm o s).run s

/-- FMAXM: maximum (R111). -/
def meanFmaxm (o : OpA) (s : State) : Meaning :=
  Meaning.mk (s.useA 0x09 o { packs := packsFp, alt := true } false s.fmtOk)
    (fun t => t.deliverF o fun f _ a b _ => f.pick true a b)
/-- FMAXM: its issue unit, run. -/
def execFmaxm (o : OpA) (s : State) : Host.Outcome State Fault Refusal := (meanFmaxm o s).run s

/-- FCPYS: a with the sign of b; a NaN gives the canonical NaN (R111). -/
def meanFcpys (o : OpA) (s : State) : Meaning :=
  Meaning.mk (s.useA 0x09 o { packs := packsFp, alt := true } false s.fmtOk)
    (fun t => t.deliverF o fun f _ a b _ =>
      if f.isNan a then f.nan else f.signed (f.neg b) (a % 2 ^ (f.eb + f.fb)))
/-- FCPYS: its issue unit, run. -/
def execFcpys (o : OpA) (s : State) : Host.Outcome State Fault Refusal := (meanFcpys o s).run s

/-- Use of a fused multiply-add (R112). -/
def State.useFma (s : State) (o : OpA) : Use :=
  s.useA 0x0A o { packs := packsFp, rnd := 5, alt := true } true s.fmtOk

/-- FFMA: a × b + c (R112). -/
def meanFfma (o : OpA) (s : State) : Meaning :=
  Meaning.mk (s.useFma o)
    (fun t => t.deliverF o fun f r a b c => roundSum f r [f.value c, f.prod a b])
/-- FFMA: its issue unit, run. -/
def execFfma (o : OpA) (s : State) : Host.Outcome State Fault Refusal := (meanFfma o s).run s

/-- FFMS: a × b − c (R112). -/
def meanFfms (o : OpA) (s : State) : Meaning :=
  Meaning.mk (s.useFma o)
    (fun t => t.deliverF o fun f r a b c => roundSum f r [(f.value c).negate, f.prod a b])
/-- FFMS: its issue unit, run. -/
def execFfms (o : OpA) (s : State) : Host.Outcome State Fault Refusal := (meanFfms o s).run s

/-- FNMA: −(a × b) + c (R112). -/
def meanFnma (o : OpA) (s : State) : Meaning :=
  Meaning.mk (s.useFma o)
    (fun t => t.deliverF o fun f r a b c => roundSum f r [f.value c, (f.prod a b).negate])
/-- FNMA: its issue unit, run. -/
def execFnma (o : OpA) (s : State) : Host.Outcome State Fault Refusal := (meanFnma o s).run s

/-- FNMS: −(a × b) − c (R112). -/
def meanFnms (o : OpA) (s : State) : Meaning :=
  Meaning.mk (s.useFma o)
    (fun t => t.deliverF o fun f r a b c => roundSum f r [(f.value c).negate, (f.prod a b).negate])
/-- FNMS: its issue unit, run. -/
def execFnms (o : OpA) (s : State) : Host.Outcome State Fault Refusal := (meanFnms o s).run s

/-- An FP32 sum of c and the n products of the w-bit elements of a and b, rounded once (R113). -/
def dotSum (f : Fmt) (w n : Nat) (r : Rnd) (a b c : Nat) : Nat :=
  roundSum fp32 r (fp32.value c :: (List.range n).map fun i => f.prod (elem a i w) (elem b i w))

/-- FDOT2: FP16 products, BF16 with alt (R113). -/
def meanFdot2 (o : OpA) (s : State) : Meaning :=
  Meaning.mk (s.useA 0x0A o { rnd := 5, alt := true } true)
    (fun t => t.deliverF o fun _ r a b c => dotSum (if t.alt then bf16 else fp16) 16 2 r a b c)
/-- FDOT2: its issue unit, run. -/
def execFdot2 (o : OpA) (s : State) : Host.Outcome State Fault Refusal := (meanFdot2 o s).run s

/-- FDOT4: E4M3 products, E5M2 with alt (R113). -/
def meanFdot4 (o : OpA) (s : State) : Meaning :=
  Meaning.mk (s.useA 0x0A o { rnd := 5, alt := true } true)
    (fun t => t.deliverF o fun _ r a b c => dotSum (if t.alt then e5m2 else e4m3) 8 4 r a b c)
/-- FDOT4: its issue unit, run. -/
def execFdot4 (o : OpA) (s : State) : Host.Outcome State Fault Refusal := (meanFdot4 o s).run s

/-- A value times 2^n. -/
def XVal.scale (x : XVal) (n : Int) : XVal :=
  match x with
  | .fin s m e => .fin s m (e + n)
  | y => y

/-- FSCALE: a × 2^n; under packings 32 and 64 n is the single register vb (R114). -/
def meanFscale (o : OpA) (s : State) : Meaning :=
  Meaning.mk
    { major := 0x0A
      legal := s.modpOk { packs := packsFp, rnd := 5, alt := true } && s.fmtOk && s.pairOk o.va.toNat &&
        s.pairOk o.vd.toNat
      reads := [{ reg := o.va.toNat, n := s.regsPer, trap := o.ta }, { reg := o.vb.toNat, trap := o.tb }]
      dests := [(o.vd.toNat, s.regsPer)] }
    (fun t => .ok (t.deliverAll o.vd.toNat t.regsPer fun l =>
      let nw := packShape t.pack
      let a := t.opV l o.va.toNat
      let b := (t.getV (t.lane l) o.vb.toNat).toNat
      let r := t.roundOf (t.sliceOf l)
      joinElems nw.2 (fun e =>
        let n := if t.pack = 1 then sext 16 (elem b e 16) else sext 32 b
        roundTo t.fmt r (((t.fmt.value (elem a e nw.2))).scale n)) nw.1))
/-- FSCALE: its issue unit, run. -/
def execFscale (o : OpA) (s : State) : Host.Outcome State Fault Refusal := (meanFscale o s).run s

end Sys2Proof.Machine
end

