-- ==== Sys2Proof/Machine/Convert.lean ====
section
/-! DEFINITION. Major 0x0D CONVERT (R119 to R128): conversions between float and integer formats with a part index,
FROUND, FCLASS, FEXPO, and the DX micro-blocks of DXPACK and DXUNPK (R31 to R35). -/

namespace Sys2Proof.Machine

/-- The float formats by code (R119). -/
def floatCode (c : Nat) : Option Fmt :=
  match c with
  | 0 => some fp64
  | 1 => some fp32
  | 2 => some fp16
  | 3 => some bf16
  | 4 => some e4m3
  | 5 => some e5m2
  | _ => none

/-- The integer formats by code: width and whether unsigned (R119). -/
def intCode (c : Nat) : Option (Nat × Bool) :=
  match c with
  | 0 => some (32, false)
  | 1 => some (32, true)
  | 2 => some (16, false)
  | 3 => some (16, true)
  | 4 => some (8, false)
  | 5 => some (8, true)
  | 6 => some (64, false)
  | 7 => some (64, true)
  | 8 => some (4, false)
  | 9 => some (4, true)
  | _ => none

/-- The range of an integer format (R16). -/
def intRange (w : Nat) (unsigned : Bool) : Int × Int :=
  if unsigned then (0, 2 ^ w - 1) else (-(2 ^ (w - 1)), 2 ^ (w - 1) - 1)

/-- An integer as an exact value; zero is +0. -/
def XVal.ofInt (x : Int) : XVal := .fin (decide (x < 0)) x.natAbs 0

/-- Elements per register on the wide side, and parts (R120). -/
def cvtShape (ws wt : Nat) : Nat × Nat :=
  let k := max 1 (32 / max ws wt)
  (k, max 1 (32 / min ws wt) / k)

/-- Generator state after n words (R27). -/
def genIter (g : Word) : Nat → Word
  | 0 => g
  | n + 1 => genIter (genWord g) n

/-- The generator word that element j of a conversion consumes (R28). -/
def State.cvtWord (s : State) (l j : Nat) : Nat := (genIter (s.gen (s.lane l)) (j + 1)).toNat

/-- After a conversion of n elements per lane, the generators of the lanes with a true effective mask whose slice rounds by
STOCH have advanced by n words (R28); an active lane that the effective mask leaves out does not advance (log entry 61). -/
def State.advanceGen (s0 s : State) (n : Nat) : State :=
  s0.elanes.foldl (fun t l =>
    if s0.stoch (s0.sliceOf l) then
      t.modLan (s0.lane l) fun x => { x with gen := genIter (s0.gen (s0.lane l)) n }
    else t) s

/-- Use of a conversion between widths ws and wt (R119, R120). -/
def State.useCvt (s : State) (ta : Bool) (va vd ws wt : Nat) (sat : Bool) (extra : Bool) : Use :=
  let narrow := decide (wt < ws)
  let kp := cvtShape ws wt
  let sn := if ws = 64 then 2 else 1
  let dn := if wt = 64 then 2 else 1
  let vc := s.vc vd
  { major := 0x0D
    legal := extra && s.modpOk { packs := [0, 1, 2, 3], vc := narrow, rnd := 6, sat := sat } &&
      decide (kp.2 ≤ 4) && decide (s.pack < kp.2) && aligned va sn && aligned vd dn
    reads := [{ reg := va, n := sn, trap := ta }] ++ (if narrow then [{ reg := vc, trap := s.tc }] else [])
    dests := [(vd, dn)] }

/-- The result of a conversion in lane l by the shape rule (R120): `cvt rnd x` converts one element. -/
def State.cvtLane (s : State) (va vd ws wt : Nat) (cvt : Rnd → Nat → Nat) (l : Nat) : Nat :=
  let k := (cvtShape ws wt).1
  let p := s.pack
  let a := s.getVs (s.lane l) va (if ws = 64 then 2 else 1)
  let r := fun j => s.roundCvt (s.sliceOf l) (s.cvtWord l j)
  if wt < ws then
    (List.range k).foldl (fun x j => setElem x (p * k + j) wt (cvt (r j) (elem a j ws)))
      (s.getV (s.lane l) (s.vc vd)).toNat
  else joinElems wt (fun j => cvt (r j) (elem a (p * k + j) ws)) k

/-- Deliver a conversion and advance the generators (R120, R121). -/
def State.deliverCvt (s : State) (va vd ws wt : Nat) (cvt : Rnd → Nat → Nat) : Res :=
  .ok (s.advanceGen (s.deliverAll vd (if wt = 64 then 2 else 1) (s.cvtLane va vd ws wt cvt))
    (cvtShape ws wt).1)

/-- FCVT (R121). -/
def meanFcvt (o : OpFcvt) (s : State) : Meaning :=
  let f := (floatCode o.src.toNat).getD fp32
  let g := (floatCode o.tgt.toNat).getD fp32
  Meaning.mk
    (s.useCvt o.ta o.va.toNat o.vd.toNat f.width g.width true
      (decide (o.src ≠ o.tgt) && (floatCode o.src.toNat).isSome && (floatCode o.tgt.toNat).isSome))
    (fun t => t.deliverCvt o.va.toNat o.vd.toNat f.width g.width fun r x => roundTo g r (f.value x))
/-- FCVT: its issue unit, run. -/
def execFcvt (o : OpFcvt) (s : State) : Host.Outcome State Fault Refusal := (meanFcvt o s).run s

/-- ICVTF: integer to float (R121). -/
def meanIcvtf (o : OpIcvt) (s : State) : Meaning :=
  let i := (intCode o.icode.toNat).getD (32, false)
  let g := (floatCode o.fcode.toNat).getD fp32
  Meaning.mk
    (s.useCvt o.ta o.va.toNat o.vd.toNat i.1 g.width true
      ((intCode o.icode.toNat).isSome && (floatCode o.fcode.toNat).isSome))
    (fun t => t.deliverCvt o.va.toNat o.vd.toNat i.1 g.width fun r x =>
      roundTo g r (XVal.ofInt (readInt i.1 i.2 x)))
/-- ICVTF: its issue unit, run. -/
def execIcvtf (o : OpIcvt) (s : State) : Host.Outcome State Fault Refusal := (meanIcvtf o s).run s

/-- FCVTI: float to integer, always saturating (R26, R121). -/
def meanFcvti (o : OpIcvt) (s : State) : Meaning :=
  let i := (intCode o.icode.toNat).getD (32, false)
  let f := (floatCode o.fcode.toNat).getD fp32
  Meaning.mk
    (s.useCvt o.ta o.va.toNat o.vd.toNat f.width i.1 false
      ((intCode o.icode.toNat).isSome && (floatCode o.fcode.toNat).isSome))
    (fun t => t.deliverCvt o.va.toNat o.vd.toNat f.width i.1 fun r x =>
      let lh := intRange i.1 i.2
      wrap i.1 (roundInt r.mode lh.1 lh.2 (f.value x)))
/-- FCVTI: its issue unit, run. -/
def execFcvti (o : OpIcvt) (s : State) : Host.Outcome State Fault Refusal := (meanFcvti o s).run s

/-- An encoding rounded to an integral value of its own format; a zero keeps the sign of a (R122). -/
def roundIntegral (f : Fmt) (md : RMode) (x : Nat) : Nat :=
  match f.value x with
  | .nan => f.nan
  | .inf s => f.infinite {} s
  | .fin s m e => roundTo f {} (.fin s (md.roundUnits s m e 0) 0)

/-- FROUND (R122). -/
def meanFround (o : OpA1) (s : State) : Meaning :=
  Meaning.mk (s.useA1 0x0D o { packs := packsFp, rnd := 5, alt := true } s.fmtOk)
    (fun t => .ok (t.deliverAll o.vd.toNat t.regsPer fun l =>
      t.perElem o.va.toNat o.va.toNat o.va.toNat
        (fun _ a _ _ => roundIntegral t.fmt (t.roundOf (t.sliceOf l)).mode a) l))
/-- FROUND: its issue unit, run. -/
def execFround (o : OpA1) (s : State) : Host.Outcome State Fault Refusal := (meanFround o s).run s

/-- The class bit of an encoding (R123). -/
def classBit (f : Fmt) (x : Nat) : Nat :=
  let mag := x % 2 ^ (f.eb + f.fb)
  let neg := f.neg x
  if f.isNan x then (if bit x (f.fb - 1) then 9 else 8)
  else if mag = f.infBits then (if neg then 0 else 7)
  else if mag = 0 then (if neg then 3 else 4)
  else if mag < 2 ^ f.fb then (if neg then 2 else 5)
  else (if neg then 1 else 6)

/-- floor(log2 |a|) as a w-bit integer; zero gives the most negative, infinities and NaN the most positive
(R124). -/
def expOf (f : Fmt) (w x : Nat) : Nat :=
  match f.value x with
  | .fin _ m e => if m = 0 then 2 ^ (w - 1) else wrap w ((m.log2 : Int) + e)
  | _ => 2 ^ (w - 1) - 1

/-- Use of FCLASS and FEXPO: under 64-bit packing vd is a single register (R123, R124). -/
def State.useInspect (s : State) (o : OpA1) : Use :=
  { major := 0x0D
    legal := s.modpOk { packs := packsFp, alt := true } && s.fmtOk && s.pairOk o.va.toNat
    reads := [{ reg := o.va.toNat, n := s.regsPer, trap := o.ta }]
    dests := [(o.vd.toNat, 1)] }

/-- Deliver one result per element, 32 bits wide, or 16 under 2×16. -/
def State.deliverInspect (s : State) (o : OpA1) (f : Nat → Nat → Nat) : Res :=
  .ok (s.deliverAll o.vd.toNat 1 fun l =>
    let a := s.opV l o.va.toNat
    if s.pack = 1 then joinElems 16 (fun e => f 16 (elem a e 16)) 2 else f 32 a)

/-- FCLASS (R123). -/
def meanFclass (o : OpA1) (s : State) : Meaning :=
  Meaning.mk (s.useInspect o) (fun t => t.deliverInspect o fun _ a => 2 ^ classBit t.fmt a)
/-- FCLASS: its issue unit, run. -/
def execFclass (o : OpA1) (s : State) : Host.Outcome State Fault Refusal := (meanFclass o s).run s

/-- FEXPO (R124). -/
def meanFexpo (o : OpA1) (s : State) : Meaning :=
  Meaning.mk (s.useInspect o) (fun t => t.deliverInspect o fun w a => expOf t.fmt w a)
/-- FEXPO: its issue unit, run. -/
def execFexpo (o : OpA1) (s : State) : Host.Outcome State Fault Refusal := (meanFexpo o s).run s

/-! ### DX micro-blocks -/

/-- Element bits, magnitude bits and data registers of a DX format code (R31, R34, R125); the reserved code 3 takes DX4's
registers in the checks before FORMAT (log entry 62). -/
def dxShape (code : Nat) : Nat × Nat × Nat :=
  match code with
  | 0 => (8, 6, 8)
  | 1 => (6, 4, 6)
  | _ => (4, 2, 4)

/-- The value of a DX element under its block's exponents (R33). -/
def dxValue (code e0 e1 x : Nat) : XVal :=
  let sh := dxShape code
  let e := if bit x (sh.1 - 1) then e1 else e0
  if e = 255 then .nan
  else .fin (bit x (sh.1 - 2)) (x % 2 ^ sh.2.1) ((e : Int) - 127)

/-- |x| ≤ m × 2^(e − 127), for a finite x. -/
def withinDx (x : XVal) (m e : Nat) : Bool :=
  match x with
  | .fin _ n g => decide ((XVal.fin false n g).cmp (.fin false m ((e : Int) - 127)) ≠ .gt)
  | _ => false

/-- The exponents of a micro-block (R35): none when an input is a NaN or infinite. -/
def dxExponents (code policy : Nat) (xs : List XVal) : Option (Nat × Nat) :=
  if xs.all fun x => match x with | .fin _ _ _ => true | _ => false then
    let w := (dxShape code).2.1
    let e1 := 1 + ((List.range 254).find? fun i => xs.all fun x => withinDx x (2 ^ w - 1) (i + 1)).getD 253
    some (if policy = 0 then max 1 (e1 - w) else e1, e1)
  else none

/-- The field of one element (R35). -/
def dxField (code policy e0 e1 : Nat) (md : RMode) (x : XVal) : Nat :=
  match x with
  | .fin neg m e =>
    let sh := dxShape code
    let mmax := 2 ^ sh.2.1 - 1
    let hi := decide (policy = 0) && !withinDx x mmax e0
    let q := md.roundUnits neg m e (((if hi then e1 else e0 : Nat) : Int) - 127)
    (if hi then 2 ^ (sh.1 - 1) else 0) + (if neg then 2 ^ (sh.1 - 2) else 0) + min q mmax
  | _ => 0

/-- The data field and exponent entry of a packed micro-block (R32, R35). -/
def dxPack (code policy : Nat) (md : Nat → RMode) (xs : List XVal) : Nat × Nat :=
  match dxExponents code policy xs with
  | none => (0, 0xFFFF)
  | some (e0, e1) =>
    (joinElems (dxShape code).1 (fun i => dxField code policy e0 e1 (md i) (xs.getD i (.fin false 0 0))) 32,
      e0 + 256 * e1)

/-- DX format code of F in a slice (R34, R86). -/
def State.dxCode (s : State) (c : SliceId) : Nat := (s.slc c).f.toNat % 4
/-- Exponent policy of F in a slice (R34, R86). -/
def State.dxPolicy (s : State) (c : SliceId) : Nat := (s.slc c).f.toNat / 4
/-- Registers of the packed form in a slice: data and exponent entry (R125). -/
def State.dxRegs (s : State) (c : SliceId) : Nat := (dxShape (s.dxCode c)).2.2 + 1
/-- The most registers the packed form takes in any slice of the split. -/
def State.dxRegsMax (s : State) : Nat := (s.slices.map s.dxRegs).foldl max 0
/-- No register that the packed form would fill is empty in a lane that the unit writes (R82). -/
def State.packedFree (s : State) (vd : Nat) : Bool :=
  s.wlanes.all fun l => (s.emptyIn (s.lane l) vd (s.dxRegs (s.sliceOf l))).isNone
/-- The reads of the packed form: each register in the lanes whose slice's form has it (R82, R106). -/
def State.packedReads (s : State) (va : Nat) (trap : Bool) : List Read :=
  (List.range s.dxRegsMax).map fun i =>
    { reg := va + i, trap := trap, lanes := some (s.elanes.filter fun l => decide (i < s.dxRegs (s.sliceOf l))) }
/-- Some slice of the split holds the reserved DX code, whatever its effective mask (R34; log entry 62). -/
def State.dxReserved (s : State) : Bool := s.slices.any fun c => decide (s.dxCode c = 3)

/-- Registers of the unpacked form: 32 FP32 or 16 of packed 16-bit values (R125). -/
def State.dxWide (s : State) : Nat := if s.pack = 0 then 32 else 16

/-- DXPACK (R125). -/
def meanDxpack (o : OpA1) (s : State) : Meaning :=
  Meaning.mk
    { major := 0x0D
      legal := s.modpOk { packs := [0, 1], rnd := 6, alt := true } && s.fmtOk
      reads := [{ reg := o.va.toNat, n := s.dxWide, trap := o.ta }]
      dests := [(o.vd.toNat, s.dxRegsMax)], dlanes := some [], ready := s.packedFree o.vd.toNat }
    (fun t =>
      if t.dxReserved then .trap { code := FORMAT }
      else
        let res := t.act.foldl (fun r l =>
          let c := t.sliceOf l
          let n := t.dxRegs c
          if t.maskOk l then
            let a := t.getVs (t.lane l) o.va.toNat t.dxWide
            let w := if t.pack = 0 then 32 else 16
            let p := dxPack (t.dxCode c) (t.dxPolicy c) (fun i => (t.roundCvt c (t.cvtWord l i)).mode)
              ((List.range 32).map fun i => t.fmt.value (elem a i w))
            r.setVs (t.lane l) o.vd.toNat (p.1 + 2 ^ (32 * (n - 1)) * p.2) n
          else if t.zi then r.setVs (t.lane l) o.vd.toNat 0 n
          else r) t
        .ok (t.advanceGen res 32))
/-- DXPACK: its issue unit, run. -/
def execDxpack (o : OpA1) (s : State) : Host.Outcome State Fault Refusal := (meanDxpack o s).run s

/-- DXUNPK (R126). -/
def meanDxunpk (o : OpA1) (s : State) : Meaning :=
  Meaning.mk
    { major := 0x0D
      legal := s.modpOk { packs := [0, 1], rnd := 6, sat := true, alt := true } && s.fmtOk &&
        decide (o.va.toNat + s.dxRegsMax ≤ s.budget)
      reads := s.packedReads o.va.toNat o.ta
      dests := [(o.vd.toNat, s.dxWide)] }
    (fun t =>
      if t.dxReserved then .trap { code := FORMAT }
      else
        .ok (t.advanceGen (t.deliverAll o.vd.toNat t.dxWide fun l =>
          let c := t.sliceOf l
          let sh := dxShape (t.dxCode c)
          let a := t.getVs (t.lane l) o.va.toNat (t.dxRegs c)
          let x := a / 2 ^ (32 * sh.2.2)
          let w := if t.pack = 0 then 32 else 16
          joinElems w (fun i => roundTo t.fmt (t.roundCvt c (t.cvtWord l i))
            (dxValue (t.dxCode c) (x % 256) (x / 256 % 256) (elem a i sh.1))) 32) 32))
/-- DXUNPK: its issue unit, run. -/
def execDxunpk (o : OpA1) (s : State) : Host.Outcome State Fault Refusal := (meanDxunpk o s).run s

end Sys2Proof.Machine
end

