-- ==== Sys2Proof/Machine/FetchUnit.lean ====
section
/-! DEFINITION. Tile handles as every user of one checks them (R270), elements of a layout record in memory (R267,
R268), reads and writes of engines through translation, the numbers of structured sparsity (R189, R190), and
major 0x1C, the fetch unit (R290 to R294). -/

namespace Sys2Proof.Machine

/-! ### Handles (R270) -/

/-- Die, entry and generation of a handle. -/
def handleDie (h : Nat) : Nat := h / 2 ^ 28 % 16
def handleEntry (h : Nat) : Nat := h / 2 ^ 12 % 2 ^ 16
def handleGen (h : Nat) : Nat := h % 2 ^ 12

/-- The handle of a directory entry. -/
def Tile.handle (t : Tile) : Nat := t.die * 2 ^ 28 + t.entry * 2 ^ 12 + t.gen

/-- The directory entry that a handle names. -/
def State.entry? (s : State) (h : Nat) : Option Tile :=
  s.e.tiles.find? fun t => decide (t.die = handleDie h ∧ t.entry = handleEntry h)

/-- The live entry of a handle whose generation matches. -/
def State.tile? (s : State) (h : Nat) : Option Tile :=
  (s.entry? h).filter fun t => t.live && decide (t.gen = handleGen h)

/-- The fault code of a use of a handle under an ASID; 0 for none (R270). The minting ASID is known only of a live
entry of that generation. -/
def State.handleCode (s : State) (asid h : Nat) : Nat :=
  if 3 < handleDie h ∨ handleGen h = 0 then HANDLE_INVALID
  else match s.tile? h with
    | some t => if t.asid = asid then 0 else HANDLE_INVALID
    | none => HANDLE_STALE

/-- The tile of a handle, or a blank one. -/
def State.tileOf (s : State) (h : Nat) : Tile := (s.tile? h).getD { die := 0, entry := 0, gen := 0, live := false }

/-- The record of a tile. -/
def Tile.layout (t : Tile) : Layout := t.foot.recs.headD {}

/-- The fault of a handle held in a register (R270). -/
def handleFault (code reg h : Nat) (lanes : Option (List Nat)) : FaultInfo :=
  { code := code, reg := reg, info := h, lanes := lanes }

/-! ### Elements of a record -/

/-- Coordinates x0 to x3. -/
abbrev Coord := Nat × Nat × Nat × Nat

/-- Do coordinates lie inside the extents? -/
def Layout.inside (r : Layout) (x : Coord) : Bool :=
  decide (x.1 < r.e 0 ∧ x.2.1 < r.e 1 ∧ x.2.2.1 < r.e 2 ∧ x.2.2.2 < r.e 3)

/-- First byte of an element, and the bit within it where the element begins (R15, R267, R268). -/
def Layout.elemAt (r : Layout) (x : Coord) : Nat × Nat :=
  let b := x.1 * r.eb
  let a := if r.eb % 8 = 0 then r.swizzled (b / 8) x.2.1 else b / 8
  (r.rowAt (x.2.1, x.2.2.1, x.2.2.2) + a, b % 8)

/-- The bytes an element lies in. -/
def Layout.elemBytes (r : Layout) (x : Coord) : List Nat :=
  let p := r.elemAt x
  (List.range (ceilDiv (p.2 + r.eb) 8)).map fun i => p.1 + i

/-- `n` bytes of a view of memory from an address, little-endian. -/
def viewRead (g : Nat → Nat) (a : Nat) : Nat → Nat
  | 0 => 0
  | n + 1 => g a % 256 + 256 * viewRead g (a + 1) n

/-- An element in a view of memory. -/
def Layout.elemIn (r : Layout) (g : Nat → Nat) (x : Coord) : Nat :=
  let p := r.elemAt x
  viewRead g p.1 (ceilDiv (p.2 + r.eb) 8) / 2 ^ p.2 % 2 ^ r.eb

/-! ### Engines at memory -/

/-- Where a virtual address leads an engine of a core: its leaf, or the code of the fault (R359). -/
def State.seek (s : State) (core asid va n : Nat) (write : Bool) : Leaf ⊕ Nat :=
  match s.translate core asid va n with
  | none => .inr PAGE_FAULT
  | some lf => if (if write then lf.w else lf.r) then .inl lf else .inr ACCESS

/-- A byte as an engine reads it: home memory, host memory or another module (R243). -/
def State.viewByte (s : State) (core asid n va : Nat) : Nat :=
  match s.seek core asid va n false with
  | .inl lf => s.load (s.locOf lf (lf.pa va)) 1
  | .inr _ => 0

/-- Addresses of the 128-byte lines that bytes lie in. -/
def linesOf (vas : List Nat) : List Nat := (vas.map fun a => a / 128 * 128).eraseDups

/-- Bytes within a line written at their home by an engine, a controller, a host or a peer: the conflict of R259 with every
invalidation acknowledged; the line is dirty at its home slice, or with `msc` the MSC has the bytes (R253, R334). On its way to
another module a write updates the copies that this one keeps (R423), and a retired channel takes nothing (R391). -/
def State.homeWrite (s : State) (lf : Leaf) (pa loc v n : Nat) (msc : Bool) : State :=
  if inHost pa then s.store loc v n
  else if s.retiredAt lf pa then s
  else if s.modeOf lf = 0 then
    let s := if lf.ut then s else s.conflictNow pa
    let s := if msc then s.writeBack (loc / 128) else s.addSnap .msc (loc / 128)
    s.storeAt loc v n fun h => decide (h = .atPa (pa / 128 * 128))
  else s.storeAt loc v n fun h => match h with | .l1 _ _ => true | .guest _ => true | _ => false

/-- What an access of an engine, a controller, a host or a peer meets at the home of a local line: key, MSC tag, breaches, L2
(R257, R287, R288, R378, R381); host memory has tenure alone. -/
def State.homeTouch (s : State) (ag : Agent) (core : Nat) (chain : Option (Nat × Nat)) (lf : Leaf) (va : Nat)
    (write : Bool) : State :=
  let pa := lf.pa va
  let loc := s.locOf lf pa
  if inHost pa then s.breach ag pa write
  else
    let s := s.rekey loc pa lf.key
    if s.modeOf lf ≠ 0 then s
    else
      let s := (s.mscTouch loc pa lf.key chain write).breach ag pa write
      if lf.df then s else s.l2Touch (homeDie lf.il pa) pa loc (!lf.ut) false core ag.asid

/-- An access of an engine that translates its address: the walk, and what it meets at the home (R360). -/
def State.engineTouch (s : State) (ag : Agent) (core : Nat) (chain : Option (Nat × Nat)) (lf : Leaf) (va : Nat)
    (write : Bool) : State := (s.missWalks core ag.asid [va]).homeTouch ag core chain lf va write

/-! ### Structured sparsity (R189, R190) -/

/-- Binomial coefficients. -/
def binom : Nat → Nat → Nat
  | _, 0 => 1
  | 0, _ + 1 => 0
  | n + 1, k + 1 => binom n k + binom n (k + 1)

/-- The positions a pattern number stands for, lowest first: the largest p with C(p, h) ≤ N, and so on. -/
def patternOf (h n : Nat) : List Nat :=
  match h with
  | 0 => []
  | k + 1 =>
    let p := ((List.range 8).reverse.find? fun p => decide (binom p (k + 1) ≤ n)).getD 0
    patternOf k (n - binom p (k + 1)) ++ [p]

/-- Group size, numbers per metadata word, bits per number, and the largest number of a pattern: 4-of-8, or 2-of-4
when `p24`. -/
def sparseShape (p24 : Bool) : Nat × Nat × Nat × Nat := if p24 then (4, 10, 3, 5) else (8, 4, 7, 69)

/-- Number i of a metadata word. -/
def metaNumber (p24 : Bool) (w i : Nat) : Nat := let h := sparseShape p24; w / 2 ^ (h.2.2.1 * i) % 2 ^ h.2.2.1

/-- A metadata word that holds n numbers is malformed: a number is too large or a padding bit is 1 (R190). -/
def metaBadIn (p24 : Bool) (n w : Nat) : Bool :=
  let h := sparseShape p24
  decide (w / 2 ^ (n * h.2.2.1) ≠ 0) || (List.range n).any fun i => decide (h.2.2.2 < metaNumber p24 w i)

/-- A full metadata word is malformed. -/
def metaBad (p24 : Bool) (w : Nat) : Bool := metaBadIn p24 (sparseShape p24).2.1 w

/-! ### Runs (R291 to R293) -/

/-- Output elements of a run and their width. -/
def FetchOp.shape (f : FetchOp) : Nat × Nat :=
  if f.minor = 0 ∧ fmtDx f.data.fmt then (if f.pack = 0 then (4, 32) else (8, 16))
  else (128 / max 1 f.data.eb, f.data.eb)

/-- Coordinates of a lane. -/
def FetchOp.at_ (f : FetchOp) : Coord := (f.x.getD 0 0, f.x.getD 1 0, f.x.getD 2 0, f.x.getD 3 0)

/-- Is an INT32 or UINT32 index inside extent 1 (R293)? -/
def FetchOp.index (f : FetchOp) (v : Nat) : Option Nat :=
  if f.aux.fmt = 0x07 ∧ 2 ^ 31 ≤ v then none else if v < f.data.e 1 then some v else none

/-- Where output element j of a dense or DX run lies; none for a FETCHX run that reads nothing. -/
def FetchOp.coord (f : FetchOp) (g : Nat → Nat) (j : Nat) : Option Coord :=
  let x := f.at_
  if f.minor = 1 then
    if f.x.getD 4 0 < f.aux.e 0 then
      (f.index (f.aux.elemIn g (f.x.getD 4 0, 0, 0, 0))).map fun i => (x.1 + j, i, x.2.2.1, 0)
    else none
  else some (x.1 + j, x.2)

/-- Metadata coordinates and number index for logical x0 (R292). -/
def metaAt (p24 : Bool) (x : Coord) : Coord × Nat :=
  let h := sparseShape p24
  ((x.1 / h.1 / h.2.1, x.2), x.1 / h.1 % h.2.1)

/-- The metadata word that governs an element; outside the metadata tile the spec states none (log entry 17). -/
def FetchOp.metaWord (f : FetchOp) (g : Nat → Nat) (free : Word) (x : Coord) : Nat :=
  let c := (metaAt f.alt x).1
  if f.aux.inside c then f.aux.elemIn g c else free.toNat

/-- Logical element (R292) is inside the data tile: its group's kept values are. -/
def FetchOp.keptInside (f : FetchOp) (x : Coord) : Bool :=
  let h := sparseShape f.alt
  f.data.inside (x.1 / h.1 * (h.1 / 2), x.2)

/-- Where the kept value of a logical element lies, if it is kept. -/
def FetchOp.kept (f : FetchOp) (g : Nat → Nat) (free : Word) (x : Coord) : Option Coord :=
  let h := sparseShape f.alt
  let w := f.metaWord g free x
  if !f.keptInside x || metaBad f.alt w then none
  else
    let ps := patternOf (h.1 / 2) (metaNumber f.alt w (metaAt f.alt x).2)
    match ps.findIdx? fun p => decide (p = x.1 % h.1) with
    | some j => some (x.1 / h.1 * (h.1 / 2) + j, x.2)
    | none => none

/-- Exponent plane coordinates of a DX element (R291). -/
def planeAt (x : Coord) : Coord := (x.1 / 32, x.2)

/-- The value of a DX element; outside the plane tile it is NaN (R291). -/
def FetchOp.dxAt (f : FetchOp) (g : Nat → Nat) (x : Coord) : XVal :=
  if f.aux.inside (planeAt x) then
    let e := f.aux.elemIn g (planeAt x)
    dxValue (f.data.fmt - 0x0E) (e % 256) (e / 256 % 256) (f.data.elemIn g x)
  else .nan

/-- Target format of a DX run. -/
def FetchOp.target (f : FetchOp) : Fmt := if f.pack = 0 then fp32 else if f.alt then bf16 else fp16

/-- Output element j in a view of memory. -/
def FetchOp.element (f : FetchOp) (g : Nat → Nat) (free : Word) (j : Nat) : Nat :=
  if f.minor = 2 then
    let x := f.at_
    match f.kept g free (x.1 + j, x.2) with
    | some c => if f.data.inside c then f.data.elemIn g c else 0
    | none => 0
  else
    match f.coord g j with
    | none => 0
    | some c =>
      if !f.data.inside c then 0
      else if f.minor = 0 ∧ fmtDx f.data.fmt then
        roundTo f.target { mode := modeOf f.mode 0, sat := f.sat, sat8 := f.sat8 } (f.dxAt g c)
      else f.data.elemIn g c

/-- The run in a view of memory. -/
def FetchOp.run (f : FetchOp) (g : Nat → Nat) (free : Word) : Nat :=
  joinElems f.shape.2 (fun j => f.element g free j) f.shape.1

/-- The bytes an element of a tile lies in, if it is inside. -/
def Layout.touch (r : Layout) (x : Coord) : List Nat := if r.inside x then r.elemBytes x else []

/-- The bytes a run reads, given what the view shows in its index or metadata tile. -/
def FetchOp.touched (f : FetchOp) (g : Nat → Nat) (free : Word) : List Nat :=
  let x := f.at_
  ((List.range f.shape.1).flatMap fun j =>
    match f.minor with
    | 1 => f.aux.touch (f.x.getD 4 0, 0, 0, 0) ++ (match f.coord g j with | some c => f.data.touch c | none => [])
    | 2 =>
      let c := (x.1 + j, x.2)
      if f.keptInside c then
        f.aux.touch (metaAt f.alt c).1 ++ (match f.kept g free c with | some k => f.data.touch k | none => [])
      else []
    | _ =>
      let c := (x.1 + j, x.2)
      if f.data.inside c then f.data.touch c ++ (if fmtDx f.data.fmt then f.aux.touch (planeAt c) else []) else []
    ).eraseDups

/-- Malformed metadata words that a run met (R292). -/
def FetchOp.badWords (f : FetchOp) (g : Nat → Nat) (free : Word) : Nat :=
  if f.minor ≠ 2 then 0
  else
    let x := f.at_
    let cs := ((List.range f.shape.1).map fun j => (x.1 + j, x.2)).filter f.keptInside
    let ws := (cs.map fun c => ((metaAt f.alt c).1, f.metaWord g free c)).eraseDups
    (ws.filter fun w => metaBad f.alt w.2).length

/-! ### Issue (R290) -/

/-- The lowest lane with a true effective mask. -/
def State.lowLane (s : State) : Nat := s.elanes.headD 0

/-- The value of a V register in that lane. -/
def State.lowV (s : State) (r : Nat) : Nat := (s.getV (s.lane s.lowLane) r).toNat

/-- The ASID of the team under issue. -/
def State.asid (s : State) : Nat := (s.launch s.u.iss.team).asid

/-- The first fault among handles in V registers: INVALID before STALE (R290). -/
def State.handlesV (s : State) (rs : List Nat) : Option FaultInfo :=
  let of := fun c => (rs.find? fun r => decide (s.handleCode s.asid (s.lowV r) = c)).map fun r =>
    handleFault c r (s.lowV r) (some [s.lowLane])
  of HANDLE_INVALID <|> of HANDLE_STALE

/-- MODP of a fetch (R290, R292, R293): rnd is at most 5, or 0; FETCHX takes no field but mask, zi and vc. -/
def State.fetchModp (s : State) (minor : Nat) : Bool :=
  s.noImmx && match s.u.iss.modp with
    | none => true
    | some m =>
      match minor with
      | 0 => decide (m.rnd.toNat ≤ 5)
      | 1 => decide (m.rnd = 0 ∧ m.pack = 0) && !m.sat && !m.alt && !m.tc
      | _ => decide (m.rnd = 0 ∧ m.pack = 0) && !m.sat

/-- FORMAT of a fetch (R291 to R293). -/
def State.fetchFormat (s : State) (minor : Nat) (data aux : Layout) : Bool :=
  match minor with
  | 0 =>
    if fmtDx data.fmt then
      decide (1 < s.pack) || (s.alt && decide (s.pack = 0)) || decide (aux.fmt ≠ 0x0A) || s.dxReserved
    else decide (s.pack ≠ 0 ∨ s.rndCode ≠ 0) || s.alt || s.sat
  | 1 => decide (data.eb < 8) || fmtDx data.fmt || !decide (aux.rank = 1 ∧ (aux.fmt = 0x07 ∨ aux.fmt = 0x08))
  | _ => !decide (data.fmt ∈ [0x03, 0x04, 0x05, 0x06, 0x0B]) || decide (aux.fmt ≠ 0x08)

/-- Does a fetch use the handle in vc? -/
def fetchAux (minor : Nat) (data : Layout) : Bool := decide (minor ≠ 0) || fmtDx data.fmt

/-- What a lane's run is; DYN reads the split's lowest slice with an active lane (R22). -/
def State.fetchOf (s : State) (minor va : Nat) (data aux : Layout) (acc l : Nat) : FetchOp :=
  let w := fun i => (s.getV (s.lane l) (va + i)).toNat
  let c := s.lead
  { acc := acc, minor := minor, data := data, aux := aux, pack := s.pack, alt := s.alt
    mode := let k := s.modeCode c; if k = 6 then 0 else k
    sat := s.sat, sat8 := (s.roundOf c).sat8
    x := if minor = 1 then [w 1 % 2 ^ 16, 0, w 1 / 2 ^ 16, 0, w 0]
      else [w 0 % 2 ^ 16, w 0 / 2 ^ 16, w 1 % 2 ^ 16, w 1 / 2 ^ 16] }

/-- The translation fault of a run: its address and code (R176). -/
def State.runFault (s : State) (core asid : Nat) (f : FetchOp) (n : Nat) : Option (Nat × Nat) :=
  (f.touched (s.viewByte core asid n) (Config.freeWord f.acc)).findSome? fun a =>
    match s.seek core asid a n false with
    | .inl _ => none
    | .inr c => some (a, c)

/-- Where the bytes of runs lie: the chunks of migrate-on-count pages that the unit accesses (R424). -/
def State.runPlaces (s : State) (core asid : Nat) (fs : List FetchOp) : List (Leaf × Nat) :=
  fs.flatMap fun f => (linesOf (f.touched (s.viewByte core asid f.acc) (Config.freeWord f.acc))).filterMap fun va =>
    match s.seek core asid va f.acc false with
    | .inl lf => some (lf, lf.pa va)
    | .inr _ => none

/-- Issue one command: the lanes' runs are in flight, their destinations empty (R290). -/
def State.issueFetch (s : State) (minor vd va : Nat) (data aux : Layout) : State :=
  let core := s.coreOf s.gid
  let fs : List (Nat × FetchOp) := s.elanes.mapIdx fun i l => (l, s.fetchOf minor va data aux (s.u.uid + i) l)
  let acc := fs.map fun (x : Nat × FetchOp) =>
    let bad := s.runFault core s.asid x.2 x.1
    { id := x.2.acc, sid := s.u.iss.sid, lane := s.lane x.1, unitPc := s.u.iss.unitPc, seq := s.u.seqNo
      kind := .fetch, gaddr := (bad.map (·.1)).getD data.base, size := 0, dst := vd, dstN := 4
      phase := match bad with | some b => .held b.2 | none => .issued
      born := s.u.clk : Access }
  let t := s.act.foldl (fun t l =>
    if s.maskOk l then t.markVs (s.lane l) vd true 4
    else if s.zi then t.setVs (s.lane l) vd 0 4
    else t) s
  let t := { t with
    k.acc := t.k.acc ++ acc
    e.fetches := t.e.fetches ++ fs.map Prod.snd
    u.uid := t.u.uid + fs.length
    u.seqNo := t.u.seqNo + 1 }
  (t.countChunks core s.asid (s.runPlaces core s.asid (fs.map Prod.snd))).postHeld s.u.iss.sid s.u.seqNo

/-- A fetch of a minor (R290). -/
def fetchUnit (minor : Nat) (o : OpA) (s : State) : Meaning :=
  let vd := o.vd.toNat
  let vc := s.vc vd
  let low := some (s.elanes.take 1)
  Meaning.mk
    { major := 0x1C
      legal := s.fetchModp minor && aligned vd 4 && aligned o.va.toNat 2
      reads := [{ reg := o.va.toNat, n := 2, trap := o.ta }, { reg := o.vb.toNat, trap := o.tb, lanes := low },
        { reg := vc, trap := s.tc, lanes := low }]
      dests := [(vd, 4)] }
    (fun t =>
      if t.elanes.isEmpty then .ok (t.issueFetch minor vd o.va.toNat {} {})
      else
        let d := (t.tileOf (t.lowV o.vb.toNat)).layout
        let uses := fetchAux minor d
        match t.handlesV (if uses then [o.vb.toNat, vc] else [o.vb.toNat]) with
        | some f => .trap f
        | none =>
          let x := if uses then (t.tileOf (t.lowV vc)).layout else {}
          if t.fetchFormat minor d x then .trap { code := FORMAT }
          else .ok (t.issueFetch minor vd o.va.toNat d x))

/-- FETCH (R291). -/
def meanFetch (o : OpA) (s : State) : Meaning := fetchUnit 0 o s
/-- FETCH: its issue unit, run. -/
def execFetch (o : OpA) (s : State) : Host.Outcome State Fault Refusal := (meanFetch o s).run s
/-- FETCHX (R293). -/
def meanFetchx (o : OpA) (s : State) : Meaning := fetchUnit 1 o s
/-- FETCHX: its issue unit, run. -/
def execFetchx (o : OpA) (s : State) : Host.Outcome State Fault Refusal := (meanFetchx o s).run s
/-- FETCHS (R292). -/
def meanFetchs (o : OpA) (s : State) : Meaning := fetchUnit 2 o s
/-- FETCHS: its issue unit, run. -/
def execFetchs (o : OpA) (s : State) : Host.Outcome State Fault Refusal := (meanFetchs o s).run s

/-- FINV (R294): drops the lines of a handle's bounding interval from the core's fetch-unit cache; without a lane with a
true effective mask there is no handle, and nothing is dropped. -/
def meanFinv (o : OpFinv) (s : State) : Meaning :=
  Meaning.mk
    { major := 0x1C, legal := s.bare
      reads := [{ reg := o.vb.toNat, trap := o.tb, lanes := some (s.elanes.take 1) }] }
    (fun t =>
      if t.elanes.isEmpty then .ok t
      else match t.handlesV [o.vb.toNat] with
      | some f => .trap f
      | none =>
        let x := t.tileOf (t.lowV o.vb.toNat)
        let core := t.coreOf t.gid
        let inside := fun (va : Nat) => decide (x.layout.base < va + 128 ∧ va < x.layout.top)
        let hit := fun (y : L1Line) => inside y.va || x.foot.pages.any fun lf =>
          decide (lf.frame ≤ y.pa ∧ y.pa < lf.frame + lf.size) && inside (lf.va + (y.pa - lf.frame))
        .ok { t with k.fc := t.k.fc.filter fun y => !(decide (y.core = core) && hit y) })
/-- FINV: its issue unit, run. -/
def execFinv (o : OpFinv) (s : State) : Host.Outcome State Fault Refusal := (meanFinv o s).run s

end Sys2Proof.Machine
end

