-- ==== Sys2Proof/Machine/Plan.lean ====
section
/-! DEFINITION. What the engines are to move: the bytes of a copy command in transfer order (R239, R243, R246 to R249), the
plan of a re-shard command (R434 to R438), and what of either is still to be written to a line (R287). -/

namespace Sys2Proof.Machine

/-! ### What a command moves -/

/-- Fields of a control word (R239). -/
def ctlBar (w : Nat) : Nat := w / 2 ^ 13
def ctlBen (w : Nat) : Bool := bit w 12
def ctlMcast (w : Nat) : List Nat := (List.range 8).filter fun j => bit w (4 + j)
/-- Chunk length in bytes of a CPY. -/
def ctlChunk (w : Nat) : Nat := 4 * (w % 4096 + 1)

/-- One step of a command in transfer order: the byte addresses it writes, each with the byte address it reads or,
for TSTORE, its place within the pattern. -/
abbrev Moves := List (Nat × Nat)

/-- The byte offsets within a row, swizzled (R247). -/
def Layout.rowOffsets (r : Layout) (x : Nat × Nat × Nat) : List Nat :=
  (List.range r.rowBytes).map fun k => r.rowAt x + r.swizzled k x.1

/-- The bytes of a command in transfer order: a CPY's chunks by lane, the rows of a box. -/
def Copy.moves (c : Copy) : Moves :=
  match c.kind with
  | .cpy =>
    c.lanes.flatMap fun l => (List.range (ctlChunk c.ctl)).map fun i =>
      (c.dst.base + (ctlChunk c.ctl * l + i), c.src.base + (ctlChunk c.ctl * l + i))
  | .tstore =>
    c.dst.rowCoords.flatMap fun x => (c.dst.rowOffsets x).zip ((List.range c.dst.rowBytes).map (· % (c.dst.eb / 8)))
  | _ => c.dst.rowCoords.flatMap fun x => (c.dst.rowOffsets x).zip (c.src.rowOffsets x)

/-- Put a byte in front of steps: the bytes of its aligned 4-byte word come with it. -/
def addMove (m : Nat × Nat) (gs : List Moves) : List Moves :=
  let here := fun (g : Moves) => g.any fun x => decide (x.1 / 4 = m.1 / 4)
  match gs with
  | [] => [[m]]
  | g :: rest =>
    if here g then (m :: g) :: rest
    else match rest.find? here with
      | some h => (m :: h) :: g :: rest.erase h
      | none => [m] :: g :: rest

/-- The steps of a command in transfer order: each is what it writes to one aligned 4-byte word, which is written whole and
finished once it is begun (R243, R251). -/
def Copy.steps (c : Copy) : List Moves := c.moves.foldr addMove []

/-- The bytes of a contiguous piece that tell whether all of it lies in windows: its ends, and those beside a 1 MiB boundary
that it crosses (R234). -/
def pieceEnds (lo hi : Nat) : List Nat :=
  [lo, hi] ++ if lo / 2 ^ 20 = hi / 2 ^ 20 then [] else [hi / 2 ^ 20 * 2 ^ 20 - 1, hi / 2 ^ 20 * 2 ^ 20]

/-- Those bytes of the contiguous pieces of one side. -/
def Copy.ends (c : Copy) (dst : Bool) : List Nat :=
  match c.kind with
  | .cpy =>
    let b := if dst then c.dst.base else c.src.base
    c.lanes.flatMap fun l => pieceEnds (b + ctlChunk c.ctl * l) (b + ctlChunk c.ctl * l + ctlChunk c.ctl - 1)
  | _ =>
    let r := if dst then c.dst else c.src
    r.rows.flatMap fun a => pieceEnds a (a + r.rowBytes - 1)

/-- Records of the destination for tenure (R242). -/
def Copy.records (c : Copy) : List Layout :=
  match c.kind with
  | .cpy => c.lanes.map fun l =>
      { base := c.dst.base + ctlChunk c.ctl * l, ext := [ctlChunk c.ctl, 1, 1, 1] }
  | _ => [c.dst]

/-! ### The re-shard plan -/

/-- A shard descriptor (R434). -/
structure Shard where
  lay : Layout
  fmtw : Nat
  mesh : List Nat
  map : Nat
  rank : Nat
  handle : Nat
  ptr : Nat
  deriving DecidableEq, Repr

/-- The descriptor of 16 words. -/
def Shard.ofWords (w : List Word) : Shard :=
  let n := fun i => (w.getD i 0).toNat
  { lay := Layout.ofWords w, fmtw := n 7, mesh := [n 8, n 9, n 10], map := n 11, rank := n 12, handle := n 13
    ptr := n 14 + 2 ^ 32 * n 15 }

/-- Ranks of the mesh. -/
def Shard.ranks (d : Shard) : Nat := d.mesh.foldl (· * ·) 1
/-- The mesh axis of a dimension, or 15 for a replicated one. -/
def Shard.axis (d : Shard) (i : Nat) : Nat := d.map / 2 ^ (4 * i) % 16
/-- Extent of the mesh along an axis. -/
def Shard.p (d : Shard) (a : Nat) : Nat := d.mesh.getD a 1
/-- Mesh coordinate of a rank along an axis (R436). -/
def Shard.coord (d : Shard) (r a : Nat) : Nat :=
  match a with
  | 0 => r % d.p 0
  | 1 => r / d.p 0 % d.p 1
  | _ => r / (d.p 0 * d.p 1)
/-- Block size of a dimension, or its extent when it is replicated (R435, R436). -/
def Shard.size (d : Shard) (i : Nat) : Nat :=
  if d.axis i = 15 then d.lay.e i else ceilDiv (d.lay.e i) (d.p (d.axis i))
/-- A rank's block along a dimension, its end excluded (R436). -/
def Shard.block (d : Shard) (r i : Nat) : Nat × Nat :=
  if d.axis i = 15 then (0, d.lay.e i)
  else
    let b := d.size i
    let c := d.coord r (d.axis i)
    (c * b, min (d.lay.e i) ((c + 1) * b))

/-- The source ranks that own a block: coordinate 0 on every axis that MAP does not name (R437). -/
def Shard.owners (d : Shard) : List Nat :=
  (List.range d.ranks).filter fun r => ([0, 1, 2] : List Nat).all fun a =>
    decide (d.coord r a = 0) || ([0, 1, 2, 3] : List Nat).any fun i => decide (d.axis i = a)

/-- Offset of a global element in the shard of a rank (R438). -/
def Shard.offset (d : Shard) (r : Nat) (x : List Nat) : Nat :=
  (([0, 1, 2, 3] : List Nat).map fun i =>
    (x.getD i 0 - (d.block r i).1) * if i = 0 then d.lay.eb / 8 else d.lay.s i).sum

/-- A step of the plan: source and destination address of its row, and its bytes (R437, R438). -/
abbrev RowMove := Nat × Nat × Nat

/-- The integers from lo up to but not at hi. -/
def span (x : Nat × Nat) : List Nat := (List.range (x.2 - x.1)).map (x.1 + ·)

/-- The rows that a source rank gives (R437). -/
def rowsFrom (a b : Shard) (table : List Nat) (r : Nat) : List RowMove :=
  let cut := fun i => let p := a.block r i; let q := b.block b.rank i; (max p.1 q.1, min p.2 q.2)
  let x0 := cut 0
  if x0.2 ≤ x0.1 then []
  else
    (span (cut 3)).flatMap fun x3 => (span (cut 2)).flatMap fun x2 => (span (cut 1)).map fun x1 =>
      (table.getD r 0 + a.offset r [x0.1, x1, x2, x3], b.lay.base + b.offset b.rank [x0.1, x1, x2, x3],
        (x0.2 - x0.1) * (a.lay.eb / 8))

/-- The plan (R437). -/
def planOf (sw dw : List Word) (table : List Nat) : List RowMove :=
  let a := Shard.ofWords sw
  let b := Shard.ofWords dw
  a.owners.flatMap (rowsFrom a b table)

/-- The plan of a command. -/
def Rsh.plan (r : Rsh) : List RowMove := planOf (r.words.take 16) (r.words.drop 16) r.table

/-- A row's bytes, as pairs of destination and source address. -/
def rowBytes (m : RowMove) : List (Nat × Nat) := (List.range m.2.2).map fun k => (m.2.1 + k, m.1 + k)

/-! ### Writes that are still to come -/

/-- The virtual addresses at which an engine's tenure has the line of a physical address. -/
def State.tenureVas (s : State) (e : Holding) (pa : Nat) : List Nat :=
  (s.e.tens.filter fun h => decide (h.holder = e)).flatMap fun h =>
    (h.foot.pages.filter fun lf => decide (lf.frame ≤ pa ∧ pa < lf.frame + lf.size)).map fun lf =>
      lf.va + (pa - lf.frame)

/-- A copy command has still to write to the line of a physical address. -/
def State.copyOwes (s : State) (c : Copy) (pa : Nat) : Bool :=
  (s.tenureVas (.copy c.id) pa).any fun va =>
    (c.steps.drop c.done).any fun ms => ms.any fun m => decide (m.1 / 128 = va / 128)

/-- The virtual addresses at which the destination of an accepted re-shard command has the line of a physical address: under its
own tenure, or in the tile of its handle, under its team's (R439). -/
def State.rshVas (s : State) (r : Rsh) (pa : Nat) : List Nat :=
  if r.phase = .asked then []
  else if r.own then s.tenureVas (.reshard r.id) pa
  else match s.entry? r.handle with
    | some t => (t.foot.pages.filter fun lf => decide (lf.frame ≤ pa ∧ pa < lf.frame + lf.size)).map fun lf => lf.va + (pa - lf.frame)
    | none => []

/-- The steps of a re-shard command that are still to write to the line of a physical address. -/
def State.rshSteps (s : State) (r : Rsh) (pa : Nat) : List Nat :=
  (s.rshVas r pa).flatMap fun va =>
    (r.plan.zipIdx.filter fun (x : RowMove × Nat) =>
      decide (r.step ≤ x.2 ∧ x.2 ∉ r.complete ∧ x.1.2.1 < va / 128 * 128 + 128 ∧ va / 128 * 128 < x.1.2.1 + x.1.2.2)).map (·.2)

/-- A re-shard command has still to write to the line of a physical address; of a stopped one only the started steps
count (R440). -/
def State.rshOwes (s : State) (r : Rsh) (pa : Nat) : Bool :=
  (s.rshSteps r pa).any fun k => r.stop.isNone || r.started.any fun x => decide (x.1 = k)

end Sys2Proof.Machine
end

