-- ==== Sys2Proof/Machine/Perform.lean ====
section
/-! DEFINITION. Accesses after issue: when one may be performed (R321 to R330), service at the home slice
(R259, R261, R263, R287, R420 to R423), the values atomics and records compute (R168, R169, R299),
landing and completion (R159, R160, R177, R428); and the events HOME_ACCESS, RECALL_RETRY, STORE_PERFORMED,
REMOTE_STORE_ACK, REPLY_LAND and DELIVERY_TIMEOUT. -/

namespace Sys2Proof.Machine

/-! ### When an access may be performed -/

/-- The access writes memory when performed; a record's append is no write (R332). -/
def Access.writes (a : Access) : Bool :=
  !a.append && match a.kind with
    | .store _ | .atom _ | .dst _ _ => true
    | _ => false

/-- The access is an acquire (R324, R326). -/
def Access.acquires (a : Access) : Bool :=
  a.isLoad && decide (a.order = .acquire ∨ a.order = .acqRel ∨ a.order = .sc)

/-- Two accesses share a byte. -/
def Access.overlaps (a b : Access) : Bool := decide (a.loc < b.loc + b.size ∧ b.loc < a.loc + a.size)

/-- Two accesses are on one line. -/
def Access.sameLine (a b : Access) : Bool := decide (a.loc / 128 = b.loc / 128)

/-- b precedes a in program order of their unit's lanes (R163, R322). -/
def Access.before (b a : Access) : Bool :=
  decide (b.seq < a.seq ∨ (b.seq = a.seq ∧ b.lane.l < a.lane.l))

/-- An SC access at pod or system scope, after which the module's copies of other modules' lines are gone before a later access
of the lane is performed (R333). -/
def Access.purges (b : Access) : Bool := decide (b.order = .sc ∧ (b.scope = .pod ∨ b.scope = .system))

/-- A relaxed store behind a store of its lane that has been sent on the same path: they arrive in order (R416, R421). -/
def Access.follows (a b : Access) (own : Nat) : Bool :=
  decide (b.phase = .remote ∧ b.dev = a.dev ∧ a.dev ≠ own ∧ a.order = .relaxed) && a.leaf.isSome && !a.isLoad && a.writes

/-- An incomplete access b keeps a from being performed: same location, load to store, store to store but on one path,
acquire, SC (R321, R322, R324, R326, R333, R421), a CACHE operation after its lane's stores to the line (R265), a load of
a line with an unacknowledged remote store of the lane (R421), lane-private accesses in program order (R89). With `early` an
acquire of narrower scope than the device holds nothing back: it binds only the agents of its instance (R319; log entry 60). -/
def Access.blocksLane (b a : Access) (own : Nat) (early : Bool) : Bool :=
  decide (b.lane = a.lane) && b.before a &&
    ((((b.overlaps a && decide (b.phase ≠ .performed) && !b.append && !a.append) || (a.writes && b.writes)) && !a.follows b own) ||
      (a.writes && b.isLoad) ||
      (!a.append && b.acquires && !(early && b.scope.narrow && decide (b.order ≠ .sc))) ||
      (!a.append && b.purges) || (b.priv && a.priv) ||
      (decide (a.order = .sc ∧ b.order = .sc ∧ a.scope = b.scope) && decide (b.phase ≠ .performed)) ||
      (match a.kind with | .cache _ => b.writes && b.sameLine a | _ => false) ||
      (a.isLoad && b.writes && decide (b.dev ≠ own ∧ b.leaf.isSome) && b.sameLine a))

/-- Stores of one unit to one byte are performed in ascending lane order (R163). -/
def Access.blocksUnit (b a : Access) : Bool :=
  decide (b.seq = a.seq ∧ b.lane.t = a.lane.t ∧ b.lane.g = a.lane.g ∧ b.lane.l < a.lane.l) &&
    b.overlaps a && match a.kind, b.kind with
      | .store _, .store _ => !a.append
      | _, _ => false

/-- A load of a line that the core's L1 holds waits for the core's earlier stores to it (R180). -/
def State.blocksCore (s : State) (b a : Access) : Bool :=
  a.isLoad && !a.writes && b.writes && b.before a && decide (b.phase ≠ .performed) && b.sameLine a &&
    decide (s.coreOf b.lane.group = s.coreOf a.lane.group) &&
    s.inL1 (s.coreOf a.lane.group) (s.cachePa a.dev a.pa)

/-- A store that a fence of narrow scope has let pass is performed at that scope: what a team or a core reads of it lies in the
fence's instance (R319, R320, R328). -/
def State.nearTo (s : State) (b : Access) (team core : Nat) : Bool :=
  b.passing && match b.near with
    | some .team => decide (b.lane.t = team)
    | some _ => decide (s.coreOf b.lane.group / 8 = core / 8)
    | none => false

/-- A load waits for such a store of its location in its instance. -/
def State.blocksNear (s : State) (b a : Access) : Bool :=
  a.isLoad && decide (b.lane ≠ a.lane) && b.overlaps a && s.nearTo b a.lane.t (s.coreOf a.lane.group)

/-- An MSCALE load waits for the acquire and SC fences in front of it (R328): its class does not keep it from issuing. -/
def State.blocksScale (s : State) (a : Access) : Bool :=
  decide (a.kind = .mscale) &&
    match s.splitOf a.lane.slice with
    | none => false
    | some p => p.fences.any fun f =>
        decide (f.order ≠ .release ∧ a.lane.l ∈ f.lanes ∧ f.seq ≤ a.seq) && !s.fenceMet p f

/-- An access may be performed now; with `early`, in front of an acquire of narrow scope (R319). -/
def State.mayPerform (s : State) (a : Access) (early : Bool := false) : Bool :=
  !s.blocksScale a && s.k.acc.all fun b =>
    decide (b.id = a.id) ||
      !(b.blocksLane a s.f.dev early || b.blocksUnit a || s.blocksCore b a || s.blocksNear b a ||
        (!a.append && s.beforeRound b a.lane.t a.seq))

/-- A load that may be performed in front of an acquire of narrow scope (R319). -/
def Access.mayPass (a : Access) : Bool :=
  decide (a.order = .relaxed) && a.leaf.isSome && match a.kind with | .load _ => true | _ => false

/-- Records are appended in issue order on each core, lanes ascending, while the log has room for them (R302, R303, R307). -/
def State.mayAppend (s : State) (a : Access) : Bool :=
  decide ((s.e.log.filter fun r => decide (r.src = s.coreOf a.lane.group)).length + a.kind.records a.size ≤ 2048) &&
    s.k.acc.all fun b =>
      !(b.append && b.before a && decide (s.coreOf b.lane.group = s.coreOf a.lane.group) &&
        match b.phase with | .held _ => false | _ => true)

/-! ### Values -/

/-- What an atomic leaves in a word of w bits (R168, R169): old, operand, new value of a CAS. -/
def atomResult (op : AtomOp) (w old v n : Nat) : Nat :=
  let h := fun (f : Fmt) e => roundSum f {} [f.value (elem old e 16), f.value (elem v e 16)]
  match op with
  | .add => (old + v) % 2 ^ w
  | .min => wrap w (min (sext w old) (sext w v))
  | .max => wrap w (max (sext w old) (sext w v))
  | .and => old &&& v
  | .or => old ||| v
  | .xor => old ^^^ v
  | .exch => v
  | .cas => if old = v then n else old
  | .fadd32 => roundSum fp32 {} [fp32.value old, fp32.value v]
  | .fadd64 => roundSum fp64 {} [fp64.value old, fp64.value v]
  | .fmin32 => fp32.pickNumber false old v
  | .fmax32 => fp32.pickNumber true old v
  | .faddh2 => joinElems 16 (h fp16) 2
  | .faddb2 => joinElems 16 (h bf16) 2
  | .inc => if v ≤ old then 0 else old + 1
  | .dec => if old = 0 ∨ v < old then v else old - 1

/-- Width in bytes of a record (R298). -/
def recBytes (wid : Nat) : Nat := if wid = 1 then 8 else 4

/-- Element width of a record. -/
def recElem (wid : Nat) : Nat := if wid = 1 then 64 else if wid = 2 then 16 else 32

/-- A record's operator on one element of width w (R299). -/
def recOp (op w a v : Nat) : Nat :=
  match op with
  | 0 => v
  | 1 => (a + v) % 2 ^ w
  | 2 =>
    let f := if w = 64 then fp64 else if w = 16 then fp16 else fp32
    roundSum f {} [f.value a, f.value v]
  | 3 => wrap w (min (sext w a) (sext w v))
  | 4 => wrap w (max (sext w a) (sext w v))
  | 5 => a ||| v
  | 6 => a &&& v
  | 8 => roundSum bf16 {} [bf16.value a, bf16.value v]
  | 9 => min a v
  | 10 => max a v
  | _ => a

/-- A record's operator on its word (R299). -/
def recWord (op wid a v : Nat) : Nat :=
  let w := recElem wid
  joinElems w (fun e => recOp op w (elem a e w) (elem v e w)) (if wid = 2 then 2 else 1)

/-! ### Completion -/

/-- Change one access. -/
def State.modAcc (s : State) (id : Nat) (f : Access → Access) : State :=
  { s with k.acc := s.k.acc.map fun a => if a.id = id then f a else a }

/-- An access of a name. -/
def State.acc? (s : State) (id : Nat) : Option Access := s.k.acc.find? fun a => decide (a.id = id)

/-- An access completes: its counter falls (R160). -/
def State.finish (s : State) (a : Access) : State :=
  let s := { s with k.acc := s.k.acc.filter fun b => decide (b.id ≠ a.id) }
  match a.cnt with
  | some n => s.lowerC a.lane.slice n
  | none => s

/-- The fault of a failed remote request (R428): INFO holds the peer and the cause. -/
def Access.fabricFault (a : Access) : FaultInfo :=
  { code := FABRIC, addr := a.gaddr, info := a.dev % 512 + (a.failed - 1) * 512, unitPc := a.unitPc }

/-- The registers an access fills become full, contents unchanged. -/
def State.fillOnly (s : State) (a : Access) : State := s.markVs a.lane a.dst false a.dstN

/-- A value of `size` bytes as a load delivers it (R161). -/
def Access.loaded (a : Access) : Nat :=
  match a.kind with
  | .load true => wrap 32 (sext (8 * a.size) a.value)
  | _ => a.value

/-- Place the reply of an MSCALE lane: SA of its row, and SB from lane 0 (R194). -/
def State.scaleLand (s : State) (a : Access) : State :=
  s.modGrp a.lane.group fun g =>
    let sa := (List.range (max g.sa.length (a.lane.l + 1))).map fun i =>
      if i = a.lane.l then BitVec.ofNat 32 a.value else g.sa.getD i 0
    { g with sa := sa, sb := if a.lane.l = 0 then BitVec.ofNat 32 (a.value / 2 ^ 32) else g.sb }

/-- A reply lands (R159, R172, R177, R194, R428). -/
def State.land (s : State) (a : Access) : State :=
  let t := s.finish a
  let t := if a.kind = .mscale then t.modGrp a.lane.group fun g => { g with mscBusy := g.mscBusy - 1 } else t
  if a.failed ≠ 0 then (t.fillOnly a).lateFault a.sid a.lane a.fabricFault
  else if a.poisoned then
    (t.fillOnly a).lateFault a.sid a.lane
      { code := POISON, addr := a.gaddr, info := a.kind.info, unitPc := a.unitPc }
  else if a.kind = .mscale then t.scaleLand a
  else if a.kind = .monitor then t
  else t.setVs a.lane a.dst a.loaded a.dstN

/-! ### Service -/

/-- The core of an access. -/
def State.accCore (s : State) (a : Access) : Nat := s.coreOf a.lane.group

/-- The agent of a lane's access. -/
def State.accAgent (s : State) (a : Access) : Agent :=
  { team := some a.lane.t, core := some (s.accCore a), asid := (s.launch a.lane.t).asid }

/-- Bytes a copy shows, or home's when there is none. -/
def State.viaSnap (s : State) (h : Holder) (a n : Nat) : Nat :=
  match s.snapOf h (a / 128) with
  | some c => c.read s.m.mem a n
  | none => s.load a n

/-- The bytes of an access at its home: where another physical address of the location has a line of its own, what this one
showed before or what memory holds (R375). -/
def State.homeLoad (s : State) (a : Access) : Nat :=
  if s.choose a.id / 4 % 2 = 0 then s.viaSnap (.atPa (a.pa / 128 * 128)) a.loc a.size else s.load a.loc a.size

/-- The constant-cache copy of a load's line (R166). -/
def State.constOf (s : State) (a : Access) : Holder := .ccache (s.accCore a) (s.launch a.lane.t).asid (a.pa / 128 * 128)

/-- The copy of a load's line in its core's L1, under the physical address by which the core knows the line (R375, R423). -/
def State.l1Of (s : State) (a : Access) : Holder := .l1 (s.accCore a) (s.cachePa a.dev a.pa / 128 * 128)

/-- The core holds a copy that serves a load without its home: the L1's, unless a tenure recalls the load (R180, R263, R287,
R423), or for LDC the constant cache's (R166). -/
def State.hits (s : State) (a : Access) (lf : Leaf) : Bool :=
  let core := s.accCore a
  let line := a.loc / 128
  !lf.df && !inHost a.pa &&
    match a.kind with
    | .ldc => (s.snapOf (s.constOf a) line).isSome
    | .load _ | .monitor =>
      match s.modeOf lf with
      | 0 => s.inL1 core a.pa && (!lf.ut || (s.snapOf (s.l1Of a) line).isSome) &&
          (s.recallers (s.accAgent a) a.pa false).isEmpty
      | 2 => s.inL1 core (s.cachePa a.dev a.pa) && (s.snapOf (s.l1Of a) line).isSome && !a.purges
      | _ => false
    | _ => false

/-- The value of a load that hits. -/
def State.hitValue (s : State) (a : Access) (lf : Leaf) : Nat :=
  if a.kind = .ldc then s.viaSnap (s.constOf a) a.loc a.size
  else if s.modeOf lf = 0 ∧ !lf.ut then s.homeLoad a
  else s.viaSnap (s.l1Of a) a.loc a.size

/-- A fill from a local page comes into the L1, unless an invalidation has made it void: then only a guest copy stays
(R261, R262). -/
def State.fillFor (s : State) (a : Access) (lf : Leaf) : State :=
  let core := s.accCore a
  if !a.void then s.fillL1 core lf a.pa a.loc a.nt
  else if lf.ut then s
  else s.guest (homeDie lf.il a.pa) (core / 192) a.pa a.loc a.nt

/-- The L2 slice of the core's die can serve a load of a cached-remote line (R423). -/
def State.guestServes (s : State) (a : Access) (lf : Leaf) : Bool :=
  decide (s.modeOf lf = 2) && !a.purges && (s.snapOf (.guest (s.accCore a / 192)) (a.loc / 128)).isSome && match a.kind with
    | .load _ | .monitor => true
    | _ => false

/-- A fill from a cached-remote page: the L2 slice of the core's die serves it, or the home and both take the line (R423). -/
def State.fillRemote (s : State) (a : Access) : Nat × State :=
  let core := s.accCore a
  let line := a.loc / 128
  let g := Holder.guest (core / 192)
  let nt := a.nt || a.void
  match s.snapOf g line with
  | some c =>
    if s.choose a.id / 2 % 2 = 0 ∨ !s.reachable a.dev then
      let t := s.fillAway core a.dev a.pa a.loc nt
      (c.read s.m.mem a.loc a.size,
        if nt then t
        else { t with m.snaps := t.m.snaps.map fun x => if x.holder = s.l1Of a ∧ x.line = line then { x with old := c.old } else x })
    else (s.load a.loc a.size, (s.guestAway core a.dev a.pa a.loc a.nt).fillAway core a.dev a.pa a.loc nt)
  | none => (s.load a.loc a.size, (s.guestAway core a.dev a.pa a.loc a.nt).fillAway core a.dev a.pa a.loc nt)

/-- The value that a load brings from its home, and the copies it leaves: none of deferred, direct and host pages (R165, R166,
R263, R376, R422, R423). -/
def State.missValue (s : State) (a : Access) (lf : Leaf) : Nat × State :=
  if lf.df ∨ inHost a.pa ∨ s.modeOf lf = 1 ∨ s.modeOf lf = 3 then (s.load a.loc a.size, s)
  else if a.kind = .ldc then
    (if s.modeOf lf = 0 then s.homeLoad a else s.load a.loc a.size, s.keepCopy (s.constOf a) (a.loc / 128))
  else match s.modeOf lf with
    | 0 => (s.homeLoad a, s.fillFor a lf)
    | 2 => s.fillRemote a
    | _ => (s.load a.loc a.size, s)

/-- The value a load finds and what it leaves: from a copy on its core, from its home, or from its window. -/
def State.readFor (s : State) (a : Access) (hit : Bool) : Nat × State :=
  match a.leaf with
  | none => (s.load a.loc a.size, s)
  | some lf => if hit then (s.hitValue a lf, s) else s.missValue a lf

/-- Write a value for an access at its home (R162, R253, R334, R375, R376, R423): a store at system scope and STNT reach the
MSC (R160, R320). -/
def State.writeFor (s : State) (a : Access) (v : Nat) : State :=
  let core := s.accCore a
  let line := a.loc / 128
  match a.leaf with
  | none => s.store a.loc v a.size
  | some lf =>
    if s.retiredAt lf a.pa then s
    else if inHost a.pa then s.store a.loc v a.size
    else
      match s.modeOf lf with
      | 0 =>
        let s := if a.kind = .store true ∨ a.scope = .system then s.writeBack line else s.addSnap .msc line
        s.storeAt a.loc v a.size fun h => decide (h = .l1 core (a.pa / 128 * 128) ∨ h = .atPa (a.pa / 128 * 128))
      | 2 =>
        s.storeAt a.loc v a.size fun h => match h with | .l1 _ _ => true | .guest _ => true | _ => false
      | _ => s.store a.loc v a.size

/-- Poison met by a read (R177, R391); a host read that ends in an error brings it, which the event's flag tells (R376). -/
def State.poisonFor (s : State) (a : Access) : Bool :=
  s.poisoned a.loc a.size || match a.leaf with
    | some lf => s.retiredAt lf a.pa || (inHost a.pa && s.u.ev.flag)
    | none => false

/-- What an acquire or an SC access at pod or system scope does to copies of other modules' lines (R324, R333). -/
def State.acquireCopies (s : State) (a : Access) : State :=
  if (a.acquires ∨ a.order = .sc) ∧ (a.scope = .pod ∨ a.scope = .system) then s.dropAway else s

/-- Accesses that one operation serves, all of them at the same point of their way: the lanes of a slice whose LDC names one line
(R166), the lanes of a unit whose CACHE does (R265). -/
def State.mates (s : State) (a : Access) : List Access :=
  match a.kind with
  | .ldc => s.k.acc.filter fun b =>
      decide (b.seq = a.seq ∧ b.lane.slice = a.lane.slice ∧ b.kind = .ldc ∧ b.phase = a.phase) && b.sameLine a
  | .cache _ => s.k.acc.filter fun b =>
      decide (b.seq = a.seq ∧ b.lane.group = a.lane.group ∧ b.kind = a.kind ∧ b.phase = .issued) && b.sameLine a
  | _ => [a]

/-- Change an access and those that are served with it. -/
def State.modMates (s : State) (a : Access) (f : Access → Access) : State :=
  (s.mates a).foldl (fun (t : State) b => t.modAcc b.id f) s

/-- One load is performed: its value is fixed, and a MONITOR's watch counts from here (R172, R320). -/
def State.fixLoad (s : State) (a : Access) (hit : Bool) : State :=
  let s := if a.purges then s.dropAway else s
  let r := s.readFor a hit
  let bad := s.poisonFor a
  let t := if bad then r.2.poisonEvent a.leaf a.pa (s.accCore a / 192) else r.2
  let t := t.modAcc a.id fun b => { b with phase := .performed, value := r.1, poisoned := bad }
  if a.kind = .monitor ∧ !bad then t.armRead a.lane.slice a.loc a.id else t

/-- Perform a load, and with it the LDC lanes that its access serves: they find what it found or left in the constant cache
(R166). -/
def State.performLoad (s : State) (a : Access) (hit : Bool) : State :=
  ((s.mates a).filter fun b => decide (b.id ≠ a.id)).foldl (fun (t : State) b => t.fixLoad b true) (s.fixLoad a hit)

/-- A load performed in front of an acquire of narrow scope that is not complete yet (R319). -/
def State.runsAhead (s : State) (b : Access) : Bool := b.spec && decide (b.phase = .performed) && !s.mayPerform b

/-- A write by a lane, by a command of a team or by the copy engine of a core's cluster undoes the loads that other lanes of the
team or the cluster performed in front of an acquire of narrow scope: they are performed again (R319, R325, R330). -/
def State.squashBy (s : State) (self : Option LaneId) (team core : Nat) : State :=
  { s with k.acc := s.k.acc.map fun b =>
      if some b.lane ≠ self ∧ (b.lane.t = team ∨ s.coreOf b.lane.group / 8 = core / 8) ∧ s.runsAhead b then
        { b with phase := .issued, spec := false, sent := none }
      else b }

/-- A write of a lane undoes such loads of the others. -/
def State.squash (s : State) (l : LaneId) : State := s.squashBy (some l) l.t (s.coreOf l.group)

/-- A release of a lane at system scope leaves no dirty line of the module behind (R334). -/
def State.releaseSystem (s : State) (a : Access) : State :=
  if a.scope = .system ∧ (a.order = .release ∨ a.order = .acqRel ∨ a.order = .sc) then
    s.dropSnaps fun c => decide (c.holder = .msc)
  else s

/-- Perform an atomic: read and write together, the release in front of them; poisoned memory stays as it is (R168, R177,
R323, R334). -/
def State.performAtom (s : State) (a : Access) (op : AtomOp) : State :=
  let s := (s.releaseSystem a).squash a.lane
  let old := match a.leaf with | some lf => if s.modeOf lf = 0 ∧ !inHost a.pa then s.homeLoad a else s.load a.loc a.size
                               | none => s.load a.loc a.size
  let bad := s.poisonFor a
  let s := if bad then s.poisonEvent a.leaf a.pa (s.accCore a / 192)
    else s.writeFor a (atomResult op (8 * a.size) old a.data a.data2)
  s.modAcc a.id fun b => { b with phase := .performed, value := old, poisoned := bad }

/-! ### APPEND (R316, R317) -/

/-- Location of another address of a record's page. -/
def State.recLoc (s : State) (r : Rec) (pa : Nat) : Nat := locPa r.dev s.p.hostBase r.il pa

/-- The records of a core outside this module owe no notice here. -/
def State.notify (s : State) (r : Rec) (bad : Bool) : State :=
  { s with e.notices := s.e.notices ++ r.owners.map fun o => { lane := o.1, bad := bad } }

/-- The page of a record as a leaf: its scheme, key and size (R298). -/
def Rec.leaf (r : Rec) : Leaf := { peer := r.dev, mode := 1, il := r.il, key := r.key, size := r.psize }

/-- An access of an APPEND to the line of a word: under the page's key, through the MSC of this module's stacks (R377, R378,
R381). -/
def State.appendTouch (s : State) (r : Rec) (pa : Nat) (write : Bool) : State :=
  let t := s.rekey (s.recLoc r pa) pa r.key
  if r.dev = s.f.dev ∧ !inHost pa then t.mscTouch (s.recLoc r pa) pa r.key none write else t

/-- A word of an APPEND is stored; a poisoned word stays poisoned (R308, R317). -/
def State.appendWord (s : State) (r : Rec) (pa v : Nat) : State :=
  let loc := s.recLoc r pa
  let t := s.appendTouch r pa true
  if t.poisoned loc 4 then t else t.homeWrite r.leaf pa loc v 4 true

/-- Apply an APPEND as one step on its queue descriptor (R317); it counts every refusal in word 7, wherever a misaligned
descriptor has it (log entry 74). -/
def State.applyAppend (s : State) (r : Rec) : State :=
  let s := (s.appendTouch r r.pa false).appendTouch r (r.pa + 28) false
  let w := fun i => s.load (s.recLoc r (r.pa + 4 * i)) 4
  let top := r.pa / r.psize * r.psize + r.psize
  let region := fun off cap => decide (off % 4 = 0 ∧ (cap = 0 ∨ (32 ≤ off ∧ r.pa + off + 4 * cap ≤ top)))
  let ok := decide (r.pa % 64 = 0 ∧ 1 ≤ w 1 ∧ w 1 ≤ 2 ^ 24 ∧ w 3 ≤ 2 ^ 24) && region (w 0) (w 1) &&
    region (w 2) (w 3)
  let refuse := fun bad => (s.appendWord r (r.pa + 28) (min (w 7 + 1) (2 ^ 32 - 1))).notify r bad
  if !ok then refuse true
  else if (w 4 + 2 ^ 32 - w 5) % 2 ^ 32 < w 1 then
    (s.appendWord r (r.pa + w 0 + 4 * (w 4 % w 1)) r.val).appendWord r (r.pa + 16) (w 4 + 1)
  else if w 6 < w 3 then
    (s.appendWord r (r.pa + w 2 + 4 * w 6) r.val).appendWord r (r.pa + 24) (w 6 + 1)
  else refuse false

/-- A lane's resident-lane slot in its core (R316, R341). -/
def State.laneSlot (s : State) (l : LaneId) : Nat :=
  (4 * (s.team l.t).slots.getD (s.teamLane l / 4) (s.teamLane l / 4) + l.l % 4) % 2048

/-- The records of an access on a deferred page (R170, R298, R300): 16-byte stores become two, the lower
address first; an APPEND carries the lane's slot (R316). -/
def State.recsOf (s : State) (a : Access) (lf : Leaf) : List Rec :=
  let r : Rec :=
    { owners := [(a.lane, a.seq)], src := s.accCore a, dev := s.devOf lf, pa := a.pa
      op := match a.kind with | .dst op _ => op | _ => 0
      wid := match a.kind with | .dst _ wid => wid | _ => if a.size = 4 then 0 else 1
      val := match a.kind with
        | .dst 7 _ => a.data % 2 ^ 32 + s.laneSlot a.lane * 2 ^ 32
        | _ => a.data % 2 ^ 64
      il := lf.il, key := lf.key, psize := lf.size }
  if a.size = 16 then [r, { r with pa := a.pa + 8, val := a.data / 2 ^ 64 }] else [r]

/-- Perform a direct DST on a page that is not deferred (R302); a poisoned word stays poisoned (R308). -/
def State.performDst (s : State) (a : Access) (op wid : Nat) : State :=
  if s.poisonFor a then s
  else if op = 7 then
    match a.leaf with
    | some lf => (s.recsOf a lf).foldl (fun t r => t.applyAppend r) s
    | none => s
  else s.writeFor a (recWord op wid (s.load a.loc a.size) a.data)

/-- Sixteen bytes of a spill area read zero from now on, also to a core that holds a copy of their line (R89). -/
def State.zeroPiece (s : State) (lf : Leaf) (va : Nat) : State :=
  (s.homeWrite lf (lf.pa va) (s.locOf lf (lf.pa va)) 0 16 false).dropL1 fun x =>
    decide (x.line = s.locOf lf (lf.pa va) / 128)

/-- Pieces of a team's spill area that could not be cleared at its start read zero all the same: they are cleared before the
first window access to their line (R89). -/
def State.zeroLate (s : State) (a : Access) (lf : Leaf) : State :=
  let mine := fun (u : Nat) => decide (u / 128 = a.gaddr / 128)
  if !a.priv || !(s.team a.lane.t).unzeroed.any mine then s
  else
    (((s.team a.lane.t).unzeroed.filter mine).foldl (fun (t : State) va => t.zeroPiece lf va) s).modTeam a.lane.t fun x =>
      { x with unzeroed := x.unzeroed.filter fun u => !mine u }

/-- What every service at a home of this module does first: key, MSC tag, and the L2 line, which STNT does not allocate (R162,
R257, R264, R378, R381). -/
def State.serveCommon (s : State) (a : Access) (lf : Leaf) : State :=
  if inHost a.pa then s.zeroLate a lf
  else
    let s := (s.rekey a.loc a.pa lf.key).zeroLate a lf
    if s.modeOf lf ≠ 0 then s
    else
      let s := s.mscTouch a.loc a.pa lf.key (s.chainOf a.lane) a.writes
      let asid := (s.launch a.lane.t).asid
      if lf.df then s
      else if a.kind = .store true then s.l2Bypass (homeDie lf.il a.pa) a.pa (!lf.ut) (s.accCore a) asid
      else s.l2Touch (homeDie lf.il a.pa) a.pa a.loc (!lf.ut) a.nt (s.accCore a) asid

/-- The invalidations of an access are all acknowledged (R259). -/
def State.acked (s : State) (a : Access) : Bool := s.k.invs.all fun i => decide (i.access ≠ a.id)

/-- Serve an access at its home (R259, R261, R422, R423): a release at system scope first carries its covered stores to the MSC
(R334). -/
def State.serve (s : State) (a : Access) (lf : Leaf) : State :=
  let s := s.serveCommon a lf
  let mode := s.modeOf lf
  let s := if a.writes ∧ mode = 0 ∧ !lf.ut ∧ !inHost a.pa then
    s.conflicts a.id (some (s.accCore a)) (homeDie lf.il a.pa) a.pa else s
  match a.kind with
  | .atom op =>
    let s := if mode = 2 then s.dropAwayLine (a.loc / 128) else s
    if s.acked a then s.performAtom a op else s.modAcc a.id fun b => { b with phase := .atHome }
  | .store _ =>
    if mode = 0 then s.modAcc a.id fun b => { b with phase := .atHome }
    else (((s.releaseSystem a).squash a.lane).writeFor a a.data).modAcc a.id fun b => { b with phase := .remote }
  | .dst op wid =>
    if mode = 0 then s.modAcc a.id fun b => { b with phase := .atHome }
    else ((s.squash a.lane).performDst a op wid).modAcc a.id fun b => { b with phase := .remote }
  | _ => s.performLoad a false

/-- CACHE does nothing on a page whose lines the module does not keep: a deferred one, one in a direct mode, and the host
window (R265, R376, R422). -/
def State.cacheless (s : State) (lf : Leaf) (pa : Nat) : Bool :=
  lf.df || decide (s.modeOf lf = 1 ∨ s.modeOf lf = 3) || inHost pa

/-- The line is clean at its home slice, and gone from there, from every guest and from every L1 that shares it (R261, R265). -/
def State.flushLine (s : State) (lf : Leaf) (pa line : Nat) : State :=
  let s := (s.writeBack line).purgeLine pa
  match s.l2Line (homeDie lf.il pa) pa with
  | some x => s.evictL2 x
  | none => s

/-- The effect of a CACHE operation on a line (R265); on a cached-remote page it acts on the copies that this module holds. -/
def State.cacheLine (s : State) (a : Access) (lf : Leaf) (op : Nat) : State :=
  let line := a.loc / 128
  let core := s.accCore a
  let away := decide (s.modeOf lf ≠ 0)
  match op with
  | 0 => s.dropSnaps fun c => decide (c.line = line) && match c.holder with
      | .icache _ _ pa => decide (pa = a.pa / 128 * 128)
      | _ => false
  | 1 => (s.dropData fun x => decide (x.core = core ∧ x.pa = s.cachePa a.dev a.pa / 128 * 128)).dropSnaps fun c =>
      decide (c.holder = s.l1Of a ∧ c.line = line)
  | 2 => if away then s else s.writeBack line
  | _ => if away then s.dropAwayLine line else s.flushLine lf a.pa line

/-- A CACHE operation on its line, done for every lane that names the line (R265). -/
def State.serveCache (s : State) (a : Access) (lf : Leaf) (op : Nat) : State :=
  (s.mates a).foldl (fun (t : State) b => t.finish b) (if s.cacheless lf a.pa then s else s.cacheLine a lf op)

/-- Accesses that a recall holds at one home slice (R287): the lanes that one access serves take one place, and so does a request
of another module. -/
def State.holding (s : State) (die slice : Nat) : Nat :=
  (s.k.acc.filter fun a => decide (a.phase = .recalled) && ((s.mates a).all fun b => decide (a.id ≤ b.id)) && match a.leaf with
    | some lf => decide (homeDie lf.il a.pa = die ∧ homeSlice a.pa = slice)
    | none => false).length +
    (s.f.peerHeld.filter fun q => decide (homeDie q.req.il q.pa = die ∧ homeSlice q.pa = slice)).length

/-- The breaches of an access count as it reaches its home slice, whether or not a recall then holds it (R287, R288, R454). -/
def State.meetTenure (s : State) (a : Access) (lf : Leaf) : State :=
  if s.modeOf lf ≠ 0 then s else s.breach (s.accAgent a) a.pa a.writes

/-- An access reaches its home slice (R259, R287): unreachable peers fail it, a recall holds it for the writes of the holders
it meets there or answers with a retry, otherwise it is served. -/
def State.reachHome (s : State) (a : Access) (lf : Leaf) : State :=
  match a.kind with
  | .cache op => s.serveCache a lf op
  | _ =>
    if !s.reachable (s.devOf lf) && !s.guestServes a lf then
      s.modMates a fun b => { b with phase := .performed, failed := 1 }
    else
      let hs := if s.modeOf lf = 0 then s.recallers (s.accAgent a) a.pa a.writes else []
      let t := s.meetTenure a lf
      if hs.isEmpty then (t.serve a lf).modMates a fun b => { b with sent := b.sent <|> some s.u.clk }
      else if s.holding (homeDie lf.il a.pa) (homeSlice a.pa) < 64 then
        t.modMates a fun b => { b with phase := .recalled, time := s.u.seqNo, holders := hs.map (·.holder) }
      else t.modMates a fun b => { b with phase := .retry (s.u.clk + 256) }

/-! ### Recalls (R287) -/

/-- The number of an engine's command: commands are numbered in the order of their issue. -/
def Holding.number : Holding → Nat
  | .team _ => 0
  | .copy id => id
  | .reshard id => id

/-- The writes of a holder to a line that an access waits for are performed (R287): a team's stores and atomics numbered below
`seq` and the writes of re-shard commands under its tenure (R439, R440), or the writes of an engine's command that cover the
line. An engine's own write waits for those writes of a team that can be performed, and for an older engine, so that no two wait
for each other (R419; log entry 67). -/
def State.holderClear (s : State) (ag : Agent) (h : Holding) (pa loc seq : Nat) : Bool :=
  let waits := match ag.engine with
    | none => true
    | some e => decide (h.number < e.number)
  match h with
  | .team t => (s.k.acc.all fun b =>
      !(decide (b.lane.t = t ∧ b.seq < seq ∧ b.phase ≠ .performed ∧ b.loc / 128 = loc / 128) && b.writes &&
        (ag.engine.isNone || (s.mayPerform b && match b.phase with | .issued | .atHome => true | _ => false)))) &&
      s.e.rsh.all fun r => r.own || decide (r.team ≠ t) || (match ag.engine with
        | some e => decide (e.number ≤ r.id)
        | none => false) || !s.rshOwes r pa
  | .copy id => !waits || s.e.copies.all fun c => decide (c.id ≠ id) || !s.copyOwes c pa
  | .reshard id => !waits || s.e.rsh.all fun r => decide (r.id ≠ id) || !s.rshOwes r pa

/-- No recall holds back what an agent does now to a line (R287). -/
def State.recallClear (s : State) (ag : Agent) (lf : Leaf) (va : Nat) (write : Bool) : Bool :=
  decide (s.modeOf lf ≠ 0) ||
    (s.recallers ag (lf.pa va) write).all fun h => s.holderClear ag h.holder (lf.pa va) (s.locOf lf (lf.pa va)) s.u.seqNo

/-- An access outside the lanes' own reaches a line that a recall keeps from it: its breaches count, and the line is called for
for re-shard steps that are still to write to it (R287, R288, R440). -/
def State.callLine (s : State) (ag : Agent) (lf : Leaf) (va : Nat) (write : Bool) : State :=
  if s.recallClear ag lf va write then s
  else
    let t := s.breach ag (lf.pa va) write
    let line := lf.pa va / 128 * 128
    if line ∉ s.e.calls ∧ s.e.rsh.any (fun r => s.rshOwes r line) then { t with e.calls := s.e.calls ++ [line] } else t

/-- The writes that a held access waits for are performed (R287). -/
def State.recallDone (s : State) (a : Access) : Bool :=
  a.holders.all fun h => s.holderClear (s.accAgent a) h a.pa a.loc a.time

/-- RECALL_RETRY (R287): the access is sent again 256 clk after the retry response. -/
def execRecallRetry (s : State) : Host.Outcome State Fault Refusal :=
  match s.acc? s.u.ev.id with
  | none => .next s
  | some a =>
    match a.phase with
    | .retry u => if u ≤ s.u.clk then .next (s.modMates a fun b => { b with phase := .issued }) else .next s
    | _ => .next s

/-! ### Stores -/

/-- Perform a store at its home: a release at system scope first carries its covered stores to the MSC (R334), and an SC store
at pod or system scope leaves no copy of another module's line (R333). -/
def State.performStore (s : State) (a : Access) : State :=
  let s := ((s.releaseSystem a).squash a.lane).acquireCopies a
  match a.kind with
  | .dst op wid => s.performDst a op wid
  | _ => s.writeFor a a.data

/-- STORE_PERFORMED (R160): a store is performed at its home, in its window or in host memory, or its records
are in the log; a failed remote store ends with FABRIC (R428). -/
def execStorePerformed (s : State) : Host.Outcome State Fault Refusal :=
  match s.acc? s.u.ev.id with
  | none => .next s
  | some a =>
    if a.isLoad then .next s
    else
      match a.leaf, a.phase with
      | _, .performed =>
        if a.failed ≠ 0 then .next ((s.finish a).lateFault a.sid a.lane a.fabricFault) else .next (s.finish a)
      | none, .issued => if s.mayPerform a then .next ((s.performStore a).finish a) else .next s
      | some lf, .issued =>
        if a.append && s.mayAppend a then
          let t := s.finish a
          .next { t with e.log := t.e.log ++ s.recsOf a lf }
        else .next s
      | some _, .atHome =>
        match a.kind with
        | .store _ => if s.acked a then .next ((s.performStore a).finish a) else .next s
        | .dst _ _ => if s.acked a then .next ((s.performStore a).finish a) else .next s
        | _ => .next s
      | _, _ => .next s

/-- REMOTE_STORE_ACK (R421): the home's acknowledgement performs a remote store. -/
def execRemoteStoreAck (s : State) : Host.Outcome State Fault Refusal :=
  match s.acc? s.u.ev.id with
  | none => .next s
  | some a => if a.phase = .remote then .next ((s.acquireCopies a).finish a) else .next s

/-! ### Fetches (R243, R290, R331) -/

/-- The leaves and addresses of the lines that a run reads. -/
def State.runLines (s : State) (a : Access) (f : FetchOp) : List (Leaf × Nat) :=
  let core := s.accCore a
  let asid := (s.launch a.lane.t).asid
  (linesOf (f.touched (s.viewByte core asid a.id) (Config.freeWord a.id))).filterMap fun va =>
    match s.seek core asid va a.id false with
    | .inl lf => some (lf, va)
    | .inr _ => none

/-- A run may be read: the lane's earlier acquires are complete, its earlier stores to the run's lines performed,
those that a narrow fence let pass too, and so are the writes of the tenures that recall it (R287, R321, R331). -/
def State.mayFetch (s : State) (a : Access) (f : FetchOp) : Bool :=
  s.mayPerform a &&
    (s.runLines a f).all fun (x : Leaf × Nat) =>
      let loc := s.locOf x.1 (x.1.pa x.2)
      s.recallClear (s.accAgent a) x.1 x.2 false &&
        s.k.acc.all fun (b : Access) =>
          !((b.writes && decide (b.phase ≠ .performed ∧ b.loc / 128 = loc / 128 ∧ b.lane = a.lane) && b.before a) ||
            s.blocksNear b { a with loc := loc / 128 * 128, size := 128 })

/-- The fetch-unit cache of a core takes a line of a local page (R289); 64 KiB, the oldest line leaves (log entry 8). A deferred
page is in no directory (R295). -/
def State.fillFc (s : State) (core : Nat) (lf : Leaf) (va : Nat) : State :=
  let pa := lf.pa va
  let line := s.locOf lf pa / 128
  if s.modeOf lf ≠ 0 ∨ lf.df ∨ inHost pa ∨ s.k.fc.any (fun x => decide (x.core = core ∧ x.pa = pa / 128 * 128)) then s
  else
    let mine := s.k.fc.filter fun x => decide (x.core = core)
    let keep := match mine with
      | x :: _ => if mine.length < 512 then s.k.fc else s.k.fc.filter fun y => decide (y ≠ x)
      | [] => s.k.fc
    let s : State := { s with k.fc := keep ++ [{ core := core, line := line, pa := pa / 128 * 128, va := va / 128 * 128 }] }
    if lf.ut then s else s.share core pa

/-- Hold one access at a translation fault met after its issue; its unit's record is queued unless one stands already
(R176). -/
def State.holdAccess (s : State) (a : Access) (va code : Nat) : State :=
  let t := s.modAcc a.id fun b => { b with phase := .held code, gaddr := va }
  if t.heldRecord a.sid a.seq then t else t.postHeld a.sid a.seq

/-- A byte of a run that cannot be read without poison: poisoned memory, a retired channel, or a host read that ends in an
error (R177, R376, R391). -/
def State.runPoison (s : State) (lf : Leaf) (va : Nat) : Bool :=
  s.poisoned (s.locOf lf (lf.pa va)) 1 || s.retiredAt lf (lf.pa va) || (inHost (lf.pa va) && s.u.ev.flag)

/-- The other module that a run is read from; this module's own number where there is none (R428). -/
def State.awayDev (s : State) (a : Access) (f : FetchOp) : Nat :=
  (((s.runLines a f).map fun x => s.devOf x.1).find? fun d => decide (d ≠ s.f.dev)).getD s.f.dev

/-- A run is read (R290 to R292): its lines are touched under their keys, then its value is fixed. -/
def State.readFetch (s : State) (a : Access) (f : FetchOp) : State :=
  let core := s.accCore a
  let asid := (s.launch a.lane.t).asid
  let free := Config.freeWord a.id
  let ls := s.runLines a f
  let t := ls.foldl (fun t x =>
    (t.engineTouch (s.accAgent a) core (s.chainOf a.lane) x.1 x.2 false).fillFc core x.1 x.2) s
  let g := t.viewByte core asid a.id
  let bad := ls.find? fun x => (f.touched g free).any fun va => decide (va / 128 = x.2 / 128) && t.runPoison x.1 va
  let t := match bad with | some x => t.poisonEvent (some x.1) (x.1.pa x.2) (core / 192) | none => t
  let lost := ls.find? fun x => !s.reachable (s.devOf x.1)
  let t := (List.range (f.badWords g free)).foldl
    (fun (t : State) _ => t.setCoreReg core 0x81 (bumpSat (t.coreReg core 0x81))) t
  let t : State := { t with e.fetches := t.e.fetches.filter fun x => decide (x.acc ≠ a.id) }
  t.modAcc a.id fun b => { b with
    phase := .performed, value := f.run g free, poisoned := bad.isSome, sent := b.sent <|> some s.u.clk
    dev := (lost.map fun x => s.devOf x.1).getD (s.awayDev a f), failed := if lost.isSome then 1 else 0 }

/-- A run whose turn it is: read, or held at a translation fault (R176). -/
def State.performFetch (s : State) (a : Access) : State :=
  match s.e.fetches.find? fun f => decide (f.acc = a.id) with
  | none => s
  | some f =>
    if !s.mayFetch a f then
      (if s.mayPerform a then (s.runLines a f).foldl (fun (t : State) x => t.callLine (s.accAgent a) x.1 x.2 false) s else s)
    else match s.runFault (s.accCore a) (s.launch a.lane.t).asid f a.id with
      | some b => s.holdAccess a b.1 b.2
      | none => s.readFetch a f

/-! ### Homes and replies -/

/-- What the fabric carries (R417): loads and atomics of lanes to pages of other modules, cached-remote fills and pod job
messages; stores, deferred bins, copy-engine transfers and re-shard reads; migration copies and migration control. -/
inductive Traffic where
  | load | store | migration | atomic | fill | podMsg | bin | copy | reshardRead | migControl
  deriving DecidableEq, Repr

/-- The tier of some traffic; its response has the same (R417). -/
def Traffic.tier : Traffic → Nat
  | .load | .atomic | .fill | .podMsg => 0
  | .store | .bin | .copy | .reshardRead => 1
  | .migration | .migControl => 2

/-- Traffic by number (log entry 68). -/
def Traffic.ofNum (n : Nat) : Traffic :=
  ([.load, .store, .migration, .atomic, .fill, .podMsg, .bin, .copy, .reshardRead, .migControl] : List Traffic).getD n .load

/-- The virtual channel of some traffic: each tier has one for requests and one for responses (R417). -/
def Traffic.channel (t : Traffic) (response : Bool) : Nat × Bool := (t.tier, response)

/-- The traffic of a lane's access that leaves its module (R417, R421 to R424). -/
def AccKind.traffic : AccKind → Traffic
  | .load _ | .ldc | .cache _ | .monitor | .mscale | .fetch => .load
  | .atom _ => .atomic
  | .store _ | .dst _ _ => .store

/-- The link on which the requests of a path leave has dropped a flit: what its port has sent since stands in the retry buffer, in
order, until the flit is replayed (R415). -/
def State.replaying (s : State) (core dev : Nat) : Bool :=
  decide (dev ≠ s.f.dev) && match s.pathPort core dev with
    | some n => decide (s.f.replays.look n 0 ≠ 0)
    | none => false

/-- A request of the same path and virtual channel has been sent before this one and has still to arrive, or the link replays
(R415, R416): an access is sent as soon as it may be performed. -/
def State.pathAhead (s : State) (a : Access) : Bool :=
  s.replaying (s.accCore a) a.dev || decide (a.dev ≠ s.f.dev) && s.k.acc.any fun b =>
    decide (b.phase = .issued ∧ b.dev = a.dev ∧ s.accCore b = s.accCore a ∧ b.kind.traffic.tier = a.kind.traffic.tier) &&
      b.before a && !b.append && s.mayPerform b && match b.leaf with
        | some lf => !s.hits b lf
        | none => false

/-- A request of another module's line has left this module: it may be performed, and its module keeps nothing that serves it. Its
delivery limit runs from then (R416, R428). -/
def State.leaves (s : State) (a : Access) : Option Nat :=
  if a.phase ≠ .issued ∨ a.sent.isSome ∨ a.append then none
  else match a.leaf, a.kind with
    | _, .cache _ => none
    | some lf, _ => if a.dev ≠ s.f.dev ∧ s.mayPerform a ∧ !s.hits a lf then some a.dev else none
    | none, .fetch =>
      match s.e.fetches.find? fun f => decide (f.acc = a.id) with
      | some f => if s.awayDev a f ≠ s.f.dev ∧ s.mayFetch a f then some (s.awayDev a f) else none
      | none => none
    | none, _ => none

/-- The clk at which requests leave the module is noted. -/
def State.noteSent (s : State) : State :=
  if s.f.planes = [] then s
  else
    { s with k.acc := s.k.acc.map fun a =>
        match s.leaves a with
        | some d => { a with sent := some s.u.clk, dev := d }
        | none => a }

/-- What reaches its home now: a CACHE operation with every lane that shares it, an LDC likewise unless the constant cache serves
it (R166), any other access that may be performed, and with `early` a relaxed load in front of an acquire of narrow scope
(R265, R319). -/
def State.mayReach (s : State) (a : Access) (early : Bool) : Bool :=
  match a.kind with
  | .cache _ => (s.mates a).all fun b => s.mayPerform b
  | .ldc => ((s.mates a).all fun b => s.mayPerform b) && !s.pathAhead a && match a.leaf with
    | some lf => !s.hits a lf
    | none => true
  | _ => s.mayPerform a (early && a.mayPass) && !s.pathAhead a

/-- HOME_ACCESS (R259): an access on its way reaches its home, or one that waits there for acknowledgements is
performed; a run of the fetch unit is read. With `n` not 0 a load goes in front of an acquire of narrow scope (R319). -/
def execHomeAccess (s : State) : Host.Outcome State Fault Refusal :=
  match s.acc? s.u.ev.id with
  | none => .next s
  | some a =>
    match a.leaf, a.phase with
    | none, .issued => if a.kind = .fetch then .next (s.performFetch a) else .next s
    | some lf, .issued =>
      if a.append || !s.mayReach a (decide (s.u.ev.n ≠ 0)) then .next s
      else if s.mayReach a false then .next (s.reachHome a lf)
      else .next ((s.modAcc a.id fun b => { b with spec := true }).reachHome { a with spec := true } lf)
    | some _, .atHome =>
      if !s.acked a then .next s
      else
        match a.kind with
        | .atom op => .next (s.performAtom a op)
        | _ => .next s
    | _, _ => .next s

/-- A load or atomic of a window is performed where the window lies; a load that hits takes its core's copy, of a spill area that
could not be cleared the zeros that it reads (R89). -/
def State.performNear (s : State) (a : Access) : State :=
  match a.kind with
  | .atom op => s.performAtom a op
  | .fetch => s.performFetch a
  | _ =>
    match a.leaf with
    | some lf => (s.zeroLate a lf).performLoad a true
    | none => s.performLoad a true

/-- A load is performed without going to its home: in a window, from a copy of the core, or by the fetch unit. -/
def State.near (s : State) (a : Access) : Bool :=
  match a.leaf with
  | none => decide (a.kind = .fetch) || s.mayPerform a
  | some lf => s.hits a lf && (s.mates a).all fun b => s.mayPerform b

/-- REPLY_LAND (R159, R177): the reply of a performed access lands; a window access or one that hits is performed as
it lands. -/
def execReplyLand (s : State) : Host.Outcome State Fault Refusal :=
  match s.acc? s.u.ev.id with
  | none => .next s
  | some a =>
    if !a.isLoad then .next s
    else
      match a.phase with
      | .performed => if a.spec && !s.mayPerform a then .next s else .next ((s.acquireCopies a).land a)
      | .issued =>
        if s.near a then
          let t := s.performNear a
          match t.acc? a.id with
          | some b => if b.phase = .performed then .next ((t.acquireCopies b).land b) else .next t
          | none => .next t
        else .next s
      | _ => .next s

/-- A run of the fetch unit is given up. -/
def State.dropRun (s : State) (a : Access) : State :=
  { s with e.fetches := s.e.fetches.filter fun x => decide (x.acc ≠ a.id) }

/-- DELIVERY_TIMEOUT (R428): the response of a remote request has not arrived within 2^24 clk of its sending, and the request
fails; the event names the access, a lane's or a run of the fetch unit. -/
def execDeliveryTimeout (s : State) : Host.Outcome State Fault Refusal :=
  match s.acc? s.u.ev.id with
  | none => .next s
  | some a =>
    match a.sent with
    | none => .next s
    | some c =>
      if a.dev = s.f.dev ∨ a.isHeld ∨ a.failed ≠ 0 ∨ s.u.clk < c + 2 ^ 24 then .next s
      else .next ((if a.kind = .fetch then s.dropRun a else s).modAcc a.id fun b => { b with phase := .performed, failed := 2 })

end Sys2Proof.Machine
end

