-- ==== Sys2Proof/Machine/Tile.lean ====
section
/-! DEFINITION. Major 0x1B TILE (R273 to R286): minting, freeing, splitting and merging handles, tenure with its
one arrival order, grant and drain; and the events TENURE_GRANT and TENURE_TIMEOUT. -/

namespace Sys2Proof.Machine

/-! ### Validity of a record (R269) -/

/-- Span of dimension d, dimension 0 counted in bytes (R269). -/
def Layout.span (r : Layout) : Nat → Nat
  | 0 => r.rowBytes
  | d + 1 => r.e (d + 1) * r.s (d + 1)

/-- Extents and strides above the rank are 0 (R269). -/
def Layout.aboveRank (r : Layout) : Bool :=
  ([1, 2, 3] : List Nat).all fun d => decide (d < r.rank) || decide (r.e d = 1 ∧ r.s d = 0)

/-- The requirements on a swizzled record (R268). -/
def Layout.swizzleOk (r : Layout) : Bool :=
  let sp := swzSpan r.swz
  decide (r.swz ≤ 3) &&
    (decide (r.swz = 0) ||
      (decide (8 ≤ r.eb ∧ r.eb % 8 = 0 ∧ r.base % sp = 0 ∧ r.s 1 % sp = 0 ∧ r.rowBytes % sp = 0)))

/-- No two elements share a byte: each stride is at least the span below it (R269). -/
def Layout.disjoint (r : Layout) : Bool :=
  ([1, 2, 3] : List Nat).all fun d => decide (r.rank ≤ d) || decide (r.e d = 1) || decide (r.span (d - 1) ≤ r.s d)

/-- The record is valid for minting (R269). -/
def Layout.valid (r : Layout) : Bool :=
  decide (r.eb ≠ 0 ∧ r.extra = 0 ∧ r.rank ≤ 4) && r.swizzleOk && r.aboveRank && r.disjoint &&
    (decide (r.eb % 8 ≠ 0) || fmtDx r.fmt || decide (r.base % (r.eb / 8) = 0)) &&
    (!fmtDx r.fmt || decide (r.e 0 % 32 = 0)) && decide (r.top ≤ 2 ^ 56)

/-- The 64 KiB steps that a footprint lies in, in the order of its rows. -/
def Layout.steps (r : Layout) : List Nat :=
  (r.rows.flatMap fun a =>
    (List.range ((a + r.rowBytes - 1) / 65536 - a / 65536 + 1)).map fun i => (a / 65536 + i) * 65536).eraseDups

/-- The leaves of the pages a footprint lies in; none when one does not translate (R275). -/
def State.pagesOf (s : State) (core asid : Nat) (r : Layout) : Option (List Leaf) :=
  let got := r.steps.map fun va => s.translate core asid va 0
  if got.all (·.isSome) then some (got.filterMap id).eraseDups else none

/-! ### Status (R274) -/

/-- A tile status word. -/
def tileStatus (code : Nat) (state : Nat := 0) (brch : Bool := false) (lines wait : Nat := 0) (mine : Bool := false)
    (child : Bool := false) : Word :=
  BitVec.ofNat 32 ((if brch then 2 ^ 31 else 0) + state % 8 * 2 ^ 28 + min lines 4095 * 2 ^ 16 +
    min wait 255 * 2 ^ 8 + (if mine then 2 ^ 7 else 0) + (if child then 2 ^ 6 else 0) + code % 32)

/-- The directory entry of a tile. -/
def Tile.key (t : Tile) : Nat × Nat := (t.die, t.entry)

/-- The tenures on a tile. -/
def State.holders (s : State) (t : Tile) : List Tenure := s.e.tens.filter fun h => decide (h.tile = some t.key)

/-- The team's tenure on a tile. -/
def State.mine (s : State) (t : Tile) (team : Nat) : Option Tenure :=
  (s.holders t).find? fun h => decide (h.holder = .team team)

/-- Requests waiting on a tile; a request withdrawn by its time-out waits no longer. -/
def State.waitingOn (s : State) (t : Tile) : Nat :=
  (s.e.reqs.filter fun q => decide (q.tile = some t.key) && !q.brch).length

/-- STATE of a tile: 0 FREE, 1 READ, 2 WRITE, 3 SPLIT (R274). -/
def State.tileState (s : State) (t : Tile) : Nat :=
  if t.isSplit then 3
  else match s.holders t with
    | [] => 0
    | hs => if hs.any (·.write) then 2 else 1

/-! ### Conflicts, drain and grant (R283 to R285) -/

/-- Two holders are one for conflicts: the same, or an engine that works for the team (R242). -/
def Tenure.sameHolder (a b : Tenure) : Bool :=
  decide (a.holder = b.holder) ||
    match a.holder, b.holder with
    | .team t, .copy _ => decide (b.team = t)
    | .copy _, .team t => decide (a.team = t)
    | .team t, .reshard _ => decide (b.team = t)
    | .reshard _, .team t => decide (a.team = t)
    | _, _ => false

/-- Two tenures or requests conflict (R284). -/
def State.conflict (s : State) (a b : Tenure) : Bool :=
  !a.sameHolder b && (a.write || b.write) &&
    decide ((s.launch a.team).asid = (s.launch b.team).asid) && a.foot.overlaps b.foot

/-- An access that the releasing lanes' release covers is not performed yet (R278, R279, R323). -/
def State.drainCovers (s : State) (d : Drain) (a : Access) : Bool :=
  decide (a.seq < d.seq ∧ a.phase ≠ .performed) && !a.append &&
    (decide (a.lane ∈ d.lanes) || (!d.lanes.isEmpty && s.beforeRound a d.team d.seq))

/-- A drain's writes are not all performed yet (R285). -/
def State.draining (s : State) (d : Drain) : Bool :=
  (s.e.copies.any fun c => decide (c.id ∈ d.copies)) || (s.e.rsh.any fun r => decide (r.id ∈ d.rshs)) ||
    s.k.acc.any fun a => s.drainCovers d a ||
      (decide (a.seq < d.seq ∧ a.phase ≠ .performed ∧ a.lane.t = d.team) && a.writes && match a.leaf with
        | some lf => decide (s.modeOf lf = 0) && d.foot.meetsPa a.pa a.size
        | none => false)

/-- A drain keeps a request that overlaps the released tenure from its grant: another team's until the old holder's writes are
performed (R285), one of the old holder's own team until the release is, but for what its split's own lanes did (R278, R323;
log entry 75). -/
def State.drainHolds (s : State) (q : Tenure) (d : Drain) : Bool :=
  decide ((s.launch q.team).asid = d.asid) && (q.write || d.write) && q.foot.overlaps d.foot &&
    if q.team ≠ d.team then s.draining d
    else s.k.acc.any fun a => s.drainCovers d a && decide (a.lane.t ≠ q.team ∨ (s.splitOf a.lane.slice).map (·.sid) ≠ some q.sid)

/-- A request waits on a tenure of a holder (R284), or on a drain that waits for the copy command whose request the other is (log
entry 75). -/
def State.waitsFor (s : State) (w q : Tenure) : Bool :=
  (s.e.tens.any fun h => h.sameHolder q && s.conflict w h) ||
    s.e.drains.any fun d => s.drainHolds w d && match q.holder with
      | .copy id => decide (id ∈ d.copies)
      | _ => false

/-- A request is grantable, `earlier` being the requests ahead of it (R284, R285). -/
def State.grantable (s : State) (q : Tenure) (earlier : List Tenure) : Bool :=
  !(s.e.tens.any fun h => s.conflict q h) &&
    !(earlier.any fun w => !w.brch && s.conflict q w && !s.waitsFor w q) &&
    !(s.e.drains.any fun d => s.drainHolds q d)

/-- The request at place i of the arrival order is granted: its tenure is held. -/
def State.grantAt (s : State) (i : Nat) : State :=
  match s.e.reqs[i]? with
  | none => s
  | some q =>
    if !q.brch && s.grantable q (s.e.reqs.take i) then
      { s with e.reqs := s.e.reqs.eraseIdx i, e.tens := s.e.tens ++ [q] }
    else s

/-- TENURE_GRANT (R284): a waiting request of a team or of the re-shard engine is granted; the event names its place
in the arrival order. -/
def execTenureGrant (s : State) : Host.Outcome State Fault Refusal :=
  match s.e.reqs[s.u.ev.id]? with
  | some q =>
    match q.holder with
    | .copy _ => .next s
    | _ => .next (s.grantAt s.u.ev.id)
  | none => .next s

/-- TENURE_TIMEOUT (R277): a team's request has waited longer than SYS_BARWATCH and is withdrawn; its unit issues
with TIMEOUT. -/
def execTenureTimeout (s : State) : Host.Outcome State Fault Refusal :=
  match s.e.reqs[s.u.ev.id]? with
  | none => .next s
  | some q =>
    let w := (s.team q.team).barWatch.toNat
    match q.holder with
    | .team _ =>
      if w ≠ 0 ∧ q.since + w < s.u.clk then
        .next { s with e.reqs := s.e.reqs.modify s.u.ev.id fun x => { x with brch := true } }
      else .next s
    | _ => .next s

/-- The tile whose handle a re-shard command names, as long as it lives. -/
def State.rshFoot (s : State) (r : Rsh) : Foot := ((s.tile? r.handle).map (·.foot)).getD {}

/-- Start the drain of a holder (R278, R279, R285, R439): its team's issued writes, its copies on the footprint and its re-shard
commands that write under its tenure, and what the releasing lanes' release covers. -/
def State.startDrain (s : State) (team : Nat) (f : Foot) (write : Bool) (lanes : List LaneId) : State :=
  { s with e.drains := s.e.drains ++
      [{ team := team, foot := f, seq := s.u.seqNo, write := write, lanes := lanes, asid := (s.launch team).asid
         copies := (s.e.copies.filter fun c => decide (c.team = team) && f.overlaps { recs := c.records }).map (·.id)
         rshs := (s.e.rsh.filter fun r =>
           decide (r.team = team ∧ r.own = false ∧ r.phase ≠ .asked) && f.overlaps (s.rshFoot r)).map (·.id) }] }

/-- Give up a tenure of a team, with its drain. -/
def State.release (s : State) (h : Tenure) (lanes : List LaneId) : State :=
  ({ s with e.tens := s.e.tens.filter fun x => decide (x ≠ h) } : State).startDrain h.team h.foot h.write lanes

/-- A team that exits or is aborted releases every tenure and withdraws every request (R272). -/
def State.releaseTenures (s : State) (team : Nat) : State :=
  let mine := s.e.tens.filter fun h => decide (h.holder = .team team)
  let s := mine.foldl (fun t h => t.release h []) s
  { s with e.reqs := s.e.reqs.filter fun q => decide (q.holder ≠ .team team) }

/-! ### The frame of a tile unit (R273) -/

/-- Is a field of format X an even register, a multiple of 8, at most S61? -/
def regEven (n : Nat) : Bool := decide (n % 2 = 0)

/-- The S operand of a tile unit (R273). -/
def State.leadS (s : State) (n : Nat) : Nat := (s.getS s.lead n).toNat

/-- A layout record in S registers (R267). -/
def State.recordAt (s : State) (n : Nat) : Layout :=
  Layout.ofWords ((List.range 8).map fun i => s.getS s.lead (n + i))

/-- Use of a tile unit. -/
def State.useTile (s : State) (legal : Bool) : Use :=
  { major := 0x1B, legal := s.bare && legal, cover := false }

/-- The fault of a handle in an S register. -/
def State.handleS (s : State) (n : Nat) : Option FaultInfo :=
  let c := s.handleCode s.asid (s.leadS n)
  if c = 0 then none else some (handleFault c (0x80 + n) (s.leadS n) none)

/-- A tile unit on one handle: its fault, or its effect on the tile. -/
def tileUnit (legal : Bool) (sa : BitVec 6) (body : State → Tile → Res) (s : State) :
    Meaning :=
  Meaning.mk (s.useTile legal)
    (fun t =>
      match t.handleS sa.toNat with
      | some f => .trap f
      | none => body t (t.tileOf (t.leadS sa.toNat)))

/-- Write a status in every slice of the split. -/
def State.status (s : State) (sd : BitVec 6) (w : Word) : Res := .ok (s.setSAll sd.toNat w)

/-- Is the handle a child of a split? -/
def Tile.child (t : Tile) : Bool := t.parent.isSome

/-- Lanes of the split under issue. -/
def State.actLanes (s : State) : List LaneId := s.act.map s.lane

/-- Change one directory entry. -/
def State.modTile (s : State) (k : Nat × Nat) (f : Tile → Tile) : State :=
  { s with e.tiles := s.e.tiles.map fun t => if t.key = k then f t else t }

/-! ### Entries -/

/-- The entry of a die that is taken next: one never used, or the one freed least recently (R271). -/
def State.freeEntry (s : State) (die : Nat) (avoid : Option Nat) : Option Tile :=
  let used := s.e.tiles.filter fun t => decide (t.die = die)
  let n := used.length
  let n' := if avoid = some n then n + 1 else n
  if n' < 65536 then some { die := die, entry := n', gen := 1, live := false }
  else
    let free := used.filter fun t => !t.live && decide (some t.entry ≠ avoid)
    free.find? fun t => free.all fun x => decide (t.freedAt ≤ x.freedAt)

/-- Put an entry into the directory. -/
def State.putTile (s : State) (t : Tile) : State :=
  if s.e.tiles.any fun x => decide (x.key = t.key) then s.modTile t.key fun _ => t
  else { s with e.tiles := s.e.tiles ++ [t] }

/-- A freed entry advances its generation, from 4095 to 1 (R271). -/
def Tile.free (t : Tile) (now : Nat) : Tile :=
  { t with live := false, gen := if t.gen = 4095 then 1 else t.gen + 1, isSplit := false, parent := none, freedAt := now
           foot := {} }

/-- Live handles that a record overlaps (R271). -/
def State.crowd (s : State) (asid : Nat) (r : Layout) : Nat :=
  (s.e.tiles.filter fun t => t.live && decide (t.asid = asid) && t.layout.overlaps r).length

/-! ### TMINT, TFREE -/

/-- The refusal code of a mint, 0 for none (R275). -/
def State.mintCode (s : State) (r : Layout) (pages : Option (List Leaf)) : Nat :=
  if !r.valid then 5
  else match pages with
    | none => 8
    | some ps =>
      if ps.any (·.df) then 4
      else if ps.any (·.ut) then 7
      else if ps.any fun lf => decide (s.modeOf lf ≠ 0) then 6
      else if (s.freeEntry (s.coreOf s.gid / 192) none).isNone then 2
      else if 32 ≤ s.crowd s.asid r then 3
      else 0

/-- TMINT (R275). A page without a translation faults; a mint asks for no permission. -/
def meanTmint (o : OpX1) (s : State) : Meaning :=
  Meaning.mk (s.useTile (regEven o.sd.toNat && decide (o.sa.toNat % 8 = 0)))
    (fun t =>
      let r := t.recordAt o.sa.toNat
      let core := t.coreOf t.gid
      let pages := if r.valid then t.pagesOf core t.asid r else none
      let code := t.mintCode r pages
      let t := if r.valid then t.missWalks core t.asid r.steps else t
      match code, t.freeEntry (core / 192) none with
      | 0, some e =>
        let e := { e with live := true, asid := t.asid, foot := { recs := [r], pages := pages.getD [] } }
        .ok (((t.putTile e).setSAll o.sd.toNat (tileStatus 0)).setSAll (o.sd.toNat + 1)
          (BitVec.ofNat 32 e.handle))
      | _, _ => .ok ((t.setSAll o.sd.toNat (tileStatus code)).setSAll (o.sd.toNat + 1) 0))
/-- TMINT: its issue unit, run. -/
def execTmint (o : OpX1) (s : State) : Host.Outcome State Fault Refusal := (meanTmint o s).run s

/-- TFREE (R276). -/
def meanTfree (o : OpX1) (s : State) : Meaning :=
  tileUnit true o.sa
    (fun t x =>
      if x.isSplit || !(t.holders x).isEmpty || decide (t.waitingOn x ≠ 0) then
        t.status o.sd (tileStatus 1 (child := x.child))
      else if x.child then t.status o.sd (tileStatus 13 (child := true))
      else (t.modTile x.key fun y => y.free t.u.clk).status o.sd (tileStatus 0)) s
/-- TFREE: its issue unit, run. -/
def execTfree (o : OpX1) (s : State) : Host.Outcome State Fault Refusal := (meanTfree o s).run s

/-! ### TACQ, TREL, TDOWN, TSTAT -/

/-- The team's request for a tile. -/
def State.requestFor (s : State) (x : Tile) (write : Bool) : Tenure :=
  { holder := .team s.u.iss.team, team := s.u.iss.team, write := write, tile := some x.key, foot := x.foot
    sid := s.u.iss.sid, since := s.u.clk }

/-- The tenure that a waiting TACQ of the split under issue was granted. -/
def State.granted (s : State) (x : Tile) : Option Tenure :=
  s.e.tens.find? fun h => decide (h.holder = .team s.u.iss.team ∧ h.tile = some x.key ∧ h.sid = s.u.iss.sid)

/-- The place of the waiting request of the split under issue. -/
def State.myRequest (s : State) (x : Tile) : Option Tenure :=
  s.e.reqs.find? fun q => decide (q.holder = .team s.u.iss.team ∧ q.tile = some x.key ∧ q.sid = s.u.iss.sid)

/-- TACQ's outcome on a tile (R277): the status codes are HELD 9, SPLIT 12, WOULDWAIT 15, TIMEOUT 16, BADARG 17. -/
def State.tacq (s : State) (sd : BitVec 6) (x : Tile) (mode : Nat) : Res :=
  let st := fun (code : Nat) => s.status sd (tileStatus code (s.tileState x) (child := x.child))
  let ok := fun (t : State) =>
    t.status sd (tileStatus 0 (t.tileState x) (child := x.child))
  match s.granted x with
  | some h =>
    ok { s with e.tens := s.e.tens.map fun y => if y = h then { y with sid := 0 } else y }
  | none =>
    match s.myRequest x with
    | some q =>
      if q.brch then { s with e.reqs := s.e.reqs.filter fun y => decide (y ≠ q) }.status sd
        (tileStatus 16 (s.tileState x) (child := x.child))
      else .wait
    | none =>
      if 4 ≤ mode then st 17
      else if (s.mine x s.u.iss.team).isSome then st 9
      else if x.isSplit then st 12
      else
        let q := s.requestFor x (mode % 2 = 1)
        if s.grantable q s.e.reqs then ok { s with e.tens := s.e.tens ++ [{ q with sid := 0 }] }
        else if bit mode 1 then st 15
        else .hold fun t => { t with e.reqs := t.e.reqs ++ [q] }

/-- TACQ (R277). -/
def meanTacq (o : OpX) (s : State) : Meaning :=
  tileUnit true o.sa (fun t x => t.tacq o.sd x (t.leadS o.sb.toNat)) s
/-- TACQ: its issue unit, run. -/
def execTacq (o : OpX) (s : State) : Host.Outcome State Fault Refusal := (meanTacq o s).run s

/-- TREL (R278). -/
def meanTrel (o : OpX1) (s : State) : Meaning :=
  tileUnit true o.sa
    (fun t x =>
      match t.mine x t.u.iss.team with
      | some h => (t.release h t.actLanes).status o.sd
          (tileStatus 0 (brch := h.brch) (lines := h.lines.length) (child := x.child))
      | none => t.status o.sd (tileStatus 10 (child := x.child))) s
/-- TREL: its issue unit, run. -/
def execTrel (o : OpX1) (s : State) : Host.Outcome State Fault Refusal := (meanTrel o s).run s

/-- TDOWN (R279). -/
def meanTdown (o : OpX1) (s : State) : Meaning :=
  tileUnit true o.sa
    (fun t x =>
      match t.mine x t.u.iss.team with
      | none => t.status o.sd (tileStatus 10 (t.tileState x) (child := x.child))
      | some h =>
        if !h.write then t.status o.sd (tileStatus 11 (t.tileState x) (child := x.child))
        else
          let u : State := { t with e.tens := t.e.tens.map fun y =>
            if y = h then { y with write := false, brch := false, lines := [] } else y }
          (u.startDrain h.team h.foot true t.actLanes).status o.sd
            (tileStatus 0 1 (brch := h.brch) (lines := h.lines.length) (child := x.child))) s
/-- TDOWN: its issue unit, run. -/
def execTdown (o : OpX1) (s : State) : Host.Outcome State Fault Refusal := (meanTdown o s).run s

/-- TSTAT (R280). -/
def meanTstat (o : OpX1) (s : State) : Meaning :=
  tileUnit true o.sa
    (fun t x =>
      let m := t.mine x t.u.iss.team
      t.status o.sd (tileStatus 0 (t.tileState x) (brch := (m.map (·.brch)).getD false)
        (lines := (m.map (·.lines.length)).getD 0) (wait := t.waitingOn x) (mine := m.isSome) (child := x.child))) s
/-- TSTAT: its issue unit, run. -/
def execTstat (o : OpX1) (s : State) : Host.Outcome State Fault Refusal := (meanTstat o s).run s

/-! ### TSPLIT, TMERGE -/

/-- BADARG of a split at position p of an axis (R281). -/
def Layout.splitBad (r : Layout) (axis p : Nat) : Bool :=
  decide (r.rank ≤ axis ∨ p = 0 ∨ r.e axis - 1 < p) ||
    (decide (axis = 0) && decide (p * r.eb % 8 ≠ 0)) ||
    (decide (axis = 0) && fmtDx r.fmt && decide (p % 32 ≠ 0)) ||
    (decide (r.swz ≠ 0) &&
      ((decide (axis = 0) && decide (p * (r.eb / 8) % swzSpan r.swz ≠ 0)) ||
        (decide (axis = 1) && decide (p % (swzSpan r.swz / 16) ≠ 0))))

/-- The records of the children (R281). -/
def Layout.halves (r : Layout) (axis p : Nat) : Layout × Layout :=
  let step := if axis = 0 then p * r.eb / 8 else p * r.s axis
  ({ r with ext := r.ext.set axis p }, { r with ext := r.ext.set axis (r.e axis - p), base := r.base + step })

/-- The status of a split and the words of its children (R281). -/
def State.tsplit (s : State) (sd : BitVec 6) (x : Tile) (arg : Nat) : Res :=
  let axis := arg % 4
  let p := arg / 2 ^ 16
  let r := x.layout
  let die := s.coreOf s.gid / 192
  let refuse := fun (code : Nat) => s.status sd (tileStatus code (child := x.child))
  let others := (s.holders x).any fun h => decide (h.holder ≠ .team s.u.iss.team)
  let hv := r.halves axis p
  if decide (arg / 4 % 2 ^ 14 ≠ 0) || r.splitBad axis p then refuse 17
  else if x.isSplit then refuse 12
  else if others || decide (s.waitingOn x ≠ 0) then refuse 1
  else
    match s.freeEntry die none with
    | none => refuse 2
    | some a =>
      match s.freeEntry die (some a.entry) with
      | none => refuse 2
      | some b =>
        if 32 ≤ s.crowd s.asid hv.1 ∨ 32 ≤ s.crowd s.asid hv.2 then refuse 3
        else
          let kid := fun (e : Tile) (q : Layout) =>
            { e with live := true, asid := s.asid, foot := { recs := [q], pages := x.foot.pages }, isSplit := false
                     parent := some x.key }
          let a := kid a hv.1
          let b := kid b hv.2
          let t := ((s.putTile a).putTile b).modTile x.key fun y => { y with isSplit := true }
          let both := fun (h : Tenure) =>
            if h.tile = some x.key then
              [{ h with tile := some a.key, foot := a.foot }, { h with tile := some b.key, foot := b.foot }]
            else [h]
          let t : State := { t with e.tens := t.e.tens.flatMap both }
          .ok (((t.setSAll sd.toNat (tileStatus 0 (child := x.child))).setSAll (sd.toNat + 1)
            (BitVec.ofNat 32 a.handle)).setSAll (sd.toNat + 2) (BitVec.ofNat 32 b.handle))

/-- TSPLIT (R281). -/
def meanTsplit (o : OpX) (s : State) : Meaning :=
  tileUnit (decide (o.sd.toNat ≤ 61)) o.sa (fun t x => t.tsplit o.sd x (t.leadS o.sb.toNat)) s
/-- TSPLIT: its issue unit, run. -/
def execTsplit (o : OpX) (s : State) : Host.Outcome State Fault Refusal := (meanTsplit o s).run s

/-- TMERGE (R282): Sa is checked before Sb. -/
def meanTmerge (o : OpX) (s : State) : Meaning :=
  tileUnit true o.sa
    (fun t x =>
      match t.handleS o.sb.toNat with
      | some f => .trap f
      | none =>
        let y := t.tileOf (t.leadS o.sb.toNat)
        let busy := fun (z : Tile) => z.isSplit || !(t.holders z).isEmpty || decide (t.waitingOn z ≠ 0)
        match x.parent with
        | none => t.status o.sd (tileStatus 14 (child := false))
        | some k =>
          if y.parent ≠ some k ∨ x.key = y.key then t.status o.sd (tileStatus 14 (child := true))
          else if busy x || busy y then t.status o.sd (tileStatus 1 (child := true))
          else
            (((t.modTile x.key fun z => z.free t.u.clk).modTile y.key fun z => z.free t.u.clk).modTile k
              fun z => { z with isSplit := false }).status o.sd (tileStatus 0 (child := true))) s
/-- TMERGE: its issue unit, run. -/
def execTmerge (o : OpX) (s : State) : Host.Outcome State Fault Refusal := (meanTmerge o s).run s

end Sys2Proof.Machine
end

