-- ==== Sys2Proof/Machine/Barrier.lean ====
section
/-! DEFINITION. Major 0x1A BARRIER: scratchpad barriers (R207 to R212); and the stage rings of major 0x19 (R213,
R214). -/

namespace Sys2Proof.Machine

/-! ### Words in the scratchpad windows -/

/-- Location of an address in the core scratchpad window, or with `cluster` also in the cluster window (R207,
R213). -/
def State.scratchLoc (s : State) (a : Nat) (cluster : Bool) : Option Nat :=
  if (if cluster then clusterWindow else scratchWindow) ≤ a ∧ a < privWindow then
    match s.target ⟨s.u.iss.team, s.u.iss.group, s.lead.s * 4⟩ a with
    | .loc n => some n
    | _ => none
  else none

/-- The address in an S register pair of the split's lowest slice with an active lane (R139). -/
def State.leadAddr (s : State) (n : Nat) : Nat := s.getSPair s.lead n

/-- The fault of a word of `size` bytes at an address (R207, R213): every lane of the split is concerned, and the
access is a read and write. -/
def State.wordFault (s : State) (a size : Nat) (cluster : Bool) : Option FaultInfo :=
  if a % size ≠ 0 then some { code := MISALIGN, addr := a, info := 2 }
  else if (s.scratchLoc a cluster).isNone ∨ (s.scratchLoc (a + size - 4) cluster).isNone then
    some { code := WINDOW, addr := a, info := 2 }
  else none

/-- An access that happens before the unit under issue in program order or through a completed round (R204, R325, R330). -/
def State.covered (s : State) (a : Access) : Bool :=
  decide (a.lane ∈ s.actLanes) ||
    (!a.append && s.k.syncs.any fun y => decide (a.lane.t ∈ y.1 ∧ s.u.iss.team ∈ y.1 ∧ a.seq < y.2))

/-- Accesses that a release of the executing lanes covers are still in flight (R323). -/
def State.owesRelease (s : State) : Bool := s.k.acc.any fun a => !a.append && s.covered a

/-- Covered stores to some bytes are still in flight (R321). -/
def State.owesAt (s : State) (loc size : Nat) : Bool :=
  s.k.acc.any fun a => a.writes && s.covered a && decide (a.loc < loc + size ∧ loc < a.loc + a.size)

/-- A write of the unit under issue to a scratchpad word: for the loads of the team and the cluster that an acquire of narrow scope
has still to order, it is a write of their instance (R319, R325, R330). -/
def State.unitWrite (s : State) (loc v n : Nat) : State :=
  (s.squashBy none s.u.iss.team (s.coreOf s.gid)).store loc v n

/-- The wait of an unissued BWAIT or RWAIT, counted from the clk of its first examination `from_`: BARRIER_STALL
when it exceeds SYS_BARWATCH (R205). -/
def State.stallOr (s : State) (from_ : Option Nat) (info : Nat) : Res :=
  let w := (s.team s.u.iss.team).barWatch.toNat
  if w ≠ 0 ∧ w < s.u.clk - from_.getD s.u.clk then .trap { code := BARRIER_STALL, info := info } else .wait

/-! ### Barrier words (R207 to R212) -/

/-- Fields of a barrier word. -/
def barInc (w : Nat) : Nat := w / 2 ^ 28 % 16
def barV (w : Nat) : Bool := bit w 27
def barPhase (w : Nat) : Nat := w / 2 ^ 24 % 8
def barExp (w : Nat) : Nat := w / 2 ^ 12 % 4096
def barPend (w : Nat) : Nat := w % 4096

/-- A barrier word of its fields. -/
def barWord (inc : Nat) (v : Bool) (phase exp pend : Nat) : Nat :=
  inc % 16 * 2 ^ 28 + (if v then 2 ^ 27 else 0) + phase % 8 * 2 ^ 24 + exp % 4096 * 2 ^ 12 + pend % 4096

/-- A status word (R208). -/
def barStatus (inc phase idx code : Nat) : Word :=
  BitVec.ofNat 32 (inc % 16 * 2 ^ 28 + phase % 8 * 2 ^ 24 + idx % 256 * 2 ^ 8 + code % 16)

/-- The word after n arrivals; the phase completes when none is outstanding (R209, R210). -/
def barArrive (w n : Nat) : Nat :=
  if barPend w = n then barWord (barInc w) true (barPhase w + 1) (barExp w) (barExp w)
  else barWord (barInc w) true (barPhase w) (barExp w) (barPend w - n)

/-- What BWAIT and BTEST find for a token: 0 OK, 1 NOTYET, 2 RESET (R211). -/
def barExamine (w token : Nat) : Nat :=
  if !barV w ∨ barInc w ≠ barInc token then 2 else if barPhase w ≠ barPhase token then 0 else 1

/-- Is n an arrival count? -/
def barCount (n : Nat) : Bool := decide (1 ≤ n ∧ n ≤ 4095)

/-- New word, and the status with its INC and CODE, of the operations that do not wait (R209): BARV 1, BTEST 3,
BEXPECT 4, BINVAL 5, BINIT for any other minor. -/
def barOp (minor w n : Nat) : Nat × Word :=
  let st := fun code => barStatus (barInc w) (barPhase w) 0 code
  let next := barInc w + 1
  match minor with
  | 1 =>
    if !barCount n then (w, st 5)
    else if !barV w then (w, st 3)
    else if barPend w < n then (w, st 4)
    else (barArrive w n, st 0)
  | 3 => (w, st (barExamine w n))
  | 4 =>
    if !barCount n then (w, st 5)
    else if !barV w then (w, st 3)
    else if 4095 < barPend w + n then (w, st 4)
    else (barWord (barInc w) true (barPhase w) (barExp w) (barPend w + n), st 0)
  | 5 => (barWord next false (barPhase w) (barExp w) (barPend w), barStatus next (barPhase w) 0 0)
  | _ =>
    if !barCount n then (w, st 5)
    else (barWord next true 0 n n, barStatus next (barPhase w) 0 0)

/-- Use of a barrier instruction: an even address pair, every role. -/
def State.useBar (s : State) (sa : BitVec 6) : Use :=
  { major := 0x1A, legal := s.bare && regEven sa.toNat, cover := false }

/-- An operation on a barrier word that does not wait for the word; BARV is a release unless it finds the word
invalid (R210). -/
def barUnit (minor : Nat) (sd sa : BitVec 6) (n : State → Nat) (s : State) : Meaning :=
  Meaning.mk (s.useBar sa)
    (fun t =>
      let a := t.leadAddr sa.toNat
      match t.wordFault a 4 true, t.scratchLoc a true with
      | some f, _ => .trap f
      | none, none => .ok t
      | none, some loc =>
        let w := t.load loc 4
        let r := barOp minor w (n t)
        if t.owesAt loc 4 || (decide (minor = 1) && barV w && t.owesRelease) then .wait
        else
          let u := if minor = 3 then t else t.unitWrite loc r.1 4
          .ok (u.setSAll sd.toNat r.2))

/-- The value of Sb. -/
def State.sbOf (sb : BitVec 6) (t : State) : Nat := t.leadS sb.toNat

/-- BINIT (R209). -/
def meanBinit (o : OpX) (s : State) : Meaning := barUnit 0 o.sd o.sa (State.sbOf o.sb) s
/-- BINIT: its issue unit, run. -/
def execBinit (o : OpX) (s : State) : Host.Outcome State Fault Refusal := (meanBinit o s).run s
/-- BARV (R209, R210). -/
def meanBarv (o : OpX) (s : State) : Meaning := barUnit 1 o.sd o.sa (State.sbOf o.sb) s
/-- BARV: its issue unit, run. -/
def execBarv (o : OpX) (s : State) : Host.Outcome State Fault Refusal := (meanBarv o s).run s
/-- BTEST (R211). -/
def meanBtest (o : OpX) (s : State) : Meaning := barUnit 3 o.sd o.sa (State.sbOf o.sb) s
/-- BTEST: its issue unit, run. -/
def execBtest (o : OpX) (s : State) : Host.Outcome State Fault Refusal := (meanBtest o s).run s
/-- BEXPECT (R209). -/
def meanBexpect (o : OpX) (s : State) : Meaning := barUnit 4 o.sd o.sa (State.sbOf o.sb) s
/-- BEXPECT: its issue unit, run. -/
def execBexpect (o : OpX) (s : State) : Host.Outcome State Fault Refusal := (meanBexpect o s).run s
/-- BINVAL (R209). -/
def meanBinval (o : OpX1) (s : State) : Meaning := barUnit 5 o.sd o.sa (fun _ => 0) s
/-- BINVAL: its issue unit, run. -/
def execBinval (o : OpX1) (s : State) : Host.Outcome State Fault Refusal := (meanBinval o s).run s

/-- The split under issue waits for a token on a barrier word. -/
def State.waitsOn (s : State) (loc token : Nat) : Option Await :=
  s.cur.await.filter fun x => s.cur.waitFrom.isSome && decide (x.loc = loc ∧ x.token = token)

/-- The word a BWAIT examines: the first that answered its token since it began to wait, or the word as it stands (R211). -/
def State.waitWord (s : State) (loc token : Nat) : Nat :=
  ((s.waitsOn loc token).bind (·.found)).getD (s.load loc 4)

/-- A BWAIT finds no answer: BARRIER_STALL after its limit (R205), else it waits, and examines the word at every change from now
on (R211). -/
def State.awaitOr (s : State) (loc token : Nat) : Res :=
  match s.stallOr s.cur.waitFrom 1 with
  | .wait =>
    if (s.waitsOn loc token).isSome then .wait
    else .hold fun t => t.modSplit t.u.iss.sid fun p => { p with await := some { loc := loc, token := token } }
  | r => r

/-- A waiting split examines the word after a change (R211). -/
def State.examine (s : State) (p : Split) : Split :=
  match p.await with
  | some x =>
    let w := s.load x.loc 4
    if p.waitFrom.isSome ∧ x.found = none ∧ barExamine w x.token ≠ 1 then { p with await := some { x with found := some w } }
    else p
  | none => p

/-- BWAIT (R211): issues when the word answers OK or RESET. -/
def meanBwait (o : OpX) (s : State) : Meaning :=
  Meaning.mk (s.useBar o.sa)
    (fun t =>
      let a := t.leadAddr o.sa.toNat
      match t.wordFault a 4 true, t.scratchLoc a true with
      | some f, _ => .trap f
      | none, none => .ok t
      | none, some loc =>
        let k := t.leadS o.sb.toNat
        let w := s.waitWord loc k
        let code := barExamine w k
        if t.owesAt loc 4 then .wait
        else if code = 1 then s.awaitOr loc k
        else .ok (t.setSAll o.sd.toNat (barStatus (barInc w) (barPhase w) 0 code)))
/-- BWAIT: its issue unit, run. -/
def execBwait (o : OpX) (s : State) : Host.Outcome State Fault Refusal := (meanBwait o s).run s

/-! ### Stage rings (R213, R214) -/

/-- A ring descriptor: base, slot size in bytes, slots, tail, head, phase bits, and whether it is malformed. -/
structure Ring where
  base : Nat
  slot : Nat
  n : Nat
  tail : Nat
  head : Nat
  ph : Nat
  bad : Bool
  deriving DecidableEq, Repr

/-- Read a descriptor. -/
def State.ringAt (s : State) (loc : Nat) : Ring :=
  let w := fun i => s.load (loc + 4 * i) 4
  let n := w 1 % 64
  let sz := w 1 / 2 ^ 16 * 16
  let base := w 0 % 2 ^ 21
  let tail := w 2 / 2 ^ 16 % 32
  let head := w 2 % 32
  { base := base, slot := sz, n := n, tail := tail, head := head, ph := w 3
    bad := !decide (w 0 / 2 ^ 21 = 0 ∧ base % 16 = 0 ∧ 1 ≤ sz ∧ w 1 / 64 % 2 ^ 10 = 0 ∧ 1 ≤ n ∧ n ≤ 32 ∧
      w 2 / 2 ^ 21 = 0 ∧ w 2 / 32 % 2 ^ 11 = 0 ∧ tail < n ∧ head < n ∧ w 3 / 2 ^ n = 0 ∧
      base + sz * n ≤ (s.launch s.u.iss.team).scratch) }

/-- Write HEAD, TAIL and PH. -/
def State.setRing (s : State) (loc head tail ph : Nat) : State :=
  (s.unitWrite (loc + 8) (tail % 32 * 2 ^ 16 + head % 32) 4).store (loc + 12) ph 4

/-- Use of a ring instruction. -/
def State.useRing (s : State) (sa : BitVec 6) (legal : Bool) : Use :=
  { major := 0x19, legal := s.bare && regEven sa.toNat && legal, cover := false, allRoles := true }

/-- RPUSH, or RPOP when `pop` (R214): releases at team scope. -/
def ringUnit (pop : Bool) (o : OpX1) (s : State) : Meaning :=
  Meaning.mk (s.useRing o.sa true)
    (fun t =>
      let a := t.leadAddr o.sa.toNat
      match t.wordFault a 16 false, t.scratchLoc a false with
      | some f, _ => .trap f
      | none, none => .ok t
      | none, some loc =>
        let r := t.ringAt loc
        let st := fun (u : State) idx code => Res.ok (u.setSAll o.sd.toNat (barStatus 0 0 idx code))
        if t.owesRelease then .wait
        else if r.bad then st t 0 8
        else if pop then
          if !bit r.ph r.tail then st t 0 7
          else st (t.setRing loc r.head ((r.tail + 1) % r.n) (r.ph - 2 ^ r.tail)) r.tail 0
        else if bit r.ph r.head then st t 0 6
        else st (t.setRing loc ((r.head + 1) % r.n) r.tail (r.ph + 2 ^ r.head)) r.head 0)

/-- RPUSH (R214). -/
def meanRpush (o : OpX1) (s : State) : Meaning := ringUnit false o s
/-- RPUSH: its issue unit, run. -/
def execRpush (o : OpX1) (s : State) : Host.Outcome State Fault Refusal := (meanRpush o s).run s
/-- RPOP (R214). -/
def meanRpop (o : OpX1) (s : State) : Meaning := ringUnit true o s
/-- RPOP: its issue unit, run. -/
def execRpop (o : OpX1) (s : State) : Host.Outcome State Fault Refusal := (meanRpop o s).run s

/-- RWAIT (R214): vb 0 is the producer's form, 1 the consumer's. -/
def meanRwait (o : OpX) (s : State) : Meaning :=
  Meaning.mk (s.useRing o.sa (regEven o.sd.toNat && decide (o.sb.toNat ≤ 1)))
    (fun t =>
      let a := t.leadAddr o.sa.toNat
      match t.wordFault a 16 false, t.scratchLoc a false with
      | some f, _ => .trap f
      | none, none => .ok t
      | none, some loc =>
        let r := t.ringAt loc
        let put := fun v => Res.ok ((t.setSAll o.sd.toNat (BitVec.ofNat 32 v)).setSAll (o.sd.toNat + 1)
          (BitVec.ofNat 32 (v / 2 ^ 32)))
        let i := if o.sb = 0 then r.head else r.tail
        if t.owesAt loc 16 then .wait
        else if r.bad then put 0
        else if bit r.ph i = decide (o.sb ≠ 0) then put (scratchWindow + r.base + r.slot * i)
        else t.stallOr s.cur.waitFrom 2)
/-- RWAIT: its issue unit, run. -/
def execRwait (o : OpX) (s : State) : Host.Outcome State Fault Refusal := (meanRwait o s).run s

end Sys2Proof.Machine
end

