-- ==== Sys2Proof/Machine/Bitwise.lean ====
section
/-! DEFINITION. Majors 0x02 LOGIC and 0x03 SHIFT (R92, R95, R96). -/

namespace Sys2Proof.Machine

/-- AND (R95). -/
def meanAnd (o : OpA) (s : State) : Meaning :=
  Meaning.mk (s.useA 0x02 o { packs := packsWide }) (fun t => t.deliverA o fun _ a b _ => a &&& b)
/-- AND: its issue unit, run. -/
def execAnd (o : OpA) (s : State) : Host.Outcome State Fault Refusal := (meanAnd o s).run s

/-- OR (R95). -/
def meanOr (o : OpA) (s : State) : Meaning :=
  Meaning.mk (s.useA 0x02 o { packs := packsWide }) (fun t => t.deliverA o fun _ a b _ => a ||| b)
/-- OR: its issue unit, run. -/
def execOr (o : OpA) (s : State) : Host.Outcome State Fault Refusal := (meanOr o s).run s

/-- XOR (R95). -/
def meanXor (o : OpA) (s : State) : Meaning :=
  Meaning.mk (s.useA 0x02 o { packs := packsWide }) (fun t => t.deliverA o fun _ a b _ => a ^^^ b)
/-- XOR: its issue unit, run. -/
def execXor (o : OpA) (s : State) : Host.Outcome State Fault Refusal := (meanXor o s).run s

/-- ANDN: a AND NOT b (R95). -/
def meanAndn (o : OpA) (s : State) : Meaning :=
  Meaning.mk (s.useA 0x02 o { packs := packsWide })
    (fun t => t.deliverA o fun w a b _ => a &&& notBits w b)
/-- ANDN: its issue unit, run. -/
def execAndn (o : OpA) (s : State) : Host.Outcome State Fault Refusal := (meanAndn o s).run s

/-- ORN: a OR NOT b (R95). -/
def meanOrn (o : OpA) (s : State) : Meaning :=
  Meaning.mk (s.useA 0x02 o { packs := packsWide })
    (fun t => t.deliverA o fun w a b _ => a ||| notBits w b)
/-- ORN: its issue unit, run. -/
def execOrn (o : OpA) (s : State) : Host.Outcome State Fault Refusal := (meanOrn o s).run s

/-- XNOR: NOT (a XOR b) (R95). -/
def meanXnor (o : OpA) (s : State) : Meaning :=
  Meaning.mk (s.useA 0x02 o { packs := packsWide })
    (fun t => t.deliverA o fun w a b _ => notBits w (a ^^^ b))
/-- XNOR: its issue unit, run. -/
def execXnor (o : OpA) (s : State) : Host.Outcome State Fault Refusal := (meanXnor o s).run s

/-- SEL: (a AND c) OR (b AND NOT c) (R95). -/
def meanSel (o : OpA) (s : State) : Meaning :=
  Meaning.mk (s.useA 0x02 o { packs := packsWide } true)
    (fun t => t.deliverA o fun w a b c => (a &&& c) ||| (b &&& notBits w c))
/-- SEL: its issue unit, run. -/
def execSel (o : OpA) (s : State) : Host.Outcome State Fault Refusal := (meanSel o s).run s

/-- BREV (R95). -/
def meanBrev (o : OpA1) (s : State) : Meaning :=
  Meaning.mk (s.useA1 0x02 o { packs := packsNarrow }) (fun t => t.deliverA1 o revBits)
/-- BREV: its issue unit, run. -/
def execBrev (o : OpA1) (s : State) : Host.Outcome State Fault Refusal := (meanBrev o s).run s

/-- Use of a shift: under 64-bit packing the amount is the single register vb (R92). -/
def State.useShift (s : State) (o : OpA) : Use :=
  let n := s.regsPer
  { major := 0x03
    legal := s.modpOk { packs := packsAll } && s.pairOk o.va.toNat && s.pairOk o.vd.toNat
    reads := [{ reg := o.va.toNat, n := n, trap := o.ta }, { reg := o.vb.toNat, trap := o.tb }]
    dests := [(o.vd.toNat, n)] }

/-- Deliver a shift: each element takes its amount from the low 8 bits of its element of vb, or of vb itself
under 64-bit packing (R92). -/
def State.deliverShift (s : State) (o : OpA) (f : Nat → Nat → Nat → Nat) : Res :=
  .ok (s.deliverAll o.vd.toNat s.regsPer fun l =>
    let nw := packShape s.pack
    let a := s.opV l o.va.toNat
    let b := (s.getV (s.lane l) o.vb.toNat).toNat
    joinElems nw.2 (fun e => f nw.2 (elem a e nw.2) (elem b e nw.2 % 256)) nw.1)

/-- SHL (R96). -/
def meanShl (o : OpA) (s : State) : Meaning :=
  Meaning.mk (s.useShift o) (fun t => t.deliverShift o shlBits)
/-- SHL: its issue unit, run. -/
def execShl (o : OpA) (s : State) : Host.Outcome State Fault Refusal := (meanShl o s).run s

/-- SHR (R96). -/
def meanShr (o : OpA) (s : State) : Meaning :=
  Meaning.mk (s.useShift o) (fun t => t.deliverShift o shrBits)
/-- SHR: its issue unit, run. -/
def execShr (o : OpA) (s : State) : Host.Outcome State Fault Refusal := (meanShr o s).run s

/-- SAR (R96). -/
def meanSar (o : OpA) (s : State) : Meaning :=
  Meaning.mk (s.useShift o) (fun t => t.deliverShift o sarBits)
/-- SAR: its issue unit, run. -/
def execSar (o : OpA) (s : State) : Host.Outcome State Fault Refusal := (meanSar o s).run s

/-- ROL (R96). -/
def meanRol (o : OpA) (s : State) : Meaning :=
  Meaning.mk (s.useShift o) (fun t => t.deliverShift o rolBits)
/-- ROL: its issue unit, run. -/
def execRol (o : OpA) (s : State) : Host.Outcome State Fault Refusal := (meanRol o s).run s

/-- ROR (R96). -/
def meanRor (o : OpA) (s : State) : Meaning :=
  Meaning.mk (s.useShift o) (fun t => t.deliverShift o rorBits)
/-- ROR: its issue unit, run. -/
def execRor (o : OpA) (s : State) : Host.Outcome State Fault Refusal := (meanRor o s).run s

/-- FSHL: bits 63:32 of (a : c) shifted left by s below 64; 0 from 64 on (R96). -/
def funnel (a c n : Nat) : Nat :=
  if 64 ≤ n then 0 else (a * 2 ^ 32 + c) * 2 ^ n % 2 ^ 64 / 2 ^ 32

/-- FSHL (R96). -/
def meanFshl (o : OpA) (s : State) : Meaning :=
  Meaning.mk (s.useA 0x03 o {} true)
    (fun t => t.deliverA o fun _ a b c => funnel a c (b % 256))
/-- FSHL: its issue unit, run. -/
def execFshl (o : OpA) (s : State) : Host.Outcome State Fault Refusal := (meanFshl o s).run s

/-- The field of BFX (R96): bits p + n − 1 : p of a, sign-extended, or zero-extended with alt. -/
def bitField (unsigned : Bool) (a b : Nat) : Nat :=
  let p := b % 256
  let n := min (b / 256 % 256) 32
  if n = 0 then 0
  else if unsigned then a / 2 ^ p % 2 ^ n
  else wrap 32 (sext n (wrap 64 (sext 32 a / 2 ^ p)))

/-- BFX (R96). -/
def meanBfx (o : OpA) (s : State) : Meaning :=
  Meaning.mk (s.useA 0x03 o { alt := true }) (fun t => t.deliverA o fun _ a b _ => bitField t.alt a b)
/-- BFX: its issue unit, run. -/
def execBfx (o : OpA) (s : State) : Host.Outcome State Fault Refusal := (meanBfx o s).run s

/-- c with the field of vb replaced by the low bits of a (R96). -/
def bitInsert (a b c : Nat) : Nat :=
  let p := b % 256
  let n := min (b / 256 % 256) 32
  let m := (2 ^ n - 1) * 2 ^ p % 2 ^ 32
  (c &&& notBits 32 m) ||| (a % 2 ^ n * 2 ^ p &&& m)

/-- BFI (R96). -/
def meanBfi (o : OpA) (s : State) : Meaning :=
  Meaning.mk (s.useA 0x03 o {} true) (fun t => t.deliverA o fun _ a b c => bitInsert a b c)
/-- BFI: its issue unit, run. -/
def execBfi (o : OpA) (s : State) : Host.Outcome State Fault Refusal := (meanBfi o s).run s

end Sys2Proof.Machine
end

