-- ==== Sys2Proof/Machine/Compare.lean ====
section
/-! DEFINITION. Compares into a mask register: majors 0x04 ICMP (R97) and 0x0B FCMP (R115). -/

namespace Sys2Proof.Machine

/-- Use of a compare. -/
def State.useC (s : State) (major : Nat) (o : OpC) : Use :=
  let n := s.regsPer
  { major := major
    legal := s.modpOk { packs := packsWide } && s.pairOk o.va.toNat && s.pairOk o.vb.toNat
    reads := [{ reg := o.va.toNat, n := n, trap := o.ta }, { reg := o.vb.toNat, n := n, trap := o.tb }] }

/-- Deliver the truth of a comparison to a mask register, bit by bit (R97). -/
def State.deliverC (s : State) (o : OpC) (f : Nat → Nat → Bool) : Res :=
  .ok (s.deliverMask o.md.toNat fun l => f (s.opV l o.va.toNat) (s.opV l o.vb.toNat))

/-- ICMP.EQ (R97). -/
def meanIcmpEq (o : OpC) (s : State) : Meaning :=
  Meaning.mk (s.useC 0x04 o) (fun t => t.deliverC o (icond 0 (packShape t.pack).2))
/-- ICMPEQ: its issue unit, run. -/
def execIcmpEq (o : OpC) (s : State) : Host.Outcome State Fault Refusal := (meanIcmpEq o s).run s

/-- ICMP.NE (R97). -/
def meanIcmpNe (o : OpC) (s : State) : Meaning :=
  Meaning.mk (s.useC 0x04 o) (fun t => t.deliverC o (icond 1 (packShape t.pack).2))
/-- ICMPNE: its issue unit, run. -/
def execIcmpNe (o : OpC) (s : State) : Host.Outcome State Fault Refusal := (meanIcmpNe o s).run s

/-- ICMP.LT (R97). -/
def meanIcmpLt (o : OpC) (s : State) : Meaning :=
  Meaning.mk (s.useC 0x04 o) (fun t => t.deliverC o (icond 2 (packShape t.pack).2))
/-- ICMPLT: its issue unit, run. -/
def execIcmpLt (o : OpC) (s : State) : Host.Outcome State Fault Refusal := (meanIcmpLt o s).run s

/-- ICMP.LE (R97). -/
def meanIcmpLe (o : OpC) (s : State) : Meaning :=
  Meaning.mk (s.useC 0x04 o) (fun t => t.deliverC o (icond 3 (packShape t.pack).2))
/-- ICMPLE: its issue unit, run. -/
def execIcmpLe (o : OpC) (s : State) : Host.Outcome State Fault Refusal := (meanIcmpLe o s).run s

/-- ICMP.GT (R97). -/
def meanIcmpGt (o : OpC) (s : State) : Meaning :=
  Meaning.mk (s.useC 0x04 o) (fun t => t.deliverC o (icond 4 (packShape t.pack).2))
/-- ICMPGT: its issue unit, run. -/
def execIcmpGt (o : OpC) (s : State) : Host.Outcome State Fault Refusal := (meanIcmpGt o s).run s

/-- ICMP.GE (R97). -/
def meanIcmpGe (o : OpC) (s : State) : Meaning :=
  Meaning.mk (s.useC 0x04 o) (fun t => t.deliverC o (icond 5 (packShape t.pack).2))
/-- ICMPGE: its issue unit, run. -/
def execIcmpGe (o : OpC) (s : State) : Host.Outcome State Fault Refusal := (meanIcmpGe o s).run s

/-- ICMP.LTU (R97). -/
def meanIcmpLtu (o : OpC) (s : State) : Meaning :=
  Meaning.mk (s.useC 0x04 o) (fun t => t.deliverC o (icond 6 (packShape t.pack).2))
/-- ICMPLTU: its issue unit, run. -/
def execIcmpLtu (o : OpC) (s : State) : Host.Outcome State Fault Refusal := (meanIcmpLtu o s).run s

/-- ICMP.GEU (R97). -/
def meanIcmpGeu (o : OpC) (s : State) : Meaning :=
  Meaning.mk (s.useC 0x04 o) (fun t => t.deliverC o (icond 7 (packShape t.pack).2))
/-- ICMPGEU: its issue unit, run. -/
def execIcmpGeu (o : OpC) (s : State) : Host.Outcome State Fault Refusal := (meanIcmpGeu o s).run s

/-- FCMP.EQ (R115). -/
def meanFcmpEq (o : OpC) (s : State) : Meaning :=
  Meaning.mk (s.useC 0x0B o) (fun t => t.deliverC o (fcond 0 t.fmt))
/-- FCMPEQ: its issue unit, run. -/
def execFcmpEq (o : OpC) (s : State) : Host.Outcome State Fault Refusal := (meanFcmpEq o s).run s

/-- FCMP.NE (R115). -/
def meanFcmpNe (o : OpC) (s : State) : Meaning :=
  Meaning.mk (s.useC 0x0B o) (fun t => t.deliverC o (fcond 1 t.fmt))
/-- FCMPNE: its issue unit, run. -/
def execFcmpNe (o : OpC) (s : State) : Host.Outcome State Fault Refusal := (meanFcmpNe o s).run s

/-- FCMP.LT (R115). -/
def meanFcmpLt (o : OpC) (s : State) : Meaning :=
  Meaning.mk (s.useC 0x0B o) (fun t => t.deliverC o (fcond 2 t.fmt))
/-- FCMPLT: its issue unit, run. -/
def execFcmpLt (o : OpC) (s : State) : Host.Outcome State Fault Refusal := (meanFcmpLt o s).run s

/-- FCMP.LE (R115). -/
def meanFcmpLe (o : OpC) (s : State) : Meaning :=
  Meaning.mk (s.useC 0x0B o) (fun t => t.deliverC o (fcond 3 t.fmt))
/-- FCMPLE: its issue unit, run. -/
def execFcmpLe (o : OpC) (s : State) : Host.Outcome State Fault Refusal := (meanFcmpLe o s).run s

/-- FCMP.GT (R115). -/
def meanFcmpGt (o : OpC) (s : State) : Meaning :=
  Meaning.mk (s.useC 0x0B o) (fun t => t.deliverC o (fcond 4 t.fmt))
/-- FCMPGT: its issue unit, run. -/
def execFcmpGt (o : OpC) (s : State) : Host.Outcome State Fault Refusal := (meanFcmpGt o s).run s

/-- FCMP.GE (R115). -/
def meanFcmpGe (o : OpC) (s : State) : Meaning :=
  Meaning.mk (s.useC 0x0B o) (fun t => t.deliverC o (fcond 5 t.fmt))
/-- FCMPGE: its issue unit, run. -/
def execFcmpGe (o : OpC) (s : State) : Host.Outcome State Fault Refusal := (meanFcmpGe o s).run s

/-- FCMP.UN (R115). -/
def meanFcmpUn (o : OpC) (s : State) : Meaning :=
  Meaning.mk (s.useC 0x0B o) (fun t => t.deliverC o (fcond 6 t.fmt))
/-- FCMPUN: its issue unit, run. -/
def execFcmpUn (o : OpC) (s : State) : Host.Outcome State Fault Refusal := (meanFcmpUn o s).run s

/-- FCMP.ORD (R115). -/
def meanFcmpOrd (o : OpC) (s : State) : Meaning :=
  Meaning.mk (s.useC 0x0B o) (fun t => t.deliverC o (fcond 7 t.fmt))
/-- FCMPORD: its issue unit, run. -/
def execFcmpOrd (o : OpC) (s : State) : Host.Outcome State Fault Refusal := (meanFcmpOrd o s).run s

end Sys2Proof.Machine
end

