-- ==== Sys2Proof/Machine/CopyEngine.lean ====
section
/-! DEFINITION. The copy commands of major 0x19 (R237 to R249) with their checks before tenure, transfer, status and
arrivals; and the events COPY_START and COPY_COMPLETE. -/

namespace Sys2Proof.Machine

/-! ### Checks before tenure (R239, R244, R247 to R249) -/

/-- The control word uses only its command's fields. -/
def Copy.ctlOk (c : Copy) : Bool :=
  (ctlBen c.ctl || decide (ctlBar c.ctl = 0)) &&
    match c.kind with
    | .cpy => true
    | .tcpym => decide (c.ctl % 16 = 0 ∧ ctlMcast c.ctl ≠ [])
    | _ => decide (c.ctl % 4096 = 0)

/-- A record the engine accepts (R247). -/
def Layout.copyOk (r : Layout) : Bool :=
  decide (r.eb ≠ 0 ∧ r.extra = 0) && r.aboveRank && r.swizzleOk && decide (r.e 0 * r.eb % 8 = 0)

/-- The command breaks no rule that ends it with BADARG. -/
def Copy.argsOk (c : Copy) : Bool :=
  c.ctlOk &&
    match c.kind with
    | .cpy => decide (c.dst.base % 4 = 0 ∧ c.src.base % 4 = 0)
    | .tstore => c.dst.copyOk && decide (c.dst.eb % 8 = 0 ∧ c.dst.eb ≠ 0)
    | _ => c.dst.copyOk && c.src.copyOk &&
        decide (c.dst.rank = c.src.rank ∧ c.dst.ext = c.src.ext ∧ c.dst.eb = c.src.eb) &&
        (decide (c.kind ≠ .tcpym) || decide (clusterWindow ≤ c.dst.base ∧ c.dst.base < clusterWindow + 2 ^ 20))

/-- A lane that speaks for the command where an address is decoded. -/
def Copy.lane (c : Copy) : LaneId := ⟨c.team, c.group, 0⟩

/-- An engine may reach an address: global space, or a window that is not lane-private. -/
def State.engineReach (s : State) (c : Copy) (a : Nat) : Bool :=
  match s.target c.lane a with
  | .glob _ spill => !spill
  | .loc _ => true
  | _ => false

/-- Location of a destination byte of a TCPYM in a batch member's scratchpad (R248). -/
def Copy.offset (a : Nat) : Nat := a - clusterWindow

/-- The teams that a TCPYM sends to, none for a missing one (R248). -/
def State.targets (s : State) (c : Copy) : List (Option Nat) :=
  (ctlMcast c.ctl).map fun j =>
    (s.x.teams.find? fun y => decide (y.grid = (s.team c.team).grid ∧ y.batch = (s.team c.team).batch ∧ y.member = j)).map
      (·.uid)

/-- Windows, targets and barrier offsets are in order. -/
def State.windowsOk (s : State) (c : Copy) : Bool :=
  let la := s.launch c.team
  (decide (c.kind = .tstore) || (c.ends false).all (s.engineReach c)) &&
    (if c.kind = .tcpym then
      (s.targets c).all (·.isSome) && (c.ends true).all fun a => decide (Copy.offset a < la.cluster)
    else (c.ends true).all (s.engineReach c)) &&
    (!ctlBen c.ctl || decide (4 * ctlBar c.ctl + 4 ≤ la.scratch))

/-- The global addresses, in transfer order and 64 KiB steps, of the destination. -/
def Copy.dstPages (c : Copy) : List Nat :=
  if c.kind = .tcpym then []
  else ((c.records.flatMap fun r => r.steps.map fun a => max a r.base).filter fun a => decide (a < 2 ^ 56))

/-- The first destination page that ends the command: PAGE 1, DEFERRED 5, FABRIC 6 (R244). -/
def State.dstCode (s : State) (c : Copy) : Nat :=
  let asid := (s.launch c.team).asid
  (c.dstPages.findSome? fun va =>
    match s.seek c.core asid va 0 true with
    | .inr _ => some 1
    | .inl lf => if lf.df then some 5 else if s.reachable (s.devOf lf) then none else some 6).getD 0

/-- The code of the checks that a command meets before tenure (R244): BADARG 4, WINDOW 3, then the destination
pages; 0 for none. They are made of a CPY without a taking-part lane too (R246; log entry 79). -/
def State.copyCheck (s : State) (c : Copy) : Nat :=
  if !c.argsOk then 4 else if !s.windowsOk c then 3 else s.dstCode c

/-- Leaves of the destination on which engine tenure is taken: local, tracked pages (R242). -/
def State.tenurePages (s : State) (c : Copy) : List Leaf :=
  let asid := (s.launch c.team).asid
  ((c.dstPages.filterMap fun va =>
    match s.seek c.core asid va 0 true with
    | .inl lf => if s.modeOf lf = 0 ∧ !lf.ut ∧ !inHost lf.frame then some lf else none
    | .inr _ => none)).eraseDups

/-! ### Issue (R240, R241) -/

/-- A MODP in copy meaning: vc and the mask only (R238). -/
def State.copyModp (s : State) : Bool :=
  s.noImmx && match s.u.iss.modp with
    | none => true
    | some m => decide (m.rnd = 0 ∧ m.pack = 0) && !m.sat && !m.alt && !m.tc && !m.zi

/-- The status register, if the command has one. -/
def State.copyVs (s : State) : Option Nat := s.u.iss.modp.map fun m => m.vc.toNat

/-- The barriers a command will arrive at, with the INC of each (R212, R248). -/
def State.copyIncs (s : State) (c : Copy) : List (Nat × Nat) :=
  if !ctlBen c.ctl then []
  else
    (if c.kind = .tcpym then (s.targets c).filterMap id else [c.team]).map fun t =>
      let loc := locScr t (4 * ctlBar c.ctl)
      (loc, barInc (s.load loc 4))

/-- Capture a command at issue, and request its tenure (R240, R242). -/
def State.issueCopy (s : State) (c : Copy) : State :=
  let c := { c with
    id := s.u.uid, sid := s.u.iss.sid, team := s.u.iss.team, group := s.u.iss.group, core := s.coreOf s.gid
    seq := s.u.seqNo, lanes := s.elanes, act := s.act, vs := s.copyVs, slanes := if s.copyVs.isSome then s.elanes else [] }
  let bad := s.copyCheck c
  let pages := if bad = 0 then s.tenurePages c else []
  let c := { c with bad := bad, incs := if bad = 0 then s.copyIncs c else [], members := (s.targets c).filterMap id }
  let t : State := match c.vs with
    | some v => s.elanes.foldl (fun (t : State) l => t.setEmpty (s.lane l) v true) s
    | none => s
  let q : List Tenure :=
    if pages.isEmpty then []
    else [{ holder := .copy c.id, team := c.team, write := true, foot := { recs := c.records, pages := pages }
            since := s.u.clk }]
  { t with e.copies := t.e.copies ++ [c], e.reqs := t.e.reqs ++ q, u.uid := t.u.uid + 1, u.seqNo := t.u.seqNo + 1 }

/-- Copies in flight on a core (R241); those of a saved team are in the save pool (R251). -/
def State.copiesOn (s : State) (core : Nat) : Nat :=
  (s.e.copies.filter fun c => decide (c.core = core ∧ c.phase ≠ .suspended)).length

/-- A copy command of a kind; `d` and `r` are the alignments of vd and va (R237). -/
def copyUnit (kind : CopyKind) (d r : Nat) (o : OpX) (s : State) : Meaning :=
  Meaning.mk
    { major := 0x19
      legal := s.copyModp && aligned o.sd.toNat d && aligned o.sa.toNat r
      dests := match s.copyVs with | some v => [(v, 1)] | none => []
      notVector := true
      ready := decide (s.copiesOn (s.coreOf s.gid) < 32) }
    (fun t =>
      let side := fun (n : BitVec 6) (k : Nat) =>
        if k = 8 then t.recordAt n.toNat else { base := t.leadAddr n.toNat : Layout }
      .ok (t.issueCopy
        { id := 0, kind := kind, sid := 0, team := 0, group := 0, core := 0, seq := 0
          dst := side o.sd d, src := side o.sa r, pattern := t.leadAddr o.sa.toNat, ctl := t.leadS o.sb.toNat }))

/-- CPY (R246). -/
def meanCpy (o : OpX) (s : State) : Meaning := copyUnit .cpy 2 2 o s
/-- CPY: its issue unit, run. -/
def execCpy (o : OpX) (s : State) : Host.Outcome State Fault Refusal := (meanCpy o s).run s
/-- TCPY (R247). -/
def meanTcpy (o : OpX) (s : State) : Meaning := copyUnit .tcpy 8 8 o s
/-- TCPY: its issue unit, run. -/
def execTcpy (o : OpX) (s : State) : Host.Outcome State Fault Refusal := (meanTcpy o s).run s
/-- TCPYM (R248). -/
def meanTcpym (o : OpX) (s : State) : Meaning := copyUnit .tcpym 8 8 o s
/-- TCPYM: its issue unit, run. -/
def execTcpym (o : OpX) (s : State) : Host.Outcome State Fault Refusal := (meanTcpym o s).run s
/-- TSTORE (R249). -/
def meanTstore (o : OpX) (s : State) : Meaning := copyUnit .tstore 8 2 o s
/-- TSTORE: its issue unit, run. -/
def execTstore (o : OpX) (s : State) : Host.Outcome State Fault Refusal := (meanTstore o s).run s

/-! ### Start (R240 to R242) -/

/-- A command of a name. -/
def State.copy? (s : State) (id : Nat) : Option Copy := s.e.copies.find? fun c => decide (c.id = id)

/-- Change one command. -/
def State.modCopy (s : State) (id : Nat) (f : Copy → Copy) : State :=
  { s with e.copies := s.e.copies.map fun c => if c.id = id then f c else c }

/-- The request of a command, by its place in the arrival order. -/
def State.copyRequest (s : State) (id : Nat) : Option Nat :=
  s.e.reqs.findIdx? fun q => decide (q.holder = .copy id)

/-- While a team of its grid is being saved no TCPYM of another team of the grid starts (R250). -/
def State.quiesced (s : State) (c : Copy) : Bool :=
  decide (c.kind ≠ .tcpym) || decide ((s.team c.team).status = .saving) ||
    s.x.teams.all fun x => decide (x.grid ≠ (s.team c.team).grid ∨ x.status ≠ .saving)

/-- Every earlier command of the split has started, and what happens before its issue, through its lanes' program order or a
completed round, is performed (R241, R330). A TCPYM of a team that is being saved keeps its place in that order too: the save
waits for the tenure of the command in front of it (R250; log entry 79). -/
def State.mayStart (s : State) (c : Copy) : Bool :=
  (s.e.copies.all fun d => !decide (d.sid = c.sid ∧ d.id < c.id ∧ d.phase = .waiting)) && s.quiesced c &&
    s.k.acc.all fun a => !(decide (a.phase ≠ .performed) && !a.append &&
      (decide (a.lane.t = c.team ∧ a.lane.g = c.group ∧ a.lane.l ∈ c.act ∧ a.seq < c.seq) || s.beforeRound a c.team c.seq))

/-- COPY_START (R240): the engine is granted its tenure, if the destination takes one, and starts. -/
def execCopyStart (s : State) : Host.Outcome State Fault Refusal :=
  match s.copy? s.u.ev.id with
  | none => .next s
  | some c =>
    if c.phase ≠ .waiting ∨ c.bad ≠ 0 ∨ !s.mayStart c then .next s
    else
      match s.copyRequest c.id with
      | none => .next (s.modCopy c.id fun x => { x with phase := .started, moved := s.u.clk })
      | some i =>
        let t := s.grantAt i
        if (t.copyRequest c.id).isSome then .next s
        else .next (t.modCopy c.id fun x => { x with phase := .started, moved := s.u.clk })

/-! ### Transfer (R243) -/

/-- The agent a command's accesses count for (R242, R287). -/
def Copy.agent (c : Copy) (asid : Nat) : Agent :=
  { team := some c.team, engine := some (.copy c.id), core := some c.core, asid := asid }

/-- A resolved byte of an engine: its location, and its leaf when it is in global memory. -/
abbrev Place := Nat × Option Leaf

/-- Resolve an address of a command: the place, or the code that ends it: PAGE 1, FABRIC 6 (R244). -/
def State.copyPlace (s : State) (c : Copy) (a : Nat) (write : Bool) : Place ⊕ Nat :=
  match s.target c.lane a with
  | .loc n => .inl (n, none)
  | .glob va _ =>
    match s.seek c.core (s.launch c.team).asid va 0 write with
    | .inr _ => .inr 1
    | .inl lf => if s.reachable (s.devOf lf) then .inl (s.locOf lf (lf.pa va), some lf) else .inr 6
  | _ => .inr 3

/-- The places a destination address leads to: one, or one for each target of a TCPYM. -/
def State.dstPlaces (s : State) (c : Copy) (a : Nat) : List Place ⊕ Nat :=
  if c.kind = .tcpym then .inl (c.members.map fun t => (locScr t (Copy.offset a), none))
  else match s.copyPlace c a true with
    | .inl p => .inl [p]
    | .inr k => .inr k

/-- Write one byte of an engine at its home, with its poison (R177, R253, R259, R261, R423): the engine of a team and a core is in
the instances of both (R319). -/
def State.engineByte (s : State) (team core : Nat) (p : Place) (pa : Nat) (b : Nat) (poison : Bool) : State :=
  let s := s.squashBy none team core
  let s := match p.2 with
    | some lf => s.homeWrite lf pa p.1 b 1 false
    | none => s.store p.1 b 1
  if poison then s.poisonBytes p.1 1 else s

/-- Move one byte: the state, the code met, and whether poison was; with the event's value 1 reads of host memory end in an
error (R376). -/
def State.moveByte (s : State) (c : Copy) (m : Nat × Nat) : State × Nat × Bool :=
  let asid := (s.launch c.team).asid
  let chain := s.chainOf c.lane
  let src : (Nat × Bool × State) ⊕ Nat :=
    if c.kind = .tstore then .inl (c.pattern / 2 ^ (8 * m.2) % 256, false, s)
    else match s.copyPlace c m.2 false with
      | .inr k => .inr k
      | .inl (loc, lf) =>
        let t := match lf with | some lf => s.engineTouch (c.agent asid) c.core chain lf m.2 false | none => s
        let gone := match lf with
          | some lf => s.retiredAt lf (lf.pa m.2) || (inHost (lf.pa m.2) && decide (s.u.ev.value = 1))
          | none => false
        .inl (t.load loc 1, t.poisoned loc 1 || gone, t)
  match src, s.dstPlaces c m.1 with
  | .inr k, _ => (s, k, false)
  | _, .inr k => (s, k, false)
  | .inl (b, bad, t), .inl ps =>
    (ps.foldl (fun t p =>
      let pa := match p.2 with | some lf => lf.pa m.1 | none => 0
      let gone := match p.2 with | some lf => s.retiredAt lf pa | none => false
      let t := match p.2 with
        | some lf => t.engineTouch (c.agent asid) c.core chain lf m.1 true
        | none => t
      if gone then t else t.engineByte c.team c.core p pa b bad) t, 0, bad)

/-- A transfer meets poison at a source address (R400). -/
def State.copyPoison (s : State) (c : Copy) (va : Nat) : State :=
  match s.copyPlace c va false with
  | .inl (_, some lf) => s.poisonEvent (some lf) (lf.pa va) (c.core / 192)
  | _ => s.poisonEvent none 0 (c.core / 192)

/-- Move a list of bytes until one fails. -/
def State.moveBytes (s : State) (c : Copy) (bad wrote : Bool) : Moves → State × Nat × Bool × Bool
  | [] => (s, 0, bad, wrote)
  | m :: ms =>
    match s.moveByte c m with
    | (t, 0, p) => (if p && !bad then t.copyPoison c m.2 else t).moveBytes c (bad || p) true ms
    | (t, k, _) => (t, k, bad, wrote)

/-- The stores of the command's instances that a narrow fence has let pass lie in what it reads: they are performed first (R240,
R319, R328). -/
def State.nearClear (s : State) (c : Copy) (ms : Moves) : Bool :=
  decide (c.kind = .tstore) || s.k.acc.all fun b => !s.nearTo b c.team c.core || ms.all fun m =>
    match s.copyPlace c m.2 false with
    | .inl (loc, _) => decide (loc < b.loc ∨ b.loc + b.size ≤ loc)
    | .inr _ => true

/-- Writes of the teams and engines that recall a line of the destination are performed (R287). -/
def State.recallsClear (s : State) (c : Copy) (ms : Moves) : Bool :=
  (linesOf (ms.map (·.1))).all fun va =>
    match s.copyPlace c va true with
    | .inl (_, some lf) => s.recallClear (c.agent (s.launch c.team).asid) lf va true
    | _ => true

/-- The next bytes may be moved. -/
def State.mayMove (s : State) (c : Copy) (ms : Moves) : Bool := s.recallsClear c ms && s.nearClear c ms

/-- The lines of the destination that recalls keep from the command are called for (R287, R440). -/
def State.callMoves (s : State) (c : Copy) (ms : Moves) : State :=
  (linesOf (ms.map (·.1))).foldl (fun (t : State) va =>
    match s.copyPlace c va true with
    | .inl (_, some lf) => t.callLine (c.agent (s.launch c.team).asid) lf va true
    | _ => t) s

/-! ### Completion (R240, R244) -/

/-- The status word (R244). -/
def copyStatus (stale breach part : Bool) (code : Nat) : Word :=
  BitVec.ofNat 32 (2 ^ 31 + (if stale then 2 ^ 30 else 0) + (if breach then 2 ^ 29 else 0) +
    (if part then 2 ^ 28 else 0) + code % 16)

/-- One arrival of a command: dropped when the word has moved on (R212). -/
def State.copyArrive (s : State) (team core : Nat) (x : Nat × Nat) : State × Bool :=
  let w := s.load x.1 4
  if barV w ∧ barInc w = x.2 ∧ 1 ≤ barPend w then ((s.squashBy none team core).store x.1 (barArrive w 1) 4, false)
  else (s.setCoreReg core 0x80 (bumpSat (s.coreReg core 0x80)), true)

/-- A command ends: arrivals, status, and the release of its tenure, all in one step (R240; log entry 79). PARTIAL tells that
it has written and ends with an error, POISON among them (R244; log entry 79). -/
def State.endCopy (s : State) (c : Copy) (code : Nat) : State :=
  let r := c.incs.foldl (fun (p : State × Bool) x =>
    let q := p.1.copyArrive c.team c.core x
    (q.1, p.2 || q.2)) (s, false)
  let breach := r.1.e.tens.any fun h => decide (h.holder = .copy c.id) && h.brch
  let w := copyStatus r.2 breach (c.wrote && decide (code ≠ 0)) code
  let t : State := match c.vs with
    | some v => c.slanes.foldl (fun (t : State) l => t.setV ⟨c.team, c.group, l⟩ v w) r.1
    | none => r.1
  { t with
    e.copies := t.e.copies.filter fun x => decide (x.id ≠ c.id)
    e.tens := t.e.tens.filter fun h => decide (h.holder ≠ .copy c.id)
    e.reqs := t.e.reqs.filter fun h => decide (h.holder ≠ .copy c.id) }

/-- The next bytes go to or come from another module, and their delivery limit has passed (R428). -/
def State.copyLate (s : State) (c : Copy) (ms : Moves) : Bool :=
  let away := fun (a : Nat) (write : Bool) => match s.copyPlace c a write with
    | .inl (_, some lf) => decide (s.devOf lf ≠ s.f.dev)
    | _ => false
  decide (c.moved + 2 ^ 24 ≤ s.u.clk) && match ms with
    | m :: _ => (decide (c.kind ≠ .tstore) && away m.2 false) || (decide (c.kind ≠ .tcpym) && away m.1 true)
    | [] => false

/-- COPY_COMPLETE (R240): a started command moves what is left and ends; with the event's flag it moves only the next
`n` words and goes on. A command that failed its checks ends at once, and with the event's value 2 one whose next bytes find no
response of another module within the delivery limit (R428). -/
def execCopyComplete (s : State) : Host.Outcome State Fault Refusal :=
  match s.copy? s.u.ev.id with
  | none => .next s
  | some c =>
    if c.phase = .waiting ∧ c.bad ≠ 0 then .next (s.endCopy c c.bad)
    else if c.phase ≠ .started then .next s
    else
      let all := c.steps
      let todo := all.drop c.done
      let now := (if s.u.ev.flag then todo.take s.u.ev.n else todo).flatten
      if s.u.ev.value = 2 then .next (if s.copyLate c todo.flatten then s.endCopy c 6 else s)
      else if !s.mayMove c now then .next (if s.recallsClear c now then s else s.callMoves c now)
      else
        let r := s.moveBytes c (c.code = 2) c.wrote now
        let code := if r.2.1 ≠ 0 then r.2.1 else if r.2.2.1 then 2 else 0
        let c' := { c with done := if s.u.ev.flag then c.done + s.u.ev.n else all.length, code := code, wrote := r.2.2.2
                           moved := s.u.clk }
        if s.u.ev.flag ∧ r.2.1 = 0 ∧ c'.done < all.length then .next (r.1.modCopy c.id fun _ => c')
        else .next (r.1.endCopy c' code)

end Sys2Proof.Machine
end

