-- ==== Sys2Proof/Machine/Rounds.lean ====
section
/-! DEFINITION. Arrival rounds: BAR and SETTLE.T of a team (R204, R314), GRIDSYNC and SETTLE.G of a grid (R345),
PODSYNC and SETTLE.P of a pod job (R429 to R431): who has arrived, completion, and the events of a pod
job's messages. -/

namespace Sys2Proof.Machine

/-- The kinds of rounds. -/
inductive Round where
  | bar (t : Nat)
  | settleT (t : Nat)
  | gridsync (g : Nat)
  | settleG (g : Nat)
  | podsync (j : Nat)
  | settleP (j : Nat)
  deriving DecidableEq, Repr

/-- The splits of a test wait no more: each is ready at its next unit. -/
def State.releasePark (s : State) (f : Split → Bool) : State :=
  { s with x.splits := s.x.splits.map fun p => if f p then { p with park := .run, waitFrom := none } else p }

/-- The participants of a pod job on this module that have started: its co-operative grids (R429). -/
def State.jobGrids (s : State) (j : PodJob) : List Grid :=
  s.x.grids.filter fun g => decide (g.launch.asid = j.asid) && g.launch.coop

/-- As many participants of a pod job as the registration names for this module have started; a retired one has no live
lanes (R429). -/
def State.jobStarted (s : State) (j : PodJob) : Bool :=
  decide ((j.devs.filter fun d => decide (d = s.f.dev)).length ≤ (s.jobGrids j).length)

/-- The round index of a pod job's round. -/
def Round.podIndex (r : Round) : Nat := match r with | .podsync _ => 0 | _ => 1

/-- A pod job of a number. -/
def State.job? (s : State) (n : Nat) : Option PodJob := s.f.jobs.find? fun j => decide (j.num = n)

/-- The pod job that a grid belongs to (R429, R430). -/
def State.jobOf (s : State) (g : Grid) : Option PodJob :=
  if g.launch.coop then s.f.jobs.find? fun j => decide (j.asid = g.launch.asid) else none

/-- The grid and the teams a round spans on this module. -/
def State.roundTeams (s : State) (r : Round) : List Nat :=
  match r with
  | .bar t | .settleT t => [t]
  | .gridsync g | .settleG g => (s.x.teams.filter fun t => decide (t.grid = g)).map (·.uid)
  | .podsync j | .settleP j =>
    match s.job? j with
    | some j =>
      let gs := (s.jobGrids j).filter fun g => !g.retired && !g.aborted
      (s.x.teams.filter fun t => gs.any fun g => decide (g.uid = t.grid)).map (·.uid)
    | none => []

/-- Is a split parked in a round? -/
def Round.parks (r : Round) (p : Split) : Bool :=
  match r, p.park with
  | .bar _, .bar _ => true
  | .gridsync _, .gridsync _ => true
  | .podsync _, .podsync _ => true
  | .settleT _, .settle 1 _ _ _ _ false => true
  | .settleG _, .settle 2 _ _ _ _ false => true
  | .settleP _, .settle 3 _ _ _ _ false => true
  | _, _ => false

/-- Only the copy, vector and general groups take part in a SETTLE round (R311). -/
def State.takesPart (s : State) (r : Round) (t g : Nat) : Bool :=
  match r with
  | .settleT _ | .settleG _ | .settleP _ => decide ((s.grp ⟨t, g⟩).role ≠ .matrix)
  | _ => true

/-- The splits waiting in a round. -/
def State.waiters (s : State) (r : Round) : List Split :=
  s.x.splits.filter fun p => decide (p.team ∈ s.roundTeams r) && r.parks p

/-- The live lanes that must arrive: team, group and lane. -/
def State.mustArrive (s : State) (r : Round) : List LaneId :=
  (s.roundTeams r).flatMap fun t => ((s.groups t).filter (s.takesPart r t)).flatMap fun g =>
    (s.liveLanes t g).map fun l => ⟨t, g, l⟩

/-- The lanes that have arrived. -/
def State.haveArrived (s : State) (r : Round) : List LaneId :=
  (s.waiters r).flatMap fun p => (s.active p).map fun l => ⟨p.team, p.group, l⟩

/-- Is any group of the team halted (R219)? -/
def State.teamHalted (s : State) (t : Nat) : Bool := (s.groups t).any fun g => (s.grp ⟨t, g⟩).halted

/-- Every live lane on this module has arrived, and no team of the round is halted (R204, R219). -/
def State.allHere (s : State) (r : Round) : Bool :=
  !(s.roundTeams r).any s.teamHalted &&
    (s.mustArrive r).all fun l => decide (l ∈ s.haveArrived r)

/-- Record a completed round as a synchronising event (R330). -/
def State.syncPoint (s : State) (ts : List Nat) : State :=
  { s with k.syncs := s.k.syncs ++ [(ts, s.u.seqNo)] }

/-- What the acquire of a round does to the module's copies of other modules' lines: PODSYNC's drops them (R333, R430); that of
SETTLE.P comes with its status (R312). -/
def State.roundAcquire (s : State) (r : Round) : State :=
  match r with
  | .podsync _ => s.dropAway
  | _ => s

/-- Complete a round: waiting splits become ready, SETTLE's go on to wait for records (R204, R311). -/
def State.complete (s : State) (r : Round) : State :=
  let ts := s.roundTeams r
  let s := (s.roundAcquire r).syncPoint ts
  let mine := fun (p : Split) => decide (p.team ∈ ts) && r.parks p
  let s :=
    { s with x.splits := s.x.splits.map fun p =>
        if mine p then
          match p.park with
          | .settle k vd ls _ pc _ => { p with park := .settle k vd ls s.u.seqNo pc true, waitFrom := none }
          | _ => { p with park := .run, waitFrom := none }
        else p }
  match r with
  | .bar t => s.modTeam t fun x => { x with barFrom := none }
  | .settleT t => s.modTeam t fun x => { x with settleFrom := none }
  | .gridsync g => s.modGrid g fun x => { x with syncFrom := none }
  | .settleG g => s.modGrid g fun x => { x with settleFrom := none }
  | .podsync j | .settleP j =>
    let k := match r with | .podsync _ => 0 | _ => 1
    { s with f.jobs := s.f.jobs.map fun (x : PodJob) =>
        if x.num = j then
          { x with from_ := x.from_.drop k, told := x.told.filter fun y => decide (y ≠ k),
                   arrived := x.arrived.filter fun y => decide (y.2 ≠ k)
                   settled := if k = 1 then [] else x.settled }
        else x }

/-- The leader of a job: its participant with the lowest device number (R429). -/
def PodJob.leader (j : PodJob) : Nat := j.devs.foldl min (j.devs.headD 0)

/-- What the lanes of a pod round did before it is performed, at pod scope too: their release is (R323, R430, R452). Records are
SETTLE's own affair (R311). -/
def State.podClear (s : State) (r : Round) : Bool := s.k.acc.all fun a => a.append || decide (a.lane.t ∉ s.roundTeams r)

/-- Someone has arrived in a round of a pod job. -/
def State.podOpen (s : State) (r : Round) (j : PodJob) : Bool :=
  !(s.waiters r).isEmpty || j.arrived.any fun x => decide (x.2 = r.podIndex)

/-- Complete a round if it is complete. A pod round completes at the leader when every other module has told it,
and elsewhere when the leader says so; what went before it on this module is then performed. -/
def State.checkRound (s : State) (r : Round) : State :=
  match r with
  | .podsync n | .settleP n =>
    match s.job? n with
    | none => s
    | some j =>
      let k := r.podIndex
      if !s.jobStarted j || !s.allHere r || !s.podClear r then s
      else if j.leader = s.f.dev then
        if s.podOpen r j && j.devs.all fun d => decide (d = s.f.dev ∨ (d, k) ∈ j.arrived) then s.complete r else s
      else
        { s with f.jobs := s.f.jobs.map fun (x : PodJob) =>
            if x.num = n then { x with told := (k :: x.told).eraseDups } else x }
  | _ => if (s.waiters r).isEmpty || !s.allHere r then s else s.complete r

/-- Complete what an event of a team completes. -/
def State.checkRounds (s : State) (t : Nat) : State :=
  let g := (s.team t).grid
  let s := (((s.checkRound (.bar t)).checkRound (.settleT t)).checkRound (.gridsync g)).checkRound (.settleG g)
  match s.jobOf (s.grid g) with
  | some j => (s.checkRound (.podsync j.num)).checkRound (.settleP j.num)
  | none => s

/-- The fault code of a wait in a round: INFO of BARRIER_STALL (R215, R314, R345, R430). -/
def Round.info : Round → Nat
  | .bar _ => 0
  | .settleT _ => 3
  | .settleG _ => 4
  | .settleP _ => 5
  | .gridsync _ => 6
  | .podsync _ => 7

/-- The unit a split waits in. -/
def Split.parkPc (p : Split) : Pc :=
  match p.park with
  | .bar q | .gridsync q | .podsync q => q
  | .settle _ _ _ _ q _ => q
  | _ => p.pc

/-- The clk of a round's first arrival. -/
def State.roundFrom (s : State) (r : Round) : Option Nat :=
  match r with
  | .bar t => (s.team t).barFrom
  | .settleT t => (s.team t).settleFrom
  | .gridsync g => (s.grid g).syncFrom
  | .settleG g => (s.grid g).settleFrom
  | .podsync j | .settleP j => match s.job? j with
    | some x => if x.from_.has r.podIndex then some (x.from_.look r.podIndex 0) else none
    | none => none

/-- A round is cleared: its arrivals and its clock. -/
def State.clearRound (s : State) (r : Round) : State :=
  match r with
  | .bar t => s.modTeam t fun x => { x with barFrom := none }
  | .settleT t => s.modTeam t fun x => { x with settleFrom := none }
  | .gridsync g => s.modGrid g fun x => { x with syncFrom := none }
  | .settleG g => s.modGrid g fun x => { x with settleFrom := none }
  | .podsync j | .settleP j =>
    let k := r.podIndex
    { s with f.jobs := s.f.jobs.map fun (x : PodJob) =>
        if x.num = j then
          { x with from_ := x.from_.drop k, told := x.told.filter fun y => decide (y ≠ k),
                   arrived := x.arrived.filter fun y => decide (y.2 ≠ k) }
        else x }

/-- A split is the first in issue order of the waiters of its group, so that with DBGEN it is the one that stops (R219). -/
def firstHere (ws : List Split) (p : Split) : Bool :=
  ws.all fun q => decide (q.team ≠ p.team ∨ q.group ≠ p.group) || p.ahead q

/-- A split that waited in a round stands before the unit again, which it has not issued (R219). -/
def State.unpark (s : State) (p : Split) : State :=
  s.modSplit p.sid fun x => { x with park := .run, pc := p.parkPc, waitFrom := none }

/-- Some waiting splits take a fault at the unit they wait in (R205, R430); with DBGEN one split of each group takes it and stops
the group, and the others halt before the unit (R219). -/
def State.failSplits (s : State) (ws : List Split) (f : FaultInfo) : State :=
  ws.foldl (fun t p =>
    if (s.team p.team).dbgen && !firstHere ws p then t.unpark p
    else t.takeFault p.sid { f with unitPc := p.parkPc } p.pc) s

/-- Every split waiting in a round takes a fault, and the round is cleared (R205, R430). -/
def State.failRound (s : State) (r : Round) (f : FaultInfo) : State := (s.clearRound r).failSplits (s.waiters r) f

/-- The smallest nonzero SYS_BARWATCH of a team with a split waiting in a round (R205, R314, R345, R430). -/
def State.roundLimit (s : State) (r : Round) : Option Nat :=
  let ws := ((s.waiters r).map fun p => (s.team p.team).barWatch.toNat).filter fun w => decide (w ≠ 0)
  match ws with
  | [] => none
  | w :: t => some (t.foldl min w)

/-- A round has lasted longer than its limit, and its clock runs. -/
def State.roundStalled (s : State) (r : Round) : Bool :=
  match s.roundFrom r, s.roundLimit r with
  | some c, some w => decide (c + w < s.u.clk) && !(s.roundTeams r).any fun t =>
      s.teamHalted t || decide ((s.team t).status ≠ .running)
  | _, _ => false

/-- A participant of a pod job that this module cannot reach (R430). -/
def State.lostPeer (s : State) (j : PodJob) : Option Nat := j.devs.find? fun d => !s.reachable d

/-- The splits that still need the other participants of a round: those that wait in it, and in SETTLE.P also those whose round is
complete and that wait for the others' records (R431). -/
def State.needPeers (s : State) (r : Round) : List Split :=
  s.waiters r ++ s.x.splits.filter fun p => decide (p.team ∈ s.roundTeams r) && match r, p.park with
    | .settleP _, .settle 3 _ _ _ _ true => true
    | _, _ => false

/-- With a participant's module unreachable, every split waiting in a round of the job takes FABRIC with cause 0,
and the round is cleared (R430, R431). -/
def State.failLost (s : State) (r : Round) : State :=
  match r with
  | .podsync n | .settleP n =>
    match s.job? n with
    | some j => match s.lostPeer j with
      | some d => (s.clearRound r).failSplits (s.needPeers r) { code := FABRIC, info := d % 512 }
      | none => s
    | none => s
  | _ => s

/-- The clk of a round's first arrival is noted (R205, R314, R345, R430). -/
def State.noteArrival (s : State) (r : Round) : State :=
  let c := s.u.clk
  match r with
  | .bar t => s.modTeam t fun x => { x with barFrom := some (x.barFrom.getD c) }
  | .settleT t => s.modTeam t fun x => { x with settleFrom := some (x.settleFrom.getD c) }
  | .gridsync g => s.modGrid g fun x => { x with syncFrom := some (x.syncFrom.getD c) }
  | .settleG g => s.modGrid g fun x => { x with settleFrom := some (x.settleFrom.getD c) }
  | .podsync j | .settleP j =>
    let k := r.podIndex
    { s with f.jobs := s.f.jobs.map fun (x : PodJob) =>
        if x.num = j ∧ !x.from_.has k then { x with from_ := x.from_.put k c } else x }

/-- The split under issue arrives and waits (R204); with a participant unreachable a pod round fails (R430). -/
def State.arriveAt (s : State) (r : Round) (park : Park) : State :=
  (((s.modSplit s.u.iss.sid fun p => { p with park := park }).noteArrival r).failLost r).checkRounds s.u.iss.team

/-- BAR (R204): every role may issue it. -/
def meanBar (s : State) : Meaning :=
  Meaning.mk { major := 0x15, legal := s.u.iss.modp.isNone && s.u.iss.immx.isNone, allRoles := true, cover := false }
    (fun t => .ok (t.arriveAt (.bar t.u.iss.team) (.bar t.u.iss.unitPc)))
/-- BAR: its issue unit, run. -/
def execBar (s : State) : Host.Outcome State Fault Refusal := (meanBar s).run s

/-- The grid of the unit under issue. -/
def State.myGrid (s : State) : Grid := s.grid (s.team s.u.iss.team).grid

/-- GRIDSYNC (R345): NOT_COOP in a grid without COOP. -/
def meanGridsync (s : State) : Meaning :=
  Meaning.mk { major := 0x15, legal := s.u.iss.modp.isNone && s.u.iss.immx.isNone, cover := false }
    (fun t =>
      if t.myGrid.launch.coop then
        .ok (t.arriveAt (.gridsync t.myGrid.uid) (.gridsync t.u.iss.unitPc))
      else .trap { code := NOT_COOP })
/-- GRIDSYNC: its issue unit, run. -/
def execGridsync (s : State) : Host.Outcome State Fault Refusal := (meanGridsync s).run s

/-- PODSYNC (R430): NOT_COOP in a grid that is not co-operative or belongs to no pod job; FABRIC with cause 0
when a participant's module is unreachable (State.arriveAt). -/
def meanPodsync (s : State) : Meaning :=
  Meaning.mk { major := 0x15, legal := s.u.iss.modp.isNone && s.u.iss.immx.isNone, cover := false }
    (fun t =>
      match t.jobOf t.myGrid with
      | some j => .ok (t.arriveAt (.podsync j.num) (.podsync t.u.iss.unitPc))
      | none => .trap { code := NOT_COOP })
/-- PODSYNC: its issue unit, run. -/
def execPodsync (s : State) : Host.Outcome State Fault Refusal := (meanPodsync s).run s

/-! ### Messages of pod jobs (R429) -/

/-- POD_JOB_REGISTER: the host registers a job with its ASID and the device number of each of its participants, M in all; a
module holds at most one job for each ASID. -/
def execPodJobRegister (s : State) : Host.Outcome State Fault Refusal :=
  let e := s.u.ev
  let m := e.list.length
  if e.id < 65536 ∧ e.value < 65536 ∧ 2 ≤ m ∧ m ≤ 512 ∧ s.f.dev ∈ e.list ∧
      s.f.jobs.all (fun j => decide (j.asid ≠ e.value ∧ j.num ≠ e.id)) then
    .next { s with f.jobs := s.f.jobs ++ [{ num := e.id, asid := e.value, devs := e.list }] }
  else .next s

/-- The round a message is about: `size` 0 PODSYNC, 1 SETTLE.P; 2 says that records are settled (R431). -/
def EventArg.podRound (e : EventArg) : Round := if e.size = 0 then .podsync e.id else .settleP e.id

/-- POD_ARRIVAL_MSG: the leader learns that every live lane of a module's participant has arrived, or that its
records are settled (R429, R431); of its own participants a module learns it without a message. -/
def execPodArrivalMsg (s : State) : Host.Outcome State Fault Refusal :=
  let e := s.u.ev
  match s.job? e.id with
  | none => .next s
  | some j =>
    if e.size = 2 then
      .next { s with f.jobs := s.f.jobs.map fun (x : PodJob) =>
        if x.num = j.num then { x with settled := (e.value :: x.settled).eraseDups } else x }
    else if e.value = s.f.dev then .next (s.checkRound e.podRound)
    else if j.leader = s.f.dev ∧ e.value ∈ j.devs then
      let t := { s with f.jobs := s.f.jobs.map fun (x : PodJob) =>
        if x.num = j.num then { x with arrived := ((e.value, min e.size 1) :: x.arrived).eraseDups } else x }
      .next (t.checkRound e.podRound)
    else .next s

/-- POD_COMPLETION_MSG: the leader's completion ends the round at a participant, or its wait for the others'
records (R429, R431). -/
def execPodCompletionMsg (s : State) : Host.Outcome State Fault Refusal :=
  let e := s.u.ev
  match s.job? e.id with
  | none => .next s
  | some j =>
    if e.size = 2 then
      .next { s with f.jobs := s.f.jobs.map fun (x : PodJob) =>
        if x.num = j.num then { x with settled := x.devs } else x }
    else if min e.size 1 ∈ j.told then .next (s.complete e.podRound) else .next s

end Sys2Proof.Machine
end

