-- ==== Sys2Proof/Machine/Debug.lean ====
section
/-! DEFINITION. Debugging (R219, R220): the events DEBUG_HALT, SINGLE_STEP, DEBUG_RESUME, DBGCTL_HOST_WRITE and
STEP_CANCEL, and the end of a single step. -/

namespace Sys2Proof.Machine

/-- The splits of a group in issue order. -/
def State.groupSplits (s : State) (g : GroupId) : List Split :=
  sortBy Split.ahead (s.x.splits.filter fun p => decide (p.team = g.t ∧ p.group = g.g))

/-- A stop that no fault causes is recorded as BREAKPOINT with INFO 0 (R219; log entry 28). -/
def State.recordStop (s : State) (p : Split) : State :=
  s.latchRec p (s.faultWords p { code := BREAKPOINT, unitPc := p.pc } false)

/-- Stop a group at a debugger's request: the stopped split is the first in issue order (R219). -/
def State.requestHalt (s : State) (g : GroupId) : State :=
  if (s.grp g).halted then s
  else
    let s := s.landTeamSfu g.t
    match s.groupSplits g with
    | p :: _ => (s.haltGroup g (some p.sid)).recordStop p
    | [] => s.haltGroup g none

/-- The groups of a team that run still halt, once the team's SFU results in flight have landed (R116, R219). -/
def State.haltTeam (s : State) (t : Nat) : State :=
  (s.groups t).foldl (fun u k => if (u.grp ⟨t, k⟩).halted then u else u.haltGroup ⟨t, k⟩ none) (s.landTeamSfu t)

/-- DEBUG_HALT (R219): a halt request for a group, or for the team with the event's flag or TEAMSTOP. -/
def execDebugHalt (s : State) : Host.Outcome State Fault Refusal :=
  match s.u.ev.list with
  | [t, g] =>
    let s1 := s.requestHalt ⟨t, g⟩
    .next (if s.u.ev.flag ∨ (s.team t).teamStop then s1.haltTeam t else s1)
  | _ => .next s

/-- SINGLE_STEP (R220): the stopped split of a halted group may issue one unit. -/
def execSingleStep (s : State) : Host.Outcome State Fault Refusal :=
  match s.split? s.u.ev.id with
  | none => .next s
  | some p =>
    let g : GroupId := ⟨p.team, p.group⟩
    if (s.grp g).halted ∧ (s.grp g).stopped = some p.sid then
      .next (s.modGrp g fun x => { x with stepping := true })
    else .next s

/-- A single step is complete: of the splits that hold the stepped split's slices, the one with the lowest active lane in those
slices is stopped, with TEAMSTOP the whole team halts, and a split that the step put to sleep wakes (R173, R219, R220). A unit
that takes a precise fault completes the step too, and the stop's record replaces the fault's (log entry 76). -/
def State.finishStep (s : State) (before : Split) : State :=
  let g : GroupId := ⟨before.team, before.group⟩
  if !(s.grp g).stepping then s
  else
    let heirs := s.x.splits.filter fun p =>
      decide (p.team = g.t ∧ p.group = g.g) && p.slices.any fun c => decide (c ∈ before.slices)
    let low := fun p => ((s.active p).filter fun l => decide (l / 4 ∈ before.slices)).foldl min 64
    match sortBy (fun p q => decide (low p ≤ low q)) heirs with
    | p :: _ => (s.stop p).recordStop p
    | [] =>
      let t := (s.landTeamSfu g.t).haltGroup g none
      if (s.team g.t).teamStop then t.haltTeam g.t else t

/-- DEBUG_RESUME (R219, R220): a halted group, or with the event's flag every group of the team, runs from its boundary;
arrivals that were held back count again. -/
def execDebugResume (s : State) : Host.Outcome State Fault Refusal :=
  match s.u.ev.list with
  | [t, g] =>
    let go := fun (u : State) k => u.modGrp ⟨t, k⟩ fun x => { x with halted := false, stopped := none, stepping := false }
    .next (((if s.u.ev.flag then s.groups t else [g]).foldl go s).checkRounds t)
  | _ => .next s

/-- DBGCTL_HOST_WRITE (R219): the host's debug agent writes a team's SYS_DBGCTL. -/
def execDbgctlHostWrite (s : State) : Host.Outcome State Fault Refusal :=
  .next (s.modTeam s.u.ev.id fun x => { x with dbgen := bit s.u.ev.value 0, teamStop := bit s.u.ev.value 1 })

/-- STEP_CANCEL (R220): a pending step of a split that waits in an unissued unit is given up; the group stays halted. -/
def execStepCancel (s : State) : Host.Outcome State Fault Refusal :=
  match s.split? s.u.ev.id with
  | none => .next s
  | some p => .next (s.modGrp ⟨p.team, p.group⟩ fun x =>
      if x.stopped = some p.sid then { x with stepping := false } else x)

end Sys2Proof.Machine
end

