-- ==== Sys2Proof/Machine/Defer.lean ====
section
/-! DEFINITION. Deferred stores and settlement: DST (R300 to R302), the way of a record through logs, bins and
clearing engines (R303 to R308, R379, R380), refusal notices (R318) and SETTLE (R310 to R315). -/

namespace Sys2Proof.Machine

/-! ### DST -/

/-- Width code and ALT of a DST's MODP in its record meaning (R300). -/
def State.dstMode (s : State) : Option (Nat × Bool) :=
  match s.u.iss.modp with
  | none => some (0, false)
  | some m =>
    let w := m.vc.toNat % 4
    if m.sat ∨ m.alt ∨ m.tc ∨ m.zi ∨ m.rnd ≠ 0 ∨ m.pack ≠ 0 ∨ 8 ≤ m.vc.toNat ∨ w = 2 then none
    else some (if w = 3 then 1 else if w = 1 then 2 else 0, bit m.vc.toNat 2)

/-- Width and ALT combinations that a minor allows (R301). -/
def dstOk (minor wid : Nat) (alt : Bool) : Bool :=
  match minor with
  | 0 | 5 | 6 => decide (wid ≠ 2) && !alt
  | 1 => !alt
  | 2 => !alt || decide (wid = 2)
  | 7 => decide (wid = 0) && !alt
  | _ => true

/-- The record's operator code (R301). -/
def dstOp (minor : Nat) (alt : Bool) : Nat :=
  if alt then (if minor = 2 then 8 else if minor = 3 then 9 else if minor = 4 then 10 else minor) else minor

/-- Width code and ALT of a DST, and the registers of its value (R300). -/
def State.dstWidth (s : State) : Nat := (s.dstMode.getD (0, false)).1
def State.dstAlt (s : State) : Bool := (s.dstMode.getD (0, false)).2
def State.dstRegs (s : State) : Nat := if s.dstWidth = 1 then 2 else 1

/-- What a DST of a minor accesses (R300 to R302). -/
def State.deferOp (s : State) (minor : Nat) (o : OpS) : MemOp :=
  { kind := .dst (dstOp minor s.dstAlt) s.dstWidth, size := 4 * s.dstRegs, va := o.va.toNat, off := o.off, ta := o.ta
    cnt := some o.cnt.toNat, dat := o.vd.toNat, datN := s.dstRegs, td := o.td, noWindow := true, noPriv := true }

/-- A DST of a minor (R300 to R302). -/
def dstUnit (minor : Nat) (o : OpS) (s : State) : Meaning :=
  memUnit 0x16 (s.deferOp minor o)
    (s.dstMode.isSome && dstOk minor s.dstWidth s.dstAlt && aligned o.vd.toNat s.dstRegs) s

/-- DST.STORE (R302). -/
def meanDstStore (o : OpS) (s : State) : Meaning := dstUnit 0 o s
/-- DSTSTORE: its issue unit, run. -/
def execDstStore (o : OpS) (s : State) : Host.Outcome State Fault Refusal := (meanDstStore o s).run s
/-- DST.ADD (R302). -/
def meanDstAdd (o : OpS) (s : State) : Meaning := dstUnit 1 o s
/-- DSTADD: its issue unit, run. -/
def execDstAdd (o : OpS) (s : State) : Host.Outcome State Fault Refusal := (meanDstAdd o s).run s
/-- DST.FADD (R302). -/
def meanDstFadd (o : OpS) (s : State) : Meaning := dstUnit 2 o s
/-- DSTFADD: its issue unit, run. -/
def execDstFadd (o : OpS) (s : State) : Host.Outcome State Fault Refusal := (meanDstFadd o s).run s
/-- DST.MIN (R302). -/
def meanDstMin (o : OpS) (s : State) : Meaning := dstUnit 3 o s
/-- DSTMIN: its issue unit, run. -/
def execDstMin (o : OpS) (s : State) : Host.Outcome State Fault Refusal := (meanDstMin o s).run s
/-- DST.MAX (R302). -/
def meanDstMax (o : OpS) (s : State) : Meaning := dstUnit 4 o s
/-- DSTMAX: its issue unit, run. -/
def execDstMax (o : OpS) (s : State) : Host.Outcome State Fault Refusal := (meanDstMax o s).run s
/-- DST.OR (R302). -/
def meanDstOr (o : OpS) (s : State) : Meaning := dstUnit 5 o s
/-- DSTOR: its issue unit, run. -/
def execDstOr (o : OpS) (s : State) : Host.Outcome State Fault Refusal := (meanDstOr o s).run s
/-- DST.AND (R302). -/
def meanDstAnd (o : OpS) (s : State) : Meaning := dstUnit 6 o s
/-- DSTAND: its issue unit, run. -/
def execDstAnd (o : OpS) (s : State) : Host.Outcome State Fault Refusal := (meanDstAnd o s).run s
/-- DST.APPEND (R316). -/
def meanDstAppend (o : OpS) (s : State) : Meaning := dstUnit 7 o s
/-- DSTAPPEND: its issue unit, run. -/
def execDstAppend (o : OpS) (s : State) : Host.Outcome State Fault Refusal := (meanDstAppend o s).run s

/-! ### Bins -/

/-- Two records merge (R298, R306). -/
def Rec.merges (a b : Rec) : Bool :=
  decide (a.pa = b.pa ∧ a.op = b.op ∧ a.wid = b.wid ∧ a.il = b.il ∧ a.key = b.key ∧ a.psize = b.psize ∧
    a.dev = b.dev ∧ a.op ≠ 7)

/-- A later record merged with an earlier one takes the later place and the later source (R306). -/
def Rec.merge (a b : Rec) : Rec :=
  { b with owners := a.owners ++ b.owners, val := recWord b.op b.wid a.val b.val, pkts := (a.pkts ++ b.pkts).eraseDups }

/-- A record joins a bin (R304, R306). -/
def Bin.join (b : Bin) (r : Rec) : Bin :=
  match b.recs.find? fun x => x.merges r with
  | some x => { b with recs := (b.recs.erase x) ++ [x.merge r] }
  | none => { b with recs := b.recs ++ [r] }

/-- Change one bin. -/
def State.modBin (s : State) (id : Nat) (f : Bin → Bin) : State :=
  { s with e.bins := s.e.bins.map fun b => if b.id = id then f b else b }

/-- The open bins of a test ship now (R305). -/
def State.shipIf (s : State) (f : Bin → Bool) : State :=
  { s with e.bins := s.e.bins.map fun b => if b.phase = .open_ ∧ f b then { b with phase := .shipped, sent := s.u.clk } else b }

/-- A full bin ships, and every bin at an age limit of 0 (R305). -/
def State.shipFull (s : State) (die : Nat) : State :=
  s.shipIf fun b => decide (b.die = die ∧ (128 ≤ b.recs.length ∨ s.dieReg die 0xC2 = 0))

/-- Route a record into a die's binning units (R304). -/
def State.binRecord (s : State) (die : Nat) (r : Rec) : State :=
  let away := decide (r.dev ≠ s.f.dev)
  let key := if away then r.dev else channelOf r.il r.pa
  let u := key % 8
  let isOpen := fun (b : Bin) => decide (b.die = die ∧ b.unit = u ∧ b.phase = .open_)
  let s :=
    match s.e.bins.find? fun b => isOpen b && decide (b.toDev = away ∧ b.key = key) with
    | some b => s.modBin b.id fun x => x.join r
    | none =>
      let s :=
        if (s.e.bins.filter isOpen).length < 1024 then s
        else match s.e.bins.find? isOpen with
          | some b => s.shipIf fun x => decide (x.id = b.id)
          | none => s
      let b : Bin := { id := s.u.uid, die := die, unit := u, toDev := away, key := key, from_ := s.f.dev,
                       recs := [r], opened := s.u.clk }
      { s with e.bins := s.e.bins ++ [b], u.uid := s.u.uid + 1 }
  s.shipFull die

/-- LOG_DRAIN (R303): the oldest record of a core's log drains into its die's binning units. -/
def execLogDrain (s : State) : Host.Outcome State Fault Refusal :=
  match s.e.log.find? fun r => decide (r.src = s.u.ev.id) with
  | none => .next s
  | some r =>
    let t : State := { s with e.log := s.e.log.erase r }
    .next (t.binRecord (r.src / 192) r)

/-- BIN_AGE_EXPIRY (R305): an open bin whose first record arrived SYS_BINAGE clk ago ships. -/
def execBinAgeExpiry (s : State) : Host.Outcome State Fault Refusal :=
  .next (s.shipIf fun b => decide (b.id = s.u.ev.id ∧ b.opened + (s.dieReg b.die 0xC2).toNat ≤ s.u.clk))

/-- The records of a bin from another module, six numbers each: word 0 and word 1 of R298, scheme, key, page
size, and the source die's core; `pkt` is the module and number of the packet. -/
def ingressRecs (dev : Nat) (pkt : Nat × Nat) : Nat → List Nat → List Rec
  | n + 1, w0 :: w1 :: il :: key :: psize :: core :: rest =>
    { src := core, dev := dev, pa := w0 % 2 ^ 40, op := w0 / 2 ^ 49 % 16, wid := w0 / 2 ^ 53 % 4, val := w1
      il := il % 8, key := key % 8192, psize := psize, pkts := [pkt] } :: ingressRecs dev pkt n rest
  | _, _ => []

/-- INGRESS_BIN (R305, R380): a bin from another module, which the event's value names, arrives as packet `n` at a die and is
binned afresh. -/
def execIngressBin (s : State) : Host.Outcome State Fault Refusal :=
  let rs := ingressRecs s.f.dev (s.u.ev.value, s.u.ev.n) 128 s.u.ev.list
  .next (rs.foldl (fun t r => t.binRecord (s.u.ev.id % 4) r) s)

/-! ### Applying records -/

/-- The row a record's word lies in (R379). -/
def Rec.row (r : Rec) : Nat := (ilMap r.il r.pa).2 / 1024

/-- A record is discarded: LOST is set for its lanes (R308, R391). -/
def State.discard (s : State) (r : Rec) : State :=
  r.owners.foldl (fun t o => t.modLan o.1 fun x => { x with lost := true }) s

/-- Apply one record at its home: at the MSC line if the MSC has it, otherwise in the open row; a poisoned word stays poisoned
(R299, R307, R308, R379). -/
def State.applyRec (s : State) (r : Rec) : State :=
  let loc := s.recLoc r r.pa
  let n := recBytes r.wid
  if r.dev = s.f.dev ∧ channelOf r.il r.pa ∈ s.m.retiredPc then s.discard r
  else
    let s := s.rekey loc r.pa r.key
    let here := s.k.msc.any fun m => decide (m.line = loc / 128 ∧ m.pa = r.pa / 128 * 128)
    let s := if here ∧ r.dev = s.f.dev then s.mscTouch loc r.pa r.key none true else s
    if r.op = 7 then s.applyAppend r
    else if s.poisoned loc n then s
    else (s.writeBack (loc / 128)).store loc (recWord r.op r.wid (s.load loc n) r.val) n

/-- The record an engine applies next (R379): the rest of a row it has opened, in bin order; otherwise the row of
the record that the event names. -/
def Bin.nextRec (b : Bin) (i : Nat) : Option Nat :=
  let todo := fun k => match b.recs[k]? with | some r => !r.applied | none => false
  let idx := List.range b.recs.length
  let row := fun k => ((b.recs[k]?).map Rec.row).getD 0
  let isDone := fun k => match b.recs[k]? with | some r => r.applied | none => false
  match idx.find? fun k => todo k && idx.any fun j => isDone j && decide (row j = row k) with
  | some k => some k
  | none => if todo i then idx.find? fun k => todo k && decide (row k = row i) else idx.find? todo

/-- A bin that is being applied: some of its records are. -/
def Bin.begun (b : Bin) : Bool := decide (b.phase = .shipped) && b.recs.any (·.applied)

/-- A shipped bin's turn at its pseudo-channel, or at its module's port (R379): bins of one binning unit and key arrive in the
order in which they were shipped, those of other dies in any order, and one bin is applied at a time. -/
def State.binTurn (s : State) (b : Bin) : Bool :=
  s.e.bins.all fun c =>
    !(decide (c.id ≠ b.id ∧ c.toDev = b.toDev ∧ c.key = b.key) &&
      (decide (c.die = b.die ∧ c.id < b.id ∧ c.phase = .shipped) || (!b.toDev && c.begun)))

/-- BIN_APPLY (R379): a clearing engine applies the next record of a shipped bin. A bin for a module that cannot be reached, or whose
acknowledgement does not come (the event's flag), is discarded after the delivery limit (R308, R428). -/
def execBinApply (s : State) : Host.Outcome State Fault Refusal :=
  match s.e.bins.find? fun b => decide (b.id = s.u.ev.id) with
  | none => .next s
  | some b =>
    if b.phase ≠ .shipped ∨ !s.binTurn b then .next s
    else if b.toDev ∧ (!s.reachable b.key || s.u.ev.flag) then
      if b.sent + 2 ^ 24 ≤ s.u.clk then
        .next ((b.recs.foldl (fun t r => t.discard r) s).modBin b.id fun x => { x with phase := .applied })
      else .next s
    else
      match b.nextRec (s.u.ev.list.headD 0) with
      | none => .next (s.modBin b.id fun x => { x with phase := .applied })
      | some k =>
        let t := match b.recs[k]? with | some r => s.applyRec r | none => s
        .next (t.modBin b.id fun x =>
          { x with recs := x.recs.modify k fun r => { r with applied := true } })

/-- The packets whose records one list of bins holds and another does not. -/
def packetsGone (old new : List Bin) : List (Nat × Nat) :=
  let of := fun (bs : List Bin) => (bs.flatMap fun b => b.recs.flatMap (·.pkts)).eraseDups
  (of old).filter fun k => decide (k ∉ of new)

/-- BIN_ACK (R380): the acknowledgement of a bin marks its records applied for SETTLE; once every bin that holds records of a
packet is acknowledged, the packet's acknowledgement goes to its source module. -/
def execBinAck (s : State) : Host.Outcome State Fault Refusal :=
  let left := s.e.bins.filter fun b => !decide (b.id = s.u.ev.id ∧ b.phase = .applied)
  .next { s with e.bins := left, f.acks := s.f.acks ++ packetsGone s.e.bins left }

/-- REFUSAL_NOTICE (R318): the lane's refusal count rises, stopping at 0xFFFF; a lane that no longer lives, or whose grid was
aborted, discards it (R315). -/
def execRefusalNotice (s : State) : Host.Outcome State Fault Refusal :=
  match s.e.notices[s.u.ev.id]? with
  | none => .next s
  | some n =>
    let t := { s with e.notices := s.e.notices.eraseIdx s.u.ev.id }
    if (s.team? n.lane.t).isSome ∧ !(s.grid (s.team n.lane.t).grid).aborted ∧ n.lane.l ∈ s.liveLanes n.lane.t n.lane.g then
      .next (t.modLan n.lane fun x =>
        { x with refused := min (x.refused + 1) 0xFFFF, rsat := x.rsat || decide (x.refused = 0xFFFF),
                 badq := x.badq || n.bad })
    else .next t

/-! ### SETTLE -/

/-- Is a lane's record or direct operation, issued before number n, still on its way (R311)? -/
def State.owes (s : State) (f : LaneId → Bool) (n : Nat) : Bool :=
  let mine := fun (r : Rec) => r.owners.any fun o => f o.1 && decide (o.2 < n)
  (s.k.acc.any fun a => f a.lane && decide (a.seq < n) &&
    (a.append || match a.kind with | .dst _ _ => true | _ => false)) ||
    s.e.log.any mine || (s.e.bins.any fun b => b.recs.any mine) || s.e.notices.any fun x => f x.lane

/-- Two grids are participants of one pod job (R429). -/
def State.sameJob (s : State) (g h : Nat) : Bool :=
  match s.jobOf (s.grid g) with
  | some j => (s.jobGrids j).any fun x => decide (x.uid = h)
  | none => false

/-- The lanes whose records a SETTLE of a split covers (R311): 0 `.L`, 1 `.T`, 2 `.G`, 3 `.P`, of which every participant of the
job on this module is. -/
def State.covers (s : State) (p : Split) (kind : Nat) (lanes : List Nat) (l : LaneId) : Bool :=
  match kind with
  | 0 => decide (l.t = p.team ∧ l.g = p.group ∧ l.l ∈ lanes)
  | 1 => decide (l.t = p.team)
  | 2 => decide ((s.team l.t).grid = (s.team p.team).grid)
  | _ => decide ((s.team l.t).grid = (s.team p.team).grid) || s.sameJob (s.team p.team).grid (s.team l.t).grid

/-- Every other participant of a pod job has had its records acknowledged (R431). -/
def State.podSettled (s : State) (p : Split) (kind : Nat) : Bool :=
  if kind ≠ 3 then true
  else match s.jobOf (s.grid (s.team p.team).grid) with
    | some j => j.devs.all fun d => decide (d = s.f.dev ∨ d ∈ j.settled)
    | none => true

/-- Open bins that hold a covered record of a waiting SETTLE ship (R305, R311). -/
def State.shipCovered (s : State) (p : Split) : State :=
  match p.park with
  | .settle k _ ls n _ true =>
    let has := fun (b : Bin) => b.recs.any fun r => r.owners.any fun o =>
      s.covers p k ls o.1 && decide (o.2 < n)
    s.shipIf has
  | _ => s

/-- The status word of a lane (R313). -/
def Lane.settleStatus (x : Lane) : Word :=
  BitVec.ofNat 32 (2 ^ 31 + (if x.rsat then 2 ^ 30 else 0) + (if x.lost then 2 ^ 29 else 0) +
    (if x.badq then 2 ^ 28 else 0) + x.refused % 2 ^ 16)

/-- Deliver a SETTLE's status: the refusal count and the flags are read and cleared (R313). -/
def State.settleDeliver (s : State) (l : LaneId) (vd : Nat) : State :=
  (s.setV l vd (s.lan l).settleStatus).modLan l fun x =>
    { x with refused := 0, rsat := false, lost := false, badq := false }

/-- SETTLE_COMPLETE (R311, R312): every covered record is applied and every notice has landed; the split
receives its status and is ready. `.P` also needs the other participants. -/
def execSettleComplete (s : State) : Host.Outcome State Fault Refusal :=
  match s.split? s.u.ev.id with
  | none => .next s
  | some p =>
    match p.park with
    | .settle k vd ls n _ true =>
      if s.owes (s.covers p k ls) n || !s.podSettled p k then .next s
      else
        let t := ls.foldl (fun t l => t.settleDeliver ⟨p.team, p.group, l⟩ vd) s
        let t := if k = 3 then t.dropAway else t
        .next (t.modSplit p.sid fun x => { x with park := .run })
    | _ => .next s

/-- Use of a SETTLE (R310). -/
def useSettle (o : OpD) (legal : Bool) : Use :=
  { major := 0x15, legal := legal, dests := [(o.vd.toNat, 1)], cover := false }

/-- SETTLE.L (R311): no arrival. Lanes masked off with zi receive zero. -/
def meanSettleL (o : OpD) (s : State) : Meaning :=
  Meaning.mk (useSettle o (s.maskOnly true && s.noImmx))
    (fun t =>
      let vd := o.vd.toNat
      let u := if t.zi then
        (t.act.filter fun l => !t.maskOk l).foldl (fun u l => u.setV (t.lane l) vd 0) t else t
      .ok (u.modSplit t.cur.sid fun p =>
        { p with park := .settle 0 vd t.elanes t.u.seqNo t.u.iss.unitPc true }))
/-- SETTLEL: its issue unit, run. -/
def execSettleL (o : OpD) (s : State) : Host.Outcome State Fault Refusal := (meanSettleL o s).run s

/-- SETTLE.T (R311, R314). -/
def meanSettleT (o : OpD) (s : State) : Meaning :=
  Meaning.mk (useSettle o s.bare)
    (fun t => .ok (t.arriveAt (.settleT t.u.iss.team)
      (.settle 1 o.vd.toNat t.act t.u.seqNo t.u.iss.unitPc false)))
/-- SETTLET: its issue unit, run. -/
def execSettleT (o : OpD) (s : State) : Host.Outcome State Fault Refusal := (meanSettleT o s).run s

/-- SETTLE.G (R311): NOT_COOP in a grid that is not co-operative (R314). -/
def meanSettleG (o : OpD) (s : State) : Meaning :=
  Meaning.mk (useSettle o s.bare)
    (fun t =>
      if t.myGrid.launch.coop then
        .ok (t.arriveAt (.settleG t.myGrid.uid) (.settle 2 o.vd.toNat t.act t.u.seqNo t.u.iss.unitPc false))
      else .trap { code := NOT_COOP })
/-- SETTLEG: its issue unit, run. -/
def execSettleG (o : OpD) (s : State) : Host.Outcome State Fault Refusal := (meanSettleG o s).run s

/-- SETTLE.P (R311, R431): NOT_COOP in a grid with no registered pod job (R314). -/
def meanSettleP (o : OpD) (s : State) : Meaning :=
  Meaning.mk (useSettle o s.bare)
    (fun t =>
      match t.jobOf t.myGrid with
      | some j => .ok (t.arriveAt (.settleP j.num)
          (.settle 3 o.vd.toNat t.act t.u.seqNo t.u.iss.unitPc false))
      | none => .trap { code := NOT_COOP })
/-- SETTLEP: its issue unit, run. -/
def execSettleP (o : OpD) (s : State) : Host.Outcome State Fault Refusal := (meanSettleP o s).run s

end Sys2Proof.Machine
end

