-- ==== Sys2Proof/Machine/Control.lean ====
section
/-! DEFINITION. What the dispatch controllers and the host do to memory: translation by a die (R358), reads and
writes at home, the stamp of sealed commands (R388), queue state records (R336) and the commands of a ring
(R337, R389). -/

namespace Sys2Proof.Machine

/-! ### Memory under a die's translation -/

/-- Translate for a die's controller or the host (R358, R360): with a cached translation the old entry or the new one. -/
def State.dieLeaf (s : State) (die asid va : Nat) : Option Leaf :=
  if 2 ^ 56 ≤ va then none
  else
    match s.k.tlb.find? fun t =>
      decide (t.at_ = .die die ∧ t.asid = asid ∧ t.leaf.va ≤ va ∧ va < t.leaf.va + t.leaf.size) with
    | some t => if s.choose 120 % 2 = 0 then some t.leaf else s.walk die asid va
    | none => s.walk die asid va

/-- A leaf that grants the access, or the code of the fault (R359). -/
def State.dieSeek (s : State) (die asid va : Nat) (write : Bool) : Leaf ⊕ Nat :=
  match s.dieLeaf die asid va with
  | none => .inr PAGE_FAULT
  | some lf => if (if write then lf.w else lf.r) then .inl lf else .inr ACCESS

/-- The access waits for no recall: what the holders of write tenure have issued to the line is performed (R287). -/
def State.unrecalled (s : State) (asid : Nat) (lf : Leaf) (va : Nat) (write : Bool) : Bool :=
  s.recallClear { asid := asid } lf va write

/-- The walk that a controller's or the host's translation needs, if its die's TLB lacks it (R358, R360, R377). -/
def State.dieWalks (s : State) (die asid va : Nat) : State :=
  if s.k.tlb.any fun t => decide (t.at_ = .die die ∧ t.asid = asid ∧ t.leaf.va ≤ va ∧ va < t.leaf.va + t.leaf.size) then s
  else { s with k.walks := s.k.walks ++ [(die, asid, va / 65536 * 65536)] }

/-- What an access by a controller or the host meets: its walk, and the home of its line (R257, R288, R360, R378, R381). -/
def State.dieTouch (s : State) (die asid : Nat) (lf : Leaf) (va : Nat) (write : Bool) : State :=
  (s.dieWalks die asid va).homeTouch { asid := asid } (192 * die) none lf va write

/-- A recall that holds back a controller's or the host's access is under way: its line is called for (R287, R440). -/
def State.dieCall (s : State) (asid : Nat) (lf : Leaf) (va : Nat) (write : Bool) : State :=
  s.callLine { asid := asid } lf va write

/-- A line of a page as an access under the page's key meets it (R381). -/
def State.keyed (s : State) (lf : Leaf) (va : Nat) : State :=
  if inHost (lf.pa va) then s else s.rekey (s.locOf lf (lf.pa va)) (lf.pa va) lf.key

/-- A line is stored under a page's key. -/
def State.keyFits (s : State) (lf : Leaf) (va : Nat) : Bool :=
  inHost (lf.pa va) || decide (s.keyAt (s.locOf lf (lf.pa va) / 128) = s.keyId (s.locOf lf (lf.pa va) / 128) lf.key)

/-- The bytes of a line under a page's key: another key decrypts what the old one encrypted (R381). -/
def State.lineUnder (s : State) (lf : Leaf) (va : Nat) : Nat :=
  let line := s.locOf lf (lf.pa va) / 128
  let v := s.load (128 * line) 128
  if s.keyFits lf va then v
  else Config.xtsDecrypt (s.keyId line lf.key) (lf.pa va / 128) (Config.xtsEncrypt (s.keyAt line) (lf.pa va / 128) v)

/-- Bytes at a virtual address, read at home under the page's key (R381, R382). -/
def State.peek (s : State) (lf : Leaf) (va n : Nat) : Nat :=
  let is := List.range (ceilDiv (va % 128 + n) 128)
  if is.all fun i => s.keyFits lf (va + 128 * i) then s.load (s.locOf lf (lf.pa va)) n
  else (is.map fun i => s.lineUnder lf (va + 128 * i) * 2 ^ (1024 * i)).sum / 2 ^ (8 * (va % 128)) % 2 ^ (8 * n)

/-- Bytes that cannot be read without poison: poisoned memory, a retired channel, or a read of host memory that ends in an error, a
free choice (R177, R376, R391; log entry 82). -/
def State.badRead (s : State) (lf : Leaf) (va n : Nat) : Bool :=
  s.poisoned (s.locOf lf (lf.pa va)) n || s.retiredAt lf (lf.pa va) || (inHost (lf.pa va) && decide (s.choose 123 % 2 = 1))

/-- Write the low `n` bytes of a value within one line, at its home; other copies of the line are dropped (R253,
R259, R261). A controller or host releases at system scope: no dirty line is left behind (R334). -/
def State.dieWrite (s : State) (die asid : Nat) (lf : Leaf) (va v n : Nat) : State :=
  let t := s.dieTouch die asid lf va true
  t.homeWrite lf (lf.pa va) (t.locOf lf (lf.pa va)) v n true

/-- A write by a kernel's instruction, or by a controller at device scope: hosts may still read the old bytes. A kernel's carries
the chain of its grid (R378), and is a write of its team's instances (R319). -/
def State.coreWrite (s : State) (ag : Agent) (die : Nat) (chain : Option (Nat × Nat)) (lf : Leaf) (va v n : Nat) : State :=
  let s := match ag.team, ag.core with
    | some t, some c => (s.squashBy none t c).missWalks c ag.asid [va]
    | _, _ => s.dieWalks die ag.asid va
  let t := s.homeTouch ag (ag.core.getD (192 * die)) chain lf va true
  t.homeWrite lf (lf.pa va) (t.locOf lf (lf.pa va)) v n false

/-- A value as `n` 32-bit words, the lowest first. -/
def wordsOf (v : Nat) : Nat → List Nat
  | 0 => []
  | n + 1 => v % 2 ^ 32 :: wordsOf (v / 2 ^ 32) n

/-! ### CRC-32C (R388) -/

/-- One bit of the reflected CRC with polynomial 0x1EDC_6F41. -/
def crcBit (c : Nat) : Nat := if c % 2 = 1 then (c / 2) ^^^ 0x82F63B78 else c / 2

/-- One byte. -/
def crcByte (c b : Nat) : Nat :=
  crcBit (crcBit (crcBit (crcBit (crcBit (crcBit (crcBit (crcBit (c ^^^ b))))))))

/-- `n` bytes of a number, the lowest first. -/
def crcBytes (c v : Nat) : Nat → Nat
  | 0 => c
  | n + 1 => crcBytes (crcByte c (v % 256)) (v / 256) n

/-- CRC-32C over 32-bit words, little-endian. -/
def crc32c (ws : List Nat) : Nat := (ws.foldl (fun c w => crcBytes c w 4) 0xFFFFFFFF) ^^^ 0xFFFFFFFF

/-! ### Queue state records (R336) -/

/-- A queue state record, and whether it is malformed. -/
structure QRec where
  ring : Nat
  en : Bool
  prio : Nat
  weight : Nat
  logn : Nat
  head : Nat
  tail : Nat
  asid : Nat
  err : Bool
  bad : Bool
  deriving DecidableEq, Repr

/-- The record of a queue. -/
def State.queueRec (s : State) (q : Nat) : QRec :=
  let a := s.queueLoc q
  let w := fun i => s.load (a + 4 * i) 4
  { ring := w 0 + 2 ^ 32 * w 1
    en := bit (w 2) 31
    prio := bits (w 2) 12 10
    weight := bits (w 2) 9 5
    logn := w 2 % 32
    head := w 3
    tail := w 4
    asid := w 5 / 2 ^ 16
    err := bit (w 5) 0
    bad := !decide (4 ≤ w 2 % 32 ∧ w 2 % 32 ≤ 16 ∧ w 0 % 4096 = 0 ∧ bits (w 2) 30 13 = 0 ∧ bits (w 5) 15 1 = 0 ∧
      s.load (a + 24) 40 = 0) }

/-- A controller or an instruction reads the record of a queue, which lies in device memory (R377). -/
def State.readQueue (s : State) (q : Nat) : State := s.physTouch (s.queuePa q) false

/-- Commands waiting in a queue. -/
def QRec.pend (r : QRec) : Nat := (r.tail + 2 ^ 32 - r.head) % 2 ^ 32

/-- Virtual address of the slot of a command number (R337). -/
def QRec.slot (r : QRec) (n : Nat) : Nat := r.ring + 64 * (n % 2 ^ r.logn)

/-- Set ERROR on a queue for a command that cannot be carried out (R337). -/
def State.queueFail (s : State) (q code info addr : Nat) : State :=
  s.queueError q (s.reportWords code addr info 0 (s.queueRec q).asid)

/-- The command at the head is consumed (R336). -/
def State.advance (s : State) (q : Nat) : State :=
  s.physStore (s.queuePa q + 12) ((s.queueRec q).head + 1) 4

/-! ### The command at a queue's head (R337, R389) -/

/-- What the controller finds at a queue's head: nothing to do now, an error, a sealed command whose stamp does not
match, or a command. -/
inductive Head where
  | idle
  | error (code info addr : Nat)
  | unsealed
  | cmd (op : Nat) (ws : List Nat)
  deriving DecidableEq, Repr

/-- Operand words that a command of an OP may use are in order; every other word is 0 (R337). -/
def cmdOk (op : Nat) (ws : List Nat) : Bool :=
  let w := fun i => ws.getD i 0
  let zero := fun lo => (ws.drop lo).all (decide <| · = 0)
  match op with
  | 0 => zero 2
  | 1 => decide (w 4 < 2) && zero 5
  | 2 => decide (bits (w 6) 30 11 = 0) && zero 7
  | 3 => zero 6
  | 4 => decide (w 2 < 2 ^ 18 ∧ w 3 = 0) && zero 8
  | 5 => decide (w 4 < 8) && zero 5
  | _ => false

/-- The stamp of a command's words under number n (R388). -/
def stampOf (n : Nat) (ws : List Nat) : Nat := crc32c (n :: ws.headD 0 :: ws.drop 2)

/-- The 16 words at the head of a queue as the controller reads them. -/
def State.headWords (s : State) (q : Nat) : Option (Leaf × List Nat) :=
  let r := s.queueRec q
  match s.dieSeek (q / 8192) r.asid (r.slot r.head) false with
  | .inl lf => some (lf, wordsOf (s.peek lf (r.slot r.head) 64) 16)
  | .inr _ => none

/-- What stands at the head of a queue (R337, R387, R389); a command that cannot be read sets ERROR (log entry 82). -/
def State.headOf (s : State) (q : Nat) : Head :=
  let r := s.queueRec q
  let va := r.slot r.head
  if !s.p.ready || decide (q / 8192 ∈ s.d.hold) || !r.en || r.err || decide (r.pend = 0) then .idle
  else if r.bad then .error TASK 1 0
  else
    match s.dieSeek (q / 8192) r.asid va false with
    | .inr code => .error code 0 va
    | .inl lf =>
      if !s.unrecalled r.asid lf va false then .idle
      else if s.badRead lf va 64 then .error POISON 0 va
      else
        let ws := wordsOf (s.peek lf va 64) 16
        let w0 := ws.headD 0
        if bit w0 31 && decide (stampOf r.head ws ≠ ws.getD 1 0) then .unsealed
        else if decide (bits w0 30 8 ≠ 0) || !cmdOk (w0 % 256) ws then .error TASK 2 0
        else .cmd (w0 % 256) ws

/-- The controller's read of a command touches the queue's record and the command's line. -/
def State.readHead (s : State) (q : Nat) : State :=
  let t := s.readQueue q
  match s.headWords q with
  | some (lf, _) => t.dieTouch (q / 8192) (s.queueRec q).asid lf ((s.queueRec q).slot (s.queueRec q).head) false
  | none => t

/-- SYS_SEALRETRY of a die (R386): the wait in clk, and the re-reads. -/
def State.sealDelay (s : State) (die : Nat) : Nat := bits (s.dieReg die 0xCD).toNat 23 8 * 64
def State.sealCount (s : State) (die : Nat) : Nat := (s.dieReg die 0xCD).toNat % 256

end Sys2Proof.Machine
end

