-- ==== Sys2Proof/Machine/Immed.lean ====
section
/-! DEFINITION. Major 0x05 IMMED (R98). -/

namespace Sys2Proof.Machine

/-- Use of an immediate instruction: no vc, IMMX allowed (R98). -/
def State.useI (s : State) (o : OpI) (al : Allow) (extra : Bool := true) : Use :=
  { major := 0x05
    legal := extra && al.ok s.u.iss.modp
    reads := [{ reg := o.va.toNat, trap := o.ta }]
    dests := [(o.vd.toNat, 1)] }

/-- Deliver a packed result computed from va element by element. -/
def State.deliverI (s : State) (o : OpI) (f : Nat → Nat → Nat) : Res :=
  .ok (s.deliverAll o.vd.toNat 1
    (s.perElem o.va.toNat o.va.toNat o.va.toNat fun w a _ _ => f w a))

/-- The immediate sign-extended to 32 bits, as bits. -/
def State.immBits (s : State) (imm : BitVec 8) : Nat := wrap 32 (s.immS imm)

/-- IADDI: the whole immediate is added exactly before the wrap or clamp (R98). -/
def meanIaddi (o : OpI) (s : State) : Meaning :=
  Meaning.mk (s.useI o { packs := packsNarrow, sat := true, alt := true } s.satAlt)
    (fun t => t.deliverI o fun w a => fitTo w t.sat t.alt (readInt w t.alt a + t.immS o.imm))
/-- IADDI: its issue unit, run. -/
def execIaddi (o : OpI) (s : State) : Host.Outcome State Fault Refusal := (meanIaddi o s).run s

/-- ANDI (R98). -/
def meanAndi (o : OpI) (s : State) : Meaning :=
  Meaning.mk (s.useI o {}) (fun t => t.deliverI o fun _ a => a &&& t.immBits o.imm)
/-- ANDI: its issue unit, run. -/
def execAndi (o : OpI) (s : State) : Host.Outcome State Fault Refusal := (meanAndi o s).run s

/-- ORI (R98). -/
def meanOri (o : OpI) (s : State) : Meaning :=
  Meaning.mk (s.useI o {}) (fun t => t.deliverI o fun _ a => a ||| t.immBits o.imm)
/-- ORI: its issue unit, run. -/
def execOri (o : OpI) (s : State) : Host.Outcome State Fault Refusal := (meanOri o s).run s

/-- XORI (R98). -/
def meanXori (o : OpI) (s : State) : Meaning :=
  Meaning.mk (s.useI o {}) (fun t => t.deliverI o fun _ a => a ^^^ t.immBits o.imm)
/-- XORI: its issue unit, run. -/
def execXori (o : OpI) (s : State) : Host.Outcome State Fault Refusal := (meanXori o s).run s

/-- SHLI: the amount is the low 8 bits of the immediate, for every element (R98). -/
def meanShli (o : OpI) (s : State) : Meaning :=
  Meaning.mk (s.useI o { packs := packsNarrow })
    (fun t => t.deliverI o fun w a => shlBits w a (t.immU o.imm % 256))
/-- SHLI: its issue unit, run. -/
def execShli (o : OpI) (s : State) : Host.Outcome State Fault Refusal := (meanShli o s).run s

/-- SHRI (R98). -/
def meanShri (o : OpI) (s : State) : Meaning :=
  Meaning.mk (s.useI o { packs := packsNarrow })
    (fun t => t.deliverI o fun w a => shrBits w a (t.immU o.imm % 256))
/-- SHRI: its issue unit, run. -/
def execShri (o : OpI) (s : State) : Host.Outcome State Fault Refusal := (meanShri o s).run s

/-- SARI (R98). -/
def meanSari (o : OpI) (s : State) : Meaning :=
  Meaning.mk (s.useI o { packs := packsNarrow })
    (fun t => t.deliverI o fun w a => sarBits w a (t.immU o.imm % 256))
/-- SARI: its issue unit, run. -/
def execSari (o : OpI) (s : State) : Host.Outcome State Fault Refusal := (meanSari o s).run s

/-- MOVI: reads no register (R51, R98). -/
def meanMovi (o : OpMovi) (s : State) : Meaning :=
  Meaning.mk
    { major := 0x05, legal := ({} : Allow).ok s.u.iss.modp && s.imm15Ok, dests := [(o.vd.toNat, 1)] }
    (fun t => .ok (t.deliverAll o.vd.toNat 1 fun _ => (t.imm15 o.imm o.lo).toNat))
/-- MOVI: its issue unit, run. -/
def execMovi (o : OpMovi) (s : State) : Host.Outcome State Fault Refusal := (meanMovi o s).run s

end Sys2Proof.Machine
end

