-- ==== Sys2Proof/Machine/Move.lean ====
section
/-! DEFINITION. Major 0x06 MOVE (R99 to R102). -/

namespace Sys2Proof.Machine

/-- MOV (R99): with vd = va an ordinary copy that checks its source. -/
def meanMov (o : OpA1) (s : State) : Meaning :=
  Meaning.mk (s.useA1 0x06 o { packs := packsWide }) (fun t => t.deliverA1 o fun _ a => a)
/-- MOV: its issue unit, run. -/
def execMov (o : OpA1) (s : State) : Host.Outcome State Fault Refusal := (meanMov o s).run s

/-- MOVHI: low half of va over the low half of vc (R99). -/
def meanMovhi (o : OpA1) (s : State) : Meaning :=
  Meaning.mk
    { major := 0x06
      legal := s.modpOk { vc := true }
      reads := [{ reg := o.va.toNat, trap := o.ta }, { reg := s.vc o.vd.toNat, trap := s.tc }]
      dests := [(o.vd.toNat, 1)] }
    (fun t => .ok (t.deliverAll o.vd.toNat 1 fun l =>
      (t.getV (t.lane l) o.va.toNat).toNat % 2 ^ 16 * 2 ^ 16 +
        (t.getV (t.lane l) (t.vc o.vd.toNat)).toNat % 2 ^ 16))
/-- MOVHI: its issue unit, run. -/
def execMovhi (o : OpA1) (s : State) : Host.Outcome State Fault Refusal := (meanMovhi o s).run s

/-- LEA: pair va plus the sign-extended (with alt zero-extended) vb (R99). -/
def meanLea (o : OpA) (s : State) : Meaning :=
  Meaning.mk
    { major := 0x06
      legal := s.modpOk { alt := true } && aligned o.va.toNat 2 && aligned o.vd.toNat 2
      reads := [{ reg := o.va.toNat, n := 2, trap := o.ta }, { reg := o.vb.toNat, trap := o.tb }]
      dests := [(o.vd.toNat, 2)] }
    (fun t => .ok (t.deliverAll o.vd.toNat 2 fun l =>
      wrap 64 ((t.getVs (t.lane l) o.va.toNat 2 : Int) +
        readInt 32 t.alt (t.getV (t.lane l) o.vb.toNat).toNat)))
/-- LEA: its issue unit, run. -/
def execLea (o : OpA) (s : State) : Host.Outcome State Fault Refusal := (meanLea o s).run s

/-- One element narrowed to w bits: clamped with sat, otherwise its low bits (R100). -/
def narrowTo (w : Nat) (sat unsigned : Bool) (x : Int) : Nat := fitTo w sat unsigned x

/-- PACK (R100): sources read as signed; with alt only the clamp is unsigned. -/
def meanPack (o : OpA) (s : State) : Meaning :=
  Meaning.mk
    { major := 0x06
      legal := s.modpOk { packs := packsNarrow, sat := true, alt := true } && s.satAlt
      reads := [{ reg := o.va.toNat, trap := o.ta }, { reg := o.vb.toNat, trap := o.tb }]
      dests := [(o.vd.toNat, 1)] }
    (fun t => .ok (t.deliverAll o.vd.toNat 1 fun l =>
      let a := (t.getV (t.lane l) o.va.toNat).toNat
      let b := (t.getV (t.lane l) o.vb.toNat).toNat
      if t.pack = 2 then
        joinElems 8 (fun e => narrowTo 8 t.sat t.alt (sext 16 (elem (if e < 2 then a else b) (e % 2) 16))) 4
      else joinElems 16 (fun e => narrowTo 16 t.sat t.alt (sext 32 (if e = 0 then a else b))) 2))
/-- PACK: its issue unit, run. -/
def execPack (o : OpA) (s : State) : Host.Outcome State Fault Refusal := (meanPack o s).run s

/-- UNPK (R100): sign-extends, or zero-extends with alt. -/
def meanUnpk (o : OpUnpk) (s : State) : Meaning :=
  Meaning.mk
    { major := 0x06
      legal := s.modpOk { packs := packsNarrow, alt := true }
      reads := [{ reg := o.va.toNat, trap := o.ta }]
      dests := [(o.vd.toNat, 1)] }
    (fun t => .ok (t.deliverAll o.vd.toNat 1 fun l =>
      let a := (t.getV (t.lane l) o.va.toNat).toNat
      let n := o.n.toNat
      if t.pack = 2 then joinElems 16 (fun e => wrap 16 (readInt 8 t.alt (elem a (2 * n + e) 8))) 2
      else wrap 32 (readInt 16 t.alt (elem a n 16))))
/-- UNPK: its issue unit, run. -/
def execUnpk (o : OpUnpk) (s : State) : Host.Outcome State Fault Refusal := (meanUnpk o s).run s

/-- One byte of PERM's result, selected by a 4-bit code (R101). -/
def permByte (a c code : Nat) : Nat :=
  if 8 ≤ code then 0 else elem (a + 2 ^ 32 * c) code 8

/-- PERM (R101). -/
def meanPerm (o : OpA) (s : State) : Meaning :=
  Meaning.mk (s.useA 0x06 o {} true)
    (fun t => t.deliverA o fun _ a b c => joinElems 8 (fun i => permByte a c (elem b i 4)) 4)
/-- PERM: its issue unit, run. -/
def execPerm (o : OpA) (s : State) : Host.Outcome State Fault Refusal := (meanPerm o s).run s

/-- The lane of number n in the slice of lane l (R101). -/
def sliceMate (l n : Nat) : Nat := l / 4 * 4 + n

/-- BCAST (R101): the selected lane of each executing slice is read, active or not. -/
def meanBcast (o : OpBcast) (s : State) : Meaning :=
  Meaning.mk
    { major := 0x06
      legal := s.modpOk { packs := packsWide } && s.pairOk o.va.toNat && s.pairOk o.vd.toNat
      reads := [{ reg := o.va.toNat, n := s.regsPer, trap := o.ta,
                  lanes := some (s.elanes.map fun l => sliceMate l o.n.toNat).eraseDups }]
      dests := [(o.vd.toNat, s.regsPer)] }
    (fun t => .ok (t.deliverAll o.vd.toNat t.regsPer fun l => t.opV (sliceMate l o.n.toNat) o.va.toNat))
/-- BCAST: its issue unit, run. -/
def execBcast (o : OpBcast) (s : State) : Host.Outcome State Fault Refusal := (meanBcast o s).run s

/-- VGET (R102): S register, lane in group, team lane number, lane in slice. -/
def meanVget (o : OpVget) (s : State) : Meaning :=
  Meaning.mk
    { major := 0x06
      legal := s.modpOk {} &&
        match o.sel.toNat with
        | 0 => decide (o.va.toNat < 64)
        | 1 => decide (o.va.toNat = 0)
        | 2 => decide (o.va.toNat = 0)
        | 3 => decide (o.va.toNat = 0)
        | _ => false
      dests := [(o.vd.toNat, 1)] }
    (fun t => .ok (t.deliverAll o.vd.toNat 1 fun l =>
      match o.sel.toNat with
      | 0 => (t.getS (t.slice (l / 4)) o.va.toNat).toNat
      | 1 => l
      | 2 => t.teamLane (t.lane l)
      | _ => l % 4))
/-- VGET: its issue unit, run. -/
def execVget (o : OpVget) (s : State) : Host.Outcome State Fault Refusal := (meanVget o s).run s

end Sys2Proof.Machine
end

