-- ==== Sys2Proof/Machine/Scalar.lean ====
section
/-! DEFINITION. Majors 0x07 SARITH and 0x08 SMISC: scalar instructions, executed once in each slice of the split
on its own S registers (R83, R103 to R105). -/

namespace Sys2Proof.Machine

/-- Use of a scalar instruction: no prefix but an IMMX where `imm`, never covered (R63, R103). -/
def State.useScalar (s : State) (major : Nat) (imm : Bool := false) (extra : Bool := true) : Use :=
  { major := major, legal := extra && s.u.iss.modp.isNone && (imm || s.noImmx), cover := false }

/-- Write Sd in every slice of the split from that slice's own copies. -/
def State.eachSlice (s : State) (sd : Nat) (f : SliceId → Word) : Res :=
  .ok (s.slices.foldl (fun t c => t.setS c sd (f c)) s)

/-- Sa and Sb of a slice combined (R103). -/
def State.scalar2 (s : State) (o : OpX) (f : Word → Word → Word) : Res :=
  s.eachSlice o.sd.toNat fun c => f (s.getS c o.sa.toNat) (s.getS c o.sb.toNat)

/-- SADD (R103). -/
def meanSadd (o : OpX) (s : State) : Meaning :=
  Meaning.mk (s.useScalar 0x07) (fun t => t.scalar2 o fun a b => a + b)
/-- SADD: its issue unit, run. -/
def execSadd (o : OpX) (s : State) : Host.Outcome State Fault Refusal := (meanSadd o s).run s
/-- SSUB (R103). -/
def meanSsub (o : OpX) (s : State) : Meaning :=
  Meaning.mk (s.useScalar 0x07) (fun t => t.scalar2 o fun a b => a - b)
/-- SSUB: its issue unit, run. -/
def execSsub (o : OpX) (s : State) : Host.Outcome State Fault Refusal := (meanSsub o s).run s
/-- SMUL (R103). -/
def meanSmul (o : OpX) (s : State) : Meaning :=
  Meaning.mk (s.useScalar 0x07) (fun t => t.scalar2 o fun a b => a * b)
/-- SMUL: its issue unit, run. -/
def execSmul (o : OpX) (s : State) : Host.Outcome State Fault Refusal := (meanSmul o s).run s
/-- SAND (R103). -/
def meanSand (o : OpX) (s : State) : Meaning :=
  Meaning.mk (s.useScalar 0x07) (fun t => t.scalar2 o fun a b => a &&& b)
/-- SAND: its issue unit, run. -/
def execSand (o : OpX) (s : State) : Host.Outcome State Fault Refusal := (meanSand o s).run s
/-- SOR (R103). -/
def meanSor (o : OpX) (s : State) : Meaning :=
  Meaning.mk (s.useScalar 0x07) (fun t => t.scalar2 o fun a b => a ||| b)
/-- SOR: its issue unit, run. -/
def execSor (o : OpX) (s : State) : Host.Outcome State Fault Refusal := (meanSor o s).run s
/-- SXOR (R103). -/
def meanSxor (o : OpX) (s : State) : Meaning :=
  Meaning.mk (s.useScalar 0x07) (fun t => t.scalar2 o fun a b => a ^^^ b)
/-- SXOR: its issue unit, run. -/
def execSxor (o : OpX) (s : State) : Host.Outcome State Fault Refusal := (meanSxor o s).run s
/-- SSHL (R103, R92). -/
def meanSshl (o : OpX) (s : State) : Meaning :=
  Meaning.mk (s.useScalar 0x07)
    (fun t => t.scalar2 o fun a b => BitVec.ofNat 32 (shlBits 32 a.toNat (b.toNat % 256)))
/-- SSHL: its issue unit, run. -/
def execSshl (o : OpX) (s : State) : Host.Outcome State Fault Refusal := (meanSshl o s).run s
/-- SSHR (R103, R92). -/
def meanSshr (o : OpX) (s : State) : Meaning :=
  Meaning.mk (s.useScalar 0x07)
    (fun t => t.scalar2 o fun a b => BitVec.ofNat 32 (shrBits 32 a.toNat (b.toNat % 256)))
/-- SSHR: its issue unit, run. -/
def execSshr (o : OpX) (s : State) : Host.Outcome State Fault Refusal := (meanSshr o s).run s
/-- SADDI (R104). -/
def meanSaddi (o : OpXI) (s : State) : Meaning :=
  Meaning.mk (s.useScalar 0x08 true)
    (fun t => t.eachSlice o.sd.toNat fun c => t.getS c o.sa.toNat + BitVec.ofInt 32 (t.immS o.imm))
/-- SADDI: its issue unit, run. -/
def execSaddi (o : OpXI) (s : State) : Host.Outcome State Fault Refusal := (meanSaddi o s).run s
/-- SMOVI (R104). -/
def meanSmovi (o : OpSmovi) (s : State) : Meaning :=
  Meaning.mk (s.useScalar 0x08 true s.imm15Ok)
    (fun t => t.eachSlice o.sd.toNat fun _ => t.imm15 o.imm o.lo)
/-- SMOVI: its issue unit, run. -/
def execSmovi (o : OpSmovi) (s : State) : Host.Outcome State Fault Refusal := (meanSmovi o s).run s
/-- SCMP: −1, 0 or +1 by the signed order (R104). -/
def meanScmp (o : OpX) (s : State) : Meaning :=
  Meaning.mk (s.useScalar 0x08)
    (fun t => t.scalar2 o fun a b => if a.toInt < b.toInt then -1 else if a = b then 0 else 1)
/-- SCMP: its issue unit, run. -/
def execScmp (o : OpX) (s : State) : Host.Outcome State Fault Refusal := (meanScmp o s).run s
/-- SMOV (R104). -/
def meanSmov (o : OpX1) (s : State) : Meaning :=
  Meaning.mk (s.useScalar 0x08) (fun t => t.eachSlice o.sd.toNat fun c => t.getS c o.sa.toNat)
/-- SMOV: its issue unit, run. -/
def execSmov (o : OpX1) (s : State) : Host.Outcome State Fault Refusal := (meanSmov o s).run s
/-- The lane VPUT reads in a slice: lane-in-slice n, or the lowest active lane when n = 4 (R104). -/
def State.vputLane (s : State) (n c : Nat) : Nat :=
  if n = 4 then (s.sliceLanes s.u.iss.team s.u.iss.group c).headD (4 * c) else 4 * c + n
/-- VPUT (R104): reads the V register of one lane of each slice (R82). -/
def meanVput (o : OpVput) (s : State) : Meaning :=
  Meaning.mk
    { s.useScalar 0x08 false (decide (o.n.toNat ≤ 4)) with
      reads := [{ reg := o.va.toNat, trap := o.ta,
                  lanes := some (s.cur.slices.map fun c => s.vputLane o.n.toNat c) }] }
    (fun t => t.eachSlice o.sd.toNat fun c => t.getV (t.lane (t.vputLane o.n.toNat c.s)) o.va.toNat)
/-- VPUT: its issue unit, run. -/
def execVput (o : OpVput) (s : State) : Host.Outcome State Fault Refusal := (meanVput o s).run s
/-- SMOVHI: the immediate, below 65536, over the low half of Sa (R104). -/
def meanSmovhi (o : OpXI) (s : State) : Meaning :=
  Meaning.mk (s.useScalar 0x08 true (decide (s.immU o.imm < 65536)))
    (fun t => t.eachSlice o.sd.toNat fun c =>
      BitVec.ofNat 32 (t.immU o.imm * 2 ^ 16 + (t.getS c o.sa.toNat).toNat % 2 ^ 16))
/-- SMOVHI: its issue unit, run. -/
def execSmovhi (o : OpXI) (s : State) : Host.Outcome State Fault Refusal := (meanSmovhi o s).run s
/-- SSAR (R104, R92). -/
def meanSsar (o : OpX) (s : State) : Meaning :=
  Meaning.mk (s.useScalar 0x08)
    (fun t => t.scalar2 o fun a b => BitVec.ofNat 32 (sarBits 32 a.toNat (b.toNat % 256)))
/-- SSAR: its issue unit, run. -/
def execSsar (o : OpX) (s : State) : Host.Outcome State Fault Refusal := (meanSsar o s).run s
/-- SSEL: Sa if the old Sd is not 0, otherwise Sb (R104). -/
def meanSsel (o : OpX) (s : State) : Meaning :=
  Meaning.mk (s.useScalar 0x08)
    (fun t => t.eachSlice o.sd.toNat fun c =>
      if t.getS c o.sd.toNat ≠ 0 then t.getS c o.sa.toNat else t.getS c o.sb.toNat)
/-- SSEL: its issue unit, run. -/
def execSsel (o : OpX) (s : State) : Host.Outcome State Fault Refusal := (meanSsel o s).run s

end Sys2Proof.Machine
end

