-- ==== Sys2Proof/Machine/Flow.lean ====
section
/-! DEFINITION. Major 0x0E FLOW: branches, divergence, REGANG and fusion, exit (R131 to R144). -/

namespace Sys2Proof.Machine

/-! ### Divergence (R133, R134) -/

/-- The smallest token that no frame of a live split of the group holds (R132; log entry 57). -/
def State.freshToken (s : State) (t g : Nat) : Nat :=
  let used := (s.x.splits.filter fun p => decide (p.team = t ∧ p.group = g)).flatMap fun p =>
    p.frames.map (·.token)
  ((List.range (used.length + 1)).find? fun n => decide (n ∉ used)).getD 0

/-- The outcomes of a slice's active lanes in ascending lane order, each with its lanes as a mask. -/
def State.paths (s : State) (c : Nat) (out : Nat → Pc) : List (Pc × BitVec 4) :=
  let ls := s.sliceLanes s.u.iss.team s.u.iss.group c
  (ls.map out).eraseDups.map fun q =>
    (q, ls.foldl (fun m l => if out l = q then m ||| BitVec.ofNat 4 (2 ^ (l % 4)) else m) 0)

/-- The path a diverging slice goes on with: the fall-through path of a BRA or CALL if the slice has one,
otherwise the path of its lowest active lane (R134). -/
def firstPath (fall : Option Pc) (ps : List (Pc × BitVec 4)) : Pc × BitVec 4 :=
  match fall with
  | some q => (ps.find? fun p => p.1 == q).getD (ps.headD (q, 0))
  | none => ps.headD (0, 0)

/-- Push a slice's entries at a divergence: the join entry, then the other paths so that the one with the
lowest lane is on top (R134). -/
def Slice.diverge (c : Slice) (j : Pc) (ps : List (Pc × BitVec 4)) (first : Pc × BitVec 4) : Slice :=
  let others := (ps.filter fun p => p.1 != first.1).map fun p =>
    { pc := p.1, mask := p.2, join := j, fcopy := c.f, isJoin := false : StackEntry }
  { c with
    stack := others ++ { pc := j, mask := c.mask, join := j, fcopy := c.f, isJoin := true } :: c.stack
    mask := first.2 }

/-- The effect of a branch on the split under issue (R133, R134): `out` is each active lane's next PC, `j` the
join address, none for a uniform branch, `fall` the fall-through of a BRA or CALL. -/
def State.branch (s : State) (out : Nat → Pc) (j : Option Pc) (fall : Option Pc) : Res :=
  let p := s.cur
  match (s.act.map out).eraseDups with
  | [] => .ok s
  | [q] => .ok (s.modSplit p.sid fun x => { x with pc := q })
  | _ =>
    match j with
    | none => .trap { code := DIVERGE }
    | some j =>
      if p.slices.any fun c =>
          decide (16 < (s.slc (s.slice c)).stack.length + max 1 (s.paths c out).length) then
        .trap { code := STACK }
      else
        let tok := s.freshToken p.team p.group
        let next := fun c => (firstPath fall (s.paths c out)).1
        let s1 := p.slices.foldl (fun t c =>
          t.modSlc (s.slice c) fun x => x.diverge j (s.paths c out) (firstPath fall (s.paths c out))) s
        .ok (s1.divide p.sid next fun x => { x with frames := { join := j, token := tok } :: x.frames })

/-- Join address of a format B word, with its IMMX extension; none when the combined offset is 0 (R53,
R65, R133). -/
def State.joinB (s : State) (o : OpB) : Option Pc :=
  let n := match s.u.iss.immx with | some p => p / 2 ^ 16 * 2 ^ 8 + o.join.toNat | none => o.join.toNat
  if n = 0 then none else some (s.u.iss.wordPc + BitVec.ofNat 56 (2 * n))

/-- Target of a format B word (R53, R65). -/
def State.targetB (s : State) (o : OpB) : Pc :=
  let n := match s.u.iss.immx with
    | some p => sext 26 (p % 2 ^ 16 * 2 ^ 10 + o.target.toNat)
    | none => sext 10 o.target.toNat
  s.u.iss.wordPc + BitVec.ofInt 56 (2 * n)

/-- Does a BRA or CALL take lane l (R142)? -/
def State.takesB (s : State) (o : OpB) (l : Nat) : Bool :=
  maskBit (s.getM (s.slice (l / 4)) o.mreg.toNat) (l % 4) != o.sense

/-- Each lane's outcome at a BRA or CALL (R142). -/
def State.outB (s : State) (o : OpB) (l : Nat) : Pc :=
  if s.takesB o l then s.targetB o else s.u.iss.nextPc

/-- Join address of BRAI and CALLI: IMMX extends the join, zero-extended (R141). -/
def State.joinBI (s : State) (o : OpBI) : Option Pc :=
  let n := s.immU o.join
  if n = 0 then none else some (s.u.iss.wordPc + BitVec.ofNat 56 (2 * n))

/-- Each lane's outcome at a BRAI or CALLI: bits 55:0 of its pair (R142). -/
def State.outBI (s : State) (o : OpBI) (l : Nat) : Pc :=
  BitVec.ofNat 56 (s.getVs (s.lane l) o.va.toNat 2)

/-- The lanes whose indirect target is odd raise MISALIGN (R142), with INFO 0 (log entry 64). -/
def State.oddTargets (s : State) (o : OpBI) : Option FaultInfo :=
  match s.act.filter fun l => (s.outBI o l).getLsbD 0 with
  | [] => none
  | l :: ls => some { code := MISALIGN, lanes := some (l :: ls), addr := (s.outBI o l).toNat }

/-- Write the link, the address of the next unit, to S62 and S63 of every slice (R143). -/
def State.link (s : State) : State :=
  (s.setSAll 62 (BitVec.ofNat 32 s.u.iss.nextPc.toNat)).setSAll 63
    (BitVec.ofNat 32 (s.u.iss.nextPc.toNat / 2 ^ 32))

/-- Use of a format B branch. -/
def State.useB (s : State) : Use := { major := 0x0E, legal := s.u.iss.modp.isNone, cover := false }

/-- Use of an indirect branch: the pair is a checked read of every active lane (R142). -/
def State.useBI (s : State) (o : OpBI) : Use :=
  { major := 0x0E, legal := s.u.iss.modp.isNone && aligned o.va.toNat 2, cover := false
    reads := [{ reg := o.va.toNat, n := 2, trap := o.ta, lanes := some s.act }] }

/-- Use of a FLOW instruction without operands. -/
def State.useFlow (s : State) : Use := { major := 0x0E, legal := s.bare, cover := false }

/-- BRA (R142). -/
def meanBra (o : OpB) (s : State) : Meaning :=
  Meaning.mk s.useB (fun t => t.branch (t.outB o) (t.joinB o) (some t.u.iss.nextPc))
/-- BRA: its issue unit, run. -/
def execBra (o : OpB) (s : State) : Host.Outcome State Fault Refusal := (meanBra o s).run s

/-- BRAI (R142). -/
def meanBrai (o : OpBI) (s : State) : Meaning :=
  Meaning.mk (s.useBI o)
    (fun t =>
      match t.oddTargets o with
      | some f => .trap f
      | none => t.branch (t.outBI o) (t.joinBI o) none)
/-- BRAI: its issue unit, run. -/
def execBrai (o : OpBI) (s : State) : Host.Outcome State Fault Refusal := (meanBrai o s).run s

/-- CALL: a BRA that writes the link (R143). -/
def meanCall (o : OpB) (s : State) : Meaning :=
  Meaning.mk s.useB (fun t => t.link.branch (t.outB o) (t.joinB o) (some t.u.iss.nextPc))
/-- CALL: its issue unit, run. -/
def execCall (o : OpB) (s : State) : Host.Outcome State Fault Refusal := (meanCall o s).run s

/-- CALLI: a BRAI that writes the link (R143). -/
def meanCalli (o : OpBI) (s : State) : Meaning :=
  Meaning.mk (s.useBI o)
    (fun t =>
      match t.oddTargets o with
      | some f => .trap f
      | none => t.link.branch (t.outBI o) (t.joinBI o) none)
/-- CALLI: its issue unit, run. -/
def execCalli (o : OpBI) (s : State) : Host.Outcome State Fault Refusal := (meanCalli o s).run s

/-- The link of a slice: bits 31:24 of S63 are ignored (R143). -/
def State.linkOf (s : State) (c : Nat) : Pc := BitVec.ofNat 56 (s.getSPair (s.slice c) 62)

/-- RET: each slice goes to its own link (R143). -/
def meanRet (s : State) : Meaning :=
  Meaning.mk s.useFlow
    (fun t =>
      match t.cur.slices.filter fun c => (t.linkOf c).getLsbD 0 with
      | [] => .ok (t.divide t.cur.sid t.linkOf id)
      | c :: cs => .trap
          { code := MISALIGN, addr := (t.linkOf c).toNat,
            lanes := some ((c :: cs).flatMap fun c => t.sliceLanes t.u.iss.team t.u.iss.group c) })
/-- RET: its issue unit, run. -/
def execRet (s : State) : Host.Outcome State Fault Refusal := (meanRet s).run s

/-! ### REGANG and fusion (R135, R136, R138) -/

/-- A slice at its join J (R135): it leaves for a deferred path, whose PC is given, or has arrived. -/
def Slice.atJoin (c : Slice) (j : Pc) : Slice × Option Pc :=
  go c c.stack
where
  /-- Examine the entries from the top. -/
  go (c : Slice) : List StackEntry → Slice × Option Pc
    | [] => ({ c with stack := [] }, none)
    | e :: es =>
      if e.isJoin || e.join != j then ({ c with stack := e :: es }, none)
      else if e.mask = 0 then go c es
      else
        let c := { c with mask := e.mask, f := e.fcopy }
        if e.pc != j then ({ c with stack := es }, some e.pc) else go c es

/-- Drop splits without slices (R138). -/
def State.freeSplits (s : State) : State :=
  { s with x.splits := s.x.splits.filter fun p => !p.slices.isEmpty }

/-- Put slices into a split of a group: the parked split of the token if there is one, otherwise a split of
their own made from `p`, which takes over p's entry when p has no slices left (log entry 57). -/
def State.place (s : State) (p : Split) : State :=
  match s.split? p.sid with
  | some q =>
    if q.slices.isEmpty then s.modSplit p.sid fun _ => p else s.addSplit { p with late := [], slices := p.slices }
  | none => s.addSplit p

/-- Slices `cs` of a split act as at a REGANG at its innermost JOIN (R135): those that leave form splits by
PC; those that arrived join the parked split of the frame's token, or form it. A split that ends there leaves what it issued to the
parked one. -/
def State.arrive (s : State) (sid : Nat) (cs : List Nat) : State :=
  match s.split? sid with
  | none => s
  | some p =>
    match p.frames with
    | [] => s
    | fr :: _ =>
      let at_ := fun c => (s.slc ⟨p.team, p.group, c⟩).atJoin fr.join
      let s1 := cs.foldl (fun t c => t.setSlc ⟨p.team, p.group, c⟩ (at_ c).1) s
      let s2 := s1.modSplit sid fun x => { x with slices := x.slices.filter fun c => decide (c ∉ cs) }
      let arrived := cs.filter fun c => (at_ c).2.isNone
      let leave := (cs.filterMap fun c => (at_ c).2).eraseDups
      let s3 := leave.foldl (fun t q =>
        t.place { p with pc := q, wait := false, slices := cs.filter fun c => (at_ c).2 = some q }) s2
      let parked := s3.x.splits.find? fun q =>
        decide (q.team = p.team ∧ q.group = p.group ∧ q.wait = true ∧ q.sid ≠ sid) &&
          decide (q.frames.head? = some fr)
      let s4 :=
        if arrived.isEmpty then s3
        else
          match parked with
          | some q => s3.modSplit q.sid fun x =>
              { x with slices := sortBy (fun a b => decide (a ≤ b)) (x.slices ++ arrived), age := min x.age p.age,
                       late := x.late ++ p.late, fences := x.fences ++ p.fences }
          | none => s3.place { p with pc := fr.join, wait := true, slices := arrived }
      let s5 := match parked, s4.split? sid with
        | some q, some x => if x.slices.isEmpty ∧ !arrived.isEmpty then s4.mergeNames sid q.sid else s4
        | _, _ => s4
      s5.freeSplits

/-- A parked split whose token nobody else carries (R136). -/
def State.fusable (s : State) (t g : Nat) : Option Split :=
  s.x.splits.find? fun p =>
    decide (p.team = t ∧ p.group = g ∧ p.wait = true) &&
      match p.frames with
      | [] => false
      | fr :: _ => s.x.splits.all fun q =>
          decide (q.sid = p.sid ∨ q.team ≠ t ∨ q.group ≠ g) || q.frames.all fun x => decide (x.token ≠ fr.token)

/-- Fusion of a parked split (R136): every slice pops its join entry; the split goes on after the REGANG. -/
def State.fuse (s : State) (p : Split) : State :=
  let s1 := p.slices.foldl (fun t c =>
    t.modSlc ⟨p.team, p.group, c⟩ fun x =>
      match x.stack with
      | e :: es => { x with stack := es, mask := e.mask, f := e.fcopy }
      | [] => x) s
  s1.modSplit p.sid fun x =>
    { x with wait := false, frames := x.frames.drop 1, pc := (x.frames.headD ⟨x.pc, 0⟩).join + 4 }

/-- No lane of the slice lives (R138). -/
def Slice.dead (c : Slice) : Bool := decide (c.mask = 0) && c.stack.all fun e => decide (e.mask = 0)

/-- Slices without an active lane leave their split (R138): they retire when no entry holds a lane, and
otherwise act as at their join. -/
def State.sweep (s : State) (sid : Nat) : State :=
  match s.split? sid with
  | none => s
  | some p =>
    let id := fun c => (⟨p.team, p.group, c⟩ : SliceId)
    let empty := p.slices.filter fun c => decide ((s.slc (id c)).mask = 0)
    let dead := empty.filter fun c => (s.slc (id c)).dead
    let rest := empty.filter fun c => !(s.slc (id c)).dead
    let s1 := dead.foldl (fun t c => t.modSlc (id c) fun x => { x with gone := true, stack := [] }) s
    let s2 := s1.modSplit sid fun x => { x with slices := x.slices.filter fun c => decide (c ∉ dead) }
    (if rest.isEmpty then s2 else s2.arrive sid rest).freeSplits

/-- Fuse what can fuse in a group, as often as `n` times, sweeping slices left without a lane. -/
def State.fuseAll (s : State) (t g : Nat) : Nat → State
  | 0 => s
  | n + 1 =>
    match s.fusable t g with
    | none => s
    | some p => ((s.fuse p).sweep p.sid).fuseAll t g n

/-- More rounds of fusion than a group's frames allow. -/
def fuseFuel : Nat := 64

/-- REGANG (R135, R136): without a frame for its address it is a no-op. -/
def meanRegang (s : State) : Meaning :=
  Meaning.mk { s.useFlow with regang := true }
    (fun t =>
      let p := t.cur
      match p.frames with
      | [] => .ok t
      | fr :: _ =>
        if fr.join = t.u.iss.unitPc then
          .ok ((t.arrive p.sid p.slices).fuseAll p.team p.group fuseFuel)
        else .ok t)
/-- REGANG: its issue unit, run. -/
def execRegang (s : State) : Host.Outcome State Fault Refusal := (meanRegang s).run s

/-! ### Exit and yield -/

/-- Remove lanes (bits of `m`) from every mask of a slice (R138). -/
def Slice.drop (c : Slice) (m : BitVec 4) : Slice :=
  { c with mask := c.mask &&& ~~~m, stack := c.stack.map fun e => { e with mask := e.mask &&& ~~~m } }

/-- Lanes of a list in a slice, as a mask. -/
def laneMask (ls : List Nat) (c : Nat) : BitVec 4 :=
  ls.foldl (fun m l => if l / 4 = c then m ||| BitVec.ofNat 4 (2 ^ (l % 4)) else m) 0

/-! ### Joint operations of a group that exits (R193) -/

/-- Members of a CONSORT value (R191). -/
def consortMembers (c : BitVec 48) : List Nat :=
  (List.range (c.toNat / 2 ^ 42 % 8)).map fun k => c.toNat / 2 ^ (7 * k) % 128

/-- Two CONSORT values name one consort: the same members (log entry 18). -/
def sameConsort (a b : BitVec 48) : Bool :=
  (consortMembers a).all (· ∈ consortMembers b) && (consortMembers b).all (· ∈ consortMembers a)

/-- Raise RENDEZVOUS late for a deposit's group: taken at its next issue boundary, by the first of its splits where it has several
(log entry 77), or by no split when the group has exited (R193, R217). -/
def State.rendezvousLate (s : State) (row : Nat) (d : Deposit) : State :=
  let f : FaultInfo := { code := RENDEZVOUS, info := row, unitPc := d.unitPc, late := true }
  match s.x.splits.find? fun p => decide (p.team = d.team ∧ p.group = d.group) with
  | some p => s.modSplit p.sid fun x => { x with late := x.late ++ [f] }
  | none => s.orphanFault ⟨d.team, d.group⟩ [] f

/-- Discard a consort's deposits, every depositing group taking RENDEZVOUS by a row of R193. -/
def State.discardLatch (s : State) (team : Nat) (c : BitVec 48) (row : Nat) : State :=
  let mine := fun (d : Deposit) => decide (d.team = team) && sameConsort d.consort c
  let ds := s.e.latch.filter mine
  let s := ds.foldl (fun t d => t.rendezvousLate row d) s
  { s with e.latch := s.e.latch.filter fun d => !mine d }

/-- The group has no live lane left. -/
def State.groupGone (s : State) (t g : Nat) : Bool := (s.liveLanes t g).isEmpty

/-- A member that exits while deposits wait fails them (R193). -/
def State.rendezvousExit (s : State) (t g : Nat) : State :=
  if !s.groupGone t g then s
  else
    ((s.e.latch.filter fun d => decide (d.team = t ∧ g ∈ consortMembers d.consort)).map (·.consort)).eraseDups.foldl
      (fun u c => u.discardLatch t c 3) s

/-- EXIT (R138): the lanes with a true effective mask leave every mask of their slices. -/
def meanExit (s : State) : Meaning :=
  Meaning.mk
    { major := 0x0E, legal := s.modpOk { zi := false }, cover := false }
    (fun t =>
      let p := t.cur
      let ls := t.elanes
      let t1 := p.slices.foldl (fun u c => u.modSlc (t.slice c) fun x => x.drop (laneMask ls c)) t
      .ok ((((t1.sweep p.sid).fuseAll p.team p.group fuseFuel).rendezvousExit p.team p.group).checkRounds p.team))
/-- EXIT: its issue unit, run. -/
def execExit (s : State) : Host.Outcome State Fault Refusal := (meanExit s).run s

/-- YIELD: AGE becomes the current clk and the waiting count 0, as at every issue (R144). -/
def meanYield (s : State) : Meaning := Meaning.mk s.useFlow (fun t => .ok t)
/-- YIELD: its issue unit, run. -/
def execYield (s : State) : Host.Outcome State Fault Refusal := (meanYield s).run s

end Sys2Proof.Machine
end

