-- ==== Sys2Proof/Machine/Wake.lean ====
section
/-! DEFINITION. Events that wake or stop a waiting split: BARRIER_STALL (R205, R314, R345, R430), SPLIT_STARVED
(R147), LATE_FAULT_DELIVERY (R216, R217), MWAIT_WAKE and MWAIT_TIMEOUT (R173), SLEEP_EXPIRY (R174). -/

namespace Sys2Proof.Machine

/-- The round that a split waits in. -/
def State.roundAt (s : State) (p : Split) : Option Round :=
  let g := (s.team p.team).grid
  let job := (s.jobOf (s.grid g)).map (·.num)
  match p.park with
  | .bar _ => some (.bar p.team)
  | .settle 1 _ _ _ _ false => some (.settleT p.team)
  | .settle 2 _ _ _ _ false => some (.settleG g)
  | .settle 3 _ _ _ _ false => job.map .settleP
  | .gridsync _ => some (.gridsync g)
  | .podsync _ => job.map .podsync
  | _ => none

/-- Is it a round of a pod job? -/
def Round.pod : Round → Bool
  | .podsync _ | .settleP _ => true
  | _ => false

/-- BARRIER_STALL (R205, R314, R345, R430): the round that the named split waits in has lasted longer than its
limit; with the event's flag, a pod round's limit has passed at another module. BWAIT and RWAIT find their own
limit when they are examined. -/
def execBarrierStall (s : State) : Host.Outcome State Fault Refusal :=
  match s.split? s.u.ev.id with
  | none => .next s
  | some p =>
    match s.roundAt p with
    | none => .next s
    | some r =>
      if s.roundStalled r || (s.u.ev.flag && r.pod) then
        .next (s.failRound r { code := BARRIER_STALL, info := r.info })
      else .next s

/-- SPLIT_STARVED (R147): a split that was ready for 255 clk without issuing is ready a 256th, and is ordered first from
now; a halted split is not ready (R219). -/
def execSplitStarved (s : State) : Host.Outcome State Fault Refusal :=
  .next (s.modSplit s.u.ev.id fun p =>
    if p.wcount = 255 ∧ p.park = .run ∧ p.wait = false ∧ p.able ∧ (s.grp ⟨p.team, p.group⟩).halted = false then
      { p with wcount := 256 } else p)

/-- A split stands at an issue boundary where it can take a late fault: its group runs, or the debugger steps the split
(R220); WATCHDOG is taken in every split, also one that waits (R344). -/
def State.atBoundary (s : State) (p : Split) (f : FaultInfo) : Bool :=
  let g := s.grp ⟨p.team, p.group⟩
  decide ((s.team p.team).status = .running) && (!g.halted || (g.stepping && decide (g.stopped = some p.sid))) &&
    (decide (f.code = WATCHDOG) || (decide (p.park = .run) && !p.wait))

/-- LATE_FAULT_DELIVERY (R216, R217): a split takes its oldest late fault; the record's WORDPC is the unit at which
it stopped. -/
def execLateFaultDelivery (s : State) : Host.Outcome State Fault Refusal :=
  match s.split? s.u.ev.id with
  | none => .next s
  | some p =>
    match p.late with
    | [] => .next s
    | f :: fs =>
      if s.atBoundary p f then
        let t := s.modSplit p.sid fun x => { x with late := fs, park := .run, wait := false }
        .next (t.takeFault p.sid { f with wordPc := some p.pc } p.pc)
      else .next s

/-- MWAIT completes: the watches are disarmed and the split is ready (R173). -/
def State.wakeSplit (s : State) (p : Split) : State :=
  (s.disarm p).modSplit p.sid fun x => { x with park := .run }

/-- MWAIT_WAKE (R173): a watch of a sleeping split has been triggered. -/
def execMwaitWake (s : State) : Host.Outcome State Fault Refusal :=
  match s.split? s.u.ev.id with
  | none => .next s
  | some p => if p.asleep && (s.watches p).any (·.triggered) then .next (s.wakeSplit p) else .next s

/-- MWAIT_TIMEOUT (R173): SYS_MWTIMEOUT clk have passed. -/
def execMwaitTimeout (s : State) : Host.Outcome State Fault Refusal :=
  match s.split? s.u.ev.id with
  | none => .next s
  | some p =>
    match p.park with
    | .mwait u => if u ≤ s.u.clk then .next (s.wakeSplit p) else .next s
    | _ => .next s

/-- SLEEP_EXPIRY (R174): the interval of SLEEP has passed. -/
def execSleepExpiry (s : State) : Host.Outcome State Fault Refusal :=
  .next (s.modSplit s.u.ev.id fun p =>
    match p.park with
    | .sleep u => if u ≤ s.u.clk then { p with park := .run } else p
    | _ => p)

end Sys2Proof.Machine
end

