-- ==== Sys2Proof/Machine/Launch.lean ====
section
/-! DEFINITION. Launch records and their checks (R78, R338, R339), the resources of teams (R138, R235, R255, R341),
their start (R340), pre-emption and restore (R355 to R357); and the events TEAM_SAVE, GRID_RETIRE and
WATCHDOG. -/

namespace Sys2Proof.Machine

/-! ### The launch record (R338) -/

/-- Teams of a grid. -/
def Launch.teams (la : Launch) : Nat := la.gridX * la.gridY * la.gridZ
/-- Groups of a team. -/
def Launch.groups (la : Launch) : Nat := la.lanes / la.width
/-- The four bytes of a word. -/
def bytesOf (w : Nat) : List Nat := (List.range 4).map fun i => w / 2 ^ (8 * i) % 256

/-- The fields of the 64 words of a record. -/
def launchOf (ws : List Nat) : Launch :=
  let w := fun i => ws.getD i 0
  let d := fun i => w i + 2 ^ 32 * w (i + 1)
  let f := w 8
  { entry := BitVec.ofNat 56 (d 0), trapPc := d 2, tag := d 4, spill := d 6
    dieMask := bits f 31 28, chain := bits f 27 22, prio := bits f 21 19
    policy := match bits f 18 17 with | 1 => .handler | 2 => .replay | _ => .abortGrid
    spread := bit f 16, coop := bit f 15
    width := 16 * 2 ^ bits f 14 13, pair := bit f 12, lanes := f % 4096 + 1
    roles := bytesOf (w 9), regs := bytesOf (w 10), asid := w 11 % 2 ^ 16
    scratch := w 12, cluster := w 13, lanePriv := w 14, chip := w 15
    gridX := w 16, gridY := w 17, gridZ := w 18, limit := w 19
    taskBase := d 20, taskN := w 22
    args := (List.range 16).map fun i => BitVec.ofNat 32 (w (24 + i)) }

/-- The grid's own fields are in order (R339): what the record of a task ignores. -/
def Launch.gridOk (la : Launch) : Bool :=
  decide (1 ≤ la.gridX ∧ 1 ≤ la.gridY ∧ 1 ≤ la.gridZ ∧ la.teams < 2 ^ 32)

/-- A record keeps the limits of R78, R338 and R339 (but for those of State.coopFits). -/
def launchOk (ws : List Nat) (asid : Nat) (task : Bool) : Bool :=
  let w := fun i => ws.getD i 0
  let la := launchOf ws
  let cores := if la.pair then 2 else 1
  decide (w 0 % 2 = 0 ∧ w 1 < 2 ^ 24 ∧ w 6 % 16 = 0) &&
    decide (bits (w 8) 18 17 ≠ 3 ∧ bits (w 8) 14 13 ≠ 3) &&
    decide (la.lanes % la.width = 0 ∧ la.lanes ≤ 1024 * cores ∧ la.roles.sum = la.groups) &&
    ((List.range 4).all fun i =>
      let r := la.regs.getD i 0
      if la.roles.getD i 0 = 0 then decide (r = 0) else decide (8 ≤ r ∧ r ≤ 128 ∧ r % 8 = 0)) &&
    decide (w 11 = asid) &&
    decide (la.scratch ≤ 2 ^ 20 * cores ∧ la.scratch % 256 = 0 ∧ la.cluster ≤ la.scratch ∧ la.cluster % 256 = 0 ∧
      la.lanePriv ≤ 2 ^ 16 ∧ la.lanePriv % 16 = 0 ∧ la.chip ≤ 2 ^ 26 ∧ la.chip % 2 ^ 16 = 0) &&
    (task || la.gridOk) &&
    decide (la.taskBase % 64 = 0) &&
    (if la.taskBase = 0 then decide (la.taskN = 0) else task || decide (la.teams ≤ la.taskN)) &&
    decide (w 23 = 0) && (ws.drop 40).all (decide <| · = 0)

/-! ### What a team needs (R89, R341) -/

/-- The core of a pair that a group sits on: the first half of the groups, the middle one included, on the even core
(log entry 24). -/
def Launch.half (la : Launch) (g : Nat) : Nat := if la.pair ∧ ceilDiv la.groups 2 ≤ g then 1 else 0

/-- Lanes of a team on a core of its pair. -/
def Launch.lanesOn (la : Launch) (h : Nat) : Nat :=
  ((List.range la.groups).filter fun g => decide (la.half g = h)).length * la.width

/-- Scratchpad bytes of a team (R341). -/
def Launch.need (la : Launch) : Nat := if la.privFits then la.scratch + la.lanes * la.lanePriv else la.scratch

/-- The part of them on a core of its pair: the first MiB lies on the even core (R234; log entry 24). -/
def Launch.needOn (la : Launch) (h : Nat) : Nat :=
  if h = 0 then min la.need (if la.pair then 2 ^ 20 else la.need)
  else if la.pair then la.need - 2 ^ 20 else 0

/-- Halves that a team uses. -/
def Launch.halves (la : Launch) : List Nat := if la.pair then [0, 1] else [0]

/-- Role of a group by index (R78, R130). -/
def Launch.roleOf (la : Launch) (g : Nat) : Role :=
  let r := fun i => la.roles.getD i 0
  if g < r 0 then .copy else if g < r 0 + r 1 then .matrix else if g < r 0 + r 1 + r 2 then .vector else .general

/-! ### What is in use -/

/-- Every lane of a team has exited, or its grid is aborted (R138, R217). -/
def State.exited (s : State) (t : Nat) : Bool :=
  (s.grid (s.team t).grid).aborted || (s.groups t).all fun g => s.groupGone t g

/-- Every operation that a team issued has completed (R138). -/
def State.quiet (s : State) (t : Nat) : Bool :=
  (s.k.acc.all fun a => decide (a.lane.t ≠ t)) && (s.e.sfu.all fun o => decide (o.team ≠ t)) &&
    (s.e.mats.all fun o => decide (o.team ≠ t)) && (s.e.copies.all fun c => decide (c.team ≠ t)) &&
    s.e.rsh.all fun r => decide (r.team ≠ t)

/-- A team's resources are released (R138). -/
def State.over (s : State) (t : Nat) : Bool := s.exited t && s.quiet t

/-- A team stands on a core. -/
def Team.placed (x : Team) : Bool := decide (x.status = .running ∨ x.status = .saving)

/-- The batch of a team. -/
def State.batchOf (s : State) (x : Team) : List Team :=
  s.x.teams.filter fun y => decide (y.grid = x.grid ∧ y.batch = x.batch)

/-- The part of a placed team's pair that a core is. -/
def State.halfAt (s : State) (x : Team) (core : Nat) : Option Nat :=
  (s.launch x.uid).halves.find? fun h => decide (x.core + h = core)

/-- Lanes resident on a core (R341). -/
def State.lanesUsed (s : State) (core : Nat) : Nat :=
  (s.x.teams.map fun x =>
    match s.halfAt x core with
    | some h => if x.placed && !s.over x.uid then (s.launch x.uid).lanesOn h else 0
    | none => 0).sum

/-- Scratchpad bytes in use on a core: a member's part stays until its whole batch has exited (R235). -/
def State.scratchUsed (s : State) (core : Nat) : Nat :=
  (s.x.teams.map fun x =>
    match s.halfAt x core with
    | some h =>
      if x.placed && !((s.batchOf x).all fun y => s.over y.uid) then (s.launch x.uid).needOn h else 0
    | none => 0).sum

/-- Does a team fit with its even core here (R341)? -/
def State.fitsAt (s : State) (la : Launch) (core : Nat) : Bool :=
  la.halves.all fun h =>
    decide (s.lanesUsed (core + h) + la.lanesOn h ≤ 2048 ∧ s.scratchUsed (core + h) + la.needOn h ≤ 2 ^ 20)

/-- Free lanes of a die (R341). -/
def State.freeLanes (s : State) (die : Nat) : Nat :=
  192 * 2048 - ((s.x.teams.filter fun x => decide (x.die = die)).map fun x =>
    if x.placed && !s.over x.uid then (s.launch x.uid).lanes else 0).sum

/-- Chip pool of a die in bytes (R254). -/
def State.pool (s : State) (die : Nat) : Nat := s.carve die * 2 ^ 24

/-- The chip ranges held on a die: base and size. -/
def State.chipHeld (s : State) (die : Nat) : List (Nat × Nat) :=
  (s.x.grids.filter fun g => !g.retired && g.chipBase.has die).map fun g => (g.chipBase.look die 0, g.launch.chip)

/-- The base of a grid's chip range on a die: its own, or the lowest free one (R255). -/
def State.chipSpot (s : State) (g : Grid) (die : Nat) : Option Nat :=
  let n := g.launch.chip
  if n = 0 then some 0
  else if g.chipBase.has die then some (g.chipBase.look die 0)
  else
    ((List.range 1024).map (· * 2 ^ 16)).find? fun b =>
      decide (b + n ≤ s.pool die) && (s.chipHeld die).all fun r => decide (b + n ≤ r.1 ∨ r.1 + r.2 ≤ b)

/-! ### Placement (R233, R341) -/

/-- Dies a grid may use (R338). -/
def Grid.dies (g : Grid) : List Nat :=
  if g.launch.dieMask = 0 then [g.die] else [0, 1, 2, 3].filter fun d => bit g.launch.dieMask d

/-- Teams of a batch of a grid at most. -/
def Launch.batchSize (la : Launch) : Nat := if la.spread then (if la.pair then 4 else 8) else 1

/-- The cores of a die where `n` teams of a batch go: one core that fits, or the members of one cluster (R233). -/
def State.batchCores (s : State) (la : Launch) (die n : Nat) : Option (List Nat) :=
  let step := if la.pair then 2 else 1
  if la.spread then
    let at_ := fun c => (List.range n).map fun j => 192 * die + 8 * c + step * j
    ((List.range 24).find? fun c => (at_ c).all (s.fitsAt la)).map at_
  else
    (((List.range (192 / step)).map fun i => 192 * die + step * i).find? (s.fitsAt la)).map fun c => [c]

/-- A die and cores for a batch: the die with the most free lanes first, equal ones by number (R341). -/
def State.batchSpot (s : State) (g : Grid) (dies : List Nat) (n : Nat) : Option (Nat × List Nat) :=
  (sortBy (fun a b => decide (s.freeLanes b ≤ s.freeLanes a)) dies).findSome? fun d =>
    if (s.chipSpot g d).isNone then none else (s.batchCores g.launch d n).map fun cs => (d, cs)

/-! ### Team start (R129, R340) -/

/-- Slices bound to a pipe of a core (R129). -/
def State.pipeLoad (s : State) (core pipe : Nat) : Nat :=
  (s.x.teams.map fun x =>
    if x.placed && !s.over x.uid then
      ((s.groups x.uid).filter fun g =>
        decide (x.core + (s.grp ⟨x.uid, g⟩).half = core ∧ (s.grp ⟨x.uid, g⟩).pipe = pipe)).length *
          (s.width x.uid / 4)
    else 0).sum

/-- Bind the groups of a team to pipes in ascending order (R129); the role and half of each are set too. -/
def State.bindGroups (s : State) (t core : Nat) : State :=
  let la := s.launch t
  (List.range la.groups).foldl (fun u g =>
    let h := la.half g
    let mine := fun p => ((List.range g).filter fun k =>
      decide (la.half k = h ∧ (u.grp ⟨t, k⟩).pipe = p)).length * (la.width / 4)
    let load := fun p => s.pipeLoad (core + h) p + mine p
    u.setGrp ⟨t, g⟩ { role := la.roleOf g, half := h, pipe := if load 1 < load 0 then 1 else 0 }) s

/-- S0 to S19 at team start (R340); zero is what an unwritten register holds. -/
def State.fillArgs (s : State) (t : Nat) : State :=
  let la := s.launch t
  let i := (s.team t).index
  let ws : List Word := (List.range 16).map (fun k => la.args.getD k 0) ++
    [BitVec.ofNat 32 (i % la.gridX), BitVec.ofNat 32 (i / la.gridX % la.gridY),
     BitVec.ofNat 32 (i / (la.gridX * la.gridY)), BitVec.ofNat 32 i]
  (List.range la.groups).foldl (fun u g => (List.range (la.width / 4)).foldl (fun u c =>
    (ws.zipIdx).foldl (fun u w => if w.1 = 0 then u else u.setS ⟨t, g, c⟩ w.2 w.1) u) u) s

/-- One split for each group, at the entry (R131, R340), with AGE 0 (log entry 57). -/
def State.fillSplits (s : State) (t : Nat) : State :=
  let la := s.launch t
  (List.range la.groups).foldl (fun u g =>
    u.addSplit { sid := 0, team := t, group := g, tix := 0, pc := la.entry, slices := List.range (la.width / 4) }) s

/-- The spill area of a team's lane-private bytes reads zero at team start (R89): 16-byte pieces of pages that allow it now;
the others are cleared when their page first serves the team (log entry 33). -/
def State.zeroSpill (s : State) (t die : Nat) : State :=
  let la := s.launch t
  if la.privFits then s
  else
    (List.range (la.lanes * la.lanePriv / 16)).foldl (fun (u : State) i =>
      let va := la.spill + 16 * i
      let later := u.modTeam t fun x => { x with unzeroed := x.unzeroed ++ [va] }
      match u.dieSeek die la.asid va true with
      | .inl lf => if !lf.r || lf.df || decide (u.modeOf lf ≠ 0) then later else (u.keyed lf va).zeroPiece lf va
      | .inr _ => later) s

/-- Resident slices of a core that teams take (R316, R341). -/
def State.slotsTaken (s : State) (core : Nat) : List Nat :=
  s.x.teams.flatMap fun x =>
    let la := s.launch x.uid
    let n := la.lanesOn 0 / 4
    if !x.placed || s.over x.uid then []
    else if x.core = core then x.slots.take n
    else if la.pair ∧ x.core + 1 = core then x.slots.drop n
    else []

/-- The resident slices that a team's slices take on a core pair: the lowest free ones (R316; log entry 16). -/
def State.freeSlots (s : State) (la : Launch) (core : Nat) : List Nat :=
  la.halves.flatMap fun h =>
    ((List.range 512).filter fun k => decide (k ∉ s.slotsTaken (core + h))).take (la.lanesOn h / 4)

/-- A grid of an ASID starts on a core: the constant cache drops the ASID's lines there (R166). -/
def State.freshConst (s : State) (g core asid : Nat) : State :=
  if s.x.teams.any fun x => decide (x.grid = g) && (s.halfAt x core).isSome then s
  else s.dropSnaps fun c => match c.holder with
    | .ccache c a _ => decide (c = core ∧ a = asid)
    | _ => false

/-- The chip range of a grid on a die, reserved and cleared at its first team there (R255). -/
def State.takeChip (s : State) (gu die : Nat) : State :=
  let g := s.grid gu
  if g.launch.chip = 0 ∨ g.chipBase.has die then s
  else
    match s.chipSpot g die with
    | none => s
    | some b =>
      let t := s.modGrid gu fun x => { x with chipBase := x.chipBase.put die b }
      { t with m.mem := (List.range 256).foldl (fun m c =>
          Memory.clear m (locCarved die c (b / 256)) (locCarved die c ((b + g.launch.chip) / 256))) t.m.mem }

/-- Add a team with its groups bound, the pipes' load being that before it came. -/
def State.addTeam (s : State) (x : Team) : State :=
  let t : State := { s with x.teams := s.x.teams ++ [{ x with status := .waiting }] }
  (t.bindGroups x.uid x.core).modTeam x.uid fun y => { y with status := .running }

/-- Start one team of a grid on a core (R340). -/
def State.startTeam (s : State) (gu index batch member core taskBlk : Nat) (task : Bool) : State :=
  let la := (s.grid gu).launch
  let t := s.u.uid
  let s := la.halves.foldl (fun (u : State) h => u.freshConst gu (core + h) la.asid) (s.takeChip gu (core / 192))
  let s := s.takeUid.addTeam
    { uid := t, grid := gu, index := index, die := core / 192, core := core, batch := batch, member := member
      taskBlk := taskBlk, isTask := task, slots := s.freeSlots la core }
  ((s.fillArgs t).fillSplits t).zeroSpill t (core / 192)

/-- The arena index of a grid's own team (R340). -/
def Launch.blockOf (la : Launch) (index : Nat) : Nat := if la.taskBase = 0 then 0xFFFFFFFF else index

/-- Place the next batch of a grid (R233, R341). -/
def State.placeBatch (s : State) (gu : Nat) (dies : List Nat) : Option State :=
  let g := s.grid gu
  let la := g.launch
  let n := min la.batchSize (la.teams - g.placed)
  if n = 0 then none
  else
    (s.batchSpot g dies n).map fun p =>
      let t := (p.2.zipIdx).foldl (fun (u : State) c =>
        u.startTeam gu (g.placed + c.2) (g.placed / la.batchSize) c.2 c.1 (la.blockOf (g.placed + c.2)) false) s
      t.modGrid gu fun x => { x with placed := x.placed + n }

/-! ### Held accesses (R176) -/

/-- An address in the spill area of a lane (R89). -/
def State.inSpill (s : State) (l : LaneId) (va : Nat) : Bool :=
  let la := s.launch l.t
  !la.privFits && decide (la.spill + s.teamLane l * la.lanePriv ≤ va ∧ va < la.spill + (s.teamLane l + 1) * la.lanePriv)

/-- Translate the run of a held FETCH again: it is on its way, or held with the code it meets now (R176). -/
def State.retranslateRun (s : State) (a : Access) : Access :=
  match (s.e.fetches.find? fun f => decide (f.acc = a.id)).bind fun f =>
      s.runFault (s.accCore a) (s.launch a.lane.t).asid f a.id with
  | some b => { a with phase := .held b.2, gaddr := b.1 }
  | none => { a with phase := .issued, sent := none }

/-- Translate a held access again (R176, R363): it is on its way, or held with the code it meets now. A forbidden access
to a page that has become deferred stays held as ACCESS (log entry 27). -/
def State.retranslate (s : State) (a : Access) : Access :=
  if a.kind = .fetch then s.retranslateRun a
  else
    let p := s.planGlobal a.kind a.lane { l := a.lane.l, addr := a.gaddr, gaddr := a.gaddr } a.gaddr
      (s.inSpill a.lane a.gaddr) a.id
    if p.code ≠ 0 then { a with phase := .held p.code }
    else if p.df && a.kind.forbidden a.size then { a with phase := .held ACCESS }
    else { a with phase := .issued, leaf := p.leaf, dev := p.dev, pa := p.pa, loc := p.loc, born := s.u.clk, sent := none }

/-- The accesses of a unit whose record is resolved are replayed; those still held form the next record (R176). -/
def State.replayHeld (s : State) (sid seq : Nat) : State :=
  let t : State := { s with k.acc := s.k.acc.map fun a =>
    if a.seq = seq ∧ a.phase = .held 0 then s.retranslate a else a }
  t.postHeld sid seq

/-! ### Restore (R147, R205, R251, R355) -/

/-- Give the splits of a team entries of the split table of the core they are on now. -/
def State.retix (s : State) (t : Nat) : State :=
  let mine := (s.x.splits.filter fun p => decide (p.team = t)).map (·.sid)
  let s : State := { s with x.splits := s.x.splits.map fun p => if p.team = t then { p with tix := 512 } else p }
  mine.foldl (fun u sid => u.modSplit sid fun p =>
    { p with tix := u.freeTix (u.coreOf ⟨p.team, p.group⟩), wcount := 0, waitFrom := none }) s

/-- A suspended copy goes on under the tenure it holds, or waits for it at the tail of the requests (R251). -/
def State.resumeCopy (s : State) (c : Copy) : State :=
  if s.e.tens.any fun h => decide (h.holder = .copy c.id) then s.modCopy c.id fun x => { x with phase := .started, moved := s.u.clk }
  else
    let pages := if c.bad = 0 then s.tenurePages c else []
    let t := s.modCopy c.id fun x => { x with phase := .waiting }
    if pages.isEmpty then t
    else { t with e.reqs := t.e.reqs ++ [{ holder := .copy c.id, team := c.team, write := true, since := t.u.clk
                                           foot := { recs := c.records, pages := pages } }] }

/-- What RESUME resolved while a team was saved is replayed (R363); code 0 marks it. -/
def State.replayResolved (s : State) (t : Nat) : State :=
  let us := ((s.k.acc.filter fun a => decide (a.lane.t = t ∧ a.phase = .held 0)).map fun a => (a.sid, a.seq)).eraseDups
  us.foldl (fun u x => u.replayHeld x.1 x.2) s

/-- The rounds of a grid and of its pod job count afresh from now (R205, R206). -/
def State.restartRounds (s : State) (gu : Nat) : State :=
  let now := s.u.clk
  let job := s.jobOf (s.grid gu)
  let t := s.modGrid gu fun g =>
    { g with syncFrom := g.syncFrom.map fun _ => now, settleFrom := g.settleFrom.map fun _ => now }
  { t with f.jobs := t.f.jobs.map fun j =>
      if some j = job then { j with from_ := j.from_.map fun x => (x.1, now) } else j }

/-- Restore a saved team on a core: its waits start afresh (R193, R205). -/
def State.restoreTeam (s : State) (t core : Nat) : State :=
  let now := s.u.clk
  let gu := (s.team t).grid
  let s := (s.takeChip gu (core / 192)).restartRounds gu
  let slots := s.freeSlots (s.launch t) core
  let s := s.modTeam t fun x =>
    { x with core := core, die := core / 192, status := .running, slots := slots
             barFrom := x.barFrom.map fun _ => now, settleFrom := x.settleFrom.map fun _ => now }
  let s : State := { s with
    e.latch := s.e.latch.map fun d => if d.team = t then { d with since := now } else d
    e.copies := s.e.copies.map fun c => if c.team = t then { c with core := core + (s.grp ⟨t, c.group⟩).half } else c }
  (((s.e.copies.filter fun c => decide (c.team = t ∧ c.phase = .suspended)).foldl (fun u c => u.resumeCopy c) s).retix
    t).replayResolved t

/-- The saved batches of a grid, in order. -/
def State.savedBatches (s : State) (gu : Nat) : List Nat :=
  (sortBy (fun a b => decide (a ≤ b))
    ((s.x.teams.filter fun x => decide (x.grid = gu ∧ x.status = .saved)).map (·.batch))).eraseDups

/-- Restore one saved batch (R250, R355). -/
def State.restoreBatch (s : State) (gu batch : Nat) (dies : List Nat) : Option State :=
  let xs := s.x.teams.filter fun x => decide (x.grid = gu ∧ x.batch = batch ∧ x.status = .saved)
  let xs := sortBy (fun (a b : Team) => decide (a.member ≤ b.member)) xs
  (s.batchSpot (s.grid gu) dies xs.length).map fun p =>
    (xs.zip p.2).foldl (fun (u : State) z => u.restoreTeam z.1.uid z.2) s

/-! ### What a grid places next (R342, R355) -/

/-- Place every remaining batch of a grid, at most `n` of them. -/
def State.placeAll (s : State) (gu : Nat) (dies : List Nat) : Nat → Option State
  | 0 => some s
  | n + 1 =>
    if (s.grid gu).launch.teams ≤ (s.grid gu).placed then some s
    else (s.placeBatch gu dies).bind fun t => t.placeAll gu dies n

/-- Restore several batches. -/
def State.restoreAll (s : State) (gu : Nat) (dies : List Nat) : List Nat → Option State
  | [] => some s
  | b :: bs => (s.restoreBatch gu b dies).bind fun t => t.restoreAll gu dies bs

/-- A grid has teams that wait for room (R343). -/
def State.waitsRoom (s : State) (g : Grid) : Bool :=
  !g.aborted && !g.retired && (decide (g.placed < g.launch.teams) ||
    s.x.teams.any fun x => decide (x.grid = g.uid ∧ x.status = .saved))

/-- Place what a grid places next: a saved batch, or its next batch; everything at once for COOP (R342, R355). -/
def State.tryPlace (s : State) (gu : Nat) (dies : List Nat) : Option State :=
  let g := s.grid gu
  match s.savedBatches gu with
  | [] => if g.launch.coop then s.placeAll gu dies (g.launch.teams + 1) else s.placeBatch gu dies
  | b :: bs => if g.launch.coop then s.restoreAll gu dies (b :: bs) else s.restoreBatch gu b dies

/-! ### Could a co-operative grid ever be resident (R339) -/

/-- Teams that fit on one core or core pair. -/
def Launch.perCore (la : Launch) : Nat :=
  la.halves.foldl (fun n h =>
    let k := if la.lanesOn h = 0 then n else min n (2048 / la.lanesOn h)
    if la.needOn h = 0 then k else min k (2 ^ 20 / la.needOn h)) 2048

/-- All teams of a co-operative grid fit on the dies of DIEMASK with every core free (R339). -/
def State.coopFits (s : State) (g : Grid) : Bool :=
  let la := g.launch
  let dies := (g.dies.filter fun d => decide (la.chip ≤ s.pool d)).length
  let step := if la.pair then 2 else 1
  if la.spread then
    decide (ceilDiv la.teams la.batchSize ≤ dies * 24 * la.perCore)
  else decide (la.teams ≤ dies * (192 / step) * la.perCore)

/-! ### Pre-emption (R355, R356) -/

/-- The teams saved together with a team: its grid for COOP, its batch for SPREAD (R355). -/
def State.saveUnit (s : State) (x : Team) : List Team :=
  if (s.launch x.uid).coop then s.x.teams.filter fun y => decide (y.grid = x.grid)
  else s.batchOf x

/-- Victims in the order in which they are chosen: lowest priority, then latest admitted (R355). -/
def State.victims (s : State) (prio : Nat) (dies : List Nat) : List Team :=
  let c := s.x.teams.filter fun x =>
    decide (x.status = .running ∧ x.die ∈ dies ∧ (s.launch x.uid).prio < prio) && !s.over x.uid
  sortBy (fun (a b : Team) =>
    let p := (s.launch a.uid).prio
    let q := (s.launch b.uid).prio
    decide (p < q) || (decide (p = q) && decide ((s.grid b.grid).admitted ≤ (s.grid a.grid).admitted))) c

/-- Mark teams for saving; their sleeping splits wake (R173, R356). -/
def State.markSaving (s : State) (ts : List Nat) : State :=
  let s : State := { s with x.teams := s.x.teams.map fun x =>
    if x.uid ∈ ts ∧ x.status = .running then { x with status := .saving } else x }
  s.wakeAll fun p => decide (p.team ∈ ts)

/-- Choose victims one after another until the grid's next placement fits; none if it never would (R355). -/
def State.preempt (s sim : State) (gu : Nat) (dies : List Nat) (chosen : List Nat) : List Team → Option State
  | [] => none
  | x :: xs =>
    let more := (s.saveUnit x).map (·.uid)
    let chosen := (chosen ++ more).eraseDups
    let sim : State := { sim with x.teams := sim.x.teams.map fun y =>
      if y.uid ∈ more then { y with status := .saved } else y }
    if (sim.tryPlace gu dies).isSome then some (s.markSaving chosen) else s.preempt sim gu dies chosen xs

/-- What R356 waits for before a team is written out: accesses complete or held, engines and SFU delivered, TCPYMs and
re-shard commands ended, APPENDs applied and their notices landed. -/
def State.drained (s : State) (t : Nat) : Bool :=
  let appends := fun (r : Rec) => decide (r.op = 7) && r.owners.any fun o => decide (o.1.t = t)
  (s.k.acc.all fun a => decide (a.lane.t ≠ t) || a.isHeld) && (s.e.sfu.all fun o => decide (o.team ≠ t)) &&
    (s.e.mats.all fun o => decide (o.team ≠ t)) &&
    (s.e.copies.all fun c => decide (c.team ≠ t ∨ c.kind ≠ .tcpym)) && (s.e.rsh.all fun r => decide (r.team ≠ t)) &&
    (s.e.notices.all fun n => decide (n.lane.t ≠ t)) && !s.e.log.any appends && !s.e.bins.any fun b => b.recs.any appends

/-- Bytes that a team takes in the save pool: what R356 lists is never nothing (log entry 11). -/
def saveBytes (t : Nat) : Nat := Config.saveBytes t + 1

/-- Bytes of a die's save pool in use (R356; log entry 11). -/
def State.saveUsed (s : State) (die : Nat) : Nat :=
  ((s.x.teams.filter fun x => decide (x.die = die ∧ x.status = .saved)).map fun x => saveBytes x.uid).sum

/-- The pool of every die has room for its teams of a list. -/
def State.saveRoom (s : State) (xs : List Team) : Bool :=
  ([0, 1, 2, 3] : List Nat).all fun d =>
    let mine := xs.filter fun x => decide (x.die = d)
    mine.isEmpty ||
      decide (s.saveUsed d + (mine.map fun x => saveBytes x.uid).sum ≤ (s.dieReg d 0xCC).toNat % 2 ^ 20 * 2 ^ 20)

/-- The bytes of a team in its die's save pool (R356): what they are and where is the controller's own (log entry 11). -/
def State.writeSave (s : State) (x : Team) : State :=
  let base := (s.dieReg x.die 0xCB).toNat % 2 ^ 20 * 2 ^ 20
  let size := (s.dieReg x.die 0xCC).toNat % 2 ^ 20 * 2 ^ 20
  (Config.saveImage x.uid s.u.clk).foldl (fun (t : State) c => t.physStore (base + c.1 % size) c.2 1) s

/-- Teams are written to the save pool: waiting TACQs and engine requests are withdrawn, copies are suspended (R251,
R286, R356). -/
def State.saveTeams (s : State) (ts : List Nat) : State :=
  let s := s.wakeAll fun p => decide (p.team ∈ ts)
  let s := (s.x.teams.filter fun x => decide (x.uid ∈ ts)).foldl (fun (t : State) x => t.writeSave x) s
  { s with
    x.teams := s.x.teams.map fun x => if x.uid ∈ ts then { x with status := .saved } else x
    e.copies := s.e.copies.map fun c => if c.team ∈ ts then { c with phase := .suspended } else c
    e.reqs := s.e.reqs.filter fun q => !(decide (q.team ∈ ts) && match q.holder with
      | .reshard _ => false
      | _ => true) }

/-- TEAM_SAVE (R250, R356): a team marked for saving, with what is saved beside it, has drained and is written out; a
team that has exited meanwhile is not saved (R357). -/
def execTeamSave (s : State) : Host.Outcome State Fault Refusal :=
  match s.team? s.u.ev.id with
  | none => .next s
  | some x =>
    if x.status ≠ .saving then .next s
    else
      let gone := (s.saveUnit x).filter fun y => decide (y.status = .saving) && s.over y.uid
      let xs := (s.saveUnit x).filter fun y => !s.over y.uid
      if !gone.isEmpty then
        .next { s with
          x.teams := s.x.teams.map fun y =>
            if gone.any (fun z => decide (z.uid = y.uid)) then { y with status := .running } else y }
      else if xs.all (fun y => decide (y.status = .saving) && s.drained y.uid) && s.saveRoom xs then
        .next (s.saveTeams (xs.map (·.uid)))
      else .next s

/-! ### Retirement (R344) -/

/-- The chain of a grid launched with CHAINEND is demoted: its generation advances (R378). -/
def State.demote (s : State) (chain : Nat) : State :=
  if chain = 0 then s
  else { s with k.mscGen := ([0, 1, 2, 3] : List Nat).foldl (fun (t : Tab (Nat × Nat) Nat) d =>
    t.put (d, chain) ((t.look (d, chain) 0 + 1) % 256)) s.k.mscGen }

/-- Every team of a grid has been placed and is over, or the grid is aborted and what it issued is over; tasks have
retired (R344, R348). -/
def State.retirable (s : State) (g : Grid) : Bool :=
  !g.retired && (g.aborted || decide (g.launch.teams ≤ g.placed)) &&
    (s.x.teams.filter fun x => decide (x.grid = g.uid)).all fun x => s.over x.uid && (!x.isTask || x.taskDone)

/-- Forget a team: its registers, windows and tenures are released (R138, R272). -/
def State.dropTeam (s : State) (t : Nat) : State :=
  let s := s.releaseTenures t
  { s with
    x.teams := s.x.teams.filter fun x => decide (x.uid ≠ t)
    x.splits := s.x.splits.filter fun p => decide (p.team ≠ t)
    r.v := s.r.v.filter fun p => decide (p.1.1.t ≠ t)
    r.ve := s.r.ve.filter fun p => decide (p.1.1.t ≠ t)
    r.sr := s.r.sr.filter fun p => decide (p.1.1.t ≠ t)
    r.mr := s.r.mr.filter fun p => decide (p.1.1.t ≠ t)
    r.cn := s.r.cn.filter fun p => decide (p.1.1.t ≠ t)
    r.sl := s.r.sl.filter fun p => decide (p.1.t ≠ t)
    r.ln := s.r.ln.filter fun p => decide (p.1.t ≠ t)
    r.gr := s.r.gr.filter fun p => decide (p.1.t ≠ t)
    m.mem := Memory.clear s.m.mem (locScr t 0) (locScr (t + 1) 0)
    e.latch := s.e.latch.filter fun d => decide (d.team ≠ t) }

/-- GRID_RETIRE (R344): the grid's windows and chip ranges are released, and its chain is demoted if it ends it. -/
def execGridRetire (s : State) : Host.Outcome State Fault Refusal :=
  match s.grid? s.u.ev.id with
  | none => .next s
  | some g =>
    if !s.retirable g then .next s
    else
      let ts := (s.x.teams.filter fun x => decide (x.grid = g.uid)).map (·.uid)
      let t := ts.foldl (fun (u : State) x => u.dropTeam x) s
      let t := if g.chainEnd then t.demote g.launch.chain else t
      let t := t.modGrid g.uid fun x => { x with retired := true, chipBase := [] }
      .next { t with d.events := t.d.events.map fun (e : QEvent) =>
        { e with grids := e.grids.filter fun x => decide (x ≠ g.uid) } }

/-- WATCHDOG (R344): the grid has been resident for its LIMIT, and every split takes WATCHDOG late. -/
def execWatchdog (s : State) : Host.Outcome State Fault Refusal :=
  match s.grid? s.u.ev.id with
  | none => .next s
  | some g =>
    if g.launch.limit ≠ 0 ∧ !g.watchdogDone ∧ !g.retired ∧ !g.aborted ∧ g.residentFrom + g.launch.limit * 65536 ≤ s.u.clk then
      let t := s.modGrid g.uid fun x => { x with watchdogDone := true }
      .next { t with
        x.splits := t.x.splits.map fun p =>
          if s.inGrid g.uid p.team then
            { p with late := p.late ++ [{ code := WATCHDOG, unitPc := p.pc, late := true }] }
          else p }
    else .next s

end Sys2Proof.Machine
end

