-- ==== Sys2Proof/Machine/Power.lean ====
section
/-! DEFINITION. Module controllers (R390 to R401): bring-up, power and clocks, firmware images, lifetime records, attestation,
and management messages of other chapters; live updates stand in Machine/Update.lean. Each event of this file is a message or an
occurrence outside the cores. -/

namespace Sys2Proof.Machine

/-! ### Lifetime records (R400) -/

/-- A count rises here and in the store, before the event completes (R401). -/
def State.bumpStored (s : State) (k : Nat × Nat × Nat) : State :=
  { s with p.life := bumpLife s.p.life k, p.lifeNv := bumpLife s.p.lifeNv k }

/-- The counts are written to the store (R400). -/
def State.persist (s : State) : State := { s with p.lifeNv := s.p.life }

/-- A request that meets an error answer: before READY, or out of order (R392). -/
def State.spdmError (s : State) : State := { s with p.answer := [0x7F] }

/-- A management message acts once READY is set; before, it gets an error response (R392; log entry 30). -/
def State.message (s t : State) : Host.Outcome State Fault Refusal := .next (if s.p.ready then t else s.spdmError)

/-- LIFETIME_READ (R400): a management message reads the whole record: kind, part, bin and count of each. -/
def execLifetimeRead (s : State) : Host.Outcome State Fault Refusal :=
  s.message { s with p.answer := (s.p.life.filter fun x => decide (x.1.1 < 11)).flatMap fun x => [x.1.1, x.1.2.1, x.1.2.2, x.2] }

/-- Corrected errors rise: parts below 768 are cores, the twelve after them stacks (R400). -/
def State.corrected (s : State) (parts : List Nat) : State :=
  parts.foldl (fun (t : State) x => if x < 768 then t.bump (0, x, 0) else if x < 780 then t.bump (1, x - 768, 0) else t) s

/-- LIFETIME_PERSIST (R400): the counts are written to the store; with the event's flag an error is corrected at each part that the
event lists, which its record counts (log entry 83). -/
def execLifetimePersist (s : State) : Host.Outcome State Fault Refusal :=
  .next (if s.u.ev.flag then s.corrected s.u.ev.list else s.persist)

/-- HISTOGRAM_MINUTE (R400): the event lists the temperature bins of the four dies, then the voltage bin of each rail;
sixty minutes make a powered hour. -/
def execHistogramMinute (s : State) : Host.Outcome State Fault Refusal :=
  let s1 := ((s.u.ev.list.take 4).zipIdx).foldl (fun (t : State) x => t.bump (4, x.2, min x.1 15)) s
  let s2 := ((s.u.ev.list.drop 4).zipIdx).foldl (fun (t : State) x => t.bump (5, x.2, min x.1 15)) s1
  let m := s2.p.life.look (11, 0, 0) 0
  .next (if m = 59 then ({ s2 with p.life := s2.p.life.put (11, 0, 0) 0 } : State).bump (10, 0, 0)
    else s2.bump (11, 0, 0))

/-! ### Images (R395) -/

/-- The kind of a controller: dispatch, fabric, memory and clearing, power and security. -/
def kindOf (c : Nat) : Nat := if c < 4 then 0 else c - 3

/-- A controller's slots as they stand: at first each slot A holds the image of the factory (log entry 12). -/
def State.ctrl (s : State) (c : Nat) : Ctrl :=
  s.p.ctrl.look c { slotA := some { kind := kindOf c, version := 0, lo := 0, hi := 0, body := [], sig := [] } }

/-- Write a controller's record. -/
def State.setCtrl (s : State) (c : Nat) (x : Ctrl) : State := { s with p.ctrl := s.p.ctrl.put c x }

/-- The floor of a controller's kind; the dispatch controllers share one (R395). -/
def State.floorOf (s : State) (c : Nat) : Nat := (s.ctrl (if c < 4 then 0 else c)).floor

/-- The bytes that a signature covers: header and body. -/
def Image.signed (i : Image) : List Nat := [i.kind, i.version, i.lo, i.hi, i.body.length] ++ i.body

/-- An image is authentic for a controller (R395; log entry 10). -/
def Image.authentic (i : Image) (c : Nat) : Bool :=
  decide (i.kind = kindOf c) && Config.verify (i.signed ++ i.sig)

/-- The active slot, and the other one. -/
def Ctrl.active (x : Ctrl) : Option Image := if x.activeB then x.slotB else x.slotA
def Ctrl.inactive (x : Ctrl) : Option Image := if x.activeB then x.slotA else x.slotB

/-- The image that stage 4 starts, the active slot's first (R395). -/
def State.startImage (s : State) (c : Nat) : Option (Bool × Image) :=
  let x := s.ctrl c
  let good := fun (i : Option Image) => i.filter fun i => i.authentic c && decide (s.floorOf c ≤ i.version)
  match good x.active with
  | some i => some (x.activeB, i)
  | none => (good x.inactive).map fun i => (!x.activeB, i)

/-- An authentic image of a controller fails only the floor. -/
def State.underFloor (s : State) (c : Nat) : Bool :=
  let x := s.ctrl c
  [x.slotA, x.slotB].any fun i => match i with
    | some i => i.authentic c
    | none => false

/-! ### Wall time (R7, R394; log entry 4) -/

/-- Picoseconds from clk `n` to clk `to_`, the latest of them at `mhz` MHz, the others at the clocks that ended since. -/
def clockPs (n to_ mhz : Nat) : List (Nat × Nat) → Nat
  | [] => (to_ - n) * 10 ^ 6 / mhz
  | (e, m) :: rest => if e ≤ n then (to_ - n) * 10 ^ 6 / mhz else (to_ - e) * 10 ^ 6 / mhz + clockPs n e m rest

/-- Picoseconds since a clk. -/
def State.psSince (s : State) (n : Nat) : Nat := clockPs n s.u.clk s.p.mhz s.p.clocks

/-- Not more than some milliseconds have passed since a clk. -/
def State.within (s : State) (since ms : Nat) : Bool := decide (s.psSince since ≤ ms * 10 ^ 9)

/-- Some milliseconds have passed since a clk. -/
def State.took (s : State) (since ms : Nat) : Bool := decide (ms * 10 ^ 9 ≤ s.psSince since)

/-- The arithmetic clock changes (R394). -/
def State.setClock (s : State) (mhz : Nat) : State :=
  if mhz = s.p.mhz then s else { s with p.clocks := (s.u.clk, s.p.mhz) :: s.p.clocks, p.mhz := mhz }

/-! ### Bring-up and power (R390 to R394) -/

/-- Is a location host memory or another module's? Nothing that happens to this module changes what they hold. -/
def apart (dev a : Nat) : Bool := decide ((2 ^ 64 ≤ a ∧ a < 2 ^ 65) ∨ (a < 2 ^ 64 ∧ a / 2 ^ 40 ≠ dev))

/-- Memory without this module's own: host memory and the other modules'. -/
def Mems.others (m : Mems) (dev : Nat) : Mems :=
  { mem := m.mem.filter fun x => apart dev x.1, poison := m.poison.filter (apart dev) }

/-- What a loss of power leaves: the flash slots and floors, the lifetime store, memory outside the module with its keys, and the
model's bookkeeping. -/
def State.powerOff (s : State) : State :=
  let keep := ([0, 1, 2, 3, 4, 5, 6] : List Nat).map fun c => (c, { s.ctrl c with running := none, upd := none })
  { u := s.u
    k := { keyBase := s.k.keyBase + 1 + (s.k.keyGen.map (·.2)).sum, lineKey := s.k.lineKey.filter fun x => s.lineAway x.1 }
    m := s.m.others s.f.dev
    p := { ctrl := keep, life := s.p.lifeNv, lifeNv := s.p.lifeNv, powered := false } }

/-- Bring-up stops (R390). -/
def State.bringUpFail (s : State) (stage code : Nat) : State :=
  { s with p.failed := true, p.stage := stage, p.code := code }

/-- Stage 4 of bring-up: every controller's image is authenticated and started, or bring-up stops with 0x05, or 0x06 when
an authentic image fails only the floor. -/
def State.startAll (s : State) : State :=
  let cs : List Nat := [0, 1, 2, 3, 4, 5, 6]
  match cs.find? fun c => (s.startImage c).isNone with
  | some c => s.bringUpFail 4 (if s.underFloor c then 0x06 else 0x05)
  | none =>
    let t := cs.foldl (fun (t : State) c =>
      match s.startImage c with
      | some (b, i) => t.setCtrl c { t.ctrl c with activeB := b, running := some i }
      | none => t) s
    { t with p.ready := true, p.stage := 5 }

/-- The code of a stage that fails (R390, R391, R393): a rail at stage 0; at stage 1 a stack's PHY, which the event names by
3, or a PLL; the later stages fail by their limit, stage 4 also by its images. -/
def stageCode (stage value : Nat) : Nat :=
  if stage = 0 then 0x01 else if stage = 1 then (if value = 3 then 0x03 else 0x02) else 0x04

/-- A bring-up is at work. -/
def Pkg.starting (p : Pkg) : Bool := p.powered && !p.ready && !p.failed

/-- Stage 0 is entered: what a fundamental reset or power-on leaves, with what the carrier and the pod say of the module. A
fundamental reset keeps the lifetime counts and the channels retired in this cycle of power (R391). -/
def State.bringUpStart (s : State) (e : EventArg) : State :=
  let t := s.powerOff
  { t with
    p.powered := true
    p.stageAt := s.u.clk
    p.life := if s.p.powered then s.p.life else s.p.lifeNv
    m := { t.m.others (e.id % 512) with retiredPc := if s.p.powered then s.m.retiredPc else [] }
    k.lineKey := t.k.lineKey.filter fun x => decide (x.1 / 2 ^ 33 ≠ e.id % 512)
    f.dev := e.id % 512
    f.podSize := max 1 e.size
    f.planes := (e.list.filter fun x => decide (2 ^ 20 ≤ x ∧ x < 2 ^ 30)).foldl (fun (t : Tab Nat (List Nat)) x =>
      let d := (x - 2 ^ 20) / 64
      t.put d (t.look d [] ++ [x % 64])) [] }

/-- The limit of a stage in milliseconds (R390). -/
def stageLimit (stage : Nat) : Nat := ([50, 200, 2000, 200, 500] : List Nat).getD stage 0

/-- The stage at work is beyond its limit (R390). -/
def State.stageLate (s : State) : Bool := !s.within s.p.stageAt (stageLimit s.p.stage)

/-- The stages before `n` pass (R391): stage 1 leaves the ports down whose SerDes fail, stage 2 retires the pseudo-channels that
fail training, beside those retired before in this cycle of power. The stage entered begins. -/
def State.passStages (s : State) (e : EventArg) (n : Nat) : State :=
  let bad := (s.m.retiredPc ++ e.list.filter (· < 768)).eraseDups
  let ports := (e.list.filter fun x => decide (2 ^ 16 ≤ x ∧ x < 2 ^ 20)).map (· - 2 ^ 16)
  let t : State := if s.p.stage < 2 ∧ 2 ≤ n then { s with f.down := s.f.down ++ ports } else s
  let t : State := if s.p.stage < 3 ∧ 3 ≤ n then
      bad.foldl (fun t k => t.bump (9, k, 0)) { t with m.retiredPc := bad, p.degraded := !bad.isEmpty }
    else t
  { t with p.stage := n, p.stageAt := if s.p.stage < n then s.u.clk else s.p.stageAt }

/-- BRING_UP (R390 to R392): power-on or a fundamental reset, or, with 2^30 in `list`, the bring-up at work goes on, unless its
stage is beyond its limit. The event
says the stage that is entered next after all before it have passed (`n`), whether that stage fails (`value`, 0: it is at
work), the pseudo-channels that fail training (`list`), the UX ports that stay down (2^16 and above in `list`), the planes on
which each peer's port is up (2^20 + 64 × peer + plane in `list`), and the device number and pod size (`id`, `size`); with the flag stage
4 is still at work (log entry 66). -/
def execBringUp (s : State) : Host.Outcome State Fault Refusal :=
  let e := s.u.ev
  let on := decide (2 ^ 30 ∈ e.list)
  if on && !s.p.starting then .next s
  else if on && s.stageLate then .next (s.bringUpFail s.p.stage 0x04)
  else
    let b := if on then s else s.bringUpStart e
    let n := max b.p.stage (min e.n 5)
    let t := b.passStages e n
    if n ≤ 4 ∧ e.value ≠ 0 then .next (t.bringUpFail n (stageCode n e.value))
    else if n ≤ 3 ∨ (n = 4 ∧ e.flag) then .next t
    else .next t.startAll

/-- STAGE_TIMEOUT (R390): the stage at work exceeds its limit. -/
def execStageTimeout (s : State) : Host.Outcome State Fault Refusal :=
  if s.p.starting && s.stageLate then .next (s.bringUpFail s.p.stage 0x04) else .next s

/-- POWER_DOWN (R400): the counts are written, and power is removed. -/
def execPowerDown (s : State) : Host.Outcome State Fault Refusal := .next s.persist.powerOff

/-- POWER_LOSS (R377, R400): power is lost, with the counts since the last write of the store. -/
def execPowerLoss (s : State) : Host.Outcome State Fault Refusal := .next s.powerOff

/-- THERMAL_TRIP (R394, R401): a junction at 120 °C or more; the event's `n` is its temperature. The trip is counted in the
store, and power is removed. -/
def execThermalTrip (s : State) : Host.Outcome State Fault Refusal :=
  if 120 ≤ s.u.ev.n then .next (s.bumpStored (8, 0, 0)).powerOff else .next s

/-- SET_POWER_CAP (R394): from 1,000 W to 3,200 W; another value changes nothing (log entry 30). -/
def execSetPowerCap (s : State) : Host.Outcome State Fault Refusal :=
  let w := s.u.ev.value
  s.message (if 1000 ≤ w ∧ w ≤ 3200 then { s with p.cap := w } else s)

/-- A measurement exceeds a limit: the average power over 10 ms (`value`, in W) the cap, or the hottest junction (`n`, in °C)
105 (R394). -/
def State.tooHot (s : State) : Bool := decide (s.p.cap < s.u.ev.value ∨ 105 ≤ s.u.ev.n)

/-- CLOCK_LOWER (R394): a measurement that exceeds a limit lowers the clock by 20 MHz, down to 470 MHz. -/
def execClockLower (s : State) : Host.Outcome State Fault Refusal :=
  .next (if s.tooHot then { s.setClock (max 470 (s.p.mhz - 20)) with p.hotAt := s.u.clk } else s)

/-- CLOCK_RAISE (R394): by 20 MHz, up to 940 MHz, once no limit has been exceeded for 100 ms. -/
def execClockRaise (s : State) : Host.Outcome State Fault Refusal :=
  .next (if s.tooHot then { s with p.hotAt := s.u.clk }
    else if s.took s.p.hotAt 100 then s.setClock (min 940 (s.p.mhz + 20)) else s)

/-! ### Version floors (R395) -/

/-- FLOOR_RAISE (R395): the floor of a controller's kind rises to the running version; it never falls. -/
def execFloorRaise (s : State) : Host.Outcome State Fault Refusal :=
  let c := s.u.ev.id
  let k := if c < 4 then 0 else c
  match (s.ctrl c).running with
  | some i => s.message (if c < 7 then s.setCtrl k { s.ctrl k with floor := max (s.ctrl k).floor i.version } else s)
  | none => s.message s

/-! ### Attestation (R399) -/

/-- An SPDM answer: its response code and its data. Codes and the order of requests are those of SPDM 1.2 (log entry
10). -/
def State.reply (s : State) (stage code : Nat) (data : List Nat) : State :=
  { s with p.spdm := stage, p.answer := code :: data }

/-- A request that needs the connection to have reached a stage. -/
def State.spdm (s : State) (need stage code : Nat) (data : List Nat) : State :=
  if s.p.ready ∧ need ≤ s.p.spdm then s.reply stage code data else s.spdmError

/-- Measurement k from 1 to 7 (R399): the digest of a controller's running image. -/
def State.measurement (s : State) (k : Nat) : Nat :=
  match (s.ctrl (k - 1)).running with
  | some i => Config.digest i.signed
  | none => 0

/-- The measurements (R399): indices 1 to 7, and as index 8 the fused floors of the four controller kinds. -/
def State.measurements (s : State) : List Nat :=
  ([1, 2, 3, 4, 5, 6, 7] : List Nat).map s.measurement ++ ([0, 4, 5, 6] : List Nat).map s.floorOf

/-- GET_VERSION: version 1.2; the connection starts afresh. -/
def execGetVersion (s : State) : Host.Outcome State Fault Refusal := .next (s.spdm 0 1 0x04 [0x12])
/-- GET_CAPABILITIES. -/
def execGetCapabilities (s : State) : Host.Outcome State Fault Refusal := .next (s.spdm 1 2 0x61 [])
/-- NEGOTIATE_ALGORITHMS: ECDSA P-256 and SHA-256 only. -/
def execNegotiateAlgorithms (s : State) : Host.Outcome State Fault Refusal := .next (s.spdm 2 3 0x63 [256, 256])
/-- GET_DIGESTS: the digest of the certificate chain. -/
def execGetDigests (s : State) : Host.Outcome State Fault Refusal :=
  .next (s.spdm 3 s.p.spdm 0x01 [Config.digest [Config.certChain 0]])
/-- GET_CERTIFICATE. -/
def execGetCertificate (s : State) : Host.Outcome State Fault Refusal :=
  .next (s.spdm 3 s.p.spdm 0x02 [Config.certChain s.u.ev.id])
/-- CHALLENGE: an answer to the event's nonce signed with the module identity key. -/
def execChallenge (s : State) : Host.Outcome State Fault Refusal :=
  .next (s.spdm 3 s.p.spdm 0x03 [Config.digest [Config.certChain 0], Config.sign [Config.certChain 0, s.u.ev.value]])
/-- GET_MEASUREMENTS: indices 1 to 8, signed with the event's nonce. -/
def execGetMeasurements (s : State) : Host.Outcome State Fault Refusal :=
  let m := s.measurements
  .next (s.spdm 3 s.p.spdm 0x60 (m ++ [Config.sign (m ++ [s.u.ev.value])]))

/-! ### Messages to the fabric manager (R418, R424) -/

/-- SET_ARREARS (R418): the thresholds of tiers 1 and 2, and the access threshold of R424 that is set the same way, the same in every
core; with the event's flag SYS_MIGTHRESH (`n`) alone. -/
def execSetArrears (s : State) : Host.Outcome State Fault Refusal :=
  let w := fun n => BitVec.ofNat 32 (n % 2 ^ 16)
  s.message (if s.u.ev.flag then s.setCoreReg 0 0x84 (w s.u.ev.n)
    else (s.setCoreReg 0 0x82 (w s.u.ev.id)).setCoreReg 0 0x83 (w s.u.ev.value))

/-- MIGRATION_POOL (R424): the host gives frames. -/
def execMigrationPool (s : State) : Host.Outcome State Fault Refusal :=
  s.message { s with f.migPool := s.f.migPool ++ s.u.ev.list }

end Sys2Proof.Machine
end

