-- ==== Sys2Proof/Machine/Fabric.lean ====
section
/-! DEFINITION. The fabric (R414 to R428): MIGRATE (R425) and PEERID (R426); and the events FLIT_RECEIVE, LINK_RETRAIN
(R415), ARREARS_WIN (R418), REMOTE_ACCESS (R420), RECALL_RELEASE (R287) and MIGRATION_RUN (R424). -/

namespace Sys2Proof.Machine

/-! ### PEERID and MIGRATE -/

/-- Use of a scalar unit of major 0x1E that takes no prefix (R427, R448). -/
def State.useFabric (s : State) (legal : Bool) : Use := { major := 0x1E, legal := s.bare && legal, cover := false }

/-- What PEERID reports (R426): device number, modules of the pod, up ports. -/
def State.peerWord (s : State) : Word :=
  BitVec.ofNat 32 (s.f.dev % 2 ^ 9 + s.f.podSize % 2 ^ 10 * 2 ^ 9 + ((List.range 64).filter s.portUp).length * 2 ^ 19)

/-- What PEERID.Q reports of a peer (R426). -/
def State.queryPeer (s : State) (n : Nat) : Word :=
  if 511 < n then 0
  else if n = s.f.dev then BitVec.ofNat 32 (2 ^ 31 + n)
  else BitVec.ofNat 32 ((if s.reachable n then 2 ^ 31 else 0) + (s.planesTo n).length * 2 ^ 16 + n)

/-- PEERID (R426, R427). -/
def meanPeerid (o : OpSd) (s : State) : Meaning :=
  Meaning.mk (s.useFabric true) (fun t => .ok (t.setSAll o.sd.toNat t.peerWord))
/-- PEERID: its issue unit, run. -/
def execPeerid (o : OpSd) (s : State) : Host.Outcome State Fault Refusal := (meanPeerid o s).run s

/-- PEERID.Q (R426, R427). -/
def meanPeeridQ (o : OpX1) (s : State) : Meaning :=
  Meaning.mk (s.useFabric true) (fun t => .ok (t.setSAll o.sd.toNat (t.queryPeer (t.leadS o.sa.toNat))))
/-- PEERIDQ: its issue unit, run. -/
def execPeeridQ (o : OpX1) (s : State) : Host.Outcome State Fault Refusal := (meanPeeridQ o s).run s

/-- The code of MIGRATE for an address, and the migration it queues (R425): QUEUED 0, NOTMOC 1, PENDING 2, PAGE 3,
FULL 4. -/
def State.migrateCode (s : State) (core asid va : Nat) : Nat × List Mig :=
  let die := core / 192
  match if va < 2 ^ 56 then s.translate core asid va 0 else none with
  | none => (3, [])
  | some lf =>
    if s.modeOf lf ≠ 3 then (1, [])
    else if s.migQueued asid lf.va then (2, [])
    else if 64 ≤ (s.f.migQ.filter fun m => decide (m.die = die)).length then (4, [])
    else (0, [{ die := die, asid := asid, va := lf.va }])

/-- MIGRATE (R425, R427): an odd Sa is illegal. -/
def meanMigrate (o : OpX1) (s : State) : Meaning :=
  Meaning.mk (s.useFabric (regEven o.sa.toNat))
    (fun t =>
      let va := t.leadAddr o.sa.toNat
      let r := t.migrateCode (t.coreOf t.gid) t.asid va
      let t := if va < 2 ^ 56 then t.missWalks (t.coreOf t.gid) t.asid [va] else t
      let t : State := { t with f.migQ := t.f.migQ ++ r.2 }
      .ok (t.setSAll o.sd.toNat (BitVec.ofNat 32 r.1)))
/-- MIGRATE: its issue unit, run. -/
def execMigrate (o : OpX1) (s : State) : Host.Outcome State Fault Refusal := (meanMigrate o s).run s

/-! ### Links (R415, R418) -/

/-- FLIT_RECEIVE (R415): a flit arrives on a port; one with a bad CRC is dropped and replayed, with the flits that followed it, and
the failures in a row are counted: the flit's own, and then its failed replays. -/
def execFlitReceive (s : State) : Host.Outcome State Fault Refusal :=
  let e := s.u.ev
  if 64 ≤ e.id then .next s
  else
    let n := if e.flag then 0 else s.f.replays.look e.id 0 + 1
    .next { s with f.replays := s.f.replays.put e.id n }

/-- Every round that waits for a peer which is no longer reachable ends with FABRIC (R430, R431). -/
def State.failLostAll (s : State) : State :=
  s.f.jobs.foldl (fun t j => (t.failLost (.podsync j.num)).failLost (.settleP j.num)) s

/-- A port goes down, and every round that has lost a peer by it ends (R414, R415). What its retry buffer holds goes to the port that
R416 chooses next, in its order and ahead of what follows on the path (log entry 72). -/
def State.portDown (s : State) (port : Nat) : State :=
  { s with
    f.down := if port ∈ s.f.down then s.f.down else s.f.down ++ [port]
    f.replays := s.f.replays.put port 0 }.failLostAll

/-- The ends that some peers have of a plane go down (R414). -/
def State.farDown (s : State) (port : Nat) (peers : List Nat) : State :=
  { s with f.planes := s.f.planes.map fun (x : Nat × List Nat) => (x.1, if x.1 ∈ peers then x.2.filter (· ≠ port) else x.2) }.failLostAll

/-- The fabric manager's image is being replaced: none runs until the import (R396, R398, R432). -/
def State.fabricHeld (s : State) : Bool :=
  match (s.ctrl 4).upd with
  | some (.held _) | some (.rolling _) => true
  | _ => false

/-- A port change is acted on: its own end where no peers are named. -/
def State.portChange (s : State) (port : Nat) (peers : List Nat) : State :=
  if peers.isEmpty then s.portDown port else s.farDown port peers

/-- A port change occurs: it waits while the fabric manager is updated (R432). -/
def State.portEvent (s : State) (port : Nat) (peers : List Nat) : State :=
  if s.fabricHeld then { s with f.portWait := s.f.portWait ++ [(port, peers)] } else s.portChange port peers

/-- The port changes that waited are acted on after the import (R432). -/
def State.applyPorts (s : State) : State :=
  if s.f.portWait.isEmpty || s.fabricHeld then s
  else s.f.portWait.foldl (fun (t : State) x => t.portChange x.1 x.2) { s with f.portWait := [] }

/-- A link has come to the end of its replays: a flit and 16 replays of it in a row have failed (R415). -/
def State.linkSpent (s : State) (port : Nat) : Bool := decide (17 ≤ s.f.replays.look port 0)

/-- LINK_RETRAIN (R415): after 16 failed replays in a row the link of a port retrains, which is counted, and one that fails to
goes down; the flag says that it came up. With `size` 1 the ends that the peers of `list` have of the plane go down. -/
def execLinkRetrain (s : State) : Host.Outcome State Fault Refusal :=
  let e := s.u.ev
  if e.size = 1 then .next (if e.list.isEmpty then s else s.portEvent e.id e.list)
  else if 64 ≤ e.id ∨ !s.linkSpent e.id ∨ e.id ∈ s.f.down ∨ (e.id, []) ∈ s.f.portWait then .next s
  else
    let t := s.bump (6, e.id, 0)
    .next (if e.flag then { t with f.replays := t.f.replays.put e.id 0 } else t.portEvent e.id [])

/-- Threshold of a tier's arrears counter (R418); 0 acts as 1. -/
def State.arrearsLimit (s : State) (tier : Nat) : Nat :=
  max 1 ((s.coreReg 0 (if tier = 1 then 0x82 else 0x83)).toNat % 65536)

/-- The arrears counter of a tier at a point has reached its threshold. -/
def State.inArrears (s : State) (point tier : Nat) : Bool :=
  decide (s.arrearsLimit tier ≤ s.f.arrears.look (point, tier) 0)

/-- The tier that an arbitration point grants among those that wait (R418): tier 1, then tier 2, whose counter is at its threshold,
else the first in strict order. -/
def State.grantTier (s : State) (point : Nat) (waiting : List Nat) : Option Nat :=
  if 1 ∈ waiting ∧ s.inArrears point 1 then some 1
  else if 2 ∈ waiting ∧ s.inArrears point 2 then some 2
  else ([0, 1, 2] : List Nat).find? fun t => decide (t ∈ waiting)

/-- The counters of an arbitration point rise by some clk for the tiers that wait there (R418); tier 0 has none. -/
def State.addArrears (s : State) (point clks : Nat) (waiting : List Nat) : State :=
  ([1, 2] : List Nat).foldl (fun (t : State) k =>
    if k ∈ waiting then { t with f.arrears := t.f.arrears.put (point, k) (t.f.arrears.look (point, k) 0 + clks) } else t) s

/-- ARREARS_WIN (R417, R418): flits of some traffic (`list`), of their tiers' request or response channels, have waited `value` more
clk at an arbitration point without a grant; with the flag a grant is made, and a tier that wins it by its counter starts
again at 0. -/
def execArrearsWin (s : State) : Host.Outcome State Fault Refusal :=
  let e := s.u.ev
  let waiting := e.list.map fun n => (Traffic.ofNum n).tier
  let t := s.addArrears e.id e.value waiting
  if !e.flag then .next t
  else match t.grantTier e.id waiting with
    | none => .next t
    | some k =>
      let u : State := { t with f.grants := t.f.grants.put e.id k }
      .next (if k ≠ 0 ∧ t.inArrears e.id k then { u with f.arrears := u.f.arrears.put (e.id, k) 0 } else u)

/-! ### Accesses of other modules (R420) -/

/-- The request of an event. -/
def EventArg.request (e : EventArg) : Request :=
  let n := fun i => e.list.getD i 0
  { il := n 0 % 8, key := n 1 % 8192, kind := n 2, op := n 3 % 16, wid := n 4 % 4, core := n 5, psize := n 6, data2 := n 7 }

/-- The leaf under which a home sees a peer's access: no translation, the scheme and key of the request. -/
def Request.leaf (r : Request) : Leaf := { size := 2 ^ 40, key := r.key, il := r.il }

/-- The atomic operations by number. -/
def atomOfNat (n : Nat) : AtomOp :=
  ([.add, .min, .max, .and, .or, .xor, .exch, .cas, .fadd32, .fadd64, .fmin32, .fmax32, .faddh2, .faddb2, .inc,
    .dec] : List AtomOp).getD n .add

/-- The agent of a peer's access: no team of this module holds tenure for it; an engine's read is never held. -/
def Request.agent (r : Request) : Agent := if r.kind = 4 then { engine := some (.copy 0) } else {}

/-- Does the request write? -/
def Request.write (r : Request) : Bool := decide (r.kind = 1 ∨ r.kind = 2 ∨ r.kind = 3)

/-- Bytes written at home for a peer (R259, R391). -/
def State.remoteWrite (s : State) (r : Request) (pa v n : Nat) : State :=
  let loc := s.locHere r.il pa
  s.homeWrite r.leaf pa loc v n false

/-- Serve a peer's request: the answer (none for poison), and what it leaves. It is not translated. -/
def State.serveRemote (s : State) (r : Request) (pa size v : Nat) : Option Nat × State :=
  let loc := s.locHere r.il pa
  let t := s.homeTouch r.agent r.core none r.leaf pa r.write
  let bad := t.poisoned loc size || t.retiredAt r.leaf pa
  let old := t.load loc size
  match r.kind with
  | 1 => (some 0, t.remoteWrite r pa v size)
  | 2 => if bad then (none, t) else (some old, t.remoteWrite r pa (atomResult (atomOfNat r.op) (8 * size) old v r.data2) size)
  | 3 =>
    if bad then (some 0, t)
    else if r.op = 7 then
      (some 0, t.applyAppend { src := r.core, dev := s.f.dev, pa := pa, op := 7, wid := r.wid, val := v, il := r.il,
                               key := r.key, psize := r.psize })
    else (some 0, t.remoteWrite r pa (recWord r.op r.wid old v) size)
  | _ => if bad then (none, t) else (some old, t)

/-- A peer's request is served, and answered. -/
def State.answerPeer (s : State) (r : Request) (pa size v : Nat) : State :=
  let a := s.serveRemote r pa size v
  { a.2 with f.resp := a.1, f.retried := false }

/-- A peer's request that recalls keep from its home leaves the request queue: its breaches count as it arrives, and it waits in the
recall holding space, or with that space full is answered with a retry (R287, R419). -/
def State.holdPeer (s : State) (r : Request) (pa size v : Nat) (hs : List Tenure) : State :=
  let t := s.breach r.agent pa r.write
  if s.holding (homeDie r.il pa) (homeSlice pa) < 64 then
    { t with
      f.retried := false
      f.peerHeld := t.f.peerHeld ++
        [{ id := t.u.uid, req := r, pa := pa, size := size, value := v, holders := hs.map (·.holder), time := t.u.seqNo }]
      u.uid := t.u.uid + 1 }
  else { t with f.retried := true }

/-- The writes that a held request waits for are performed (R287). -/
def State.peerDone (s : State) (q : PeerReq) : Bool :=
  q.holders.all fun h => s.holderClear q.req.agent h q.pa (s.locHere q.req.il q.pa) q.time

/-- A module's write of its own memory, or another's: it reaches no copy that this module keeps (R333, R423). -/
def State.peerWrite (s : State) (dev : Nat) (r : Request) (pa size v : Nat) : State :=
  let loc := locPa dev 0 r.il pa
  let old := s.load loc size
  match r.kind with
  | 1 => s.store loc v size
  | 2 => s.store loc (atomResult (atomOfNat r.op) (8 * size) old v r.data2) size
  | 3 => if r.op = 7 then s else s.store loc (recWord r.op r.wid old v) size
  | _ => s

/-- The module at which a request is served: the ninth entry of the event's list, or this one. -/
def State.servedAt (s : State) : Nat := s.u.ev.list.getD 8 s.f.dev % 512

/-- REMOTE_ACCESS (R419, R420): a peer's request is served at the home of its PA, or held there by a recall; it is neither
translated nor checked for permission. A request that is served at another module writes that module's memory (R333). -/
def execRemoteAccess (s : State) : Host.Outcome State Fault Refusal :=
  let e := s.u.ev
  let r := e.request
  if s.servedAt ≠ s.f.dev ∧ 1 ≤ e.size ∧ e.id % 128 + e.size ≤ 128 ∧ e.id < hostWindow then
    .next (s.peerWrite s.servedAt r e.id e.size e.value)
  else if e.size = 0 ∨ 128 < e.id % 128 + e.size ∨ 2 ^ 40 ≤ e.id then .next s
  else
    let hs := s.recallers r.agent e.id r.write
    .next (if hs.isEmpty then s.answerPeer r e.id e.size e.value else s.holdPeer r e.id e.size e.value hs)

/-- RECALL_RELEASE (R287): the holder's writes to the line are performed, and the held access of a lane or of a peer is
served. -/
def execRecallRelease (s : State) : Host.Outcome State Fault Refusal :=
  match s.acc? s.u.ev.id with
  | some a =>
    match a.leaf, a.phase with
    | some lf, .recalled => if s.recallDone a then .next (s.serve a lf) else .next s
    | _, _ => .next s
  | none =>
    match s.f.peerHeld.find? fun q => decide (q.id = s.u.ev.id) with
    | none => .next s
    | some q =>
      if s.peerDone q then
        .next (({ s with f.peerHeld := s.f.peerHeld.filter fun x => decide (x.id ≠ q.id) } : State).answerPeer q.req q.pa q.size q.value)
      else .next s

/-! ### Migration (R424) -/

/-- Physical address of the leaf entry that a walk finds. -/
def State.leafLoc (s : State) (va base : Nat) : List (Nat × Nat) → Option Nat
  | [] => none
  | (lo, n) :: rest =>
    let a := base + 16 * (va / 2 ^ lo % 2 ^ n)
    let e := s.load (s.locPhys a) 16
    if !bit e 0 then none
    else if bit e 1 then some a
    else s.leafLoc va (e / 2 ^ 8 % 2 ^ 32 * 2 ^ 8) rest

/-- An entry with another frame, mode and peer; the peer field stays when `peer` is none. -/
def leafRewrite (e frame mode : Nat) (peer : Option Nat) : Nat :=
  let p := peer.getD (bits e 85 77)
  bits e 9 0 + mode * 2 ^ 10 + bits e 15 12 * 2 ^ 12 + frame / 2 ^ 16 % 2 ^ 24 * 2 ^ 16 + bits e 63 40 * 2 ^ 40 +
    bits e 76 64 * 2 ^ 64 + p % 512 * 2 ^ 77 + e / 2 ^ 86 * 2 ^ 86

/-- Rewrite the leaf that a die's walk of (ASID, VA) finds, if it is in mode 00 or 11. -/
def State.rewriteLeaf (s : State) (die asid va frame mode : Nat) (peer : Option Nat) : State :=
  let ctx := (s.dieReg die 0xC6).toNat % 2 ^ 20 * 2 ^ 20
  let e := s.load (s.locPhys (ctx + 16 * asid)) 16
  match s.walk die asid va, s.leafLoc va (e / 2 ^ 17 % 2 ^ 23 * 2 ^ 17) walkLevels with
  | some lf, some a =>
    if lf.mode = 0 ∨ lf.mode = 3 then s.physStore a (leafRewrite (s.load (s.locPhys a) 16) frame mode peer) 16 else s
  | _, _ => s

/-- Rewrite it on every die. -/
def State.rewriteLeaves (s : State) (asid va frame mode : Nat) (peer : Option Nat) : State :=
  ([0, 1, 2, 3] : List Nat).foldl (fun (t : State) d => t.rewriteLeaf d asid va frame mode peer) s

/-- The leaf of a page as the first die that maps it has it. -/
def State.anyWalk (s : State) (asid va : Nat) : Option Leaf :=
  ([0, 1, 2, 3] : List Nat).findSome? fun d => s.walk d asid va

/-- What makes the home give a migration up (R424): a live tile handle on the page, or a record of it in a bin. -/
def State.migBlocked (s : State) (lf : Leaf) : Bool :=
  (s.e.tiles.any fun t => t.live && t.foot.pages.any fun p =>
      decide (p.frame < lf.frame + lf.size ∧ lf.frame < p.frame + p.size)) ||
    s.e.bins.any fun b => b.recs.any fun r =>
      decide (r.dev = s.f.dev ∧ lf.frame ≤ r.pa ∧ r.pa < lf.frame + lf.size)

/-- An access that went out on the page before it was held is still to be performed. -/
def State.migBusy (s : State) (asid page : Nat) : Bool :=
  s.k.acc.any fun a => !a.isHeld && decide (a.phase ≠ .performed ∧ (s.launch a.lane.t).asid = asid) && match a.leaf with
    | some lf => decide (lf.va = page)
    | none => false

/-- Copy `n` bytes of a page from its old home, under its old key, into a frame of this module (R381, R424). -/
def State.copyPage (s : State) (old new : Leaf) : Nat → State
  | 0 => s
  | n + 1 =>
    let src := locPa old.peer 0 old.il (old.frame + n)
    let pa := new.frame + n
    let dst := s.locHere new.il pa
    let t := (s.rekey src (old.frame + n) old.key).rekey dst pa new.key
    let t := t.homeWrite new pa dst (t.load src 1) 1 true
    (if t.poisoned src 1 then t.poisonBytes dst 1 else t).copyPage old new n

/-- The holds of a page are released: what waited is performed under the new translation, each access once; that of a
saved team when it is restored (R424). -/
def State.releaseHold (s : State) (asid page size : Nat) : State :=
  let mine := fun (a : Access) =>
    decide (a.phase = .held migCode ∧ (s.launch a.lane.t).asid = asid ∧ page ≤ a.gaddr ∧ a.gaddr < page + size)
  let us := ((s.k.acc.filter mine).map fun a => (a.sid, a.seq, a.lane.t)).eraseDups
  let t : State := { s with
    f.migHold := s.f.migHold.filter (· ≠ (asid, page))
    k.acc := s.k.acc.map fun a => if mine a then { a with phase := .held 0 } else a }
  us.foldl (fun u x => if (u.team x.2.2).status = .saved then u else u.replayHeld x.1 x.2.1) t

/-- TLBs drop a page's old translation (R361, R424). -/
def State.dropPage (s : State) (asid page size : Nat) : State :=
  { s with k.tlb := s.k.tlb.filter fun t =>
      !decide (t.asid = asid ∧ t.leaf.va < page + size ∧ page < t.leaf.va + t.leaf.size) }

/-- The hold of a migration begins on this module; its destination first takes the page from its queue, and gives
the migration up with an empty pool. -/
def State.migrationHold (s : State) (asid page dest : Nat) : State :=
  let asked := s.f.migQ.any fun m => decide (m.asid = asid ∧ m.va = page)
  let t : State := { s with
    f.migQ := s.f.migQ.filter fun m => decide (m.asid ≠ asid ∨ m.va ≠ page)
    f.migFar := s.f.migFar.filter (· ≠ (asid, page)) }
  let hold : State := { t with f.migHold := t.f.migHold ++ [(asid, page)] }
  if (asid, page) ∈ s.f.migHold then s
  else if dest = s.f.dev then
    if !asked then s else if s.f.migPool.isEmpty then t else hold
  else
    match s.anyWalk asid page with
    | some lf => if lf.mode = 0 ∧ s.migBlocked lf then s else hold
    | none => hold

/-- A held migration takes effect on this module: as the destination, as the home, or as another module. -/
def State.migrationEnd (s : State) (asid page dest frame : Nat) : State :=
  match s.anyWalk asid page with
  | none => s.releaseHold asid page 65536
  | some lf =>
    let done := fun (t : State) => (t.dropPage asid page lf.size).releaseHold asid page lf.size
    if dest = s.f.dev then
      match s.f.migPool with
      | [] => s.releaseHold asid page lf.size
      | f :: rest =>
        let t := ({ s with f.migPool := rest } : State).copyPage lf { lf with frame := f, mode := 0, peer := 0 } lf.size
        done (t.rewriteLeaves asid page f 0 none)
    else if lf.mode = 0 then
      if s.migBlocked lf then s.releaseHold asid page lf.size
      else
        let t := s.rewriteLeaves asid page frame 3 (some dest)
        done { t with f.migPool := t.f.migPool ++ [lf.frame] }
    else done (s.rewriteLeaves asid page frame 3 (some dest))

/-- MIGRATION_RUN (R424): the event names ASID, page and destination module; `n` 0 begins the hold, 1 carries the
migration out once what went before is performed (`value` being the new frame elsewhere than at the
destination), 2 gives it up; 3 says that another module has queued the page, 4 that it has dropped it from its queue. -/
def execMigrationRun (s : State) : Host.Outcome State Fault Refusal :=
  match s.u.ev.list with
  | [asid, page, dest] =>
    match s.u.ev.n with
    | 0 => .next (s.migrationHold asid page dest)
    | 1 =>
      if (asid, page) ∈ s.f.migHold ∧ !s.migBusy asid page then .next (s.migrationEnd asid page dest s.u.ev.value)
      else .next s
    | 3 => .next { s with f.migFar := if (asid, page) ∈ s.f.migFar then s.f.migFar else s.f.migFar ++ [(asid, page)] }
    | 4 => .next { s with f.migFar := s.f.migFar.filter (· ≠ (asid, page)) }
    | _ =>
      if (asid, page) ∈ s.f.migHold then
        .next (s.releaseHold asid page (((s.anyWalk asid page).map (·.size)).getD 65536))
      else .next s
  | _ => .next s

end Sys2Proof.Machine
end

