-- ==== Sys2Proof/Machine/Group.lean ====
section
/-! DEFINITION. Major 0x10 GROUP: cross-lane instructions over the participants, the lanes of the executing split
with a true effective mask (R151 to R153, R42). -/

namespace Sys2Proof.Machine

/-- Lanes of the group under issue. -/
def State.groupWidth (s : State) : Nat := s.width s.u.iss.team

/-- Bit of mask register ma in lane l. -/
def State.mBit (s : State) (ma l : Nat) : Bool := maskBit (s.getM (s.slice (l / 4)) ma) (l % 4)

/-- VOTE (R151): ANY, ALL and UNI write a mask register, BALLOT a pair. -/
def meanVote (o : OpVote) (s : State) : Meaning :=
  let k := o.sel.toNat
  Meaning.mk
    { major := 0x10
      legal := s.modpOk {} && (if k = 3 then aligned o.vd.toNat 2 else decide (k < 3 ∧ o.vd.toNat < 8))
      dests := if k = 3 then [(o.vd.toNat, 2)] else [] }
    (fun t =>
      let p := t.elanes
      let m := fun l => t.mBit o.ma.toNat l
      match k with
      | 0 => .ok (t.deliverMask o.vd.toNat fun _ => p.any m)
      | 1 => .ok (t.deliverMask o.vd.toNat fun _ => p.all m)
      | 2 => .ok (t.deliverMask o.vd.toNat fun _ => p.all m || !p.any m)
      | _ => .ok (t.deliverAll o.vd.toNat 2 fun _ => laneBits (p.filter m)))
/-- VOTE: its issue unit, run. -/
def execVote (o : OpVote) (s : State) : Host.Outcome State Fault Refusal := (meanVote o s).run s

/-- ELECT (R151): the lowest participant's bit is 1, the others' 0. -/
def meanElect (o : OpElect) (s : State) : Meaning :=
  Meaning.mk { major := 0x10, legal := s.modpOk {} }
    (fun t => .ok (t.deliverMask o.md.toNat fun l => decide (t.elanes.head? = some l)))
/-- ELECT: its issue unit, run. -/
def execElect (o : OpElect) (s : State) : Host.Outcome State Fault Refusal := (meanElect o s).run s

/-- MATCH (R151): the ballot of the participants with the lane's value. -/
def meanMatch (o : OpA1) (s : State) : Meaning :=
  Meaning.mk
    { major := 0x10
      legal := s.modpOk { packs := packsWide } && s.pairOk o.va.toNat && aligned o.vd.toNat 2
      reads := [{ reg := o.va.toNat, n := s.regsPer, trap := o.ta }]
      dests := [(o.vd.toNat, 2)] }
    (fun t => .ok (t.deliverAll o.vd.toNat 2 fun l =>
      laneBits (t.elanes.filter fun j => decide (t.opV j o.va.toNat = t.opV l o.va.toNat))))
/-- MATCH: its issue unit, run. -/
def execMatch (o : OpA1) (s : State) : Host.Outcome State Fault Refusal := (meanMatch o s).run s

/-- The lanes whose va SHFL reads as a checked read (R82, R151): the participants, and the active lanes of the split that a
participant's vb names once it is full. -/
def State.shflLanes (s : State) (vb : Nat) : List Nat :=
  s.act.filter fun j =>
    decide (j ∈ s.elanes) || s.elanes.any fun l =>
      !s.isEmpty (s.lane l) vb && decide ((s.getV (s.lane l) vb).toNat % s.groupWidth = j)

/-- SHFL (R151): va of the participant that vb names, otherwise the lane's own. -/
def meanShfl (o : OpA) (s : State) : Meaning :=
  Meaning.mk
    { major := 0x10
      legal := s.modpOk { packs := packsWide } && s.pairOk o.va.toNat && s.pairOk o.vd.toNat
      reads := [{ reg := o.va.toNat, n := s.regsPer, trap := o.ta, lanes := some (s.shflLanes o.vb.toNat) },
                { reg := o.vb.toNat, trap := o.tb }]
      dests := [(o.vd.toNat, s.regsPer)] }
    (fun t => .ok (t.deliverAll o.vd.toNat t.regsPer fun l =>
      let j := (t.getV (t.lane l) o.vb.toNat).toNat % t.groupWidth
      t.opV (if j ∈ t.elanes then j else l) o.va.toNat))
/-- SHFL: its issue unit, run. -/
def execShfl (o : OpA) (s : State) : Host.Outcome State Fault Refusal := (meanShfl o s).run s

/-- RANK (R151): participants below the lane whose mask bit is set. -/
def meanRank (o : OpRank) (s : State) : Meaning :=
  Meaning.mk { major := 0x10, legal := s.modpOk {}, dests := [(o.vd.toNat, 1)] }
    (fun t => .ok (t.deliverAll o.vd.toNat 1 fun l =>
      (t.elanes.filter fun j => decide (j < l) && t.mBit o.ma.toNat j).length))
/-- RANK: its issue unit, run. -/
def execRank (o : OpRank) (s : State) : Host.Outcome State Fault Refusal := (meanRank o s).run s

/-! ### REDUCE and SCAN -/

/-- The operations of R152 on two elements of width w, or of a floating-point format. -/
def redOp (code w : Nat) (f : Fmt) (r : Rnd) (a b : Nat) : Nat :=
  match code with
  | 0 => (a + b) % 2 ^ w
  | 1 => a * b % 2 ^ w
  | 2 => wrap w (min (sext w a) (sext w b))
  | 3 => wrap w (max (sext w a) (sext w b))
  | 4 => min a b
  | 5 => max a b
  | 6 => a &&& b
  | 7 => a ||| b
  | 8 => a ^^^ b
  | 9 => roundSum f r [f.value a, f.value b]
  | 10 => roundTo f r (f.prod a b)
  | 11 => f.pickNumber false a b
  | 12 => f.pickNumber true a b
  | 13 => f.pick false a b
  | _ => f.pick true a b

/-- The identities of R42. -/
def redIdentity (code w : Nat) (f : Fmt) : Nat :=
  match code with
  | 1 => 1
  | 2 => 2 ^ (w - 1) - 1
  | 3 => 2 ^ (w - 1)
  | 4 => 2 ^ w - 1
  | 6 => 2 ^ w - 1
  | 9 => f.signed true 0
  | 10 => f.bias * 2 ^ f.fb
  | 11 => f.infBits
  | 12 => f.signed true f.infBits
  | 13 => f.infBits
  | 14 => f.signed true f.infBits
  | _ => 0

/-- Floating-point operation codes (R152). -/
def redFloat (code : Nat) : Bool := decide (9 ≤ code)

/-- One level of the fixed tree: neighbours are combined (R152). -/
def pairUp (op : Nat → Nat → Nat) : List Nat → List Nat
  | a :: b :: t => op a b :: pairUp op t
  | l => l

/-- The fixed tree over a list whose length is a power of two (R152); `n` levels. -/
def treeReduce (op : Nat → Nat → Nat) (n : Nat) (xs : List Nat) : List Nat :=
  match n with
  | 0 => xs
  | k + 1 => treeReduce op k (pairUp op xs)

/-- The scan's rounds with distances d, 2d, 4d and on (R153); `n` rounds. -/
def scanRounds (op : Nat → Nat → Nat) (n d : Nat) (xs : List Nat) : List Nat :=
  match n with
  | 0 => xs
  | k + 1 =>
    scanRounds op k (2 * d)
      ((List.range xs.length).map fun i =>
        if d ≤ i then op (xs.getD (i - d) 0) (xs.getD i 0) else xs.getD i 0)

/-- A MODP before REDUCE or SCAN with an op code (R151, R152): integer operations take packings 32 and 64,
floating-point ones also 2×16; rnd stands for both instructions, whatever the operation. -/
def State.redOk (s : State) (code : Nat) : Bool :=
  decide (code < 15) &&
    (if redFloat code then
      s.modpOk { packs := packsFp, rnd := 5, alt := true } && s.fmtOk
    else s.modpOk { packs := packsWide, rnd := 5 })

/-- The values that REDUCE and SCAN combine: element e of each lane of the group, the identity for lanes
outside P (R152). -/
def State.redValues (s : State) (code va e : Nat) : List Nat :=
  let w := (packShape s.pack).2
  (List.range s.groupWidth).map fun l =>
    if l ∈ s.elanes then elem (s.opV l va) e w else redIdentity code w s.fmt

/-- The operation under the unit's packing and rounding; DYN reads the slice R22 names. -/
def State.redFn (s : State) (code : Nat) : Nat → Nat → Nat :=
  redOp code (packShape s.pack).2 s.fmt (s.roundOf s.lead)

/-- REDUCE (R152). -/
def meanReduce (o : OpReduce) (s : State) : Meaning :=
  let code := o.op.toNat
  Meaning.mk
    { major := 0x10
      legal := s.redOk code && s.pairOk o.va.toNat && s.pairOk o.vd.toNat
      reads := [{ reg := o.va.toNat, n := s.regsPer, trap := o.ta }]
      dests := [(o.vd.toNat, s.regsPer)] }
    (fun t =>
      let nw := packShape t.pack
      let r := joinElems nw.2 (fun e =>
        (treeReduce (t.redFn code) 6 (t.redValues code o.va.toNat e)).headD 0) nw.1
      .ok (t.deliverAll o.vd.toNat t.regsPer fun _ => r))
/-- REDUCE: its issue unit, run. -/
def execReduce (o : OpReduce) (s : State) : Host.Outcome State Fault Refusal := (meanReduce o s).run s

/-- SCAN (R153): bit 4 of the code selects the exclusive form. -/
def meanScan (o : OpScan) (s : State) : Meaning :=
  let code := o.op.toNat % 16
  Meaning.mk
    { major := 0x10
      legal := s.redOk code && s.pairOk o.va.toNat && s.pairOk o.vd.toNat
      reads := [{ reg := o.va.toNat, n := s.regsPer, trap := o.ta }]
      dests := [(o.vd.toNat, s.regsPer)] }
    (fun t =>
      let nw := packShape t.pack
      let scan := fun e =>
        let xs := t.redValues code o.va.toNat e
        let ys := if 16 ≤ o.op.toNat then redIdentity code nw.2 t.fmt :: xs.dropLast else xs
        scanRounds (t.redFn code) 6 1 ys
      .ok (t.deliverAll o.vd.toNat t.regsPer fun l =>
        joinElems nw.2 (fun e => (scan e).getD l 0) nw.1))
/-- SCAN: its issue unit, run. -/
def execScan (o : OpScan) (s : State) : Host.Outcome State Fault Refusal := (meanScan o s).run s

end Sys2Proof.Machine
end

