-- ==== Sys2Proof/Machine/Tasks.lean ====
section
/-! DEFINITION. Tasks: blocks of an arena (R346), retirement (R348), and major 0x1D: SPAWN (R350), JOIN (R351), LAUNCH
(R352), TASKEND (R353), QSTAT (R354); and the event TASK_RETIRE. -/

namespace Sys2Proof.Machine

/-! ### Blocks (R346) -/

/-- The grid that owns the arena of a team: a task's is that of the grid whose arena holds its block (R347). -/
def State.arena (s : State) (t : Nat) : Grid :=
  let g := s.grid (s.team t).grid
  match g.parent with
  | some p => s.grid p
  | none => g

/-- Address of block i. -/
def Grid.block (g : Grid) (i : Nat) : Nat := g.launch.taskBase + 64 * i

/-- A page that may hold an arena: local, tracked, not deferred, with the permission that an access needs (R346): a read
needs R, and a read-modify-write R and W (R359). -/
def State.taskPage (s : State) (write : Bool) (lf : Leaf) : Bool :=
  lf.r && (!write || lf.w) && !lf.df && !lf.ut && decide (s.modeOf lf = 0)

/-- The page of a block: an instruction translates on its core, a controller on its die (R358). A poisoned block is a fault of the
access (log entry 82). -/
def State.blockLeaf (s : State) (core : Option Nat) (die : Nat) (g : Grid) (i : Nat) (write : Bool) : Option Leaf :=
  (match core with
   | some c => s.translate c g.launch.asid (g.block i) 121
   | none => s.dieLeaf die g.launch.asid (g.block i)).filter fun lf => s.taskPage write lf && !s.badRead lf (g.block i) 64

/-- Where a task operation runs: the core and team of the instruction, if any, and the die. -/
structure TaskAt where
  core : Option Nat
  die : Nat
  team : Option Nat := none

/-- The agent of a task operation's accesses (R287). -/
def TaskAt.agent (w : TaskAt) (g : Grid) : Agent := { team := w.team, core := w.core, asid := g.launch.asid }

/-- Their chain: that of the instruction's grid, and none for a controller (R378). -/
def State.taskChain (s : State) (w : TaskAt) : Option (Nat × Nat) := w.team.map fun t => (w.die, (s.launch t).chain)

/-- A word of a block; 0 where there is no page. -/
def State.blockWord (s : State) (w : TaskAt) (g : Grid) (i k : Nat) : Nat :=
  match s.blockLeaf w.core w.die g i false with
  | some lf => s.peek lf (g.block i + 4 * k) 4
  | none => 0

/-- Write a word of a block at device scope. -/
def State.setBlockWord (s : State) (w : TaskAt) (g : Grid) (i k v : Nat) : State :=
  match s.blockLeaf w.core w.die g i true with
  | some lf => s.coreWrite (w.agent g) w.die (s.taskChain w) lf (g.block i + 4 * k) v 4
  | none => s

/-- No recall holds back a task operation's accesses to some blocks, each with whether it writes (R287). -/
def State.blocksClear (s : State) (w : TaskAt) (g : Grid) (xs : List (Nat × Bool)) : Bool :=
  xs.all fun x => match s.blockLeaf w.core w.die g x.1 x.2 with
    | some lf => s.recallClear (w.agent g) lf (g.block x.1) x.2
    | none => true

/-- The blocks that recalls hold back are called for (R287, R440). -/
def State.callBlocks (s : State) (w : TaskAt) (g : Grid) (xs : List (Nat × Bool)) : State :=
  xs.foldl (fun (t : State) x => match s.blockLeaf w.core w.die g x.1 x.2 with
    | some lf => t.callLine (w.agent g) lf (g.block x.1) x.2
    | none => t) s

/-- A task operation reads blocks: each at its home, through the MSC and under the chain of its grid (R257, R288, R360, R377,
R378). -/
def State.touchBlocks (s : State) (w : TaskAt) (g : Grid) (xs : List (Nat × Bool)) : State :=
  xs.foldl (fun (t : State) x => match s.blockLeaf w.core w.die g x.1 x.2 with
    | some lf =>
      let u := match w.core with
        | some c => t.missWalks c g.launch.asid [g.block x.1]
        | none => t.dieWalks w.die g.launch.asid (g.block x.1)
      u.homeTouch (w.agent g) (w.core.getD (192 * w.die)) (s.taskChain w) lf (g.block x.1) false
    | none => t) s

/-- Fields of a block: PRED, JOIN, STATE. -/
def State.pred (s : State) (w : TaskAt) (g : Grid) (i : Nat) : Nat := s.blockWord w g i 6 % 2 ^ 16
def State.joinOf (s : State) (w : TaskAt) (g : Grid) (i : Nat) : Nat := s.blockWord w g i 7 % 2 ^ 16
def State.stateOf (s : State) (w : TaskAt) (g : Grid) (i : Nat) : Nat := bits (s.blockWord w g i 8) 7 4

/-- Write a 16-bit field of a word, keeping its other bits. -/
def State.setLow (s : State) (w : TaskAt) (g : Grid) (i k v : Nat) : State :=
  s.setBlockWord w g i k (s.blockWord w g i k / 2 ^ 16 * 2 ^ 16 + v % 2 ^ 16)

/-- Write STATE. -/
def State.setBlockState (s : State) (w : TaskAt) (g : Grid) (i st : Nat) : State :=
  let x := s.blockWord w g i 8
  s.setBlockWord w g i 8 (x / 2 ^ 8 * 2 ^ 8 + st % 16 * 2 ^ 4 + x % 2 ^ 4)

/-- PRIO of the KERNEL record of a block (R347); 0 where it cannot be read. -/
def State.kernelLevel (s : State) (w : TaskAt) (g : Grid) (i : Nat) : Nat :=
  let va := s.blockWord w g i 0 + 2 ^ 32 * s.blockWord w g i 1
  match s.dieSeek w.die g.launch.asid va false with
  | .inl lf => bits (s.peek lf (va + 32) 4) 21 19
  | .inr _ => 0

/-- The controller's read of PRIO touches the KERNEL record (R257, R377). -/
def State.touchKernel (s : State) (w : TaskAt) (g : Grid) (i : Nat) : State :=
  let va := s.blockWord w g i 0 + 2 ^ 32 * s.blockWord w g i 1
  match s.dieSeek w.die g.launch.asid va false with
  | .inl lf => s.dieTouch w.die g.launch.asid lf (va + 32) false
  | .inr _ => s

/-- A block becomes ready and goes to the die's task queue (R347, R348). -/
def State.pushTask (s : State) (w : TaskAt) (g : Grid) (i : Nat) : State :=
  let t := (s.touchKernel w g i).setBlockState w g i 2
  { t with d.taskQ := t.d.taskQ ++ [{ die := w.die, grid := g.uid, blk := i, level := s.kernelLevel w g i }] }

/-- SYS_TASKERR rises on a die (R348). -/
def State.taskErr (s : State) (die : Nat) : State := s.setDieReg die 0xC3 (bumpSat (s.dieReg die 0xC3))

/-! ### Retirement (R348) -/

/-- The indices of a list chain, and the blocks it visits, for at most `n` list blocks. -/
def State.listChain (s : State) (w : TaskAt) (g : Grid) (i : Nat) : Nat → List Nat × List Nat
  | 0 => ([], [])
  | n + 1 =>
    if i = 0xFFFFFFFF then ([], [])
    else
      let k := min (s.blockWord w g i 0) 14
      let r := s.listChain w g (s.blockWord w g i 15) n
      ((List.range k).map (fun j => s.blockWord w g i (j + 1)) ++ r.1, i :: r.2)

/-- The successors of a block, and the list blocks read for them (R346). -/
def State.succs (s : State) (w : TaskAt) (g : Grid) (i : Nat) : List Nat × List Nat :=
  let x := s.blockWord w g i 8
  if bit x 3 then s.listChain w g (s.blockWord w g i 10) (g.launch.taskN + 1)
  else ((List.range (min (x % 8) 6)).map fun j => s.blockWord w g i (10 + j), [])

/-- One successor loses a predecessor. -/
def State.retireSucc (s : State) (w : TaskAt) (g : Grid) (i : Nat) : State :=
  let p := s.pred w g i
  if p = 0 then s.taskErr w.die
  else
    let t := s.setLow w g i 6 (p - 1)
    if p = 1 ∧ t.stateOf w g i = 1 then t.pushTask w g i else t

/-- The parent of a block, if it has one. -/
def State.parentOf (s : State) (w : TaskAt) (g : Grid) (i : Nat) : Option Nat :=
  let p := s.blockWord w g i 9
  if p = 0xFFFFFFFF then none else some p

/-- The blocks of a retirement, each with whether it is written: it only reads the list blocks. -/
def State.retireBlocks (s : State) (w : TaskAt) (g : Grid) (i : Nat) : List (Nat × Bool) :=
  let ss := s.succs w g i
  (i, true) :: (ss.2.map fun k => (k, false)) ++ (ss.1 ++ (s.parentOf w g i).toList).map fun k => (k, true)

/-- The first block that a retirement cannot reach. -/
def State.retireFault (s : State) (w : TaskAt) (g : Grid) (i : Nat) : Option Nat :=
  (s.retireBlocks w g i).findSome? fun x =>
    if (s.blockLeaf w.core w.die g x.1 x.2).isNone then some x.1 else none

/-- The retirement step with final STATE `st`. -/
def State.retireTask (s : State) (w : TaskAt) (g : Grid) (i st : Nat) : State :=
  let t := ((s.succs w g i).1.foldl (fun (u : State) k => u.retireSucc w g k) s).setBlockState w g i st
  match s.parentOf w g i with
  | none => t
  | some p => if t.joinOf w g p = 0 then t.taskErr w.die else t.setLow w g p 7 (t.joinOf w g p - 1)

/-- A fault of a block access by a controller goes to the queue's ERRREC (R346). -/
def State.taskFail (s : State) (g : Grid) (i : Nat) : State := s.queueFail g.queue TASK 0 (g.block i)

/-- TASK_RETIRE (R348): the team of a task is over, or aborted: as done, or as failed. The controller's accesses wait for recalls
as any other agent's (R287). -/
def execTaskRetire (s : State) : Host.Outcome State Fault Refusal :=
  match s.team? s.u.ev.id with
  | none => .next s
  | some x =>
    let dead := (s.grid x.grid).aborted
    if x.isTask ∧ !x.taskDone ∧ (dead ∨ s.over x.uid) then
      let g := s.arena x.uid
      let w : TaskAt := { core := none, die := x.die }
      let t := s.modTeam x.uid fun y => { y with taskDone := true }
      match s.retireFault w g x.taskBlk with
      | some k => .next (t.taskFail g k)
      | none =>
        let bs := s.retireBlocks w g x.taskBlk
        if !s.blocksClear w g bs then .next (s.callBlocks w g bs)
        else .next ((t.touchBlocks w g bs).retireTask w g x.taskBlk (if dead then 5 else 4))
    else .next s

/-! ### Major 0x1D (R349) -/

/-- A status word. -/
def taskStatus (code value : Nat) : Word := BitVec.ofNat 32 (min value 65535 * 2 ^ 16 + code % 16)

/-- Use of a TASK instruction. -/
def State.useTask (s : State) (legal : Bool) : Use := { major := 0x1D, legal := s.bare && legal, cover := false }

/-- The core and die of the unit under issue. -/
def State.taskHere (s : State) : TaskAt :=
  { core := some (s.coreOf s.gid), die := s.coreOf s.gid / 192, team := some s.u.iss.team }

/-- The arena index of the issuing team's own block (R340). -/
def State.ownBlock (s : State) : Nat := (s.team s.u.iss.team).taskBlk

/-- A fault TASK at a block (R346). -/
def Grid.taskFault (g : Grid) (i : Nat) : Res := .trap { code := TASK, addr := g.block i }

/-- The first of some blocks that the issuing split cannot read, or read and write. -/
def State.blockFault (s : State) (g : Grid) (is : List Nat) (write : Bool) : Option Nat :=
  is.find? fun i => (s.blockLeaf s.taskHere.core s.taskHere.die g i write).isNone

/-- A task operation acts on blocks once no recall holds its accesses back (R287); until then it waits unissued. -/
def State.onBlocks (s : State) (g : Grid) (xs : List (Nat × Bool)) (body : State → Res) : Res :=
  if s.blocksClear s.taskHere g xs then body (s.touchBlocks s.taskHere g xs)
  else .hold fun t => t.callBlocks s.taskHere g xs

/-- SPAWN (R350): a release at device scope. -/
def meanSpawn (o : OpX1) (s : State) : Meaning :=
  Meaning.mk (s.useTask true)
    (fun t =>
      let g := t.arena t.u.iss.team
      let w := t.taskHere
      let i := t.leadS o.sa.toNat
      let me := t.ownBlock
      if g.launch.taskBase = 0 ∨ g.launch.taskN ≤ i then .trap { code := TASK }
      else
        match t.blockFault g [i, me] true with
        | some k => g.taskFault k
        | none =>
          let st := fun (u : State) code => Res.ok (u.setSAll o.sd.toNat (taskStatus code (u.joinOf w g me)))
          if t.owesRelease then .wait
          else t.onBlocks g [(i, true), (me, true)] fun t =>
            if i < g.launch.teams ∨ t.stateOf w g i ≠ 0 then st t 3
            else if t.joinOf w g me = 65535 then st t 2
            else
              let u := (t.setBlockWord w g i 9 me).setLow w g me 7 (t.joinOf w g me + 1)
              st (if u.pred w g i = 0 then u.pushTask w g i else u.setBlockState w g i 1) 0)
/-- SPAWN: its issue unit, run. -/
def execSpawn (o : OpX1) (s : State) : Host.Outcome State Fault Refusal := (meanSpawn o s).run s

/-- JOIN, or JOIN.POLL when `poll` (R351). -/
def joinUnit (poll : Bool) (o : OpSd) (s : State) : Meaning :=
  Meaning.mk (s.useTask true)
    (fun t =>
      let g := t.arena t.u.iss.team
      let me := t.ownBlock
      if g.launch.taskBase = 0 then .trap { code := TASK }
      else
        match t.blockFault g [me] false with
        | some k => g.taskFault k
        | none =>
          t.onBlocks g [(me, false)] fun t =>
            let n := t.joinOf t.taskHere g me
            if n ≠ 0 ∧ !poll then .wait
            else .ok (t.setSAll o.sd.toNat (taskStatus (if n = 0 then 0 else 1) n)))

/-- JOIN (R351). -/
def meanJoin (o : OpSd) (s : State) : Meaning := joinUnit false o s
/-- JOIN: its issue unit, run. -/
def execJoin (o : OpSd) (s : State) : Host.Outcome State Fault Refusal := (meanJoin o s).run s
/-- JOIN.POLL (R351). -/
def meanJoinPoll (o : OpSd) (s : State) : Meaning := joinUnit true o s
/-- JOINPOLL: its issue unit, run. -/
def execJoinPoll (o : OpSd) (s : State) : Host.Outcome State Fault Refusal := (meanJoinPoll o s).run s

/-- A queue is looked at by its controller. -/
def State.ring (s : State) (q : Nat) : State :=
  { s with d.rung := if q ∈ s.d.rung then s.d.rung else s.d.rung ++ [q] }

/-- LAUNCH (R352): a LAUNCH command is appended as a release at device scope; a ring slot that cannot be written
gives BADQ (log entry 25). -/
def meanLaunch (o : OpX) (s : State) : Meaning :=
  Meaning.mk (s.useTask (regEven o.sa.toNat))
    (fun t =>
      let q := t.leadS o.sb.toNat
      let r := t.queueRec q
      let va := r.slot r.tail
      let core := t.coreOf t.gid
      let ag : Agent := { team := some t.u.iss.team, core := some core, asid := r.asid }
      let st := fun (u : State) code => Res.ok (u.setSAll o.sd.toNat (taskStatus code 0))
      if t.owesRelease then .wait
      else if 32768 ≤ q then st t 4
      else if !r.en ∨ r.err ∨ r.asid ≠ t.asid then st (t.readQueue q) 4
      else if r.pend = 2 ^ r.logn then st (t.readQueue q) 2
      else
        match t.dieSeek (q / 8192) r.asid va true with
        | .inr _ => st (t.readQueue q) 4
        | .inl lf =>
          if !t.recallClear ag lf va true then .hold fun u => u.callLine ag lf va true
          else
            let u := (t.readQueue q).coreWrite ag (core / 192) (t.chainOf (t.lane 0)) lf va
              (1 + 2 ^ 64 * t.leadAddr o.sa.toNat) 64
            st ((u.physStore (u.queuePa q + 16) (r.tail + 1) 4).ring q) 0)
/-- LAUNCH: its issue unit, run. -/
def execLaunch (o : OpX) (s : State) : Host.Outcome State Fault Refusal := (meanLaunch o s).run s

/-- TASKEND (R353): a release at device scope of the split's lanes. -/
def meanTaskend (o : OpSd) (s : State) : Meaning :=
  Meaning.mk (s.useTask true)
    (fun t =>
      let x := t.team t.u.iss.team
      let g := t.arena x.uid
      let w := t.taskHere
      let st := fun (u : State) code => Res.ok (u.setSAll o.sd.toNat (taskStatus code 0))
      if g.launch.taskBase = 0 then .trap { code := TASK }
      else if !x.isTask then st t 5
      else if x.taskDone then st t 6
      else
        match t.retireFault w g x.taskBlk with
        | some k => g.taskFault k
        | none =>
          if t.owesRelease then .wait
          else t.onBlocks g (t.retireBlocks w g x.taskBlk) fun t =>
            st ((t.retireTask w g x.taskBlk 4).modTeam x.uid fun y => { y with taskDone := true }) 0)
/-- TASKEND: its issue unit, run. -/
def execTaskend (o : OpSd) (s : State) : Host.Outcome State Fault Refusal := (meanTaskend o s).run s

/-- QSTAT (R354). -/
def meanQstat (o : OpX1) (s : State) : Meaning :=
  Meaning.mk (s.useTask true)
    (fun t =>
      let q := t.leadS o.sa.toNat
      let r := t.queueRec q
      let w := if q < 32768 then taskStatus (if r.asid ≠ t.asid ∨ r.err then 4 else 0) r.pend
        else if q = 0xFFFFFFFF then
          taskStatus 0 (t.d.taskQ.filter fun k =>
            decide (k.die = t.taskHere.die ∧ (t.grid k.grid).launch.asid = t.asid)).length
        else taskStatus 4 0
      .ok ((if q < 32768 then t.readQueue q else t).setSAll o.sd.toNat w))
/-- QSTAT: its issue unit, run. -/
def execQstat (o : OpX1) (s : State) : Host.Outcome State Fault Refusal := (meanQstat o s).run s

end Sys2Proof.Machine
end

