-- ==== Sys2Proof/Machine/Queues.lean ====
section
/-! DEFINITION. The dispatch controllers: what each does next (R342, R343), tasks that start (R347), and the commands of
a queue (R337, R361, R389): the events DISPATCH_STEP, DOORBELL, QUEUE_NOP, QUEUE_LAUNCH, QUEUE_EVENT, EVENT_WRITE,
QUEUE_WAIT, WAIT_RECHECK, QUEUE_INVAL, INVAL_TEARDOWN and SEAL_RETRY. -/

namespace Sys2Proof.Machine

/-! ### LAUNCH records (R337 to R339) -/

/-- The 64-bit value in two words of a command. -/
def cmdPair (ws : List Nat) (i : Nat) : Nat := ws.getD i 0 + 2 ^ 32 * ws.getD (i + 1) 0

/-- What a LAUNCH command names: an error, or the grid it would admission. -/
inductive LaunchRead where
  | bad (code info addr : Nat)
  | ok (g : Grid)

/-- Read and check the record of a LAUNCH command. -/
def State.launchAt (s : State) (q : Nat) (ws : List Nat) : LaunchRead :=
  let r := s.queueRec q
  let va := ws.getD 2 0 + 2 ^ 32 * ws.getD 3 0
  let bad := LaunchRead.bad TASK 3 va
  if va % 256 ≠ 0 then bad
  else
    match s.dieSeek (q / 8192) r.asid va false with
    | .inr _ => bad
    | .inl lf =>
      let rec64 := wordsOf (s.peek lf va 256) 64
      if s.badRead lf va 256 then .bad POISON 0 va
      else if !launchOk rec64 r.asid false then bad
      else
        let g : Grid :=
          { uid := s.u.uid, launch := launchOf rec64, queue := q, die := q / 8192, admitted := s.u.clk
            residentFrom := s.u.clk, chainEnd := bit (ws.getD 4 0) 0 }
        if g.launch.coop && !s.coopFits g then .bad NOT_COOP 0 0 else .ok g

/-- The controller's read of a record touches its lines (R257, R378). -/
def State.readRecord (s : State) (die asid va : Nat) : State :=
  match s.dieSeek die asid va false with
  | .inl lf => (s.dieTouch die asid lf va false).dieTouch die asid lf (va + 128) false
  | .inr _ => s

/-- No recall holds back the controller's read of a record (R287). -/
def State.recordClear (s : State) (die asid va : Nat) : Bool :=
  match s.dieSeek die asid va false with
  | .inl lf => s.unrecalled asid lf va false && s.unrecalled asid lf (va + 128) false
  | .inr _ => true

/-- The lines of a record that recalls hold back are called for (R287, R440). -/
def State.callRecord (s : State) (die asid va : Nat) : State :=
  match s.dieSeek die asid va false with
  | .inl lf => (s.dieCall asid lf va false).dieCall asid lf (va + 128) false
  | .inr _ => s

/-- The state with a grid's record in place. -/
def State.addGrid (s : State) (g : Grid) : State :=
  { s with x.grids := s.x.grids ++ [{ g with uid := s.u.uid }], u.uid := s.u.uid + 1 }

/-! ### Tasks that start (R347) -/

/-- The launch that a ready task runs under: its KERNEL record with TARG0 to TARG3; none fails the task. -/
def State.kernelOf (s : State) (k : ReadyTask) : Option Launch :=
  let g := s.grid k.grid
  let w : TaskAt := { core := none, die := k.die }
  let word := s.blockWord w g k.blk
  let va := word 0 + 2 ^ 32 * word 1
  if va % 256 ≠ 0 then none
  else
    match s.dieSeek k.die g.launch.asid va false with
    | .inr _ => none
    | .inl lf =>
      let rec64 := wordsOf (s.peek lf va 256) 64
      let la := launchOf rec64
      if launchOk rec64 g.launch.asid true && !la.coop && !la.spread && !s.badRead lf va 256 then
        some { la with
          args := (List.range 4).map (fun i => BitVec.ofNat 32 (word (2 + i))) ++ la.args.drop 4
          gridX := 1, gridY := 1, gridZ := 1, taskBase := 0, taskN := 0 }
      else none

/-- The grid record of a task's team. -/
def State.taskGrid (s : State) (k : ReadyTask) (la : Launch) : Grid :=
  { uid := s.u.uid, launch := la, queue := (s.grid k.grid).queue, die := k.die, admitted := s.u.clk
    residentFrom := s.u.clk, parent := some k.grid }

/-- Place the team of a task on some dies. -/
def State.placeTask (s : State) (k : ReadyTask) (la : Launch) (dies : List Nat) : Option State :=
  let u := s.u.uid
  let s := s.addGrid (s.taskGrid k la)
  (s.batchSpot (s.grid u) dies 1).map fun p =>
    (s.startTeam u 0 0 0 (p.2.headD 0) k.blk true).modGrid u fun x => { x with placed := 1 }

/-- No recall holds back the controller's accesses to a ready task's block and kernel record (R287). -/
def State.taskClear (s : State) (k : ReadyTask) : Bool :=
  let g := s.grid k.grid
  let w : TaskAt := { core := none, die := k.die }
  s.blocksClear w g [(k.blk, true)] &&
    s.recordClear k.die g.launch.asid (s.blockWord w g k.blk 0 + 2 ^ 32 * s.blockWord w g k.blk 1)

/-- They are called for (R287, R440). -/
def State.callTask (s : State) (k : ReadyTask) : State :=
  let g := s.grid k.grid
  let w : TaskAt := { core := none, die := k.die }
  (s.callBlocks w g [(k.blk, true)]).callRecord k.die g.launch.asid
    (s.blockWord w g k.blk 0 + 2 ^ 32 * s.blockWord w g k.blk 1)

/-- A ready task leaves its queue and starts, or fails (R346, R347). -/
def State.startTask (s : State) (k : ReadyTask) (dies : List Nat) : State :=
  let g := s.grid k.grid
  let w : TaskAt := { core := none, die := k.die }
  let va := s.blockWord w g k.blk 0 + 2 ^ 32 * s.blockWord w g k.blk 1
  let s : State := (({ s with d.taskQ := s.d.taskQ.erase k } : State).touchBlocks w g [(k.blk, true)]).readRecord k.die
    g.launch.asid va
  if (s.blockLeaf none k.die g k.blk true).isNone then s.taskFail g k.blk
  else
    match s.kernelOf k with
    | none =>
      match s.retireFault w g k.blk with
      | some i => s.taskFail g i
      | none => s.retireTask w g k.blk 5
    | some la =>
      match (s.setBlockState w g k.blk 3).placeTask k la dies with
      | some t => t
      | none => s

/-! ### Who waits for room (R343) -/

/-- A team or head that cannot be placed: its priority, its dies, and the state in which its grid's record stands. -/
structure Blocked where
  prio : Nat
  dies : List Nat
  sim : State
  gu : Nat

/-- A grid's placement fails even with no regard to priority. -/
def State.blockedGrid (s : State) (g : Grid) : Option Blocked :=
  if (s.tryPlace g.uid g.dies).isNone then some { prio := g.launch.prio, dies := g.dies, sim := s, gu := g.uid } else none

/-- A head LAUNCH that cannot be admitted. -/
def State.blockedHead (s : State) (q : Nat) : Option Blocked :=
  match s.headOf q with
  | .cmd 1 ws =>
    match s.launchAt q ws with
    | .ok g => (s.addGrid g).blockedGrid { g with uid := s.u.uid }
    | .bad _ _ _ => none
  | _ => none

/-- A ready task that cannot be placed. -/
def State.blockedTask (s : State) (k : ReadyTask) : Option Blocked :=
  match s.kernelOf k with
  | none => none
  | some la =>
    let g := s.taskGrid k la
    if (s.placeTask k la g.dies).isNone then
      some { prio := la.prio, dies := g.dies, sim := s.addGrid g, gu := s.u.uid }
    else none

/-- Everything that waits for room, highest priority first. -/
def State.blocked (s : State) : List Blocked :=
  sortBy (fun (a b : Blocked) => decide (b.prio ≤ a.prio))
    (((s.x.grids.filter s.waitsRoom).filterMap s.blockedGrid) ++ (s.d.taskQ.filterMap s.blockedTask) ++
      s.d.rung.filterMap s.blockedHead)

/-- Dies where a placement of priority p is not held back by one of higher priority (R343). -/
def State.openDies (s : State) (p : Nat) (dies : List Nat) : List Nat :=
  let bs := s.blocked
  dies.filter fun d => !bs.any fun b => decide (p < b.prio ∧ d ∈ b.dies)

/-! ### Step 1: waiting teams -/

/-- The placement of a grid's teams that leads from one state to another took room that something of higher priority
waits for (R343, R355; log entry 32). -/
def State.robs (s t : State) (g : Grid) : Bool :=
  let fresh := t.x.teams.filter fun x => decide (x.grid = g.uid) && x.placed &&
    !s.x.teams.any fun y => decide (y.uid = x.uid) && y.placed
  t.blocked.any fun b => decide (g.launch.prio < b.prio) && fresh.any fun x => decide (x.die ∈ b.dies)

/-- Waiting grids: higher priority first, then earlier admission (R343). -/
def State.waitingGrids (s : State) : List Grid :=
  sortBy (fun (a b : Grid) => decide (b.launch.prio < a.launch.prio) ||
      (decide (a.launch.prio = b.launch.prio ∧ a.admitted ≤ b.admitted)))
    (s.x.grids.filter s.waitsRoom)

/-- The die on which a grid's next placement lands: the home die of a COOP grid, else where its new team is. -/
def newDie (s t : State) (g : Grid) : Option Nat :=
  if g.launch.coop then some g.die
  else (t.x.teams.find? fun x => decide (x.grid = g.uid) && x.placed &&
    !s.x.teams.any fun y => decide (y.uid = x.uid) && y.placed).map (·.die)

/-- An update of a controller holds a die's launches: that of its own dispatch controller, which begins nothing, or of another
controller, during which no launch is made (R396; log entry 81). -/
def State.launchHeld (s : State) (die : Nat) : Bool := s.d.hold.any fun c => decide (c = die ∨ 4 ≤ c)

/-- The next waiting team that a die's controller can place (R343); a held one places none (R396). -/
def State.placeNow (s : State) (die : Nat) : Option State :=
  if s.launchHeld die then none
  else s.waitingGrids.findSome? fun g =>
    match s.tryPlace g.uid (s.openDies g.launch.prio g.dies) with
    | some t => if newDie s t g = some die ∧ !s.robs t g then some t else none
    | none => none

/-! ### Step 2: ready tasks and queue heads -/

/-- What a controller begins next. -/
inductive Pick where
  | task (k : ReadyTask) (dies : List Nat)
  | head (q : Nat)

/-- Admit the grid of a LAUNCH: its first team, or every team for COOP (R342). -/
def State.admission (s : State) (g : Grid) : Option State :=
  match (s.addGrid g).tryPlace s.u.uid (s.openDies g.launch.prio g.dies) with
  | some t => if s.robs t { g with uid := s.u.uid } then none else some t
  | none => none

/-- A grid of an ASID is resident or saved (R361). -/
def State.asidBusy (s : State) (asid : Nat) : Bool :=
  s.x.grids.any fun g => !g.retired && decide (g.launch.asid = asid)

/-- ASID, ALL and TEARDOWN of an INVAL (R337). -/
def invalAsid (ws : List Nat) : Nat := ws.getD 2 0 % 2 ^ 16
def invalAll (ws : List Nat) : Bool := bit (ws.getD 2 0) 16
def invalTear (ws : List Nat) : Bool := bit (ws.getD 2 0) 17

/-- Can the controller begin what stands at a queue's head (R343)? -/
def State.canBegin (s : State) (q : Nat) : Bool :=
  match s.headOf q with
  | .idle => false
  | .error _ _ _ => true
  | .unsealed => !s.d.sealTry.has q
  | .cmd op ws =>
    !s.d.sealTry.has q &&
      (match op with
       | 1 => !s.launchHeld (q / 8192) && s.recordClear (q / 8192) (s.queueRec q).asid (cmdPair ws 2) &&
         match s.launchAt q ws with
         | .ok g => (s.admission g).isSome
         | .bad _ _ _ => true
       | 2 => !s.d.events.any fun e => decide (e.q = q)
       | 3 => !s.d.wait.has q
       | 4 => !s.d.wait.has q && !(invalTear ws && s.asidBusy (invalAsid ws))
       | _ => true)

/-- Priority of a queue's head (R343). -/
def State.headLevel (s : State) (q : Nat) : Nat :=
  match s.headOf q with
  | .cmd 1 ws => match s.launchAt q ws with
    | .ok g => g.launch.prio
    | .bad _ _ _ => (s.queueRec q).prio
  | _ => (s.queueRec q).prio

/-- The queue whose turn it is among some that can begin: the one that began last until its weight is used up, then the
next by number (R343). -/
def State.turnOf (s : State) (die level : Nat) (qs : List Nat) : Option Nat :=
  let t := s.d.turn.look (die, level) 0
  let cur := t / 64
  if cur ∈ qs ∧ t % 64 ≠ 0 ∧ t % 64 < (s.queueRec cur).weight + 1 then some cur
  else
    let sorted := sortBy (fun a b => decide (a ≤ b)) qs
    (sorted.find? fun q => decide (cur < q)) <|> sorted.head?

/-- What a die's controller begins next: by level, its ready tasks in order, then its queue heads in turn (R343). -/
def State.pick (s : State) (die : Nat) : Option Pick :=
  let heads := s.d.rung.filter fun q => decide (q / 8192 = die) && s.canBegin q
  ([7, 6, 5, 4, 3, 2, 1, 0] : List Nat).findSome? fun level =>
    let task : Option Pick :=
      match s.d.taskQ.find? fun k => decide (k.die = die ∧ k.level = level) && !s.launchHeld die with
      | none => none
      | some k =>
        if !s.taskClear k then none
        else match s.kernelOf k with
        | none => some (.task k [])
        | some la =>
          let dies := s.openDies la.prio (s.taskGrid k la).dies
          match s.placeTask k la dies with
          | some t => if s.robs t (s.taskGrid k la) then none else some (.task k dies)
          | none => none
    task <|> (s.turnOf die level (heads.filter fun q => decide (s.headLevel q = level))).map .head

/-- The head of a queue is what its controller begins next. -/
def State.picked (s : State) (q : Nat) : Bool :=
  (s.placeNow (q / 8192)).isNone && match s.pick (q / 8192) with
    | some (.head x) => decide (x = q)
    | _ => false

/-- A queue has used one more of its turn (R343). -/
def State.useTurn (s : State) (q level : Nat) : State :=
  let die := q / 8192
  let t := s.d.turn.look (die, level) 0
  { s with d.turn := s.d.turn.put (die, level) (q * 64 + (if t / 64 = q then min (t % 64 + 1) 63 else 1)) }

/-! ### DISPATCH_STEP -/

/-- The state with the teams that are being saved out of the way. -/
def State.afterSaves (s : State) : State :=
  { s with x.teams := s.x.teams.map fun y => if y.status = .saving then { y with status := .saved } else y }

/-- Pre-emption for the first placement that waits, would not fit when the saves under way are through, and could fit then
(R355). -/
def State.preemptNow (s : State) (die : Nat) : Option State :=
  if s.launchHeld die then none
  else (s.blocked.filter fun b => decide (die ∈ b.dies)).findSome? fun b =>
    if (b.sim.afterSaves.tryPlace b.gu b.dies).isSome then none
    else s.preempt b.sim.afterSaves b.gu b.dies [] (s.victims b.prio b.dies)

/-- The lines that keep a die's controller from a ready task or from a command at a queue's head are called for (R287, R440). -/
def State.callHeads (s : State) (die : Nat) : State :=
  let t := (s.d.taskQ.filter fun k => decide (k.die = die) && !s.taskClear k).foldl (fun (u : State) k => u.callTask k) s
  (s.d.rung.filter fun q => decide (q / 8192 = die)).foldl (fun (u : State) q =>
    let r := s.queueRec q
    if !s.p.ready || decide (die ∈ s.d.hold) || !r.en || r.err || decide (r.pend = 0) || r.bad then u
    else match s.dieSeek die r.asid (r.slot r.head) false, s.headOf q with
      | .inl lf, .idle => u.dieCall r.asid lf (r.slot r.head) false
      | _, .cmd 1 ws => u.callRecord die r.asid (cmdPair ws 2)
      | _, _ => u) t

/-- DISPATCH_STEP (R343, R347, R355): a die's controller places a waiting team, starts a ready task, or chooses teams to
save. Commands are begun by the QUEUE events. -/
def execDispatchStep (s : State) : Host.Outcome State Fault Refusal :=
  let die := s.u.ev.id
  match s.placeNow die with
  | some t => .next t
  | none =>
    match s.pick die with
    | some (.task k dies) => .next (s.startTask k dies)
    | _ =>
      match s.preemptNow die with
      | some t => .next t
      | none => .next (s.callHeads die)

/-! ### Commands -/

/-- A sealed command that does not match waits for its first re-read, or fails when none is allowed (R389). -/
def State.sealWait (s : State) (q : Nat) : State :=
  if s.sealCount (q / 8192) = 0 then s.queueFail q TASK 6 0
  else { s with d.sealTry := s.d.sealTry.put q (0, s.u.clk + s.sealDelay (q / 8192)) }

/-- Begin what stands at a queue's head: an error, a wait for the stamp, or a command that `mine` selects. -/
def State.beginHead (s : State) (q : Nat) (mine : Nat → List Nat → Bool) (body : State → List Nat → State) : State :=
  if !s.picked q then s
  else
    match s.headOf q with
    | .idle => s
    | .error c i a => s.queueFail q c i a
    | .unsealed => (s.readHead q).sealWait q
    | .cmd op ws => if mine op ws then body ((s.readHead q).useTurn q (s.headLevel q)) ws else s

/-- A BAR0 access that is dropped or reads zero is counted (R384, R393). -/
def State.badAccess (s : State) : State := { s with p.badAcc := min (s.p.badAcc + 1) 255 }

/-- DOORBELL (R384, R387, R392): a 4-byte write stores TAIL and wakes the controller; one of 8 bytes is dropped, and one of
another size or before READY is counted too. -/
def execDoorbell (s : State) : Host.Outcome State Fault Refusal :=
  let q := s.u.ev.id
  let v := s.u.ev.value % 2 ^ 32
  let r := s.queueRec q
  let back := (r.tail + 2 ^ 32 - v) % 2 ^ 32
  let ahead := (v + 2 ^ 32 - r.head) % 2 ^ 32
  if !s.p.ready ∨ (s.u.ev.size ≠ 4 ∧ s.u.ev.size ≠ 8) ∨ 32768 ≤ q then .next s.badAccess
  else if s.u.ev.size ≠ 4 then .next s
  else if (1 ≤ back ∧ back ≤ 2 ^ 31) ∨ 2 ^ r.logn < ahead then .next (s.queueFail q TASK 5 0)
  else .next ((s.physStore (s.queuePa q + 16) v 4).ring q)

/-- QUEUE_NOP (R337). -/
def execQueueNop (s : State) : Host.Outcome State Fault Refusal :=
  let q := s.u.ev.id
  .next (s.beginHead q (fun op _ => decide (op = 0)) fun t _ => t.advance q)

/-- QUEUE_LAUNCH (R337, R342): the grid is admitted with its first team, or the record is refused. -/
def execQueueLaunch (s : State) : Host.Outcome State Fault Refusal :=
  let q := s.u.ev.id
  .next (s.beginHead q (fun op _ => decide (op = 1)) fun t ws =>
    match t.launchAt q ws with
    | .bad c i a => t.queueFail q c i a
    | .ok g =>
      match (t.readRecord (q / 8192) (t.queueRec q).asid (cmdPair ws 2)).admission g with
      | some u => u.advance q
      | none => s)

/-- QUEUE_EVENT (R337): the command waits at the head of its queue for the grids launched before it (log entry 59). -/
def execQueueEvent (s : State) : Host.Outcome State Fault Refusal :=
  let q := s.u.ev.id
  .next (s.beginHead q (fun op _ => decide (op = 2)) fun t ws =>
    let va := cmdPair ws 2
    if va % 8 ≠ 0 then t.queueFail q TASK 2 0
    else
      match t.dieSeek (q / 8192) (t.queueRec q).asid va true with
      | .inr c => t.queueFail q c 1 va
      | .inl _ =>
        let w6 := ws.getD 6 0
        let e : QEvent :=
          { q := q, va := va, value := cmdPair ws 4, irq := if bit w6 31 then some (w6 % 2 ^ 11) else none
            grids := (t.x.grids.filter fun g => decide (g.queue = q ∧ g.parent = none) && !g.retired).map (·.uid) }
        { t with d.events := t.d.events ++ [e] })

/-- A word of the MSI-X table; an entry's vector control starts masked (log entry 26). -/
def State.msixWord (s : State) (i : Nat) : Word := s.p.msix.look i (if i % 4 = 3 then 1 else 0)

/-- Raise an MSI-X vector: pending while the entry is masked, otherwise its message leaves the module (R383; log entry
26). -/
def State.raiseIrq (s : State) (v : Nat) : State :=
  if (s.msixWord (4 * v + 3)).getLsbD 0 then
    { s with p.msixPend := if v ∈ s.p.msixPend then s.p.msixPend else s.p.msixPend ++ [v] }
  else s

/-- EVENT_WRITE (R337): every grid launched before the EVENT has retired; its value is written as a release at system
scope, its vector raised and the command consumed, while the queue is served (R336, R396). An address that faults now leaves HEAD
as it is, and the command begins again once its queue is served again. -/
def execEventWrite (s : State) : Host.Outcome State Fault Refusal :=
  match s.d.events[s.u.ev.id]? with
  | none => .next s
  | some e =>
    let r := s.queueRec e.q
    if !e.grids.isEmpty ∨ !r.en ∨ r.err ∨ e.q / 8192 ∈ s.d.hold then .next s
    else
      let die := e.q / 8192
      let asid := r.asid
      let t : State := { s with d.events := s.d.events.eraseIdx s.u.ev.id }
      match s.dieSeek die asid e.va true with
      | .inr c => .next (t.queueFail e.q c 1 e.va)
      | .inl lf =>
        if !s.unrecalled asid lf e.va true then .next (s.dieCall asid lf e.va true)
        else
          let u := (t.dropSnaps fun c => decide (c.holder = .msc)).dieWrite die asid lf e.va e.value 8
          .next ((match e.irq with | some v => u.raiseIrq v | none => u).advance e.q)

/-- A read of a WAIT's word (R337): a fault ends it with ERROR, a word at or above the target consumes the command, and
otherwise the queue waits for the next read. -/
def State.readWait (s : State) (q : Nat) (ws : List Nat) : State :=
  let va := cmdPair ws 2
  let asid := (s.queueRec q).asid
  let t : State := { s with d.wait := s.d.wait.drop q }
  if va % 8 ≠ 0 then t.queueFail q TASK 2 0
  else
    match s.dieSeek (q / 8192) asid va false with
    | .inr c => t.queueFail q c 0 va
    | .inl lf =>
      let again : State := { s with d.wait := s.d.wait.put q s.u.clk }
      if !s.unrecalled asid lf va false then again.dieCall asid lf va false
      else if s.badRead lf va 8 then t.queueFail q POISON 0 va
      else if cmdPair ws 4 ≤ s.peek lf va 8 then (t.dieTouch (q / 8192) asid lf va false).advance q
      else again.dieTouch (q / 8192) asid lf va false

/-- QUEUE_WAIT (R337): the first read of the word. -/
def execQueueWait (s : State) : Host.Outcome State Fault Refusal :=
  let q := s.u.ev.id
  .next (s.beginHead q (fun op _ => decide (op = 3)) fun t ws => t.readWait q ws)

/-- WAIT_RECHECK (R337): the controller reads the word of a waiting queue again. -/
def execWaitRecheck (s : State) : Host.Outcome State Fault Refusal :=
  let q := s.u.ev.id
  match s.headOf q with
  | .cmd 3 ws => if s.d.wait.has q then .next (s.readWait q ws) else .next s
  | _ => .next s

/-- A leaf is covered by an INVAL (R361). -/
def invalCovers (ws : List Nat) (va size : Nat) : Bool :=
  invalAll ws || decide (va < cmdPair ws 4 + cmdPair ws 6 ∧ cmdPair ws 4 < va + size)

/-- Every TLB of the module drops the translations that an INVAL covers (R361). -/
def State.dropTlb (s : State) (ws : List Nat) : State :=
  { s with k.tlb := s.k.tlb.filter fun t =>
      !(decide (t.asid = invalAsid ws) && invalCovers ws t.leaf.va t.leaf.size) }

/-- Accesses that used a dropped translation have completed, and so has every re-shard command whose record lies on such a
page (R361). -/
def State.invalDone (s : State) (ws : List Nat) (since : Nat) : Bool :=
  (s.k.acc.all fun a =>
    match a.leaf with
    | some lf => !(decide ((s.launch a.lane.t).asid = invalAsid ws ∧ a.born ≤ since) && invalCovers ws lf.va lf.size)
    | none => true) &&
    s.e.rsh.all fun r => !(decide (r.phase ≠ .asked ∧ (s.launch r.team).asid = invalAsid ws) &&
      invalCovers ws r.page.va r.page.size)

/-- QUEUE_INVAL (R361): the command drops translations; it is consumed when what used them has completed. -/
def execQueueInval (s : State) : Host.Outcome State Fault Refusal :=
  let q := s.u.ev.id
  if s.d.wait.has q then
    match s.headOf q with
    | .cmd 4 ws =>
      if s.invalDone ws (s.d.wait.look q 0) then
        .next (({ s with d.wait := s.d.wait.drop q } : State).advance q)
      else .next s
    | _ => .next s
  else
    .next (s.beginHead q (fun op ws => decide (op = 4) && !invalTear ws) fun t ws =>
      let u := t.dropTlb ws
      { u with d.wait := u.d.wait.put q u.u.clk })

/-- Clear V in the context entry of an ASID on every die (R361). -/
def State.clearContext (s : State) (asid : Nat) : State :=
  ([0, 1, 2, 3] : List Nat).foldl (fun (t : State) d =>
    let pa := (t.dieReg d 0xC6).toNat % 2 ^ 20 * 2 ^ 20 + 16 * asid
    t.physStore pa (t.load (t.locPhys pa) 1 / 2 * 2) 1) s

/-- INVAL_TEARDOWN (R272, R361): with no grid of the ASID left, its handles, tenures and requests are freed, its
instruction and constant cache lines dropped and its context entries made invalid. -/
def execInvalTeardown (s : State) : Host.Outcome State Fault Refusal :=
  let q := s.u.ev.id
  .next (s.beginHead q (fun op ws => decide (op = 4) && invalTear ws) fun t ws =>
    let asid := invalAsid ws
    let mine := fun (h : Tenure) => t.e.tiles.any fun x => decide (h.tile = some x.key ∧ x.asid = asid)
    let u : State := { t with
      e.tens := t.e.tens.filter fun h => !mine h
      e.reqs := t.e.reqs.filter fun h => !mine h
      e.tiles := t.e.tiles.map fun x => if x.live && decide (x.asid = asid) then x.free t.u.clk else x }
    let u := u.dropSnaps fun c => match c.holder with
      | .icache _ a _ => decide (a = asid)
      | .ccache _ a _ => decide (a = asid)
      | _ => false
    let u := (u.dropTlb (ws.set 2 (asid + 2 ^ 16))).clearContext asid
    { u with d.wait := u.d.wait.put q u.u.clk })

/-- SEAL_RETRY (R389): a sealed command that did not match is read again after its wait; the last failed read sets
ERROR. -/
def execSealRetry (s : State) : Host.Outcome State Fault Refusal :=
  let q := s.u.ev.id
  if !s.d.sealTry.has q then .next s
  else
    let x := s.d.sealTry.look q (0, 0)
    let done : State := { s with d.sealTry := s.d.sealTry.drop q }
    if s.u.clk < x.2 then .next s
    else
      match s.headOf q with
      | .unsealed =>
        let n := x.1 + 1
        let t := s.readHead q
        if s.sealCount (q / 8192) ≤ n then
          .next (({ t with d.sealTry := t.d.sealTry.drop q } : State).queueFail q TASK 6 0)
        else .next { t with d.sealTry := t.d.sealTry.put q (n, s.u.clk + s.sealDelay (q / 8192)) }
      | .idle => if (s.queueRec q).err ∨ (s.queueRec q).pend = 0 then .next done else .next s
      | _ => .next done

end Sys2Proof.Machine
end

