-- ==== Sys2Proof/Machine/HostPort.lean ====
section
/-! DEFINITION. The host's side of the PCIe endpoint (R383 to R386) and what the host configures: the events
HOST_REG_WRITE, BAR0_BAD_ACCESS, CHIPCARVE_WRITE, CHIPCARVE_APPLY (R254), RESCTL_WRITE (R256), HOST_BAR2_READ,
HOST_BAR2_WRITE (R385) and KEY_LOAD (R382). -/

namespace Sys2Proof.Machine

/-! ### BAR0 (R384, R386, R393) -/

/-- Does BAR0 list an offset (R384)? -/
def barListed (off : Nat) : Bool :=
  decide (off = 0 ∨ off = 0x10 ∨ off = 0x18 ∨ off = 0x1C ∨ off = 0x20 ∨ off = 0x24) ||
    decide (0x10000 ≤ off ∧ off < 0x14000 ∧ off % 0x1000 < 0x100) ||
    decide (0x20000 ≤ off ∧ off < 0x28100) ||
    decide (0x1000000 ≤ off ∧ off < 0x1040000 ∧ off % 8 = 0)

/-- A BAR0 access that is refused: size, alignment, offset, or made before READY to anything but BAR0_STATUS (R384,
R392). -/
def State.barBad (s : State) (off size : Nat) : Bool :=
  decide ((size ≠ 4 ∧ size ≠ 8) ∨ off % size ≠ 0) || !barListed off || (!s.p.ready && decide (off ≠ 0))

/-- What a host write leaves in a per-die register that it may write (R256, R260, R305, R386); none where it may
not. -/
def hostDieReg (n : Nat) (v : Nat) : Option Nat :=
  if n = 0xC1 ∨ n = 0xC2 ∨ n = 0xC9 ∨ n = 0xCA then some (v % 2 ^ 32)
  else if n = 0xC5 ∨ n = 0xC6 ∨ n = 0xCB ∨ n = 0xCC then some (v % 2 ^ 20)
  else if n = 0xC7 then some (v % 2 ^ 28)
  else if n = 0xC8 then (if 6 ≤ v % 32 ∧ v % 32 ≤ 16 then some (v % 32) else none)
  else if n = 0xCD then some (v % 2 ^ 24)
  else if 0xD0 ≤ n ∧ (n - 0xD0) % 3 ≠ 2 then some (v % 2 ^ 24)
  else none

/-- Lines of a range return to ordinary replacement (R257). -/
def State.freeRange (s : State) (die n : Nat) : State :=
  { s with k.l2 := s.k.l2.map fun x => if x.die = die ∧ x.retained = some n then { x with retained := none } else x }

/-- A host write to a per-die register that has no row of its own; one that changes the bounds of a range frees its lines (R257). -/
def State.hostDieWrite (s : State) (die n v : Nat) : State :=
  match hostDieReg n v with
  | none => s
  | some x =>
    let t := s.setDieReg die n (BitVec.ofNat 32 x)
    let t := if 0xD0 ≤ n ∧ s.dieReg die n ≠ BitVec.ofNat 32 x then t.freeRange die ((n - 0xD0) / 3) else t
    if n = 0xC2 then t.shipFull die else t

/-- A host write to a dword of the MSI-X table: an entry unmasked while pending sends its message (R383; log entry
26). -/
def State.msixWrite (s : State) (i v : Nat) : State :=
  let t : State := { s with p.msix := s.p.msix.put i (BitVec.ofNat 32 v) }
  if i % 4 = 3 ∧ v % 2 = 0 then { t with p.msixPend := t.p.msixPend.filter fun k => decide (k ≠ i / 4) } else t

/-- The low or high half of a 64-bit value, replaced. -/
def setHalf (x : Nat) (high : Bool) (v : Nat) : Nat :=
  if high then v % 2 ^ 32 * 2 ^ 32 + x % 2 ^ 32 else x / 2 ^ 32 * 2 ^ 32 + v % 2 ^ 32

/-- A host write of one dword of BAR0 (R384). -/
def State.barWrite (s : State) (off v : Nat) : State :=
  if off = 0 then { s with p.badAcc := v % 256 }
  else if off = 0x10 then { s with p.hostAsid := v % 2 ^ 16 }
  else if off = 0x18 then { s with p.hostVa := setHalf s.p.hostVa false v }
  else if off = 0x1C then { s with p.hostVa := setHalf s.p.hostVa true (v % 2 ^ 24) }
  else if off = 0x20 then { s with p.hostBase := setHalf s.p.hostBase false v }
  else if off = 0x24 then { s with p.hostBase := setHalf s.p.hostBase true v }
  else if 0x10000 ≤ off ∧ off < 0x14000 ∧ off % 0x1000 < 0x100 then
    s.hostDieWrite ((off - 0x10000) / 0x1000) (0xC0 + off % 0x1000 / 4) v
  else if 0x20000 ≤ off ∧ off < 0x28000 then s.msixWrite ((off - 0x20000) / 4) v
  else s

/-- HOST_REG_WRITE (R384, R386): the event names offset, value and size; an 8-byte write is two dwords. With the event's
flag it is a write of configuration space that sets the size of BAR2 to 2^(30 + value) bytes (R383; log entry 29). -/
def execHostRegWrite (s : State) : Host.Outcome State Fault Refusal :=
  let e := s.u.ev
  if e.flag then .next (if e.value ≤ 9 then { s with p.bar2 := 2 ^ (30 + e.value) } else s)
  else if s.barBad e.id e.size then .next s.badAccess
  else if e.size = 8 then .next ((s.barWrite e.id (e.value % 2 ^ 32)).barWrite (e.id + 4) (e.value / 2 ^ 32))
  else .next (s.barWrite e.id (e.value % 2 ^ 32))

/-- BAR0_STATUS (R393). -/
def State.statusWord (s : State) : Nat :=
  let b := fun (x : Bool) => if x then 1 else 0
  b s.p.ready * 2 ^ 31 + b s.p.degraded * 2 ^ 30 + b s.p.failed * 2 ^ 29 + s.p.stage % 8 * 2 ^ 26 + s.p.upd % 4 * 2 ^ 24 +
    s.p.code % 256 * 2 ^ 16 + s.p.badAcc % 256

/-- A dword of BAR0 as a host reads it (R384); a doorbell reads zero (log entry 29). -/
def State.barDword (s : State) (off : Nat) : Nat :=
  if off = 0 then s.statusWord
  else if off = 0x10 then s.p.hostAsid
  else if off = 0x18 then s.p.hostVa % 2 ^ 32
  else if off = 0x1C then s.p.hostVa / 2 ^ 32
  else if off = 0x20 then s.p.hostBase % 2 ^ 32
  else if off = 0x24 then s.p.hostBase / 2 ^ 32
  else if 0x10000 ≤ off ∧ off < 0x14000 ∧ off % 0x1000 < 0x100 then
    (s.dieReg ((off - 0x10000) / 0x1000) (0xC0 + off % 0x1000 / 4)).toNat
  else if 0x20000 ≤ off ∧ off < 0x28000 then (s.msixWord ((off - 0x20000) / 4)).toNat
  else if 0x28000 ≤ off ∧ off < 0x28100 then
    ((List.range 32).map fun i => if (off - 0x28000) * 8 + i ∈ s.p.msixPend then 2 ^ i else 0).sum
  else 0

/-- A host's read of BAR0: 4 or 8 bytes. -/
def State.barRead (s : State) (off size : Nat) : Nat :=
  s.barDword off + (if size = 8 then 2 ^ 32 * s.barDword (off + 4) else 0)

/-- BAR0_BAD_ACCESS (R384, R392): a host access of BAR0, with the event's flag a read, whose answer stands in `hostRead`. A
refused write is dropped, a refused read gives zero, and BADACC rises; a write that is in order is HOST_REG_WRITE's. -/
def execBar0BadAccess (s : State) : Host.Outcome State Fault Refusal :=
  let e := s.u.ev
  let bad := s.barBad e.id e.size
  let t : State := if e.flag then { s with p.hostRead := some (if bad then 0 else s.barRead e.id e.size) } else s
  .next (if bad then t.badAccess else t)

/-! ### Carving and residency (R254, R256) -/

/-- A grid with a chip allocation is resident on a die (R254). -/
def State.chipBusy (s : State) (die : Nat) : Bool := !(s.chipHeld die).isEmpty

/-- CHIPCARVE_WRITE (R254): the write waits until no grid with a chip allocation is resident on the die; 5 to 7 leave K
unchanged. -/
def execChipcarveWrite (s : State) : Host.Outcome State Fault Refusal :=
  let k := s.u.ev.value % 8
  if !s.p.ready then .next s.badAccess
  else if 4 < k ∨ 4 ≤ s.u.ev.id then .next s
  else .next { s with g.carveWait := s.g.carveWait.put s.u.ev.id k }

/-- Lines that no longer fit the ways left leave a die's sets, ordinary ones first: they are written back and evicted, and
leave their guests and sharers (R254, R259, R261). Ranges stay enabled, also where their ways then exceed the limit of a
RESCTL_WRITE (log entry 80). -/
def State.shrinkWays (s : State) (die ways : Nat) : State :=
  (s.k.l2.filter fun x => decide (x.die = die)).foldl (fun (t : State) x =>
    if (t.setLines die x.pa).length ≤ ways then t
    else if (t.setLines die x.pa).any fun y => y.retained.isNone then t.evictOne die x.pa fun y => y.retained.isNone
    else t.evictOne die x.pa fun _ => true) s

/-- CHIPCARVE_APPLY (R254): the new carving takes effect. -/
def execChipcarveApply (s : State) : Host.Outcome State Fault Refusal :=
  let die := s.u.ev.id
  if !s.g.carveWait.has die || s.chipBusy die then .next s
  else
    let k := s.g.carveWait.look die 0
    let t : State := { s with g.carveWait := s.g.carveWait.drop die }
    let t := if s.carve die < k then t.shrinkWays die (16 - 2 * k) else t
    .next (t.setDieReg die 0xC0 (BitVec.ofNat 32 k))

/-- RESCTL_WRITE (R256): the event names die and range; the write is ignored as a whole when EN would stand with WAYS 0
or a LIMIT below BASE, or the enabled WAYS would exceed 12 − 2K. WAYS above 8 is taken as it stands (log entry 80). -/
def execResctlWrite (s : State) : Host.Outcome State Fault Refusal :=
  match s.u.ev.list with
  | [die, n] =>
    let v := s.u.ev.value
    let w := BitVec.ofNat 32 ((if bit v 31 then 2 ^ 31 else 0) + v % 2 ^ 12)
    let t := s.setDieReg die (0xD2 + 3 * n) w
    let bad := bit v 31 && decide (v % 16 = 0 ∨ s.resLim die n < s.resBase die n)
    if !s.p.ready then .next s.badAccess
    else if 4 ≤ die ∨ 16 ≤ n ∨ bad ∨ 12 - 2 * s.carve die < t.reserved die then .next s
    else .next (if s.resEn die n && (!bit v 31 || decide (s.resWays die n ≠ v % 16)) then t.freeRange die n else t)
  | _ => .next s

/-! ### BAR2 (R385) -/

/-- Bytes as a host reads them (R334): as the MSC holds them, or as the home slice does, since a dirty line may have been
written back by now; from then on a host never reads an older value (R321). -/
def State.hostBytes (s : State) (loc n : Nat) : Nat × State :=
  if s.choose 122 % 2 = 0 then (s.loadMsc loc n, s) else (s.load loc n, s.writeBack (loc / 128))

/-- A host access that faults is reported to the fault queue of die 0 (R385). -/
def State.hostFault (s : State) (code va info : Nat) : State :=
  s.postFq { die := 0, kind := .report, code := code, words := s.reportWords code va info 0 s.p.hostAsid }

/-- HOST_BAR2_READ (R385): the event names the BAR2 offset and the size of a read within one line; its answer stands in
`hostRead`, none for Unsupported Request, for poisoned data and beyond the BAR (log entry 29). With the flag a read that leads to
host memory ends in an error there (R376). -/
def execHostBar2Read (s : State) : Host.Outcome State Fault Refusal :=
  let va := s.p.hostVa + s.u.ev.id
  let n := s.u.ev.size
  if s.p.bar2 < s.u.ev.id + n then .next { s with p.hostRead := none }
  else match s.dieSeek 0 s.p.hostAsid va false with
  | .inr c => .next (({ s with p.hostRead := none } : State).hostFault c va 4)
  | .inl lf =>
    if n = 0 ∨ 128 < va % 128 + n then .next s
    else if !s.unrecalled s.p.hostAsid lf va false then .next (s.dieCall s.p.hostAsid lf va false)
    else
      let t := s.dieTouch 0 s.p.hostAsid lf va false
      let loc := t.locOf lf (lf.pa va)
      let x := t.hostBytes loc n
      let bad := t.poisoned loc n || t.retiredAt lf (lf.pa va) || (inHost (lf.pa va) && s.u.ev.flag)
      let u := if bad then x.2.poisonEvent (some lf) (lf.pa va) 0 else x.2
      .next { u with p.hostRead := if bad then none else some x.1 }

/-- The bytes of a write that its byte enables select, written at home (R385): `off` lists the bytes left as they are. -/
def State.hostWrite (s : State) (lf : Leaf) (va v n : Nat) (off : List Nat) : State :=
  if off.isEmpty then s.dieWrite 0 s.p.hostAsid lf va v n
  else ((List.range n).filter fun i => decide (i ∉ off)).foldl (fun (t : State) i =>
    t.dieWrite 0 s.p.hostAsid lf (va + i) (v / 2 ^ (8 * i) % 256) 1) s

/-- HOST_BAR2_WRITE (R385): a write within one line is performed at home as one; a faulting one is dropped and reported.
The event lists the bytes whose enables are off. -/
def execHostBar2Write (s : State) : Host.Outcome State Fault Refusal :=
  let va := s.p.hostVa + s.u.ev.id
  let n := s.u.ev.size
  if s.p.bar2 < s.u.ev.id + n then .next s
  else match s.dieSeek 0 s.p.hostAsid va true with
  | .inr c => .next (s.hostFault c va 5)
  | .inl lf =>
    if n = 0 ∨ 128 < va % 128 + n then .next s
    else if !s.unrecalled s.p.hostAsid lf va true then .next (s.dieCall s.p.hostAsid lf va true)
    else if s.retiredAt lf (lf.pa va) then .next s
    else .next (s.hostWrite lf va s.u.ev.value n s.u.ev.list)

/-! ### Keys (R382) -/

/-- KEY_LOAD (R382): every MSC line tagged with the index is written back and dropped, then the new key is in place;
data stored under the old one decrypts to unrelated values. Before READY the message gets an error response (R392). -/
def execKeyLoad (s : State) : Host.Outcome State Fault Refusal :=
  let k := s.u.ev.id
  s.message (if 8192 ≤ k then s else { s with
    k.msc := s.k.msc.filter fun m => decide (m.key ≠ k)
    k.keyGen := s.k.keyGen.put k (s.k.keyGen.look k 0 + 1) })

end Sys2Proof.Machine
end

