-- ==== Sys2Proof/Machine/Sfu.lean ====
section
/-! DEFINITION. The functions of the special-function unit (R116 to R118). Each is evaluated in integer fixed point
with `sfuP` fraction bits, far beyond what rounding to FP32 can see, and a last bit that says the value
goes on; the rounding to FP32 is `roundTo` (log entry 14). -/

namespace Sys2Proof.Machine

/-- Fraction bits of the fixed-point evaluation. -/
def sfuP : Nat := 448
/-- π in `sfuP` fraction bits. -/
def sfuPi : Nat := 0x3243f6a8885a308d313198a2e03707344a4093822299f31d0082efa98ec4e6c89452821e638d01377be5466cf34e90c6cc0ac29b7c97c50dd
/-- ln 2 in `sfuP` fraction bits. -/
def sfuLn2 : Nat := 0xb17217f7d1cf79abc9e3b39803f2f6af40f343267298b62d8a0d175b8baafa2be7b876206debac98559552fb4afa1b10ed2eae35c1382144

/-- Integer square root by digits, from bit `i` down. -/
def sqrtFrom (x r : Nat) : Nat → Nat
  | 0 => r
  | i + 1 => let c := r + 2 ^ i; sqrtFrom x (if c * c ≤ x then c else r) i

/-- Integer square root of x below 2^(2n). -/
def isqrt (n x : Nat) : Nat := sqrtFrom x 0 n

/-- Σ y^k / k! from the term `t` of index k, in fixed point. -/
def expTerms (y t k : Nat) : Nat → Nat
  | 0 => 0
  | n + 1 => t + expTerms y (t * y / 2 ^ sfuP / (k + 1)) (k + 1) n

/-- e^y in fixed point. -/
def expFix (y : Nat) : Nat := expTerms y (2 ^ sfuP) 0 320

/-- Alternating series: term t of index k, next term t·y²/((k+1)(k+2)). -/
def altTerms (y2 t k : Nat) (minus : Bool) : Nat → Int
  | 0 => 0
  | n + 1 =>
    (if minus then -(t : Int) else (t : Int)) +
      altTerms y2 (t * y2 / 2 ^ sfuP / ((k + 1) * (k + 2))) (k + 2) (!minus) n

/-- sin y in fixed point, 0 ≤ y < π/2. -/
def sinFix (y : Nat) : Nat := (altTerms (y * y / 2 ^ sfuP) y 1 false 64).toNat
/-- cos y in fixed point, 0 ≤ y < π/2. -/
def cosFix (y : Nat) : Nat := (altTerms (y * y / 2 ^ sfuP) (2 ^ sfuP) 0 false 64).toNat

/-- Σ z^k / k over odd k from the power `p` of index k. -/
def atanhTerms (z2 p k : Nat) : Nat → Nat
  | 0 => 0
  | n + 1 => p / k + atanhTerms z2 (p * z2 / 2 ^ sfuP) (k + 2) n

/-- A fixed-point magnitude that goes on below its last bit. -/
def inexact (neg : Bool) (v : Nat) (e : Int) : XVal := .fin neg (2 * v + 1) (e - sfuP - 1)

/-- 1 / a (R117). -/
def sfuRcp (a : XVal) : XVal :=
  match a with
  | .nan => .nan
  | .inf s => .fin s 0 0
  | .fin s m e =>
    if m = 0 then .inf s
    else
      let q := 2 ^ 256 / m
      .fin s (2 * q + if 2 ^ 256 % m = 0 then 0 else 1) (-e - 257)

/-- √a (R117). -/
def sfuSqrt (a : XVal) : XVal :=
  match a with
  | .nan => .nan
  | .inf s => if s then .nan else .inf false
  | .fin s m e =>
    if m = 0 then .fin s 0 0
    else if s then .nan
    else
      let m' := if e % 2 = 0 then m else 2 * m
      let x := m' * 2 ^ 128
      let r := isqrt 96 x
      .fin false (2 * r + if r * r = x then 0 else 1) ((e - e % 2) / 2 - 65)

/-- 1 / √a (R117). -/
def sfuRsq (a : XVal) : XVal :=
  match a with
  | .nan => .nan
  | .inf s => if s then .nan else .fin false 0 0
  | .fin s m e =>
    if m = 0 then .inf s
    else if s then .nan
    else
      let m' := if e % 2 = 0 then m else 2 * m
      let x := 2 ^ 256 / m'
      let r := isqrt 130 x
      .fin false (2 * r + if r * r * m' = 2 ^ 256 then 0 else 1) (-(e - e % 2) / 2 - 129)

/-- 2^a (R117). -/
def sfuExp2 (a : XVal) : XVal :=
  match a with
  | .nan => .nan
  | .inf s => if s then .fin false 0 0 else .inf false
  | .fin s m e =>
    let x : Int := (XVal.fin s m e).units (-(sfuP : Int))
    let one : Int := 2 ^ sfuP
    let n := x / one
    let f := (x % one).toNat
    if 200 ≤ n then .fin false 1 200
    else if n < -200 then .fin false 1 (-400)
    else if f = 0 then .fin false 1 n
    else inexact false (expFix (f * sfuLn2 / 2 ^ sfuP)) n

/-- log2 a (R117). -/
def sfuLog2 (a : XVal) : XVal :=
  match a with
  | .nan => .nan
  | .inf s => if s then .nan else .inf false
  | .fin s m e =>
    if m = 0 then .inf true
    else if s then .nan
    else
      let k := m.log2
      let n : Int := k + e
      let w := m - 2 ^ k
      if w = 0 then .fin (decide (n < 0)) n.natAbs 0
      else
        let z := w * 2 ^ sfuP / (m + 2 ^ k)
        let l := 2 * atanhTerms (z * z / 2 ^ sfuP) z 1 150
        let v : Int := n * 2 ^ sfuP + (l * 2 ^ sfuP / sfuLn2 : Nat)
        inexact (decide (v < 0)) v.natAbs 0

/-- Is |a| below 2^−13, where sin, tanh and cos round to a, a and 1 (R117)? -/
def sfuTiny (m : Nat) (e : Int) : Bool := decide ((m.log2 : Int) + e < -13)

/-- Quadrant and remainder of |a| by π/2 (R117: every finite argument is reduced exactly). -/
def sfuReduce (m : Nat) (e : Int) : Nat × Nat :=
  let x := m * 2 ^ (e + sfuP).toNat
  (2 * x / sfuPi % 4, (2 * x % sfuPi) / 2)

/-- sin a, radians (R117, R118). -/
def sfuSin (a : XVal) : XVal :=
  match a with
  | .fin s m e =>
    if m = 0 then .fin s 0 0
    else if sfuTiny m e then .fin s m e
    else
      let qr := sfuReduce m e
      match qr.1 with
      | 0 => inexact s (sinFix qr.2) 0
      | 1 => inexact s (cosFix qr.2) 0
      | 2 => inexact (!s) (sinFix qr.2) 0
      | _ => inexact (!s) (cosFix qr.2) 0
  | _ => .nan

/-- cos a, radians (R117, R118). -/
def sfuCos (a : XVal) : XVal :=
  match a with
  | .fin _ m e =>
    if m = 0 || sfuTiny m e then .fin false 1 0
    else
      let qr := sfuReduce m e
      match qr.1 with
      | 0 => inexact false (cosFix qr.2) 0
      | 1 => inexact true (sinFix qr.2) 0
      | 2 => inexact true (cosFix qr.2) 0
      | _ => inexact false (sinFix qr.2) 0
  | _ => .nan

/-- tanh a (R117, R118). -/
def sfuTanh (a : XVal) : XVal :=
  match a with
  | .nan => .nan
  | .inf s => .fin s 1 0
  | .fin s m e =>
    if m = 0 then .fin s 0 0
    else if sfuTiny m e then .fin s m e
    else
      let x := m * 2 ^ (e + sfuP).toNat
      if 10 * 2 ^ sfuP ≤ x then .fin s 1 0
      else
        let v := expFix (2 * x)
        inexact s ((v - 2 ^ sfuP) * 2 ^ sfuP / (v + 2 ^ sfuP)) 0

end Sys2Proof.Machine
end

