-- ==== Sys2Proof/Machine/SfuOps.lean ====
section
/-! DEFINITION. Major 0x0C SFU (R116 to R118): long-latency producers, whose results wait in State.e.sfu until
SFU_RESULT lands them. -/

namespace Sys2Proof.Machine

/-- Use of an SFU instruction (R116); `rnd` is the highest rounding code it takes. -/
def State.useSfu (s : State) (o : OpA1) (rnd : Nat) : Use :=
  { major := 0x0C
    legal := s.modpOk { rnd := rnd }
    reads := [{ reg := o.va.toNat, trap := o.ta }]
    dests := [(o.vd.toNat, 1)] }

/-- Issue an SFU operation: vd becomes empty in every lane with a true effective mask; the other lanes are
delivered at once (R116). -/
def State.issueSfu (s : State) (o : OpA1) (f : Rnd → XVal → Nat) : Res :=
  let vd := o.vd.toNat
  let op : SfuOp :=
    { id := s.u.uid, team := s.u.iss.team, group := s.u.iss.group, vd := vd
      results := s.elanes.map fun l =>
        (l, BitVec.ofNat 32 (f (s.roundOf (s.sliceOf l)) (fp32.value (s.getV (s.lane l) o.va.toNat).toNat))) }
  let t := s.act.foldl (fun t l =>
    if s.maskOk l then t.setEmpty (s.lane l) vd true
    else if s.zi then t.setV (s.lane l) vd 0
    else t) s
  .ok { t with e.sfu := t.e.sfu ++ [op], u.uid := t.u.uid + 1 }

/-- FRCP (R117). -/
def meanFrcp (o : OpA1) (s : State) : Meaning :=
  Meaning.mk (s.useSfu o 5) (fun t => t.issueSfu o fun r a => roundTo fp32 r (sfuRcp a))
/-- FRCP: its issue unit, run. -/
def execFrcp (o : OpA1) (s : State) : Host.Outcome State Fault Refusal := (meanFrcp o s).run s
/-- FRSQ (R117). -/
def meanFrsq (o : OpA1) (s : State) : Meaning :=
  Meaning.mk (s.useSfu o 5) (fun t => t.issueSfu o fun r a => roundTo fp32 r (sfuRsq a))
/-- FRSQ: its issue unit, run. -/
def execFrsq (o : OpA1) (s : State) : Host.Outcome State Fault Refusal := (meanFrsq o s).run s
/-- FSQRT (R117). -/
def meanFsqrt (o : OpA1) (s : State) : Meaning :=
  Meaning.mk (s.useSfu o 5) (fun t => t.issueSfu o fun r a => roundTo fp32 r (sfuSqrt a))
/-- FSQRT: its issue unit, run. -/
def execFsqrt (o : OpA1) (s : State) : Host.Outcome State Fault Refusal := (meanFsqrt o s).run s
/-- FEXP2 (R117). -/
def meanFexp2 (o : OpA1) (s : State) : Meaning :=
  Meaning.mk (s.useSfu o 5) (fun t => t.issueSfu o fun r a => roundTo fp32 r (sfuExp2 a))
/-- FEXP2: its issue unit, run. -/
def execFexp2 (o : OpA1) (s : State) : Host.Outcome State Fault Refusal := (meanFexp2 o s).run s
/-- FLOG2 (R117). -/
def meanFlog2 (o : OpA1) (s : State) : Meaning :=
  Meaning.mk (s.useSfu o 5) (fun t => t.issueSfu o fun r a => roundTo fp32 r (sfuLog2 a))
/-- FLOG2: its issue unit, run. -/
def execFlog2 (o : OpA1) (s : State) : Host.Outcome State Fault Refusal := (meanFlog2 o s).run s
/-- FSIN: no rounding mode (R117). -/
def meanFsin (o : OpA1) (s : State) : Meaning :=
  Meaning.mk (s.useSfu o 0) (fun t => t.issueSfu o fun _ a => roundTo fp32 {} (sfuSin a))
/-- FSIN: its issue unit, run. -/
def execFsin (o : OpA1) (s : State) : Host.Outcome State Fault Refusal := (meanFsin o s).run s
/-- FCOS (R117). -/
def meanFcos (o : OpA1) (s : State) : Meaning :=
  Meaning.mk (s.useSfu o 0) (fun t => t.issueSfu o fun _ a => roundTo fp32 {} (sfuCos a))
/-- FCOS: its issue unit, run. -/
def execFcos (o : OpA1) (s : State) : Host.Outcome State Fault Refusal := (meanFcos o s).run s
/-- FTANH (R117). -/
def meanFtanh (o : OpA1) (s : State) : Meaning :=
  Meaning.mk (s.useSfu o 0) (fun t => t.issueSfu o fun _ a => roundTo fp32 {} (sfuTanh a))
/-- FTANH: its issue unit, run. -/
def execFtanh (o : OpA1) (s : State) : Host.Outcome State Fault Refusal := (meanFtanh o s).run s

/-- SFU_RESULT: the results of one operation land (R116). -/
def execSfuResult (s : State) : Host.Outcome State Fault Refusal :=
  match s.e.sfu.find? fun p => decide (p.id = s.u.ev.id) with
  | none => .next s
  | some p => .next (s.landSfu p)

end Sys2Proof.Machine
end

