-- ==== Sys2Proof/Machine/Matrix.lean ====
section
/-! DEFINITION. Majors 0x17 MATRIX and 0x18 MATCTL (R181 to R203): fragments, multiplies, structured sparsity, joint
operations, macro scales, transposes, online softmax; and the events MATRIX_DELIVER, JOINT_START and
RENDEZVOUS_TIMEOUT. -/

namespace Sys2Proof.Machine

/-! ### The matrix meaning of a MODP (R182, R183) -/

/-- Type codes: alt × 4 + pack. -/
abbrev tyF32 := 0
abbrev tyF16 := 1
abbrev tyE4M3 := 2
abbrev tyS8 := 3
abbrev tyDx := 4
abbrev tyBf16 := 5
abbrev tyE5M2 := 6
abbrev tyS4 := 7

/-- The type code of the unit. -/
def State.ty (s : State) : Nat := (if s.alt then 4 else 0) + s.pack
/-- J: a joint operation. -/
def State.joint (s : State) : Bool := bit s.maskReg 0
/-- SP: 2-of-4 rather than 4-of-8. -/
def State.sp (s : State) : Bool := bit s.maskReg 1
/-- Is a type an integer type? -/
def tyInt (ty : Nat) : Bool := decide (ty = tyS8 ∨ ty = tyS4)
/-- Float format of a type that is neither DX nor integer. -/
def tyFmt (ty : Nat) : Fmt :=
  if ty = tyF16 then fp16 else if ty = tyBf16 then bf16 else if ty = tyE4M3 then e4m3
  else if ty = tyE5M2 then e5m2 else fp32
/-- Bits of an element of a dense type. -/
def tyBits (ty : Nat) : Nat :=
  if ty = tyF32 then 32 else if ty = tyF16 ∨ ty = tyBf16 then 16 else if ty = tyS4 then 4 else 8

/-- The fields of the matrix meaning are what an instruction allows (R182, R203): types, rounding, sat, vc, J, SP. -/
def State.matModp (s : State) (tys : List Nat) (rnd sat vc j sp : Bool) : Bool :=
  s.noImmx && match s.u.iss.modp with
    | none => decide (tyF32 ∈ tys)
    | some m =>
      let ty := (if m.alt then 4 else 0) + m.pack.toNat
      decide (ty ∈ tys) && (if rnd then decide (m.rnd.toNat ≤ 5) else decide (m.rnd = 0)) &&
        (!m.sat || (sat && tyInt ty)) && (decide (m.rnd = 0) || !tyInt ty) && !m.zi &&
        (vc || (decide (m.vc = 0) && !m.tc)) && decide (m.mask.toNat < 4) && (j || !bit m.mask.toNat 0) &&
        (sp || !bit m.mask.toNat 1)

/-! ### The group (R181, R183) -/

/-- Width of the group under issue. -/
def State.gw (s : State) : Nat := s.width s.u.iss.team

/-- The split does not hold the whole group with every lane active (R181). -/
def State.partOf (s : State) : Bool := decide (s.act.length ≠ s.gw)

/-- The DX code when it is equal in every slice of the group and valid (R183). -/
def State.dxOf (s : State) : Option Nat :=
  let cs := (List.range (s.gw / 4)).map fun c => s.dxCode (s.slice c)
  match cs with
  | [] => none
  | k :: _ => if k ≤ 2 ∧ cs.all (· == k) then some k else none

/-- Registers of a micro-block of DX code k. -/
def dxBlockRegs (k : Nat) : Nat := (dxShape k).2.2 + 1

/-- K of one group (R184). -/
def matK (ty dx : Nat) (sparse : Bool) : Nat :=
  let k := if ty = tyDx then (if dx = 0 then 32 else 64) else 256 / tyBits ty
  if sparse then 2 * k else k

/-- Registers of an A row. -/
def aRegs (ty dx : Nat) : Nat := if ty = tyDx then matK ty dx false / 32 * dxBlockRegs dx else 8

/-- Registers of a whole B column. -/
def colRegs (ty dx : Nat) (sparse : Bool) : Nat :=
  if ty = tyDx then aRegs ty dx else if sparse then 16 else 8

/-- Registers of the B range in each lane at a group width (R184, R185). -/
def bRegs (w ty dx : Nat) (sparse : Bool) : Nat :=
  let n := colRegs ty dx sparse
  if w = 16 then 2 * n else if w = 64 then (if ty = tyDx ∧ dx = 0 then 5 else n / 2) else n

/-- Occupancy in clk of an instruction that takes `c` at width 32, scaled (R184). -/
def occupancy (c w : Nat) : Nat := max 1 (c * w / 32)

/-! ### Fragments (R185) -/

/-- The registers of a B column as one number. -/
def colOf (w ty dx : Nat) (sparse : Bool) (b : List (List Word)) (j : Nat) : Nat :=
  let regs := fun (l from_ n : Nat) =>
    ((List.range n).map fun i => (((b.getD l []).getD (from_ + i) 0).toNat) * 2 ^ (32 * i)).sum
  let n := colRegs ty dx sparse
  if w = 16 then regs (j % 16) (j / 16 * n) n
  else if w = 64 then
    if ty = tyDx ∧ dx = 0 then regs j 0 4 + 2 ^ 128 * regs (j + 32) 0 4 + 2 ^ 256 * regs j 4 1
    else regs j 0 (n / 2) + 2 ^ (32 * (n / 2)) * regs (j + 32) 0 (n / 2)
  else regs j 0 n

/-- The registers of an A row as one number. -/
def rowOf (a : List (List Word)) (i : Nat) : Nat :=
  ((a.getD i []).mapIdx fun k w => w.toNat * 2 ^ (32 * k)).sum

/-- Element k of a dense, DX or integer sequence as an exact value (R33, R39). -/
def matElem (ty dx x k : Nat) : XVal :=
  if ty = tyDx then
    let n := dxBlockRegs dx
    let y := x / 2 ^ (32 * n * (k / 32)) % 2 ^ (32 * n)
    let e := y / 2 ^ (32 * (n - 1))
    dxValue dx (e % 256) (e / 256 % 256) (elem y (k % 32) (dxShape dx).1)
  else if tyInt ty then XVal.ofInt (sext (tyBits ty) (elem x k (tyBits ty)))
  else (tyFmt ty).value (elem x k (tyBits ty))

/-- Logical positions and kept values of a sparse row (R189, R190): pairs of k and the kept element. -/
def keptOf (p24 : Bool) (ty row : Nat) (md : List Word) (k : Nat) : List (Nat × XVal) :=
  let h := sparseShape p24
  (List.range (k / h.1)).flatMap fun q =>
    let w := (md.getD (q / h.2.1) 0).toNat
    (patternOf (h.1 / 2) (metaNumber p24 w (q % h.2.1))).mapIdx fun j p =>
      (q * h.1 + p, matElem ty 0 row (q * (h.1 / 2) + j))

/-- What one group brings to an operation: A rows, B columns, metadata, and how they are read. -/
structure Frag where
  w : Nat
  ty : Nat
  dx : Nat
  sparse : Bool
  p24 : Bool
  a : List (List Word)
  b : List (List Word)
  md : List (List Word)
  deriving DecidableEq, Repr

/-- The exact products of row i and column j of one group (R187, R190). -/
def Frag.prods (f : Frag) (i j : Nat) : List XVal :=
  let k := matK f.ty f.dx f.sparse
  let row := rowOf f.a i
  let col := colOf f.w f.ty f.dx f.sparse f.b j
  if f.sparse then
    (keptOf f.p24 f.ty row (f.md.getD i []) k).map fun x => x.2.mul (matElem f.ty 0 col x.1)
  else (List.range k).map fun q => (matElem f.ty f.dx row q).mul (matElem f.ty f.dx col q)

/-- The integer a value is. -/
def XVal.toInt (x : XVal) : Int := x.units 0

/-- An INT8 or INT4 element of D (R40). -/
def intElem (sat : Bool) (c : Nat) (ps : List XVal) : Nat :=
  let v : Int := sext 32 c + (ps.map XVal.toInt).sum
  if sat then wrap 32 (max (-(2 ^ 31)) (min (2 ^ 31 - 1) v)) else wrap 32 v

/-! ### Macro scales (R37, R196) -/

/-- Addends that an entry of the chunk buffer stands for: an exact zero that came from unlike addends is kept apart
(R39). -/
def chunkAddends : XVal → List XVal
  | .fin false 0 1 => [.fin true 0 0, .fin false 0 0]
  | x => [x]

/-- Add products to an entry of the chunk buffer, exactly. -/
def chunkAdd (old : List XVal) (ps : List XVal) : XVal :=
  let xs := old.flatMap chunkAddends ++ ps
  match exactSum .rne xs with
  | .fin _ 0 _ =>
    if xs.all XVal.isNegZero then .fin true 0 0
    else if xs.all XVal.isPosZero then .fin false 0 0 else .fin false 0 1
  | x => x

/-- Types under the chunk rule. -/
def tyScaled (ty : Nat) : Bool := decide (ty = tyDx ∨ ty = tyE4M3 ∨ ty = tyE5M2)

/-- An element of D at the end of a chunk (R37, R196). -/
def chunkElem (r : Rnd) (pb : XVal) (sa sb c : Nat) : Nat :=
  let p := roundSum fp32 r (chunkAddends pb)
  let q := roundTo fp32 {} (fp32.prod sa sb)
  let t := roundTo fp32 r (fp32.prod p q)
  roundSum fp32 r [fp32.value c, fp32.value t]

/-- The chunk rule refuses an instruction of the group (R196). -/
def Group.chunkBad (g : Group) (ty keff vd vc : Nat) : Bool :=
  !tyScaled ty || decide (128 % keff ≠ 0) || (decide (g.kpos ≠ 0) && decide (g.bind ≠ some (vd, ty) ∨ vc ≠ vd))

/-! ### Operations -/

/-- A group's registers from `r`, `n` of each lane. -/
def State.fragRegs (s : State) (g : GroupId) (r n : Nat) : List (List Word) :=
  (List.range (s.width g.t)).map fun l => (List.range n).map fun i => s.getV ⟨g.t, g.g, l⟩ (r + i)

/-- Put an operation in flight on a core's engine (R186). -/
def State.startMat (s : State) (core : Nat) (g : GroupId) (vd n occ late : Nat) (rs : List (Nat × Nat)) : State :=
  { s with
    e.mats := s.e.mats ++ [{ id := s.u.uid, team := g.t, group := g.g, vd := vd, n := n, at_ := s.u.clk + occ + late
                             results := rs }]
    e.busy := s.e.busy.put core (s.u.clk + occ)
    u.uid := s.u.uid + 1 }

/-- The engine of a core is occupied (R186). -/
def State.engineBusy (s : State) (core : Nat) : Bool := decide (s.u.clk < s.e.busy.look core 0)

/-- Run an MMA or MMAS on the leader's engine (R187, R190, R196): the fragments of every member, the leader's group,
D, C, type, rounding, sat. The effective K is the sum of the members' own, also where their DX codes differ (log entry 77). -/
def State.runMma (s : State) (g : GroupId) (fs : List Frag) (vd vc ty : Nat) (r : Rnd) (sat : Bool) (occ : Nat) :
    State :=
  let core := s.coreOf g
  let w := s.width g.t
  let x := s.grp g
  let prods := fun i j => fs.flatMap fun f => f.prods i j
  let c := fun (i j : Nat) => (s.getV ⟨g.t, g.g, i⟩ (vc + j)).toNat
  let out := fun (f : Nat → Nat → Nat) => (List.range w).map fun i => (i, joinElems 32 (f i) 32)
  if x.armed ∧ tyScaled ty then
    let keff := (fs.map fun f => matK f.ty f.dx f.sparse).sum
    let old := fun (i j : Nat) => if x.kpos = 0 then [] else [x.chunk.getD (32 * i + j) (.fin false 0 0)]
    let pb := fun (i j : Nat) => chunkAdd (old i j) (prods i j)
    if x.kpos + keff = 128 then
      let t := s.startMat core g vd 32 occ 12 (out fun i j =>
        chunkElem r (pb i j) (x.sa.getD i 0).toNat x.sb.toNat (c i j))
      t.modGrp g fun y => { y with kpos := 0, bind := none, chunk := [] }
    else
      let t := s.startMat core g vd 32 occ 12 []
      t.modGrp g fun y =>
        { y with kpos := y.kpos + keff, bind := some (vd, ty)
                 chunk := (List.range w).flatMap fun i => (List.range 32).map fun j => pb i j }
  else
    s.startMat core g vd 32 occ 12 (out fun i j =>
      if tyInt ty then intElem sat (c i j) (prods i j) else roundSum fp32 r (fp32.value (c i j) :: prods i j))

/-! ### The frame of group-wide units -/

/-- A range read in every lane of the group. -/
def State.wide (s : State) (r n : Nat) (trap : Bool) : Read := { reg := r, n := n, trap := trap, lanes := some (List.range s.gw) }

/-- Use of a group-wide unit (R181, R186). -/
def State.useWide (s : State) (major : Nat) (legal : Bool) (reads : List Read) (dests : List (Nat × Nat)) : Use :=
  { major := major, legal := legal, reads := reads, dests := dests, dlanes := some (List.range s.gw)
    partGroup := s.partOf
    ready := !s.engineBusy (s.coreOf s.gid) && decide ((s.grp s.gid).mscBusy = 0) }

/-- A CONSORT value's leader group. -/
def consortLeader (c : BitVec 48) : Nat := c.toNat / 2 ^ (7 * (c.toNat / 2 ^ 45 % 8)) % 128

/-- Is the group under issue the leader of its consort? A CONSORT with COUNT 0 names group 0 (log entry 63). -/
def State.isLeader (s : State) : Bool := decide (consortLeader (s.grp s.gid).consort = s.u.iss.group)

/-- The key of a joint operation (R192). -/
def State.jointKey (s : State) (minor : Nat) : List Nat :=
  [minor, s.ty, s.rndCode, if s.sat then 1 else 0, if s.sp then 1 else 0, (s.grp s.gid).consort.toNat]

/-- Metadata registers of an MMAS (R184). -/
def metaRegs (ty : Nat) : Nat := if tyBits ty = 16 then 1 else 2

/-- Numbers in the i-th metadata register of a lane (R189): one for each group of its elements. -/
def metaNumbers (ty : Nat) (p24 : Bool) (i : Nat) : Nat :=
  let h := sparseShape p24
  min h.2.1 (512 / tyBits ty / h.1 - h.2.1 * i)

/-- META_MALFORMED of an MMAS (R190): every lane with a malformed register, and the lowest such register. -/
def State.metaFault (s : State) (vc n : Nat) (p24 : Bool) : Option FaultInfo :=
  let bad := fun l i => metaBadIn p24 (metaNumbers s.ty p24 i) (s.getV (s.lane l) (vc + i)).toNat
  let ls := (List.range s.gw).filter fun l => (List.range n).any (bad l)
  match (List.range n).find? fun i => ls.any fun l => bad l i with
  | some i => some { code := META_MALFORMED, reg := vc + i, lanes := some ls }
  | none => none

/-- RENDEZVOUS of a deposit, by the row of R193: the deposits of the consort are discarded as well. -/
def State.depositBad (s : State) (key : List Nat) : Option Nat :=
  let c := (s.grp s.gid).consort
  let t := s.u.iss.team
  if c.toNat / 2 ^ 42 % 8 = 0 then some 0
  else if (consortMembers c).any fun g => s.groupGone t g || decide ((s.grp ⟨t, g⟩).role ≠ .matrix) then some 1
  else if s.e.latch.any fun d => decide (d.team = t ∧ d.key ≠ key) && sameConsort d.consort c then some 2
  else none

/-- The group under issue has a deposit waiting for its consort (R192). -/
def State.deposited (s : State) : Bool :=
  s.e.latch.any fun d => decide (d.team = s.u.iss.team ∧ d.group = s.u.iss.group) &&
    sameConsort d.consort (s.grp s.gid).consort

/-- The fragment of the group under issue. -/
def State.myFrag (s : State) (ty dx : Nat) (sparse : Bool) (va vb vm : Nat) : Frag :=
  { w := s.gw, ty := ty, dx := dx, sparse := sparse, p24 := s.sp
    a := s.fragRegs s.gid va (aRegs ty dx), b := s.fragRegs s.gid vb (bRegs s.gw ty dx sparse)
    md := if sparse then s.fragRegs s.gid vm (metaRegs ty) else [] }

/-- Deposit in the rendezvous latch (R192). The DX code and the rounding mode that the group's slices give are
captured with it (R22, R183). -/
def State.deposit (s : State) (key : List Nat) (f : Frag) (vd vc : Nat) : State :=
  let d : Deposit :=
    { team := s.u.iss.team, group := s.u.iss.group, sid := s.u.iss.sid, unitPc := s.u.iss.unitPc
      consort := (s.grp s.gid).consort, key := key, dx := f.dx + 4 * (s.modeCode s.lead), a := f.a, b := f.b, meta_ := f.md
      vd := vd, vc := vc, since := s.u.clk }
  { s with e.latch := s.e.latch ++ [d] }

/-- MMA, or MMAS when `sparse` (R187, R190, R192); a joint one meets the chunk rule of R196 at its leader's issue (log entry
63). -/
def mmaUnit (sparse : Bool) (o : OpA) (s : State) : Meaning :=
  let vd := o.vd.toNat
  let ty := s.ty
  let vm := s.vc vd
  let vc := if sparse then vd else vm
  let dx := s.dxOf
  let ranged := decide (ty ≠ tyDx) || dx.isSome
  let k := dx.getD 0
  let mayRead := !s.joint || s.isLeader
  let an := aRegs ty k
  let bn := bRegs s.gw ty k sparse
  let mn := metaRegs ty
  let legal :=
    (if sparse then s.matModp [tyF16, tyBf16, tyE4M3, tyE5M2, tyS8] true true true true true &&
        decide (vd + 32 ≤ vm ∨ vm + mn ≤ vd)
      else s.matModp [tyF32, tyF16, tyE4M3, tyS8, tyDx, tyBf16, tyE5M2, tyS4] true true true true false) &&
      decide (vd + 32 ≤ s.budget ∧ vc + 32 ≤ s.budget)
  Meaning.mk
    { s.useWide 0x17 legal
        ((if ranged then [s.wide o.va.toNat an o.ta, s.wide o.vb.toNat bn o.tb] else []) ++
          (if sparse then [s.wide vm mn s.tc] else []) ++
          (if mayRead then [s.wide vc 32 (s.tc && !sparse)] else []))
        (if mayRead then [(vd, 32)] else []) with
      ready := !s.engineBusy (s.coreOf s.gid) && decide ((s.grp s.gid).mscBusy = 0) && !(s.joint && s.deposited) }
    (fun t =>
      let f := t.myFrag ty k sparse o.va.toNat o.vb.toNat vm
      let members := if t.joint then (t.grp t.gid).consort.toNat / 2 ^ 42 % 8 else 1
      let key := t.jointKey (if sparse then 1 else 0)
      let scaled := (t.grp t.gid).armed && mayRead &&
        (t.grp t.gid).chunkBad ty (max 1 members * matK ty k sparse) vd vc
      if !ranged || scaled then .trap { code := FORMAT }
      else match (if sparse then t.metaFault vm mn t.sp else none) with
        | some e => .trap e
        | none =>
          if !t.joint then
            .ok (t.runMma t.gid [f] vd vc ty (t.roundOf t.lead) t.sat (occupancy (if ty = tyF32 then 8 else 2) t.gw))
          else match t.depositBad key with
            | some row => .fail (fun x => if row = 0 then x else x.discardLatch t.u.iss.team (t.grp t.gid).consort row)
                { code := RENDEZVOUS, info := row }
            | none => .ok (t.deposit key f vd vc))

/-- MMA (R187). -/
def meanMma (o : OpA) (s : State) : Meaning := mmaUnit false o s
/-- MMA: its issue unit, run. -/
def execMma (o : OpA) (s : State) : Host.Outcome State Fault Refusal := (meanMma o s).run s
/-- MMAS (R190). -/
def meanMmas (o : OpA) (s : State) : Meaning := mmaUnit true o s
/-- MMAS: its issue unit, run. -/
def execMmas (o : OpA) (s : State) : Host.Outcome State Fault Refusal := (meanMmas o s).run s

/-! ### MMAD (R188) -/

/-- FP64 element k of a row or a column. -/
def dElem (x k : Nat) : Nat := elem x k 64

/-- The chain of one element (R41). -/
def mmadElem (r : Rnd) (row col c : Nat) : Nat :=
  (List.range 4).foldl (fun d k => roundSum fp64 r [fp64.prod (dElem row k) (dElem col k), fp64.value d]) c

/-- MMAD (R188). -/
def meanMmad (o : OpA) (s : State) : Meaning :=
  let vd := o.vd.toNat
  let vc := s.vc vd
  let bn := if s.gw = 16 then 16 else if s.gw = 64 then 4 else 8
  Meaning.mk
    (s.useWide 0x17
      (s.matModp [tyF32] true false true false false && aligned o.va.toNat 2 && aligned o.vb.toNat 2 && aligned vd 2 &&
        aligned vc 2)
      [s.wide o.va.toNat 8 o.ta, s.wide o.vb.toNat bn o.tb, s.wide vc 64 s.tc] [(vd, 64)])
    (fun t =>
      if (t.grp t.gid).armed then .trap { code := FORMAT }
      else
        let a := t.fragRegs t.gid o.va.toNat 8
        let b := t.fragRegs t.gid o.vb.toNat bn
        let c := t.fragRegs t.gid vc 64
        let r := t.roundOf t.lead
        .ok (t.startMat (t.coreOf t.gid) t.gid vd 64 (occupancy 8 t.gw) 12
          ((List.range t.gw).map fun i =>
            (i, joinElems 64 (fun j => mmadElem r (rowOf a i) (colOf t.gw tyF32 0 false b j) (elem (rowOf c i) j 64))
              32))))
/-- MMAD: its issue unit, run. -/
def execMmad (o : OpA) (s : State) : Host.Outcome State Fault Refusal := (meanMmad o s).run s

/-! ### Delivery and joint operations (R186, R192, R193) -/

/-- MATRIX_DELIVER (R186): the results of an operation reach its destination range, which is pending no more. -/
def execMatrixDeliver (s : State) : Host.Outcome State Fault Refusal :=
  match s.e.mats.find? fun m => decide (m.id = s.u.ev.id ∧ m.at_ ≤ s.u.clk) with
  | none => .next s
  | some m =>
    let t := m.results.foldl (fun t r => t.setVs ⟨m.team, m.group, r.1⟩ m.vd r.2 m.n) s
    .next { t with e.mats := t.e.mats.filter fun x => decide (x.id ≠ m.id) }

/-- JOINT_START (R192, R195): every member of a consort has deposited with an equal key, the leader's engine is free and the
team is running, since the latch of a team that is saved waits with it; the event names the team and the CONSORT value. -/
def execJointStart (s : State) : Host.Outcome State Fault Refusal :=
  let c : BitVec 48 := BitVec.ofNat 48 s.u.ev.value
  let ds := s.e.latch.filter fun d => decide (d.team = s.u.ev.id) && sameConsort d.consort c
  let ms := consortMembers c
  let lead : GroupId := ⟨s.u.ev.id, consortLeader c⟩
  match ds.find? fun d => decide (d.group = lead.g) with
  | none => .next s
  | some d =>
    let keys := ds.all fun x => decide (x.key = d.key)
    if ms.isEmpty ∨ !(ms.all fun m => ds.any fun x => decide (x.group = m)) ∨ !keys ∨ s.engineBusy (s.coreOf lead) ∨
        (s.team s.u.ev.id).status ≠ .running then
      .next s
    else
      let ty := d.key.getD 1 0
      let sparse := decide (d.key.getD 0 0 = 1)
      let fs := ds.map fun x =>
        ({ w := s.width x.team, ty := ty, dx := x.dx % 4, sparse := sparse, p24 := decide (d.key.getD 4 0 = 1)
           a := x.a, b := x.b, md := x.meta_ } : Frag)
      let mode := d.dx / 4
      let r : Rnd := { mode := modeOf (if mode = 6 then 0 else mode) 0, sat := false }
      let occ := occupancy (if ty = tyF32 then 8 else 2) (s.width lead.t) * ms.length
      let t : State := { s with e.latch := s.e.latch.filter fun x => !(decide (x.team = s.u.ev.id) && sameConsort x.consort c) }
      .next (t.runMma lead fs d.vd d.vc ty r (decide (d.key.getD 3 0 = 1)) occ)

/-- RENDEZVOUS_TIMEOUT (R193): the latest deposit has waited for SYS_BARWATCH clk. -/
def execRendezvousTimeout (s : State) : Host.Outcome State Fault Refusal :=
  let c : BitVec 48 := BitVec.ofNat 48 s.u.ev.value
  let ds := s.e.latch.filter fun d => decide (d.team = s.u.ev.id) && sameConsort d.consort c
  let w := (s.team s.u.ev.id).barWatch.toNat
  if ds.isEmpty ∨ w = 0 ∨ (s.team s.u.ev.id).status ≠ .running ∨ (ds.map (·.since)).foldl max 0 + w > s.u.clk then
    .next s
  else .next (s.discardLatch s.u.ev.id c 4)

/-- A CONSORT value is valid for the group under issue (R191); member fields from COUNT on must be 0 too (log entry 77). -/
def State.consortOk (s : State) (v : Nat) : Bool :=
  let n := v / 2 ^ 42 % 8
  let ms := consortMembers (BitVec.ofNat 48 v)
  if n = 0 then decide (v = 0)
  else
    decide (v / 2 ^ 48 = 0 ∧ 2 ≤ n ∧ n ≤ 6 ∧ v / 2 ^ 45 % 8 < n ∧ v % 2 ^ 42 / 2 ^ (7 * n) = 0) &&
      decide ms.Nodup && (ms.all fun m => decide (m ∈ s.groups s.u.iss.team)) && decide (s.u.iss.group ∈ ms)

/-- CONSORT (R191). -/
def meanConsort (o : OpConsort) (s : State) : Meaning :=
  Meaning.mk
    { s.useWide 0x18 (s.bare && aligned o.va.toNat 2) [{ reg := o.va.toNat, n := 2, lanes := some [0] }] [] with
      notVector := true }
    (fun t =>
      let v := t.getVs (t.lane 0) o.va.toNat 2
      if t.consortOk v then .ok (t.modGrp t.gid fun g => { g with consort := BitVec.ofNat 48 v })
      else .trap { code := RENDEZVOUS })
/-- CONSORT: its issue unit, run. -/
def execConsort (o : OpConsort) (s : State) : Host.Outcome State Fault Refusal := (meanConsort o s).run s

/-! ### MSCALE (R194) -/

/-- What MSCALE accesses. -/
def mscaleOp (o : OpMC) : MemOp :=
  { kind := .mscale, size := 8, va := o.va.toNat, off := o.off, ta := o.ta, cnt := some o.cnt.toNat }

/-- MSCALE: loads the scales and arms the group. -/
def meanMscale (o : OpMC) (s : State) : Meaning :=
  let m := mscaleOp o
  let u := s.useMem 0x18 m s.u.iss.modp.isNone
  Meaning.mk { u with partGroup := s.partOf, notVector := true
                      ready := u.ready && !s.engineBusy (s.coreOf s.gid) && decide ((s.grp s.gid).mscBusy = 0) }
    (fun t =>
      match t.memBody m with
      | .ok v => .ok (v.modGrp t.gid fun g => { g with armed := true, mscBusy := g.mscBusy + t.elanes.length })
      | r => r)
/-- MSCALE: its issue unit, run. -/
def execMscale (o : OpMC) (s : State) : Host.Outcome State Fault Refusal := (meanMscale o s).run s

/-- MSCALE.OFF: disarms the group (R194); no prefix stands before it (log entry 63). -/
def meanMscaleOff (s : State) : Meaning :=
  Meaning.mk { s.useWide 0x18 s.bare [] [] with notVector := true }
    (fun t => .ok (t.modGrp t.gid fun g => { g with armed := false, kpos := 0, bind := none, chunk := [] }))
/-- MSCALEOFF: its issue unit, run. -/
def execMscaleOff (s : State) : Host.Outcome State Fault Refusal := (meanMscaleOff s).run s

/-! ### Transposes and zeroing (R197 to R199) -/

/-- Where element (i, j) of a transposed W × E block comes from. -/
def transposed (w e i j : Nat) : Nat × Nat :=
  let n := min w e
  (n * (i / n) + j % n, n * (j / n) + i % n)

/-- FRAGT (R197). -/
def meanFragt (o : OpA1) (s : State) : Meaning :=
  Meaning.mk
    { s.useWide 0x18 (s.modpOk { packs := [0, 1, 2, 3], zi := false } && decide (s.maskReg = 0))
        [s.wide o.va.toNat 8 o.ta] [(o.vd.toNat, 8)] with notVector := true }
    (fun t =>
      let bits := 32 / 2 ^ t.pack
      let e := 256 / bits
      let a := t.fragRegs t.gid o.va.toNat 8
      .ok (t.startMat (t.coreOf t.gid) t.gid o.vd.toNat 8 (occupancy 2 t.gw) 12
        ((List.range t.gw).map fun i =>
          (i, joinElems bits (fun j => let x := transposed t.gw e i j; elem (rowOf a x.1) x.2 bits) e))))
/-- FRAGT: its issue unit, run. -/
def execFragt (o : OpA1) (s : State) : Host.Outcome State Fault Refusal := (meanFragt o s).run s

/-- Every slice of the group holds the same F (R198). -/
def State.sameF (s : State) : Bool :=
  (List.range (s.gw / 4)).all fun c => decide ((s.slc (s.slice c)).f = (s.slc (s.slice 0)).f)

/-- XQT (R198). -/
def meanXqt (o : OpA1) (s : State) : Meaning :=
  let ty := s.ty
  let dx := s.dxOf
  let n := aRegs ty (dx.getD 0)
  let ranged := decide (ty ≠ tyDx) || dx.isSome
  Meaning.mk
    (s.useWide 0x17 (s.matModp [tyDx, tyS4] true false false false false)
      (if ranged then [s.wide o.va.toNat n o.ta] else []) (if ranged then [(o.vd.toNat, n)] else []))
    (fun t =>
      let k := dx.getD 0
      if ty = tyDx ∧ (dx = none ∨ k = 0 ∨ !t.sameF) then .trap { code := FORMAT }
      else
        let a := t.fragRegs t.gid o.va.toNat n
        let src := fun (i j : Nat) => let x := transposed t.gw 64 i j; (x, rowOf a x.1)
        let md := (t.roundOf t.lead).mode
        let row := fun i =>
          if ty = tyS4 then joinElems 4 (fun j => let y := src i j; elem y.2 y.1.2 4) 64
          else joinElems (32 * n / 2) (fun b =>
            let p := dxPack k (t.dxPolicy (t.slice 0)) (fun _ => md)
              ((List.range 32).map fun j => let y := src i (32 * b + j); matElem tyDx k y.2 y.1.2)
            p.1 + 2 ^ (32 * (n / 2 - 1)) * p.2) 2
        .ok (t.startMat (t.coreOf t.gid) t.gid o.vd.toNat n (occupancy 4 t.gw) 12
          ((List.range t.gw).map fun i => (i, row i))))
/-- XQT: its issue unit, run. -/
def execXqt (o : OpA1) (s : State) : Host.Outcome State Fault Refusal := (meanXqt o s).run s

/-- ACCZ (R199). -/
def meanAccz (o : OpD) (s : State) : Meaning :=
  let n := if s.pack = 3 then 64 else 32
  Meaning.mk
    (s.useWide 0x17 (s.modpOk { packs := [0, 3], zi := false } && decide (s.maskReg = 0) && s.pairOk o.vd.toNat) []
      [(o.vd.toNat, n)])
    (fun t =>
      let u := t.startMat (t.coreOf t.gid) t.gid o.vd.toNat n 1 2 ((List.range t.gw).map fun i => (i, 0))
      .ok (u.modGrp t.gid fun g => { g with kpos := 0, bind := none, chunk := [] }))
/-- ACCZ: its issue unit, run. -/
def execAccz (o : OpD) (s : State) : Host.Outcome State Fault Refusal := (meanAccz o s).run s

/-! ### SPCMP (R189) -/

/-- Is element a of a type ranked above element b, both with their positions? -/
def spAbove (ty : Nat) (a b : Nat × Nat) : Bool :=
  let w := tyBits ty
  let rank := fun (x : Nat) =>
    if tyInt ty then (sext w x).natAbs
    else
      let m := x % 2 ^ (w - 1)
      if (tyFmt ty).isNan x then 2 ^ w else m
  decide (rank b.1 < rank a.1) || (decide (rank a.1 = rank b.1) && decide (a.2 < b.2))

/-- The positions a group of elements keeps, sorted. -/
def spKeep (ty h : Nat) (xs : List Nat) : List Nat :=
  let ys := xs.mapIdx fun i x => (x, i)
  (ys.filter fun y => decide ((ys.filter fun z => spAbove ty z y).length < h)).map (·.2)

/-- Kept values and metadata of a lane (R189). -/
def spCompress (ty : Nat) (p24 : Bool) (x : Nat) : Nat × Nat :=
  let h := sparseShape p24
  let w := tyBits ty
  let e := 512 / w
  let groups := (List.range (e / h.1)).map fun q =>
    let xs := (List.range h.1).map fun i => elem x (q * h.1 + i) w
    (xs, spKeep ty (h.1 / 2) xs)
  let kept := groups.flatMap fun g => g.2.map fun p => g.1.getD p 0
  let nums := groups.map fun g => (g.2.mapIdx fun j p => binom p (j + 1)).sum
  (joinElems w (fun i => kept.getD i 0) (e / 2),
    (nums.mapIdx fun q n => n * 2 ^ (32 * (q / h.2.1) + h.2.2.1 * (q % h.2.1))).sum)

/-- SPCMP (R189). -/
def meanSpcmp (o : OpSpcmp) (s : State) : Meaning :=
  let ty := s.ty
  let n := 8 + metaRegs ty
  Meaning.mk
    { major := 0x17
      legal := s.modpOk { packs := [1, 2, 3], alt := true } && decide (o.sel.toNat ≤ 1 ∧ ty ∈ [tyF16, tyBf16, tyE4M3, tyE5M2, tyS8])
      reads := [{ reg := o.va.toNat, n := 16, trap := o.ta }]
      dests := [(o.vd.toNat, n)] }
    (fun t => .ok (t.deliverAll o.vd.toNat n fun l =>
      let r := spCompress ty (decide (o.sel.toNat = 1)) (t.getVs (t.lane l) o.va.toNat 16)
      r.1 + 2 ^ 256 * r.2))
/-- SPCMP: its issue unit, run. -/
def execSpcmp (o : OpSpcmp) (s : State) : Host.Outcome State Fault Refusal := (meanSpcmp o s).run s

/-! ### Online softmax (R201, R202) -/

/-- e(y) for a maximum m (R201), as an FP32 encoding. -/
def smxExp (r : Rnd) (m y : Nat) : Nat :=
  let a := fp32.value y
  let b := fp32.value m
  if a.cmp b = .eq then fp32.bias * 2 ^ fp32.fb
  else if a = .inf true then 0
  else roundTo fp32 r (sfuExp2 (exactSum .rne [a, b.negate]))

/-- The merged sum of two states (R201, R202). -/
def smxSum (r : Rnd) (m : Nat) (ma sa mb : Nat) (sb : XVal) : Nat :=
  roundSum fp32 r [fp32.prod sa (smxExp r m ma), sb.mul (fp32.value (smxExp r m mb))]

/-- A merged state, canonical NaN when an input is NaN. -/
def smxMerge (r : Rnd) (ma sa mb : Nat) (sb : Nat) : Nat :=
  if [ma, sa, mb, sb].any fp32.isNan then fp32.nan + 2 ^ 32 * fp32.nan
  else
    let m := fp32.pickNumber true ma mb
    m + 2 ^ 32 * smxSum r m ma sa mb (fp32.value sb)

/-- SMXACC (R201): x is a state with sum 1. -/
def meanSmxacc (o : OpA1) (s : State) : Meaning :=
  Meaning.mk
    { major := 0x17, legal := s.modpOk { rnd := 5 } && aligned o.vd.toNat 2
      reads := [{ reg := o.va.toNat, trap := o.ta }, { reg := o.vd.toNat, n := 2 }]
      dests := [(o.vd.toNat, 2)] }
    (fun t => .ok (t.deliverAll o.vd.toNat 2 fun l =>
      let g := fun n => (t.getV (t.lane l) n).toNat
      smxMerge (t.roundOf (t.sliceOf l)) (g o.vd.toNat) (g (o.vd.toNat + 1)) (g o.va.toNat)
        (fp32.bias * 2 ^ fp32.fb)))
/-- SMXACC: its issue unit, run. -/
def execSmxacc (o : OpA1) (s : State) : Host.Outcome State Fault Refusal := (meanSmxacc o s).run s

/-- SMXFIN (R202). -/
def meanSmxfin (o : OpA) (s : State) : Meaning :=
  Meaning.mk
    { major := 0x17
      legal := s.modpOk { rnd := 5 } && aligned o.vd.toNat 2 && aligned o.va.toNat 2 && aligned o.vb.toNat 2
      reads := [{ reg := o.va.toNat, n := 2, trap := o.ta }, { reg := o.vb.toNat, n := 2, trap := o.tb }]
      dests := [(o.vd.toNat, 2)] }
    (fun t => .ok (t.deliverAll o.vd.toNat 2 fun l =>
      let g := fun n => (t.getV (t.lane l) n).toNat
      smxMerge (t.roundOf (t.sliceOf l)) (g o.va.toNat) (g (o.va.toNat + 1)) (g o.vb.toNat)
        (g (o.vb.toNat + 1))))
/-- SMXFIN: its issue unit, run. -/
def execSmxfin (o : OpA) (s : State) : Host.Outcome State Fault Refusal := (meanSmxfin o s).run s

/-! ### Format register (R200) -/

/-- SETFMT: once in each slice of the split. -/
def meanSetfmt (o : OpImm) (s : State) : Meaning :=
  Meaning.mk { major := 0x18, legal := s.u.iss.modp.isNone && decide (s.immU o.imm ≤ 7), cover := false }
    (fun t => .ok (t.slices.foldl (fun u c => u.modSlc c fun x => { x with f := BitVec.ofNat 3 (t.immU o.imm) }) t))
/-- SETFMT: its issue unit, run. -/
def execSetfmt (o : OpImm) (s : State) : Host.Outcome State Fault Refusal := (meanSetfmt o s).run s

/-- GETFMT. -/
def meanGetfmt (o : OpD) (s : State) : Meaning :=
  Meaning.mk { major := 0x18, legal := s.modpOk {}, dests := [(o.vd.toNat, 1)] }
    (fun t => .ok (t.deliverAll o.vd.toNat 1 fun l => (t.slc (t.sliceOf l)).f.toNat))
/-- GETFMT: its issue unit, run. -/
def execGetfmt (o : OpD) (s : State) : Host.Outcome State Fault Refusal := (meanGetfmt o s).run s

end Sys2Proof.Machine
end

