-- ==== Sys2Proof/Machine/Reshard.lean ====
section
/-! DEFINITION. The re-shard engine (R434 to R449): RSHARD and RSPOLL; and the events RESHARD_ACCEPT,
RESHARD_STEP_COMPLETE, PROGRESS_WRITE, RESHARD_END and RESHARD_STOP. -/

namespace Sys2Proof.Machine

/-! ### Descriptors and the plan -/

/-- The pair's own half of validity (R435). -/
def Shard.valid (d : Shard) (dst : Bool) (w : List Word) : Bool :=
  let n := fun i => (w.getD i 0).toNat
  let axes := ([0, 1, 2, 3] : List Nat).map d.axis
  let named := axes.filter (· ≠ 15)
  decide (d.lay.eb ∈ ([8, 16, 32, 64] : List Nat) ∧ d.lay.extra = 0 ∧ d.lay.swz = 0) &&
    (d.mesh.all fun p => decide (1 ≤ p ∧ p ≤ 512)) && decide (d.ranks ≤ 512 ∧ d.rank < d.ranks) &&
    decide (d.map < 2 ^ 16) && (named.all (· ≤ 2)) && decide (named.eraseDups = named) &&
    (([0, 1, 2, 3] : List Nat).all fun i => decide (i < d.lay.rank ∨ d.axis i = 15)) && d.lay.aboveRank &&
    ({ d.lay with ext := ([0, 1, 2, 3] : List Nat).map d.size } : Layout).disjoint &&
    (dst || decide (n 0 = 0 ∧ n 1 = 0 ∧ n 13 = 0))

/-- A pair of descriptors is valid (R435). -/
def pairValid (sw dw : List Word) : Bool :=
  let a := Shard.ofWords sw
  let b := Shard.ofWords dw
  decide (a.fmtw = b.fmtw ∧ a.lay.ext = b.lay.ext) && a.valid false sw && b.valid true dw

/-- The die of a command. -/
def Rsh.die (r : Rsh) : Nat := r.core / 192

/-! ### The engine's accesses -/

/-- A command of a name. -/
def State.rsh? (s : State) (id : Nat) : Option Rsh := s.e.rsh.find? fun r => decide (r.id = id)
/-- Change one command. -/
def State.modRsh (s : State) (id : Nat) (f : Rsh → Rsh) : State :=
  { s with e.rsh := s.e.rsh.map fun r => if r.id = id then f r else r }
/-- ASID of a command. -/
def State.rshAsid (s : State) (r : Rsh) : Nat := (s.launch r.team).asid
/-- The agent of a command's accesses (R287, R439). -/
def State.rshAgent (s : State) (r : Rsh) : Agent :=
  { team := some r.team, engine := some (.reshard r.id), core := some r.core, asid := s.rshAsid r }
/-- Chain tag of a command's accesses (R378). -/
def State.rshChain (s : State) (r : Rsh) : Option (Nat × Nat) := some (r.die, (s.launch r.team).chain)

/-- Translate an address for a command; window addresses do not translate. -/
def State.rshSeek (s : State) (r : Rsh) (va : Nat) (write : Bool) : Option Leaf :=
  if 2 ^ 56 ≤ va then none
  else match s.seek r.core (s.rshAsid r) va 0 write with
    | .inl lf => some lf
    | .inr _ => none

/-- 32-bit words from an address, each read at its home under the key of its page (R381); none when one does not translate. -/
def State.rshWords (s : State) (r : Rsh) (va : Nat) : Nat → Option (List Word)
  | 0 => some []
  | n + 1 =>
    match s.rshSeek r va false with
    | none => none
    | some lf => (s.rshWords r (va + 4) n).map fun ws => BitVec.ofNat 32 (s.peek lf va 4) :: ws

/-- The engine's read of a line touches it at its home (R257, R288, R377, R378, R381). -/
def State.rshTouch (s : State) (r : Rsh) (va : Nat) : State :=
  match s.rshSeek r va false with
  | some lf => s.engineTouch (s.rshAgent r) r.core (s.rshChain r) lf va false
  | none => s

/-- A word of the record of a command, read under the key of its page. -/
def State.recWordAt (s : State) (r : Rsh) (i : Nat) : Nat := s.peek r.page (r.recVa + 4 * i) 4

/-- A descriptor, a rank table or a record cannot be read without poison (R177, R376, R391). -/
def State.rshPoison (s : State) (r : Rsh) (va n : Nat) : Bool :=
  (linesOf ((List.range n).map (va + ·))).any fun a => match s.rshSeek r a false with
    | some lf => s.badRead lf (max a va) (min (a + 128) (va + n) - max a va)
    | none => false

/-- The engine writes a word of the record (R441), performed at device scope. -/
def State.setRec (s : State) (r : Rsh) (i v : Nat) : State :=
  let va := r.recVa + 4 * i
  let loc := s.locOf r.page (r.page.pa va)
  let t := s.engineTouch (s.rshAgent r) r.core (s.rshChain r) r.page va true
  t.homeWrite r.page (r.page.pa va) loc v 4 false

/-- Words 0 to 3 of the record (R441). -/
def State.writeProgress (s : State) (r : Rsh) : State :=
  ((((s.setRec r 0 r.step).setRec r 1 r.steps).setRec r 2 (r.bytes % 2 ^ 32)).setRec r 3 (r.bytes / 2 ^ 32)).modRsh r.id
    fun x => { x with lastWrite := s.u.clk }

/-- The code a command ends with: what stopped it, POISON, or OK (R445). -/
def Rsh.code (r : Rsh) : Nat := r.stop.getD (if r.poison then 3 else 0)

/-- The status word of a command (R441), ended or active. -/
def State.rshStatus (s : State) (r : Rsh) (active : Bool) : Word :=
  let own := s.e.tens.find? fun h => decide (h.holder = .reshard r.id)
  let b := (own.map (·.brch)).getD false
  let n := (own.map (·.lines.length)).getD 0
  BitVec.ofNat 32 ((if active then 2 ^ 28 else 2 ^ 31) + (if b then 2 ^ 30 else 0) + (if r.resumed then 2 ^ 29 else 0) +
    min n 4095 * 2 ^ 16 + r.code % 16)

/-! ### RSHARD (R442, R443) -/

/-- RSHARD: the unit issues while its die's engine holds fewer than 16 commands, and waits for acceptance. -/
def meanRshard (o : OpX) (s : State) : Meaning :=
  Meaning.mk
    { major := 0x1E, legal := s.copyModp && regEven o.sa.toNat && regEven o.sb.toNat, cover := false
      dests := match s.copyVs with | some v => [(v, 1)] | none => []
      ready := decide ((s.e.rsh.filter fun r => decide (r.die = s.coreOf s.gid / 192)).length < 16) }
    (fun t =>
      let r : Rsh :=
        { id := t.u.uid, sid := t.u.iss.sid, team := t.u.iss.team, group := t.u.iss.group, core := t.coreOf t.gid
          seq := t.u.seqNo, sd := o.sd.toNat, srcVa := t.leadAddr o.sa.toNat, dstVa := t.leadAddr o.sb.toNat
          vs := t.copyVs, slanes := if t.copyVs.isSome then t.elanes else [] }
      let u : State := match r.vs with
        | some v => t.elanes.foldl (fun (u : State) l => u.setEmpty (t.lane l) v true) t
        | none => t
      let u : State := { u with e.rsh := u.e.rsh ++ [r], u.uid := u.u.uid + 1 }
      .ok (u.modSplit r.sid fun p => { p with park := .rshard r.id }))
/-- RSHARD: its issue unit, run. -/
def execRshard (o : OpX) (s : State) : Host.Outcome State Fault Refusal := (meanRshard o s).run s

/-- Words of the rank table that the engine reads: those of 512 ranks at most, which a valid pair does not exceed (R434, R435). -/
def Shard.tableWords (d : Shard) : Nat := 2 * min d.ranks 512

/-- The acceptance code, and the command as accepted with its record's page (R443): translation comes first, also of the rank table
of a pair that is not valid; poison in what is read is a bad descriptor (log entry 82). -/
def State.acceptance (s : State) (r : Rsh) : Nat × Rsh :=
  match s.rshWords r r.srcVa 16, s.rshWords r r.dstVa 16 with
  | some sw, some dw =>
    let a := Shard.ofWords sw
    let b := Shard.ofWords dw
    let ok := pairValid sw dw
    let page := if b.ptr < 2 ^ 56 then s.translate r.core (s.rshAsid r) b.ptr 0 else none
    let table := s.rshWords r a.ptr a.tableWords
    match page, table with
    | some lf, some tw =>
      let bases := (List.range a.ranks).map fun i => (tw.getD (2 * i) 0).toNat + 2 ^ 32 * (tw.getD (2 * i + 1) 0).toNat
      let own := lf.w && !lf.df && !lf.ut && decide (s.modeOf lf = 0) && !inHost lf.frame
      let plan := planOf sw dw bases
      let x : Rsh := { r with
        recVa := b.ptr, page := lf, handle := b.handle, words := sw ++ dw, table := bases
        crc := crc32c ((sw ++ dw).map (·.toNat)), steps := plan.length }
      let bad := s.rshPoison r r.srcVa 64 || s.rshPoison r r.dstVa 64 || s.rshPoison r a.ptr (4 * a.tableWords) ||
        s.rshPoison r b.ptr 64
      if !ok ∨ bad ∨ r.srcVa % 64 ≠ 0 ∨ r.dstVa % 64 ≠ 0 ∨ b.ptr % 64 ≠ 0 ∨ !own then (2, r)
      else
        let tile := s.tileOf b.handle
        let mine : Layout := { b.lay with ext := ([0, 1, 2, 3] : List Nat).map fun i =>
          let q := b.block b.rank i
          q.2 - q.1 }
        let none_ := mine.ext.any (· = 0)
        if s.handleCode (s.rshAsid r) b.handle ≠ 0 ∨
            (!none_ && decide (mine.base < tile.layout.base ∨ tile.layout.top < mine.top)) then (3, r)
        else
          match s.mine tile r.team with
          | some h => if !h.write then (4, r) else if bit (s.recWordAt x 4) 28 then (5, r) else (0, { x with own := false })
          | none => if bit (s.recWordAt x 4) 28 then (5, r) else (0, { x with own := true })
    | _, _ => (1, r)
  | _, _ => (1, r)

/-- The acceptance code is written to Sd in every slice of the split, which waits no more. -/
def State.rshAnswer (s : State) (r : Rsh) (code : Nat) : State :=
  match s.split? r.sid with
  | none => s
  | some p =>
    let t := p.slices.foldl (fun t c => t.setS ⟨p.team, p.group, c⟩ r.sd (BitVec.ofNat 32 code)) s
    t.modSplit r.sid fun x => { x with park := .run }

/-- The status register of a command becomes full, with a value if one is given. -/
def State.rshDeliver (s : State) (r : Rsh) (w : Option Word) : State :=
  match r.vs with
  | none => s
  | some v => r.slanes.foldl (fun (t : State) l =>
      match w with
      | some w => t.setV ⟨r.team, r.group, l⟩ v w
      | none => t.setEmpty ⟨r.team, r.group, l⟩ v false) s

/-- Up to four commands of a die run at once, in acceptance order (R443). -/
def State.rshPromote (s : State) (die : Nat) : State :=
  let mine := s.e.rsh.filter fun r => decide (r.die = die)
  if 4 ≤ (mine.filter fun r => decide (r.phase = .running)).length then s
  else match mine.find? fun r => decide (r.phase = .queued) with
    | some r => s.modRsh r.id fun x => { x with phase := .running }
    | none => s

/-- Forget a command, and give up the tenure it took or asked for (R439, R446). -/
def State.dropRsh (s : State) (r : Rsh) : State :=
  ({ s with
    e.rsh := s.e.rsh.filter fun x => decide (x.id ≠ r.id)
    e.tens := s.e.tens.filter fun h => decide (h.holder ≠ .reshard r.id)
    e.reqs := s.e.reqs.filter fun h => decide (h.holder ≠ .reshard r.id) } : State).rshPromote r.die

/-- The record says that the same command has ended with OK (R444). -/
def State.rshDone (s : State) (r : Rsh) : Bool :=
  let w4 := s.recWordAt r 4
  decide (s.recWordAt r 5 = r.crc) && bit w4 31 && decide (w4 % 16 = 0)

/-- An accepted command begins (R444): it ends at once, resumes or starts afresh; a tenure of its own joins the
arrival order (R439). -/
def State.rshBegin (s : State) (r : Rsh) : State :=
  let w := s.recWordAt r
  if s.rshDone r then
    (((s.setRec r 4 (w 4)).rshAnswer r 0).rshDeliver r (some (BitVec.ofNat 32 (w 4)))).dropRsh r
  else
    let again := decide (w 5 = r.crc ∧ w 1 = r.steps)
    let x : Rsh := { r with
      phase := .queued, step := if again then w 0 else 0, bytes := if again then w 2 + 2 ^ 32 * w 3 else 0
      resumed := again, lastWrite := s.u.clk }
    let tile := s.tileOf r.handle
    let ask : List Tenure :=
      if r.own then [{ holder := .reshard r.id, team := r.team, write := true, tile := some tile.key, foot := tile.foot
                       since := s.u.clk }]
      else []
    let t : State := { s with
      e.rsh := (s.e.rsh.filter fun y => decide (y.id ≠ r.id)) ++ [x]
      e.reqs := s.e.reqs ++ ask }
    ((((t.setRec x 4 (w 4 ||| 2 ^ 28)).writeProgress x).rshAnswer x 0).rshPromote x.die)

/-- What the engine reads at acceptance is touched: descriptors, rank table and record (R257, R377, R378). -/
def State.rshReads (s : State) (r : Rsh) : State :=
  let lines := match s.rshWords r r.srcVa 16, s.rshWords r r.dstVa 16 with
    | some sw, some dw =>
      let a := Shard.ofWords sw
      linesOf ((List.range (4 * a.tableWords)).map (a.ptr + ·)) ++ [(Shard.ofWords dw).ptr]
    | _, _ => []
  ([r.srcVa, r.dstVa] ++ lines).foldl (fun (t : State) va => t.rshTouch r va) s

/-- What a round put before the command is performed before the engine reads anything for it (R323, R330, R345, R452). -/
def State.rshBehind (s : State) (r : Rsh) : Bool := s.k.acc.all fun a => !s.beforeRound a r.team r.seq

/-- RESHARD_ACCEPT (R443, R444). -/
def execReshardAccept (s : State) : Host.Outcome State Fault Refusal :=
  match s.rsh? s.u.ev.id with
  | none => .next s
  | some r =>
    if r.phase ≠ .asked then .next s
    else if (s.split? r.sid).isNone then .next (s.dropRsh r)
    else if !s.rshBehind r then .next s
    else
      let t := s.rshReads r
      let a := t.acceptance r
      if a.1 = 0 then .next (t.rshBegin a.2)
      else .next (((t.rshAnswer r a.1).rshDeliver r none).dropRsh r)

/-! ### Steps (R438, R445) -/

/-- The error that a step meets, 0 for none: PAGE 2, FABRIC 4, DEFERRED 5. -/
def State.stepCode (s : State) (r : Rsh) (m : RowMove) : Nat :=
  let src : Nat → Nat := fun va => match s.rshSeek r va false with
    | none => 2
    | some lf => if lf.df then 5 else if s.reachable (s.devOf lf) then 0 else 4
  let dst : Nat → Nat := fun va => match s.rshSeek r va true with
    | none => 2
    | some lf => if lf.df then 5 else if s.modeOf lf ≠ 0 then 2 else 0
  ((rowBytes m).findSome? fun b =>
    if src b.2 ≠ 0 then some (src b.2) else if dst b.1 ≠ 0 then some (dst b.1) else none).getD 0

/-- The destination lines of a row, with their leaves. -/
def State.rshTargets (s : State) (r : Rsh) (m : RowMove) : List (Leaf × Nat) :=
  (linesOf ((rowBytes m).map (·.1))).filterMap fun va => (s.rshSeek r va true).map fun lf => (lf, va)

/-- The writes of other holders that recall a destination line are performed (R287). -/
def State.rshMayWrite (s : State) (r : Rsh) (m : RowMove) : Bool :=
  (s.rshTargets r m).all fun x => s.recallClear (s.rshAgent r) x.1 x.2 true

/-- A source byte that cannot be read without poison: the leaf of its page; with the event's value 1 reads of host memory end in an
error (R376, R391, R445). -/
def State.rshBad (s : State) (r : Rsh) (va : Nat) : Option Leaf :=
  (s.rshSeek r va false).filter fun lf =>
    s.poisoned (s.locOf lf (lf.pa va)) 1 || s.retiredAt lf (lf.pa va) || (inHost (lf.pa va) && decide (s.u.ev.value = 1))

/-- Move one byte of a row: poisoned source bytes poison the destination (R445). -/
def State.rshByte (s : State) (r : Rsh) (b : Nat × Nat) : State :=
  match s.rshSeek r b.2 false, s.rshSeek r b.1 true with
  | some a, some d =>
    let t := s.engineTouch (s.rshAgent r) r.core (s.rshChain r) a b.2 false
    let bad := (s.rshBad r b.2).isSome
    let v := t.load (t.locOf a (a.pa b.2)) 1
    let t := t.engineTouch (s.rshAgent r) r.core (s.rshChain r) d b.1 true
    let t := if t.retiredAt d (d.pa b.1) then t
      else t.engineByte r.team r.core (t.locOf d (d.pa b.1), some d) (d.pa b.1) v bad
    if bad then t.modRsh r.id fun x => { x with poison := true } else t
  | _, _ => s

/-- Move a row; one that meets poison is one poison event (R400). -/
def State.rshRow (s : State) (r : Rsh) (m : RowMove) : State :=
  let t := match (rowBytes m).findSome? fun b => (s.rshBad r b.2).map fun lf => (lf, b.2) with
    | some x => s.poisonEvent (some x.1) (x.1.pa x.2) r.die
    | none => s
  (rowBytes m).foldl (fun (t : State) b => t.rshByte r b) t

/-- A row is read from another module (R428, R445). -/
def State.rshAway (s : State) (r : Rsh) (m : RowMove) : Bool :=
  (rowBytes m).any fun b => match s.rshSeek r b.2 false with
    | some lf => decide (s.modeOf lf ≠ 0)
    | none => false

/-- A complete prefix of the plan advances STEP and BYTES (R441). -/
def Rsh.settle (r : Rsh) (plan : List RowMove) : Nat → Rsh
  | 0 => r
  | n + 1 =>
    if r.step ∈ r.complete then
      Rsh.settle { r with
        complete := r.complete.filter (· ≠ r.step), bytes := r.bytes + ((plan[r.step]?).map (·.2.2)).getD 0
        step := r.step + 1 } plan n
    else r

/-- The engine may start steps of a command: it runs, nothing stops it, and its tenure is granted (R438, R439, R444). -/
def State.rshGoes (s : State) (r : Rsh) : Bool :=
  decide (r.phase = .running ∧ r.stop = none) &&
    (!r.own || s.e.tens.any fun h => decide (h.holder = .reshard r.id))

/-- A step that is still to be started. -/
def Rsh.todo (r : Rsh) (k : Nat) : Bool :=
  decide (r.step ≤ k ∧ k < r.steps ∧ k ∉ r.complete) && r.started.all fun x => decide (x.1 ≠ k)

/-- The tenure under which a command writes: its own, or its team's (R439). -/
def Rsh.holding (r : Rsh) : Holding := if r.own then .reshard r.id else .team r.team

/-- The steps that held accesses wait for: of lanes, of peers, and those called for by a host, a controller, an instruction or an
engine (R439, R440). -/
def State.rshRecalled (s : State) (r : Rsh) : List Nat :=
  ((s.k.acc.filter fun a => decide (a.phase = .recalled ∧ r.holding ∈ a.holders)).map (·.pa) ++
    (s.f.peerHeld.filter fun q => decide (r.holding ∈ q.holders)).map (·.pa) ++ s.e.calls).flatMap fun pa => s.rshSteps r pa

/-- Steps that a die's engine has in flight (R438). -/
def State.rshFlying (s : State) (die : Nat) : Nat :=
  ((s.e.rsh.filter fun r => decide (r.die = die)).map fun r => r.started.length).sum

/-- A step may start: it is still to be started, and no other such step goes ahead of it for a recall (R440). -/
def State.rshMayStart (s : State) (r : Rsh) (k : Nat) : Bool :=
  let first := (s.rshRecalled r).filter r.todo
  r.todo k && (first.isEmpty || decide (k ∈ first))

/-- RESHARD_STEP_COMPLETE (R438): step `n` of a command is complete; with the event's flag it starts, at most 64 being
in flight on the die's engine. A step that meets an error stops the command (R445). -/
def execReshardStepComplete (s : State) : Host.Outcome State Fault Refusal :=
  let k := s.u.ev.n
  match s.rsh? s.u.ev.id with
  | none => .next s
  | some r =>
    if s.u.ev.flag then
      if s.rshGoes r && s.rshMayStart r k && decide (s.rshFlying r.die < 64) then
        .next (s.modRsh r.id fun x => { x with started := x.started ++ [(k, s.u.clk)] })
      else .next s
    else
      match r.plan[k]?, r.started.find? fun x => decide (x.1 = k) with
      | some m, some e =>
        let gone := fun (t : State) => t.modRsh r.id fun x => { x with started := x.started.erase e }
        let c := s.stepCode r m
        if c ≠ 0 then .next ((gone s).modRsh r.id fun x => { x with stop := some (x.stop.getD c) })
        else if !s.rshMayWrite r m then
          .next ((s.rshTargets r m).foldl (fun (t : State) x => t.callLine (s.rshAgent r) x.1 x.2 true) s)
        else
          .next ((gone (s.rshRow r m)).modRsh r.id fun x =>
            Rsh.settle { x with complete := x.complete ++ [k] } r.plan (x.complete.length + 1))
      | _, _ => .next s

/-- PROGRESS_WRITE (R441). -/
def execProgressWrite (s : State) : Host.Outcome State Fault Refusal :=
  match s.rsh? s.u.ev.id with
  | some r => if r.phase = .asked then .next s else .next (s.writeProgress r)
  | none => .next s

/-! ### The end of a command (R444, R446) -/

/-- The grid of a command has been aborted. -/
def State.rshAborted (s : State) (r : Rsh) : Bool := (s.grid (s.team r.team).grid).aborted || (s.team? r.team).isNone

/-- RESHARD_STOP (R444): a save or an abort stops a command; with the event's flag the read of started step `n` from another module
has met the delivery limit (R428). -/
def execReshardStop (s : State) : Host.Outcome State Fault Refusal :=
  match s.rsh? s.u.ev.id with
  | none => .next s
  | some r =>
    if r.phase = .asked then .next s
    else if s.u.ev.flag then
      match r.started.find? fun x => decide (x.1 = s.u.ev.n) with
      | some e =>
        if e.2 + 2 ^ 24 ≤ s.u.clk && (r.plan[e.1]?).any (s.rshAway r) then
          .next (s.modRsh r.id fun x => { x with started := x.started.erase e, stop := some (x.stop.getD 4) })
        else .next s
      | none => .next s
    else if s.rshAborted r ∨ (s.team r.team).status = .saving then
      .next (s.modRsh r.id fun x => { x with stop := some (x.stop.getD 1) })
    else .next s

/-- RESHARD_END (R446): with no step in flight, a command that is through or stopped writes its record, delivers its
status unless its grid was aborted, and releases its tenure. -/
def execReshardEnd (s : State) : Host.Outcome State Fault Refusal :=
  match s.rsh? s.u.ev.id with
  | none => .next s
  | some r =>
    let through := decide (r.phase = .running ∧ r.steps ≤ r.step)
    if r.phase = .asked ∨ r.started ≠ [] ∨ ¬ (through ∨ r.stop.isSome) then .next s
    else
      let w := s.rshStatus r false
      let t := ((((s.writeProgress r).setRec r 4 w.toNat).setRec r 5 r.crc).setRec r 6 (s.f.dev % 512 + r.die * 512)).setRec r 7 0
      let t := if s.rshAborted r then t else t.rshDeliver r (some w)
      .next (t.dropRsh r)

/-! ### RSPOLL (R448) -/

/-- The command that owns the record at a location. -/
def State.rshOwner (s : State) (loc : Nat) : Option Rsh :=
  s.e.rsh.find? fun r => decide (r.phase ≠ .asked ∧ s.locOf r.page (r.page.pa r.recVa) = loc)

/-- RSPOLL (R448, R449): a read of its own waits for a recall as any other does, and calls for the line (R287, R440); poison in it is a
fault of the unit (R177; log entry 82). -/
def meanRspoll (o : OpX1) (s : State) : Meaning :=
  Meaning.mk (s.useFabric (regEven o.sa.toNat && regEven o.sd.toNat))
    (fun t =>
      let va := t.leadAddr o.sa.toNat
      let core := t.coreOf t.gid
      let put := fun (u : State) (a b : Word) => Res.ok ((u.setSAll o.sd.toNat a).setSAll (o.sd.toNat + 1) b)
      let at_ := fun (a : Nat) => if a < 2 ^ 56 then match t.seek core t.asid a 0 false with
        | .inl lf => some lf
        | .inr _ => none
        else none
      match at_ va, at_ (va + 16) with
      | some lf, some lg =>
        match t.rshOwner (t.locOf lf (lf.pa va)) with
        | some r => put t (BitVec.ofNat 32 r.step) (t.rshStatus r true)
        | none =>
          let ag : Agent := { team := some t.u.iss.team, core := some core, asid := t.asid }
          let chain := t.chainOf (t.lane 0)
          let bad := if t.badRead lf va 4 then some (lf, va) else if t.badRead lg (va + 16) 4 then some (lg, va + 16) else none
          if !(t.recallClear ag lf va false && t.recallClear ag lg (va + 16) false) then
            .hold fun u => (u.callLine ag lf va false).callLine ag lg (va + 16) false
          else
          let u := (t.engineTouch ag core chain lf va false).engineTouch ag core chain lg (va + 16) false
          match bad with
          | some x => .fail (fun u => u.poisonEvent (some x.1) (x.1.pa x.2) (core / 192)) { code := POISON, addr := x.2 }
          | none =>
            put u (BitVec.ofNat 32 (u.load (u.locOf lf (lf.pa va)) 4))
              (BitVec.ofNat 32 (u.load (u.locOf lg (lg.pa (va + 16))) 4))
      | _, _ => put t 0 2)
/-- RSPOLL: its issue unit, run. -/
def execRspoll (o : OpX1) (s : State) : Host.Outcome State Fault Refusal := (meanRspoll o s).run s

end Sys2Proof.Machine
end

