-- ==== Sys2Proof/Machine/Resume.lean ====
section
/-! DEFINITION. Replayable faults and translations (R176, R217, R360, R362, R363): the events FAULT_QUEUE_WRITE,
RESUME_REPLAY, RESUME_CANCEL, RESUME_UNITPC, RESUME_NEXT, RESUME_ABORT and PAGE_WALK. -/

namespace Sys2Proof.Machine

/-! ### The fault queue (R362, R386) -/

/-- Slots of a die's fault queue. -/
def State.fqSlots (s : State) (die : Nat) : Nat := 2 ^ ((s.dieReg die 0xC8).toNat % 32)

/-- Physical address of a slot. -/
def State.fqPa (s : State) (die slot : Nat) : Nat := (s.dieReg die 0xC7).toNat % 2 ^ 28 * 2 ^ 12 + 64 * slot

/-- Location of a slot. -/
def State.fqLoc (s : State) (die slot : Nat) : Nat := s.locPhys (s.fqPa die slot)

/-- The ring has no free slot. -/
def State.fqFull (s : State) (die : Nat) : Bool :=
  decide (s.fqSlots die ≤ ((s.dieReg die 0xC9) - (s.dieReg die 0xCA)).toNat)

/-- FAULT_QUEUE_WRITE (R362): a die's oldest record that has no slot is written; with the ring full a record waits with
its split still held, and a report is dropped and counted. -/
def execFaultQueueWrite (s : State) : Host.Outcome State Fault Refusal :=
  let die := s.u.ev.id
  let mine := fun (r : FqRec) => decide (r.die = die ∧ r.slot = none)
  if s.fqFull die then
    match s.d.fq.find? fun r => mine r && decide (r.kind = .report) with
    | none => .next s
    | some r => .next (({ s with d.fq := s.d.fq.erase r } : State).setDieReg die 0xC4 (bumpSat (s.dieReg die 0xC4)))
  else
    match s.d.fq.find? mine with
    | none => .next s
    | some r =>
      let n := (s.dieReg die 0xC9).toNat
      let t := (s.storeWords (s.fqPa die (n % s.fqSlots die)) r.words).setDieReg die 0xC9 (BitVec.ofNat 32 (n + 1))
      let rest := (t.d.fq.erase r).filter fun x =>
        !(x.done && decide (x.die = die ∧ x.slot.map (· % s.fqSlots die) = some (n % s.fqSlots die)))
      .next { t with d.fq := if r.kind = .report then rest else rest ++ [{ r with slot := some n }] }

/-! ### Held accesses -/

/-- A held access is cancelled: its destination is full with its contents unchanged, its counter falls (R176). -/
def State.cancelAccess (s : State) (a : Access) : State :=
  let t := (s.finish a).fillOnly a
  let t := t.dropRun a
  if a.kind = .mscale then t.modGrp a.lane.group fun g => { g with mscBusy := g.mscBusy - 1 } else t

/-! ### RESUME (R363) -/

/-- The 64-bit value in two words of a record. -/
def FqRec.pair (r : FqRec) (i : Nat) : Nat := (r.words.getD i 0).toNat + 2 ^ 32 * (r.words.getD (i + 1) 0).toNat

/-- A record is resolved: only an abort may still name it (R363). -/
def State.resolve (s : State) (r : FqRec) : State :=
  { s with d.fq := s.d.fq.map fun x =>
      if x = r then { x with done := true, grid := (s.team (s.split r.sid).team).grid } else x }

/-- An action for a record that has been resolved: an abort aborts its grid if that still runs; a replay or cancel of held
accesses does nothing, and another action does not fit (R363). -/
def State.resumeDone (s : State) (q action : Nat) (r : FqRec) : State :=
  if action = 4 then
    (match s.grid? r.grid with
     | some g => if g.aborted || g.retired then s else s.abortGrid r.grid r.words
     | none => s).advance q
  else if r.kind = .held ∧ action < 2 then s.advance q
  else s.queueFail q TASK 4 0

/-- A RESUME command with action `act`: `fits` says whether the action fits a record, `act` acts on it. The record is the one
that the slot holds now, by the TIME that the command names (R363). -/
def State.resume (s : State) (q action : Nat) (fits : State → FqRec → Bool) (act : State → FqRec → State) : State :=
  s.beginHead q (fun op ws => decide (op = 5 ∧ ws.getD 4 0 = action)) fun t ws =>
    let die := q / 8192
    let slot := ws.getD 2 0
    let misfit := t.queueFail q TASK 4 0
    if t.fqSlots die ≤ slot then misfit
    else
      let a := t.fqLoc die slot
      let t := t.physTouch (t.fqPa die slot) false
      if t.load (a + 56) 4 ≠ ws.getD 3 0 then t.advance q
      else
        match t.d.fq.reverse.find? fun r => decide (r.die = die ∧ r.slot.map (· % t.fqSlots die) = some slot) &&
          decide ((r.words.getD 14 0).toNat = ws.getD 3 0) with
        | some r =>
          if r.done then t.resumeDone q action r
          else if fits t r then (act (t.resolve r) r).advance q else misfit
        | none => if bit (t.load a 4) 29 ∧ (action < 2 ∨ action = 4) then t.advance q else misfit

/-- The record is one of held accesses. -/
def FqRec.held (r : FqRec) : Bool := decide (r.kind = .held)

/-- RESUME_REPLAY (R176, R363): the held accesses of the record are performed; while the team is saved they wait for its
restore. A fetch fault is fetched again. -/
def execResumeReplay (s : State) : Host.Outcome State Fault Refusal :=
  .next (s.resume s.u.ev.id 0 (fun _ r => r.held) fun t r =>
    if r.seq = 0 then t.modSplit r.sid fun p => { p with park := .run }
    else
      let u : State := { t with k.acc := t.k.acc.map fun a =>
        if a.seq = r.seq ∧ a.phase = .held r.code ∧ a.lane.l ∈ r.lanes then { a with phase := .held 0 } else a }
      if (u.team (u.split r.sid).team).status = .saved then u else u.replayHeld r.sid r.seq)

/-- RESUME_CANCEL (R176, R363): every lane of the unit still held is cancelled, and the fault goes to the policy. -/
def execResumeCancel (s : State) : Host.Outcome State Fault Refusal :=
  .next (s.resume s.u.ev.id 1 (fun _ r => r.held) fun t r =>
    let p := t.split r.sid
    let as := if r.seq = 0 then [] else t.k.acc.filter fun a => decide (a.seq = r.seq) && a.isHeld
    let u := as.foldl (fun (u : State) a => u.cancelAccess a) t
    let u := u.modSplit r.sid fun x => { x with park := .run }
    u.takeFault r.sid
      { code := r.code, lanes := some r.lanes, addr := r.pair 9, info := (r.words.getD 11 0).toNat
        unitPc := BitVec.ofNat 56 (r.pair 3), wordPc := some (BitVec.ofNat 56 (r.pair 5)), replayable := true } p.pc)

/-- The split of a record stopped under REPLAY. -/
def State.replayed (s : State) (r : FqRec) : Bool :=
  decide (r.kind = .replay) && match (s.split r.sid).park with
    | .replay _ _ => true
    | _ => false

/-- RESUME_UNITPC (R363): the split resumes at UNITPC. -/
def execResumeUnitpc (s : State) : Host.Outcome State Fault Refusal :=
  .next (s.resume s.u.ev.id 2 State.replayed fun t r => t.modSplit r.sid fun p =>
    match p.park with
    | .replay u _ => { p with pc := u, park := .run }
    | _ => p)

/-- A fault delivered late (R216). -/
def lateCode (c : Nat) : Bool := decide (c ∈ [RENDEZVOUS, POISON, FABRIC, WATCHDOG])

/-- RESUME_NEXT (R363): the split resumes at the next issue unit, which leaves a block behind by one unit; for a late
fault at the unit at which it stopped. -/
def execResumeNext (s : State) : Host.Outcome State Fault Refusal :=
  .next (s.resume s.u.ev.id 3 State.replayed fun t r => t.modSplit r.sid fun p =>
    match p.park with
    | .replay _ w =>
      if lateCode r.code then { p with pc := w, park := .run }
      else { p with pc := w, park := .run, blkCount := p.blkCount - 1, blkPattern := p.blkPattern >>> 1 }
    | _ => p)

/-- RESUME_ABORT (R363): the grid is aborted; actions 5 to 7 set ERROR. -/
def execResumeAbort (s : State) : Host.Outcome State Fault Refusal :=
  let q := s.u.ev.id
  match s.headOf q with
  | .cmd 5 ws =>
    let k := ws.getD 4 0
    if 5 ≤ k then .next (s.resume q k (fun _ _ => false) fun t _ => t)
    else
      .next (s.resume q 4 (fun t r => decide (r.kind ≠ .report) && (t.split? r.sid).isSome) fun t r =>
        t.abortGrid (t.team (t.split r.sid).team).grid r.words)
  | _ => .next s

/-! ### Translations (R360) -/

/-- Entries that a TLB holds. -/
def TlbAt.size : TlbAt → Nat
  | .core _ => 64
  | .cluster _ => 2048
  | .die _ => 16384

/-- The entry of its TLB that a translation stands in: a last-level entry holds an aligned 32 MiB block of them (R360). -/
def TlbEntry.entry (t : TlbEntry) : Nat × Nat :=
  match t.at_ with
  | .die _ => (t.asid, t.leaf.va / 2 ^ 25)
  | _ => (t.asid, t.leaf.va)

/-- Put a translation into a TLB; a full one loses its oldest entry (log entry 8). -/
def State.addTlb (s : State) (at_ : TlbAt) (asid : Nat) (lf : Leaf) : State :=
  let e : TlbEntry := { at_ := at_, asid := asid, leaf := lf }
  let rest := s.k.tlb.filter fun t => !decide (t.at_ = at_ ∧ t.asid = asid ∧ t.leaf.va = lf.va)
  let mine := ((rest.filter fun t => decide (t.at_ = at_)).map (·.entry)).eraseDups
  let rest := if e.entry ∈ mine ∨ mine.length < at_.size then rest else match mine with
    | x :: _ => rest.filter fun t => !decide (t.at_ = at_ ∧ t.entry = x)
    | [] => rest
  { s with k.tlb := rest ++ [e] }

/-- PAGE_WALK (R359, R360): a walk for a core completes and fills the TLBs on its way; a walk that faults fills none. -/
def execPageWalk (s : State) : Host.Outcome State Fault Refusal :=
  match s.u.ev.list with
  | [core, asid, va] =>
    let t := s.walkAll (core / 192) asid va
    match s.walk (core / 192) asid va with
    | some lf => .next (((t.addTlb (.core core) asid lf).addTlb (.cluster (core / 8)) asid lf).addTlb (.die (core / 192)) asid lf)
    | none => .next t
  | _ => .next s

end Sys2Proof.Machine
end

