-- ==== Sys2Proof/Machine/Short.lean ====
section
/-! DEFINITION. The sixteen 16-bit instructions (R46 to R48): each has the effect of its 32-bit equivalent on vd and
va, without prefixes; ta applies to every register it reads. -/

namespace Sys2Proof.Machine

/-- The 32-bit operands of a two-address form. -/
def wideOf (o : Op16) : OpA :=
  { tb := o.ta, ta := o.ta, vb := o.va.setWidth 7, va := o.vd.setWidth 7, vd := o.vd.setWidth 7 }

/-- A prefix before a 16-bit instruction raises ILLEGAL_OP (R48). -/
def Use.short (u : Use) (s : State) : Use := { u with legal := u.legal && s.bare }

/-- A two-address integer form. -/
def short2 (major : Nat) (o : Op16) (f : Nat → Nat → Nat) (s : State) : Meaning :=
  Meaning.mk ((s.useA major (wideOf o) {}).short s) (fun t => t.deliverA (wideOf o) fun _ a b _ => f a b)

/-- MOV (R48): with vd = va it is a no-op that reads nothing, also where the register is at or above the role's budget (R55, R130;
log entry 78). -/
def meanMov16 (o : Op16) (s : State) : Meaning :=
  if o.vd = o.va then Meaning.mk { major := 0x06, legal := s.bare && !o.ta } (fun t => .ok t)
  else
    let w : OpA1 := { ta := o.ta, va := o.va.setWidth 7, vd := o.vd.setWidth 7 }
    Meaning.mk ((s.useA1 0x06 w {}).short s) (fun t => t.deliverA1 w fun _ a => a)
/-- MOV16: its issue unit, run. -/
def execMov16 (o : Op16) (s : State) : Host.Outcome State Fault Refusal := (meanMov16 o s).run s

/-- IADD (R47). -/
def meanIadd16 (o : Op16) (s : State) : Meaning := short2 0x00 o (fun a b => a + b) s
/-- IADD16: its issue unit, run. -/
def execIadd16 (o : Op16) (s : State) : Host.Outcome State Fault Refusal := (meanIadd16 o s).run s
/-- ISUB (R47). -/
def meanIsub16 (o : Op16) (s : State) : Meaning :=
  short2 0x00 o (fun a b => a + (2 ^ 32 - b)) s
/-- ISUB16: its issue unit, run. -/
def execIsub16 (o : Op16) (s : State) : Host.Outcome State Fault Refusal := (meanIsub16 o s).run s
/-- AND (R47). -/
def meanAnd16 (o : Op16) (s : State) : Meaning := short2 0x02 o (fun a b => a &&& b) s
/-- AND16: its issue unit, run. -/
def execAnd16 (o : Op16) (s : State) : Host.Outcome State Fault Refusal := (meanAnd16 o s).run s
/-- OR (R47). -/
def meanOr16 (o : Op16) (s : State) : Meaning := short2 0x02 o (fun a b => a ||| b) s
/-- OR16: its issue unit, run. -/
def execOr16 (o : Op16) (s : State) : Host.Outcome State Fault Refusal := (meanOr16 o s).run s
/-- XOR (R47). -/
def meanXor16 (o : Op16) (s : State) : Meaning := short2 0x02 o (fun a b => a ^^^ b) s
/-- XOR16: its issue unit, run. -/
def execXor16 (o : Op16) (s : State) : Host.Outcome State Fault Refusal := (meanXor16 o s).run s
/-- IMUL (R47). -/
def meanImul16 (o : Op16) (s : State) : Meaning := short2 0x01 o (fun a b => a * b) s
/-- IMUL16: its issue unit, run. -/
def execImul16 (o : Op16) (s : State) : Host.Outcome State Fault Refusal := (meanImul16 o s).run s

/-- SHL (R47). -/
def meanShl16 (o : Op16) (s : State) : Meaning :=
  Meaning.mk ((s.useShift (wideOf o)).short s) (fun t => t.deliverShift (wideOf o) shlBits)
/-- SHL16: its issue unit, run. -/
def execShl16 (o : Op16) (s : State) : Host.Outcome State Fault Refusal := (meanShl16 o s).run s
/-- SHR (R47). -/
def meanShr16 (o : Op16) (s : State) : Meaning :=
  Meaning.mk ((s.useShift (wideOf o)).short s) (fun t => t.deliverShift (wideOf o) shrBits)
/-- SHR16: its issue unit, run. -/
def execShr16 (o : Op16) (s : State) : Host.Outcome State Fault Refusal := (meanShr16 o s).run s

/-- A two-address FP32 form. -/
def shortF (o : Op16) (f : Fmt → Rnd → Nat → Nat → Nat) (s : State) : Meaning :=
  Meaning.mk ((s.useA 0x09 (wideOf o) {}).short s) (fun t => t.deliverF (wideOf o) fun g r a b _ => f g r a b)

/-- FADD (R47). -/
def meanFadd16 (o : Op16) (s : State) : Meaning :=
  shortF o (fun f r a b => roundSum f r [f.value a, f.value b]) s
/-- FADD16: its issue unit, run. -/
def execFadd16 (o : Op16) (s : State) : Host.Outcome State Fault Refusal := (meanFadd16 o s).run s
/-- FSUB (R47). -/
def meanFsub16 (o : Op16) (s : State) : Meaning :=
  shortF o (fun f r a b => roundSum f r [f.value a, (f.value b).negate]) s
/-- FSUB16: its issue unit, run. -/
def execFsub16 (o : Op16) (s : State) : Host.Outcome State Fault Refusal := (meanFsub16 o s).run s
/-- FMUL (R47). -/
def meanFmul16 (o : Op16) (s : State) : Meaning :=
  shortF o (fun f r a b => roundTo f r (f.prod a b)) s
/-- FMUL16: its issue unit, run. -/
def execFmul16 (o : Op16) (s : State) : Host.Outcome State Fault Refusal := (meanFmul16 o s).run s
/-- FMAX (R47). -/
def meanFmax16 (o : Op16) (s : State) : Meaning :=
  shortF o (fun f _ a b => f.pickNumber true a b) s
/-- FMAX16: its issue unit, run. -/
def execFmax16 (o : Op16) (s : State) : Host.Outcome State Fault Refusal := (meanFmax16 o s).run s

/-- IADDI (R47): reads vd. -/
def meanIaddi16 (o : Op16I) (s : State) : Meaning :=
  let w : OpA1 := { ta := o.ta, va := o.vd.setWidth 7, vd := o.vd.setWidth 7 }
  Meaning.mk ((s.useA1 0x05 w {}).short s) (fun t => t.deliverA1 w fun _ a => wrap 32 ((a : Int) + o.imm.toInt))
/-- IADDI16: its issue unit, run. -/
def execIaddi16 (o : Op16I) (s : State) : Host.Outcome State Fault Refusal := (meanIaddi16 o s).run s

/-- MOVI (R47): reads nothing. -/
def meanMovi16 (o : Op16M) (s : State) : Meaning :=
  Meaning.mk { major := 0x05, legal := s.bare, dests := [(o.vd.toNat, 1)] }
    (fun t => .ok (t.deliverAll o.vd.toNat 1 fun _ => wrap 32 o.imm.toInt))
/-- MOVI16: its issue unit, run. -/
def execMovi16 (o : Op16M) (s : State) : Host.Outcome State Fault Refusal := (meanMovi16 o s).run s

/-- LD.B32 vd, [va+0], C0 (R47). -/
def shortLoadOp (o : Op16) : MemOp :=
  { kind := .load false, size := 4, va := o.va.toNat, off := 0, ta := o.ta, cnt := some 0, dst := o.vd.toNat, dstN := 1 }

/-- LD (R47); an odd va is illegal (R48). -/
def meanLd16 (o : Op16) (s : State) : Meaning :=
  Meaning.mk ((s.useMem 0x11 (shortLoadOp o) (aligned o.va.toNat 2)).short s) (fun t => t.memBody (shortLoadOp o))
/-- LD16: its issue unit, run. -/
def execLd16 (o : Op16) (s : State) : Host.Outcome State Fault Refusal := (meanLd16 o s).run s

end Sys2Proof.Machine
end

