-- ==== Sys2Proof/Machine/System.lean ====
section
/-! DEFINITION. Major 0x0F SYSTEM but for CACHE: TRAP, BKPT, RTE (R218), SREAD and SWRITE over every system
register (R72, R175), NOP and SLEEP (R174); and the event that writes SYS_RNGSEED (R29). -/

namespace Sys2Proof.Machine

/-- TRAP (R218). -/
def meanTrap (o : OpImm) (s : State) : Meaning :=
  Meaning.mk { major := 0x0F, legal := s.bare, cover := false }
    (fun _ => .trap { code := TRAP, info := o.imm.toNat })
/-- TRAP: its issue unit, run. -/
def execTrap (o : OpImm) (s : State) : Host.Outcome State Fault Refusal := (meanTrap o s).run s

/-- BKPT (R218, R219). -/
def meanBkpt (o : OpImm) (s : State) : Meaning :=
  Meaning.mk { major := 0x0F, legal := s.bare, cover := false }
    (fun _ => .trap { code := BREAKPOINT, info := o.imm.toNat })
/-- BKPT: its issue unit, run. -/
def execBkpt (o : OpImm) (s : State) : Host.Outcome State Fault Refusal := (meanBkpt o s).run s

/-- RTE (R218): legal in handler mode only; an odd resume address raises MISALIGN, with INFO 0 (log entry 64). -/
def meanRte (s : State) : Meaning :=
  Meaning.mk
    { major := 0x0F, cover := false
      legal := s.bare && s.slices.all fun c => (s.slc c).hmode }
    (fun t =>
      match t.cur.slices.filter fun c => (t.epcOf (t.slice c)).getLsbD 0 with
      | [] => .ok (t.returnFromTrap t.cur.sid)
      | c :: cs => .trap
          { code := MISALIGN, addr := (t.epcOf (t.slice c)).toNat,
            lanes := some ((c :: cs).flatMap fun c => t.sliceLanes t.u.iss.team t.u.iss.group c) })
/-- RTE: its issue unit, run. -/
def execRte (s : State) : Host.Outcome State Fault Refusal := (meanRte s).run s

/-- NOP (R174). -/
def meanNop (s : State) : Meaning :=
  Meaning.mk { major := 0x0F, legal := s.bare } (fun t => .ok t)
/-- NOP: its issue unit, run. -/
def execNop (s : State) : Host.Outcome State Fault Refusal := (meanNop s).run s

/-- SLEEP: not ready for imm clk after its issue; SLEEP 0 takes one issue (R174). -/
def meanSleep (o : OpImm) (s : State) : Meaning :=
  Meaning.mk { major := 0x0F, legal := s.u.iss.modp.isNone }
    (fun t =>
      let n := t.immU o.imm
      .ok (if n = 0 then t else t.modSplit t.cur.sid fun p => { p with park := .sleep (t.u.clk + n) }))
/-- SLEEP: its issue unit, run. -/
def execSleep (o : OpImm) (s : State) : Host.Outcome State Fault Refusal := (meanSleep o s).run s

/-! ### System registers (R72, R81) -/

/-- Does a number name a system register (R72)? -/
def sysKnown (n : Nat) : Bool :=
  decide (n ≤ 0x04 ∨ (0x10 ≤ n ∧ n ≤ 0x32) ∨ (0x40 ≤ n ∧ n ≤ 0x45) ∨ (0x80 ≤ n ∧ n ≤ 0x84) ∨
    (0xC0 ≤ n ∧ n ≤ 0xCD) ∨ (0xD0 ≤ n ∧ n ≤ 0xFF))

/-- SYS_SLICEID of a slice (R88). -/
def State.sliceIdReg (s : State) (c : SliceId) : Word :=
  BitVec.ofNat 32 ((s.grp ⟨c.t, c.g⟩).half % 2 * 2 ^ 11 + c.g % 128 * 2 ^ 4 + c.s % 16)

/-- SYS_EBLK of a slice (R217). -/
def Slice.eblk (c : Slice) : Word :=
  BitVec.ofNat 32 ((if c.hmode then 2 ^ 31 else 0) + c.ebCount % 16 * 2 ^ 16 + c.ebPattern.toNat * 2 ^ 8 +
    c.ebMask.toNat)

/-- SYS_DBGCTL of a team (R219). -/
def Team.dbgctl (t : Team) : Word := (if t.teamStop then 2 else 0) + (if t.dbgen then 1 else 0)

/-- The value SREAD finds for a register in a slice (R175). -/
def State.sysRead (s : State) (c : SliceId) (n : Nat) : Word :=
  let x := s.slc c
  let g : GroupId := ⟨c.t, c.g⟩
  let core := s.coreOf g
  if n = 0x00 then x.fpctl
  else if n = 0x01 then x.rngSeed
  else if n = 0x02 then s.sliceIdReg c
  else if n = 0x03 then BitVec.ofNat 32 x.stack.length
  else if n = 0x04 then x.mwTimeout
  else if n < 0x20 then BitVec.ofNat 32 (s.getC c (n - 0x10))
  else if n < 0x30 then x.faultRec.getD (n - 0x20) 0
  else if n = 0x30 then BitVec.ofNat 32 x.epc.toNat
  else if n = 0x31 then BitVec.ofNat 32 (x.epc.toNat / 2 ^ 32)
  else if n = 0x32 then x.eblk
  else if n = 0x40 then BitVec.ofNat 32 (s.grp g).consort.toNat
  else if n = 0x41 then BitVec.ofNat 32 ((s.grp g).consort.toNat / 2 ^ 32)
  else if n = 0x42 then (s.team c.t).barWatch
  else if n = 0x43 then (s.team c.t).dbgctl
  else if n = 0x44 then BitVec.ofNat 32 (s.team c.t).index
  else if n = 0x45 then BitVec.ofNat 32 (s.team c.t).taskBlk
  else if n < 0xC0 then s.coreReg core n
  else s.dieReg (core / 192) n

/-- SYS_FPCTL after a write: 5 and 7 leave DRM unchanged, reserved bits are ignored (R22). -/
def fpctlWrite (old v : Word) : Word :=
  let d := v.toNat % 8
  let drm := if d = 5 ∨ d = 7 then old.toNat % 8 else d
  BitVec.ofNat 32 (v.toNat / 8 % 2 * 8 + drm)

/-- A write of a seed reseeds the four lanes of the slice (R29). -/
def State.reseed (s : State) (c : SliceId) (v : Word) : State :=
  ([0, 1, 2, 3] : List Nat).foldl (fun t i =>
    let l : LaneId := ⟨c.t, c.g, 4 * c.s + i⟩
    t.modLan l fun x => { x with gen := genSeed v (s.teamLane l) })
    (s.modSlc c fun x => { x with rngSeed := v })

/-- SYS_EBLK's writable fields; a COUNT of 9 to 15 leaves that field unchanged (R217). -/
def Slice.writeEblk (c : Slice) (v : Word) : Slice :=
  let n := v.toNat / 2 ^ 16 % 16
  { c with ebCount := if n ≤ 8 then n else c.ebCount, ebPattern := BitVec.ofNat 8 (v.toNat / 2 ^ 8),
           ebMask := BitVec.ofNat 4 v.toNat }

/-- The effect of SWRITE in one slice (R175); a write to a read-only register is ignored (R8). -/
def State.sysWrite (s : State) (c : SliceId) (n : Nat) (v : Word) : State :=
  let core := s.coreOf ⟨c.t, c.g⟩
  if n = 0x00 then s.modSlc c fun x => { x with fpctl := fpctlWrite x.fpctl v }
  else if n = 0x01 then s.reseed c v
  else if n = 0x04 then s.modSlc c fun x => { x with mwTimeout := v }
  else if n = 0x30 then s.modSlc c fun x =>
    { x with epc := BitVec.ofNat 56 (x.epc.toNat / 2 ^ 32 * 2 ^ 32 + v.toNat) }
  else if n = 0x31 then s.modSlc c fun x =>
    { x with epc := BitVec.ofNat 56 (v.toNat % 2 ^ 24 * 2 ^ 32 + x.epc.toNat % 2 ^ 32) }
  else if n = 0x32 then s.modSlc c fun x => x.writeEblk v
  else if n = 0x42 then s.modTeam c.t fun x => { x with barWatch := v }
  else if n = 0x43 then s.modTeam c.t fun x => { x with dbgen := v.getLsbD 0, teamStop := v.getLsbD 1 }
  else if n = 0x80 ∨ n = 0x81 then s.setCoreReg core n v
  else s

/-- SREAD (R72, R175). -/
def meanSread (o : OpSread) (s : State) : Meaning :=
  Meaning.mk { major := 0x0F, legal := s.u.iss.modp.isNone && sysKnown (s.immU o.num), cover := false }
    (fun t => t.eachSlice o.sd.toNat fun c => t.sysRead c (t.immU o.num))
/-- SREAD: its issue unit, run. -/
def execSread (o : OpSread) (s : State) : Host.Outcome State Fault Refusal := (meanSread o s).run s

/-- SWRITE: once per slice of the split, in ascending slice order (R72, R175). -/
def meanSwrite (o : OpSwrite) (s : State) : Meaning :=
  Meaning.mk { major := 0x0F, legal := s.u.iss.modp.isNone && sysKnown (s.immU o.num) }
    (fun t => .ok (t.slices.foldl (fun u c => u.sysWrite c (t.immU o.num) (t.getS c o.sa.toNat)) t))
/-- SWRITE: its issue unit, run. -/
def execSwrite (o : OpSwrite) (s : State) : Host.Outcome State Fault Refusal := (meanSwrite o s).run s

/-- RNGSEED_WRITE: a seed is written to a slice (R29). -/
def execRngseedWrite (s : State) : Host.Outcome State Fault Refusal :=
  match s.u.ev.list with
  | [t, g, c] => .next (s.reseed ⟨t, g, c⟩ (BitVec.ofNat 32 s.u.ev.value))
  | _ => .next s

end Sys2Proof.Machine
end

