-- ==== Sys2Proof/Machine/Update.lean ====
section
/-! DEFINITION. Live update of a controller's firmware (R396 to R398): the events FW_IMAGE_WRITE, LIVE_UPDATE, ALIVE and
UPDATE_ROLLBACK, and the hand-over block. -/

namespace Sys2Proof.Machine

/-! ### Images in their slots -/

/-- The image of an event: kind, version, the range of hand-over major versions, the length of the signature, the
signature, the body. -/
def imageOf : List Nat → Option Image
  | kind :: version :: lo :: hi :: n :: rest =>
    some { kind := kind, version := version % 2 ^ 32, lo := lo, hi := hi, sig := rest.take n, body := rest.drop n }
  | _ => none

/-- FW_IMAGE_WRITE (R396): the event's image goes into a controller's inactive slot; its `value` is the minor version of the blocks
that the image writes. -/
def execFwImageWrite (s : State) : Host.Outcome State Fault Refusal :=
  let c := s.u.ev.id
  let x := s.ctrl c
  match imageOf s.u.ev.list with
  | some i =>
    let i := { i with minor := s.u.ev.value }
    s.message (if c < 7 ∧ x.upd = none then
      s.setCtrl c (if x.activeB then { x with slotA := some i } else { x with slotB := some i }) else s)
  | none => s.message s

/-! ### The hand-over block (R397) -/

/-- A section of a hand-over block: its number, the minor version that brought it, and its 32-bit words. -/
structure Section where
  num : Nat
  minor : Nat := 0
  words : List Nat
  deriving DecidableEq, Repr

/-- A hand-over block: what its header holds beside what its sections tell, and the sections (R397). -/
structure Handover where
  major : Nat
  minor : Nat
  kind : Nat
  sections : List Section
  deriving DecidableEq, Repr

/-- The words of a section with what names it. -/
def Section.image (x : Section) : List Nat := [x.num, x.minor, x.words.length] ++ x.words

/-- The words of the sections, one after the other. -/
def Handover.body (h : Handover) : List Nat := h.sections.flatMap Section.image

/-- Bytes of the block: six words of header, and the sections. -/
def Handover.length (h : Handover) : Nat := 4 * (6 + h.body.length)

/-- The header without its CRC: versions, controller kind, block length and section count. -/
def Handover.header (h : Handover) : List Nat := [h.major, h.minor, h.kind, h.length, h.sections.length]

/-- The CRC-32C of a block: over all of it but the CRC. -/
def Handover.crc (h : Handover) : Nat := crc32c (h.header ++ h.body)

/-- The block as it lies in memory, in 32-bit words (log entry 31). -/
def Handover.image (h : Handover) : List Nat := h.header ++ h.crc :: h.body

/-- A value as two words. -/
def twoWords (n : Nat) : List Nat := [n % 2 ^ 32, n / 2 ^ 32 % 2 ^ 32]

/-- Section 1 of a dispatch controller: of each queue at work its state record with HEAD, the address and target of its pending WAIT
with the last read, and the re-reads of a sealed command; of each EVENT that has begun what it writes; and the turns of the
rotation. -/
def State.queueSection (s : State) (c : Nat) : List Nat :=
  (s.d.rung.filter fun q => decide (q / 8192 = c)).flatMap (fun q =>
    let ws := ((s.headWords q).map (·.2)).getD []
    let again := s.d.sealTry.look q (0, 0)
    [q] ++ (List.range 32).map (fun i => s.load (s.queueLoc q + 4 * i) 4) ++
      (if s.d.wait.has q then 1 :: twoWords (cmdPair ws 2) ++ twoWords (cmdPair ws 4) ++ twoWords (s.d.wait.look q 0) else [0]) ++
      (if s.d.sealTry.has q then [1, again.1] ++ twoWords again.2 else [0])) ++
  (s.d.events.filter fun e => decide (e.q / 8192 = c)).flatMap (fun e =>
    [e.q] ++ twoWords e.va ++ twoWords e.value ++ [e.irq.getD (2 ^ 31)] ++ e.grids) ++
  (s.d.turn.filter fun x => decide (x.1.1 = c)).flatMap fun x => [x.1.2, x.2]

/-- Section 2: the tables of task control blocks, and the task queue of the die. -/
def State.taskSection (s : State) (c : Nat) : List Nat :=
  (s.x.grids.filter fun g => decide (g.die = c ∧ g.launch.taskN ≠ 0)).flatMap (fun g =>
    [g.uid] ++ twoWords g.launch.taskBase ++ [g.launch.taskN]) ++
  (s.d.taskQ.filter fun t => decide (t.die = c)).flatMap fun t => [t.grid, t.blk, t.level]

/-- Section 3: the routing tables. -/
def State.routeSection (s : State) : List Nat :=
  [s.f.dev, s.f.podSize] ++ s.f.planes.flatMap fun x => [x.1, x.2.length] ++ x.2

/-- Section 4: the arrears counters. -/
def State.arrearsSection (s : State) : List Nat := s.f.arrears.flatMap fun x => [x.1.1, x.1.2, x.2]

/-- Section 5: the links that are down, the failed replays in a row of the others, and the retrain counts. -/
def State.linkSection (s : State) : List Nat :=
  (List.range 64).flatMap fun n =>
    [if s.portUp n then 1 else 0, s.f.replays.look n 0, s.p.life.look (6, n, 0) 0]

/-- Section 6: the progress of the re-shard commands. -/
def State.reshardSection (s : State) : List Nat :=
  s.e.rsh.flatMap fun r =>
    [r.id, r.die] ++ twoWords r.recVa ++ [r.step, r.steps] ++ twoWords r.bytes ++ [(s.rshStatus r true).toNat, r.crc]

/-- The block that a controller's image writes and keeps current (R396, R397), in the highest major version of its own range: it holds
what the state holds at that moment, so that an import finds every change made since the hand-over, and leaves the state as it
is. Sections that the kind does not own are absent; an image of a later minor version adds what the rule does not tell (log entry
31). -/
def State.handover (s : State) (c : Nat) (r : Image) : Handover :=
  let own : List Section :=
    if c < 4 then [{ num := 1, words := s.queueSection c }, { num := 2, words := s.taskSection c }]
    else if c = 4 then
      [{ num := 3, words := s.routeSection }, { num := 4, words := s.arrearsSection }, { num := 5, words := s.linkSection },
        { num := 6, words := s.reshardSection }]
    else []
  { major := r.hi, minor := r.minor, kind := kindOf c
    sections := own ++ if r.minor = 0 then [] else [{ num := 7, minor := r.minor, words := Config.laterSection (kindOf c) r.minor }] }

/-- An image imports blocks of the major versions that it declares (R397). -/
def Image.imports (i : Image) (h : Handover) : Bool := decide (i.lo ≤ h.major ∧ h.major ≤ i.hi)

/-- What an image takes of a block: it ignores sections of a higher minor version (R397). -/
def Image.takes (i : Image) (h : Handover) : List Section := h.sections.filter fun x => decide (x.minor ≤ i.minor)

/-! ### The steps of an update (R396, R398) -/

/-- The launches that a controller's update holds (R396; log entry 81). -/
def State.holdDispatch (s : State) (c : Nat) : State :=
  if c ∉ s.d.hold then { s with d.hold := s.d.hold ++ [c] } else s

/-- Admission resumes. -/
def State.freeDispatch (s : State) (c : Nat) : State := { s with d.hold := s.d.hold.filter fun x => decide (x ≠ c) }

/-- No controller is being updated. -/
def State.noUpdate (s : State) : Bool := ([0, 1, 2, 3, 4, 5, 6] : List Nat).all fun c => decide ((s.ctrl c).upd = none)

/-- LIVE_UPDATE (R396): a request for a controller is refused, or holds launches; with the event's flag the new image has
imported the hand-over block as it then stands, and admission resumes. -/
def execLiveUpdate (s : State) : Host.Outcome State Fault Refusal :=
  let c := s.u.ev.id
  let x := s.ctrl c
  if !s.p.ready then .next s.spdmError
  else if 7 ≤ c then .next s
  else if s.u.ev.flag then
    match x.upd, x.inactive with
    | some (.held since), some i =>
      if s.within since 20 then
        .next ({ (s.setCtrl c { x with running := some i, upd := some (.imported s.u.clk) }) with p.upd := 2 }
          |>.freeDispatch c)
      else .next s
    | _, _ => .next s
  else
    match x.inactive, x.running with
    | some i, some r =>
      if s.noUpdate && i.authentic c && i.imports (s.handover c r) then
        .next ({ (s.setCtrl c { x with upd := some (.held s.u.clk) }) with p.upd := 1 } |>.holdDispatch c)
      else .next s
    | _, _ => .next s

/-- ALIVE (R396): the new image's slot becomes the active one. -/
def execAlive (s : State) : Host.Outcome State Fault Refusal :=
  let c := s.u.ev.id
  let x := s.ctrl c
  match x.upd with
  | some (.imported since) =>
    if s.within since 500 then
      .next { (s.setCtrl c { x with upd := none, activeB := !x.activeB }) with p.upd := 0 }
    else .next s
  | _ => .next s

/-- An update is late: the import, or "alive" (R398). -/
def State.updateLate (s : State) (x : Ctrl) : Bool :=
  match x.upd with
  | some (.held since) => !s.within since 20
  | some (.imported since) => !s.within since 500
  | _ => false

/-- The previous image has imported the block after a rollback, and admission resumes (R398). -/
def State.endRollback (s : State) (c : Nat) : State :=
  match (s.ctrl c).upd with
  | some (.rolling _) => (s.setCtrl c { s.ctrl c with upd := none }).freeDispatch c
  | _ => s

/-- UPDATE_ROLLBACK (R398, R401): the previous image is restarted with launches held; with the event's flag it has
imported the block and admission resumes. -/
def execUpdateRollback (s : State) : Host.Outcome State Fault Refusal :=
  let c := s.u.ev.id
  let x := s.ctrl c
  if s.u.ev.flag then .next (s.endRollback c)
  else if s.updateLate x then
    .next ({ (s.setCtrl c { x with running := x.active, upd := some (.rolling s.u.clk) }) with p.upd := 3 }
      |>.holdDispatch c |>.bumpStored (7, c, 0))
  else .next s

/-- A rollback whose re-import has its 20 ms behind it. -/
def State.rollbackDue (s : State) (c : Nat) : Bool :=
  match (s.ctrl c).upd with
  | some (.rolling since) => s.took since 20
  | _ => false

/-- Every previous image has imported the block within 20 ms of its rollback (R398). -/
def State.endRollbacks (s : State) : State :=
  (s.p.ctrl.map (·.1)).foldl (fun (t : State) c => if t.rollbackDue c then t.endRollback c else t) s

end Sys2Proof.Machine
end

