-- ==== Sys2Proof/Machine/Dispatch.lean ====
section
/-! DEFINITION. The one match over the instructions and events: each arm calls its meaning. -/

namespace Sys2Proof.Machine

/-- The meaning of an instruction or event in a state. -/
def exec (i : Instr) (s : State) : Host.Outcome State Fault Refusal :=
  match i with
  | .iadd o => Sys2Proof.Machine.execIadd o s
  | .isub o => Sys2Proof.Machine.execIsub o s
  | .imin o => Sys2Proof.Machine.execImin o s
  | .imax o => Sys2Proof.Machine.execImax o s
  | .iminu o => Sys2Proof.Machine.execIminu o s
  | .imaxu o => Sys2Proof.Machine.execImaxu o s
  | .iaddc o => Sys2Proof.Machine.execIaddc o s
  | .iabsd o => Sys2Proof.Machine.execIabsd o s
  | .imul o => Sys2Proof.Machine.execImul o s
  | .imulh o => Sys2Proof.Machine.execImulh o s
  | .imulhu o => Sys2Proof.Machine.execImulhu o s
  | .imad o => Sys2Proof.Machine.execImad o s
  | .idot4 o => Sys2Proof.Machine.execIdot4 o s
  | .idot4u o => Sys2Proof.Machine.execIdot4u o s
  | .popc o => Sys2Proof.Machine.execPopc o s
  | .clz o => Sys2Proof.Machine.execClz o s
  | .andB o => Sys2Proof.Machine.execAnd o s
  | .orB o => Sys2Proof.Machine.execOr o s
  | .xorB o => Sys2Proof.Machine.execXor o s
  | .andn o => Sys2Proof.Machine.execAndn o s
  | .orn o => Sys2Proof.Machine.execOrn o s
  | .xnor o => Sys2Proof.Machine.execXnor o s
  | .sel o => Sys2Proof.Machine.execSel o s
  | .brev o => Sys2Proof.Machine.execBrev o s
  | .shl o => Sys2Proof.Machine.execShl o s
  | .shr o => Sys2Proof.Machine.execShr o s
  | .sar o => Sys2Proof.Machine.execSar o s
  | .rol o => Sys2Proof.Machine.execRol o s
  | .ror o => Sys2Proof.Machine.execRor o s
  | .fshl o => Sys2Proof.Machine.execFshl o s
  | .bfx o => Sys2Proof.Machine.execBfx o s
  | .bfi o => Sys2Proof.Machine.execBfi o s
  | .icmpEq o => Sys2Proof.Machine.execIcmpEq o s
  | .icmpNe o => Sys2Proof.Machine.execIcmpNe o s
  | .icmpLt o => Sys2Proof.Machine.execIcmpLt o s
  | .icmpLe o => Sys2Proof.Machine.execIcmpLe o s
  | .icmpGt o => Sys2Proof.Machine.execIcmpGt o s
  | .icmpGe o => Sys2Proof.Machine.execIcmpGe o s
  | .icmpLtu o => Sys2Proof.Machine.execIcmpLtu o s
  | .icmpGeu o => Sys2Proof.Machine.execIcmpGeu o s
  | .iaddi o => Sys2Proof.Machine.execIaddi o s
  | .andi o => Sys2Proof.Machine.execAndi o s
  | .ori o => Sys2Proof.Machine.execOri o s
  | .xori o => Sys2Proof.Machine.execXori o s
  | .shli o => Sys2Proof.Machine.execShli o s
  | .shri o => Sys2Proof.Machine.execShri o s
  | .sari o => Sys2Proof.Machine.execSari o s
  | .movi o => Sys2Proof.Machine.execMovi o s
  | .mov o => Sys2Proof.Machine.execMov o s
  | .movhi o => Sys2Proof.Machine.execMovhi o s
  | .lea o => Sys2Proof.Machine.execLea o s
  | .pack o => Sys2Proof.Machine.execPack o s
  | .unpk o => Sys2Proof.Machine.execUnpk o s
  | .perm o => Sys2Proof.Machine.execPerm o s
  | .bcast o => Sys2Proof.Machine.execBcast o s
  | .vget o => Sys2Proof.Machine.execVget o s
  | .sadd o => Sys2Proof.Machine.execSadd o s
  | .ssub o => Sys2Proof.Machine.execSsub o s
  | .smul o => Sys2Proof.Machine.execSmul o s
  | .sand o => Sys2Proof.Machine.execSand o s
  | .sor o => Sys2Proof.Machine.execSor o s
  | .sxor o => Sys2Proof.Machine.execSxor o s
  | .sshl o => Sys2Proof.Machine.execSshl o s
  | .sshr o => Sys2Proof.Machine.execSshr o s
  | .saddi o => Sys2Proof.Machine.execSaddi o s
  | .smovi o => Sys2Proof.Machine.execSmovi o s
  | .scmp o => Sys2Proof.Machine.execScmp o s
  | .smov o => Sys2Proof.Machine.execSmov o s
  | .vput o => Sys2Proof.Machine.execVput o s
  | .smovhi o => Sys2Proof.Machine.execSmovhi o s
  | .ssar o => Sys2Proof.Machine.execSsar o s
  | .ssel o => Sys2Proof.Machine.execSsel o s
  | .fadd o => Sys2Proof.Machine.execFadd o s
  | .fsub o => Sys2Proof.Machine.execFsub o s
  | .fmul o => Sys2Proof.Machine.execFmul o s
  | .fmin o => Sys2Proof.Machine.execFmin o s
  | .fmax o => Sys2Proof.Machine.execFmax o s
  | .fminm o => Sys2Proof.Machine.execFminm o s
  | .fmaxm o => Sys2Proof.Machine.execFmaxm o s
  | .fcpys o => Sys2Proof.Machine.execFcpys o s
  | .ffma o => Sys2Proof.Machine.execFfma o s
  | .ffms o => Sys2Proof.Machine.execFfms o s
  | .fnma o => Sys2Proof.Machine.execFnma o s
  | .fnms o => Sys2Proof.Machine.execFnms o s
  | .fdot2 o => Sys2Proof.Machine.execFdot2 o s
  | .fdot4 o => Sys2Proof.Machine.execFdot4 o s
  | .fscale o => Sys2Proof.Machine.execFscale o s
  | .fcmpEq o => Sys2Proof.Machine.execFcmpEq o s
  | .fcmpNe o => Sys2Proof.Machine.execFcmpNe o s
  | .fcmpLt o => Sys2Proof.Machine.execFcmpLt o s
  | .fcmpLe o => Sys2Proof.Machine.execFcmpLe o s
  | .fcmpGt o => Sys2Proof.Machine.execFcmpGt o s
  | .fcmpGe o => Sys2Proof.Machine.execFcmpGe o s
  | .fcmpUn o => Sys2Proof.Machine.execFcmpUn o s
  | .fcmpOrd o => Sys2Proof.Machine.execFcmpOrd o s
  | .frcp o => Sys2Proof.Machine.execFrcp o s
  | .frsq o => Sys2Proof.Machine.execFrsq o s
  | .fsqrt o => Sys2Proof.Machine.execFsqrt o s
  | .fexp2 o => Sys2Proof.Machine.execFexp2 o s
  | .flog2 o => Sys2Proof.Machine.execFlog2 o s
  | .fsin o => Sys2Proof.Machine.execFsin o s
  | .fcos o => Sys2Proof.Machine.execFcos o s
  | .ftanh o => Sys2Proof.Machine.execFtanh o s
  | .fcvt o => Sys2Proof.Machine.execFcvt o s
  | .icvtf o => Sys2Proof.Machine.execIcvtf o s
  | .fcvti o => Sys2Proof.Machine.execFcvti o s
  | .fround o => Sys2Proof.Machine.execFround o s
  | .fclass o => Sys2Proof.Machine.execFclass o s
  | .dxpack o => Sys2Proof.Machine.execDxpack o s
  | .dxunpk o => Sys2Proof.Machine.execDxunpk o s
  | .fexpo o => Sys2Proof.Machine.execFexpo o s
  | .bra o => Sys2Proof.Machine.execBra o s
  | .brai o => Sys2Proof.Machine.execBrai o s
  | .call o => Sys2Proof.Machine.execCall o s
  | .calli o => Sys2Proof.Machine.execCalli o s
  | .ret => Sys2Proof.Machine.execRet s
  | .regang => Sys2Proof.Machine.execRegang s
  | .exit => Sys2Proof.Machine.execExit s
  | .yield => Sys2Proof.Machine.execYield s
  | .trap o => Sys2Proof.Machine.execTrap o s
  | .bkpt o => Sys2Proof.Machine.execBkpt o s
  | .rte => Sys2Proof.Machine.execRte s
  | .sread o => Sys2Proof.Machine.execSread o s
  | .swrite o => Sys2Proof.Machine.execSwrite o s
  | .nop => Sys2Proof.Machine.execNop s
  | .sleep o => Sys2Proof.Machine.execSleep o s
  | .cacheIinv o => Sys2Proof.Machine.execCacheIinv o s
  | .cacheL1inv o => Sys2Proof.Machine.execCacheL1inv o s
  | .cacheL2clean o => Sys2Proof.Machine.execCacheL2clean o s
  | .cacheL2flush o => Sys2Proof.Machine.execCacheL2flush o s
  | .vote o => Sys2Proof.Machine.execVote o s
  | .elect o => Sys2Proof.Machine.execElect o s
  | .matchV o => Sys2Proof.Machine.execMatch o s
  | .shfl o => Sys2Proof.Machine.execShfl o s
  | .reduce o => Sys2Proof.Machine.execReduce o s
  | .scan o => Sys2Proof.Machine.execScan o s
  | .rank o => Sys2Proof.Machine.execRank o s
  | .ldB8u o => Sys2Proof.Machine.execLdB8u o s
  | .ldB8s o => Sys2Proof.Machine.execLdB8s o s
  | .ldB16u o => Sys2Proof.Machine.execLdB16u o s
  | .ldB16s o => Sys2Proof.Machine.execLdB16s o s
  | .ldB32 o => Sys2Proof.Machine.execLdB32 o s
  | .ldB64 o => Sys2Proof.Machine.execLdB64 o s
  | .ldB128 o => Sys2Proof.Machine.execLdB128 o s
  | .ldc o => Sys2Proof.Machine.execLdc o s
  | .stB8 o => Sys2Proof.Machine.execStB8 o s
  | .stB16 o => Sys2Proof.Machine.execStB16 o s
  | .stB32 o => Sys2Proof.Machine.execStB32 o s
  | .stB64 o => Sys2Proof.Machine.execStB64 o s
  | .stB128 o => Sys2Proof.Machine.execStB128 o s
  | .stnt o => Sys2Proof.Machine.execStnt o s
  | .prefetch o => Sys2Proof.Machine.execPrefetch o s
  | .atomAdd o => Sys2Proof.Machine.execAtomAdd o s
  | .atomMin o => Sys2Proof.Machine.execAtomMin o s
  | .atomMax o => Sys2Proof.Machine.execAtomMax o s
  | .atomAnd o => Sys2Proof.Machine.execAtomAnd o s
  | .atomOr o => Sys2Proof.Machine.execAtomOr o s
  | .atomXor o => Sys2Proof.Machine.execAtomXor o s
  | .atomExch o => Sys2Proof.Machine.execAtomExch o s
  | .atomCas o => Sys2Proof.Machine.execAtomCas o s
  | .atomfFadd32 o => Sys2Proof.Machine.execAtomfFadd32 o s
  | .atomfFadd64 o => Sys2Proof.Machine.execAtomfFadd64 o s
  | .atomfFmin32 o => Sys2Proof.Machine.execAtomfFmin32 o s
  | .atomfFmax32 o => Sys2Proof.Machine.execAtomfFmax32 o s
  | .atomfFaddh2 o => Sys2Proof.Machine.execAtomfFaddh2 o s
  | .atomfFaddb2 o => Sys2Proof.Machine.execAtomfFaddb2 o s
  | .atomfInc o => Sys2Proof.Machine.execAtomfInc o s
  | .atomfDec o => Sys2Proof.Machine.execAtomfDec o s
  | .fence => Sys2Proof.Machine.execFence s
  | .waitc o => Sys2Proof.Machine.execWaitc o s
  | .monitor o => Sys2Proof.Machine.execMonitor o s
  | .mwait => Sys2Proof.Machine.execMwait s
  | .settleL o => Sys2Proof.Machine.execSettleL o s
  | .settleT o => Sys2Proof.Machine.execSettleT o s
  | .settleG o => Sys2Proof.Machine.execSettleG o s
  | .settleP o => Sys2Proof.Machine.execSettleP o s
  | .bar => Sys2Proof.Machine.execBar s
  | .gridsync => Sys2Proof.Machine.execGridsync s
  | .podsync => Sys2Proof.Machine.execPodsync s
  | .dstStore o => Sys2Proof.Machine.execDstStore o s
  | .dstAdd o => Sys2Proof.Machine.execDstAdd o s
  | .dstFadd o => Sys2Proof.Machine.execDstFadd o s
  | .dstMin o => Sys2Proof.Machine.execDstMin o s
  | .dstMax o => Sys2Proof.Machine.execDstMax o s
  | .dstOr o => Sys2Proof.Machine.execDstOr o s
  | .dstAnd o => Sys2Proof.Machine.execDstAnd o s
  | .dstAppend o => Sys2Proof.Machine.execDstAppend o s
  | .mma o => Sys2Proof.Machine.execMma o s
  | .mmas o => Sys2Proof.Machine.execMmas o s
  | .mmad o => Sys2Proof.Machine.execMmad o s
  | .spcmp o => Sys2Proof.Machine.execSpcmp o s
  | .xqt o => Sys2Proof.Machine.execXqt o s
  | .smxacc o => Sys2Proof.Machine.execSmxacc o s
  | .smxfin o => Sys2Proof.Machine.execSmxfin o s
  | .accz o => Sys2Proof.Machine.execAccz o s
  | .consort o => Sys2Proof.Machine.execConsort o s
  | .mscale o => Sys2Proof.Machine.execMscale o s
  | .mscaleOff => Sys2Proof.Machine.execMscaleOff s
  | .fragt o => Sys2Proof.Machine.execFragt o s
  | .setfmt o => Sys2Proof.Machine.execSetfmt o s
  | .getfmt o => Sys2Proof.Machine.execGetfmt o s
  | .cpy o => Sys2Proof.Machine.execCpy o s
  | .tcpy o => Sys2Proof.Machine.execTcpy o s
  | .tcpym o => Sys2Proof.Machine.execTcpym o s
  | .tstore o => Sys2Proof.Machine.execTstore o s
  | .rpush o => Sys2Proof.Machine.execRpush o s
  | .rpop o => Sys2Proof.Machine.execRpop o s
  | .rwait o => Sys2Proof.Machine.execRwait o s
  | .binit o => Sys2Proof.Machine.execBinit o s
  | .barv o => Sys2Proof.Machine.execBarv o s
  | .bwait o => Sys2Proof.Machine.execBwait o s
  | .btest o => Sys2Proof.Machine.execBtest o s
  | .bexpect o => Sys2Proof.Machine.execBexpect o s
  | .binval o => Sys2Proof.Machine.execBinval o s
  | .tmint o => Sys2Proof.Machine.execTmint o s
  | .tfree o => Sys2Proof.Machine.execTfree o s
  | .tacq o => Sys2Proof.Machine.execTacq o s
  | .trel o => Sys2Proof.Machine.execTrel o s
  | .tsplit o => Sys2Proof.Machine.execTsplit o s
  | .tmerge o => Sys2Proof.Machine.execTmerge o s
  | .tstat o => Sys2Proof.Machine.execTstat o s
  | .tdown o => Sys2Proof.Machine.execTdown o s
  | .fetch o => Sys2Proof.Machine.execFetch o s
  | .fetchx o => Sys2Proof.Machine.execFetchx o s
  | .fetchs o => Sys2Proof.Machine.execFetchs o s
  | .finv o => Sys2Proof.Machine.execFinv o s
  | .spawn o => Sys2Proof.Machine.execSpawn o s
  | .joinTask o => Sys2Proof.Machine.execJoin o s
  | .joinPoll o => Sys2Proof.Machine.execJoinPoll o s
  | .launchCmd o => Sys2Proof.Machine.execLaunch o s
  | .taskend o => Sys2Proof.Machine.execTaskend o s
  | .qstat o => Sys2Proof.Machine.execQstat o s
  | .rshard o => Sys2Proof.Machine.execRshard o s
  | .rspoll o => Sys2Proof.Machine.execRspoll o s
  | .migrate o => Sys2Proof.Machine.execMigrate o s
  | .peerid o => Sys2Proof.Machine.execPeerid o s
  | .peeridQ o => Sys2Proof.Machine.execPeeridQ o s
  | .mov16 o => Sys2Proof.Machine.execMov16 o s
  | .iadd16 o => Sys2Proof.Machine.execIadd16 o s
  | .isub16 o => Sys2Proof.Machine.execIsub16 o s
  | .and16 o => Sys2Proof.Machine.execAnd16 o s
  | .or16 o => Sys2Proof.Machine.execOr16 o s
  | .xor16 o => Sys2Proof.Machine.execXor16 o s
  | .shl16 o => Sys2Proof.Machine.execShl16 o s
  | .shr16 o => Sys2Proof.Machine.execShr16 o s
  | .fadd16 o => Sys2Proof.Machine.execFadd16 o s
  | .fsub16 o => Sys2Proof.Machine.execFsub16 o s
  | .fmul16 o => Sys2Proof.Machine.execFmul16 o s
  | .fmax16 o => Sys2Proof.Machine.execFmax16 o s
  | .iaddi16 o => Sys2Proof.Machine.execIaddi16 o s
  | .movi16 o => Sys2Proof.Machine.execMovi16 o s
  | .ld16 o => Sys2Proof.Machine.execLd16 o s
  | .imul16 o => Sys2Proof.Machine.execImul16 o s
  | .replyLand => Sys2Proof.Machine.execReplyLand s
  | .storePerformed => Sys2Proof.Machine.execStorePerformed s
  | .sfuResult => Sys2Proof.Machine.execSfuResult s
  | .matrixDeliver => Sys2Proof.Machine.execMatrixDeliver s
  | .jointStart => Sys2Proof.Machine.execJointStart s
  | .rendezvousTimeout => Sys2Proof.Machine.execRendezvousTimeout s
  | .lateFaultDelivery => Sys2Proof.Machine.execLateFaultDelivery s
  | .barrierStall => Sys2Proof.Machine.execBarrierStall s
  | .splitStarved => Sys2Proof.Machine.execSplitStarved s
  | .mwaitWake => Sys2Proof.Machine.execMwaitWake s
  | .mwaitTimeout => Sys2Proof.Machine.execMwaitTimeout s
  | .sleepExpiry => Sys2Proof.Machine.execSleepExpiry s
  | .rngseedWrite => Sys2Proof.Machine.execRngseedWrite s
  | .homeAccess => Sys2Proof.Machine.execHomeAccess s
  | .recallRelease => Sys2Proof.Machine.execRecallRelease s
  | .recallRetry => Sys2Proof.Machine.execRecallRetry s
  | .invalidation => Sys2Proof.Machine.execInvalidation s
  | .regionMerge => Sys2Proof.Machine.execRegionMerge s
  | .tenureGrant => Sys2Proof.Machine.execTenureGrant s
  | .tenureTimeout => Sys2Proof.Machine.execTenureTimeout s
  | .copyStart => Sys2Proof.Machine.execCopyStart s
  | .copyComplete => Sys2Proof.Machine.execCopyComplete s
  | .logDrain => Sys2Proof.Machine.execLogDrain s
  | .binAgeExpiry => Sys2Proof.Machine.execBinAgeExpiry s
  | .ingressBin => Sys2Proof.Machine.execIngressBin s
  | .binApply => Sys2Proof.Machine.execBinApply s
  | .binAck => Sys2Proof.Machine.execBinAck s
  | .refusalNotice => Sys2Proof.Machine.execRefusalNotice s
  | .settleComplete => Sys2Proof.Machine.execSettleComplete s
  | .doorbell => Sys2Proof.Machine.execDoorbell s
  | .queueNop => Sys2Proof.Machine.execQueueNop s
  | .queueLaunch => Sys2Proof.Machine.execQueueLaunch s
  | .queueEvent => Sys2Proof.Machine.execQueueEvent s
  | .eventWrite => Sys2Proof.Machine.execEventWrite s
  | .queueWait => Sys2Proof.Machine.execQueueWait s
  | .waitRecheck => Sys2Proof.Machine.execWaitRecheck s
  | .queueInval => Sys2Proof.Machine.execQueueInval s
  | .invalTeardown => Sys2Proof.Machine.execInvalTeardown s
  | .resumeReplay => Sys2Proof.Machine.execResumeReplay s
  | .resumeCancel => Sys2Proof.Machine.execResumeCancel s
  | .resumeUnitpc => Sys2Proof.Machine.execResumeUnitpc s
  | .resumeNext => Sys2Proof.Machine.execResumeNext s
  | .resumeAbort => Sys2Proof.Machine.execResumeAbort s
  | .sealRetry => Sys2Proof.Machine.execSealRetry s
  | .dispatchStep => Sys2Proof.Machine.execDispatchStep s
  | .teamSave => Sys2Proof.Machine.execTeamSave s
  | .gridRetire => Sys2Proof.Machine.execGridRetire s
  | .watchdog => Sys2Proof.Machine.execWatchdog s
  | .taskRetire => Sys2Proof.Machine.execTaskRetire s
  | .pageWalk => Sys2Proof.Machine.execPageWalk s
  | .faultQueueWrite => Sys2Proof.Machine.execFaultQueueWrite s
  | .debugHalt => Sys2Proof.Machine.execDebugHalt s
  | .singleStep => Sys2Proof.Machine.execSingleStep s
  | .debugResume => Sys2Proof.Machine.execDebugResume s
  | .hostRegWrite => Sys2Proof.Machine.execHostRegWrite s
  | .bar0BadAccess => Sys2Proof.Machine.execBar0BadAccess s
  | .chipcarveWrite => Sys2Proof.Machine.execChipcarveWrite s
  | .chipcarveApply => Sys2Proof.Machine.execChipcarveApply s
  | .resctlWrite => Sys2Proof.Machine.execResctlWrite s
  | .hostBar2Read => Sys2Proof.Machine.execHostBar2Read s
  | .hostBar2Write => Sys2Proof.Machine.execHostBar2Write s
  | .keyLoad => Sys2Proof.Machine.execKeyLoad s
  | .bringUp => Sys2Proof.Machine.execBringUp s
  | .stageTimeout => Sys2Proof.Machine.execStageTimeout s
  | .setPowerCap => Sys2Proof.Machine.execSetPowerCap s
  | .clockLower => Sys2Proof.Machine.execClockLower s
  | .clockRaise => Sys2Proof.Machine.execClockRaise s
  | .thermalTrip => Sys2Proof.Machine.execThermalTrip s
  | .fwImageWrite => Sys2Proof.Machine.execFwImageWrite s
  | .liveUpdate => Sys2Proof.Machine.execLiveUpdate s
  | .aliveMsg => Sys2Proof.Machine.execAlive s
  | .updateRollback => Sys2Proof.Machine.execUpdateRollback s
  | .floorRaise => Sys2Proof.Machine.execFloorRaise s
  | .lifetimeRead => Sys2Proof.Machine.execLifetimeRead s
  | .lifetimePersist => Sys2Proof.Machine.execLifetimePersist s
  | .powerDown => Sys2Proof.Machine.execPowerDown s
  | .getVersion => Sys2Proof.Machine.execGetVersion s
  | .getCapabilities => Sys2Proof.Machine.execGetCapabilities s
  | .negotiateAlgorithms => Sys2Proof.Machine.execNegotiateAlgorithms s
  | .getDigests => Sys2Proof.Machine.execGetDigests s
  | .getCertificate => Sys2Proof.Machine.execGetCertificate s
  | .challenge => Sys2Proof.Machine.execChallenge s
  | .getMeasurements => Sys2Proof.Machine.execGetMeasurements s
  | .setArrears => Sys2Proof.Machine.execSetArrears s
  | .migrationPool => Sys2Proof.Machine.execMigrationPool s
  | .podJobRegister => Sys2Proof.Machine.execPodJobRegister s
  | .podArrivalMsg => Sys2Proof.Machine.execPodArrivalMsg s
  | .podCompletionMsg => Sys2Proof.Machine.execPodCompletionMsg s
  | .flitReceive => Sys2Proof.Machine.execFlitReceive s
  | .linkRetrain => Sys2Proof.Machine.execLinkRetrain s
  | .arrearsWin => Sys2Proof.Machine.execArrearsWin s
  | .remoteAccess => Sys2Proof.Machine.execRemoteAccess s
  | .remoteStoreAck => Sys2Proof.Machine.execRemoteStoreAck s
  | .deliveryTimeout => Sys2Proof.Machine.execDeliveryTimeout s
  | .migrationRun => Sys2Proof.Machine.execMigrationRun s
  | .reshardAccept => Sys2Proof.Machine.execReshardAccept s
  | .reshardStepComplete => Sys2Proof.Machine.execReshardStepComplete s
  | .progressWrite => Sys2Proof.Machine.execProgressWrite s
  | .reshardEnd => Sys2Proof.Machine.execReshardEnd s
  | .reshardStop => Sys2Proof.Machine.execReshardStop s
  | .powerLoss => Sys2Proof.Machine.execPowerLoss s
  | .dbgctlHostWrite => Sys2Proof.Machine.execDbgctlHostWrite s
  | .stepCancel => Sys2Proof.Machine.execStepCancel s
  | .histogramMinute => Sys2Proof.Machine.execHistogramMinute s

end Sys2Proof.Machine
end

