-- ==== Sys2Proof/Decode.lean ====
section
/-! DEFINITION. Decoding and encoding (R43 to R69): the fields of each operand structure, the decoder of
16-bit and 32-bit words over the opcode map of R68, the prefix words, the framing of a word among the
bytes at a PC, and the encoder written from the same tables. A word with a reserved minor or a nonzero
reserved field decodes to nothing, and the machine raises ILLEGAL_OP (R69). -/

namespace Sys2Proof

/-- The field of `n` bits at bit `lo` of a word. -/
def fld (w lo n : Nat) : Nat := w / 2 ^ lo % 2 ^ n

/-- One bit of a word. -/
def flag (w lo : Nat) : Bool := decide (w / 2 ^ lo % 2 = 1)

/-- The fields of OpA in a word. -/
def OpA.read (w : Nat) : OpA :=
  { tb := flag w 28,
    ta := flag w 27,
    vb := BitVec.ofNat 7 (w / 2 ^ 20),
    va := BitVec.ofNat 7 (w / 2 ^ 13),
    vd := BitVec.ofNat 7 (w / 2 ^ 6) }

/-- OpA as bits of a word. -/
def OpA.bits (o : OpA) : Nat :=
  o.vd.toNat * 2 ^ 6 + o.va.toNat * 2 ^ 13 + o.vb.toNat * 2 ^ 20 + o.ta.toNat * 2 ^ 27 + o.tb.toNat * 2 ^ 28

/-- The fields of OpA1 in a word. -/
def OpA1.read (w : Nat) : OpA1 :=
  { ta := flag w 27,
    va := BitVec.ofNat 7 (w / 2 ^ 13),
    vd := BitVec.ofNat 7 (w / 2 ^ 6) }

/-- OpA1 as bits of a word. -/
def OpA1.bits (o : OpA1) : Nat :=
  o.vd.toNat * 2 ^ 6 + o.va.toNat * 2 ^ 13 + o.ta.toNat * 2 ^ 27

/-- The fields of OpC in a word. -/
def OpC.read (w : Nat) : OpC :=
  { tb := flag w 28,
    ta := flag w 27,
    vb := BitVec.ofNat 7 (w / 2 ^ 20),
    va := BitVec.ofNat 7 (w / 2 ^ 13),
    md := BitVec.ofNat 3 (w / 2 ^ 6) }

/-- OpC as bits of a word. -/
def OpC.bits (o : OpC) : Nat :=
  o.md.toNat * 2 ^ 6 + o.va.toNat * 2 ^ 13 + o.vb.toNat * 2 ^ 20 + o.ta.toNat * 2 ^ 27 + o.tb.toNat * 2 ^ 28

/-- The fields of OpI in a word. -/
def OpI.read (w : Nat) : OpI :=
  { imm := BitVec.ofNat 8 (w / 2 ^ 21),
    ta := flag w 20,
    va := BitVec.ofNat 7 (w / 2 ^ 13),
    vd := BitVec.ofNat 7 (w / 2 ^ 6) }

/-- OpI as bits of a word. -/
def OpI.bits (o : OpI) : Nat :=
  o.vd.toNat * 2 ^ 6 + o.va.toNat * 2 ^ 13 + o.ta.toNat * 2 ^ 20 + o.imm.toNat * 2 ^ 21

/-- The fields of OpMovi in a word. -/
def OpMovi.read (w : Nat) : OpMovi :=
  { imm := BitVec.ofNat 8 (w / 2 ^ 21),
    lo := BitVec.ofNat 7 (w / 2 ^ 13),
    vd := BitVec.ofNat 7 (w / 2 ^ 6) }

/-- OpMovi as bits of a word. -/
def OpMovi.bits (o : OpMovi) : Nat :=
  o.vd.toNat * 2 ^ 6 + o.lo.toNat * 2 ^ 13 + o.imm.toNat * 2 ^ 21

/-- The fields of OpUnpk in a word. -/
def OpUnpk.read (w : Nat) : OpUnpk :=
  { ta := flag w 27,
    n := BitVec.ofNat 1 (w / 2 ^ 20),
    va := BitVec.ofNat 7 (w / 2 ^ 13),
    vd := BitVec.ofNat 7 (w / 2 ^ 6) }

/-- OpUnpk as bits of a word. -/
def OpUnpk.bits (o : OpUnpk) : Nat :=
  o.vd.toNat * 2 ^ 6 + o.va.toNat * 2 ^ 13 + o.n.toNat * 2 ^ 20 + o.ta.toNat * 2 ^ 27

/-- The fields of OpBcast in a word. -/
def OpBcast.read (w : Nat) : OpBcast :=
  { ta := flag w 27,
    n := BitVec.ofNat 2 (w / 2 ^ 20),
    va := BitVec.ofNat 7 (w / 2 ^ 13),
    vd := BitVec.ofNat 7 (w / 2 ^ 6) }

/-- OpBcast as bits of a word. -/
def OpBcast.bits (o : OpBcast) : Nat :=
  o.vd.toNat * 2 ^ 6 + o.va.toNat * 2 ^ 13 + o.n.toNat * 2 ^ 20 + o.ta.toNat * 2 ^ 27

/-- The fields of OpVget in a word. -/
def OpVget.read (w : Nat) : OpVget :=
  { sel := BitVec.ofNat 7 (w / 2 ^ 20),
    va := BitVec.ofNat 7 (w / 2 ^ 13),
    vd := BitVec.ofNat 7 (w / 2 ^ 6) }

/-- OpVget as bits of a word. -/
def OpVget.bits (o : OpVget) : Nat :=
  o.vd.toNat * 2 ^ 6 + o.va.toNat * 2 ^ 13 + o.sel.toNat * 2 ^ 20

/-- The fields of OpX in a word. -/
def OpX.read (w : Nat) : OpX :=
  { sb := BitVec.ofNat 6 (w / 2 ^ 20),
    sa := BitVec.ofNat 6 (w / 2 ^ 13),
    sd := BitVec.ofNat 6 (w / 2 ^ 6) }

/-- OpX as bits of a word. -/
def OpX.bits (o : OpX) : Nat :=
  o.sd.toNat * 2 ^ 6 + o.sa.toNat * 2 ^ 13 + o.sb.toNat * 2 ^ 20

/-- The fields of OpXI in a word. -/
def OpXI.read (w : Nat) : OpXI :=
  { imm := BitVec.ofNat 8 (w / 2 ^ 21),
    sa := BitVec.ofNat 6 (w / 2 ^ 13),
    sd := BitVec.ofNat 6 (w / 2 ^ 6) }

/-- OpXI as bits of a word. -/
def OpXI.bits (o : OpXI) : Nat :=
  o.sd.toNat * 2 ^ 6 + o.sa.toNat * 2 ^ 13 + o.imm.toNat * 2 ^ 21

/-- The fields of OpSmovi in a word. -/
def OpSmovi.read (w : Nat) : OpSmovi :=
  { imm := BitVec.ofNat 8 (w / 2 ^ 21),
    lo := BitVec.ofNat 7 (w / 2 ^ 13),
    sd := BitVec.ofNat 6 (w / 2 ^ 6) }

/-- OpSmovi as bits of a word. -/
def OpSmovi.bits (o : OpSmovi) : Nat :=
  o.sd.toNat * 2 ^ 6 + o.lo.toNat * 2 ^ 13 + o.imm.toNat * 2 ^ 21

/-- The fields of OpX1 in a word. -/
def OpX1.read (w : Nat) : OpX1 :=
  { sa := BitVec.ofNat 6 (w / 2 ^ 13),
    sd := BitVec.ofNat 6 (w / 2 ^ 6) }

/-- OpX1 as bits of a word. -/
def OpX1.bits (o : OpX1) : Nat :=
  o.sd.toNat * 2 ^ 6 + o.sa.toNat * 2 ^ 13

/-- The fields of OpVput in a word. -/
def OpVput.read (w : Nat) : OpVput :=
  { ta := flag w 27,
    n := BitVec.ofNat 7 (w / 2 ^ 20),
    va := BitVec.ofNat 7 (w / 2 ^ 13),
    sd := BitVec.ofNat 6 (w / 2 ^ 6) }

/-- OpVput as bits of a word. -/
def OpVput.bits (o : OpVput) : Nat :=
  o.sd.toNat * 2 ^ 6 + o.va.toNat * 2 ^ 13 + o.n.toNat * 2 ^ 20 + o.ta.toNat * 2 ^ 27

/-- The fields of OpFcvt in a word. -/
def OpFcvt.read (w : Nat) : OpFcvt :=
  { ta := flag w 27,
    tgt := BitVec.ofNat 3 (w / 2 ^ 23),
    src := BitVec.ofNat 3 (w / 2 ^ 20),
    va := BitVec.ofNat 7 (w / 2 ^ 13),
    vd := BitVec.ofNat 7 (w / 2 ^ 6) }

/-- OpFcvt as bits of a word. -/
def OpFcvt.bits (o : OpFcvt) : Nat :=
  o.vd.toNat * 2 ^ 6 + o.va.toNat * 2 ^ 13 + o.src.toNat * 2 ^ 20 + o.tgt.toNat * 2 ^ 23 + o.ta.toNat * 2 ^ 27

/-- The fields of OpIcvt in a word. -/
def OpIcvt.read (w : Nat) : OpIcvt :=
  { ta := flag w 27,
    icode := BitVec.ofNat 4 (w / 2 ^ 23),
    fcode := BitVec.ofNat 3 (w / 2 ^ 20),
    va := BitVec.ofNat 7 (w / 2 ^ 13),
    vd := BitVec.ofNat 7 (w / 2 ^ 6) }

/-- OpIcvt as bits of a word. -/
def OpIcvt.bits (o : OpIcvt) : Nat :=
  o.vd.toNat * 2 ^ 6 + o.va.toNat * 2 ^ 13 + o.fcode.toNat * 2 ^ 20 + o.icode.toNat * 2 ^ 23 + o.ta.toNat * 2 ^ 27

/-- The fields of OpB in a word. -/
def OpB.read (w : Nat) : OpB :=
  { join := BitVec.ofNat 8 (w / 2 ^ 21),
    target := BitVec.ofNat 10 (w / 2 ^ 11),
    sense := flag w 9,
    mreg := BitVec.ofNat 3 (w / 2 ^ 6) }

/-- OpB as bits of a word. -/
def OpB.bits (o : OpB) : Nat :=
  o.mreg.toNat * 2 ^ 6 + o.sense.toNat * 2 ^ 9 + o.target.toNat * 2 ^ 11 + o.join.toNat * 2 ^ 21

/-- The fields of OpBI in a word. -/
def OpBI.read (w : Nat) : OpBI :=
  { join := BitVec.ofNat 8 (w / 2 ^ 21),
    ta := flag w 20,
    va := BitVec.ofNat 7 (w / 2 ^ 13) }

/-- OpBI as bits of a word. -/
def OpBI.bits (o : OpBI) : Nat :=
  o.va.toNat * 2 ^ 13 + o.ta.toNat * 2 ^ 20 + o.join.toNat * 2 ^ 21

/-- The fields of OpImm in a word. -/
def OpImm.read (w : Nat) : OpImm :=
  { imm := BitVec.ofNat 8 (w / 2 ^ 21) }

/-- OpImm as bits of a word. -/
def OpImm.bits (o : OpImm) : Nat :=
  o.imm.toNat * 2 ^ 21

/-- The fields of OpSread in a word. -/
def OpSread.read (w : Nat) : OpSread :=
  { num := BitVec.ofNat 8 (w / 2 ^ 21),
    sd := BitVec.ofNat 6 (w / 2 ^ 6) }

/-- OpSread as bits of a word. -/
def OpSread.bits (o : OpSread) : Nat :=
  o.sd.toNat * 2 ^ 6 + o.num.toNat * 2 ^ 21

/-- The fields of OpSwrite in a word. -/
def OpSwrite.read (w : Nat) : OpSwrite :=
  { num := BitVec.ofNat 8 (w / 2 ^ 21),
    sa := BitVec.ofNat 6 (w / 2 ^ 13) }

/-- OpSwrite as bits of a word. -/
def OpSwrite.bits (o : OpSwrite) : Nat :=
  o.sa.toNat * 2 ^ 13 + o.num.toNat * 2 ^ 21

/-- The fields of OpMC in a word. -/
def OpMC.read (w : Nat) : OpMC :=
  { off := BitVec.ofNat 3 (w / 2 ^ 26),
    cnt := BitVec.ofNat 4 (w / 2 ^ 22),
    ta := flag w 20,
    va := BitVec.ofNat 7 (w / 2 ^ 13) }

/-- OpMC as bits of a word. -/
def OpMC.bits (o : OpMC) : Nat :=
  o.va.toNat * 2 ^ 13 + o.ta.toNat * 2 ^ 20 + o.cnt.toNat * 2 ^ 22 + o.off.toNat * 2 ^ 26

/-- The fields of OpVote in a word. -/
def OpVote.read (w : Nat) : OpVote :=
  { sel := BitVec.ofNat 7 (w / 2 ^ 20),
    ma := BitVec.ofNat 3 (w / 2 ^ 13),
    vd := BitVec.ofNat 7 (w / 2 ^ 6) }

/-- OpVote as bits of a word. -/
def OpVote.bits (o : OpVote) : Nat :=
  o.vd.toNat * 2 ^ 6 + o.ma.toNat * 2 ^ 13 + o.sel.toNat * 2 ^ 20

/-- The fields of OpElect in a word. -/
def OpElect.read (w : Nat) : OpElect :=
  { md := BitVec.ofNat 3 (w / 2 ^ 6) }

/-- OpElect as bits of a word. -/
def OpElect.bits (o : OpElect) : Nat :=
  o.md.toNat * 2 ^ 6

/-- The fields of OpReduce in a word. -/
def OpReduce.read (w : Nat) : OpReduce :=
  { ta := flag w 27,
    op := BitVec.ofNat 4 (w / 2 ^ 20),
    va := BitVec.ofNat 7 (w / 2 ^ 13),
    vd := BitVec.ofNat 7 (w / 2 ^ 6) }

/-- OpReduce as bits of a word. -/
def OpReduce.bits (o : OpReduce) : Nat :=
  o.vd.toNat * 2 ^ 6 + o.va.toNat * 2 ^ 13 + o.op.toNat * 2 ^ 20 + o.ta.toNat * 2 ^ 27

/-- The fields of OpScan in a word. -/
def OpScan.read (w : Nat) : OpScan :=
  { ta := flag w 27,
    op := BitVec.ofNat 5 (w / 2 ^ 20),
    va := BitVec.ofNat 7 (w / 2 ^ 13),
    vd := BitVec.ofNat 7 (w / 2 ^ 6) }

/-- OpScan as bits of a word. -/
def OpScan.bits (o : OpScan) : Nat :=
  o.vd.toNat * 2 ^ 6 + o.va.toNat * 2 ^ 13 + o.op.toNat * 2 ^ 20 + o.ta.toNat * 2 ^ 27

/-- The fields of OpRank in a word. -/
def OpRank.read (w : Nat) : OpRank :=
  { ma := BitVec.ofNat 3 (w / 2 ^ 13),
    vd := BitVec.ofNat 7 (w / 2 ^ 6) }

/-- OpRank as bits of a word. -/
def OpRank.bits (o : OpRank) : Nat :=
  o.vd.toNat * 2 ^ 6 + o.ma.toNat * 2 ^ 13

/-- The fields of OpL in a word. -/
def OpL.read (w : Nat) : OpL :=
  { off := BitVec.ofNat 3 (w / 2 ^ 26),
    cnt := BitVec.ofNat 4 (w / 2 ^ 22),
    ta := flag w 20,
    va := BitVec.ofNat 7 (w / 2 ^ 13),
    vd := BitVec.ofNat 7 (w / 2 ^ 6) }

/-- OpL as bits of a word. -/
def OpL.bits (o : OpL) : Nat :=
  o.vd.toNat * 2 ^ 6 + o.va.toNat * 2 ^ 13 + o.ta.toNat * 2 ^ 20 + o.cnt.toNat * 2 ^ 22 + o.off.toNat * 2 ^ 26

/-- The fields of OpS in a word. -/
def OpS.read (w : Nat) : OpS :=
  { off := BitVec.ofNat 3 (w / 2 ^ 26),
    cnt := BitVec.ofNat 4 (w / 2 ^ 22),
    td := flag w 21,
    ta := flag w 20,
    va := BitVec.ofNat 7 (w / 2 ^ 13),
    vd := BitVec.ofNat 7 (w / 2 ^ 6) }

/-- OpS as bits of a word. -/
def OpS.bits (o : OpS) : Nat :=
  o.vd.toNat * 2 ^ 6 + o.va.toNat * 2 ^ 13 + o.ta.toNat * 2 ^ 20 + o.td.toNat * 2 ^ 21 + o.cnt.toNat * 2 ^ 22 + o.off.toNat * 2 ^ 26

/-- The fields of OpPre in a word. -/
def OpPre.read (w : Nat) : OpPre :=
  { off := BitVec.ofNat 3 (w / 2 ^ 26),
    ta := flag w 20,
    va := BitVec.ofNat 7 (w / 2 ^ 13),
    level := BitVec.ofNat 7 (w / 2 ^ 6) }

/-- OpPre as bits of a word. -/
def OpPre.bits (o : OpPre) : Nat :=
  o.level.toNat * 2 ^ 6 + o.va.toNat * 2 ^ 13 + o.ta.toNat * 2 ^ 20 + o.off.toNat * 2 ^ 26

/-- The fields of OpWaitc in a word. -/
def OpWaitc.read (w : Nat) : OpWaitc :=
  { imm := BitVec.ofNat 8 (w / 2 ^ 21),
    va := BitVec.ofNat 7 (w / 2 ^ 13),
    bySa := flag w 10,
    n := BitVec.ofNat 4 (w / 2 ^ 6) }

/-- OpWaitc as bits of a word. -/
def OpWaitc.bits (o : OpWaitc) : Nat :=
  o.n.toNat * 2 ^ 6 + o.bySa.toNat * 2 ^ 10 + o.va.toNat * 2 ^ 13 + o.imm.toNat * 2 ^ 21

/-- The fields of OpMon in a word. -/
def OpMon.read (w : Nat) : OpMon :=
  { off := BitVec.ofNat 3 (w / 2 ^ 26),
    ta := flag w 20,
    va := BitVec.ofNat 7 (w / 2 ^ 13) }

/-- OpMon as bits of a word. -/
def OpMon.bits (o : OpMon) : Nat :=
  o.va.toNat * 2 ^ 13 + o.ta.toNat * 2 ^ 20 + o.off.toNat * 2 ^ 26

/-- The fields of OpD in a word. -/
def OpD.read (w : Nat) : OpD :=
  { vd := BitVec.ofNat 7 (w / 2 ^ 6) }

/-- OpD as bits of a word. -/
def OpD.bits (o : OpD) : Nat :=
  o.vd.toNat * 2 ^ 6

/-- The fields of OpSpcmp in a word. -/
def OpSpcmp.read (w : Nat) : OpSpcmp :=
  { ta := flag w 27,
    sel := BitVec.ofNat 7 (w / 2 ^ 20),
    va := BitVec.ofNat 7 (w / 2 ^ 13),
    vd := BitVec.ofNat 7 (w / 2 ^ 6) }

/-- OpSpcmp as bits of a word. -/
def OpSpcmp.bits (o : OpSpcmp) : Nat :=
  o.vd.toNat * 2 ^ 6 + o.va.toNat * 2 ^ 13 + o.sel.toNat * 2 ^ 20 + o.ta.toNat * 2 ^ 27

/-- The fields of OpConsort in a word. -/
def OpConsort.read (w : Nat) : OpConsort :=
  { va := BitVec.ofNat 7 (w / 2 ^ 13) }

/-- OpConsort as bits of a word. -/
def OpConsort.bits (o : OpConsort) : Nat :=
  o.va.toNat * 2 ^ 13

/-- The fields of OpFinv in a word. -/
def OpFinv.read (w : Nat) : OpFinv :=
  { tb := flag w 28,
    vb := BitVec.ofNat 7 (w / 2 ^ 20) }

/-- OpFinv as bits of a word. -/
def OpFinv.bits (o : OpFinv) : Nat :=
  o.vb.toNat * 2 ^ 20 + o.tb.toNat * 2 ^ 28

/-- The fields of OpSd in a word. -/
def OpSd.read (w : Nat) : OpSd :=
  { sd := BitVec.ofNat 6 (w / 2 ^ 6) }

/-- OpSd as bits of a word. -/
def OpSd.bits (o : OpSd) : Nat :=
  o.sd.toNat * 2 ^ 6

/-- The fields of Op16 in a word. -/
def Op16.read (w : Nat) : Op16 :=
  { ta := flag w 15,
    va := BitVec.ofNat 5 (w / 2 ^ 10),
    vd := BitVec.ofNat 5 (w / 2 ^ 5) }

/-- Op16 as bits of a word. -/
def Op16.bits (o : Op16) : Nat :=
  o.vd.toNat * 2 ^ 5 + o.va.toNat * 2 ^ 10 + o.ta.toNat * 2 ^ 15

/-- The fields of Op16I in a word. -/
def Op16I.read (w : Nat) : Op16I :=
  { ta := flag w 15,
    imm := BitVec.ofNat 5 (w / 2 ^ 10),
    vd := BitVec.ofNat 5 (w / 2 ^ 5) }

/-- Op16I as bits of a word. -/
def Op16I.bits (o : Op16I) : Nat :=
  o.vd.toNat * 2 ^ 5 + o.imm.toNat * 2 ^ 10 + o.ta.toNat * 2 ^ 15

/-- The fields of Op16M in a word. -/
def Op16M.read (w : Nat) : Op16M :=
  { imm := BitVec.ofNat 5 (w / 2 ^ 10),
    vd := BitVec.ofNat 5 (w / 2 ^ 5) }

/-- Op16M as bits of a word. -/
def Op16M.bits (o : Op16M) : Nat :=
  o.vd.toNat * 2 ^ 5 + o.imm.toNat * 2 ^ 10

/-- Major 0x00, IARITH: the instruction of a minor. -/
def decodeIarith (k w : Nat) : Option Instr :=
  match k with
  | 0 => some (.iadd (OpA.read w))
  | 1 => some (.isub (OpA.read w))
  | 2 => some (.imin (OpA.read w))
  | 3 => some (.imax (OpA.read w))
  | 4 => some (.iminu (OpA.read w))
  | 5 => some (.imaxu (OpA.read w))
  | 6 => some (.iaddc (OpA.read w))
  | 7 => some (.iabsd (OpA.read w))
  | _ => none

/-- Major 0x01, IMULT: the instruction of a minor. -/
def decodeImult (k w : Nat) : Option Instr :=
  match k with
  | 0 => some (.imul (OpA.read w))
  | 1 => some (.imulh (OpA.read w))
  | 2 => some (.imulhu (OpA.read w))
  | 3 => some (.imad (OpA.read w))
  | 4 => some (.idot4 (OpA.read w))
  | 5 => some (.idot4u (OpA.read w))
  | 6 => if fld w 20 7 = 0 ∧ fld w 28 1 = 0 then some (.popc (OpA1.read w))
    else none
  | 7 => if fld w 20 7 = 0 ∧ fld w 28 1 = 0 then some (.clz (OpA1.read w))
    else none
  | _ => none

/-- Major 0x02, LOGIC: the instruction of a minor. -/
def decodeLogic (k w : Nat) : Option Instr :=
  match k with
  | 0 => some (.andB (OpA.read w))
  | 1 => some (.orB (OpA.read w))
  | 2 => some (.xorB (OpA.read w))
  | 3 => some (.andn (OpA.read w))
  | 4 => some (.orn (OpA.read w))
  | 5 => some (.xnor (OpA.read w))
  | 6 => some (.sel (OpA.read w))
  | 7 => if fld w 20 7 = 0 ∧ fld w 28 1 = 0 then some (.brev (OpA1.read w))
    else none
  | _ => none

/-- Major 0x03, SHIFT: the instruction of a minor. -/
def decodeShift (k w : Nat) : Option Instr :=
  match k with
  | 0 => some (.shl (OpA.read w))
  | 1 => some (.shr (OpA.read w))
  | 2 => some (.sar (OpA.read w))
  | 3 => some (.rol (OpA.read w))
  | 4 => some (.ror (OpA.read w))
  | 5 => some (.fshl (OpA.read w))
  | 6 => some (.bfx (OpA.read w))
  | 7 => some (.bfi (OpA.read w))
  | _ => none

/-- Major 0x04, ICMP: the instruction of a minor. -/
def decodeIcmp (k w : Nat) : Option Instr :=
  match k with
  | 0 => if fld w 9 4 = 0 then some (.icmpEq (OpC.read w))
    else none
  | 1 => if fld w 9 4 = 0 then some (.icmpNe (OpC.read w))
    else none
  | 2 => if fld w 9 4 = 0 then some (.icmpLt (OpC.read w))
    else none
  | 3 => if fld w 9 4 = 0 then some (.icmpLe (OpC.read w))
    else none
  | 4 => if fld w 9 4 = 0 then some (.icmpGt (OpC.read w))
    else none
  | 5 => if fld w 9 4 = 0 then some (.icmpGe (OpC.read w))
    else none
  | 6 => if fld w 9 4 = 0 then some (.icmpLtu (OpC.read w))
    else none
  | 7 => if fld w 9 4 = 0 then some (.icmpGeu (OpC.read w))
    else none
  | _ => none

/-- Major 0x05, IMMED: the instruction of a minor. -/
def decodeImmed (k w : Nat) : Option Instr :=
  match k with
  | 0 => some (.iaddi (OpI.read w))
  | 1 => some (.andi (OpI.read w))
  | 2 => some (.ori (OpI.read w))
  | 3 => some (.xori (OpI.read w))
  | 4 => some (.shli (OpI.read w))
  | 5 => some (.shri (OpI.read w))
  | 6 => some (.sari (OpI.read w))
  | 7 => if fld w 20 1 = 0 then some (.movi (OpMovi.read w))
    else none
  | _ => none

/-- Major 0x06, MOVE: the instruction of a minor. -/
def decodeMove (k w : Nat) : Option Instr :=
  match k with
  | 0 => if fld w 20 7 = 0 ∧ fld w 28 1 = 0 then some (.mov (OpA1.read w))
    else none
  | 1 => if fld w 20 7 = 0 ∧ fld w 28 1 = 0 then some (.movhi (OpA1.read w))
    else none
  | 2 => some (.lea (OpA.read w))
  | 3 => some (.pack (OpA.read w))
  | 4 => if fld w 21 6 = 0 ∧ fld w 28 1 = 0 then some (.unpk (OpUnpk.read w))
    else none
  | 5 => some (.perm (OpA.read w))
  | 6 => if fld w 22 5 = 0 ∧ fld w 28 1 = 0 then some (.bcast (OpBcast.read w))
    else none
  | 7 => if fld w 27 2 = 0 then some (.vget (OpVget.read w))
    else none
  | _ => none

/-- Major 0x07, SARITH: the instruction of a minor. -/
def decodeSarith (k w : Nat) : Option Instr :=
  match k with
  | 0 => if fld w 12 1 = 0 ∧ fld w 19 1 = 0 ∧ fld w 26 3 = 0 then some (.sadd (OpX.read w))
    else none
  | 1 => if fld w 12 1 = 0 ∧ fld w 19 1 = 0 ∧ fld w 26 3 = 0 then some (.ssub (OpX.read w))
    else none
  | 2 => if fld w 12 1 = 0 ∧ fld w 19 1 = 0 ∧ fld w 26 3 = 0 then some (.smul (OpX.read w))
    else none
  | 3 => if fld w 12 1 = 0 ∧ fld w 19 1 = 0 ∧ fld w 26 3 = 0 then some (.sand (OpX.read w))
    else none
  | 4 => if fld w 12 1 = 0 ∧ fld w 19 1 = 0 ∧ fld w 26 3 = 0 then some (.sor (OpX.read w))
    else none
  | 5 => if fld w 12 1 = 0 ∧ fld w 19 1 = 0 ∧ fld w 26 3 = 0 then some (.sxor (OpX.read w))
    else none
  | 6 => if fld w 12 1 = 0 ∧ fld w 19 1 = 0 ∧ fld w 26 3 = 0 then some (.sshl (OpX.read w))
    else none
  | 7 => if fld w 12 1 = 0 ∧ fld w 19 1 = 0 ∧ fld w 26 3 = 0 then some (.sshr (OpX.read w))
    else none
  | _ => none

/-- Major 0x08, SMISC: the instruction of a minor. -/
def decodeSmisc (k w : Nat) : Option Instr :=
  match k with
  | 0 => if fld w 12 1 = 0 ∧ fld w 19 2 = 0 then some (.saddi (OpXI.read w))
    else none
  | 1 => if fld w 12 1 = 0 ∧ fld w 20 1 = 0 then some (.smovi (OpSmovi.read w))
    else none
  | 2 => if fld w 12 1 = 0 ∧ fld w 19 1 = 0 ∧ fld w 26 3 = 0 then some (.scmp (OpX.read w))
    else none
  | 3 => if fld w 12 1 = 0 ∧ fld w 19 10 = 0 then some (.smov (OpX1.read w))
    else none
  | 4 => if fld w 12 1 = 0 ∧ fld w 28 1 = 0 then some (.vput (OpVput.read w))
    else none
  | 5 => if fld w 12 1 = 0 ∧ fld w 19 2 = 0 then some (.smovhi (OpXI.read w))
    else none
  | 6 => if fld w 12 1 = 0 ∧ fld w 19 1 = 0 ∧ fld w 26 3 = 0 then some (.ssar (OpX.read w))
    else none
  | 7 => if fld w 12 1 = 0 ∧ fld w 19 1 = 0 ∧ fld w 26 3 = 0 then some (.ssel (OpX.read w))
    else none
  | _ => none

/-- Major 0x09, FARITH: the instruction of a minor. -/
def decodeFarith (k w : Nat) : Option Instr :=
  match k with
  | 0 => some (.fadd (OpA.read w))
  | 1 => some (.fsub (OpA.read w))
  | 2 => some (.fmul (OpA.read w))
  | 3 => some (.fmin (OpA.read w))
  | 4 => some (.fmax (OpA.read w))
  | 5 => some (.fminm (OpA.read w))
  | 6 => some (.fmaxm (OpA.read w))
  | 7 => some (.fcpys (OpA.read w))
  | _ => none

/-- Major 0x0A, FFMA: the instruction of a minor. -/
def decodeFfma (k w : Nat) : Option Instr :=
  match k with
  | 0 => some (.ffma (OpA.read w))
  | 1 => some (.ffms (OpA.read w))
  | 2 => some (.fnma (OpA.read w))
  | 3 => some (.fnms (OpA.read w))
  | 4 => some (.fdot2 (OpA.read w))
  | 5 => some (.fdot4 (OpA.read w))
  | 6 => some (.fscale (OpA.read w))
  | _ => none

/-- Major 0x0B, FCMP: the instruction of a minor. -/
def decodeFcmp (k w : Nat) : Option Instr :=
  match k with
  | 0 => if fld w 9 4 = 0 then some (.fcmpEq (OpC.read w))
    else none
  | 1 => if fld w 9 4 = 0 then some (.fcmpNe (OpC.read w))
    else none
  | 2 => if fld w 9 4 = 0 then some (.fcmpLt (OpC.read w))
    else none
  | 3 => if fld w 9 4 = 0 then some (.fcmpLe (OpC.read w))
    else none
  | 4 => if fld w 9 4 = 0 then some (.fcmpGt (OpC.read w))
    else none
  | 5 => if fld w 9 4 = 0 then some (.fcmpGe (OpC.read w))
    else none
  | 6 => if fld w 9 4 = 0 then some (.fcmpUn (OpC.read w))
    else none
  | 7 => if fld w 9 4 = 0 then some (.fcmpOrd (OpC.read w))
    else none
  | _ => none

/-- Major 0x0C, SFU: the instruction of a minor. -/
def decodeSfu (k w : Nat) : Option Instr :=
  match k with
  | 0 => if fld w 20 7 = 0 ∧ fld w 28 1 = 0 then some (.frcp (OpA1.read w))
    else none
  | 1 => if fld w 20 7 = 0 ∧ fld w 28 1 = 0 then some (.frsq (OpA1.read w))
    else none
  | 2 => if fld w 20 7 = 0 ∧ fld w 28 1 = 0 then some (.fsqrt (OpA1.read w))
    else none
  | 3 => if fld w 20 7 = 0 ∧ fld w 28 1 = 0 then some (.fexp2 (OpA1.read w))
    else none
  | 4 => if fld w 20 7 = 0 ∧ fld w 28 1 = 0 then some (.flog2 (OpA1.read w))
    else none
  | 5 => if fld w 20 7 = 0 ∧ fld w 28 1 = 0 then some (.fsin (OpA1.read w))
    else none
  | 6 => if fld w 20 7 = 0 ∧ fld w 28 1 = 0 then some (.fcos (OpA1.read w))
    else none
  | 7 => if fld w 20 7 = 0 ∧ fld w 28 1 = 0 then some (.ftanh (OpA1.read w))
    else none
  | _ => none

/-- Major 0x0D, CONVERT: the instruction of a minor. -/
def decodeConvert (k w : Nat) : Option Instr :=
  match k with
  | 0 => if fld w 26 1 = 0 ∧ fld w 28 1 = 0 then some (.fcvt (OpFcvt.read w))
    else none
  | 1 => if fld w 28 1 = 0 then some (.icvtf (OpIcvt.read w))
    else none
  | 2 => if fld w 28 1 = 0 then some (.fcvti (OpIcvt.read w))
    else none
  | 3 => if fld w 20 7 = 0 ∧ fld w 28 1 = 0 then some (.fround (OpA1.read w))
    else none
  | 4 => if fld w 20 7 = 0 ∧ fld w 28 1 = 0 then some (.fclass (OpA1.read w))
    else none
  | 5 => if fld w 20 7 = 0 ∧ fld w 28 1 = 0 then some (.dxpack (OpA1.read w))
    else none
  | 6 => if fld w 20 7 = 0 ∧ fld w 28 1 = 0 then some (.dxunpk (OpA1.read w))
    else none
  | 7 => if fld w 20 7 = 0 ∧ fld w 28 1 = 0 then some (.fexpo (OpA1.read w))
    else none
  | _ => none

/-- Major 0x0E, FLOW: the instruction of a minor. -/
def decodeFlow (k w : Nat) : Option Instr :=
  match k with
  | 0 => if fld w 10 1 = 0 then some (.bra (OpB.read w))
    else none
  | 1 => if fld w 6 7 = 0 then some (.brai (OpBI.read w))
    else none
  | 2 => if fld w 10 1 = 0 then some (.call (OpB.read w))
    else none
  | 3 => if fld w 6 7 = 0 then some (.calli (OpBI.read w))
    else none
  | 4 => if fld w 6 23 = 0 then some .ret
    else none
  | 5 => if fld w 6 23 = 0 then some .regang
    else none
  | 6 => if fld w 6 23 = 0 then some .exit
    else none
  | 7 => if fld w 6 23 = 0 then some .yield
    else none
  | _ => none

/-- Major 0x0F, SYSTEM: the instruction of a minor. -/
def decodeSystem (k w : Nat) : Option Instr :=
  match k with
  | 0 => if fld w 6 15 = 0 then some (.trap (OpImm.read w))
    else none
  | 1 => if fld w 6 15 = 0 then some (.bkpt (OpImm.read w))
    else none
  | 2 => if fld w 6 23 = 0 then some .rte
    else none
  | 3 => if fld w 12 9 = 0 then some (.sread (OpSread.read w))
    else none
  | 4 => if fld w 6 7 = 0 ∧ fld w 19 2 = 0 then some (.swrite (OpSwrite.read w))
    else none
  | 5 => if fld w 6 23 = 0 then some .nop
    else none
  | 6 => if fld w 6 15 = 0 then some (.sleep (OpImm.read w))
    else none
  | 7 => if fld w 6 7 = 0 ∧ fld w 21 1 = 0 then some (.cacheIinv (OpMC.read w))
    else if fld w 6 7 = 1 ∧ fld w 21 1 = 0 then some (.cacheL1inv (OpMC.read w))
    else if fld w 6 7 = 2 ∧ fld w 21 1 = 0 then some (.cacheL2clean (OpMC.read w))
    else if fld w 6 7 = 3 ∧ fld w 21 1 = 0 then some (.cacheL2flush (OpMC.read w))
    else none
  | _ => none

/-- Major 0x10, GROUP: the instruction of a minor. -/
def decodeGroup (k w : Nat) : Option Instr :=
  match k with
  | 0 => if fld w 16 4 = 0 ∧ fld w 27 2 = 0 then some (.vote (OpVote.read w))
    else none
  | 1 => if fld w 9 20 = 0 then some (.elect (OpElect.read w))
    else none
  | 2 => if fld w 20 7 = 0 ∧ fld w 28 1 = 0 then some (.matchV (OpA1.read w))
    else none
  | 3 => some (.shfl (OpA.read w))
  | 4 => if fld w 24 3 = 0 ∧ fld w 28 1 = 0 then some (.reduce (OpReduce.read w))
    else none
  | 5 => if fld w 25 2 = 0 ∧ fld w 28 1 = 0 then some (.scan (OpScan.read w))
    else none
  | 6 => if fld w 16 13 = 0 then some (.rank (OpRank.read w))
    else none
  | _ => none

/-- Major 0x11, LD: the instruction of a minor. -/
def decodeLd (k w : Nat) : Option Instr :=
  match k with
  | 0 => if fld w 21 1 = 0 then some (.ldB8u (OpL.read w))
    else none
  | 1 => if fld w 21 1 = 0 then some (.ldB8s (OpL.read w))
    else none
  | 2 => if fld w 21 1 = 0 then some (.ldB16u (OpL.read w))
    else none
  | 3 => if fld w 21 1 = 0 then some (.ldB16s (OpL.read w))
    else none
  | 4 => if fld w 21 1 = 0 then some (.ldB32 (OpL.read w))
    else none
  | 5 => if fld w 21 1 = 0 then some (.ldB64 (OpL.read w))
    else none
  | 6 => if fld w 21 1 = 0 then some (.ldB128 (OpL.read w))
    else none
  | 7 => if fld w 21 1 = 0 then some (.ldc (OpL.read w))
    else none
  | _ => none

/-- Major 0x12, ST: the instruction of a minor. -/
def decodeSt (k w : Nat) : Option Instr :=
  match k with
  | 0 => some (.stB8 (OpS.read w))
  | 1 => some (.stB16 (OpS.read w))
  | 2 => some (.stB32 (OpS.read w))
  | 3 => some (.stB64 (OpS.read w))
  | 4 => some (.stB128 (OpS.read w))
  | 5 => some (.stnt (OpS.read w))
  | 6 => if fld w 21 5 = 0 then some (.prefetch (OpPre.read w))
    else none
  | _ => none

/-- Major 0x13, ATOM: the instruction of a minor. -/
def decodeAtom (k w : Nat) : Option Instr :=
  match k with
  | 0 => some (.atomAdd (OpS.read w))
  | 1 => some (.atomMin (OpS.read w))
  | 2 => some (.atomMax (OpS.read w))
  | 3 => some (.atomAnd (OpS.read w))
  | 4 => some (.atomOr (OpS.read w))
  | 5 => some (.atomXor (OpS.read w))
  | 6 => some (.atomExch (OpS.read w))
  | 7 => some (.atomCas (OpS.read w))
  | _ => none

/-- Major 0x14, ATOMF: the instruction of a minor. -/
def decodeAtomf (k w : Nat) : Option Instr :=
  match k with
  | 0 => some (.atomfFadd32 (OpS.read w))
  | 1 => some (.atomfFadd64 (OpS.read w))
  | 2 => some (.atomfFmin32 (OpS.read w))
  | 3 => some (.atomfFmax32 (OpS.read w))
  | 4 => some (.atomfFaddh2 (OpS.read w))
  | 5 => some (.atomfFaddb2 (OpS.read w))
  | 6 => some (.atomfInc (OpS.read w))
  | 7 => some (.atomfDec (OpS.read w))
  | _ => none

/-- Major 0x15, SYNC: the instruction of a minor. -/
def decodeSync (k w : Nat) : Option Instr :=
  match k with
  | 0 => if fld w 6 23 = 0 then some .fence
    else none
  | 1 => if fld w 11 2 = 0 ∧ fld w 20 1 = 0 then some (.waitc (OpWaitc.read w))
    else none
  | 2 => if fld w 6 7 = 0 ∧ fld w 21 5 = 0 then some (.monitor (OpMon.read w))
    else none
  | 3 => if fld w 6 23 = 0 then some .mwait
    else none
  | 4 => if fld w 13 16 = 0 then some (.settleL (OpD.read w))
    else if fld w 13 16 = 128 then some (.settleT (OpD.read w))
    else if fld w 13 16 = 256 then some (.settleG (OpD.read w))
    else if fld w 13 16 = 384 then some (.settleP (OpD.read w))
    else none
  | 5 => if fld w 6 23 = 0 then some .bar
    else none
  | 6 => if fld w 6 23 = 0 then some .gridsync
    else none
  | 7 => if fld w 6 23 = 0 then some .podsync
    else none
  | _ => none

/-- Major 0x16, DEFER: the instruction of a minor. -/
def decodeDefer (k w : Nat) : Option Instr :=
  match k with
  | 0 => some (.dstStore (OpS.read w))
  | 1 => some (.dstAdd (OpS.read w))
  | 2 => some (.dstFadd (OpS.read w))
  | 3 => some (.dstMin (OpS.read w))
  | 4 => some (.dstMax (OpS.read w))
  | 5 => some (.dstOr (OpS.read w))
  | 6 => some (.dstAnd (OpS.read w))
  | 7 => some (.dstAppend (OpS.read w))
  | _ => none

/-- Major 0x17, MATRIX: the instruction of a minor. -/
def decodeMatrix (k w : Nat) : Option Instr :=
  match k with
  | 0 => some (.mma (OpA.read w))
  | 1 => some (.mmas (OpA.read w))
  | 2 => some (.mmad (OpA.read w))
  | 3 => if fld w 28 1 = 0 then some (.spcmp (OpSpcmp.read w))
    else none
  | 4 => if fld w 20 7 = 0 ∧ fld w 28 1 = 0 then some (.xqt (OpA1.read w))
    else none
  | 5 => if fld w 20 7 = 0 ∧ fld w 28 1 = 0 then some (.smxacc (OpA1.read w))
    else none
  | 6 => some (.smxfin (OpA.read w))
  | 7 => if fld w 13 16 = 0 then some (.accz (OpD.read w))
    else none
  | _ => none

/-- Major 0x18, MATCTL: the instruction of a minor. -/
def decodeMatctl (k w : Nat) : Option Instr :=
  match k with
  | 0 => if fld w 6 7 = 0 ∧ fld w 20 9 = 0 then some (.consort (OpConsort.read w))
    else none
  | 1 => if fld w 6 7 = 0 ∧ fld w 21 1 = 0 then some (.mscale (OpMC.read w))
    else if fld w 6 23 = 1 then some .mscaleOff
    else none
  | 2 => if fld w 20 7 = 0 ∧ fld w 28 1 = 0 then some (.fragt (OpA1.read w))
    else none
  | 3 => if fld w 6 15 = 0 then some (.setfmt (OpImm.read w))
    else none
  | 4 => if fld w 13 16 = 0 then some (.getfmt (OpD.read w))
    else none
  | _ => none

/-- Major 0x19, COPY: the instruction of a minor. -/
def decodeCopy (k w : Nat) : Option Instr :=
  match k with
  | 0 => if fld w 12 1 = 0 ∧ fld w 19 1 = 0 ∧ fld w 26 3 = 0 then some (.cpy (OpX.read w))
    else none
  | 1 => if fld w 12 1 = 0 ∧ fld w 19 1 = 0 ∧ fld w 26 3 = 0 then some (.tcpy (OpX.read w))
    else none
  | 2 => if fld w 12 1 = 0 ∧ fld w 19 1 = 0 ∧ fld w 26 3 = 0 then some (.tcpym (OpX.read w))
    else none
  | 3 => if fld w 12 1 = 0 ∧ fld w 19 1 = 0 ∧ fld w 26 3 = 0 then some (.tstore (OpX.read w))
    else none
  | 4 => if fld w 12 1 = 0 ∧ fld w 19 10 = 0 then some (.rpush (OpX1.read w))
    else none
  | 5 => if fld w 12 1 = 0 ∧ fld w 19 10 = 0 then some (.rpop (OpX1.read w))
    else none
  | 6 => if fld w 12 1 = 0 ∧ fld w 19 1 = 0 ∧ fld w 26 3 = 0 then some (.rwait (OpX.read w))
    else none
  | _ => none

/-- Major 0x1A, BARRIER: the instruction of a minor. -/
def decodeBarrier (k w : Nat) : Option Instr :=
  match k with
  | 0 => if fld w 12 1 = 0 ∧ fld w 19 1 = 0 ∧ fld w 26 3 = 0 then some (.binit (OpX.read w))
    else none
  | 1 => if fld w 12 1 = 0 ∧ fld w 19 1 = 0 ∧ fld w 26 3 = 0 then some (.barv (OpX.read w))
    else none
  | 2 => if fld w 12 1 = 0 ∧ fld w 19 1 = 0 ∧ fld w 26 3 = 0 then some (.bwait (OpX.read w))
    else none
  | 3 => if fld w 12 1 = 0 ∧ fld w 19 1 = 0 ∧ fld w 26 3 = 0 then some (.btest (OpX.read w))
    else none
  | 4 => if fld w 12 1 = 0 ∧ fld w 19 1 = 0 ∧ fld w 26 3 = 0 then some (.bexpect (OpX.read w))
    else none
  | 5 => if fld w 12 1 = 0 ∧ fld w 19 10 = 0 then some (.binval (OpX1.read w))
    else none
  | _ => none

/-- Major 0x1B, TILE: the instruction of a minor. -/
def decodeTile (k w : Nat) : Option Instr :=
  match k with
  | 0 => if fld w 12 1 = 0 ∧ fld w 19 10 = 0 then some (.tmint (OpX1.read w))
    else none
  | 1 => if fld w 12 1 = 0 ∧ fld w 19 10 = 0 then some (.tfree (OpX1.read w))
    else none
  | 2 => if fld w 12 1 = 0 ∧ fld w 19 1 = 0 ∧ fld w 26 3 = 0 then some (.tacq (OpX.read w))
    else none
  | 3 => if fld w 12 1 = 0 ∧ fld w 19 10 = 0 then some (.trel (OpX1.read w))
    else none
  | 4 => if fld w 12 1 = 0 ∧ fld w 19 1 = 0 ∧ fld w 26 3 = 0 then some (.tsplit (OpX.read w))
    else none
  | 5 => if fld w 12 1 = 0 ∧ fld w 19 1 = 0 ∧ fld w 26 3 = 0 then some (.tmerge (OpX.read w))
    else none
  | 6 => if fld w 12 1 = 0 ∧ fld w 19 10 = 0 then some (.tstat (OpX1.read w))
    else none
  | 7 => if fld w 12 1 = 0 ∧ fld w 19 10 = 0 then some (.tdown (OpX1.read w))
    else none
  | _ => none

/-- Major 0x1C, FETCH: the instruction of a minor. -/
def decodeFetch (k w : Nat) : Option Instr :=
  match k with
  | 0 => some (.fetch (OpA.read w))
  | 1 => some (.fetchx (OpA.read w))
  | 2 => some (.fetchs (OpA.read w))
  | 3 => if fld w 6 14 = 0 ∧ fld w 27 1 = 0 then some (.finv (OpFinv.read w))
    else none
  | _ => none

/-- Major 0x1D, TASK: the instruction of a minor. -/
def decodeTask (k w : Nat) : Option Instr :=
  match k with
  | 0 => if fld w 12 1 = 0 ∧ fld w 19 10 = 0 then some (.spawn (OpX1.read w))
    else none
  | 1 => if fld w 12 17 = 0 then some (.joinTask (OpSd.read w))
    else if fld w 12 17 = 256 then some (.joinPoll (OpSd.read w))
    else none
  | 2 => if fld w 12 1 = 0 ∧ fld w 19 1 = 0 ∧ fld w 26 3 = 0 then some (.launchCmd (OpX.read w))
    else none
  | 3 => if fld w 12 17 = 0 then some (.taskend (OpSd.read w))
    else none
  | 4 => if fld w 12 1 = 0 ∧ fld w 19 10 = 0 then some (.qstat (OpX1.read w))
    else none
  | _ => none

/-- Major 0x1E, FABRIC: the instruction of a minor. -/
def decodeFabric (k w : Nat) : Option Instr :=
  match k with
  | 0 => if fld w 12 1 = 0 ∧ fld w 19 1 = 0 ∧ fld w 26 3 = 0 then some (.rshard (OpX.read w))
    else none
  | 1 => if fld w 12 1 = 0 ∧ fld w 19 10 = 0 then some (.rspoll (OpX1.read w))
    else none
  | 2 => if fld w 12 1 = 0 ∧ fld w 19 10 = 0 then some (.migrate (OpX1.read w))
    else none
  | 3 => if fld w 12 17 = 0 then some (.peerid (OpSd.read w))
    else if fld w 12 1 = 0 ∧ fld w 19 10 = 2 then some (.peeridQ (OpX1.read w))
    else none
  | _ => none

/-- The 32-bit instruction of a word, by major and minor (R49, R68). -/
def decodeLong (w : Nat) : Option Instr :=
  match w / 2 % 32 with
  | 0 => decodeIarith (w / 2 ^ 29 % 8) w
  | 1 => decodeImult (w / 2 ^ 29 % 8) w
  | 2 => decodeLogic (w / 2 ^ 29 % 8) w
  | 3 => decodeShift (w / 2 ^ 29 % 8) w
  | 4 => decodeIcmp (w / 2 ^ 29 % 8) w
  | 5 => decodeImmed (w / 2 ^ 29 % 8) w
  | 6 => decodeMove (w / 2 ^ 29 % 8) w
  | 7 => decodeSarith (w / 2 ^ 29 % 8) w
  | 8 => decodeSmisc (w / 2 ^ 29 % 8) w
  | 9 => decodeFarith (w / 2 ^ 29 % 8) w
  | 10 => decodeFfma (w / 2 ^ 29 % 8) w
  | 11 => decodeFcmp (w / 2 ^ 29 % 8) w
  | 12 => decodeSfu (w / 2 ^ 29 % 8) w
  | 13 => decodeConvert (w / 2 ^ 29 % 8) w
  | 14 => decodeFlow (w / 2 ^ 29 % 8) w
  | 15 => decodeSystem (w / 2 ^ 29 % 8) w
  | 16 => decodeGroup (w / 2 ^ 29 % 8) w
  | 17 => decodeLd (w / 2 ^ 29 % 8) w
  | 18 => decodeSt (w / 2 ^ 29 % 8) w
  | 19 => decodeAtom (w / 2 ^ 29 % 8) w
  | 20 => decodeAtomf (w / 2 ^ 29 % 8) w
  | 21 => decodeSync (w / 2 ^ 29 % 8) w
  | 22 => decodeDefer (w / 2 ^ 29 % 8) w
  | 23 => decodeMatrix (w / 2 ^ 29 % 8) w
  | 24 => decodeMatctl (w / 2 ^ 29 % 8) w
  | 25 => decodeCopy (w / 2 ^ 29 % 8) w
  | 26 => decodeBarrier (w / 2 ^ 29 % 8) w
  | 27 => decodeTile (w / 2 ^ 29 % 8) w
  | 28 => decodeFetch (w / 2 ^ 29 % 8) w
  | 29 => decodeTask (w / 2 ^ 29 % 8) w
  | 30 => decodeFabric (w / 2 ^ 29 % 8) w
  | _ => none

/-- The 16-bit instruction of a halfword (R46, R47); MOVI with ta = 1 is no encoding (R48). -/
def decodeShort (w : Nat) : Option Instr :=
  match w / 2 % 16 with
  | 0 => some (.mov16 (Op16.read w))
  | 1 => some (.iadd16 (Op16.read w))
  | 2 => some (.isub16 (Op16.read w))
  | 3 => some (.and16 (Op16.read w))
  | 4 => some (.or16 (Op16.read w))
  | 5 => some (.xor16 (Op16.read w))
  | 6 => some (.shl16 (Op16.read w))
  | 7 => some (.shr16 (Op16.read w))
  | 8 => some (.fadd16 (Op16.read w))
  | 9 => some (.fsub16 (Op16.read w))
  | 10 => some (.fmul16 (Op16.read w))
  | 11 => some (.fmax16 (Op16.read w))
  | 12 => some (.iaddi16 (Op16I.read w))
  | 13 => if fld w 15 1 = 0 then some (.movi16 (Op16M.read w)) else none
  | 14 => some (.ld16 (Op16.read w))
  | 15 => some (.imul16 (Op16.read w))
  | _ => none

/-- What the word at a PC is: an instruction, with its length in bytes; a prefix; or no encoding (R43,
R56, R62, R65, R69). -/
inductive Decoded where
  | instr (i : Instr) (len : Nat)
  | modp (m : Modp)
  | pblk (p : Pblk)
  | immx (p : Nat)
  | badModp
  | reserved
  deriving DecidableEq, Repr

/-- The fields of a MODP word (R56). -/
def Modp.read (w : Nat) : Modp :=
  { sat := flag w 25, alt := flag w 24, pack := BitVec.ofNat 2 (w / 2 ^ 22), tc := flag w 21,
    vc := BitVec.ofNat 7 (w / 2 ^ 14), rnd := BitVec.ofNat 3 (w / 2 ^ 11), zi := flag w 10,
    mask := BitVec.ofNat 3 (w / 2 ^ 6) }

/-- A MODP word. -/
def Modp.word (m : Modp) : Nat :=
  63 + m.mask.toNat * 2 ^ 6 + m.zi.toNat * 2 ^ 10 + m.rnd.toNat * 2 ^ 11 + m.vc.toNat * 2 ^ 14 +
    m.tc.toNat * 2 ^ 21 + m.pack.toNat * 2 ^ 22 + m.alt.toNat * 2 ^ 24 + m.sat.toNat * 2 ^ 25

/-- The fields of a PBLK word (R62). -/
def Pblk.read (w : Nat) : Pblk :=
  { pattern := BitVec.ofNat 8 (w / 2 ^ 12), count := BitVec.ofNat 3 (w / 2 ^ 9),
    mask := BitVec.ofNat 3 (w / 2 ^ 6) }

/-- Pattern bits at or above count + 1 are 0 (R62). -/
def Pblk.patternOk (p : Pblk) : Bool := decide (p.pattern.toNat < 2 ^ (p.count.toNat + 1))

/-- The prefix word of major 0x1F (R56, R62, R65, R69): the reserved bits of its own layout are 0; a MODP that breaks this
is still a prefix of the words behind it. -/
def decodePrefix (w : Nat) : Decoded :=
  match w / 2 ^ 29 % 8 with
  | 0 => if fld w 26 3 = 0 ∧ fld w 9 1 = 0 then .modp (Modp.read w) else .badModp
  | 1 => if fld w 20 9 = 0 ∧ (Pblk.read w).patternOk then .pblk (Pblk.read w) else .reserved
  | 2 => .immx (fld w 6 23)
  | _ => .reserved

/-- The word whose low 32 bits stand at a PC, framed by its bit 0 (R43). -/
def decodeWord (w : Nat) : Decoded :=
  if w % 2 = 0 then
    match decodeShort (w % 2 ^ 16) with
    | some i => .instr i 2
    | none => .reserved
  else if w / 2 % 32 = 31 then decodePrefix (w % 2 ^ 32)
  else
    match decodeLong (w % 2 ^ 32) with
    | some i => .instr i 4
    | none => .reserved

/-- The instruction the decoder reads from a word of `nbits` bits with zeros above. -/
def decodeTableWord (nbits w : Nat) : Option Instr :=
  match decodeWord (w % 2 ^ nbits) with
  | .instr i _ => some i
  | _ => none

/-- The word of an instruction and its length in bits; an event has none. -/
def encode (i : Instr) : Option (Nat × Nat) :=
  match i with
  | .iadd o => some (32, 0x1 + o.bits)
  | .isub o => some (32, 0x20000001 + o.bits)
  | .imin o => some (32, 0x40000001 + o.bits)
  | .imax o => some (32, 0x60000001 + o.bits)
  | .iminu o => some (32, 0x80000001 + o.bits)
  | .imaxu o => some (32, 0xA0000001 + o.bits)
  | .iaddc o => some (32, 0xC0000001 + o.bits)
  | .iabsd o => some (32, 0xE0000001 + o.bits)
  | .imul o => some (32, 0x3 + o.bits)
  | .imulh o => some (32, 0x20000003 + o.bits)
  | .imulhu o => some (32, 0x40000003 + o.bits)
  | .imad o => some (32, 0x60000003 + o.bits)
  | .idot4 o => some (32, 0x80000003 + o.bits)
  | .idot4u o => some (32, 0xA0000003 + o.bits)
  | .popc o => some (32, 0xC0000003 + o.bits)
  | .clz o => some (32, 0xE0000003 + o.bits)
  | .andB o => some (32, 0x5 + o.bits)
  | .orB o => some (32, 0x20000005 + o.bits)
  | .xorB o => some (32, 0x40000005 + o.bits)
  | .andn o => some (32, 0x60000005 + o.bits)
  | .orn o => some (32, 0x80000005 + o.bits)
  | .xnor o => some (32, 0xA0000005 + o.bits)
  | .sel o => some (32, 0xC0000005 + o.bits)
  | .brev o => some (32, 0xE0000005 + o.bits)
  | .shl o => some (32, 0x7 + o.bits)
  | .shr o => some (32, 0x20000007 + o.bits)
  | .sar o => some (32, 0x40000007 + o.bits)
  | .rol o => some (32, 0x60000007 + o.bits)
  | .ror o => some (32, 0x80000007 + o.bits)
  | .fshl o => some (32, 0xA0000007 + o.bits)
  | .bfx o => some (32, 0xC0000007 + o.bits)
  | .bfi o => some (32, 0xE0000007 + o.bits)
  | .icmpEq o => some (32, 0x9 + o.bits)
  | .icmpNe o => some (32, 0x20000009 + o.bits)
  | .icmpLt o => some (32, 0x40000009 + o.bits)
  | .icmpLe o => some (32, 0x60000009 + o.bits)
  | .icmpGt o => some (32, 0x80000009 + o.bits)
  | .icmpGe o => some (32, 0xA0000009 + o.bits)
  | .icmpLtu o => some (32, 0xC0000009 + o.bits)
  | .icmpGeu o => some (32, 0xE0000009 + o.bits)
  | .iaddi o => some (32, 0xB + o.bits)
  | .andi o => some (32, 0x2000000B + o.bits)
  | .ori o => some (32, 0x4000000B + o.bits)
  | .xori o => some (32, 0x6000000B + o.bits)
  | .shli o => some (32, 0x8000000B + o.bits)
  | .shri o => some (32, 0xA000000B + o.bits)
  | .sari o => some (32, 0xC000000B + o.bits)
  | .movi o => some (32, 0xE000000B + o.bits)
  | .mov o => some (32, 0xD + o.bits)
  | .movhi o => some (32, 0x2000000D + o.bits)
  | .lea o => some (32, 0x4000000D + o.bits)
  | .pack o => some (32, 0x6000000D + o.bits)
  | .unpk o => some (32, 0x8000000D + o.bits)
  | .perm o => some (32, 0xA000000D + o.bits)
  | .bcast o => some (32, 0xC000000D + o.bits)
  | .vget o => some (32, 0xE000000D + o.bits)
  | .sadd o => some (32, 0xF + o.bits)
  | .ssub o => some (32, 0x2000000F + o.bits)
  | .smul o => some (32, 0x4000000F + o.bits)
  | .sand o => some (32, 0x6000000F + o.bits)
  | .sor o => some (32, 0x8000000F + o.bits)
  | .sxor o => some (32, 0xA000000F + o.bits)
  | .sshl o => some (32, 0xC000000F + o.bits)
  | .sshr o => some (32, 0xE000000F + o.bits)
  | .saddi o => some (32, 0x11 + o.bits)
  | .smovi o => some (32, 0x20000011 + o.bits)
  | .scmp o => some (32, 0x40000011 + o.bits)
  | .smov o => some (32, 0x60000011 + o.bits)
  | .vput o => some (32, 0x80000011 + o.bits)
  | .smovhi o => some (32, 0xA0000011 + o.bits)
  | .ssar o => some (32, 0xC0000011 + o.bits)
  | .ssel o => some (32, 0xE0000011 + o.bits)
  | .fadd o => some (32, 0x13 + o.bits)
  | .fsub o => some (32, 0x20000013 + o.bits)
  | .fmul o => some (32, 0x40000013 + o.bits)
  | .fmin o => some (32, 0x60000013 + o.bits)
  | .fmax o => some (32, 0x80000013 + o.bits)
  | .fminm o => some (32, 0xA0000013 + o.bits)
  | .fmaxm o => some (32, 0xC0000013 + o.bits)
  | .fcpys o => some (32, 0xE0000013 + o.bits)
  | .ffma o => some (32, 0x15 + o.bits)
  | .ffms o => some (32, 0x20000015 + o.bits)
  | .fnma o => some (32, 0x40000015 + o.bits)
  | .fnms o => some (32, 0x60000015 + o.bits)
  | .fdot2 o => some (32, 0x80000015 + o.bits)
  | .fdot4 o => some (32, 0xA0000015 + o.bits)
  | .fscale o => some (32, 0xC0000015 + o.bits)
  | .fcmpEq o => some (32, 0x17 + o.bits)
  | .fcmpNe o => some (32, 0x20000017 + o.bits)
  | .fcmpLt o => some (32, 0x40000017 + o.bits)
  | .fcmpLe o => some (32, 0x60000017 + o.bits)
  | .fcmpGt o => some (32, 0x80000017 + o.bits)
  | .fcmpGe o => some (32, 0xA0000017 + o.bits)
  | .fcmpUn o => some (32, 0xC0000017 + o.bits)
  | .fcmpOrd o => some (32, 0xE0000017 + o.bits)
  | .frcp o => some (32, 0x19 + o.bits)
  | .frsq o => some (32, 0x20000019 + o.bits)
  | .fsqrt o => some (32, 0x40000019 + o.bits)
  | .fexp2 o => some (32, 0x60000019 + o.bits)
  | .flog2 o => some (32, 0x80000019 + o.bits)
  | .fsin o => some (32, 0xA0000019 + o.bits)
  | .fcos o => some (32, 0xC0000019 + o.bits)
  | .ftanh o => some (32, 0xE0000019 + o.bits)
  | .fcvt o => some (32, 0x1B + o.bits)
  | .icvtf o => some (32, 0x2000001B + o.bits)
  | .fcvti o => some (32, 0x4000001B + o.bits)
  | .fround o => some (32, 0x6000001B + o.bits)
  | .fclass o => some (32, 0x8000001B + o.bits)
  | .dxpack o => some (32, 0xA000001B + o.bits)
  | .dxunpk o => some (32, 0xC000001B + o.bits)
  | .fexpo o => some (32, 0xE000001B + o.bits)
  | .bra o => some (32, 0x1D + o.bits)
  | .brai o => some (32, 0x2000001D + o.bits)
  | .call o => some (32, 0x4000001D + o.bits)
  | .calli o => some (32, 0x6000001D + o.bits)
  | .ret => some (32, 0x8000001D)
  | .regang => some (32, 0xA000001D)
  | .exit => some (32, 0xC000001D)
  | .yield => some (32, 0xE000001D)
  | .trap o => some (32, 0x1F + o.bits)
  | .bkpt o => some (32, 0x2000001F + o.bits)
  | .rte => some (32, 0x4000001F)
  | .sread o => some (32, 0x6000001F + o.bits)
  | .swrite o => some (32, 0x8000001F + o.bits)
  | .nop => some (32, 0xA000001F)
  | .sleep o => some (32, 0xC000001F + o.bits)
  | .cacheIinv o => some (32, 0xE000001F + o.bits)
  | .cacheL1inv o => some (32, 0xE000005F + o.bits)
  | .cacheL2clean o => some (32, 0xE000009F + o.bits)
  | .cacheL2flush o => some (32, 0xE00000DF + o.bits)
  | .vote o => some (32, 0x21 + o.bits)
  | .elect o => some (32, 0x20000021 + o.bits)
  | .matchV o => some (32, 0x40000021 + o.bits)
  | .shfl o => some (32, 0x60000021 + o.bits)
  | .reduce o => some (32, 0x80000021 + o.bits)
  | .scan o => some (32, 0xA0000021 + o.bits)
  | .rank o => some (32, 0xC0000021 + o.bits)
  | .ldB8u o => some (32, 0x23 + o.bits)
  | .ldB8s o => some (32, 0x20000023 + o.bits)
  | .ldB16u o => some (32, 0x40000023 + o.bits)
  | .ldB16s o => some (32, 0x60000023 + o.bits)
  | .ldB32 o => some (32, 0x80000023 + o.bits)
  | .ldB64 o => some (32, 0xA0000023 + o.bits)
  | .ldB128 o => some (32, 0xC0000023 + o.bits)
  | .ldc o => some (32, 0xE0000023 + o.bits)
  | .stB8 o => some (32, 0x25 + o.bits)
  | .stB16 o => some (32, 0x20000025 + o.bits)
  | .stB32 o => some (32, 0x40000025 + o.bits)
  | .stB64 o => some (32, 0x60000025 + o.bits)
  | .stB128 o => some (32, 0x80000025 + o.bits)
  | .stnt o => some (32, 0xA0000025 + o.bits)
  | .prefetch o => some (32, 0xC0000025 + o.bits)
  | .atomAdd o => some (32, 0x27 + o.bits)
  | .atomMin o => some (32, 0x20000027 + o.bits)
  | .atomMax o => some (32, 0x40000027 + o.bits)
  | .atomAnd o => some (32, 0x60000027 + o.bits)
  | .atomOr o => some (32, 0x80000027 + o.bits)
  | .atomXor o => some (32, 0xA0000027 + o.bits)
  | .atomExch o => some (32, 0xC0000027 + o.bits)
  | .atomCas o => some (32, 0xE0000027 + o.bits)
  | .atomfFadd32 o => some (32, 0x29 + o.bits)
  | .atomfFadd64 o => some (32, 0x20000029 + o.bits)
  | .atomfFmin32 o => some (32, 0x40000029 + o.bits)
  | .atomfFmax32 o => some (32, 0x60000029 + o.bits)
  | .atomfFaddh2 o => some (32, 0x80000029 + o.bits)
  | .atomfFaddb2 o => some (32, 0xA0000029 + o.bits)
  | .atomfInc o => some (32, 0xC0000029 + o.bits)
  | .atomfDec o => some (32, 0xE0000029 + o.bits)
  | .fence => some (32, 0x2B)
  | .waitc o => some (32, 0x2000002B + o.bits)
  | .monitor o => some (32, 0x4000002B + o.bits)
  | .mwait => some (32, 0x6000002B)
  | .settleL o => some (32, 0x8000002B + o.bits)
  | .settleT o => some (32, 0x8010002B + o.bits)
  | .settleG o => some (32, 0x8020002B + o.bits)
  | .settleP o => some (32, 0x8030002B + o.bits)
  | .bar => some (32, 0xA000002B)
  | .gridsync => some (32, 0xC000002B)
  | .podsync => some (32, 0xE000002B)
  | .dstStore o => some (32, 0x2D + o.bits)
  | .dstAdd o => some (32, 0x2000002D + o.bits)
  | .dstFadd o => some (32, 0x4000002D + o.bits)
  | .dstMin o => some (32, 0x6000002D + o.bits)
  | .dstMax o => some (32, 0x8000002D + o.bits)
  | .dstOr o => some (32, 0xA000002D + o.bits)
  | .dstAnd o => some (32, 0xC000002D + o.bits)
  | .dstAppend o => some (32, 0xE000002D + o.bits)
  | .mma o => some (32, 0x2F + o.bits)
  | .mmas o => some (32, 0x2000002F + o.bits)
  | .mmad o => some (32, 0x4000002F + o.bits)
  | .spcmp o => some (32, 0x6000002F + o.bits)
  | .xqt o => some (32, 0x8000002F + o.bits)
  | .smxacc o => some (32, 0xA000002F + o.bits)
  | .smxfin o => some (32, 0xC000002F + o.bits)
  | .accz o => some (32, 0xE000002F + o.bits)
  | .consort o => some (32, 0x31 + o.bits)
  | .mscale o => some (32, 0x20000031 + o.bits)
  | .mscaleOff => some (32, 0x20000071)
  | .fragt o => some (32, 0x40000031 + o.bits)
  | .setfmt o => some (32, 0x60000031 + o.bits)
  | .getfmt o => some (32, 0x80000031 + o.bits)
  | .cpy o => some (32, 0x33 + o.bits)
  | .tcpy o => some (32, 0x20000033 + o.bits)
  | .tcpym o => some (32, 0x40000033 + o.bits)
  | .tstore o => some (32, 0x60000033 + o.bits)
  | .rpush o => some (32, 0x80000033 + o.bits)
  | .rpop o => some (32, 0xA0000033 + o.bits)
  | .rwait o => some (32, 0xC0000033 + o.bits)
  | .binit o => some (32, 0x35 + o.bits)
  | .barv o => some (32, 0x20000035 + o.bits)
  | .bwait o => some (32, 0x40000035 + o.bits)
  | .btest o => some (32, 0x60000035 + o.bits)
  | .bexpect o => some (32, 0x80000035 + o.bits)
  | .binval o => some (32, 0xA0000035 + o.bits)
  | .tmint o => some (32, 0x37 + o.bits)
  | .tfree o => some (32, 0x20000037 + o.bits)
  | .tacq o => some (32, 0x40000037 + o.bits)
  | .trel o => some (32, 0x60000037 + o.bits)
  | .tsplit o => some (32, 0x80000037 + o.bits)
  | .tmerge o => some (32, 0xA0000037 + o.bits)
  | .tstat o => some (32, 0xC0000037 + o.bits)
  | .tdown o => some (32, 0xE0000037 + o.bits)
  | .fetch o => some (32, 0x39 + o.bits)
  | .fetchx o => some (32, 0x20000039 + o.bits)
  | .fetchs o => some (32, 0x40000039 + o.bits)
  | .finv o => some (32, 0x60000039 + o.bits)
  | .spawn o => some (32, 0x3B + o.bits)
  | .joinTask o => some (32, 0x2000003B + o.bits)
  | .joinPoll o => some (32, 0x2010003B + o.bits)
  | .launchCmd o => some (32, 0x4000003B + o.bits)
  | .taskend o => some (32, 0x6000003B + o.bits)
  | .qstat o => some (32, 0x8000003B + o.bits)
  | .rshard o => some (32, 0x3D + o.bits)
  | .rspoll o => some (32, 0x2000003D + o.bits)
  | .migrate o => some (32, 0x4000003D + o.bits)
  | .peerid o => some (32, 0x6000003D + o.bits)
  | .peeridQ o => some (32, 0x6010003D + o.bits)
  | .mov16 o => some (16, 0x0 + o.bits)
  | .iadd16 o => some (16, 0x2 + o.bits)
  | .isub16 o => some (16, 0x4 + o.bits)
  | .and16 o => some (16, 0x6 + o.bits)
  | .or16 o => some (16, 0x8 + o.bits)
  | .xor16 o => some (16, 0xA + o.bits)
  | .shl16 o => some (16, 0xC + o.bits)
  | .shr16 o => some (16, 0xE + o.bits)
  | .fadd16 o => some (16, 0x10 + o.bits)
  | .fsub16 o => some (16, 0x12 + o.bits)
  | .fmul16 o => some (16, 0x14 + o.bits)
  | .fmax16 o => some (16, 0x16 + o.bits)
  | .iaddi16 o => some (16, 0x18 + o.bits)
  | .movi16 o => some (16, 0x1A + o.bits)
  | .ld16 o => some (16, 0x1C + o.bits)
  | .imul16 o => some (16, 0x1E + o.bits)
  | .replyLand => none
  | .storePerformed => none
  | .sfuResult => none
  | .matrixDeliver => none
  | .jointStart => none
  | .rendezvousTimeout => none
  | .lateFaultDelivery => none
  | .barrierStall => none
  | .splitStarved => none
  | .mwaitWake => none
  | .mwaitTimeout => none
  | .sleepExpiry => none
  | .rngseedWrite => none
  | .homeAccess => none
  | .recallRelease => none
  | .recallRetry => none
  | .invalidation => none
  | .regionMerge => none
  | .tenureGrant => none
  | .tenureTimeout => none
  | .copyStart => none
  | .copyComplete => none
  | .logDrain => none
  | .binAgeExpiry => none
  | .ingressBin => none
  | .binApply => none
  | .binAck => none
  | .refusalNotice => none
  | .settleComplete => none
  | .doorbell => none
  | .queueNop => none
  | .queueLaunch => none
  | .queueEvent => none
  | .eventWrite => none
  | .queueWait => none
  | .waitRecheck => none
  | .queueInval => none
  | .invalTeardown => none
  | .resumeReplay => none
  | .resumeCancel => none
  | .resumeUnitpc => none
  | .resumeNext => none
  | .resumeAbort => none
  | .sealRetry => none
  | .dispatchStep => none
  | .teamSave => none
  | .gridRetire => none
  | .watchdog => none
  | .taskRetire => none
  | .pageWalk => none
  | .faultQueueWrite => none
  | .debugHalt => none
  | .singleStep => none
  | .debugResume => none
  | .hostRegWrite => none
  | .bar0BadAccess => none
  | .chipcarveWrite => none
  | .chipcarveApply => none
  | .resctlWrite => none
  | .hostBar2Read => none
  | .hostBar2Write => none
  | .keyLoad => none
  | .bringUp => none
  | .stageTimeout => none
  | .setPowerCap => none
  | .clockLower => none
  | .clockRaise => none
  | .thermalTrip => none
  | .fwImageWrite => none
  | .liveUpdate => none
  | .aliveMsg => none
  | .updateRollback => none
  | .floorRaise => none
  | .lifetimeRead => none
  | .lifetimePersist => none
  | .powerDown => none
  | .getVersion => none
  | .getCapabilities => none
  | .negotiateAlgorithms => none
  | .getDigests => none
  | .getCertificate => none
  | .challenge => none
  | .getMeasurements => none
  | .setArrears => none
  | .migrationPool => none
  | .podJobRegister => none
  | .podArrivalMsg => none
  | .podCompletionMsg => none
  | .flitReceive => none
  | .linkRetrain => none
  | .arrearsWin => none
  | .remoteAccess => none
  | .remoteStoreAck => none
  | .deliveryTimeout => none
  | .migrationRun => none
  | .reshardAccept => none
  | .reshardStepComplete => none
  | .progressWrite => none
  | .reshardEnd => none
  | .reshardStop => none
  | .powerLoss => none
  | .dbgctlHostWrite => none
  | .stepCancel => none
  | .histogramMinute => none

end Sys2Proof
end

