-- ==== Sys2Proof/Machine/Front.lean ====
section
/-! DEFINITION. The front of an issue: which splits may issue (R146, R176, R219), instruction fetch through the
instruction cache (R43, R45, R176), the prefixes of a unit (R44, R56, R62, R65 to R67), and the latch of a PBLK
(R62). -/

namespace Sys2Proof.Machine

/-! ### Readiness (R146) -/

/-- A split stands at an issue boundary and may be examined: neither parked nor waiting for a record, not halted unless
it is the one stepped, its team running, no late fault to take first, no access of its last unit held (R146, R176,
R217, R219, R220). -/
def State.ready (s : State) (p : Split) : Bool :=
  let g := s.grp ⟨p.team, p.group⟩
  decide (p.park = .run ∧ p.late = [] ∧ (s.team p.team).status = .running) && !p.wait &&
    (!g.halted || (g.stepping && decide (g.stopped = some p.sid))) &&
    !(s.grid (s.team p.team).grid).aborted &&
    s.k.acc.all fun a => !(decide (a.sid = p.sid) && match a.phase with | .held _ => true | _ => false)

/-! ### Fetch -/

/-- What a fetch of a halfword finds: its value, a fault of translation that is held (R176) or POISON (R177, R215), or a page held
for a migration (R424). -/
inductive Fetched where
  | half (h : Nat) (s : State)
  | hold (code addr : Nat)
  | wait

/-- A page whose lines an instruction cache may hold: not deferred, not in the host window, local or cached-remote (R376,
R422, R423). -/
def State.fetchCached (s : State) (lf : Leaf) (pa : Nat) : Bool :=
  !lf.df && !inHost pa && decide (s.modeOf lf = 0 ∨ s.modeOf lf = 2)

/-- What a fetch meets at the home of a local line that the instruction cache lacks: its MSC tag and its L2 line (R257,
R377, R378). -/
def State.fetchTouch (s : State) (core asid chain : Nat) (lf : Leaf) (pa loc : Nat) : State :=
  if inHost pa ∨ s.modeOf lf ≠ 0 then s
  else
    let s := s.mscTouch loc pa lf.key (some (core / 192, chain)) false
    if lf.df then s else s.l2Touch (homeDie lf.il pa) pa loc (!lf.ut) false core asid

/-- Fetch the halfword at an address, the i-th of its unit, for a grid of a chain. A halfword of a line that the
instruction cache holds is its old value or the current one, a free choice (R45); a poisoned one, or one that comes from a retired
channel, gives POISON (R177, R215, R391; log entry 52). -/
def State.fetchHalf (s : State) (core asid chain a i : Nat) : Fetched :=
  match s.translate core asid a (64 + 2 * i) with
  | none => .hold PAGE_FAULT a
  | some lf =>
    if s.migHeld core asid lf a then .wait
    else if !lf.x then .hold ACCESS a
    else
      let pa := lf.pa a
      let loc := s.locOf lf pa
      let cached := s.fetchCached lf pa
      let s := (if inHost pa then s else s.rekey loc pa lf.key).missWalks core asid [a]
      let now := s.load loc 2
      let h := Holder.icache core asid (pa / 128 * 128)
      let bad := s.poisoned loc 2 || s.retiredAt lf pa
      match (s.snapOf h (loc / 128)).filter fun _ => cached with
      | some c =>
        let old := c.read s.m.mem loc 2
        if !bad && decide (old = now) then .half now s
        else if s.choose (65 + 2 * i) % 2 = 0 then .half old s
        else if bad then .hold POISON a else .half now s
      | none =>
        let s := s.fetchTouch core asid chain lf pa loc
        if bad then .hold POISON a else .half now (if cached then s.keepCopy h (loc / 128) else s)

/-- What stands at an address: a decoded word, or what keeps it from being fetched. -/
inductive WordAt where
  | word (d : Decoded) (s : State)
  | hold (code addr : Nat)
  | wait

/-- Fetch and decode the word at an address, the i-th of its unit: bit 0 of its first halfword frames it (R43). -/
def State.fetchWord (s : State) (core asid chain a i : Nat) : WordAt :=
  match s.fetchHalf core asid chain a (2 * i) with
  | .wait => .wait
  | .hold c x => .hold c x
  | .half lo s =>
    if lo % 2 = 0 then .word (decodeWord lo) s
    else
      match s.fetchHalf core asid chain ((a + 2) % 2 ^ 56) (2 * i + 1) with
      | .wait => .wait
      | .hold c x => .hold c x
      | .half hi s => .word (decodeWord (lo + 2 ^ 16 * hi)) s

/-! ### The unit at a PC -/

/-- An issue unit as its words give it: its address, that of its instruction word, the next unit's, its prefixes, and
the PBLK in front of it. -/
structure IssueUnit where
  unitPc : Pc
  wordPc : Pc := 0
  nextPc : Pc := 0
  modp : Option Modp := none
  immx : Option Nat := none
  pblk : Option Pblk := none
  deriving DecidableEq, Repr

/-- What stands at a split's PC: a unit with its instruction, an encoding that is illegal at the word of its second
address, a held fetch fault at a word, or a page held for a migration. -/
inductive Front where
  | run (i : Instr) (u : IssueUnit) (s : State)
  | illegal (unitPc wordPc : Pc) (s : State)
  | hold (unitPc : Pc) (code addr : Nat) (wordPc : Pc)
  | wait

/-- What an illegal prefix comes to once the other words of its unit have been fetched: a fetch fault of the unit stands
before ILLEGAL_OP (R70; log entry 65). -/
def Front.illegalAt (unitPc wordPc : Pc) (f : Front) : Front :=
  match f with
  | .run _ _ s | .illegal _ _ s => .illegal unitPc wordPc s
  | .hold u c x w => .hold u c x w
  | .wait => .wait

/-- Read the words of a unit from address `a` on, its i-th word first (R44, R66): [PBLK] [MODP] [IMMX] instruction. A
unit has at most four words, which `fuel` counts. -/
def State.readUnit (s : State) (core asid chain : Nat) (inBlock : Bool) (u : IssueUnit) (a : Pc) (i : Nat) : Nat → Front
  | 0 => .illegal u.unitPc a s
  | fuel + 1 =>
    match s.fetchWord core asid chain a.toNat i with
    | .wait => .wait
    | .hold c x => .hold u.unitPc c x a
    | .word d s =>
      match d with
      | .reserved => .illegal u.unitPc a s
      | .badModp =>
        (s.readUnit core asid chain inBlock u (a + 4) (i + 1) fuel).illegalAt u.unitPc a
      | .pblk b =>
        if i = 0 ∧ !inBlock then s.readUnit core asid chain inBlock { u with unitPc := a + 4, pblk := some b } (a + 4) 1 fuel
        else .illegal u.unitPc a s
      | .modp m =>
        if u.modp.isNone ∧ u.immx.isNone then s.readUnit core asid chain inBlock { u with modp := some m } (a + 4) (i + 1) fuel
        else (s.readUnit core asid chain inBlock u (a + 4) (i + 1) fuel).illegalAt u.unitPc a
      | .immx p =>
        if u.immx.isNone then s.readUnit core asid chain inBlock { u with immx := some p } (a + 4) (i + 1) fuel
        else (s.readUnit core asid chain inBlock u (a + 4) (i + 1) fuel).illegalAt u.unitPc a
      | .instr x n => .run x { u with wordPc := a, nextPc := a + BitVec.ofNat 56 n } s

/-- The unit at a split's PC. -/
def State.front (s : State) (p : Split) : Front :=
  s.readUnit (s.coreOf ⟨p.team, p.group⟩) (s.launch p.team).asid (s.launch p.team).chain (decide (p.blkCount ≠ 0)) { unitPc := p.pc } p.pc 0 4

/-! ### Taking up a unit -/

/-- A PBLK issues with its first covered unit, and its mask register is latched (R62). -/
def State.latch (s : State) (p : Split) (b : Option Pblk) : State :=
  match b with
  | none => s
  | some b =>
    let t := p.slices.foldl (fun (t : State) c =>
      t.modSlc ⟨p.team, p.group, c⟩ fun x => { x with blkMask := t.getM ⟨p.team, p.group, c⟩ b.mask.toNat }) s
    t.modSplit p.sid fun x => { x with blkPattern := b.pattern, blkCount := b.count.toNat + 1 }

/-- The condition of the block that covers the unit of a split (R61, R62). -/
def Split.cond (p : Split) : Option Bool := if p.blkCount = 0 then none else some (p.blkPattern.getLsbD 0)

/-- The unit under issue: the context that its meaning reads. -/
def State.take (s : State) (p : Split) (u : IssueUnit) : State :=
  let t := s.latch p u.pblk
  { t with u.iss := {
      sid := p.sid, team := p.team, group := p.group, unitPc := u.unitPc, wordPc := u.wordPc, nextPc := u.nextPc
      modp := u.modp, immx := u.immx, cond := (t.split p.sid).cond, waited := false } }

/-- A unit that waits has not issued, nor has its PBLK (R62). -/
def State.unlatch (t s : State) (p : Split) (b : Option Pblk) : State :=
  match b with
  | none => t
  | some _ =>
    let t := p.slices.foldl (fun (u : State) c =>
      u.modSlc ⟨p.team, p.group, c⟩ fun x => { x with blkMask := (s.slc ⟨p.team, p.group, c⟩).blkMask }) t
    t.modSplit p.sid fun x => { x with blkPattern := p.blkPattern, blkCount := p.blkCount }

/-- What follows the meaning of a split's unit: a waiting unit gives its PBLK back; an issued one ends a single step
(R62, R220). -/
def State.settleUnit (t s : State) (p : Split) (b : Option Pblk) : State :=
  if t.u.iss.waited then t.unlatch s p b else t.finishStep p

/-- A unit whose words bring POISON takes it as its fault (R177, R215; log entry 52). -/
def State.poisonFetch (s : State) (p : Split) (unitPc : Pc) (addr : Nat) (wordPc : Pc) : State :=
  ((s.take p { unitPc := unitPc, wordPc := wordPc, nextPc := unitPc }).fault
    { code := POISON, addr := addr, info := 6, wordPc := some wordPc }).finishStep p

/-- A fetch fault is held (R176): the split stops before the unit, or the PBLK in front of it, and a record is queued. -/
def State.holdFetch (s : State) (p : Split) (unitPc : Pc) (code addr : Nat) (wordPc : Pc) : State :=
  let f : FaultInfo := { code := code, addr := addr, info := 6, unitPc := unitPc, wordPc := some wordPc, held := true,
                         replayable := true }
  (s.modSplit p.sid fun x => { x with park := .replay p.pc p.pc }).postFq
    { die := s.coreOf ⟨p.team, p.group⟩ / 192, kind := .held, sid := p.sid, seq := 0, code := code, lanes := s.active p
      words := s.faultWords p f (s.inHandler p) }

/-- A split whose page is held for a migration waits (R424). -/
def State.waitFetch (s : State) (p : Split) : State :=
  { s with u.iss := { sid := p.sid, team := p.team, group := p.group, unitPc := p.pc, waited := true } }

end Sys2Proof.Machine
end

