-- ==== Sys2Proof/Machine/Turn.lean ====
section
/-! DEFINITION. One turn of the machine: the clock and what runs with it, the issue of a split's unit, an event, and
what happens when the agenda names no turn: the first internal event that is due, else the first split that can
issue (log entry 1). -/

namespace Sys2Proof.Machine

/-! ### The clock -/

/-- The wait clocks of a team stand still while a group of it is halted or it is not running (R193, R205, R219). -/
def State.paused (s : State) (t : Nat) : Bool := s.teamHalted t || decide ((s.team t).status ≠ .running)

/-- Every team of a grid that has not exited is saved, so that its run time does not advance (R344). -/
def State.allSaved (s : State) (g : Nat) : Bool :=
  let xs := s.x.teams.filter fun x => decide (x.grid = g) && !s.exited x.uid
  !xs.isEmpty && xs.all fun x => decide (x.status = .saved)

/-- The unit at a split's PC could issue: the split is ready in the sense of R146. -/
def State.couldIssue (s : State) (p : Split) : Bool :=
  s.ready p &&
    match s.front p with
    | .run i u t => match exec i (t.take p u) with
      | .next v => !v.u.iss.waited
      | _ => false
    | .illegal _ _ _ => true
    | .hold _ code _ _ => decide (code = POISON)
    | .wait => false

/-- A split's clk of waiting: its wait clock stands still while paused, and a split that was ready and did not issue in
the clk that ends counts it, up to 255 (R146, R147, R205). -/
def State.ageSplit (s : State) (p : Split) : Split :=
  let able := s.couldIssue p
  { p with
    able := able
    waitFrom := if s.paused p.team then p.waitFrom.map (· + 1) else p.waitFrom
    wcount := if able && decide (p.wcount < 255 ∧ p.age ≠ s.u.clk) then p.wcount + 1 else p.wcount }

/-- The wait clocks of teams, grids, deposits and tenure requests. -/
def State.ageWaits (s : State) : State :=
  let later := fun (b : Bool) (c : Option Nat) => if b then c.map (· + 1) else c
  let anyPaused := fun (g : Nat) => s.x.teams.any fun x => decide (x.grid = g) && s.paused x.uid
  { s with
    x.splits := s.x.splits.map s.ageSplit
    x.teams := s.x.teams.map fun x =>
      { x with barFrom := later (s.paused x.uid) x.barFrom, settleFrom := later (s.paused x.uid) x.settleFrom }
    x.grids := s.x.grids.map fun g =>
      { g with
        syncFrom := later (anyPaused g.uid) g.syncFrom
        settleFrom := later (anyPaused g.uid) g.settleFrom
        residentFrom := if s.allSaved g.uid then g.residentFrom + 1 else g.residentFrom }
    e.latch := s.e.latch.map fun d => if s.paused d.team then { d with since := d.since + 1 } else d
    e.reqs := s.e.reqs.map fun q => if s.paused q.team then { q with since := q.since + 1 } else q }

/-- What a FENCE does when it completes (R333, R334): a release or SC FENCE at system scope leaves no dirty line of the
module; an acquire or SC FENCE at pod or system scope drops the module's cached-remote copies. -/
def State.fenceEffect (s : State) (f : FenceIn) : State :=
  let s := if f.scope = .system ∧ f.order ≠ .acquire then s.dropSnaps fun c => decide (c.holder = .msc) else s
  if (f.scope = .system ∨ f.scope = .pod) ∧ f.order ≠ .release then s.dropAway else s

/-- The FENCEs of a split that have completed take effect and are forgotten. -/
def State.endFences (s : State) (p : Split) : State :=
  let met := p.fences.filter fun f => s.fenceMet p f
  if met.isEmpty then s
  else
    (met.foldl (fun (t : State) f => t.fenceEffect f) s).modSplit p.sid fun x =>
      { x with fences := x.fences.filter fun f => !s.fenceMet p f }

/-- Teams whose lanes have all exited release their tenures (R272). -/
def State.releaseExited (s : State) : State :=
  let holds := fun (x : Team) => (s.e.tens.any fun h => decide (h.holder = .team x.uid)) ||
    s.e.reqs.any fun h => decide (h.holder = .team x.uid)
  (s.x.teams.filter fun x => decide (x.status = .running) && holds x && s.exited x.uid).foldl
    (fun (t : State) x => t.releaseTenures x.uid) s

/-- Forget rounds and drains that hold nothing back any more, and lines that were called for and are written. -/
def State.prune (s : State) : State :=
  { s with
    e.calls := s.e.calls.filter fun pa => s.e.rsh.any fun r => s.rshOwes r pa
    k.syncs := s.k.syncs.filter fun y => s.k.acc.any fun a => decide (a.lane.t ∈ y.1 ∧ a.seq < y.2)
    e.drains := s.e.drains.filter fun d => s.draining d }

/-- Every split that waits in BWAIT examines its word after what happened (R211). -/
def State.examineWaits (s : State) : State := { s with x.splits := s.x.splits.map s.examine }

/-- One clk passes. -/
def State.tick (s : State) : State :=
  let t := s.runWalks.noteSent.examineWaits.ageWaits
  let t := t.x.splits.foldl (fun (u : State) p => (u.endFences p).shipCovered p) t
  let t := t.releaseExited.prune.endRollbacks.applyPorts
  { t with u.clk := t.u.clk + 1, u.fresh := t.u.fresh + 1 }

/-! ### An issue -/

/-- Change the state of a next outcome. -/
def andThen (o : Host.Outcome State Fault Refusal) (f : State → State) : Host.Outcome State Fault Refusal :=
  match o with
  | .next s => .next (f s)
  | .fault r => .fault r
  | .refused r => .refused r

/-- A split issues its next unit, or is found to wait. -/
def State.issueSplit (s : State) (p : Split) : Host.Outcome State Fault Refusal :=
  match s.front p with
  | .wait => .next (s.waitFetch p)
  | .hold u code addr w => .next (if code = POISON then s.poisonFetch p u addr w else s.holdFetch p u code addr w)
  | .illegal u w t => .next (((t.take p { unitPc := u, wordPc := w, nextPc := u }).fault
      { code := ILLEGAL_OP, wordPc := some w }).finishStep p)
  | .run i u t => andThen (exec i (t.take p u)) fun v => v.settleUnit s p u.pblk

/-- A turn of a split by name; a split that is not ready does nothing. -/
def State.issueTurn (s : State) (sid : Nat) : Host.Outcome State Fault Refusal :=
  match s.split? sid with
  | none => .next s
  | some p => if s.ready p then s.issueSplit p else .next s

/-! ### Events -/

/-- A turn in which an event happens; an instruction is none. -/
def State.eventTurn (s : State) (i : Instr) (a : EventArg) : Host.Outcome State Fault Refusal :=
  if (encode i).isSome then .next s else exec i { s with u.ev := a }

/-- An event named by a number. -/
def evId (i : Instr) (n : Nat) : Instr × EventArg := (i, { id := n })

/-- The internal events of splits, teams and grids that could be due. -/
def State.dueRun (s : State) : List (Instr × EventArg) :=
  (s.x.splits.flatMap fun p =>
    ([.lateFaultDelivery, .settleComplete, .barrierStall, .mwaitWake, .mwaitTimeout, .sleepExpiry, .splitStarved] :
      List Instr).map (evId · p.sid)) ++
  (s.x.teams.flatMap fun x => ([.taskRetire, .teamSave] : List Instr).map (evId · x.uid)) ++
  (s.x.grids.flatMap fun g => ([.watchdog, .gridRetire] : List Instr).map (evId · g.uid)) ++
  s.f.jobs.flatMap fun j => ([0, 1] : List Nat).map fun k => (.podArrivalMsg, { id := j.num, size := k, value := s.f.dev })

/-- Those of accesses and caches. -/
def State.dueMemory (s : State) : List (Instr × EventArg) :=
  (s.k.acc.flatMap fun a =>
    ([.replyLand, .storePerformed, .remoteStoreAck, .homeAccess, .recallRelease, .recallRetry, .deliveryTimeout] :
      List Instr).map (evId · a.id)) ++
  (s.f.peerHeld.map fun q => evId .recallRelease q.id) ++
  (s.k.invs.map fun i => evId .invalidation i.id) ++
  s.k.regions.map fun r => (.regionMerge, { list := [r.die, r.slice, r.base, r.log] })

/-- Those of the re-shard engine: every step starts as soon as it may, in plan order but for recalls. -/
def State.dueReshard (s : State) (r : Rsh) : List (Instr × EventArg) :=
  let start : List (Instr × EventArg) :=
    match (List.range (r.steps - r.step)).find? fun k => s.rshMayStart r (r.step + k) with
    | some k => [(.reshardStepComplete, { id := r.id, n := r.step + k, flag := true })]
    | none => []
  [evId .reshardAccept r.id, evId .reshardStop r.id] ++ start ++
    (r.started.map fun x => (.reshardStepComplete, { id := r.id, n := x.1 })) ++ [evId .reshardEnd r.id] ++
    if r.lastWrite + 4096 ≤ s.u.clk then [evId .progressWrite r.id] else []

/-- Those of the engines. -/
def State.dueEngines (s : State) : List (Instr × EventArg) :=
  (s.e.sfu.map fun o => evId .sfuResult o.id) ++ (s.e.mats.map fun o => evId .matrixDeliver o.id) ++
  (s.e.latch.flatMap fun d => ([.jointStart, .rendezvousTimeout] : List Instr).map fun i =>
    (i, { id := d.team, value := d.consort.toNat })) ++
  ((List.range s.e.reqs.length).flatMap fun n => ([.tenureGrant, .tenureTimeout] : List Instr).map (evId · n)) ++
  (s.e.copies.flatMap fun c => ([.copyStart, .copyComplete] : List Instr).map (evId · c.id)) ++
  (s.e.log.map fun r => evId .logDrain r.src) ++
  (s.e.bins.flatMap fun b => ([.binAgeExpiry, .binApply, .binAck] : List Instr).map (evId · b.id)) ++
  (s.e.notices.map fun _ => evId .refusalNotice 0) ++ s.e.rsh.flatMap s.dueReshard

/-- Those of dispatch. -/
def State.dueDispatch (s : State) : List (Instr × EventArg) :=
  ((List.range s.d.events.length).map (evId .eventWrite)) ++
  (s.d.rung.flatMap fun q =>
    ([.queueNop, .queueLaunch, .queueEvent, .queueWait, .queueInval, .invalTeardown, .sealRetry, .resumeReplay,
      .resumeCancel, .resumeUnitpc, .resumeNext, .resumeAbort] : List Instr).map (evId · q)) ++
  (s.d.wait.filterMap fun w => if w.2 + 4096 ≤ s.u.clk then some (evId .waitRecheck w.1) else none) ++
  ([0, 1, 2, 3] : List Nat).flatMap fun d =>
    ([.faultQueueWrite, .chipcarveApply, .dispatchStep] : List Instr).map (evId · d)

/-- Those of the links and the module's controllers: a replay succeeds, and a link that has come to the end of its replays comes up
again; a stage or an update that is late ends. -/
def State.duePackage (s : State) : List (Instr × EventArg) :=
  (s.f.replays.filterMap fun x =>
    if x.2 = 0 ∨ (x.1, []) ∈ s.f.portWait then none
    else some (if s.linkSpent x.1 then .linkRetrain else .flitReceive, { id := x.1, flag := true })) ++
  (s.p.ctrl.filterMap fun x => if s.updateLate x.2 then some (evId .updateRollback x.1) else none) ++
  if s.p.starting && s.stageLate then [evId .stageTimeout 0] else []

/-- What an event comes to if it changes anything. -/
def State.fires (s : State) (x : Instr × EventArg) : Option State :=
  let s : State := { s with u.ev := x.2 }
  match exec x.1 s with
  | .next t => if t = s then none else some t
  | .fault _ => none
  | .refused _ => none

/-- The first internal event that is due. -/
def State.auto (s : State) : Option State :=
  (s.dueMemory ++ s.dueEngines ++ s.dueRun ++ s.dueDispatch ++ s.duePackage).findSome? s.fires

/-- The first of some splits whose unit does not wait. -/
def State.issueFirst (s : State) : List Split → Host.Outcome State Fault Refusal
  | [] => .next s
  | p :: ps =>
    match s.issueSplit p with
    | .next t => if t.u.iss.waited then t.issueFirst ps else .next t
    | .fault r => .fault r
    | .refused r => .refused r

/-- A turn that the agenda does not name (R146). -/
def State.freeTurn (s : State) : Host.Outcome State Fault Refusal :=
  match s.auto with
  | some t => .next t
  | none => s.issueFirst (sortBy Split.ahead (s.x.splits.filter s.ready))

end Sys2Proof.Machine
end

