-- ==== Sys2Proof/Machine/Step.lean ====
section
/-! DEFINITION. One step of the machine, and the placing of an instruction where the next step fetches it. -/

namespace Sys2Proof.Machine

/-- One step: a clk passes, and the turn at the head of the agenda is taken, or a free one (log entry 1). -/
def step (s : State) : Host.Outcome State Fault Refusal :=
  let t := s.tick
  match t.u.agenda with
  | .issue sid :: rest => State.issueTurn { t with u.agenda := rest } sid
  | .event i a :: rest => State.eventTurn { t with u.agenda := rest } i a
  | [] => t.freeTurn

/-- Where withFetchWord puts the word. -/
def fetchPc : Nat := 0x80000

/-- A resident one-group team whose split stands at an instruction word, on core 0 (log entry 5): a grid, a team and a
split with fresh names, a context entry for ASID 0 with one 1 GiB leaf that maps VA to PA, the word's bytes, and a turn
for the split. -/
def State.withFetchWord (s : State) (nbits w : Nat) : State :=
  let u := s.u.uid
  let s := s.setDieReg 0 0xC6 0
  let s := ((s.store (s.locPhys 0) (2 ^ 17 + 1) 16).store (s.locPhys (2 ^ 17)) (2 ^ 18 + 1) 16).store
    (s.locPhys (2 ^ 18)) 31 16
  let loc := s.locPhys fetchPc
  let s := s.store loc (w % 2 ^ nbits) 4
  let s := s.dropSnaps fun c => match c.holder with | .icache _ _ _ => true | _ => false
  { s with
    k.tlb := []
    k.lineKey := s.k.lineKey.put (loc / 128) (s.keyId (loc / 128) 0)
    f.migHold := []
    x.grids := s.x.grids ++ [{ uid := u, launch := { entry := BitVec.ofNat 56 fetchPc }, placed := 1 }]
    x.teams := s.x.teams ++ [{ uid := u + 1, grid := u }]
    x.splits := s.x.splits ++
      [{ sid := u + 2, team := u + 1, group := 0, tix := 0, pc := BitVec.ofNat 56 fetchPc, slices := [0, 1, 2, 3] }]
    u.uid := u + 3
    u.agenda := [.issue (u + 2)] }

end Sys2Proof.Machine
end

