-- ==== Sys2Proof/WellFormed.lean ====
section
/-! DEFINITION. Well-formedness of an instruction as syntax: the operand rules of its encoding that hold whatever stands
in front of it (R52, R55, and the rule of each family). A word that breaks one decodes, and the machine raises ILLEGAL_OP
when a split issues it (R69). -/

namespace Sys2Proof

/-- A register field that names a multiple of `n` (R55). -/
def multiple (n : Nat) {w : Nat} (r : BitVec w) : Bool := decide (r.toNat % n = 0)

/-- The address pair of format M: an even va is a V pair; an odd one names an S pair, which must lie below 64 and has no
trap bit (R52). -/
def memPair (ta : Bool) (va : BitVec 7) : Bool := decide (va.toNat % 2 = 0) || (decide (va.toNat ≤ 63) && !ta)

/-- Does an instruction keep the operand rules of its encoding? An event has no operands. -/
def Instr.wf (i : Instr) : Bool :=
  match i with
  | .iadd _ => true
  | .isub _ => true
  | .imin _ => true
  | .imax _ => true
  | .iminu _ => true
  | .imaxu _ => true
  | .iaddc _ => true
  | .iabsd _ => true
  | .imul _ => true
  | .imulh _ => true
  | .imulhu _ => true
  | .imad _ => true
  | .idot4 _ => true
  | .idot4u _ => true
  | .popc _ => true
  | .clz _ => true
  | .andB _ => true
  | .orB _ => true
  | .xorB _ => true
  | .andn _ => true
  | .orn _ => true
  | .xnor _ => true
  | .sel _ => true
  | .brev _ => true
  | .shl _ => true
  | .shr _ => true
  | .sar _ => true
  | .rol _ => true
  | .ror _ => true
  | .fshl _ => true
  | .bfx _ => true
  | .bfi _ => true
  | .icmpEq _ => true
  | .icmpNe _ => true
  | .icmpLt _ => true
  | .icmpLe _ => true
  | .icmpGt _ => true
  | .icmpGe _ => true
  | .icmpLtu _ => true
  | .icmpGeu _ => true
  | .iaddi _ => true
  | .andi _ => true
  | .ori _ => true
  | .xori _ => true
  | .shli _ => true
  | .shri _ => true
  | .sari _ => true
  | .movi _ => true
  | .mov _ => true
  | .movhi _ => true
  | .lea o => multiple 2 o.va && multiple 2 o.vd
  | .pack _ => true
  | .unpk _ => true
  | .perm _ => true
  | .bcast _ => true
  | .vget o => decide ((o.sel = 0 ∧ o.va.toNat < 64) ∨ (o.sel.toNat ≤ 3 ∧ o.va = 0))
  | .sadd _ => true
  | .ssub _ => true
  | .smul _ => true
  | .sand _ => true
  | .sor _ => true
  | .sxor _ => true
  | .sshl _ => true
  | .sshr _ => true
  | .saddi _ => true
  | .smovi _ => true
  | .scmp _ => true
  | .smov _ => true
  | .vput o => decide (o.n.toNat ≤ 4)
  | .smovhi _ => true
  | .ssar _ => true
  | .ssel _ => true
  | .fadd _ => true
  | .fsub _ => true
  | .fmul _ => true
  | .fmin _ => true
  | .fmax _ => true
  | .fminm _ => true
  | .fmaxm _ => true
  | .fcpys _ => true
  | .ffma _ => true
  | .ffms _ => true
  | .fnma _ => true
  | .fnms _ => true
  | .fdot2 _ => true
  | .fdot4 _ => true
  | .fscale _ => true
  | .fcmpEq _ => true
  | .fcmpNe _ => true
  | .fcmpLt _ => true
  | .fcmpLe _ => true
  | .fcmpGt _ => true
  | .fcmpGe _ => true
  | .fcmpUn _ => true
  | .fcmpOrd _ => true
  | .frcp _ => true
  | .frsq _ => true
  | .fsqrt _ => true
  | .fexp2 _ => true
  | .flog2 _ => true
  | .fsin _ => true
  | .fcos _ => true
  | .ftanh _ => true
  | .fcvt o => decide (o.src ≠ o.tgt ∧ o.src.toNat ≤ 5 ∧ o.tgt.toNat ≤ 5)
  | .icvtf o => decide (o.icode.toNat ≤ 9 ∧ o.fcode.toNat ≤ 5)
  | .fcvti o => decide (o.icode.toNat ≤ 9 ∧ o.fcode.toNat ≤ 5)
  | .fround _ => true
  | .fclass _ => true
  | .dxpack _ => true
  | .dxunpk _ => true
  | .fexpo _ => true
  | .bra _ => true
  | .brai o => multiple 2 o.va
  | .call _ => true
  | .calli o => multiple 2 o.va
  | .trap _ => true
  | .bkpt _ => true
  | .sread _ => true
  | .swrite _ => true
  | .sleep _ => true
  | .cacheIinv o => memPair o.ta o.va
  | .cacheL1inv o => memPair o.ta o.va
  | .cacheL2clean o => memPair o.ta o.va
  | .cacheL2flush o => memPair o.ta o.va
  | .vote o => if o.sel = 3 then multiple 2 o.vd else decide (o.sel.toNat < 3 ∧ o.vd.toNat < 8)
  | .elect _ => true
  | .matchV o => multiple 2 o.vd
  | .shfl _ => true
  | .reduce o => decide (o.op.toNat < 15)
  | .scan o => decide (o.op.toNat % 16 < 15)
  | .rank _ => true
  | .ldB8u o => memPair o.ta o.va
  | .ldB8s o => memPair o.ta o.va
  | .ldB16u o => memPair o.ta o.va
  | .ldB16s o => memPair o.ta o.va
  | .ldB32 o => memPair o.ta o.va
  | .ldB64 o => memPair o.ta o.va && multiple 2 o.vd
  | .ldB128 o => memPair o.ta o.va && multiple 4 o.vd
  | .ldc o => memPair o.ta o.va
  | .stB8 o => memPair o.ta o.va
  | .stB16 o => memPair o.ta o.va
  | .stB32 o => memPair o.ta o.va
  | .stB64 o => memPair o.ta o.va && multiple 2 o.vd
  | .stB128 o => memPair o.ta o.va && multiple 4 o.vd
  | .stnt o => memPair o.ta o.va && multiple 4 o.vd
  | .prefetch o => memPair o.ta o.va && decide (o.level.toNat ≤ 2)
  | .atomAdd o => memPair o.ta o.va
  | .atomMin o => memPair o.ta o.va
  | .atomMax o => memPair o.ta o.va
  | .atomAnd o => memPair o.ta o.va
  | .atomOr o => memPair o.ta o.va
  | .atomXor o => memPair o.ta o.va
  | .atomExch o => memPair o.ta o.va
  | .atomCas o => memPair o.ta o.va && multiple 2 o.vd
  | .atomfFadd32 o => memPair o.ta o.va
  | .atomfFadd64 o => memPair o.ta o.va && multiple 2 o.vd
  | .atomfFmin32 o => memPair o.ta o.va
  | .atomfFmax32 o => memPair o.ta o.va
  | .atomfFaddh2 o => memPair o.ta o.va
  | .atomfFaddb2 o => memPair o.ta o.va
  | .atomfInc o => memPair o.ta o.va
  | .atomfDec o => memPair o.ta o.va
  | .waitc o => if o.bySa then decide (o.imm = 0 ∧ o.va.toNat < 64) else decide (o.va = 0)
  | .monitor o => memPair o.ta o.va
  | .settleL _ => true
  | .settleT _ => true
  | .settleG _ => true
  | .settleP _ => true
  | .dstStore o => memPair o.ta o.va
  | .dstAdd o => memPair o.ta o.va
  | .dstFadd o => memPair o.ta o.va
  | .dstMin o => memPair o.ta o.va
  | .dstMax o => memPair o.ta o.va
  | .dstOr o => memPair o.ta o.va
  | .dstAnd o => memPair o.ta o.va
  | .dstAppend o => memPair o.ta o.va
  | .mma _ => true
  | .mmas _ => true
  | .mmad o => multiple 2 o.va && multiple 2 o.vb && multiple 2 o.vd
  | .spcmp o => decide (o.sel.toNat ≤ 1)
  | .xqt _ => true
  | .smxacc o => multiple 2 o.vd
  | .smxfin o => multiple 2 o.vd && multiple 2 o.va && multiple 2 o.vb
  | .accz _ => true
  | .consort o => multiple 2 o.va
  | .mscale o => memPair o.ta o.va
  | .fragt _ => true
  | .setfmt _ => true
  | .getfmt _ => true
  | .cpy o => multiple 2 o.sd && multiple 2 o.sa
  | .tcpy o => multiple 8 o.sd && multiple 8 o.sa
  | .tcpym o => multiple 8 o.sd && multiple 8 o.sa
  | .tstore o => multiple 8 o.sd && multiple 2 o.sa
  | .rpush o => multiple 2 o.sa
  | .rpop o => multiple 2 o.sa
  | .rwait o => multiple 2 o.sa && multiple 2 o.sd && decide (o.sb.toNat ≤ 1)
  | .binit o => multiple 2 o.sa
  | .barv o => multiple 2 o.sa
  | .bwait o => multiple 2 o.sa
  | .btest o => multiple 2 o.sa
  | .bexpect o => multiple 2 o.sa
  | .binval o => multiple 2 o.sa
  | .tmint o => multiple 2 o.sd && multiple 8 o.sa
  | .tfree _ => true
  | .tacq _ => true
  | .trel _ => true
  | .tsplit o => decide (o.sd.toNat ≤ 61)
  | .tmerge _ => true
  | .tstat _ => true
  | .tdown _ => true
  | .fetch o => multiple 4 o.vd && multiple 2 o.va
  | .fetchx o => multiple 4 o.vd && multiple 2 o.va
  | .fetchs o => multiple 4 o.vd && multiple 2 o.va
  | .finv _ => true
  | .spawn _ => true
  | .joinTask _ => true
  | .joinPoll _ => true
  | .launchCmd o => multiple 2 o.sa
  | .taskend _ => true
  | .qstat _ => true
  | .rshard o => multiple 2 o.sa && multiple 2 o.sb
  | .rspoll o => multiple 2 o.sa && multiple 2 o.sd
  | .migrate o => multiple 2 o.sa
  | .peerid _ => true
  | .peeridQ _ => true
  | .mov16 o => !(decide (o.vd = o.va) && o.ta)
  | .iadd16 _ => true
  | .isub16 _ => true
  | .and16 _ => true
  | .or16 _ => true
  | .xor16 _ => true
  | .shl16 _ => true
  | .shr16 _ => true
  | .fadd16 _ => true
  | .fsub16 _ => true
  | .fmul16 _ => true
  | .fmax16 _ => true
  | .iaddi16 _ => true
  | .movi16 _ => true
  | .ld16 o => multiple 2 o.va
  | .imul16 _ => true
  | .ret => true
  | .regang => true
  | .exit => true
  | .yield => true
  | .rte => true
  | .nop => true
  | .fence => true
  | .mwait => true
  | .bar => true
  | .gridsync => true
  | .podsync => true
  | .mscaleOff => true
  | .replyLand => true
  | .storePerformed => true
  | .sfuResult => true
  | .matrixDeliver => true
  | .jointStart => true
  | .rendezvousTimeout => true
  | .lateFaultDelivery => true
  | .barrierStall => true
  | .splitStarved => true
  | .mwaitWake => true
  | .mwaitTimeout => true
  | .sleepExpiry => true
  | .rngseedWrite => true
  | .homeAccess => true
  | .recallRelease => true
  | .recallRetry => true
  | .invalidation => true
  | .regionMerge => true
  | .tenureGrant => true
  | .tenureTimeout => true
  | .copyStart => true
  | .copyComplete => true
  | .logDrain => true
  | .binAgeExpiry => true
  | .ingressBin => true
  | .binApply => true
  | .binAck => true
  | .refusalNotice => true
  | .settleComplete => true
  | .doorbell => true
  | .queueNop => true
  | .queueLaunch => true
  | .queueEvent => true
  | .eventWrite => true
  | .queueWait => true
  | .waitRecheck => true
  | .queueInval => true
  | .invalTeardown => true
  | .resumeReplay => true
  | .resumeCancel => true
  | .resumeUnitpc => true
  | .resumeNext => true
  | .resumeAbort => true
  | .sealRetry => true
  | .dispatchStep => true
  | .teamSave => true
  | .gridRetire => true
  | .watchdog => true
  | .taskRetire => true
  | .pageWalk => true
  | .faultQueueWrite => true
  | .debugHalt => true
  | .singleStep => true
  | .debugResume => true
  | .hostRegWrite => true
  | .bar0BadAccess => true
  | .chipcarveWrite => true
  | .chipcarveApply => true
  | .resctlWrite => true
  | .hostBar2Read => true
  | .hostBar2Write => true
  | .keyLoad => true
  | .bringUp => true
  | .stageTimeout => true
  | .setPowerCap => true
  | .clockLower => true
  | .clockRaise => true
  | .thermalTrip => true
  | .fwImageWrite => true
  | .liveUpdate => true
  | .aliveMsg => true
  | .updateRollback => true
  | .floorRaise => true
  | .lifetimeRead => true
  | .lifetimePersist => true
  | .powerDown => true
  | .getVersion => true
  | .getCapabilities => true
  | .negotiateAlgorithms => true
  | .getDigests => true
  | .getCertificate => true
  | .challenge => true
  | .getMeasurements => true
  | .setArrears => true
  | .migrationPool => true
  | .podJobRegister => true
  | .podArrivalMsg => true
  | .podCompletionMsg => true
  | .flitReceive => true
  | .linkRetrain => true
  | .arrearsWin => true
  | .remoteAccess => true
  | .remoteStoreAck => true
  | .deliveryTimeout => true
  | .migrationRun => true
  | .reshardAccept => true
  | .reshardStepComplete => true
  | .progressWrite => true
  | .reshardEnd => true
  | .reshardStop => true
  | .powerLoss => true
  | .dbgctlHostWrite => true
  | .stepCancel => true
  | .histogramMinute => true

end Sys2Proof
end

