-- ==== Sys2Proof/Safety.lean ====
section
/-! DEFINITION. The terms in which statements speak: the issue unit of an instruction, when a unit goes on to its own
effect, what an issue leaves alone, and the invariants of a machine. -/

namespace Sys2Proof.Machine

/-- The issue unit of an instruction in a state; an event has none. -/
def meaningOf (i : Instr) (s : State) : Option Meaning :=
  match i with
  | .iadd o => some (meanIadd o s)
  | .isub o => some (meanIsub o s)
  | .imin o => some (meanImin o s)
  | .imax o => some (meanImax o s)
  | .iminu o => some (meanIminu o s)
  | .imaxu o => some (meanImaxu o s)
  | .iaddc o => some (meanIaddc o s)
  | .iabsd o => some (meanIabsd o s)
  | .imul o => some (meanImul o s)
  | .imulh o => some (meanImulh o s)
  | .imulhu o => some (meanImulhu o s)
  | .imad o => some (meanImad o s)
  | .idot4 o => some (meanIdot4 o s)
  | .idot4u o => some (meanIdot4u o s)
  | .popc o => some (meanPopc o s)
  | .clz o => some (meanClz o s)
  | .andB o => some (meanAnd o s)
  | .orB o => some (meanOr o s)
  | .xorB o => some (meanXor o s)
  | .andn o => some (meanAndn o s)
  | .orn o => some (meanOrn o s)
  | .xnor o => some (meanXnor o s)
  | .sel o => some (meanSel o s)
  | .brev o => some (meanBrev o s)
  | .shl o => some (meanShl o s)
  | .shr o => some (meanShr o s)
  | .sar o => some (meanSar o s)
  | .rol o => some (meanRol o s)
  | .ror o => some (meanRor o s)
  | .fshl o => some (meanFshl o s)
  | .bfx o => some (meanBfx o s)
  | .bfi o => some (meanBfi o s)
  | .icmpEq o => some (meanIcmpEq o s)
  | .icmpNe o => some (meanIcmpNe o s)
  | .icmpLt o => some (meanIcmpLt o s)
  | .icmpLe o => some (meanIcmpLe o s)
  | .icmpGt o => some (meanIcmpGt o s)
  | .icmpGe o => some (meanIcmpGe o s)
  | .icmpLtu o => some (meanIcmpLtu o s)
  | .icmpGeu o => some (meanIcmpGeu o s)
  | .iaddi o => some (meanIaddi o s)
  | .andi o => some (meanAndi o s)
  | .ori o => some (meanOri o s)
  | .xori o => some (meanXori o s)
  | .shli o => some (meanShli o s)
  | .shri o => some (meanShri o s)
  | .sari o => some (meanSari o s)
  | .movi o => some (meanMovi o s)
  | .mov o => some (meanMov o s)
  | .movhi o => some (meanMovhi o s)
  | .lea o => some (meanLea o s)
  | .pack o => some (meanPack o s)
  | .unpk o => some (meanUnpk o s)
  | .perm o => some (meanPerm o s)
  | .bcast o => some (meanBcast o s)
  | .vget o => some (meanVget o s)
  | .sadd o => some (meanSadd o s)
  | .ssub o => some (meanSsub o s)
  | .smul o => some (meanSmul o s)
  | .sand o => some (meanSand o s)
  | .sor o => some (meanSor o s)
  | .sxor o => some (meanSxor o s)
  | .sshl o => some (meanSshl o s)
  | .sshr o => some (meanSshr o s)
  | .saddi o => some (meanSaddi o s)
  | .smovi o => some (meanSmovi o s)
  | .scmp o => some (meanScmp o s)
  | .smov o => some (meanSmov o s)
  | .vput o => some (meanVput o s)
  | .smovhi o => some (meanSmovhi o s)
  | .ssar o => some (meanSsar o s)
  | .ssel o => some (meanSsel o s)
  | .fadd o => some (meanFadd o s)
  | .fsub o => some (meanFsub o s)
  | .fmul o => some (meanFmul o s)
  | .fmin o => some (meanFmin o s)
  | .fmax o => some (meanFmax o s)
  | .fminm o => some (meanFminm o s)
  | .fmaxm o => some (meanFmaxm o s)
  | .fcpys o => some (meanFcpys o s)
  | .ffma o => some (meanFfma o s)
  | .ffms o => some (meanFfms o s)
  | .fnma o => some (meanFnma o s)
  | .fnms o => some (meanFnms o s)
  | .fdot2 o => some (meanFdot2 o s)
  | .fdot4 o => some (meanFdot4 o s)
  | .fscale o => some (meanFscale o s)
  | .fcmpEq o => some (meanFcmpEq o s)
  | .fcmpNe o => some (meanFcmpNe o s)
  | .fcmpLt o => some (meanFcmpLt o s)
  | .fcmpLe o => some (meanFcmpLe o s)
  | .fcmpGt o => some (meanFcmpGt o s)
  | .fcmpGe o => some (meanFcmpGe o s)
  | .fcmpUn o => some (meanFcmpUn o s)
  | .fcmpOrd o => some (meanFcmpOrd o s)
  | .frcp o => some (meanFrcp o s)
  | .frsq o => some (meanFrsq o s)
  | .fsqrt o => some (meanFsqrt o s)
  | .fexp2 o => some (meanFexp2 o s)
  | .flog2 o => some (meanFlog2 o s)
  | .fsin o => some (meanFsin o s)
  | .fcos o => some (meanFcos o s)
  | .ftanh o => some (meanFtanh o s)
  | .fcvt o => some (meanFcvt o s)
  | .icvtf o => some (meanIcvtf o s)
  | .fcvti o => some (meanFcvti o s)
  | .fround o => some (meanFround o s)
  | .fclass o => some (meanFclass o s)
  | .dxpack o => some (meanDxpack o s)
  | .dxunpk o => some (meanDxunpk o s)
  | .fexpo o => some (meanFexpo o s)
  | .bra o => some (meanBra o s)
  | .brai o => some (meanBrai o s)
  | .call o => some (meanCall o s)
  | .calli o => some (meanCalli o s)
  | .trap o => some (meanTrap o s)
  | .bkpt o => some (meanBkpt o s)
  | .sread o => some (meanSread o s)
  | .swrite o => some (meanSwrite o s)
  | .sleep o => some (meanSleep o s)
  | .cacheIinv o => some (meanCacheIinv o s)
  | .cacheL1inv o => some (meanCacheL1inv o s)
  | .cacheL2clean o => some (meanCacheL2clean o s)
  | .cacheL2flush o => some (meanCacheL2flush o s)
  | .vote o => some (meanVote o s)
  | .elect o => some (meanElect o s)
  | .matchV o => some (meanMatch o s)
  | .shfl o => some (meanShfl o s)
  | .reduce o => some (meanReduce o s)
  | .scan o => some (meanScan o s)
  | .rank o => some (meanRank o s)
  | .ldB8u o => some (meanLdB8u o s)
  | .ldB8s o => some (meanLdB8s o s)
  | .ldB16u o => some (meanLdB16u o s)
  | .ldB16s o => some (meanLdB16s o s)
  | .ldB32 o => some (meanLdB32 o s)
  | .ldB64 o => some (meanLdB64 o s)
  | .ldB128 o => some (meanLdB128 o s)
  | .ldc o => some (meanLdc o s)
  | .stB8 o => some (meanStB8 o s)
  | .stB16 o => some (meanStB16 o s)
  | .stB32 o => some (meanStB32 o s)
  | .stB64 o => some (meanStB64 o s)
  | .stB128 o => some (meanStB128 o s)
  | .stnt o => some (meanStnt o s)
  | .prefetch o => some (meanPrefetch o s)
  | .atomAdd o => some (meanAtomAdd o s)
  | .atomMin o => some (meanAtomMin o s)
  | .atomMax o => some (meanAtomMax o s)
  | .atomAnd o => some (meanAtomAnd o s)
  | .atomOr o => some (meanAtomOr o s)
  | .atomXor o => some (meanAtomXor o s)
  | .atomExch o => some (meanAtomExch o s)
  | .atomCas o => some (meanAtomCas o s)
  | .atomfFadd32 o => some (meanAtomfFadd32 o s)
  | .atomfFadd64 o => some (meanAtomfFadd64 o s)
  | .atomfFmin32 o => some (meanAtomfFmin32 o s)
  | .atomfFmax32 o => some (meanAtomfFmax32 o s)
  | .atomfFaddh2 o => some (meanAtomfFaddh2 o s)
  | .atomfFaddb2 o => some (meanAtomfFaddb2 o s)
  | .atomfInc o => some (meanAtomfInc o s)
  | .atomfDec o => some (meanAtomfDec o s)
  | .waitc o => some (meanWaitc o s)
  | .monitor o => some (meanMonitor o s)
  | .settleL o => some (meanSettleL o s)
  | .settleT o => some (meanSettleT o s)
  | .settleG o => some (meanSettleG o s)
  | .settleP o => some (meanSettleP o s)
  | .dstStore o => some (meanDstStore o s)
  | .dstAdd o => some (meanDstAdd o s)
  | .dstFadd o => some (meanDstFadd o s)
  | .dstMin o => some (meanDstMin o s)
  | .dstMax o => some (meanDstMax o s)
  | .dstOr o => some (meanDstOr o s)
  | .dstAnd o => some (meanDstAnd o s)
  | .dstAppend o => some (meanDstAppend o s)
  | .mma o => some (meanMma o s)
  | .mmas o => some (meanMmas o s)
  | .mmad o => some (meanMmad o s)
  | .spcmp o => some (meanSpcmp o s)
  | .xqt o => some (meanXqt o s)
  | .smxacc o => some (meanSmxacc o s)
  | .smxfin o => some (meanSmxfin o s)
  | .accz o => some (meanAccz o s)
  | .consort o => some (meanConsort o s)
  | .mscale o => some (meanMscale o s)
  | .fragt o => some (meanFragt o s)
  | .setfmt o => some (meanSetfmt o s)
  | .getfmt o => some (meanGetfmt o s)
  | .cpy o => some (meanCpy o s)
  | .tcpy o => some (meanTcpy o s)
  | .tcpym o => some (meanTcpym o s)
  | .tstore o => some (meanTstore o s)
  | .rpush o => some (meanRpush o s)
  | .rpop o => some (meanRpop o s)
  | .rwait o => some (meanRwait o s)
  | .binit o => some (meanBinit o s)
  | .barv o => some (meanBarv o s)
  | .bwait o => some (meanBwait o s)
  | .btest o => some (meanBtest o s)
  | .bexpect o => some (meanBexpect o s)
  | .binval o => some (meanBinval o s)
  | .tmint o => some (meanTmint o s)
  | .tfree o => some (meanTfree o s)
  | .tacq o => some (meanTacq o s)
  | .trel o => some (meanTrel o s)
  | .tsplit o => some (meanTsplit o s)
  | .tmerge o => some (meanTmerge o s)
  | .tstat o => some (meanTstat o s)
  | .tdown o => some (meanTdown o s)
  | .fetch o => some (meanFetch o s)
  | .fetchx o => some (meanFetchx o s)
  | .fetchs o => some (meanFetchs o s)
  | .finv o => some (meanFinv o s)
  | .spawn o => some (meanSpawn o s)
  | .joinTask o => some (meanJoin o s)
  | .joinPoll o => some (meanJoinPoll o s)
  | .launchCmd o => some (meanLaunch o s)
  | .taskend o => some (meanTaskend o s)
  | .qstat o => some (meanQstat o s)
  | .rshard o => some (meanRshard o s)
  | .rspoll o => some (meanRspoll o s)
  | .migrate o => some (meanMigrate o s)
  | .peerid o => some (meanPeerid o s)
  | .peeridQ o => some (meanPeeridQ o s)
  | .mov16 o => some (meanMov16 o s)
  | .iadd16 o => some (meanIadd16 o s)
  | .isub16 o => some (meanIsub16 o s)
  | .and16 o => some (meanAnd16 o s)
  | .or16 o => some (meanOr16 o s)
  | .xor16 o => some (meanXor16 o s)
  | .shl16 o => some (meanShl16 o s)
  | .shr16 o => some (meanShr16 o s)
  | .fadd16 o => some (meanFadd16 o s)
  | .fsub16 o => some (meanFsub16 o s)
  | .fmul16 o => some (meanFmul16 o s)
  | .fmax16 o => some (meanFmax16 o s)
  | .iaddi16 o => some (meanIaddi16 o s)
  | .movi16 o => some (meanMovi16 o s)
  | .ld16 o => some (meanLd16 o s)
  | .imul16 o => some (meanImul16 o s)
  | .ret => some (meanRet s)
  | .regang => some (meanRegang s)
  | .exit => some (meanExit s)
  | .yield => some (meanYield s)
  | .rte => some (meanRte s)
  | .nop => some (meanNop s)
  | .fence => some (meanFence s)
  | .mwait => some (meanMwait s)
  | .bar => some (meanBar s)
  | .gridsync => some (meanGridsync s)
  | .podsync => some (meanPodsync s)
  | .mscaleOff => some (meanMscaleOff s)
  | .replyLand => none
  | .storePerformed => none
  | .sfuResult => none
  | .matrixDeliver => none
  | .jointStart => none
  | .rendezvousTimeout => none
  | .lateFaultDelivery => none
  | .barrierStall => none
  | .splitStarved => none
  | .mwaitWake => none
  | .mwaitTimeout => none
  | .sleepExpiry => none
  | .rngseedWrite => none
  | .homeAccess => none
  | .recallRelease => none
  | .recallRetry => none
  | .invalidation => none
  | .regionMerge => none
  | .tenureGrant => none
  | .tenureTimeout => none
  | .copyStart => none
  | .copyComplete => none
  | .logDrain => none
  | .binAgeExpiry => none
  | .ingressBin => none
  | .binApply => none
  | .binAck => none
  | .refusalNotice => none
  | .settleComplete => none
  | .doorbell => none
  | .queueNop => none
  | .queueLaunch => none
  | .queueEvent => none
  | .eventWrite => none
  | .queueWait => none
  | .waitRecheck => none
  | .queueInval => none
  | .invalTeardown => none
  | .resumeReplay => none
  | .resumeCancel => none
  | .resumeUnitpc => none
  | .resumeNext => none
  | .resumeAbort => none
  | .sealRetry => none
  | .dispatchStep => none
  | .teamSave => none
  | .gridRetire => none
  | .watchdog => none
  | .taskRetire => none
  | .pageWalk => none
  | .faultQueueWrite => none
  | .debugHalt => none
  | .singleStep => none
  | .debugResume => none
  | .hostRegWrite => none
  | .bar0BadAccess => none
  | .chipcarveWrite => none
  | .chipcarveApply => none
  | .resctlWrite => none
  | .hostBar2Read => none
  | .hostBar2Write => none
  | .keyLoad => none
  | .bringUp => none
  | .stageTimeout => none
  | .setPowerCap => none
  | .clockLower => none
  | .clockRaise => none
  | .thermalTrip => none
  | .fwImageWrite => none
  | .liveUpdate => none
  | .aliveMsg => none
  | .updateRollback => none
  | .floorRaise => none
  | .lifetimeRead => none
  | .lifetimePersist => none
  | .powerDown => none
  | .getVersion => none
  | .getCapabilities => none
  | .negotiateAlgorithms => none
  | .getDigests => none
  | .getCertificate => none
  | .challenge => none
  | .getMeasurements => none
  | .setArrears => none
  | .migrationPool => none
  | .podJobRegister => none
  | .podArrivalMsg => none
  | .podCompletionMsg => none
  | .flitReceive => none
  | .linkRetrain => none
  | .arrearsWin => none
  | .remoteAccess => none
  | .remoteStoreAck => none
  | .deliveryTimeout => none
  | .migrationRun => none
  | .reshardAccept => none
  | .reshardStepComplete => none
  | .progressWrite => none
  | .reshardEnd => none
  | .reshardStop => none
  | .powerLoss => none
  | .dbgctlHostWrite => none
  | .stepCancel => none
  | .histogramMinute => none

/-- The unit under issue goes on to its own effect: its split exists; it breaks no rule that raises ILLEGAL_OP (R55, R63,
R69); its group's role may issue it (R148); it is not a group-wide unit of a part of a group (R181); it does not wait
(R82, R146, R186, R328); no register it reads or writes is empty (R82); and it does not stand at a JOIN without being a
REGANG (R137). -/
def State.issues (s : State) (u : Use) : Bool :=
  match s.split? s.u.iss.sid with
  | none => false
  | some p =>
    s.unitLegal u && u.roleOk s.role && !u.partGroup && u.ready && s.pendFree u &&
      (!gatedByFence u.major || s.fenceDone p) && !s.destEmpty u && !s.joinBreach p u && !s.anyEmpty u.reads

/-- An instruction's unit goes on to its own effect. -/
abbrev Runs (i : Instr) (s : State) : Prop := ((meaningOf i s).any fun m => s.issues m.use) = true

/-- An instruction whose unit goes on to its own effect answers a next state, and it is one of which `P` holds. -/
def RunsTo (i : Instr) (s : State) (P : State → Prop) : Prop := Runs i s → ∃ t, exec i s = .next t ∧ P t

/-! ### What an issued unit leaves -/

/-- A unit delivers `k` V registers from `vd` on and does nothing else (R61, R73): the lanes with a true effective mask
hold `f`, with zi the other active lanes hold zero, those registers are full, and every other register, every memory byte
and all else is as the issue leaves it. -/
structure State.WritesV (s t : State) (vd k : Nat) (f : Nat → Nat) : Prop where
  result : ∀ l ∈ s.elanes, t.getVs (s.lane l) vd k = f l % 2 ^ (32 * k)
  zeroed : s.zi = true → ∀ l ∈ s.act, s.maskOk l = false → t.getVs (s.lane l) vd k = 0
  full : ∀ l ∈ s.wlanes, ∀ n, vd ≤ n → n < vd + k → t.isEmpty (s.lane l) n = false
  others : ∀ x n, (∀ l ∈ s.wlanes, x = s.lane l → n < vd ∨ vd + k ≤ n) →
    t.getV x n = s.getV x n ∧ t.isEmpty x n = s.isEmpty x n
  rest : { t with r.v := s.r.v, r.ve := s.r.ve } = s.issued

/-- A unit delivers a mask register bit by bit and does nothing else (R61, R73, R84). -/
structure State.WritesM (s t : State) (md : Nat) (f : Nat → Bool) : Prop where
  result : md ≠ 0 → ∀ l ∈ s.elanes, maskBit (t.getM (s.slice (l / 4)) md) (l % 4) = f l
  zeroed : md ≠ 0 → s.zi = true → ∀ l ∈ s.act, s.maskOk l = false →
    maskBit (t.getM (s.slice (l / 4)) md) (l % 4) = false
  others : ∀ c i, i < 4 → (∀ l ∈ s.wlanes, c = s.slice (l / 4) → i ≠ l % 4) →
    maskBit (t.getM c md) i = maskBit (s.getM c md) i
  regs : ∀ c n, n ≠ md → t.getM c n = s.getM c n
  rest : { t with r.mr := s.r.mr } = s.issued

/-- A unit writes one S register in every slice of its split and does nothing else (R83, R103, R139). -/
structure State.WritesS (s t : State) (sd : Nat) (f : SliceId → Word) : Prop where
  result : ∀ c ∈ s.slices, t.getS c sd = f c
  others : ∀ c n, c ∉ s.slices ∨ n ≠ sd → t.getS c n = s.getS c n
  rest : { t with r.sr := s.r.sr } = s.issued

/-- An instruction runs and delivers `k` V registers from `vd` on, `f l` in lane l. -/
abbrev State.Gives (s : State) (i : Instr) (vd k : Nat) (f : Nat → Nat) : Prop :=
  RunsTo i s fun t => s.WritesV t vd k f

/-- A format A instruction runs and delivers, in each element of width w of vd, `f w a b c` of the elements of va, vb and
vc (R90). -/
abbrev State.GivesA (s : State) (i : Instr) (o : OpA) (f : Nat → Nat → Nat → Nat → Nat) : Prop :=
  s.Gives i o.vd.toNat s.regsPer (s.perElem o.va.toNat o.vb.toNat (s.vc o.vd.toNat) f)

/-- A format A instruction of one source runs and delivers, in each element of width w of vd, `f w a` (R90). -/
abbrev State.GivesA1 (s : State) (i : Instr) (o : OpA1) (f : Nat → Nat → Nat) : Prop :=
  s.Gives i o.vd.toNat s.regsPer (s.perElem o.va.toNat o.va.toNat o.va.toNat fun w a _ _ => f w a)

/-- A shift runs and delivers, in each element of width w of vd, `f w a n` of the element of va and the low 8 bits of the
element of vb, or of register vb itself under 64-bit packing (R92). -/
abbrev State.GivesShift (s : State) (i : Instr) (o : OpA) (f : Nat → Nat → Nat → Nat) : Prop :=
  s.Gives i o.vd.toNat s.regsPer fun l =>
    joinElems (packShape s.pack).2 (fun e => f (packShape s.pack).2 (elem (s.opV l o.va.toNat) e (packShape s.pack).2)
      (elem (s.getV (s.lane l) o.vb.toNat).toNat e (packShape s.pack).2 % 256)) (packShape s.pack).1

/-- A compare runs and delivers the truth of `f a b` to mask register md, lane by lane (R97, R115). -/
abbrev State.GivesC (s : State) (i : Instr) (o : OpC) (f : Nat → Nat → Bool) : Prop :=
  RunsTo i s fun t => s.WritesM t o.md.toNat fun l => f (s.opV l o.va.toNat) (s.opV l o.vb.toNat)

/-- An immediate instruction runs and delivers, in each element of width w of vd, `f w a` (R98). -/
abbrev State.GivesI (s : State) (i : Instr) (o : OpI) (f : Nat → Nat → Nat) : Prop :=
  s.Gives i o.vd.toNat 1 (s.perElem o.va.toNat o.va.toNat o.va.toNat fun w a _ _ => f w a)

/-- A floating-point instruction runs and delivers, in each element of vd, `f fmt rnd a b c` of the elements of va, vb and vc,
with the rounding of the lane's slice (R90, R108, R21). -/
abbrev State.GivesF (s : State) (i : Instr) (o : OpA) (f : Fmt → Rnd → Nat → Nat → Nat → Nat) : Prop :=
  s.Gives i o.vd.toNat s.regsPer fun l =>
    s.perElem o.va.toNat o.vb.toNat (s.vc o.vd.toNat) (fun _ a b c => f s.fmt (s.roundOf (s.slice (l / 4))) a b c) l

/-- A conversion delivers as WritesV says, and the generators of the executing lanes whose slice rounds by STOCH advance by
`n` words (R28, R120). -/
structure State.Converts (s t : State) (vd k n : Nat) (f : Nat → Nat) : Prop where
  writes : s.WritesV { t with r.ln := s.r.ln } vd k f
  advanced : ∀ l ∈ s.elanes, s.stoch (s.slice (l / 4)) = true →
    t.lan (s.lane l) = { s.lan (s.lane l) with gen := genIter (s.gen (s.lane l)) n }
  kept : ∀ x, (∀ l ∈ s.elanes, x = s.lane l → s.stoch (s.slice (l / 4)) = false) → t.lan x = s.lan x

/-- A conversion between widths ws and wt runs and delivers by the shape rule (R120): `cvt rnd x` converts one element. -/
abbrev State.GivesCvt (s : State) (i : Instr) (va vd ws wt : Nat) (cvt : Rnd → Nat → Nat) : Prop :=
  RunsTo i s fun t => s.Converts t vd (if wt = 64 then 2 else 1) (cvtShape ws wt).1 (s.cvtLane va vd ws wt cvt)

/-- The exponent entry behind the data registers of a lane's packed micro-block at `va` (R32, R125). -/
def State.dxExpEntry (s : State) (l va : Nat) : Nat :=
  s.getVs (s.lane l) va (s.dxRegs (s.slice (l / 4))) / 2 ^ (32 * (dxShape (s.dxCode (s.slice (l / 4)))).2.2)

/-- An SFU operation is issued (R116): its results are in flight, vd is empty with its contents unchanged in the lanes with a
true effective mask, and nothing else has changed. -/
structure State.SendsSfu (s t : State) (vd : Nat) (f : Nat → Word) : Prop where
  inFlight : t.e.sfu = s.e.sfu ++
    [{ id := s.u.uid, team := s.u.iss.team, group := s.u.iss.group, vd := vd, results := s.elanes.map fun l => (l, f l) }]
  emptied : ∀ l ∈ s.elanes, t.isEmpty (s.lane l) vd = true ∧ t.getV (s.lane l) vd = s.getV (s.lane l) vd
  zeroed : s.zi = true → ∀ l ∈ s.act, s.maskOk l = false → t.getV (s.lane l) vd = 0
  others : ∀ x n, (∀ l ∈ s.wlanes, x = s.lane l → n ≠ vd) → t.getV x n = s.getV x n ∧ t.isEmpty x n = s.isEmpty x n
  rest : { t with r.v := s.r.v, r.ve := s.r.ve, e.sfu := s.e.sfu, u.uid := s.u.uid } = s.issued

/-- An SFU instruction runs and issues its operation: `f rnd x` rounds the function of the exact operand x (R116, R117). -/
abbrev State.GivesSfu (s : State) (i : Instr) (o : OpA1) (f : Rnd → XVal → Nat) : Prop :=
  RunsTo i s fun t => s.SendsSfu t o.vd.toNat fun l =>
    BitVec.ofNat 32 (f (s.roundOf (s.slice (l / 4))) (fp32.value (s.getV (s.lane l) o.va.toNat).toNat))

/-- A two-address 16-bit instruction runs and delivers `f vd va` to vd (R47). -/
abbrev State.Gives16 (s : State) (i : Instr) (o : Op16) (f : Word → Word → Word) : Prop :=
  s.Gives i o.vd.toNat 1 fun l => (f (s.getV (s.lane l) o.vd.toNat) (s.getV (s.lane l) o.va.toNat)).toNat

/-- A scalar instruction runs and writes `f c` to Sd in each slice c of its split (R103). -/
abbrev State.GivesS (s : State) (i : Instr) (sd : Nat) (f : SliceId → Word) : Prop :=
  RunsTo i s fun t => s.WritesS t sd f

/-- A memory unit issues its lanes' accesses (R158 to R160): they are in flight, its destination registers are empty with
their contents unchanged, its counter has risen, and no byte of memory, S, M or other register has changed. -/
structure State.Accesses (s t : State) (o : MemOp) : Prop where
  inFlight : t.k.acc = s.k.acc ++ (s.plans o).mapIdx fun i p => s.accessOf o p i
  emptied : ∀ l ∈ s.elanes, ∀ n, o.dst ≤ n → n < o.dst + o.dstN →
    t.isEmpty (s.lane l) n = true ∧ t.getV (s.lane l) n = s.getV (s.lane l) n
  zeroed : s.zi = true → ∀ l ∈ s.act, s.maskOk l = false → t.getVs (s.lane l) o.dst o.dstN = 0
  others : ∀ x n, (∀ l ∈ s.wlanes, x = s.lane l → n < o.dst ∨ o.dst + o.dstN ≤ n) →
    t.getV x n = s.getV x n ∧ t.isEmpty x n = s.isEmpty x n
  counted : ∀ n, o.cnt = some n → s.cur.slices.Nodup → ∀ c ∈ s.cur.slices,
    t.getC (s.slice c) n = s.getC (s.slice c) n + (s.elanes.filter fun l => decide (l / 4 = c)).length
  memory : t.m = s.m
  scalars : t.r.sr = s.r.sr
  masks : t.r.mr = s.r.mr
  slices : t.r.sl = s.r.sl
  lanes : t.r.ln = s.r.ln
  system : t.g = s.g
  engines : t.e = s.e
  splits : t.x = s.issued.x

/-! ### Branches -/

/-- The split under issue goes to an address. -/
def State.goto (s : State) (q : Pc) : State := s.modSplit s.u.iss.sid fun p => { p with pc := q }

/-- A divergence would overfill the mask stack of a slice, which holds 16 entries (R87, R134). -/
def State.stackFull (s : State) (out : Nat → Pc) : Bool :=
  s.cur.slices.any fun c => decide (16 < (s.slc (s.slice c)).stack.length + max 1 (s.paths c out).length)

/-- A divergence at join `j` (R132, R134): every slice pushes its entries and goes on with its first path, and the split
divides by it under a new frame with the smallest unused token. -/
def State.split2 (s : State) (out : Nat → Pc) (j : Pc) (fall : Option Pc) : State :=
  (s.cur.slices.foldl (fun t c =>
    t.modSlc (s.slice c) fun x => x.diverge j (s.paths c out) (firstPath fall (s.paths c out))) s).divide s.u.iss.sid
    (fun c => (firstPath fall (s.paths c out)).1)
    fun x => { x with frames := { join := j, token := s.freshToken s.cur.team s.cur.group } :: x.frames }

/-- A lane's access taken to its line, as CACHE does (R265). -/
def LanePlan.lineOf (p : LanePlan) : LanePlan :=
  { p with addr := p.addr / 128 * 128, gaddr := p.gaddr / 128 * 128, pa := p.pa / 128 * 128, loc := p.loc / 128 * 128 }

/-- A memory instruction, none of whose lanes meets a precise fault, runs and issues its accesses (R158 to R160). -/
abbrev State.GivesAcc (s : State) (i : Instr) (o : MemOp) : Prop :=
  State.memFault o (s.plans o) = none → RunsTo i s fun t => s.Accesses t o

/-- A memory instruction runs: it takes the precise fault of its lanes that R179 puts first if one meets any, and otherwise
issues its accesses (R158 to R160, R179). -/
abbrev State.GivesMem (s : State) (i : Instr) (o : MemOp) : Prop :=
  s.GivesAcc i o ∧ ∀ f, State.memFault o (s.plans o) = some f → Runs i s → exec i s = .next (s.fault f)

/-- A unit stores `w` to the 32-bit word at a location and writes `st` to Sd in every slice of its split. -/
abbrev State.wordOp (s : State) (loc w sd : Nat) (st : Word) : State := (s.issued.store loc w 4).setSAll sd st

/-- A 64-bit number is written to the pair Sd, Sd+1 in every slice of the split under issue. -/
abbrev State.setSPair (s : State) (sd v : Nat) : State :=
  (s.setSAll sd (BitVec.ofNat 32 v)).setSAll (sd + 1) (BitVec.ofNat 32 (v / 2 ^ 32))

/-- The wait of the unit under issue has exceeded SYS_BARWATCH (R205). -/
def State.stalled (s : State) : Bool :=
  let w := (s.team s.u.iss.team).barWatch.toNat
  decide (w ≠ 0 ∧ w < s.u.clk - s.cur.waitFrom.getD s.u.clk)

/-- The code that refuses a TSPLIT (R281), none where the tile divides. -/
def State.splitRefusal (s : State) (x : Tile) (arg : Nat) : Option Nat :=
  let die := s.coreOf s.gid / 192
  let hv := x.layout.halves (arg % 4) (arg / 2 ^ 16)
  if decide (arg / 4 % 2 ^ 14 ≠ 0) || x.layout.splitBad (arg % 4) (arg / 2 ^ 16) then some 17
  else if x.isSplit then some 12
  else if ((s.holders x).any fun h => decide (h.holder ≠ .team s.u.iss.team)) || decide (s.waitingOn x ≠ 0) then some 1
  else match s.freeEntry die none with
    | none => some 2
    | some a =>
      if (s.freeEntry die (some a.entry)).isNone then some 2
      else if 32 ≤ s.crowd s.asid hv.1 ∨ 32 ≤ s.crowd s.asid hv.2 then some 3
      else none

/-- The machine's memory is in its canonical form: locations rise strictly and no entry is zero. -/
def State.MemWf (s : State) : Prop := Memory.wf s.m.mem

end Sys2Proof.Machine
end

