-- ==== Sys2Proof/Certificates/Slice0/Obligations.lean ====
section
/-! DEFINITION. The statements about this machine, for the provers. -/

open Sys2Proof Sys2Proof.Machine

/-! ### Encoding -/

/-- Decoding and encoding agree (R43 to R53): the word of every instruction, with every value of every operand, fits its
length and decodes to that instruction and length; the word of every MODP and of every PBLK whose pattern keeps R62
decodes to it (R56). -/
def Obligations.DecodeEncode : Prop :=
  (∀ (i : Instr) (n w : Nat), encode i = some (n, w) →
    (n = 16 ∨ n = 32) ∧ w < 2 ^ n ∧ decodeWord w = .instr i (n / 8) ∧ decodeTableWord n w = some i) ∧
  (∀ m : Modp, decodeWord m.word = .modp m) ∧
  (∀ p : Pblk, p.patternOk = true →
    decodeWord (0x2000003F + p.mask.toNat * 2 ^ 6 + p.count.toNat * 2 ^ 9 + p.pattern.toNat * 2 ^ 12) = .pblk p) ∧
  ∀ p, p < 2 ^ 23 → decodeWord (0x4000003F + p * 2 ^ 6) = .immx p

/-- Words written out from the encoding tables of the spec, and the examples it prints, decode to the instructions they
stand for; words that break an encoding decode to none. -/
def Obligations.DecodeWords : Prop :=
  decodeWord 0xC0508089 = .instr (.icmpLtu { tb := false, ta := false, vb := 5, va := 4, md := 2 }) 4 ∧
  decodeWord 0x20ED0151 = .instr (.smovi { imm := 7, lo := 104, sd := 5 }) 4 ∧
  decodeWord 0x600000BD = .instr (.peerid { sd := 2 }) 4 ∧
  decodeWord 0x6010A0FD = .instr (.peeridQ { sa := 5, sd := 3 }) 4 ∧
  decodeWord 0xA000001F = .instr .nop 4 ∧
  decodeWord 0xC0C0001F = .instr (.sleep { imm := 6 }) 4 ∧
  decodeWord 0x8000001D = .instr .ret 4 ∧
  decodeWord (0x00000001 + 7 * 2 ^ 6 + 5 * 2 ^ 13 + 6 * 2 ^ 20) =
    .instr (.iadd { tb := false, ta := false, vb := 6, va := 5, vd := 7 }) 4 ∧
  decodeWord (0x00000001 + 2 ^ 28 + 2 ^ 27) = .instr (.iadd { tb := true, ta := true, vb := 0, va := 0, vd := 0 }) 4 ∧
  decodeWord 0xA020001F = .reserved ∧
  decodeWord 0x6020003D = .reserved ∧
  decodeWord 0xE000003F = .reserved

/-! ### Turns and issue -/

/-- A step runs the decoded instruction (R43, R44, R62, R146). A turn that the agenda (log entry 1) gives to a ready split,
whose unit is found at its PC, is exec of that unit's instruction under the unit's context, followed by what settles a unit; an illegal
encoding raises ILLEGAL_OP, a fetch fault is held, and a fetch that meets poison is POISON (R177; log entry 52); an instruction word
alone is a unit whose next address is its own
plus its length; a halfword of an executable page that no instruction cache holds is memory's, or POISON; and a turn that the agenda
gives to an event is exec of that event under its argument. -/
def Obligations.StepRunsDecoded : Prop :=
  (∀ (s : State) (sid : Nat) (rest : List Turn) (p : Split), s.tick.u.agenda = .issue sid :: rest →
    let t : State := { s.tick with u.agenda := rest }
    t.split? sid = some p →
    (t.ready p = false → step s = .next t) ∧
    (t.ready p = true →
      (∀ i u v, t.front p = .run i u v →
        step s = andThen (exec i (v.take p u)) fun x => x.settleUnit t p u.pblk) ∧
      (∀ a w v, t.front p = .illegal a w v → step s = .next
        (((v.take p { unitPc := a, wordPc := w, nextPc := a }).fault
          { code := ILLEGAL_OP, wordPc := some w }).finishStep p)) ∧
      (∀ u c a w, t.front p = .hold u c a w →
        (c ≠ POISON → step s = .next (t.holdFetch p u c a w)) ∧ (c = POISON → step s = .next (t.poisonFetch p u a w))) ∧
      (t.front p = .wait → step s = .next (t.waitFetch p)))) ∧
  (∀ (s : State) (p : Split) (i : Instr) (n : Nat) (v : State),
    s.fetchWord (s.coreOf ⟨p.team, p.group⟩) (s.launch p.team).asid (s.launch p.team).chain p.pc.toNat 0 = .word (.instr i n) v →
      s.front p = .run i { unitPc := p.pc, wordPc := p.pc, nextPc := p.pc + BitVec.ofNat 56 n } v) ∧
  (∀ (s v : State) (core asid chain a i h : Nat), s.fetchHalf core asid chain a (2 * i) = .half h v →
    (h % 2 = 0 → s.fetchWord core asid chain a i = .word (decodeWord h) v) ∧
    ∀ (k : Nat) (z : State), h % 2 = 1 → v.fetchHalf core asid chain ((a + 2) % 2 ^ 56) (2 * i + 1) = .half k z →
      s.fetchWord core asid chain a i = .word (decodeWord (h + 2 ^ 16 * k)) z) ∧
  (∀ (s : State) (core asid chain a i : Nat) (lf : Leaf), s.translate core asid a (64 + 2 * i) = some lf → lf.x = true →
    s.migHeld core asid lf a = false →
    let loc := s.locOf lf (lf.pa a)
    let v := (if inHost (lf.pa a) = true then s else s.rekey loc (lf.pa a) lf.key).missWalks core asid [a]
    let w := v.fetchTouch core asid chain lf (lf.pa a) loc
    let c := Holder.icache core asid (lf.pa a / 128 * 128)
    (s.fetchCached lf (lf.pa a) = false ∨ v.snapOf c (loc / 128) = none →
      ((v.poisoned loc 2 || v.retiredAt lf (lf.pa a)) = true → s.fetchHalf core asid chain a i = .hold POISON a) ∧
      ((v.poisoned loc 2 || v.retiredAt lf (lf.pa a)) = false → s.fetchHalf core asid chain a i =
        .half (v.load loc 2) (if s.fetchCached lf (lf.pa a) = true then w.keepCopy c (loc / 128) else w)))) ∧
  ∀ (s : State) (i : Instr) (a : EventArg) (rest : List Turn), s.tick.u.agenda = .event i a :: rest → encode i = none →
    step s = exec i { s.tick with u.agenda := rest, u.ev := a }

/-- What stands before a unit's own effect, in order (R55, R63, R69, R70, R82, R137, R146, R148, R181): a breach of the
operand rules, among them every one that holds whatever stands in front of the instruction, raises ILLEGAL_OP; then the
role, then a group-wide unit of a part of a group, and in majors 0x17 and 0x18 a JOIN without a REGANG (R203); then the unit
waits for what it needs; then EMPTY_READ, then a JOIN without a REGANG outside the branches, and then the wait for registers
that are empty; a branch at a JOIN waits for them too, and then raises DIVERGE or the MISALIGN of its target. -/
def Obligations.IssueChecks : Prop :=
  ∀ (i : Instr) (s : State) (m : Meaning) (p : Split), meaningOf i s = some m → s.split? s.u.iss.sid = some p →
    let u := m.use
    let mayGo := u.ready && s.pendFree u && (!gatedByFence u.major || s.fenceDone p) && !s.destEmpty u
    (i.wf = false → s.unitLegal u = false) ∧
    (s.unitLegal u = false → exec i s = .next (s.fault { code := ILLEGAL_OP, wordPc := some s.u.iss.wordPc })) ∧
    (s.unitLegal u = true →
      (u.roleOk s.role = false → exec i s = .next (s.fault { code := ROLE })) ∧
      (u.roleOk s.role = true →
        (u.partGroup = true → exec i s = .next (s.fault { code := DIVERGE, info := 2 })) ∧
        (u.partGroup = false →
          let early := (decide (u.major = 0x17) || decide (u.major = 0x18)) && s.joinBreach p u
          (early = true → exec i s = .next (s.fault { code := DIVERGE, info := 1 })) ∧
          (early = false →
            (mayGo = false → exec i s = .next s.waiting) ∧
            (mayGo = true →
              (∀ n ls, s.trapRead u.reads = some (n, ls) →
                exec i s = .next (s.fault { code := EMPTY_READ, reg := n, lanes := some ls })) ∧
              (s.trapRead u.reads = none →
                (s.joinBreach p u = true → u.major ≠ 0x0E →
                  exec i s = .next (s.fault { code := DIVERGE, info := 1 })) ∧
                (s.joinBreach p u = true → u.major = 0x0E → s.anyEmpty u.reads = false →
                  ∃ f : FaultInfo, exec i s = .next (s.fault f) ∧ (f.code = MISALIGN ∨ f.code = DIVERGE ∧ f.info = 1)) ∧
                (s.joinBreach p u = false ∨ u.major = 0x0E → s.anyEmpty u.reads = true →
                  exec i s = .next s.waiting)))))))

/-! ### Reset and invariants -/

/-- Right after reset nothing is resident or in flight, and the registers hold the values the spec gives for reset; memory
reads 0, which for a byte whose reset contents the spec does not give is the model's choice (log entry 12). -/
def Obligations.ResetState : Prop :=
  let s := State.reset
  s.x = {} ∧ s.k = {} ∧ s.e = {} ∧ s.d = {} ∧
  (∀ a, s.load a 1 = 0) ∧ s.MemWf ∧
  (∀ d, s.dieReg d 0xC0 = 0 ∧ s.dieReg d 0xC1 = 0x00010000 ∧ s.dieReg d 0xC2 = 0x00001000 ∧ s.dieReg d 0xC3 = 0 ∧
    s.dieReg d 0xC4 = 0 ∧ s.dieReg d 0xC5 = 0 ∧ s.dieReg d 0xC6 = 0 ∧ s.dieReg d 0xC7 = 0 ∧ s.dieReg d 0xC8 = 6 ∧
    s.dieReg d 0xC9 = 0 ∧ s.dieReg d 0xCA = 0 ∧ ∀ n, n < 16 → s.dieReg d (0xD2 + 3 * n) = 0) ∧
  (∀ c, s.coreReg c 0x80 = 0 ∧ s.coreReg c 0x81 = 0 ∧ s.coreReg c 0x82 = 0x0040 ∧ s.coreReg c 0x83 = 0x0400 ∧
    s.coreReg c 0x84 = 0x0100) ∧
  s.p.ready = false ∧ s.p.failed = false ∧ s.p.stage = 0 ∧ s.p.badAcc = 0 ∧ s.p.cap = 3200 ∧ s.p.mhz = 940 ∧
  (∀ l n, s.getV l n = 0 ∧ s.isEmpty l n = false) ∧ (∀ c n, s.getS c n = 0 ∧ s.getC c n = 0) ∧
  ∀ c n, s.getM c n = if n = 0 then 15 else 0

/-- Every step keeps memory in its canonical form. -/
def Obligations.StepKeepsMemWf : Prop := ∀ s t : State, s.MemWf → step s = .next t → t.MemWf

/-- Mask registers (R84): a mask register holds one bit per lane of its slice, bit i for lane-in-slice i; a MODP, a PBLK and
a branch read their own slice's four bits; M0 reads 1111 and a write to it is discarded. -/
def Obligations.MaskRegisters : Prop :=
  ∀ (s : State) (c : SliceId) (l : LaneId) (n : Nat) (b : Bool) (m : BitVec 4),
    (s.getM c 0 = 15 ∧ s.setM c 0 m = s ∧ s.setMBit l 0 b = s) ∧
    (n ≠ 0 → (s.setM c n m).getM c n = m ∧ maskBit ((s.setMBit l n b).getM l.slice n) (l.l % 4) = b ∧
      (∀ i, i < 4 → i ≠ l.l % 4 → maskBit ((s.setMBit l n b).getM l.slice n) i = maskBit (s.getM l.slice n) i) ∧
      ∀ d k, (d, k) ≠ (l.slice, n) → (s.setMBit l n b).getM d k = s.getM d k) ∧
    (s.u.iss.cond = none → ∀ j, s.emask j = (decide (j ∈ s.act) && maskBit (s.getM (s.slice (j / 4)) s.maskReg) (j % 4))) ∧
    (∀ (p : Split) (k : Pblk), p.slices.Nodup → ∀ d ∈ p.slices,
      ((s.latch p (some k)).slc ⟨p.team, p.group, d⟩).blkMask = s.getM ⟨p.team, p.group, d⟩ k.mask.toNat) ∧
    (∀ v, s.u.iss.cond = some v → ∀ j, s.emask j = (decide (j ∈ s.act) &&
      (maskBit (s.getM (s.slice (j / 4)) s.maskReg) (j % 4) &&
        (maskBit (s.slc (s.slice (j / 4))).blkMask (j % 4) == v)))) ∧
    ∀ (o : OpB) (j : Nat), s.takesB o j = (maskBit (s.getM (s.slice (j / 4)) o.mreg.toNat) (j % 4) != o.sense)

/-! ### Results of the arithmetic families -/

/-- Major 0x00 (R90, R91, R93): each instruction of the family, on every operand and packing, delivers per element the
result its row of the table gives, and changes nothing else. -/
def Obligations.IntegerArithmetic : Prop :=
  ∀ (s : State) (o : OpA),
    s.GivesA (.iadd o) o (fun w a b _ => fitTo w s.sat s.alt (readInt w s.alt a + readInt w s.alt b)) ∧
    s.GivesA (.isub o) o (fun w a b _ => fitTo w s.sat s.alt (readInt w s.alt a - readInt w s.alt b)) ∧
    s.GivesA (.imin o) o (fun w a b _ => wrap w (min (sext w a) (sext w b))) ∧
    s.GivesA (.imax o) o (fun w a b _ => wrap w (max (sext w a) (sext w b))) ∧
    s.GivesA (.iminu o) o (fun _ a b _ => min a b) ∧
    s.GivesA (.imaxu o) o (fun _ a b _ => max a b) ∧
    s.GivesA (.iaddc o) o (fun _ a b c => (a + b + c % 2) / 2 ^ 32) ∧
    s.GivesA (.iabsd o) o (fun w a b _ => (readInt w s.alt a - readInt w s.alt b).natAbs)

/-- Major 0x01 (R90, R91, R94): products, dot products of bytes, POPC and CLZ. -/
def Obligations.IntegerMultiply : Prop :=
  ∀ (s : State) (o : OpA) (p : OpA1),
    s.GivesA (.imul o) o (fun w a b _ => fitTo w s.sat s.alt (readInt w s.alt a * readInt w s.alt b)) ∧
    s.GivesA (.imulh o) o (fun w a b _ => wrap 32 (sext w a * sext w b / 2 ^ 32)) ∧
    s.GivesA (.imulhu o) o (fun _ a b _ => a * b / 2 ^ 32) ∧
    s.GivesA (.imad o) o
      (fun w a b c => fitTo w s.sat s.alt (readInt w s.alt a * readInt w s.alt b + readInt w s.alt c)) ∧
    s.GivesA (.idot4 o) o (fun _ a b c => fitTo 32 s.sat false
      (sext 32 c + ([0, 1, 2, 3].map fun i => sext 8 (elem a i 8) * sext 8 (elem b i 8)).sum)) ∧
    s.GivesA (.idot4u o) o (fun _ a b c => fitTo 32 s.sat true
      ((c : Int) + ([0, 1, 2, 3].map fun i => ((elem a i 8 * elem b i 8 : Nat) : Int)).sum)) ∧
    s.GivesA1 (.popc p) p popBits ∧
    s.GivesA1 (.clz p) p clzBits

/-- Majors 0x02 and 0x03 (R92, R95, R96): bitwise operations, bit reversal, shifts, rotates, the funnel shift and the
bit fields. -/
def Obligations.LogicAndShift : Prop :=
  ∀ (s : State) (o : OpA) (p : OpA1),
    s.GivesA (.andB o) o (fun _ a b _ => a &&& b) ∧
    s.GivesA (.orB o) o (fun _ a b _ => a ||| b) ∧
    s.GivesA (.xorB o) o (fun _ a b _ => a ^^^ b) ∧
    s.GivesA (.andn o) o (fun w a b _ => a &&& notBits w b) ∧
    s.GivesA (.orn o) o (fun w a b _ => a ||| notBits w b) ∧
    s.GivesA (.xnor o) o (fun w a b _ => notBits w (a ^^^ b)) ∧
    s.GivesA (.sel o) o (fun w a b c => (a &&& c) ||| (b &&& notBits w c)) ∧
    s.GivesA1 (.brev p) p revBits ∧
    s.GivesShift (.shl o) o shlBits ∧
    s.GivesShift (.shr o) o shrBits ∧
    s.GivesShift (.sar o) o sarBits ∧
    s.GivesShift (.rol o) o rolBits ∧
    s.GivesShift (.ror o) o rorBits ∧
    s.GivesA (.fshl o) o (fun _ a b c => funnel a c (b % 256)) ∧
    s.GivesA (.bfx o) o (fun _ a b _ => bitField s.alt a b) ∧
    s.GivesA (.bfi o) o (fun _ a b c => bitInsert a b c)

/-- Majors 0x04 and 0x0B (R97, R115, R84): a compare writes the truth of its condition to its mask register, bit by bit
under the effective mask; M0 keeps reading 1111. -/
def Obligations.Compares : Prop :=
  ∀ (s : State) (o : OpC),
    s.GivesC (.icmpEq o) o (fun a b => decide (a = b)) ∧
    s.GivesC (.icmpNe o) o (fun a b => decide (a ≠ b)) ∧
    s.GivesC (.icmpLt o) o (fun a b => decide (sext (packShape s.pack).2 a < sext (packShape s.pack).2 b)) ∧
    s.GivesC (.icmpLe o) o (fun a b => decide (sext (packShape s.pack).2 a ≤ sext (packShape s.pack).2 b)) ∧
    s.GivesC (.icmpGt o) o (fun a b => decide (sext (packShape s.pack).2 a > sext (packShape s.pack).2 b)) ∧
    s.GivesC (.icmpGe o) o (fun a b => decide (sext (packShape s.pack).2 a ≥ sext (packShape s.pack).2 b)) ∧
    s.GivesC (.icmpLtu o) o (fun a b => decide (a < b)) ∧
    s.GivesC (.icmpGeu o) o (fun a b => decide (a ≥ b)) ∧
    s.GivesC (.fcmpEq o) o (fcond 0 s.fmt) ∧
    s.GivesC (.fcmpNe o) o (fcond 1 s.fmt) ∧
    s.GivesC (.fcmpLt o) o (fcond 2 s.fmt) ∧
    s.GivesC (.fcmpLe o) o (fcond 3 s.fmt) ∧
    s.GivesC (.fcmpGt o) o (fcond 4 s.fmt) ∧
    s.GivesC (.fcmpGe o) o (fcond 5 s.fmt) ∧
    s.GivesC (.fcmpUn o) o (fun a b => s.fmt.isNan a || s.fmt.isNan b) ∧
    s.GivesC (.fcmpOrd o) o (fun a b => !(s.fmt.isNan a || s.fmt.isNan b))

/-- Majors 0x05 and 0x06 (R51, R65, R98 to R102): the immediates, with their IMMX extension, and the moves. -/
def Obligations.ImmediatesAndMoves : Prop :=
  ∀ (s : State) (o : OpI) (m : OpMovi) (p : OpA1) (q : OpA) (u : OpUnpk) (b : OpBcast) (g : OpVget),
    s.GivesI (.iaddi o) o (fun w a => fitTo w s.sat s.alt (readInt w s.alt a + s.immS o.imm)) ∧
    s.GivesI (.andi o) o (fun _ a => a &&& wrap 32 (s.immS o.imm)) ∧
    s.GivesI (.ori o) o (fun _ a => a ||| wrap 32 (s.immS o.imm)) ∧
    s.GivesI (.xori o) o (fun _ a => a ^^^ wrap 32 (s.immS o.imm)) ∧
    s.GivesI (.shli o) o (fun w a => shlBits w a (s.immU o.imm % 256)) ∧
    s.GivesI (.shri o) o (fun w a => shrBits w a (s.immU o.imm % 256)) ∧
    s.GivesI (.sari o) o (fun w a => sarBits w a (s.immU o.imm % 256)) ∧
    s.Gives (.movi m) m.vd.toNat 1 (fun _ => (s.imm15 m.imm m.lo).toNat) ∧
    s.GivesA1 (.mov p) p (fun _ a => a) ∧
    s.Gives (.movhi p) p.vd.toNat 1 (fun l => (s.getV (s.lane l) p.va.toNat).toNat % 2 ^ 16 * 2 ^ 16 +
      (s.getV (s.lane l) (s.vc p.vd.toNat)).toNat % 2 ^ 16) ∧
    s.Gives (.lea q) q.vd.toNat 2 (fun l => wrap 64 ((s.getVs (s.lane l) q.va.toNat 2 : Int) +
      readInt 32 s.alt (s.getV (s.lane l) q.vb.toNat).toNat)) ∧
    s.Gives (.pack q) q.vd.toNat 1 (fun l =>
      if s.pack = 2 then joinElems 8 (fun e => fitTo 8 s.sat s.alt (sext 16
        (elem (s.getV (s.lane l) (if e < 2 then q.va.toNat else q.vb.toNat)).toNat (e % 2) 16))) 4
      else joinElems 16 (fun e => fitTo 16 s.sat s.alt (sext 32
        (s.getV (s.lane l) (if e = 0 then q.va.toNat else q.vb.toNat)).toNat)) 2) ∧
    s.Gives (.unpk u) u.vd.toNat 1 (fun l =>
      if s.pack = 2 then joinElems 16 (fun e => wrap 16 (readInt 8 s.alt
        (elem (s.getV (s.lane l) u.va.toNat).toNat (2 * u.n.toNat + e) 8))) 2
      else wrap 32 (readInt 16 s.alt (elem (s.getV (s.lane l) u.va.toNat).toNat u.n.toNat 16))) ∧
    s.GivesA (.perm q) q (fun _ x y z => joinElems 8 (fun i =>
      if 8 ≤ elem y i 4 then 0 else elem (x + 2 ^ 32 * z) (elem y i 4) 8) 4) ∧
    s.Gives (.bcast b) b.vd.toNat s.regsPer (fun l => s.opV (l / 4 * 4 + b.n.toNat) b.va.toNat) ∧
    s.Gives (.vget g) g.vd.toNat 1 (fun l =>
      if g.sel.toNat = 0 then (s.getS (s.slice (l / 4)) g.va.toNat).toNat
      else if g.sel.toNat = 1 then l
      else if g.sel.toNat = 2 then s.teamLane (s.lane l)
      else l % 4)

/-- Majors 0x07 and 0x08 (R83, R92, R103 to R105): a scalar instruction writes Sd in every slice of its split from that
slice's own S registers, the eight of SARITH are of format X, and none accepts a MODP. -/
def Obligations.Scalars : Prop :=
  ∀ (s : State) (o : OpX) (i : OpXI) (m : OpSmovi) (p : OpX1) (v : OpVput),
    (∀ n j, (n, j) ∈ [(0, Instr.sadd o), (1, .ssub o), (2, .smul o), (3, .sand o), (4, .sor o), (5, .sxor o), (6, .sshl o),
        (7, .sshr o)] →
      encode j = some (32, n * 2 ^ 29 + o.sb.toNat * 2 ^ 20 + o.sa.toNat * 2 ^ 13 + o.sd.toNat * 2 ^ 6 + 0x0F)) ∧
    (s.u.iss.modp.isSome = true → (s.split? s.u.iss.sid).isSome = true →
      ∀ j ∈ [Instr.sadd o, .ssub o, .smul o, .sand o, .sor o, .sxor o, .sshl o, .sshr o, .saddi i, .smovi m, .scmp o, .smov p,
        .vput v, .smovhi i, .ssar o, .ssel o],
      exec j s = .next (s.fault { code := ILLEGAL_OP, wordPc := some s.u.iss.wordPc })) ∧
    s.GivesS (.sadd o) o.sd.toNat (fun c => s.getS c o.sa.toNat + s.getS c o.sb.toNat) ∧
    s.GivesS (.ssub o) o.sd.toNat (fun c => s.getS c o.sa.toNat - s.getS c o.sb.toNat) ∧
    s.GivesS (.smul o) o.sd.toNat (fun c => s.getS c o.sa.toNat * s.getS c o.sb.toNat) ∧
    s.GivesS (.sand o) o.sd.toNat (fun c => s.getS c o.sa.toNat &&& s.getS c o.sb.toNat) ∧
    s.GivesS (.sor o) o.sd.toNat (fun c => s.getS c o.sa.toNat ||| s.getS c o.sb.toNat) ∧
    s.GivesS (.sxor o) o.sd.toNat (fun c => s.getS c o.sa.toNat ^^^ s.getS c o.sb.toNat) ∧
    s.GivesS (.sshl o) o.sd.toNat (fun c =>
      BitVec.ofNat 32 (shlBits 32 (s.getS c o.sa.toNat).toNat ((s.getS c o.sb.toNat).toNat % 256))) ∧
    s.GivesS (.sshr o) o.sd.toNat (fun c =>
      BitVec.ofNat 32 (shrBits 32 (s.getS c o.sa.toNat).toNat ((s.getS c o.sb.toNat).toNat % 256))) ∧
    s.GivesS (.ssar o) o.sd.toNat (fun c =>
      BitVec.ofNat 32 (sarBits 32 (s.getS c o.sa.toNat).toNat ((s.getS c o.sb.toNat).toNat % 256))) ∧
    s.GivesS (.saddi i) i.sd.toNat (fun c => s.getS c i.sa.toNat + BitVec.ofInt 32 (s.immS i.imm)) ∧
    s.GivesS (.smovi m) m.sd.toNat (fun _ => s.imm15 m.imm m.lo) ∧
    s.GivesS (.scmp o) o.sd.toNat (fun c =>
      if (s.getS c o.sa.toNat).toInt < (s.getS c o.sb.toNat).toInt then -1
      else if s.getS c o.sa.toNat = s.getS c o.sb.toNat then 0 else 1) ∧
    s.GivesS (.smov p) p.sd.toNat (fun c => s.getS c p.sa.toNat) ∧
    s.GivesS (.vput v) v.sd.toNat (fun c =>
      s.getV (s.lane (if v.n.toNat = 4 then (s.sliceLanes s.u.iss.team s.u.iss.group c.s).headD (4 * c.s)
        else 4 * c.s + v.n.toNat)) v.va.toNat) ∧
    s.GivesS (.smovhi i) i.sd.toNat (fun c =>
      BitVec.ofNat 32 (s.immU i.imm * 2 ^ 16 + (s.getS c i.sa.toNat).toNat % 2 ^ 16)) ∧
    s.GivesS (.ssel o) o.sd.toNat (fun c =>
      if s.getS c o.sd.toNat ≠ 0 then s.getS c o.sa.toNat else s.getS c o.sb.toNat)

/-- Majors 0x09 and 0x0A (R21 to R23, R39, R108 to R114): floating-point arithmetic, exact and then rounded once. -/
def Obligations.FloatArithmetic : Prop :=
  ∀ (s : State) (o : OpA),
    s.GivesF (.fadd o) o (fun f r a b _ => roundTo f r (exactSum r.mode [f.value a, f.value b])) ∧
    s.GivesF (.fsub o) o (fun f r a b _ => roundTo f r (exactSum r.mode [f.value a, (f.value b).negate])) ∧
    s.GivesF (.fmul o) o (fun f r a b _ => roundTo f r ((f.value a).mul (f.value b))) ∧
    s.GivesF (.fmin o) o (fun f _ a b _ => f.pickNumber false a b) ∧
    s.GivesF (.fmax o) o (fun f _ a b _ => f.pickNumber true a b) ∧
    s.GivesF (.fminm o) o (fun f _ a b _ => f.pick false a b) ∧
    s.GivesF (.fmaxm o) o (fun f _ a b _ => f.pick true a b) ∧
    s.GivesF (.fcpys o) o (fun f _ a b _ =>
      if f.isNan a then f.nan else f.signed (f.neg b) (a % 2 ^ (f.eb + f.fb))) ∧
    s.GivesF (.ffma o) o (fun f r a b c => roundTo f r (exactSum r.mode [f.value c, (f.value a).mul (f.value b)])) ∧
    s.GivesF (.ffms o) o
      (fun f r a b c => roundTo f r (exactSum r.mode [(f.value c).negate, (f.value a).mul (f.value b)])) ∧
    s.GivesF (.fnma o) o
      (fun f r a b c => roundTo f r (exactSum r.mode [f.value c, ((f.value a).mul (f.value b)).negate])) ∧
    s.GivesF (.fnms o) o
      (fun f r a b c => roundTo f r (exactSum r.mode [(f.value c).negate, ((f.value a).mul (f.value b)).negate])) ∧
    s.GivesF (.fdot2 o) o (fun _ r a b c => roundTo fp32 r (exactSum r.mode (fp32.value c ::
      (List.range 2).map fun i => (if s.alt then bf16 else fp16).prod (elem a i 16) (elem b i 16)))) ∧
    s.GivesF (.fdot4 o) o (fun _ r a b c => roundTo fp32 r (exactSum r.mode (fp32.value c ::
      (List.range 4).map fun i => (if s.alt then e5m2 else e4m3).prod (elem a i 8) (elem b i 8)))) ∧
    s.Gives (.fscale o) o.vd.toNat s.regsPer (fun l =>
      joinElems (packShape s.pack).2 (fun e =>
        roundTo s.fmt (s.roundOf (s.slice (l / 4)))
          ((s.fmt.value (elem (s.opV l o.va.toNat) e (packShape s.pack).2)).scale
            (if s.pack = 1 then sext 16 (elem (s.getV (s.lane l) o.vb.toNat).toNat e 16)
              else sext 32 (s.getV (s.lane l) o.vb.toNat).toNat))) (packShape s.pack).1)

/-- Major 0x0C (R116, R117): an SFU instruction issues an operation whose results are in flight while vd is empty, and
SFU_RESULT lands them: each lane's vd holds its result and is full, and no other register, no memory and no other operation
has changed. The functions are computed to the model's own precision (log entry 14). -/
def Obligations.SfuOperations : Prop :=
  (∀ (s : State) (o : OpA1),
    s.GivesSfu (.frcp o) o (fun r a => roundTo fp32 r (sfuRcp a)) ∧
    s.GivesSfu (.frsq o) o (fun r a => roundTo fp32 r (sfuRsq a)) ∧
    s.GivesSfu (.fsqrt o) o (fun r a => roundTo fp32 r (sfuSqrt a)) ∧
    s.GivesSfu (.fexp2 o) o (fun r a => roundTo fp32 r (sfuExp2 a)) ∧
    s.GivesSfu (.flog2 o) o (fun r a => roundTo fp32 r (sfuLog2 a)) ∧
    s.GivesSfu (.fsin o) o (fun _ a => roundTo fp32 { } (sfuSin a)) ∧
    s.GivesSfu (.fcos o) o (fun _ a => roundTo fp32 { } (sfuCos a)) ∧
    s.GivesSfu (.ftanh o) o (fun _ a => roundTo fp32 { } (sfuTanh a))) ∧
  ∀ (s : State) (p : SfuOp), s.e.sfu.find? (fun q => decide (q.id = s.u.ev.id)) = some p →
    ∃ t, exec .sfuResult s = .next t ∧
      ((p.results.map (·.1)).Nodup → ∀ r ∈ p.results,
        t.getV ⟨p.team, p.group, r.1⟩ p.vd = r.2 ∧ t.isEmpty ⟨p.team, p.group, r.1⟩ p.vd = false) ∧
      (∀ x n, (∀ r ∈ p.results, (x, n) ≠ (⟨p.team, p.group, r.1⟩, p.vd)) →
        t.getV x n = s.getV x n ∧ t.isEmpty x n = s.isEmpty x n) ∧
      { t with r.v := s.r.v, r.ve := s.r.ve, e.sfu := s.e.sfu } = s ∧
      t.e.sfu = s.e.sfu.filter fun q => decide (q.id ≠ p.id)

/-- Major 0x0D (R21, R28 to R35, R119 to R126): conversions by the shape rule, with the generator words that STOCH rounding
consumes, the generator of a lane that does not execute standing still (log entry 61); FROUND, FCLASS and FEXPO; and the DX
micro-blocks: a packed block fills as many registers as its slice's code needs, and a split with a slice of the reserved code
raises FORMAT, whatever that slice's mask (log entry 62). -/
def Obligations.Conversions : Prop :=
  ∀ (s : State) (o : OpFcvt) (i : OpIcvt) (p : OpA1),
    (∀ f g, floatCode o.src.toNat = some f → floatCode o.tgt.toNat = some g →
      s.GivesCvt (.fcvt o) o.va.toNat o.vd.toNat f.width g.width fun r x => roundTo g r (f.value x)) ∧
    (∀ w u g, intCode i.icode.toNat = some (w, u) → floatCode i.fcode.toNat = some g →
      s.GivesCvt (.icvtf i) i.va.toNat i.vd.toNat w g.width fun r x => roundTo g r (XVal.ofInt (readInt w u x))) ∧
    (∀ w u f, intCode i.icode.toNat = some (w, u) → floatCode i.fcode.toNat = some f →
      s.GivesCvt (.fcvti i) i.va.toNat i.vd.toNat f.width w fun r x =>
        wrap w (roundInt r.mode (intRange w u).1 (intRange w u).2 (f.value x))) ∧
    s.Gives (.fround p) p.vd.toNat s.regsPer (fun l =>
      s.perElem p.va.toNat p.va.toNat p.va.toNat
        (fun _ a _ _ => roundIntegral s.fmt (s.roundOf (s.slice (l / 4))).mode a) l) ∧
    s.Gives (.fclass p) p.vd.toNat 1 (fun l =>
      if s.pack = 1 then joinElems 16 (fun e => 2 ^ classBit s.fmt (elem (s.opV l p.va.toNat) e 16)) 2
      else 2 ^ classBit s.fmt (s.opV l p.va.toNat)) ∧
    s.Gives (.fexpo p) p.vd.toNat 1 (fun l =>
      if s.pack = 1 then joinElems 16 (fun e => expOf s.fmt 16 (elem (s.opV l p.va.toNat) e 16)) 2
      else expOf s.fmt 32 (s.opV l p.va.toNat)) ∧
    (s.dxReserved = false → RunsTo (.dxunpk p) s fun t => s.Converts t p.vd.toNat s.dxWide 32 fun l =>
      joinElems (if s.pack = 0 then 32 else 16) (fun j =>
        roundTo s.fmt (s.roundCvt (s.slice (l / 4)) (s.cvtWord l j))
          (dxValue (s.dxCode (s.slice (l / 4)))
            (s.dxExpEntry l p.va.toNat % 256) (s.dxExpEntry l p.va.toNat / 256 % 256)
            (elem (s.getVs (s.lane l) p.va.toNat (s.dxRegs (s.slice (l / 4)))) j
              (dxShape (s.dxCode (s.slice (l / 4)))).1))) 32) ∧
    (s.dxReserved = false → RunsTo (.dxpack p) s fun t =>
      (∀ l ∈ s.elanes, t.getVs (s.lane l) p.vd.toNat (s.dxRegs (s.slice (l / 4))) =
        let c := s.slice (l / 4)
        let q := dxPack (s.dxCode c) (s.dxPolicy c) (fun j => (s.roundCvt c (s.cvtWord l j)).mode)
          ((List.range 32).map fun j => s.fmt.value
            (elem (s.getVs (s.lane l) p.va.toNat s.dxWide) j (if s.pack = 0 then 32 else 16)))
        (q.1 + 2 ^ (32 * (s.dxRegs c - 1)) * q.2) % 2 ^ (32 * s.dxRegs c)) ∧
      (s.zi = true → ∀ l ∈ s.act, s.maskOk l = false →
        t.getVs (s.lane l) p.vd.toNat (s.dxRegs (s.slice (l / 4))) = 0) ∧
      (∀ l ∈ s.wlanes, ∀ n, p.vd.toNat ≤ n → n < p.vd.toNat + s.dxRegs (s.slice (l / 4)) →
        t.isEmpty (s.lane l) n = false) ∧
      (∀ x n, (∀ l ∈ s.wlanes, x = s.lane l → n < p.vd.toNat ∨ p.vd.toNat + s.dxRegs (s.slice (l / 4)) ≤ n) →
        t.getV x n = s.getV x n ∧ t.isEmpty x n = s.isEmpty x n) ∧
      (∀ l ∈ s.elanes, s.stoch (s.slice (l / 4)) = true →
        t.lan (s.lane l) = { s.lan (s.lane l) with gen := genIter (s.gen (s.lane l)) 32 }) ∧
      (∀ x, (∀ l ∈ s.elanes, x = s.lane l → s.stoch (s.slice (l / 4)) = false) → t.lan x = s.lan x) ∧
      { t with r.v := s.r.v, r.ve := s.r.ve, r.ln := s.r.ln } = s.issued) ∧
    ((∃ c ∈ s.slices, (s.slc c).f.toNat % 4 = 3) →
      (Runs (.dxpack p) s → exec (.dxpack p) s = .next (s.fault { code := FORMAT })) ∧
      (Runs (.dxunpk p) s → exec (.dxunpk p) s = .next (s.fault { code := FORMAT })))

/-- The 16-bit instructions (R46 to R48): each has the effect of its 32-bit equivalent on vd and va; MOV of a register to
itself does nothing. -/
def Obligations.ShortForms : Prop :=
  ∀ (s : State) (o : Op16) (i : Op16I) (m : Op16M),
    (o.vd ≠ o.va → s.Gives16 (.mov16 o) o fun _ a => a) ∧
    (o.vd = o.va → RunsTo (.mov16 o) s fun t => t = s.issued) ∧
    s.Gives16 (.iadd16 o) o (fun d a => d + a) ∧
    s.Gives16 (.isub16 o) o (fun d a => d - a) ∧
    s.Gives16 (.and16 o) o (fun d a => d &&& a) ∧
    s.Gives16 (.or16 o) o (fun d a => d ||| a) ∧
    s.Gives16 (.xor16 o) o (fun d a => d ^^^ a) ∧
    s.Gives16 (.imul16 o) o (fun d a => d * a) ∧
    s.Gives16 (.shl16 o) o (fun d a => d <<< (a.toNat % 256)) ∧
    s.Gives16 (.shr16 o) o (fun d a => d >>> (a.toNat % 256)) ∧
    s.Gives (.fadd16 o) o.vd.toNat 1 (fun l => roundTo fp32 { sat8 := true } (exactSum .rne
      [fp32.value (s.getV (s.lane l) o.vd.toNat).toNat, fp32.value (s.getV (s.lane l) o.va.toNat).toNat])) ∧
    s.Gives (.fsub16 o) o.vd.toNat 1 (fun l => roundTo fp32 { sat8 := true } (exactSum .rne
      [fp32.value (s.getV (s.lane l) o.vd.toNat).toNat, (fp32.value (s.getV (s.lane l) o.va.toNat).toNat).negate])) ∧
    s.Gives (.fmul16 o) o.vd.toNat 1 (fun l => roundTo fp32 { sat8 := true }
      ((fp32.value (s.getV (s.lane l) o.vd.toNat).toNat).mul (fp32.value (s.getV (s.lane l) o.va.toNat).toNat))) ∧
    s.Gives (.fmax16 o) o.vd.toNat 1 (fun l =>
      fp32.pickNumber true (s.getV (s.lane l) o.vd.toNat).toNat (s.getV (s.lane l) o.va.toNat).toNat) ∧
    s.Gives (.iaddi16 i) i.vd.toNat 1
      (fun l => (s.getV (s.lane l) i.vd.toNat + BitVec.ofInt 32 i.imm.toInt).toNat) ∧
    s.Gives (.movi16 m) m.vd.toNat 1 (fun _ => (BitVec.ofInt 32 m.imm.toInt).toNat) ∧
    s.GivesAcc (.ld16 o)
      { kind := .load false, size := 4, va := o.va.toNat, off := 0, ta := o.ta, cnt := some 0, dst := o.vd.toNat,
        dstN := 1 }

/-- Major 0x10 (R42, R151 to R153): votes, election, matching, shuffles, reductions and scans over the participants, the lanes
of the split with a true effective mask. -/
def Obligations.GroupOperations : Prop :=
  ∀ (s : State) (v : OpVote) (e : OpElect) (p : OpA1) (o : OpA) (k : OpRank) (r : OpReduce) (c : OpScan),
    (v.sel = 0 → RunsTo (.vote v) s fun t => s.WritesM t v.vd.toNat fun _ => s.elanes.any (s.mBit v.ma.toNat)) ∧
    (v.sel = 1 → RunsTo (.vote v) s fun t => s.WritesM t v.vd.toNat fun _ => s.elanes.all (s.mBit v.ma.toNat)) ∧
    (v.sel = 2 → RunsTo (.vote v) s fun t => s.WritesM t v.vd.toNat fun _ =>
      s.elanes.all (s.mBit v.ma.toNat) || s.elanes.all fun l => !s.mBit v.ma.toNat l) ∧
    (v.sel = 3 → s.Gives (.vote v) v.vd.toNat 2 fun _ => laneBits (s.elanes.filter (s.mBit v.ma.toNat))) ∧
    RunsTo (.elect e) s (fun t => s.WritesM t e.md.toNat fun l => decide (s.elanes.head? = some l)) ∧
    s.Gives (.matchV p) p.vd.toNat 2 (fun l =>
      laneBits (s.elanes.filter fun j => decide (s.opV j p.va.toNat = s.opV l p.va.toNat))) ∧
    s.Gives (.shfl o) o.vd.toNat s.regsPer (fun l =>
      if (s.getV (s.lane l) o.vb.toNat).toNat % s.groupWidth ∈ s.elanes
      then s.opV ((s.getV (s.lane l) o.vb.toNat).toNat % s.groupWidth) o.va.toNat else s.opV l o.va.toNat) ∧
    s.Gives (.rank k) k.vd.toNat 1 (fun l =>
      (s.elanes.filter fun j => decide (j < l) && s.mBit k.ma.toNat j).length) ∧
    s.Gives (.reduce r) r.vd.toNat s.regsPer (fun _ => joinElems (packShape s.pack).2 (fun x =>
      (treeReduce (s.redFn r.op.toNat) 6 (s.redValues r.op.toNat r.va.toNat x)).headD 0) (packShape s.pack).1) ∧
    s.Gives (.scan c) c.vd.toNat s.regsPer (fun l => joinElems (packShape s.pack).2 (fun x =>
      (scanRounds (s.redFn (c.op.toNat % 16)) 6 1
        (if 16 ≤ c.op.toNat then redIdentity (c.op.toNat % 16) (packShape s.pack).2 s.fmt ::
            (s.redValues (c.op.toNat % 16) c.va.toNat x).dropLast
          else s.redValues (c.op.toNat % 16) c.va.toNat x)).getD l 0) (packShape s.pack).1)

/-! ### Flow, system and exceptions -/

/-- BRA and CALL (R53, R61, R65, R133, R134, R142, R143): where the active lanes agree the split goes to their outcome;
where they do not, a branch without a join address raises DIVERGE, one that would overfill a mask stack raises STACK, and
otherwise every slice pushes its entries and the split divides by the path each slice goes on with, under a new frame. CALL
first writes the link. -/
def Obligations.DirectBranches : Prop :=
  ∀ (s : State) (o : OpB),
    (s.act = [] → RunsTo (.bra o) s (fun t => t = s.issued) ∧ RunsTo (.call o) s fun t => t = s.issued.link) ∧
    (∀ q, s.act ≠ [] → (∀ l ∈ s.act, s.outB o l = q) →
      RunsTo (.bra o) s (fun t => t = s.issued.goto q) ∧ RunsTo (.call o) s fun t => t = s.issued.link.goto q) ∧
    ((∃ l ∈ s.act, ∃ m ∈ s.act, s.outB o l ≠ s.outB o m) →
      (s.joinB o = none →
        (Runs (.bra o) s → exec (.bra o) s = .next (s.fault { code := DIVERGE })) ∧
        (Runs (.call o) s → exec (.call o) s = .next (s.fault { code := DIVERGE }))) ∧
      ∀ j, s.joinB o = some j →
        (s.stackFull (s.outB o) = true →
          (Runs (.bra o) s → exec (.bra o) s = .next (s.fault { code := STACK })) ∧
          (Runs (.call o) s → exec (.call o) s = .next (s.fault { code := STACK }))) ∧
        (s.stackFull (s.outB o) = false →
          RunsTo (.bra o) s (fun t => t = s.issued.split2 (s.outB o) j (some s.u.iss.nextPc)) ∧
          RunsTo (.call o) s fun t => t = s.issued.link.split2 (s.outB o) j (some s.u.iss.nextPc)))

/-- BRAI, CALLI and RET (R65, R133, R134, R141 to R143): an indirect branch goes to bits 55:0 of each active lane's pair, and
RET sends each slice to its own link; an odd target raises MISALIGN for the lanes that have one, with INFO 0 (log
entry 64). -/
def Obligations.IndirectBranches : Prop :=
  ∀ (s : State) (o : OpBI),
    (∀ f, s.oddTargets o = some f →
      (Runs (.brai o) s → exec (.brai o) s = .next (s.fault f)) ∧
      (Runs (.calli o) s → exec (.calli o) s = .next (s.fault f)) ∧ f.code = MISALIGN) ∧
    (s.oddTargets o = none →
      (s.act = [] → RunsTo (.brai o) s (fun t => t = s.issued) ∧ RunsTo (.calli o) s fun t => t = s.issued.link) ∧
      (∀ q, s.act ≠ [] → (∀ l ∈ s.act, s.outBI o l = q) →
        RunsTo (.brai o) s (fun t => t = s.issued.goto q) ∧ RunsTo (.calli o) s fun t => t = s.issued.link.goto q) ∧
      ((∃ l ∈ s.act, ∃ m ∈ s.act, s.outBI o l ≠ s.outBI o m) →
        (s.joinBI o = none →
          (Runs (.brai o) s → exec (.brai o) s = .next (s.fault { code := DIVERGE })) ∧
          (Runs (.calli o) s → exec (.calli o) s = .next (s.fault { code := DIVERGE }))) ∧
        ∀ j, s.joinBI o = some j →
          (s.stackFull (s.outBI o) = true →
            (Runs (.brai o) s → exec (.brai o) s = .next (s.fault { code := STACK })) ∧
            (Runs (.calli o) s → exec (.calli o) s = .next (s.fault { code := STACK }))) ∧
          (s.stackFull (s.outBI o) = false →
            RunsTo (.brai o) s (fun t => t = s.issued.split2 (s.outBI o) j none) ∧
            RunsTo (.calli o) s fun t => t = s.issued.link.split2 (s.outBI o) j none))) ∧
    ((∀ c ∈ s.cur.slices, (s.linkOf c).getLsbD 0 = false) →
      RunsTo .ret s fun t => t = s.issued.divide s.u.iss.sid s.linkOf id) ∧
    ∀ c cs, (s.cur.slices.filter fun c => (s.linkOf c).getLsbD 0) = c :: cs → Runs .ret s →
      exec .ret s = .next (s.fault
        { code := MISALIGN, addr := (s.linkOf c).toNat
          lanes := some ((c :: cs).flatMap fun c => s.sliceLanes s.u.iss.team s.u.iss.group c) })

/-- REGANG, EXIT and YIELD (R135, R136, R138, R144): a REGANG that is the join of its split's innermost frame brings every
slice of the split to it and fuses what can fuse, and elsewhere does nothing; EXIT removes the lanes with a true effective
mask from every mask and stack entry of their slices, after which slices without a lane leave and groups without a lane fail
the joint operations and complete the rounds that wait for them; YIELD only issues. What these operations do to a split and
its slices: a slice at its join drops the exhausted path entries above, and leaves for the first path that has a lane and
another address, or has arrived (Slice.atJoin); the slices that leave stand in splits of their own at their paths, with the
split's frames and AGE, and those that arrived stand in one parked split with the split's innermost frame, one that was
parked there before if there is one (State.arrive); a parked split fuses once no other split of its group carries its token
(State.fusable), and then every slice pops its join entry with its mask and F, and the split goes on after the REGANG without
the frame (State.fuse); a slice without a lane in its mask and stack retires, and one whose mask alone is empty acts as at its
join (State.sweep). -/
def Obligations.RegangExitYield : Prop :=
  ∀ s : State,
    (s.cur.frames = [] → RunsTo .regang s fun t => t = s.issued) ∧
    (∀ f fs, s.cur.frames = f :: fs → f.join ≠ s.u.iss.unitPc → RunsTo .regang s fun t => t = s.issued) ∧
    (∀ f fs, s.cur.frames = f :: fs → f.join = s.u.iss.unitPc →
      RunsTo .regang s fun t =>
        t = (s.issued.arrive s.u.iss.sid s.cur.slices).fuseAll s.cur.team s.cur.group fuseFuel) ∧
    RunsTo .exit s (fun t =>
      t = (((((s.cur.slices.foldl (fun u c => u.modSlc (s.slice c) fun x => x.drop (laneMask s.elanes c)) s.issued).sweep
        s.u.iss.sid).fuseAll s.cur.team s.cur.group fuseFuel).rendezvousExit s.cur.team s.cur.group).checkRounds
          s.cur.team)) ∧
    RunsTo .yield s (fun t => t = s.issued) ∧
    (∀ (c : Slice) (j : Pc) (ds es : List StackEntry), c.stack = ds ++ es →
      (∀ e ∈ ds, e.isJoin = false ∧ e.join = j ∧ (e.mask = 0 ∨ e.pc = j)) →
      let last := (ds.filter fun (e : StackEntry) => decide (e.mask ≠ 0)).getLast?
      let d : Slice := { c with mask := (last.map StackEntry.mask).getD c.mask, f := (last.map StackEntry.fcopy).getD c.f }
      ((∀ e r, es = e :: r → e.isJoin = true ∨ e.join ≠ j) → c.atJoin j = ({ d with stack := es }, none)) ∧
      ∀ e r, es = e :: r → e.isJoin = false → e.join = j → e.mask ≠ 0 → e.pc ≠ j →
        c.atJoin j = ({ d with stack := r, mask := e.mask, f := e.fcopy }, some e.pc)) ∧
    (∀ (p : Split) (fr : Frame) (fs : List Frame) (cs : List Nat), s.split? p.sid = some p → p.frames = fr :: fs → cs.Nodup →
      let t := s.arrive p.sid cs
      (∀ c ∈ cs, t.slc ⟨p.team, p.group, c⟩ = ((s.slc ⟨p.team, p.group, c⟩).atJoin fr.join).1) ∧
      (∀ d, (∀ c ∈ cs, d ≠ ⟨p.team, p.group, c⟩) → t.slc d = s.slc d) ∧
      (∀ c ∈ cs, ((s.slc ⟨p.team, p.group, c⟩).atJoin fr.join).2 = none →
        ∃ q ∈ t.x.splits, q.team = p.team ∧ q.group = p.group ∧ q.wait = true ∧ q.frames.head? = some fr ∧ c ∈ q.slices) ∧
      (∀ c ∈ cs, ∀ a, ((s.slc ⟨p.team, p.group, c⟩).atJoin fr.join).2 = some a →
        ∃ q ∈ t.x.splits, q.team = p.team ∧ q.group = p.group ∧ q.wait = false ∧ q.frames = p.frames ∧ q.pc = a ∧
          q.age = p.age ∧ c ∈ q.slices) ∧
      (∀ q ∈ s.x.splits, q.sid ≠ p.sid → q.slices ≠ [] →
        ∃ x ∈ t.x.splits, x.sid = q.sid ∧ x.pc = q.pc ∧ x.frames = q.frames ∧ x.wait = q.wait ∧ ∀ c ∈ q.slices, c ∈ x.slices) ∧
      t.r.v = s.r.v ∧ t.r.ve = s.r.ve ∧ t.r.sr = s.r.sr ∧ t.r.mr = s.r.mr ∧ t.r.cn = s.r.cn ∧ t.m = s.m) ∧
    (∀ g h p, s.fusable g h = some p → p ∈ s.x.splits ∧ p.team = g ∧ p.group = h ∧ p.wait = true ∧
      ∃ fr fs, p.frames = fr :: fs ∧ ∀ q ∈ s.x.splits, q.team = g → q.group = h → q.sid ≠ p.sid →
        ∀ x ∈ q.frames, x.token ≠ fr.token) ∧
    (∀ g h, s.fusable g h = none → ∀ p ∈ s.x.splits, p.team = g → p.group = h → p.wait = true →
      ∀ fr fs, p.frames = fr :: fs → ∃ q ∈ s.x.splits, q.team = g ∧ q.group = h ∧ q.sid ≠ p.sid ∧
        ∃ x ∈ q.frames, x.token = fr.token) ∧
    (∀ (p : Split) (fr : Frame) (fs : List Frame), p.frames = fr :: fs → p.slices.Nodup → s.split? p.sid = some p →
      let t := s.fuse p
      (∀ c ∈ p.slices, ∀ e es, (s.slc ⟨p.team, p.group, c⟩).stack = e :: es → t.slc ⟨p.team, p.group, c⟩ =
        { s.slc ⟨p.team, p.group, c⟩ with stack := es, mask := e.mask, f := e.fcopy }) ∧
      (∀ d, (∀ c ∈ p.slices, d ≠ ⟨p.team, p.group, c⟩) → t.slc d = s.slc d) ∧
      t.split? p.sid = some { p with wait := false, frames := fs, pc := fr.join + 4 } ∧
      (∀ q ∈ s.x.splits, q.sid ≠ p.sid → q ∈ t.x.splits) ∧
      { t with r.sl := s.r.sl, x.splits := s.x.splits } = s) ∧
    (∀ g h n, (s.fusable g h = none → s.fuseAll g h n = s) ∧
      ∀ p, s.fusable g h = some p → s.fuseAll g h (n + 1) = ((s.fuse p).sweep p.sid).fuseAll g h n) ∧
    ∀ (p : Split), s.split? p.sid = some p → p.slices.Nodup →
      let t := s.sweep p.sid
      ((∀ c ∈ p.slices, (s.slc ⟨p.team, p.group, c⟩).mask ≠ 0) → t = s.freeSplits) ∧
      ∀ c ∈ p.slices, (s.slc ⟨p.team, p.group, c⟩).mask = 0 →
        ((∀ e ∈ (s.slc ⟨p.team, p.group, c⟩).stack, e.mask = 0) →
          t.slc ⟨p.team, p.group, c⟩ = { s.slc ⟨p.team, p.group, c⟩ with gone := true, stack := [] } ∧
          ∀ q ∈ t.x.splits, q.sid = p.sid → c ∉ q.slices) ∧
        ∀ fr fs, p.frames = fr :: fs → (∃ e ∈ (s.slc ⟨p.team, p.group, c⟩).stack, e.mask ≠ 0) →
          t.slc ⟨p.team, p.group, c⟩ = ((s.slc ⟨p.team, p.group, c⟩).atJoin fr.join).1

/-- Major 0x0F (R8, R72, R174, R175, R218): NOP only issues; SLEEP n keeps its split from issue for n clk; SREAD reads a system
register into Sd in each slice and SWRITE writes one from Sa in each slice, in ascending order, so that of a register held
above the slice the last slice's write remains; TRAP and BKPT take their exception with the immediate as INFO; RTE returns, or
raises MISALIGN with INFO 0 (log entry 64) where a resume address is odd. What every register answers and takes: SYS_FPCTL
keeps its mode at a write of 5 or 7 and ignores its reserved bits (R22), SYS_RNGSEED reseeds the slice's lanes (R29),
SYS_EPC holds 56 bits and SYS_EBLK keeps its COUNT at a write of 9 to 15 and its HMODE (R217); every other register but
SYS_MWTIMEOUT, SYS_BARWATCH, SYS_DBGCTL and the two at 0x80 and 0x81 ignores a write; and a number that names no register
raises ILLEGAL_OP. -/
def Obligations.SystemInstructions : Prop :=
  ∀ (s : State) (o : OpImm) (r : OpSread) (w : OpSwrite),
    RunsTo .nop s (fun t => t = s.issued) ∧
    (s.immU o.imm = 0 → RunsTo (.sleep o) s fun t => t = s.issued) ∧
    (s.immU o.imm ≠ 0 → RunsTo (.sleep o) s fun t =>
      t = s.issued.modSplit s.u.iss.sid fun p => { p with park := .sleep (s.u.clk + s.immU o.imm) }) ∧
    s.GivesS (.sread r) r.sd.toNat (fun c => s.sysRead c (s.immU r.num)) ∧
    RunsTo (.swrite w) s (fun t =>
      t = s.slices.foldl (fun u c => u.sysWrite c (s.immU w.num) (s.getS c w.sa.toNat)) s.issued) ∧
    (Runs (.trap o) s → exec (.trap o) s = .next (s.fault { code := TRAP, info := o.imm.toNat })) ∧
    (Runs (.bkpt o) s → exec (.bkpt o) s = .next (s.fault { code := BREAKPOINT, info := o.imm.toNat })) ∧
    ((∀ c ∈ s.cur.slices, (s.epcOf (s.slice c)).getLsbD 0 = false) →
      RunsTo .rte s fun t => t = s.issued.returnFromTrap s.u.iss.sid) ∧
    ∀ c cs, (s.cur.slices.filter fun c => (s.epcOf (s.slice c)).getLsbD 0) = c :: cs → Runs .rte s →
      exec .rte s = .next (s.fault
        { code := MISALIGN, addr := (s.epcOf (s.slice c)).toNat
          lanes := some ((c :: cs).flatMap fun c => s.sliceLanes s.u.iss.team s.u.iss.group c) }) ∧
    (∀ n, ¬ (n ≤ 0x04 ∨ 0x10 ≤ n ∧ n ≤ 0x32 ∨ 0x40 ≤ n ∧ n ≤ 0x45 ∨ 0x80 ≤ n ∧ n ≤ 0x84 ∨ 0xC0 ≤ n ∧ n ≤ 0xCD ∨
        0xD0 ≤ n ∧ n ≤ 0xFF) → (s.split? s.u.iss.sid).isSome = true →
      (s.immU r.num = n →
        exec (.sread r) s = .next (s.fault { code := ILLEGAL_OP, wordPc := some s.u.iss.wordPc })) ∧
      (s.immU w.num = n →
        exec (.swrite w) s = .next (s.fault { code := ILLEGAL_OP, wordPc := some s.u.iss.wordPc }))) ∧
    (∀ c : SliceId,
      let x := s.slc c
      let q : GroupId := ⟨c.t, c.g⟩
      s.sysRead c 0x00 = x.fpctl ∧ s.sysRead c 0x01 = x.rngSeed ∧
      s.sysRead c 0x02 = BitVec.ofNat 32 ((s.grp q).half % 2 * 2 ^ 11 + c.g % 128 * 2 ^ 4 + c.s % 16) ∧
      s.sysRead c 0x03 = BitVec.ofNat 32 x.stack.length ∧ s.sysRead c 0x04 = x.mwTimeout ∧
      (∀ n, n < 16 → s.sysRead c (0x10 + n) = BitVec.ofNat 32 (s.getC c n) ∧
        s.sysRead c (0x20 + n) = x.faultRec.getD n 0) ∧
      s.sysRead c 0x30 = BitVec.ofNat 32 x.epc.toNat ∧ s.sysRead c 0x31 = BitVec.ofNat 32 (x.epc.toNat / 2 ^ 32) ∧
      s.sysRead c 0x32 = BitVec.ofNat 32 ((if x.hmode = true then 2 ^ 31 else 0) + x.ebCount % 16 * 2 ^ 16 +
        x.ebPattern.toNat * 2 ^ 8 + x.ebMask.toNat) ∧
      s.sysRead c 0x40 = BitVec.ofNat 32 (s.grp q).consort.toNat ∧
      s.sysRead c 0x41 = BitVec.ofNat 32 ((s.grp q).consort.toNat / 2 ^ 32) ∧
      s.sysRead c 0x42 = (s.team c.t).barWatch ∧
      s.sysRead c 0x43 = (if (s.team c.t).teamStop = true then 2 else 0) + (if (s.team c.t).dbgen = true then 1 else 0) ∧
      s.sysRead c 0x44 = BitVec.ofNat 32 (s.team c.t).index ∧ s.sysRead c 0x45 = BitVec.ofNat 32 (s.team c.t).taskBlk ∧
      (∀ n, 0x80 ≤ n → n ≤ 0x84 → s.sysRead c n = s.coreReg (s.coreOf q) n) ∧
      ∀ n, 0xC0 ≤ n → s.sysRead c n = s.dieReg (s.coreOf q / 192) n) ∧
    (∀ (c : SliceId) (v : Word),
      s.sysWrite c 0x00 v = s.modSlc c (fun x => { x with fpctl := BitVec.ofNat 32 (v.toNat / 8 % 2 * 8 +
        if v.toNat % 8 = 5 ∨ v.toNat % 8 = 7 then x.fpctl.toNat % 8 else v.toNat % 8) }) ∧
      ((s.sysWrite c 0x01 v).slc c = { s.slc c with rngSeed := v } ∧
        (∀ i, i < 4 → ((s.sysWrite c 0x01 v).lan ⟨c.t, c.g, 4 * c.s + i⟩).gen =
          let g := v ^^^ BitVec.ofNat 32 ((s.teamLane ⟨c.t, c.g, 4 * c.s + i⟩ + 1) * 0x9E3779B9)
          if g = 0 then 1 else g) ∧
        (∀ l : LaneId, l.slice ≠ c → (s.sysWrite c 0x01 v).lan l = s.lan l) ∧
        (∀ d, d ≠ c → (s.sysWrite c 0x01 v).slc d = s.slc d) ∧
        { s.sysWrite c 0x01 v with r.sl := s.r.sl, r.ln := s.r.ln } = s) ∧
      s.sysWrite c 0x04 v = s.modSlc c (fun x => { x with mwTimeout := v }) ∧
      s.sysWrite c 0x30 v = s.modSlc c (fun x =>
        { x with epc := BitVec.ofNat 56 (x.epc.toNat / 2 ^ 32 * 2 ^ 32 + v.toNat) }) ∧
      s.sysWrite c 0x31 v = s.modSlc c (fun x =>
        { x with epc := BitVec.ofNat 56 (v.toNat % 2 ^ 24 * 2 ^ 32 + x.epc.toNat % 2 ^ 32) }) ∧
      s.sysWrite c 0x32 v = s.modSlc c (fun x =>
        { x with ebCount := if v.toNat / 2 ^ 16 % 16 ≤ 8 then v.toNat / 2 ^ 16 % 16 else x.ebCount
                 ebPattern := BitVec.ofNat 8 (v.toNat / 2 ^ 8), ebMask := BitVec.ofNat 4 v.toNat }) ∧
      s.sysWrite c 0x42 v = s.modTeam c.t (fun x => { x with barWatch := v }) ∧
      s.sysWrite c 0x43 v = s.modTeam c.t (fun x => { x with dbgen := v.getLsbD 0, teamStop := v.getLsbD 1 }) ∧
      (∀ n, n = 0x80 ∨ n = 0x81 → s.sysWrite c n v = s.setCoreReg (s.coreOf ⟨c.t, c.g⟩) n v) ∧
      ∀ n, n ∉ [0x00, 0x01, 0x04, 0x30, 0x31, 0x32, 0x42, 0x43, 0x80, 0x81] → s.sysWrite c n v = s) ∧
    ∀ cs c, s.cur.slices = cs ++ [c] → (s.team? s.u.iss.team).isSome = true → RunsTo (.swrite w) s fun t =>
      let v := s.getS (s.slice c) w.sa.toNat
      (s.immU w.num = 0x42 → (t.team s.u.iss.team).barWatch = v) ∧
      (s.immU w.num = 0x43 → (t.team s.u.iss.team).dbgen = v.getLsbD 0 ∧ (t.team s.u.iss.team).teamStop = v.getLsbD 1) ∧
      (s.immU w.num = 0x80 ∨ s.immU w.num = 0x81 → t.coreReg (s.coreOf s.gid) (s.immU w.num) = v)

/-- Taking a fault under HANDLER (R64, R215 to R217): every slice of the split holds the record and the saved block state, its
resume address is the unit itself, or the next for TRAP and BREAKPOINT, and it is in handler mode; the split goes to TRAP_PC
without a block; SYS_EBLK.MASK is 0 where no block was in force (log entry 53); no V, S, M or C register and no byte of memory
changes, and neither does any other split or slice. RTE's
return (R218): every slice of the split leaves handler mode with its own MASK, and stands in a split at its own resume address
whose COUNT and PATTERN are the lowest slice's; no V, S, M or C register and no byte of memory changes. -/
def Obligations.HandlerEntryAndReturn : Prop :=
  (∀ (s : State) (p : Split) (f : FaultInfo) (next : Pc),
    s.split? p.sid = some p → (s.team p.team).dbgen = false → s.inHandler p = false →
    (s.launch p.team).policy = .handler → (s.launch p.team).trapPc ≠ 0 →
    let t := s.takeFault p.sid f next
    (∀ c ∈ p.slices, p.slices.Nodup → t.slc ⟨p.team, p.group, c⟩ =
      { s.slc ⟨p.team, p.group, c⟩ with
        faultRec := s.faultWords p f false
        hmode := true
        epc := if f.code = TRAP ∨ f.code = BREAKPOINT then next
          else if f.late then f.wordPc.getD f.unitPc else f.unitPc
        ebCount := p.blkCount
        ebPattern := p.blkPattern
        ebMask := if p.blkCount = 0 then 0 else (s.slc ⟨p.team, p.group, c⟩).blkMask
        blkMask := 0 }) ∧
    (∀ x, (∀ c ∈ p.slices, x ≠ ⟨p.team, p.group, c⟩) → t.slc x = s.slc x) ∧
    t.x.splits = s.x.splits.map (fun q => if q.sid = p.sid then
      { q with pc := BitVec.ofNat 56 (s.launch p.team).trapPc, blkCount := 0, blkPattern := 0, waitFrom := none, park := .run }
      else q) ∧
    { t with r.sl := s.r.sl, x.splits := s.x.splits } = s) ∧
  ∀ (s : State) (p : Split), s.split? p.sid = some p → p.slices.Nodup → p.slices ≠ [] →
    let t := s.returnFromTrap p.sid
    (∀ c ∈ p.slices, t.slc ⟨p.team, p.group, c⟩ =
      { s.slc ⟨p.team, p.group, c⟩ with hmode := false, blkMask := (s.slc ⟨p.team, p.group, c⟩).ebMask }) ∧
    (∀ c ∈ p.slices, ∃ q ∈ t.x.splits, q.team = p.team ∧ q.group = p.group ∧ c ∈ q.slices ∧
      q.pc = s.epcOf ⟨p.team, p.group, c⟩ ∧
      q.blkCount = (s.slc ⟨p.team, p.group, q.slices.headD 0⟩).ebCount ∧
      q.blkPattern = (s.slc ⟨p.team, p.group, q.slices.headD 0⟩).ebPattern) ∧
    { t with r.sl := s.r.sl, x.splits := s.x.splits, u.uid := s.u.uid } = s

/-- The other ways a fault is taken (R217, R219): with DBGEN the split's group halts with the split stopped where it resumes,
under every policy; otherwise a fault in handler mode, a fault under ABORT_GRID, and one under HANDLER without a TRAP_PC end
the grid with the record; under REPLAY the split is held at the unit and the record goes to the die's fault queue. In every
case each slice of the split holds the record. -/
def Obligations.FaultPolicies : Prop :=
  ∀ (s : State) (p : Split) (f : FaultInfo) (next : Pc), s.split? p.sid = some p →
    let w := s.faultWords p f (s.inHandler p)
    let s1 := s.latchRec p w
    let g := (s.team p.team).grid
    (∀ c ∈ p.slices, (s1.slc ⟨p.team, p.group, c⟩).faultRec = w) ∧
    ((s.team p.team).dbgen = true → s.takeFault p.sid f next =
      (s1.stop p).modSplit p.sid fun x => { x with pc := f.resume next, waitFrom := none, park := .run }) ∧
    ((s.team p.team).dbgen = false →
      (s.inHandler p = true → s.takeFault p.sid f next = s1.abortGrid g w) ∧
      (s.inHandler p = false →
        ((s.launch p.team).policy = .abortGrid → s.takeFault p.sid f next = s1.abortGrid g w) ∧
        ((s.launch p.team).policy = .handler → (s.launch p.team).trapPc = 0 →
          s.takeFault p.sid f next = s1.abortGrid g w) ∧
        ((s.launch p.team).policy = .replay → s.takeFault p.sid f next =
          (s1.modSplit p.sid fun x =>
            { x with park := .replay f.unitPc (if f.late then f.resume next else next), pc := f.unitPc
                     waitFrom := none }).postFq
            { die := s.coreOf ⟨p.team, p.group⟩ / 192, words := w, kind := .replay, sid := p.sid, code := f.code })))

/-! ### Memory instructions and synchronisation -/

/-- LD, LDC and the 16-bit LD at issue (R52, R59, R155 to R161, R166, R179): each lane's access to its address is in flight,
the destination is empty with its contents unchanged, the counter has risen by the executing lanes of each slice, and no
memory, S, M or other register has changed; or the fault of R179 is taken. -/
def Obligations.Loads : Prop :=
  ∀ (s : State) (o : OpL),
    s.GivesMem (.ldB8u o) (s.loadOp o 1 1 false) ∧
    s.GivesMem (.ldB8s o) (s.loadOp o 1 1 true) ∧
    s.GivesMem (.ldB16u o) (s.loadOp o 2 1 false) ∧
    s.GivesMem (.ldB16s o) (s.loadOp o 2 1 true) ∧
    s.GivesMem (.ldB32 o) (s.loadOp o 4 1 false) ∧
    s.GivesMem (.ldB64 o) (s.loadOp o 8 2 false) ∧
    s.GivesMem (.ldB128 o) (s.loadOp o 16 4 false) ∧
    s.GivesMem (.ldc o) (ldcOp o) ∧
    ∀ op, op ∈ [s.loadOp o 1 1 false, s.loadOp o 1 1 true, s.loadOp o 2 1 false, s.loadOp o 2 1 true, s.loadOp o 4 1 false,
        s.loadOp o 8 2 false, s.loadOp o 16 4 false, ldcOp o] →
      op.va = o.va.toNat ∧ op.off = o.off ∧ op.dst = o.vd.toNat ∧ op.cnt = some o.cnt.toNat ∧ op.dstN = (op.size + 3) / 4

/-- ST, STNT and PREFETCH at issue (R52, R59, R158 to R160, R162, R167, R179): a store's accesses are in flight with the values
of its operand registers, its counter has risen, no register and no byte of memory has changed, or the fault of R179 is
taken; PREFETCH brings lines in and changes no register, counter or byte of memory. -/
def Obligations.Stores : Prop :=
  ∀ (s : State) (o : OpS) (q : OpPre),
    s.GivesMem (.stB8 o) (s.storeOp o 1 1 false) ∧
    s.GivesMem (.stB16 o) (s.storeOp o 2 1 false) ∧
    s.GivesMem (.stB32 o) (s.storeOp o 4 1 false) ∧
    s.GivesMem (.stB64 o) (s.storeOp o 8 2 false) ∧
    s.GivesMem (.stB128 o) (s.storeOp o 16 4 false) ∧
    s.GivesMem (.stnt o) (s.storeOp o 16 4 true) ∧
    (∀ op, op ∈ [s.storeOp o 1 1 false, s.storeOp o 2 1 false, s.storeOp o 4 1 false, s.storeOp o 8 2 false,
        s.storeOp o 16 4 false, s.storeOp o 16 4 true] → op.dstN = 0 ∧ op.cnt = some o.cnt.toNat ∧
      ∀ p i, (s.accessOf op p i).data = s.getVs (s.lane p.l) o.vd.toNat ((op.size + 3) / 4) ∧
        (s.accessOf op p i).size = op.size ∧ (s.accessOf op p i).loc = p.loc) ∧
    RunsTo (.prefetch q) s fun t =>
      t = ((s.plans (prefetchOp q)).foldl (fun u p => u.prefetchLine q.level.toNat (s.lane p.l) p)
        (s.issued.missWalks (s.coreOf s.gid) (s.launch s.u.iss.team).asid
          ((s.plans (prefetchOp q)).filterMap LanePlan.va?)))

/-- ATOM and ATOMF at issue (R60, R158 to R160, R168 to R170, R179): the accesses are in flight with operand and, for CAS, the
new value behind it, and vd is empty; or the fault of R179 is taken. -/
def Obligations.Atomics : Prop :=
  ∀ (s : State) (o : OpS),
    s.GivesMem (.atomAdd o) (s.atomOp o .add) ∧
    s.GivesMem (.atomMin o) (s.atomOp o .min) ∧
    s.GivesMem (.atomMax o) (s.atomOp o .max) ∧
    s.GivesMem (.atomAnd o) (s.atomOp o .and) ∧
    s.GivesMem (.atomOr o) (s.atomOp o .or) ∧
    s.GivesMem (.atomXor o) (s.atomOp o .xor) ∧
    s.GivesMem (.atomExch o) (s.atomOp o .exch) ∧
    s.GivesMem (.atomCas o) (s.atomOp o .cas) ∧
    s.GivesMem (.atomfFadd32 o) (s.atomfOp o .fadd32) ∧
    s.GivesMem (.atomfFadd64 o) (s.atomfOp o .fadd64) ∧
    s.GivesMem (.atomfFmin32 o) (s.atomfOp o .fmin32) ∧
    s.GivesMem (.atomfFmax32 o) (s.atomfOp o .fmax32) ∧
    s.GivesMem (.atomfFaddh2 o) (s.atomfOp o .faddh2) ∧
    s.GivesMem (.atomfFaddb2 o) (s.atomfOp o .faddb2) ∧
    s.GivesMem (.atomfInc o) (s.atomfOp o .inc) ∧
    s.GivesMem (.atomfDec o) (s.atomfOp o .dec)

/-- DST at issue (R300 to R302, R316): a record's operation is in flight with the operator code and width that R301 gives the
minor, and no register and no byte of memory has changed; or the fault of R179 is taken. -/
def Obligations.DeferredStores : Prop :=
  ∀ (s : State) (o : OpS),
    s.GivesMem (.dstStore o) (s.deferOp 0 o) ∧
    s.GivesMem (.dstAdd o) (s.deferOp 1 o) ∧
    s.GivesMem (.dstFadd o) (s.deferOp 2 o) ∧
    s.GivesMem (.dstMin o) (s.deferOp 3 o) ∧
    s.GivesMem (.dstMax o) (s.deferOp 4 o) ∧
    s.GivesMem (.dstOr o) (s.deferOp 5 o) ∧
    s.GivesMem (.dstAnd o) (s.deferOp 6 o) ∧
    s.GivesMem (.dstAppend o) (s.deferOp 7 o) ∧
    ∀ minor, (s.deferOp minor o).kind = .dst (if s.dstAlt = true ∧ minor ∈ [2, 3, 4] then minor + 6 else minor) s.dstWidth ∧
      (s.deferOp minor o).size = (if s.dstWidth = 1 then 8 else 4) ∧ (s.deferOp minor o).dstN = 0 ∧
      (s.deferOp minor o).noWindow = true

/-- CACHE (R160, R265): a line operation is in flight for each lane whose line it acts on, those that do nothing (windows,
deferred and direct pages, host memory) have completed at once, and no V, S or M register and no byte of memory has
changed. -/
def Obligations.CacheOperations : Prop :=
  ∀ (s : State) (o : OpMC) (n : Nat) (i : Instr),
    (n, i) ∈ [(0, Instr.cacheIinv o), (1, .cacheL1inv o), (2, .cacheL2clean o), (3, .cacheL2flush o)] →
    RunsTo i s fun t =>
      t.k.acc = s.k.acc ++ (((s.plans (cacheOp n o)).map LanePlan.lineOf).filter fun p => !s.cacheIdle p).mapIdx
        (fun j p => s.accessOf (cacheOp n o) p j) ∧
      (s.cur.slices.Nodup → (∀ l ∈ s.elanes, l / 4 ∈ s.cur.slices) → ∀ c ∈ s.cur.slices,
        t.getC (s.slice c) o.cnt.toNat = s.getC (s.slice c) o.cnt.toNat +
          (((s.plans (cacheOp n o)).map LanePlan.lineOf).filter fun p => !s.cacheIdle p && decide (p.l / 4 = c)).length) ∧
      (∀ x k, t.getV x k = s.getV x k ∧ t.isEmpty x k = s.isEmpty x k) ∧
      t.r.sr = s.r.sr ∧ t.r.mr = s.r.mr ∧ t.m = s.m ∧ t.x = s.issued.x

/-- WAITC, MONITOR, MWAIT and FENCE (R171 to R173, R327, R328): WAITC only issues, once its counter is at or below the
threshold in every slice; MONITOR arms each slice's watch on the line of its lowest executing lane and reads that line from
its home, or takes the fault of R179; MWAIT goes on at once without an armed watch, with a triggered one or with a timeout of 0, and otherwise sleeps until
the smallest timeout of its slices (log entry 23); FENCE is in force on its split from its place in program order on, and
notes at a narrow scope which earlier accesses its release or SC covers there (log entry 60). -/
def Obligations.WaitsAndFences : Prop :=
  ∀ (s : State) (o : OpWaitc) (m : OpMon),
    RunsTo (.waitc o) s (fun t => t = s.issued) ∧
    (∀ f, State.memFault (monitorOp m) (s.plans (monitorOp m)) = some f → Runs (.monitor m) s →
      exec (.monitor m) s = .next (s.fault f)) ∧
    (State.memFault (monitorOp m) (s.plans (monitorOp m)) = none → RunsTo (.monitor m) s fun t =>
      (∀ l ∈ s.elanes, (∀ k ∈ s.elanes, k / 4 = l / 4 → l ≤ k) → s.elanes.Pairwise (· < ·) →
        ∀ p ∈ s.plans (monitorOp m), p.l = l → p.code = 0 →
          (t.slc (s.slice (l / 4))).watch = some { line := p.loc / 128, triggered := false, by_ := s.u.uid }) ∧
      t.k.acc = s.k.acc ++ ((lowestPerSlice (s.plans (monitorOp m))).filter fun p =>
        p.leaf.isSome || decide (p.code ≠ 0)).mapIdx (fun j p => s.accessOf { monitorOp m with cnt := none } p j) ∧
      t.m = s.m ∧ t.r.v = s.r.v ∧ t.r.ve = s.r.ve ∧ t.r.sr = s.r.sr ∧ t.r.mr = s.r.mr ∧ t.x = s.issued.x) ∧
    (s.watches s.cur = [] ∨ (∃ w ∈ s.watches s.cur, w.triggered = true) ∨ s.mwLimit s.cur = 0 →
      RunsTo .mwait s fun t => t = s.issued.disarm s.cur) ∧
    (s.watches s.cur ≠ [] → (∀ w ∈ s.watches s.cur, w.triggered = false) → s.mwLimit s.cur ≠ 0 →
      RunsTo .mwait s fun t =>
        t = s.issued.modSplit s.u.iss.sid fun p => { p with park := .mwait (s.u.clk + s.mwLimit s.cur) }) ∧
    (s.elanes = [] → RunsTo .fence s fun t => t = s.issued) ∧
    ∀ x, s.fenceMode = some x → s.elanes ≠ [] → RunsTo .fence s fun t =>
      let mine := fun (a : Access) => decide (x.2.narrow = true ∧ x.1 ≠ .acquire ∧ a.lane.t = s.cur.team ∧
        a.lane.g = s.cur.group ∧ a.lane.l ∈ s.elanes ∧ a.seq < s.u.seqNo)
      t.k.acc = s.k.acc.map (fun a => if mine a then { a with near := x.2.widen a.near } else a) ∧
      { t with k.acc := s.k.acc } = s.issued.modSplit s.u.iss.sid fun p =>
        { p with fences := p.fences ++ [{ lanes := s.elanes, order := x.1, scope := x.2, seq := s.u.seqNo }] }

/-- BAR, GRIDSYNC, PODSYNC and the SETTLEs at issue (R204, R205, R310, R311, R314, R345, R430, R431): the split is parked in
its round, the clk of the round's first arrival is noted, a pod round with an unreachable participant fails, and the rounds
that are now complete complete; SETTLE.L needs no arrival. A grid-wide round of a grid that is not co-operative, and a pod
round of a grid without a registered job, raise NOT_COOP. -/
def Obligations.ArrivalsAtRounds : Prop :=
  ∀ (s : State) (o : OpD),
    RunsTo .bar s (fun t => t = s.issued.arriveAt (.bar s.u.iss.team) (.bar s.u.iss.unitPc)) ∧
    (s.myGrid.launch.coop = true → RunsTo .gridsync s fun t =>
      t = s.issued.arriveAt (.gridsync s.myGrid.uid) (.gridsync s.u.iss.unitPc)) ∧
    (s.myGrid.launch.coop = false → Runs .gridsync s → exec .gridsync s = .next (s.fault { code := NOT_COOP })) ∧
    (∀ j, s.jobOf s.myGrid = some j → RunsTo .podsync s fun t =>
      t = s.issued.arriveAt (.podsync j.num) (.podsync s.u.iss.unitPc)) ∧
    (s.jobOf s.myGrid = none → Runs .podsync s → exec .podsync s = .next (s.fault { code := NOT_COOP })) ∧
    RunsTo (.settleL o) s (fun t =>
      t = ((if s.zi = true then (s.act.filter fun l => !s.maskOk l).foldl (fun u l => u.setV (s.lane l) o.vd.toNat 0) s.issued
        else s.issued).modSplit s.u.iss.sid fun p =>
          { p with park := .settle 0 o.vd.toNat s.elanes s.u.seqNo s.u.iss.unitPc true })) ∧
    RunsTo (.settleT o) s (fun t => t = s.issued.arriveAt (.settleT s.u.iss.team)
      (.settle 1 o.vd.toNat s.act s.u.seqNo s.u.iss.unitPc false)) ∧
    (s.myGrid.launch.coop = true → RunsTo (.settleG o) s fun t => t = s.issued.arriveAt (.settleG s.myGrid.uid)
      (.settle 2 o.vd.toNat s.act s.u.seqNo s.u.iss.unitPc false)) ∧
    (s.myGrid.launch.coop = false → Runs (.settleG o) s → exec (.settleG o) s = .next (s.fault { code := NOT_COOP })) ∧
    (∀ j, s.jobOf s.myGrid = some j → RunsTo (.settleP o) s fun t => t = s.issued.arriveAt (.settleP j.num)
      (.settle 3 o.vd.toNat s.act s.u.seqNo s.u.iss.unitPc false)) ∧
    (s.jobOf s.myGrid = none → Runs (.settleP o) s → exec (.settleP o) s = .next (s.fault { code := NOT_COOP }))

/-- Rounds (R204, R205, R219, R311, R314, R345, R429 to R431). A round of a team or a grid completes once a split waits in it,
no team that takes part has a halted group, and every live lane of their groups, without the matrix role's for a SETTLE, stands
in a waiting split; until then nothing of the machine changes. Then every split that waits in it is ready at its next unit, or,
in a SETTLE, goes on to wait for its records, and the round's clock is cleared. A round of a pod job needs as many participants
started as the job has on this module, every lane of theirs arrived and, for its acq-rel at pod scope, what they did performed;
it completes at the leader when every other module has told it, and elsewhere the leader is told. No V, S or M register and no
byte of memory changes. -/
def Obligations.BarRounds : Prop :=
  ∀ (s : State) (r : Round),
    let mine := fun (p : Split) => decide (p.team ∈ s.roundTeams r) && r.parks p
    let here := (∀ tm ∈ s.roundTeams r, s.teamHalted tm = false) ∧
      ∀ tm ∈ s.roundTeams r, ∀ g ∈ s.groups tm,
        ((∃ n, r = .settleT n ∨ r = .settleG n ∨ r = .settleP n) → (s.grp ⟨tm, g⟩).role ≠ .matrix) →
        ∀ l ∈ s.liveLanes tm g, ∃ p ∈ s.x.splits, mine p = true ∧ p.team = tm ∧ p.group = g ∧ l ∈ s.active p
    let done := fun (t : State) =>
      t.x.splits = s.x.splits.map (fun p =>
        if mine p then
          match p.park with
          | .settle k vd ls _ pc _ => { p with park := .settle k vd ls s.u.seqNo pc true, waitFrom := none }
          | _ => { p with park := .run, waitFrom := none }
        else p) ∧
      t.roundFrom r = none ∧ t.r.v = s.r.v ∧ t.r.ve = s.r.ve ∧ t.r.sr = s.r.sr ∧ t.r.mr = s.r.mr ∧ t.m.mem = s.m.mem
    (∀ n tm, (r = .bar n ∨ r = .settleT n → (tm ∈ s.roundTeams r ↔ tm = n)) ∧
      (r = .gridsync n ∨ r = .settleG n → (tm ∈ s.roundTeams r ↔ ∃ x ∈ s.x.teams, x.uid = tm ∧ x.grid = n)) ∧
      ∀ j, s.job? n = some j → r = .podsync n ∨ r = .settleP n →
        (tm ∈ s.roundTeams r ↔ ∃ x ∈ s.x.teams, x.uid = tm ∧ ∃ g ∈ s.x.grids, g.uid = x.grid ∧ g.launch.asid = j.asid ∧
          g.launch.coop = true ∧ g.retired = false ∧ g.aborted = false)) ∧
    ((∀ n, r ≠ .podsync n ∧ r ≠ .settleP n) →
      ((∃ p ∈ s.x.splits, mine p = true) → here → done (s.checkRound r)) ∧
      ((∀ p ∈ s.x.splits, mine p = false) ∨ ¬ here → s.checkRound r = s)) ∧
    ∀ n j, s.job? n = some j → r = .podsync n ∨ r = .settleP n →
      let k := r.podIndex
      let ready := here ∧ (j.devs.filter fun d => decide (d = s.f.dev)).length ≤ (s.jobGrids j).length ∧
        ∀ a ∈ s.k.acc, a.append = true ∨ a.lane.t ∉ s.roundTeams r
      (¬ ready → s.checkRound r = s) ∧
      (ready → j.leader ≠ s.f.dev → s.checkRound r = { s with f.jobs := s.f.jobs.map fun (x : PodJob) =>
        if x.num = n then { x with told := (k :: x.told).eraseDups } else x }) ∧
      (ready → j.leader = s.f.dev →
        let told := ((∃ p ∈ s.x.splits, mine p = true) ∨ ∃ x ∈ j.arrived, x.2 = k) ∧
          ∀ d ∈ j.devs, d ≠ s.f.dev → (d, k) ∈ j.arrived
        (told → done (s.checkRound r)) ∧ (¬ told → s.checkRound r = s))

/-- MMA, MMAS and MMAD (R36 to R41, R181 to R193, R196): an operation on the group's own engine starts with each element of D
computed exactly from its row of A, its column of B and C and rounded once (MMAD: a chain of four FP64 multiply-adds); a
joint operation deposits its fragments; a DX type without one valid format in every slice, or an operation the chunk rule
forbids, raises FORMAT, a joint one at its leader's issue (log entry 63); malformed metadata raises META_MALFORMED; a consort
that cannot meet raises RENDEZVOUS, for the depositing group precisely. -/
def Obligations.MatrixMultiplies : Prop :=
  ∀ (s : State) (o : OpA) (i : Instr) (sparse : Bool), (i, sparse) ∈ [(Instr.mma o, false), (.mmas o, true)] →
    let vm := s.vc o.vd.toNat
    let vc := if sparse = true then o.vd.toNat else vm
    let dx := s.dxOf.getD 0
    let f := s.myFrag s.ty dx sparse o.va.toNat o.vb.toNat vm
    let members := if s.joint = true then (s.grp s.gid).consort.toNat / 2 ^ 42 % 8 else 1
    let bad := (s.ty = tyDx ∧ s.dxOf = none) ∨ ((s.grp s.gid).armed = true ∧ (s.joint = false ∨ s.isLeader = true) ∧
      (s.grp s.gid).chunkBad s.ty (max 1 members * matK s.ty dx sparse) o.vd.toNat vc = true)
    (bad → Runs i s → exec i s = .next (s.fault { code := FORMAT })) ∧
    (¬ bad → sparse = true → ∀ e, s.metaFault vm (metaRegs s.ty) s.sp = some e → Runs i s →
      exec i s = .next (s.fault e)) ∧
    (¬ bad → (sparse = true → s.metaFault vm (metaRegs s.ty) s.sp = none) →
      (s.joint = false → RunsTo i s fun t => t = s.issued.runMma s.gid [f] o.vd.toNat vc s.ty (s.roundOf s.lead) s.sat
        (occupancy (if s.ty = tyF32 then 8 else 2) s.gw)) ∧
      (s.joint = true →
        (∀ row, s.depositBad (s.jointKey (if sparse = true then 1 else 0)) = some row → Runs i s →
          exec i s = .next ((if row = 0 then s else s.discardLatch s.u.iss.team (s.grp s.gid).consort row).fault
            { code := RENDEZVOUS, info := row })) ∧
        (s.depositBad (s.jointKey (if sparse = true then 1 else 0)) = none → RunsTo i s fun t =>
          t = s.issued.deposit (s.jointKey (if sparse = true then 1 else 0)) f o.vd.toNat vc))) ∧
    ((s.grp s.gid).armed = true → Runs (.mmad o) s → exec (.mmad o) s = .next (s.fault { code := FORMAT })) ∧
    ((s.grp s.gid).armed = false → RunsTo (.mmad o) s fun t =>
      t = s.issued.startMat (s.coreOf s.gid) s.gid o.vd.toNat 64 (occupancy 8 s.gw) 12
        ((List.range s.gw).map fun i => (i, joinElems 64 (fun j =>
          (List.range 4).foldl (fun d k => roundSum fp64 (s.roundOf s.lead)
              [fp64.prod (elem (rowOf (s.fragRegs s.gid o.va.toNat 8) i) k 64)
                (elem (colOf s.gw tyF32 0 false (s.fragRegs s.gid o.vb.toNat (if s.gw = 16 then 16 else if s.gw = 64 then 4 else 8))
                  j) k 64), fp64.value d])
            (elem (rowOf (s.fragRegs s.gid (s.vc o.vd.toNat) 64) i) j 64)) 32)))

/-- An operation on an engine, of one group or of a consort whose fragments stand in its list (R36, R37, R39, R40, R184, R186,
R187, R190, R196). Outside a macro scale its destination range takes, when it is delivered, in lane i register j the sum of C and
all the products of row i and column j, exact and rounded once, or for the integer types their integer sum, wrapped or clamped;
nothing else of the machine changes at its start. Under the chunk rule the products are added to PB exactly and KPOS rises by
the effective K, which is the sum of the members' own (log entry 77); at 128 the operation delivers C plus the scaled sum, in
its four roundings, and the chunk is empty again; before that it writes no register. -/
def Obligations.MatrixElements : Prop :=
  (∀ (s : State) (g : GroupId) (fs : List Frag) (vd vc ty occ : Nat) (r : Rnd) (sat : Bool),
    let t := s.runMma g fs vd vc ty r sat occ
    let x := s.grp g
    let prods := fun (i j : Nat) => fs.flatMap fun f => f.prods i j
    let c := fun (i j : Nat) => (s.getV ⟨g.t, g.g, i⟩ (vc + j)).toNat
    let keff := (fs.map fun f => matK f.ty f.dx f.sparse).sum
    let pb := fun (i j : Nat) =>
      chunkAdd (if x.kpos = 0 then [] else [x.chunk.getD (32 * i + j) (.fin false 0 0)]) (prods i j)
    ∃ m, t.e.mats = s.e.mats ++ [m] ∧ m.team = g.t ∧ m.group = g.g ∧ m.vd = vd ∧ m.n = 32 ∧ m.at_ = s.u.clk + occ + 12 ∧
      (x.armed = false ∨ tyScaled ty = false →
        m.results.map (·.1) = List.range (s.width g.t) ∧
        (∀ i < s.width g.t, ∀ j < 32, ∃ v, (i, v) ∈ m.results ∧ elem v j 32 =
          (if tyInt ty = true then intElem sat (c i j) (prods i j)
            else roundTo fp32 r (exactSum r.mode (fp32.value (c i j) :: prods i j))) % 2 ^ 32) ∧
        { t with e.mats := s.e.mats, e.busy := s.e.busy, u.uid := s.u.uid } = s) ∧
      (x.armed = true → tyScaled ty = true →
        (x.kpos + keff = 128 →
          m.results.map (·.1) = List.range (s.width g.t) ∧
          (∀ i < s.width g.t, ∀ j < 32, ∃ v, (i, v) ∈ m.results ∧ elem v j 32 =
            (let p := roundTo fp32 r (exactSum r.mode (chunkAddends (pb i j)))
             let q := roundTo fp32 {} ((fp32.value (x.sa.getD i 0).toNat).mul (fp32.value x.sb.toNat))
             let u := roundTo fp32 r ((fp32.value p).mul (fp32.value q))
             roundTo fp32 r (exactSum r.mode [fp32.value (c i j), fp32.value u])) % 2 ^ 32) ∧
          t.grp g = { x with kpos := 0, bind := none, chunk := [] }) ∧
        (x.kpos + keff ≠ 128 →
          m.results = [] ∧ (∀ i < s.width g.t, ∀ j < 32, (t.grp g).chunk.getD (32 * i + j) (.fin false 0 0) = pb i j) ∧
          { t.grp g with chunk := x.chunk } = { x with kpos := x.kpos + keff, bind := some (vd, ty) }) ∧
        (∀ h, h ≠ g → t.grp h = s.grp h) ∧
        { t with e.mats := s.e.mats, e.busy := s.e.busy, u.uid := s.u.uid, r.gr := s.r.gr } = s)) ∧
  ∀ (md : RMode) (old ps : List XVal), old ++ ps ≠ [] →
    exactSum md (chunkAddends (chunkAdd old ps)) = exactSum md (old.flatMap chunkAddends ++ ps)

/-- The other instructions of majors 0x17 and 0x18 (R189, R191, R194 to R202): SPCMP, the online softmax, GETFMT and SETFMT;
CONSORT, MSCALE and MSCALE.OFF; the transposes FRAGT and XQT and ACCZ, which run on the group's engine. -/
def Obligations.MatrixControl : Prop :=
  ∀ (s : State) (p : OpSpcmp) (a : OpA1) (o : OpA) (d : OpD) (n : OpImm) (c : OpConsort) (m : OpMC),
    s.Gives (.spcmp p) p.vd.toNat (8 + metaRegs s.ty) (fun l =>
      (spCompress s.ty (decide (p.sel.toNat = 1)) (s.getVs (s.lane l) p.va.toNat 16)).1 +
        2 ^ 256 * (spCompress s.ty (decide (p.sel.toNat = 1)) (s.getVs (s.lane l) p.va.toNat 16)).2) ∧
    s.Gives (.smxacc a) a.vd.toNat 2 (fun l => smxMerge (s.roundOf (s.slice (l / 4)))
      (s.getV (s.lane l) a.vd.toNat).toNat (s.getV (s.lane l) (a.vd.toNat + 1)).toNat (s.getV (s.lane l) a.va.toNat).toNat
      0x3F800000) ∧
    s.Gives (.smxfin o) o.vd.toNat 2 (fun l => smxMerge (s.roundOf (s.slice (l / 4)))
      (s.getV (s.lane l) o.va.toNat).toNat (s.getV (s.lane l) (o.va.toNat + 1)).toNat
      (s.getV (s.lane l) o.vb.toNat).toNat (s.getV (s.lane l) (o.vb.toNat + 1)).toNat) ∧
    s.Gives (.getfmt d) d.vd.toNat 1 (fun l => (s.slc (s.slice (l / 4))).f.toNat) ∧
    RunsTo (.setfmt n) s (fun t => (∀ x ∈ s.slices, (t.slc x).f = BitVec.ofNat 3 (s.immU n.imm)) ∧
      (∀ x, { t.slc x with f := (s.slc x).f } = s.slc x) ∧ { t with r.sl := s.r.sl } = s.issued) ∧
    (s.consortOk (s.getVs (s.lane 0) c.va.toNat 2) = true → RunsTo (.consort c) s fun t =>
      t = s.issued.modGrp s.gid fun g => { g with consort := BitVec.ofNat 48 (s.getVs (s.lane 0) c.va.toNat 2) }) ∧
    (s.consortOk (s.getVs (s.lane 0) c.va.toNat 2) = false → Runs (.consort c) s →
      exec (.consort c) s = .next (s.fault { code := RENDEZVOUS })) ∧
    (State.memFault (mscaleOp m) (s.plans (mscaleOp m)) = none → RunsTo (.mscale m) s fun t =>
      s.Accesses { t with r.gr := s.r.gr } (mscaleOp m) ∧
      t.grp s.gid = { s.grp s.gid with armed := true, mscBusy := (s.grp s.gid).mscBusy + s.elanes.length } ∧
      ∀ g, g ≠ s.gid → t.grp g = s.grp g) ∧
    (∀ f, State.memFault (mscaleOp m) (s.plans (mscaleOp m)) = some f → Runs (.mscale m) s →
      exec (.mscale m) s = .next (s.fault f)) ∧
    RunsTo .mscaleOff s (fun t =>
      t = s.issued.modGrp s.gid fun g => { g with armed := false, kpos := 0, bind := none, chunk := [] }) ∧
    RunsTo (.fragt a) s (fun t => t = s.issued.startMat (s.coreOf s.gid) s.gid a.vd.toNat 8 (occupancy 2 s.gw) 12
      ((List.range s.gw).map fun i => (i, joinElems (32 / 2 ^ s.pack) (fun j =>
        elem (rowOf (s.fragRegs s.gid a.va.toNat 8) (transposed s.gw (256 / (32 / 2 ^ s.pack)) i j).1)
          (transposed s.gw (256 / (32 / 2 ^ s.pack)) i j).2 (32 / 2 ^ s.pack)) (256 / (32 / 2 ^ s.pack))))) ∧
    (s.ty = tyDx → (s.sameF = false ∨ s.dxOf = none ∨ s.dxOf = some 0) → Runs (.xqt a) s →
      exec (.xqt a) s = .next (s.fault { code := FORMAT })) ∧
    (s.ty = tyS4 → RunsTo (.xqt a) s fun t =>
      t = s.issued.startMat (s.coreOf s.gid) s.gid a.vd.toNat 8 (occupancy 4 s.gw) 12
        ((List.range s.gw).map fun i => (i, joinElems 4 (fun j =>
          elem (rowOf (s.fragRegs s.gid a.va.toNat 8) (transposed s.gw 64 i j).1) (transposed s.gw 64 i j).2 4) 64))) ∧
    (∀ k, s.ty = tyDx → s.sameF = true → s.dxOf = some k → k ≠ 0 → RunsTo (.xqt a) s fun t =>
      t = s.issued.startMat (s.coreOf s.gid) s.gid a.vd.toNat (aRegs tyDx k) (occupancy 4 s.gw) 12
        ((List.range s.gw).map fun i => (i, joinElems (32 * aRegs tyDx k / 2) (fun b =>
          (dxPack k (s.dxPolicy (s.slice 0)) (fun _ => (s.roundOf s.lead).mode)
            ((List.range 32).map fun j => matElem tyDx k
              (rowOf (s.fragRegs s.gid a.va.toNat (aRegs tyDx k)) (transposed s.gw 64 i (32 * b + j)).1)
              (transposed s.gw 64 i (32 * b + j)).2)).1 +
          2 ^ (32 * (aRegs tyDx k / 2 - 1)) *
            (dxPack k (s.dxPolicy (s.slice 0)) (fun _ => (s.roundOf s.lead).mode)
              ((List.range 32).map fun j => matElem tyDx k
                (rowOf (s.fragRegs s.gid a.va.toNat (aRegs tyDx k)) (transposed s.gw 64 i (32 * b + j)).1)
                (transposed s.gw 64 i (32 * b + j)).2)).2) 2))) ∧
    RunsTo (.accz d) s (fun t => t = (s.issued.startMat (s.coreOf s.gid) s.gid d.vd.toNat (if s.pack = 3 then 64 else 32) 1 2
      ((List.range s.gw).map fun i => (i, 0))).modGrp s.gid fun g => { g with kpos := 0, bind := none, chunk := [] })

/-- Copies at issue (R238, R240 to R242, R244): CPY, TCPY, TCPYM and TSTORE capture their command, with the checks that a
failing one ends with and, where a check fails, no request for tenure; the status register is empty in the executing lanes;
no register's contents, no scalar, no mask and no byte of memory changes, and the split goes on. -/
def Obligations.CopyIssue : Prop :=
  ∀ (s : State) (o : OpX) (i : Instr) (kind : CopyKind) (d r : Nat),
    (i, kind, d, r) ∈ [(Instr.cpy o, CopyKind.cpy, 2, 2), (.tcpy o, .tcpy, 8, 8), (.tcpym o, .tcpym, 8, 8),
      (.tstore o, .tstore, 8, 2)] →
    RunsTo i s fun t =>
      (∃ c : Copy, t.e.copies = s.e.copies ++ [c] ∧ c.id = s.u.uid ∧ c.kind = kind ∧ c.sid = s.u.iss.sid ∧
        c.team = s.u.iss.team ∧ c.group = s.u.iss.group ∧ c.core = s.coreOf s.gid ∧ c.seq = s.u.seqNo ∧
        c.phase = .waiting ∧ c.done = 0 ∧ c.wrote = false ∧ c.ctl = s.leadS o.sb.toNat ∧
        c.dst = (if d = 8 then s.recordAt o.sd.toNat else { base := s.leadAddr o.sd.toNat : Layout }) ∧
        c.src = (if r = 8 then s.recordAt o.sa.toNat else { base := s.leadAddr o.sa.toNat : Layout }) ∧
        c.pattern = s.leadAddr o.sa.toNat ∧ c.lanes = s.elanes ∧ c.act = s.act ∧ c.vs = s.copyVs ∧
        c.bad = s.issued.copyCheck { c with bad := 0, incs := [], members := [] } ∧
        (c.bad = 0 → c.incs = s.issued.copyIncs { c with bad := 0, incs := [], members := [] }) ∧
        (c.bad = 0 →
          let pages := s.issued.tenurePages { c with bad := 0, incs := [], members := [] }
          t.e.reqs = s.e.reqs ++ if pages.isEmpty then [] else
            [{ holder := .copy c.id, team := c.team, write := true, foot := { recs := c.records, pages := pages }
               since := s.u.clk }]) ∧
        (c.bad ≠ 0 → c.incs = [] ∧ t.e.reqs = s.e.reqs)) ∧
      (∀ x n, t.getV x n = s.getV x n) ∧
      (∀ v, s.copyVs = some v → ∀ l ∈ s.elanes, t.isEmpty (s.lane l) v = true) ∧
      (∀ x n, (∀ l ∈ s.elanes, x = s.lane l → s.copyVs ≠ some n) → t.isEmpty x n = s.isEmpty x n) ∧
      t.r.sr = s.r.sr ∧ t.r.mr = s.r.mr ∧ t.r.sl = s.r.sl ∧ t.m = s.m ∧ t.x = s.issued.x ∧ t.e.tens = s.e.tens

/-- Barrier operations (R207 to R211): a bad address raises MISALIGN or WINDOW; a word with stores of the split's lanes in
flight makes the unit wait; otherwise each operation makes its one change to the word and writes its status to Sd: BINIT
starts a generation, BARV arrives and completes the phase at PEND 0, BEXPECT expects more, BINVAL ends the generation, BTEST
examines the word as it stands, and BWAIT the first word since it began to wait that answers its token: from its first
examination on, a waiting split keeps the first changed word that does. -/
def Obligations.Barriers : Prop :=
  ∀ (s : State) (o : OpX) (o1 : OpX1),
    let a := s.leadAddr o.sa.toNat
    let n := s.leadS o.sb.toNat
    (∀ f, s.wordFault a 4 true = some f →
      ∀ i ∈ [Instr.binit o, .barv o, .bwait o, .btest o, .bexpect o], Runs i s → exec i s = .next (s.fault f)) ∧
    (∀ f, s.wordFault (s.leadAddr o1.sa.toNat) 4 true = some f → Runs (.binval o1) s →
      exec (.binval o1) s = .next (s.fault f)) ∧
    (∀ loc, s.wordFault (s.leadAddr o1.sa.toNat) 4 true = none → s.scratchLoc (s.leadAddr o1.sa.toNat) true = some loc →
      s.owesAt loc 4 = false →
      let w := s.load loc 4
      RunsTo (.binval o1) s fun t => t =
        s.wordOp loc (barWord (barInc w + 1) false (barPhase w) (barExp w) (barPend w)) o1.sd.toNat
          (barStatus (barInc w + 1) (barPhase w) 0 0)) ∧
    ∀ loc, s.wordFault a 4 true = none → s.scratchLoc a true = some loc →
      let w := s.load loc 4
      let st := fun code => barStatus (barInc w) (barPhase w) 0 code
      (s.owesAt loc 4 = true → ∀ i ∈ [Instr.binit o, .barv o, .bwait o, .btest o, .bexpect o], Runs i s →
        exec i s = .next s.waiting) ∧
      (s.owesAt loc 4 = false →
        (1 ≤ n ∧ n ≤ 4095 → RunsTo (.binit o) s fun t => t =
          s.wordOp loc (barWord (barInc w + 1) true 0 n n) o.sd.toNat (barStatus (barInc w + 1) (barPhase w) 0 0)) ∧
        (¬ (1 ≤ n ∧ n ≤ 4095) →
          (RunsTo (.binit o) s fun t => t = s.wordOp loc w o.sd.toNat (st 5)) ∧
          (RunsTo (.bexpect o) s fun t => t = s.wordOp loc w o.sd.toNat (st 5)) ∧
          (barV w = false ∨ s.owesRelease = false → RunsTo (.barv o) s fun t => t = s.wordOp loc w o.sd.toNat (st 5))) ∧
        (1 ≤ n ∧ n ≤ 4095 → barV w = false →
          (RunsTo (.barv o) s fun t => t = s.wordOp loc w o.sd.toNat (st 3)) ∧
          (RunsTo (.bexpect o) s fun t => t = s.wordOp loc w o.sd.toNat (st 3))) ∧
        (1 ≤ n ∧ n ≤ 4095 → barV w = true →
          (s.owesRelease = true → Runs (.barv o) s → exec (.barv o) s = .next s.waiting) ∧
          (s.owesRelease = false → barPend w < n → RunsTo (.barv o) s fun t => t = s.wordOp loc w o.sd.toNat (st 4)) ∧
          (s.owesRelease = false → n < barPend w → RunsTo (.barv o) s fun t => t =
            s.wordOp loc (barWord (barInc w) true (barPhase w) (barExp w) (barPend w - n)) o.sd.toNat (st 0)) ∧
          (s.owesRelease = false → n = barPend w → RunsTo (.barv o) s fun t => t =
            s.wordOp loc (barWord (barInc w) true (barPhase w + 1) (barExp w) (barExp w)) o.sd.toNat (st 0)) ∧
          (4095 < barPend w + n → RunsTo (.bexpect o) s fun t => t = s.wordOp loc w o.sd.toNat (st 4)) ∧
          (barPend w + n ≤ 4095 → RunsTo (.bexpect o) s fun t => t =
            s.wordOp loc (barWord (barInc w) true (barPhase w) (barExp w) (barPend w + n)) o.sd.toNat (st 0))) ∧
        (barV w = false ∨ barInc w ≠ barInc n → RunsTo (.btest o) s fun t => t = s.issued.setSAll o.sd.toNat (st 2)) ∧
        (barV w = true → barInc w = barInc n → barPhase w ≠ barPhase n →
          RunsTo (.btest o) s fun t => t = s.issued.setSAll o.sd.toNat (st 0)) ∧
        (barV w = true → barInc w = barInc n → barPhase w = barPhase n →
          RunsTo (.btest o) s fun t => t = s.issued.setSAll o.sd.toNat (st 1)) ∧
        (let z := s.waitWord loc n
         let sz := fun code => barStatus (barInc z) (barPhase z) 0 code
         (barV z = false ∨ barInc z ≠ barInc n → RunsTo (.bwait o) s fun t => t = s.issued.setSAll o.sd.toNat (sz 2)) ∧
         (barV z = true → barInc z = barInc n → barPhase z ≠ barPhase n →
           RunsTo (.bwait o) s fun t => t = s.issued.setSAll o.sd.toNat (sz 0)) ∧
         (barV z = true → barInc z = barInc n → barPhase z = barPhase n →
           (s.stalled = false → Runs (.bwait o) s → exec (.bwait o) s = .next
             (if (s.waitsOn loc n).isSome = true then s
               else s.modSplit s.u.iss.sid fun p => { p with await := some { loc := loc, token := n } }).waiting) ∧
           (s.stalled = true → Runs (.bwait o) s →
             exec (.bwait o) s = .next (s.fault { code := BARRIER_STALL, info := 1 })))) ∧
        (s.cur.waitFrom = none ∨ s.cur.await = none → s.waitWord loc n = w) ∧
        (∀ x, s.cur.waitFrom ≠ none → s.cur.await = some { loc := loc, token := n, found := some x } →
          s.waitWord loc n = x) ∧
        (∀ p x, p.await = some { loc := loc, token := n, found := x } → p.waitFrom ≠ none →
          (x = none → barExamine w n ≠ 1 →
            s.examine p = { p with await := some { loc := loc, token := n, found := some w } }) ∧
          (x ≠ none ∨ barExamine w n = 1 → s.examine p = p)))

/-- Stage rings (R205, R213, R214): RPUSH and RPOP release, so they wait for the split's own accesses; on a well-formed
descriptor RPUSH fills slot HEAD, or answers FULL, and RPOP frees slot TAIL, or answers EMPTY; RWAIT.P waits for a free slot
HEAD and RWAIT.C for a full slot TAIL and give its address; a malformed descriptor gives BADRING, or address 0. -/
def Obligations.StageRings : Prop :=
  ∀ (s : State) (o : OpX1) (x : OpX),
    (∀ f, s.wordFault (s.leadAddr o.sa.toNat) 16 false = some f → ∀ i ∈ [Instr.rpush o, .rpop o], Runs i s →
      exec i s = .next (s.fault f)) ∧
    (∀ f, s.wordFault (s.leadAddr x.sa.toNat) 16 false = some f → Runs (.rwait x) s →
      exec (.rwait x) s = .next (s.fault f)) ∧
    (∀ loc, s.wordFault (s.leadAddr o.sa.toNat) 16 false = none → s.scratchLoc (s.leadAddr o.sa.toNat) false = some loc →
      let r := s.ringAt loc
      (s.owesRelease = true → ∀ i ∈ [Instr.rpush o, .rpop o], Runs i s → exec i s = .next s.waiting) ∧
      (s.owesRelease = false → r.bad = true → ∀ i ∈ [Instr.rpush o, .rpop o],
        RunsTo i s fun t => t = s.issued.setSAll o.sd.toNat (barStatus 0 0 0 8)) ∧
      (s.owesRelease = false → r.bad = false →
        (bit r.ph r.head = true → RunsTo (.rpush o) s fun t => t = s.issued.setSAll o.sd.toNat (barStatus 0 0 0 6)) ∧
        (bit r.ph r.head = false → RunsTo (.rpush o) s fun t => t =
          (s.issued.setRing loc ((r.head + 1) % r.n) r.tail (r.ph + 2 ^ r.head)).setSAll o.sd.toNat
            (barStatus 0 0 r.head 0)) ∧
        (bit r.ph r.tail = false → RunsTo (.rpop o) s fun t => t = s.issued.setSAll o.sd.toNat (barStatus 0 0 0 7)) ∧
        (bit r.ph r.tail = true → RunsTo (.rpop o) s fun t => t =
          (s.issued.setRing loc r.head ((r.tail + 1) % r.n) (r.ph - 2 ^ r.tail)).setSAll o.sd.toNat
            (barStatus 0 0 r.tail 0)))) ∧
    ∀ loc, s.wordFault (s.leadAddr x.sa.toNat) 16 false = none → s.scratchLoc (s.leadAddr x.sa.toNat) false = some loc →
      let r := s.ringAt loc
      let i := if x.sb = 0 then r.head else r.tail
      (s.owesAt loc 16 = true → Runs (.rwait x) s → exec (.rwait x) s = .next s.waiting) ∧
      (s.owesAt loc 16 = false → r.bad = true → RunsTo (.rwait x) s fun t => t = s.issued.setSPair x.sd.toNat 0) ∧
      (s.owesAt loc 16 = false → r.bad = false →
        (bit r.ph i = decide (x.sb ≠ 0) → RunsTo (.rwait x) s fun t => t =
          s.issued.setSPair x.sd.toNat (scratchWindow + r.base + r.slot * i)) ∧
        (bit r.ph i ≠ decide (x.sb ≠ 0) → s.stalled = false → Runs (.rwait x) s →
          exec (.rwait x) s = .next s.waiting) ∧
        (bit r.ph i ≠ decide (x.sb ≠ 0) → s.stalled = true → Runs (.rwait x) s →
          exec (.rwait x) s = .next (s.fault { code := BARRIER_STALL, info := 2 })))

/-- Copies in the engine (R212, R240 to R244): COPY_START lets a command that has passed its checks start once the earlier
commands of its split have started and the accesses it follows are performed, with its tenure if it needs one; COPY_COMPLETE
ends a command that failed its checks with its code, and otherwise moves the bytes that are left, or, with the event's flag,
some whole words of them (log entry 22), up to the first that fails: each byte goes from its source to its destination and no
other byte of memory changes; lines that recalls keep from it are called for, and with the event's value 2 a command whose next
bytes another module has not answered within the delivery limit ends with FABRIC (R428). A command that ends arrives at each of
its barriers, an arrival that finds another generation being dropped and counted, writes its status, PARTIAL in it when it has
written and ends with an error, and gives up itself and its tenure, all in one step (log entry 79). -/
def Obligations.CopyExecution : Prop :=
  ∀ (s : State) (c : Copy), s.copy? s.u.ev.id = some c →
    (c.phase = .waiting → c.bad = 0 → s.mayStart c = true → s.copyRequest c.id = none →
      exec .copyStart s = .next (s.modCopy c.id fun x => { x with phase := .started, moved := s.u.clk })) ∧
    (∀ i q, c.phase = .waiting → c.bad = 0 → s.mayStart c = true → s.copyRequest c.id = some i → s.e.reqs[i]? = some q →
      (s.e.reqs.eraseIdx i).all (fun x => decide (x.holder ≠ .copy c.id)) = true → q.brch = false →
      s.grantable q (s.e.reqs.take i) = true →
      exec .copyStart s = .next
        ({ s with e.reqs := s.e.reqs.eraseIdx i, e.tens := s.e.tens ++ [q] }.modCopy c.id fun x =>
          { x with phase := .started, moved := s.u.clk })) ∧
    (c.phase = .waiting → c.bad ≠ 0 → exec .copyComplete s = .next (s.endCopy c c.bad)) ∧
    (c.phase = .started → s.u.ev.value = 2 → exec .copyComplete s = .next
      (if s.copyLate c (c.steps.drop c.done).flatten = true then s.endCopy c 6 else s)) ∧
    (c.phase = .started → s.u.ev.value ≠ 2 →
      let todo := c.steps.drop c.done
      let now := (if s.u.ev.flag = true then todo.take s.u.ev.n else todo).flatten
      s.mayMove c now = false → exec .copyComplete s = .next (if s.recallsClear c now = true then s else s.callMoves c now)) ∧
    (c.phase = .started → s.u.ev.value ≠ 2 →
      let todo := c.steps.drop c.done
      let now := (if s.u.ev.flag = true then todo.take s.u.ev.n else todo).flatten
      s.mayMove c now = true →
      let r := s.moveBytes c (decide (c.code = 2)) c.wrote now
      let code := if r.2.1 ≠ 0 then r.2.1 else if r.2.2.1 = true then 2 else 0
      let c' : Copy := { c with
        done := if s.u.ev.flag = true then c.done + s.u.ev.n else c.steps.length, code := code, wrote := r.2.2.2
        moved := s.u.clk }
      (s.u.ev.flag = false ∨ r.2.1 ≠ 0 ∨ c.steps.length ≤ c.done + s.u.ev.n →
        exec .copyComplete s = .next (r.1.endCopy c' code)) ∧
      (s.u.ev.flag = true → r.2.1 = 0 → c.done + s.u.ev.n < c.steps.length →
        exec .copyComplete s = .next (r.1.modCopy c.id fun _ => c'))) ∧
    (∀ bad wrote m ms, s.moveBytes c bad wrote [] = (s, 0, bad, wrote) ∧
      s.moveBytes c bad wrote (m :: ms) = (let x := s.moveByte c m
        if x.2.1 = 0 then
          (if x.2.2 = true ∧ bad = false then x.1.copyPoison c m.2 else x.1).moveBytes c (bad || x.2.2) true ms
        else (x.1, x.2.1, bad, wrote))) ∧
    (∀ (m : Nat × Nat) (k : Nat),
      (c.kind ≠ .tstore → s.copyPlace c m.2 false = .inr k → s.moveByte c m = (s, k, false)) ∧
      (c.kind ≠ .tcpym → (c.kind = .tstore ∨ ∃ x, s.copyPlace c m.2 false = .inl x) → s.copyPlace c m.1 true = .inr k →
        s.moveByte c m = (s, k, false))) ∧
    (∀ (m : Nat × Nat) (x : Place), s.MemWf →
      let keyed := fun (lf : Leaf) (pa loc : Nat) => inHost pa = true ∨ s.keyAt (loc / 128) = s.keyId (loc / 128) lf.key
      let b := if c.kind = .tstore then c.pattern / 2 ^ (8 * m.2) % 256 else s.load x.1 1
      (c.kind ≠ .tstore → s.copyPlace c m.2 false = .inl x ∧ ∀ lf, x.2 = some lf → keyed lf (lf.pa m.2) x.1) →
      let t := s.moveByte c m
      (∀ y : Place, c.kind ≠ .tcpym → s.copyPlace c m.1 true = .inl y →
        (∀ lf, y.2 = some lf → keyed lf (lf.pa m.1) y.1 ∧ s.retiredAt lf (lf.pa m.1) = false) →
        t.2.1 = 0 ∧ t.1.load y.1 1 = b ∧ ∀ a, a ≠ y.1 → t.1.load a 1 = s.load a 1) ∧
      (c.kind = .tcpym → t.2.1 = 0 ∧ (∀ tm ∈ c.members, t.1.load (locScr tm (Copy.offset m.1)) 1 = b) ∧
        ∀ a, (∀ tm ∈ c.members, a ≠ locScr tm (Copy.offset m.1)) → t.1.load a 1 = s.load a 1)) ∧
    (∀ (x : Nat × Nat), let w := s.load x.1 4
      let fits := barV w = true ∧ barInc w = x.2 ∧ 1 ≤ barPend w
      (fits → s.copyArrive c.team c.core x = ((s.squashBy none c.team c.core).store x.1 (barArrive w 1) 4, false)) ∧
      (¬ fits →
        s.copyArrive c.team c.core x = (s.setCoreReg c.core 0x80 (bumpSat (s.coreReg c.core 0x80)), true))) ∧
    (∀ code, let r := c.incs.foldl (fun (p : State × Bool) x => ((p.1.copyArrive c.team c.core x).1,
        p.2 || (p.1.copyArrive c.team c.core x).2)) (s, false)
      (s.endCopy c code).m = r.1.m ∧ ∀ v, c.vs = some v → ∀ l ∈ c.slanes, (s.endCopy c code).getV ⟨c.team, c.group, l⟩ v =
        copyStatus r.2 (s.e.tens.any fun h => decide (h.holder = .copy c.id) && h.brch) (c.wrote && decide (code ≠ 0)) code) ∧
    (c.phase = .started → s.u.ev.value ≠ 2 → s.u.ev.flag = false → s.mayMove c (c.steps.drop c.done).flatten = true →
      ∃ t, exec .copyComplete s = .next t ∧ (∀ x ∈ t.e.copies, x.id ≠ c.id) ∧
        (∀ h ∈ t.e.tens, h.holder ≠ .copy c.id) ∧ (∀ h ∈ t.e.reqs, h.holder ≠ .copy c.id) ∧
        ∀ v, c.vs = some v → ∀ l ∈ c.slanes, t.isEmpty ⟨c.team, c.group, l⟩ v = false ∧
          (t.getV ⟨c.team, c.group, l⟩ v).getLsbD 31 = true) ∧
    ∀ code, (∀ x ∈ (s.endCopy c code).e.copies, x.id ≠ c.id) ∧
      (∀ x ∈ s.e.copies, x.id ≠ c.id → x ∈ (s.endCopy c code).e.copies) ∧
      (∀ h, h.holder ≠ .copy c.id → (h ∈ (s.endCopy c code).e.tens ↔ h ∈ s.e.tens)) ∧
      ∀ v, c.vs = some v → c.incs = [] → ∀ l ∈ c.slanes, (s.endCopy c code).getV ⟨c.team, c.group, l⟩ v =
        copyStatus false (s.e.tens.any fun h => decide (h.holder = .copy c.id) && h.brch)
          (c.wrote && decide (code ≠ 0)) code

/-- Minting, freeing, splitting and merging (R269 to R271, R275, R276, R281, R282): a bad handle raises HANDLE_INVALID or
HANDLE_STALE; TMINT enters a valid record or answers the code that refuses it; TFREE frees a handle that nobody holds or
waits for, advancing its generation; TSPLIT divides a tile between two new entries and its team's tenure with it, and a refused
one writes Sd alone (log entry 45); TMERGE frees both children of one split. -/
def Obligations.TileEntries : Prop :=
  ∀ (s : State) (o : OpX1) (x : OpX),
    (∀ f, s.handleS o.sa.toNat = some f → Runs (.tfree o) s → exec (.tfree o) s = .next (s.fault f)) ∧
    (∀ f, s.handleS x.sa.toNat = some f → ∀ i ∈ [Instr.tsplit x, .tmerge x], Runs i s → exec i s = .next (s.fault f)) ∧
    (let r := s.recordAt o.sa.toNat
     let pages := if r.valid then s.issued.pagesOf (s.coreOf s.gid) s.asid r else none
     let code := s.issued.mintCode r pages
     let u := if r.valid = true then s.issued.missWalks (s.coreOf s.gid) s.asid r.steps else s.issued
     (code ≠ 0 → RunsTo (.tmint o) s fun t =>
       t = (u.setSAll o.sd.toNat (tileStatus code)).setSAll (o.sd.toNat + 1) 0) ∧
     ∀ e, code = 0 → s.freeEntry (s.coreOf s.gid / 192) none = some e → RunsTo (.tmint o) s fun t =>
       t = ((u.putTile { e with live := true, asid := s.asid, foot := { recs := [r], pages := pages.getD [] } }).setSAll
         o.sd.toNat (tileStatus 0)).setSAll (o.sd.toNat + 1) (BitVec.ofNat 32 e.handle)) ∧
    (s.handleS o.sa.toNat = none →
      let y := s.tileOf (s.leadS o.sa.toNat)
      (y.isSplit = true ∨ s.holders y ≠ [] ∨ s.waitingOn y ≠ 0 → RunsTo (.tfree o) s fun t =>
        t = s.issued.setSAll o.sd.toNat (tileStatus 1 (child := y.child))) ∧
      (y.isSplit = false → s.holders y = [] → s.waitingOn y = 0 →
        (y.child = true → RunsTo (.tfree o) s fun t => t = s.issued.setSAll o.sd.toNat (tileStatus 13 (child := true))) ∧
        (y.child = false → RunsTo (.tfree o) s fun t =>
          t = (s.issued.modTile y.key fun z => z.free s.u.clk).setSAll o.sd.toNat (tileStatus 0)))) ∧
    (∀ y : Tile, ∀ now, (y.free now).live = false ∧ (y.free now).gen = (if y.gen = 4095 then 1 else y.gen + 1)) ∧
    (s.handleS x.sa.toNat = none →
      let y := s.tileOf (s.leadS x.sa.toNat)
      let arg := s.leadS x.sb.toNat
      (∀ code, s.splitRefusal y arg = some code → RunsTo (.tsplit x) s fun t =>
        t = s.issued.setSAll x.sd.toNat (tileStatus code (child := y.child))) ∧
      (∀ a b, s.splitRefusal y arg = none → s.freeEntry (s.coreOf s.gid / 192) none = some a →
        s.freeEntry (s.coreOf s.gid / 192) (some a.entry) = some b →
        let hv := y.layout.halves (arg % 4) (arg / 2 ^ 16)
        let kid := fun (e : Tile) (q : Layout) =>
          { e with live := true, asid := s.asid, foot := { recs := [q], pages := y.foot.pages }, isSplit := false
                   parent := some y.key }
        RunsTo (.tsplit x) s fun t =>
          t.e.tiles = (((s.issued.putTile (kid a hv.1)).putTile (kid b hv.2)).modTile y.key fun z =>
            { z with isSplit := true }).e.tiles ∧
          (∀ h ∈ s.e.tens, h.tile ≠ some y.key → h ∈ t.e.tens) ∧
          (∀ h ∈ s.e.tens, h.tile = some y.key →
            { h with tile := some (a.die, a.entry), foot := (kid a hv.1).foot } ∈ t.e.tens ∧
            { h with tile := some (b.die, b.entry), foot := (kid b hv.2).foot } ∈ t.e.tens) ∧
          (∀ c ∈ s.slices, t.getS c x.sd.toNat = tileStatus 0 (child := y.child) ∧
            t.getS c (x.sd.toNat + 1) = BitVec.ofNat 32 (kid a hv.1).handle ∧
            t.getS c (x.sd.toNat + 2) = BitVec.ofNat 32 (kid b hv.2).handle) ∧
          t.r.v = s.r.v ∧ t.r.mr = s.r.mr ∧ t.m = s.m ∧ t.e.reqs = s.e.reqs ∧ t.x = s.issued.x)) ∧
    (s.handleS x.sa.toNat = none →
      let y := s.tileOf (s.leadS x.sa.toNat)
      let z := s.tileOf (s.leadS x.sb.toNat)
      let busy := fun (u : Tile) => u.isSplit = true ∨ s.holders u ≠ [] ∨ s.waitingOn u ≠ 0
      (∀ f, s.handleS x.sb.toNat = some f → Runs (.tmerge x) s → exec (.tmerge x) s = .next (s.fault f)) ∧
      (s.handleS x.sb.toNat = none →
        (y.parent = none → RunsTo (.tmerge x) s fun t => t = s.issued.setSAll x.sd.toNat (tileStatus 14)) ∧
        ∀ k, y.parent = some k →
          (z.parent ≠ some k ∨ y.key = z.key → RunsTo (.tmerge x) s fun t =>
            t = s.issued.setSAll x.sd.toNat (tileStatus 14 (child := true))) ∧
          (z.parent = some k → y.key ≠ z.key → busy y ∨ busy z → RunsTo (.tmerge x) s fun t =>
            t = s.issued.setSAll x.sd.toNat (tileStatus 1 (child := true))) ∧
          (z.parent = some k → y.key ≠ z.key → ¬ (busy y ∨ busy z) → RunsTo (.tmerge x) s fun t =>
            t = (((s.issued.modTile y.key fun u => u.free s.u.clk).modTile z.key fun u => u.free s.u.clk).modTile k
              fun u => { u with isSplit := false }).setSAll x.sd.toNat (tileStatus 0 (child := true)))))

/-- Tile tenure (R274, R277 to R280, R284, R285): TACQ holds the tenure at once where nothing conflicts, answers HELD, SPLIT,
BADARG or WOULDWAIT, and otherwise joins the arrival order and waits for its grant or its time-out; TREL gives the tenure up
and starts its drain; TDOWN makes a write tenure a read tenure and starts its drain; TSTAT reports and changes nothing. -/
def Obligations.TileTenure : Prop :=
  ∀ (s : State) (o : OpX1) (x : OpX),
    (∀ f, s.handleS o.sa.toNat = some f → ∀ i ∈ [Instr.trel o, .tdown o, .tstat o], Runs i s → exec i s = .next (s.fault f)) ∧
    (∀ f, s.handleS x.sa.toNat = some f → Runs (.tacq x) s → exec (.tacq x) s = .next (s.fault f)) ∧
    (s.handleS x.sa.toNat = none →
      let y := s.tileOf (s.leadS x.sa.toNat)
      let mode := s.leadS x.sb.toNat
      let st := fun code => tileStatus code (s.tileState y) (child := y.child)
      let put := fun code => RunsTo (.tacq x) s fun t => t = s.issued.setSAll x.sd.toNat (st code)
      let q := s.requestFor y (decide (mode % 2 = 1))
      (∀ h, s.granted y = some h → RunsTo (.tacq x) s fun t =>
        t.e.tens = s.e.tens.map (fun z => if z = h then { z with sid := 0 } else z) ∧
        (∀ c ∈ s.slices, t.getS c x.sd.toNat = st 0) ∧ t.e.reqs = s.e.reqs ∧ t.m = s.m ∧ t.r.v = s.r.v) ∧
      (∀ w, s.granted y = none → s.myRequest y = some w →
        (w.brch = false → Runs (.tacq x) s → exec (.tacq x) s = .next s.waiting) ∧
        (w.brch = true → RunsTo (.tacq x) s fun t =>
          t = { s.issued with e.reqs := s.e.reqs.filter fun z => decide (z ≠ w) }.setSAll x.sd.toNat (st 16))) ∧
      (s.granted y = none → s.myRequest y = none →
        (4 ≤ mode → put 17) ∧
        (mode < 4 → (s.mine y s.u.iss.team).isSome = true → put 9) ∧
        (mode < 4 → s.mine y s.u.iss.team = none → y.isSplit = true → put 12) ∧
        (mode < 4 → s.mine y s.u.iss.team = none → y.isSplit = false →
          (s.grantable q s.e.reqs = true → RunsTo (.tacq x) s fun t =>
            t.e.tens = s.e.tens ++ [{ q with sid := 0 }] ∧
            (∀ c ∈ s.slices, t.getS c x.sd.toNat = tileStatus 0 (t.tileState y) (child := y.child)) ∧
            t.e.reqs = s.e.reqs ∧ t.m = s.m ∧ t.r.v = s.r.v) ∧
          (s.grantable q s.e.reqs = false → bit mode 1 = true → put 15) ∧
          (s.grantable q s.e.reqs = false → bit mode 1 = false → Runs (.tacq x) s →
            exec (.tacq x) s = .next { s with e.reqs := s.e.reqs ++ [q] }.waiting)))) ∧
    (s.handleS o.sa.toNat = none →
      let y := s.tileOf (s.leadS o.sa.toNat)
      let m := s.mine y s.u.iss.team
      (m = none →
        (RunsTo (.trel o) s fun t => t = s.issued.setSAll o.sd.toNat (tileStatus 10 (child := y.child))) ∧
        RunsTo (.tdown o) s fun t => t = s.issued.setSAll o.sd.toNat (tileStatus 10 (s.tileState y) (child := y.child))) ∧
      (∀ h, m = some h →
        (RunsTo (.trel o) s fun t => t = (s.issued.release h s.actLanes).setSAll o.sd.toNat
          (tileStatus 0 (brch := h.brch) (lines := h.lines.length) (child := y.child))) ∧
        (h.write = false → RunsTo (.tdown o) s fun t =>
          t = s.issued.setSAll o.sd.toNat (tileStatus 11 (s.tileState y) (child := y.child))) ∧
        (h.write = true → RunsTo (.tdown o) s fun t => t = (({ s.issued with e.tens := s.e.tens.map fun z =>
            if z = h then { z with write := false, brch := false, lines := [] } else z } : State).startDrain h.team h.foot
              true s.actLanes).setSAll o.sd.toNat
          (tileStatus 0 1 (brch := h.brch) (lines := h.lines.length) (child := y.child)))) ∧
      RunsTo (.tstat o) s fun t => t = s.issued.setSAll o.sd.toNat
        (tileStatus 0 (s.tileState y) (brch := (m.map (·.brch)).getD false) (lines := (m.map (·.lines.length)).getD 0)
          (wait := s.waitingOn y) (mine := m.isSome) (child := y.child))) ∧
    (∀ q, s.e.reqs[s.u.ev.id]? = some q → (∀ n, q.holder ≠ .copy n) → q.brch = false →
      s.grantable q (s.e.reqs.take s.u.ev.id) = true →
      exec .tenureGrant s = .next { s with e.reqs := s.e.reqs.eraseIdx s.u.ev.id, e.tens := s.e.tens ++ [q] }) ∧
    ∀ q tm, s.e.reqs[s.u.ev.id]? = some q → q.holder = .team tm → (s.team q.team).barWatch.toNat ≠ 0 →
      q.since + (s.team q.team).barWatch.toNat < s.u.clk →
      exec .tenureTimeout s = .next { s with e.reqs := s.e.reqs.modify s.u.ev.id fun z => { z with brch := true } }

/-- The fetch unit (R243, R290 to R294): a bad handle, then a bad format, of the lowest executing lane's operands faults the
unit; otherwise one run per executing lane is in flight with vd to vd+3 empty, and no register's contents and no byte of
memory changes; FINV drops only lines of the core's fetch-unit cache, and without an executing lane nothing (log entry
49). The elements of a run: of dense data the tile's element at its coordinates, zero outside the extents; of DX data the
element's value under its exponent entry, rounded, with the canonical NaN where the plane tile has no entry; of a gather the row
that the index names, zero outside the list and the extent; and of structured-sparse data the kept value at its position,
zero at a pruned one and under a malformed word, the pattern numbers counting the sets of kept positions. -/
def Obligations.FetchUnit : Prop :=
  (∀ (s : State) (o : OpA) (i : Instr) (minor : Nat),
    (i, minor) ∈ [(Instr.fetch o, 0), (.fetchx o, 1), (.fetchs o, 2)] →
    (s.elanes = [] → RunsTo i s fun t => t.e.fetches = s.e.fetches ∧ t.k.acc = s.k.acc ∧ t.m = s.m ∧ t.r.sr = s.r.sr) ∧
    (s.elanes ≠ [] →
      let d := (s.tileOf (s.lowV o.vb.toNat)).layout
      let uses := fetchAux minor d
      let rs := if uses = true then [o.vb.toNat, s.vc o.vd.toNat] else [o.vb.toNat]
      let x := if uses = true then (s.tileOf (s.lowV (s.vc o.vd.toNat))).layout else {}
      (∀ f, s.handlesV rs = some f → Runs i s → exec i s = .next (s.fault f)) ∧
      (s.handlesV rs = none → s.fetchFormat minor d x = true → Runs i s → exec i s = .next (s.fault { code := FORMAT })) ∧
      (s.handlesV rs = none → s.fetchFormat minor d x = false → RunsTo i s fun t =>
        t.e.fetches = s.e.fetches ++ s.elanes.mapIdx (fun j l => s.fetchOf minor o.va.toNat d x (s.u.uid + j) l) ∧
        (∃ as, t.k.acc = s.k.acc ++ as ∧ as.map (fun a => (a.id, a.lane, a.kind, a.dst, a.dstN)) =
          s.elanes.mapIdx fun j l => (s.u.uid + j, s.lane l, .fetch, o.vd.toNat, 4)) ∧
        (∀ l ∈ s.elanes, ∀ n, o.vd.toNat ≤ n → n < o.vd.toNat + 4 →
          t.isEmpty (s.lane l) n = true ∧ t.getV (s.lane l) n = s.getV (s.lane l) n) ∧
        (s.zi = true → ∀ l ∈ s.act, s.maskOk l = false → t.getVs (s.lane l) o.vd.toNat 4 = 0) ∧
        (∀ y n, (∀ l ∈ s.wlanes, y = s.lane l → n < o.vd.toNat ∨ o.vd.toNat + 4 ≤ n) →
          t.getV y n = s.getV y n ∧ t.isEmpty y n = s.isEmpty y n) ∧
        t.m = s.m ∧ t.r.sr = s.r.sr ∧ t.r.mr = s.r.mr ∧ t.r.sl = s.r.sl ∧ t.x = s.issued.x))) ∧
  (∀ (s : State) (o : OpFinv),
    (s.elanes = [] → RunsTo (.finv o) s fun t => t = s.issued) ∧
    (∀ f, s.elanes ≠ [] → s.handlesV [o.vb.toNat] = some f → Runs (.finv o) s →
      exec (.finv o) s = .next (s.fault f)) ∧
    (s.elanes ≠ [] → s.handlesV [o.vb.toNat] = none → RunsTo (.finv o) s fun t =>
      { t with k.fc := s.k.fc } = s.issued ∧ (∀ y ∈ t.k.fc, y ∈ s.k.fc) ∧
      (∀ y ∈ s.k.fc, y.core ≠ s.coreOf s.gid → y ∈ t.k.fc) ∧
      ∀ y ∈ s.k.fc, y.core = s.coreOf s.gid →
        let x := s.tileOf (s.lowV o.vb.toNat)
        (y ∉ t.k.fc ↔ (x.layout.base < y.va + 128 ∧ y.va < x.layout.top) ∨
          ∃ lf ∈ x.foot.pages, lf.frame ≤ y.pa ∧ y.pa < lf.frame + lf.size ∧
            x.layout.base < lf.va + (y.pa - lf.frame) + 128 ∧ lf.va + (y.pa - lf.frame) < x.layout.top))) ∧
  (∀ (f : FetchOp) (g : Nat → Nat) (free : Word) (j : Nat),
    let x1 := f.x.getD 1 0
    let x2 := f.x.getD 2 0
    let x3 := f.x.getD 3 0
    let c : Coord := (f.x.getD 0 0 + j, x1, x2, x3)
    (j < f.shape.1 → elem (f.run g free) j f.shape.2 = f.element g free j % 2 ^ f.shape.2) ∧
    (f.minor = 0 → fmtDx f.data.fmt = false → f.shape = (128 / max 1 f.data.eb, f.data.eb) ∧
      f.element g free j = if f.data.inside c = true then f.data.elemIn g c else 0) ∧
    (f.minor = 0 → fmtDx f.data.fmt = true → f.shape = (if f.pack = 0 then (4, 32) else (8, 16)) ∧
      (f.data.inside c = false → f.element g free j = 0) ∧
      (f.data.inside c = true →
        let t := if f.pack = 0 then fp32 else if f.alt = true then bf16 else fp16
        let plane : Coord := (c.1 / 32, x1, x2, x3)
        let e := f.aux.elemIn g plane
        f.element g free j = roundTo t { mode := modeOf f.mode 0, sat := f.sat, sat8 := f.sat8 }
          (if f.aux.inside plane = true then
            dxValue (f.data.fmt - 0x0E) (e % 256) (e / 256 % 256) (f.data.elemIn g c) else .nan))) ∧
    (f.minor = 1 →
      let p := f.x.getD 4 0
      let v := f.aux.elemIn g (p, 0, 0, 0)
      let row : Coord := (c.1, v, x2, 0)
      (f.aux.e 0 ≤ p ∨ f.aux.fmt = 0x07 ∧ 2 ^ 31 ≤ v ∨ f.data.e 1 ≤ v → f.element g free j = 0) ∧
      (p < f.aux.e 0 → (f.aux.fmt = 0x07 → v < 2 ^ 31) → v < f.data.e 1 →
        f.element g free j = if f.data.inside row = true then f.data.elemIn g row else 0)) ∧
    (f.minor = 2 →
      let n := if f.alt = true then 4 else 8
      let per := if f.alt = true then 10 else 4
      let bits := if f.alt = true then 3 else 7
      let q := c.1 / n
      let m : Coord := (q / per, x1, x2, x3)
      let w := f.aux.elemIn g m
      let ps := patternOf (n / 2) (w / 2 ^ (bits * (q % per)) % 2 ^ bits)
      let at_ := fun (k : Nat) => ((q * (n / 2) + k, x1, x2, x3) : Coord)
      (f.data.inside (at_ 0) = false → f.element g free j = 0) ∧
      (f.data.inside (at_ 0) = true → f.aux.inside m = true →
        (metaBad f.alt w = true → f.element g free j = 0) ∧
        (metaBad f.alt w = false →
          (c.1 % n ∉ ps → f.element g free j = 0) ∧
          ∀ k, ps.findIdx? (fun p => decide (p = c.1 % n)) = some k →
            f.element g free j = if f.data.inside (at_ k) = true then f.data.elemIn g (at_ k) else 0)))) ∧
  (∀ n, n ≤ 69 → ∃ a b c d, patternOf 4 n = [a, b, c, d] ∧ a < b ∧ b < c ∧ c < d ∧ d < 8 ∧
    n = a + b.choose 2 + c.choose 3 + d.choose 4) ∧
  ∀ n, n ≤ 5 → ∃ a b, patternOf 2 n = [a, b] ∧ a < b ∧ b < 4 ∧ n = a + b.choose 2

/-- Task and queue instructions (R346, R348 to R354): an arena that is not there or a block that cannot be reached raises TASK;
SPAWN makes a free block a child and counts it, JOIN waits for the children and JOIN.POLL does not, TASKEND retires the team's
block once, one that it cannot reach being TASK with no block changed (log entry 7), LAUNCH appends a command to a queue (an
unwritable ring slot gives BADQ by the model's choice, log entry 25), and QSTAT reports one, with its VALUE beside BADQ too (log
entry 6). A release waits for the split's own accesses, and an operation on a line that a recall keeps from it waits and calls
for the line. -/
def Obligations.TaskInstructions : Prop :=
  ∀ (s : State) (o : OpX1) (d : OpSd) (x : OpX),
    let g := s.arena s.u.iss.team
    let w := s.taskHere
    let me := s.ownBlock
    let i := s.leadS o.sa.toNat
    (g.launch.taskBase = 0 → ∀ j ∈ [Instr.spawn o, .joinTask d, .joinPoll d, .taskend d], Runs j s →
      exec j s = .next (s.fault { code := TASK })) ∧
    (g.launch.taskN ≤ i → Runs (.spawn o) s → exec (.spawn o) s = .next (s.fault { code := TASK })) ∧
    (g.launch.taskBase ≠ 0 →
      (∀ k, s.blockFault g [me] false = some k → ∀ j ∈ [Instr.joinTask d, .joinPoll d], Runs j s →
        exec j s = .next (s.fault { code := TASK, addr := g.block k })) ∧
      (s.blockFault g [me] false = none →
        let b := s.issued.touchBlocks w g [(me, false)]
        (s.issued.blocksClear w g [(me, false)] = false → ∀ j ∈ [Instr.joinTask d, .joinPoll d], Runs j s →
          exec j s = .next (s.callBlocks w g [(me, false)]).waiting) ∧
        (s.issued.blocksClear w g [(me, false)] = true →
          (b.joinOf w g me = 0 → ∀ j ∈ [Instr.joinTask d, .joinPoll d],
            RunsTo j s fun t => t = b.setSAll d.sd.toNat (taskStatus 0 0)) ∧
          (b.joinOf w g me ≠ 0 →
            (Runs (.joinTask d) s → exec (.joinTask d) s = .next s.waiting) ∧
            RunsTo (.joinPoll d) s fun t => t = b.setSAll d.sd.toNat (taskStatus 1 (b.joinOf w g me))))) ∧
      (i < g.launch.taskN →
        (∀ k, s.blockFault g [i, me] true = some k → Runs (.spawn o) s →
          exec (.spawn o) s = .next (s.fault { code := TASK, addr := g.block k })) ∧
        (s.blockFault g [i, me] true = none →
          (s.owesRelease = true → Runs (.spawn o) s → exec (.spawn o) s = .next s.waiting) ∧
          (s.owesRelease = false → s.issued.blocksClear w g [(i, true), (me, true)] = false → Runs (.spawn o) s →
            exec (.spawn o) s = .next (s.callBlocks w g [(i, true), (me, true)]).waiting) ∧
          (s.owesRelease = false → s.issued.blocksClear w g [(i, true), (me, true)] = true →
            let b := s.issued.touchBlocks w g [(i, true), (me, true)]
            (i < g.launch.teams ∨ b.stateOf w g i ≠ 0 → RunsTo (.spawn o) s fun t =>
              t = b.setSAll o.sd.toNat (taskStatus 3 (b.joinOf w g me))) ∧
            (g.launch.teams ≤ i → b.stateOf w g i = 0 →
              (b.joinOf w g me = 65535 → RunsTo (.spawn o) s fun t =>
                t = b.setSAll o.sd.toNat (taskStatus 2 65535)) ∧
              (b.joinOf w g me ≠ 65535 →
                let u := (b.setBlockWord w g i 9 me).setLow w g me 7 (b.joinOf w g me + 1)
                let v := if u.pred w g i = 0 then u.pushTask w g i else u.setBlockState w g i 1
                RunsTo (.spawn o) s fun t => t = v.setSAll o.sd.toNat (taskStatus 0 (v.joinOf w g me))))))) ∧
      (let y := s.team s.u.iss.team
       (y.isTask = false → RunsTo (.taskend d) s fun t => t = s.issued.setSAll d.sd.toNat (taskStatus 5 0)) ∧
       (y.isTask = true → y.taskDone = true →
         RunsTo (.taskend d) s fun t => t = s.issued.setSAll d.sd.toNat (taskStatus 6 0)) ∧
       (y.isTask = true → y.taskDone = false →
         (∀ k, s.retireFault w g y.taskBlk = some k → Runs (.taskend d) s →
           exec (.taskend d) s = .next (s.fault { code := TASK, addr := g.block k })) ∧
         (s.retireFault w g y.taskBlk = none →
           let xs := s.retireBlocks w g y.taskBlk
           (s.owesRelease = true → Runs (.taskend d) s → exec (.taskend d) s = .next s.waiting) ∧
           (s.owesRelease = false → s.issued.blocksClear w g xs = false → Runs (.taskend d) s →
             exec (.taskend d) s = .next (s.callBlocks w g xs).waiting) ∧
           (s.owesRelease = false → s.issued.blocksClear w g xs = true → RunsTo (.taskend d) s fun t =>
             t = (((s.issued.touchBlocks w g xs).retireTask w g y.taskBlk 4).modTeam y.uid fun z =>
               { z with taskDone := true }).setSAll d.sd.toNat (taskStatus 0 0)))))) ∧
    (let q := s.leadS x.sb.toNat
     let r := s.queueRec q
     (s.owesRelease = true → Runs (.launchCmd x) s → exec (.launchCmd x) s = .next s.waiting) ∧
     let b := s.issued.readQueue q
     let core := s.coreOf s.gid
     let ag : Agent := { team := some s.u.iss.team, core := some core, asid := r.asid }
     (s.owesRelease = false →
       (32768 ≤ q → RunsTo (.launchCmd x) s fun t => t = s.issued.setSAll x.sd.toNat (taskStatus 4 0)) ∧
       (q < 32768 → r.en = false ∨ r.err = true ∨ r.asid ≠ s.asid → RunsTo (.launchCmd x) s fun t =>
         t = b.setSAll x.sd.toNat (taskStatus 4 0)) ∧
       (q < 32768 → r.en = true → r.err = false → r.asid = s.asid →
         (r.pend = 2 ^ r.logn → RunsTo (.launchCmd x) s fun t => t = b.setSAll x.sd.toNat (taskStatus 2 0)) ∧
         (∀ c, r.pend ≠ 2 ^ r.logn → s.dieSeek (q / 8192) r.asid (r.slot r.tail) true = .inr c →
           RunsTo (.launchCmd x) s fun t => t = b.setSAll x.sd.toNat (taskStatus 4 0)) ∧
         (∀ lf, r.pend ≠ 2 ^ r.logn → s.dieSeek (q / 8192) r.asid (r.slot r.tail) true = .inl lf →
           let u := b.coreWrite ag (core / 192) (s.chainOf (s.lane 0)) lf (r.slot r.tail)
             (1 + 2 ^ 64 * s.leadAddr x.sa.toNat) 64
           (s.issued.recallClear ag lf (r.slot r.tail) true = false → Runs (.launchCmd x) s →
             exec (.launchCmd x) s = .next (s.callLine ag lf (r.slot r.tail) true).waiting) ∧
           (s.issued.recallClear ag lf (r.slot r.tail) true = true → RunsTo (.launchCmd x) s fun t =>
             t = ((u.physStore (u.queuePa q + 16) (r.tail + 1) 4).ring q).setSAll x.sd.toNat (taskStatus 0 0)))))) ∧
    (let q := s.leadS o.sa.toNat
     let r := s.queueRec q
     (q < 32768 → RunsTo (.qstat o) s fun t => t = (s.issued.readQueue q).setSAll o.sd.toNat
       (taskStatus (if r.asid = s.asid ∧ r.err = false then 0 else 4) r.pend)) ∧
     (q = 0xFFFFFFFF → RunsTo (.qstat o) s fun t => t = s.issued.setSAll o.sd.toNat
       (taskStatus 0 (s.d.taskQ.filter fun k =>
         decide (k.die = s.coreOf s.gid / 192 ∧ (s.grid k.grid).launch.asid = s.asid)).length)) ∧
     (32768 ≤ q → q ≠ 0xFFFFFFFF → RunsTo (.qstat o) s fun t => t = s.issued.setSAll o.sd.toNat (taskStatus 4 0)))

/-- PEERID, MIGRATE, RSHARD and RSPOLL (R425 to R427, R442, R443, R448): PEERID reports the module, or a peer, and changes only
Sd; MIGRATE queues the migration of a page of mode MOC that is not already on its way, or answers why not; RSHARD hands its
command to the engine and waits for the answer; RSPOLL reads a progress record, address by address, and answers STEP and
STATUS, or 2 where an address does not translate; a read that a recall keeps waiting waits and calls for the line, and one that
meets poison is POISON (log entry 82). -/
def Obligations.FabricInstructions : Prop :=
  ∀ (s : State) (d : OpSd) (o : OpX1) (x : OpX),
    (RunsTo (.peerid d) s fun t => t = s.issued.setSAll d.sd.toNat
      (BitVec.ofNat 32 (s.f.dev % 2 ^ 9 + s.f.podSize % 2 ^ 10 * 2 ^ 9 + ((List.range 64).filter s.portUp).length * 2 ^ 19))) ∧
    (RunsTo (.peeridQ o) s fun t => t = s.issued.setSAll o.sd.toNat
      (let n := s.leadS o.sa.toNat
       if 511 < n then 0 else if n = s.f.dev then BitVec.ofNat 32 (2 ^ 31 + n)
       else BitVec.ofNat 32 ((if s.reachable n = true then 2 ^ 31 else 0) + (s.planesTo n).length * 2 ^ 16 + n))) ∧
    (let va := s.leadAddr o.sa.toNat
     let core := s.coreOf s.gid
     let u := if va < 2 ^ 56 then s.issued.missWalks core s.asid [va] else s.issued
     let put := fun code => RunsTo (.migrate o) s fun t => t = u.setSAll o.sd.toNat (BitVec.ofNat 32 code)
     ((2 ^ 56 ≤ va ∨ s.issued.translate core s.asid va 0 = none) → put 3) ∧
     ∀ lf, va < 2 ^ 56 → s.issued.translate core s.asid va 0 = some lf →
       (s.modeOf lf ≠ 3 → put 1) ∧
       (s.modeOf lf = 3 → s.migQueued s.asid lf.va = true → put 2) ∧
       (s.modeOf lf = 3 → s.migQueued s.asid lf.va = false →
         (64 ≤ (s.f.migQ.filter fun m => decide (m.die = core / 192)).length → put 4) ∧
         ((s.f.migQ.filter fun m => decide (m.die = core / 192)).length < 64 → RunsTo (.migrate o) s fun t =>
           t = ({ u with f.migQ := s.f.migQ ++ [{ die := core / 192, asid := s.asid, va := lf.va }] } : State).setSAll
             o.sd.toNat 0))) ∧
    (RunsTo (.rshard x) s fun t =>
      (∃ r : Rsh, t.e.rsh = s.e.rsh ++ [r] ∧ r.id = s.u.uid ∧ r.sid = s.u.iss.sid ∧ r.team = s.u.iss.team ∧
        r.group = s.u.iss.group ∧ r.core = s.coreOf s.gid ∧ r.sd = x.sd.toNat ∧ r.srcVa = s.leadAddr x.sa.toNat ∧
        r.dstVa = s.leadAddr x.sb.toNat ∧ r.vs = s.copyVs ∧ r.phase = .asked ∧ r.seq = s.u.seqNo ∧
        r.slanes = if s.copyVs.isSome = true then s.elanes else []) ∧
      t.x = (s.issued.modSplit s.u.iss.sid fun p => { p with park := .rshard s.u.uid }).x ∧
      (∀ y n, t.getV y n = s.getV y n) ∧
      (∀ v, s.copyVs = some v → ∀ l ∈ s.elanes, t.isEmpty (s.lane l) v = true) ∧
      t.r.sr = s.r.sr ∧ t.r.mr = s.r.mr ∧ t.m = s.m ∧ t.e.tens = s.e.tens) ∧
    (let va := s.leadAddr o.sa.toNat
     let core := s.coreOf s.gid
     let ag : Agent := { team := some s.u.iss.team, core := some core, asid := s.asid }
     let ok := fun a lf => a < 2 ^ 56 ∧ s.issued.seek core s.asid a 0 false = .inl lf
     ((∀ lf, ¬ ok va lf) ∨ (∀ lf, ¬ ok (va + 16) lf) → RunsTo (.rspoll o) s fun t =>
       t = (s.issued.setSAll o.sd.toNat 0).setSAll (o.sd.toNat + 1) 2) ∧
     ∀ lf lg, ok va lf → ok (va + 16) lg →
       (∀ r, s.rshOwner (s.locOf lf (lf.pa va)) = some r → RunsTo (.rspoll o) s fun t =>
         t = (s.issued.setSAll o.sd.toNat (BitVec.ofNat 32 r.step)).setSAll (o.sd.toNat + 1) (s.rshStatus r true)) ∧
       (s.rshOwner (s.locOf lf (lf.pa va)) = none →
         let clear := s.issued.recallClear ag lf va false = true ∧ s.issued.recallClear ag lg (va + 16) false = true
         let u := (s.issued.engineTouch ag core (s.chainOf (s.lane 0)) lf va false).engineTouch ag core
           (s.chainOf (s.lane 0)) lg (va + 16) false
         (¬ clear → Runs (.rspoll o) s →
           exec (.rspoll o) s = .next ((s.callLine ag lf va false).callLine ag lg (va + 16) false).waiting) ∧
         (clear → s.issued.badRead lf va 4 = true → Runs (.rspoll o) s → exec (.rspoll o) s = .next
           ((s.poisonEvent (some lf) (lf.pa va) (core / 192)).fault { code := POISON, addr := va })) ∧
         (clear → s.issued.badRead lf va 4 = false → s.issued.badRead lg (va + 16) 4 = true → Runs (.rspoll o) s →
           exec (.rspoll o) s = .next
             ((s.poisonEvent (some lg) (lg.pa (va + 16)) (core / 192)).fault { code := POISON, addr := va + 16 })) ∧
         (clear → s.issued.badRead lf va 4 = false → s.issued.badRead lg (va + 16) 4 = false → RunsTo (.rspoll o) s fun t =>
           t = (u.setSAll o.sd.toNat (BitVec.ofNat 32 (u.load (u.locOf lf (lf.pa va)) 4))).setSAll
             (o.sd.toNat + 1) (BitVec.ofNat 32 (u.load (u.locOf lg (lg.pa (va + 16))) 4)))))

/-- Stores performed (R158, R160, R162, R259): an acknowledged store at its home, or one to a window, completes: the bytes it
covers hold its data, every other byte of memory reads as before, and its counter has been lowered; no V, S or M register
changes. A store to a deferred page puts its records into the log and writes no byte. -/
def Obligations.StoresPerform : Prop :=
  ∀ (s : State) (a : Access) (nt : Bool), s.MemWf → s.acc? s.u.ev.id = some a → a.kind = .store nt →
    ((a.leaf = none ∧ a.phase = .issued ∧ s.mayPerform a = true) ∨
      (∃ lf, a.leaf = some lf ∧ a.phase = .atHome ∧ s.acked a = true ∧ s.retiredAt lf a.pa = false) →
      ∃ t, exec .storePerformed s = .next t ∧
        (∀ i, i < a.size → t.load (a.loc + i) 1 = a.data / 256 ^ i % 256) ∧
        (∀ b, b < a.loc ∨ a.loc + a.size ≤ b → t.load b 1 = s.load b 1) ∧
        (∀ x ∈ t.k.acc, x.id ≠ a.id) ∧
        (∀ c n, t.getC c n = if a.cnt = some n ∧ c = a.lane.slice then s.getC c n - 1 else s.getC c n) ∧
        t.r.v = s.r.v ∧ t.r.ve = s.r.ve ∧ t.r.sr = s.r.sr ∧ t.r.mr = s.r.mr ∧ t.x = s.x ∧ t.MemWf) ∧
    ∀ lf, a.leaf = some lf → a.append = true → a.phase = .issued → s.mayAppend a = true →
      ∃ t, exec .storePerformed s = .next t ∧ t.e.log = s.e.log ++ s.recsOf a lf ∧ t.m = s.m ∧ t.r.v = s.r.v

/-- Replies land (R159 to R161, R166, R168, R177, R194, R290, R428). A performed access, a load, an LDC, an atomic with the old
value of its word or a run of the fetch unit, fills exactly its registers with its value, whatever else the registers hold being
kept; an MSCALE lane brings SA of its row and lane 0 SB, and no V register; one that was poisoned or failed fills its registers
with their old contents and gives its split a late fault. A load of a window reads memory and lands at once; a run of the fetch
unit is read once it may be, its value being the run in the memory that it sees. A load that went ahead of others lands once it
may be performed (log entry 60). -/
def Obligations.RepliesLand : Prop :=
  ∀ (s : State) (a : Access), s.acc? s.u.ev.id = some a → a.isLoad = true →
    (a.phase = .performed → a.spec = false ∨ s.mayPerform a = true →
      exec .replyLand s = .next ((s.acquireCopies a).land a) ∧
      (a.failed = 0 → a.poisoned = false → a.kind ≠ .mscale → a.kind ≠ .monitor → ∃ t, exec .replyLand s = .next t ∧
        (∀ n, n < a.dstN → (t.getV a.lane (a.dst + n)).toNat = (match a.kind with
            | .load true => wrap 32 (sext (8 * a.size) a.value)
            | _ => a.value) / 2 ^ (32 * n) % 2 ^ 32) ∧
        (∀ n, a.dst ≤ n → n < a.dst + a.dstN → t.isEmpty a.lane n = false) ∧
        (∀ x n, x ≠ a.lane ∨ n < a.dst ∨ a.dst + a.dstN ≤ n → t.getV x n = s.getV x n ∧ t.isEmpty x n = s.isEmpty x n) ∧
        (∀ b ∈ t.k.acc, b.id ≠ a.id) ∧ t.m.mem = s.m.mem ∧ t.x = s.x ∧ t.r.sr = s.r.sr ∧ t.r.mr = s.r.mr) ∧
      (a.failed = 0 → a.poisoned = false → a.kind = .mscale → ∃ t, exec .replyLand s = .next t ∧
        (let g := s.grp a.lane.group
         let h := t.grp a.lane.group
         h.mscBusy = g.mscBusy - 1 ∧ h.sa.getD a.lane.l 0 = BitVec.ofNat 32 a.value ∧
         (∀ i, i ≠ a.lane.l → h.sa.getD i 0 = g.sa.getD i 0) ∧
         h.sb = (if a.lane.l = 0 then BitVec.ofNat 32 (a.value / 2 ^ 32) else g.sb) ∧
         { h with mscBusy := g.mscBusy, sa := g.sa, sb := g.sb } = g) ∧
        (∀ q, q ≠ a.lane.group → t.grp q = s.grp q) ∧ t.r.v = s.r.v ∧ t.r.ve = s.r.ve ∧ t.m.mem = s.m.mem ∧ t.x = s.x) ∧
      (a.failed ≠ 0 ∨ a.poisoned = true → ∀ p, s.lateSplit a.sid a.lane = some p →
        ∃ t, exec .replyLand s = .next t ∧ t.r.v = s.r.v ∧
        (∀ n, a.dst ≤ n → n < a.dst + a.dstN → t.isEmpty a.lane n = false) ∧
        t.x.splits = s.x.splits.map (fun q => if q.sid = p.sid then
          { q with late := q.late ++ [{ (if a.failed ≠ 0 then
                { code := FABRIC, addr := a.gaddr, info := a.dev % 512 + (a.failed - 1) * 512, unitPc := a.unitPc }
              else { code := POISON, addr := a.gaddr, info := a.kind.info, unitPc := a.unitPc } : FaultInfo) with
                lanes := some [a.lane.l], late := true }] } else q))) ∧
    (∀ sx, a.kind = .load sx → a.leaf = none → a.phase = .issued → a.failed = 0 → s.mayPerform a = true →
      s.poisoned a.loc a.size = false → ∃ t, exec .replyLand s = .next t ∧
      t.getVs a.lane a.dst a.dstN = ({ a with value := s.load a.loc a.size } : Access).loaded % 2 ^ (32 * a.dstN) ∧
      (∀ n, a.dst ≤ n → n < a.dst + a.dstN → t.isEmpty a.lane n = false) ∧ t.m.mem = s.m.mem) ∧
    ∀ f, a.leaf = none → a.kind = .fetch → a.phase = .issued → s.e.fetches.find? (fun x => decide (x.acc = a.id)) = some f →
      (s.mayFetch a f = false → s.mayPerform a = false → exec .homeAccess s = .next s) ∧
      (s.mayFetch a f = true → s.runFault (s.accCore a) (s.launch a.lane.t).asid f a.id = none →
        let t := (s.runLines a f).foldl (fun (u : State) x => (u.engineTouch (s.accAgent a) (s.accCore a) (s.chainOf a.lane)
          x.1 x.2 false).fillFc (s.accCore a) x.1 x.2) s
        ∃ u b, exec .homeAccess s = .next u ∧ u.acc? a.id = some b ∧ b.phase = .performed ∧
          b.value = f.run (t.viewByte (s.accCore a) (s.launch a.lane.t).asid a.id) (Config.freeWord a.id) ∧
          b.dst = a.dst ∧ b.dstN = a.dstN ∧ b.lane = a.lane ∧ (∀ x ∈ u.e.fetches, x.acc ≠ a.id) ∧ u.r.v = s.r.v)

/-- Accesses at their homes (R166, R259, R261, R287, R375, R415, R416, R420, R421, R428): an access that may be performed, with no
request of its path in front of it, reaches its home, an LDC with every lane that shares its line, and a load may go ahead of
others there (log entry 60). A cache operation is served; an unreachable peer fails the access, unless a copy on the module
serves it; the access meets its breaches, and a write tenure of another holder holds it or answers with a retry, otherwise it is
served. A load takes the bytes of its home, and an LDC leaves its line in the constant cache and serves the lanes that share it.
The recall's release serves an access once the writes to its line of those that held it are performed, and a retry is sent again
when its 256 clk are over; a home's acknowledgement completes a remote store; a remote request that has waited 2^24 clk since it
was sent fails; an acknowledged atomic reads its word and writes its result in one step. -/
def Obligations.HomeAccesses : Prop :=
  ∀ (s : State) (a : Access) (lf : Leaf), s.acc? s.u.ev.id = some a → a.leaf = some lf →
    (a.phase = .issued → a.append = false →
      (s.mayReach a (decide (s.u.ev.n ≠ 0)) = false → exec .homeAccess s = .next s) ∧
      (s.mayReach a false = true → s.mayReach a (decide (s.u.ev.n ≠ 0)) = true →
        exec .homeAccess s = .next (s.reachHome a lf)) ∧
      (s.mayReach a false = false → s.mayReach a (decide (s.u.ev.n ≠ 0)) = true → exec .homeAccess s = .next
        ((s.modAcc a.id fun b => { b with spec := true }).reachHome { a with spec := true } lf)) ∧
      (∀ op, a.kind = .cache op → s.mayReach a false = (s.mates a).all fun b => s.mayPerform b) ∧
      (a.kind = .ldc → s.mayReach a false = (((s.mates a).all fun b => s.mayPerform b) && !s.pathAhead a && !s.hits a lf)) ∧
      ((∀ op, a.kind ≠ .cache op) → a.kind ≠ .ldc → s.mayReach a false = (s.mayPerform a && !s.pathAhead a)) ∧
      (a.dev = s.f.dev → s.pathAhead a = false) ∧
      (∀ n, a.dev ≠ s.f.dev → s.pathPort (s.accCore a) a.dev = some n → s.f.replays.look n 0 ≠ 0 → s.pathAhead a = true) ∧
      ∀ b c, b ∈ s.k.acc → b.phase = .issued → b.dev = a.dev → a.dev ≠ s.f.dev → s.accCore b = s.accCore a →
        b.kind.traffic.tier = a.kind.traffic.tier → b.before a = true → b.append = false → s.mayPerform b = true →
        b.leaf = some c → s.hits b c = false → s.pathAhead a = true) ∧
    (∀ op, a.kind = .cache op → s.reachHome a lf = s.serveCache a lf op) ∧
    ((∀ op, a.kind ≠ .cache op) →
      (s.reachable (s.devOf lf) = false → s.guestServes a lf = false →
        s.reachHome a lf = s.modMates a fun b => { b with phase := .performed, failed := 1 }) ∧
      (s.reachable (s.devOf lf) = true ∨ s.guestServes a lf = true →
        let hs := if s.modeOf lf = 0 then s.recallers (s.accAgent a) a.pa a.writes else []
        let t := if s.modeOf lf = 0 then s.breach (s.accAgent a) a.pa a.writes else s
        (hs = [] → s.reachHome a lf = (t.serve a lf).modMates a fun b => { b with sent := b.sent <|> some s.u.clk }) ∧
        (hs ≠ [] → s.holding (homeDie lf.il a.pa) (homeSlice a.pa) < 64 → s.reachHome a lf = t.modMates a fun b =>
          { b with phase := .recalled, time := s.u.seqNo, holders := hs.map (·.holder) }) ∧
        (hs ≠ [] → 64 ≤ s.holding (homeDie lf.il a.pa) (homeSlice a.pa) →
          s.reachHome a lf = t.modMates a fun b => { b with phase := .retry (s.u.clk + 256) }))) ∧
    ((∃ sx, a.kind = .load sx) ∨ a.kind = .ldc →
      s.serve a lf = (s.serveCommon a lf).performLoad a false ∧
      (∀ hit, let u := if a.purges = true then s.dropAway else s
        ∃ b, (s.fixLoad a hit).acc? a.id = some b ∧ b.phase = .performed ∧ b.value = (u.readFor a hit).1 ∧
          b.poisoned = u.poisonFor a) ∧
      (lf.df = true ∨ inHost a.pa = true ∨ s.modeOf lf = 1 ∨ s.modeOf lf = 3 →
        s.readFor a false = (s.load a.loc a.size, s)) ∧
      (lf.df = false → inHost a.pa = false → s.modeOf lf = 0 → (s.readFor a false).1 = s.homeLoad a) ∧
      (lf.df = false → inHost a.pa = false → s.modeOf lf = 0 ∨ s.modeOf lf = 2 → a.kind = .ldc →
        (s.readFor a false).2 = s.keepCopy (s.constOf a) (a.loc / 128)) ∧
      ∀ hit, ∀ b ∈ s.mates a, b.id ≠ a.id → ∃ c, (s.performLoad a hit).acc? b.id = some c ∧ c.phase = .performed) ∧
    (a.phase = .recalled → s.recallDone a = true → exec .recallRelease s = .next (s.serve a lf)) ∧
    (∀ u, a.phase = .retry u → u ≤ s.u.clk →
      exec .recallRetry s = .next (s.modMates a fun b => { b with phase := .issued })) ∧
    (a.phase = .remote → exec .remoteStoreAck s = .next ((s.acquireCopies a).finish a)) ∧
    (∀ c, a.sent = some c → a.dev ≠ s.f.dev → a.isHeld = false → a.failed = 0 → a.kind ≠ .fetch → c + 2 ^ 24 ≤ s.u.clk →
      exec .deliveryTimeout s = .next (s.modAcc a.id fun b => { b with phase := .performed, failed := 2 })) ∧
    (∀ op, a.phase = .atHome → s.acked a = true → a.kind = .atom op →
      exec .homeAccess s = .next (s.performAtom a op)) ∧
    ∀ op, s.MemWf → a.phase = .atHome → s.acked a = true → a.kind = .atom op → s.poisonFor a = false →
      let old := if s.modeOf lf = 0 ∧ inHost a.pa = false then s.homeLoad a else s.load a.loc a.size
      let v := atomResult op (8 * a.size) old a.data a.data2
      ∃ t, exec .homeAccess s = .next t ∧
        t.acc? a.id = some { a with phase := .performed, value := old, poisoned := false } ∧
        (∀ i, i < a.size → t.load (a.loc + i) 1 = v / 256 ^ i % 256) ∧
        (∀ b, b < a.loc ∨ a.loc + a.size ≤ b → t.load b 1 = s.load b 1) ∧
        t.r.v = s.r.v ∧ t.r.sr = s.r.sr ∧ t.r.mr = s.r.mr ∧ t.x = s.x

/-- Invalidations, directory regions and requests of peers (R259 to R262, R287, R419, R420): an L1 that is invalidated drops
exactly the lines of the region it names and acknowledges; a guest slice acknowledges once its own sharers have, and its copy is
gone; two quiet buddy regions become their parent with the sharers of both; a peer's request is served at home with no
translation, its read answering with the bytes; one that write tenures recall waits in the slice's holding space, or is answered
with a retry where that is full, and is served once every holder's writes to the line are performed; a peer's request to another
module writes that module's memory (log entry 38). -/
def Obligations.CoherenceEvents : Prop :=
  ∀ s : State,
    (∀ i c, s.k.invs.find? (fun x => decide (x.id = s.u.ev.id)) = some i → i.core = some c → ∃ t,
      exec .invalidation s = .next t ∧ t.k.invs = s.k.invs.filter (fun x => decide (x.id ≠ i.id)) ∧
      (∀ x, x ∈ t.k.l1 ↔ x ∈ s.k.l1 ∧
        ¬ (x.core = c ∧ homeSlice x.pa = i.slice ∧ i.base ≤ x.pa ∧ x.pa < i.base + 2 ^ i.log)) ∧
      t.m.mem = s.m.mem ∧ t.r.v = s.r.v ∧ t.x = s.x) ∧
    (∀ i, s.k.invs.find? (fun x => decide (x.id = s.u.ev.id)) = some i → i.core = none →
      (∀ x ∈ s.k.invs, x.access = i.access → x.die = i.die → x.core = none) →
      exec .invalidation s = .next
        (({ s with k.invs := s.k.invs.filter fun x => decide (x.id ≠ i.id) } : State).dropGuests i.base
          fun d => decide (d = i.die))) ∧
    (∀ die slice base lg a b, s.u.ev.list = [die, slice, base, lg] →
      let par := base / 2 ^ (lg + 1) * 2 ^ (lg + 1)
      let quiet := (s.dieReg die 0xC1).toNat
      s.k.regions.find? (fun r => decide (r.die = die ∧ r.slice = slice ∧ r.base = par ∧ r.log = lg)) = some a →
      s.k.regions.find? (fun r => decide (r.die = die ∧ r.slice = slice ∧ r.base = par + 2 ^ lg ∧ r.log = lg)) = some b →
      quiet ≠ 0 → lg < 16 → a.conflictAt + quiet ≤ s.u.clk → b.conflictAt + quiet ≤ s.u.clk →
      ∃ t, exec .regionMerge s = .next t ∧ { t with k.regions := s.k.regions } = s ∧ a ∉ t.k.regions ∧ b ∉ t.k.regions ∧
        ∃ r ∈ t.k.regions, r.die = a.die ∧ r.slice = a.slice ∧ r.base = par ∧ r.log = lg + 1 ∧
          ∀ c, c ∈ r.sharers ↔ c ∈ a.sharers ∨ c ∈ b.sharers) ∧
    (let e := s.u.ev
     let r := e.request
     let hs := s.recallers r.agent e.id r.write
     let loc := s.locHere r.il e.id
     let dest := locPa s.servedAt 0 r.il e.id
     (s.servedAt ≠ s.f.dev → e.size ≠ 0 → e.id % 128 + e.size ≤ 128 → e.id < hostWindow → s.MemWf →
       exec .remoteAccess s = .next (s.peerWrite s.servedAt r e.id e.size e.value) ∧
       (∀ b, b < dest ∨ dest + e.size ≤ b →
         (s.peerWrite s.servedAt r e.id e.size e.value).load b 1 = s.load b 1) ∧
       (r.kind = 1 → ∀ i, i < e.size →
         (s.peerWrite s.servedAt r e.id e.size e.value).load (dest + i) 1 = e.value / 256 ^ i % 256)) ∧
     (s.servedAt = s.f.dev → e.size ≠ 0 → e.id % 128 + e.size ≤ 128 → e.id < 2 ^ 40 →
       (∀ h, h ∈ hs ↔ h ∈ s.tenuresOn e.id ∧ h.write = true ∧ h.heldBy r.agent = false ∧
         (r.agent.engine = none ∨ r.write = true)) ∧
       (hs = [] → exec .remoteAccess s = .next { (s.serveRemote r e.id e.size e.value).2 with
         f.resp := (s.serveRemote r e.id e.size e.value).1, f.retried := false }) ∧
       (r.kind = 0 → s.poisoned loc e.size = false → s.retiredAt r.leaf e.id = false →
         s.keyAt (loc / 128) = s.keyId (loc / 128) r.key →
         (s.serveRemote r e.id e.size e.value).1 = some (s.load loc e.size)) ∧
       (hs ≠ [] → s.holding (homeDie r.il e.id) (homeSlice e.id) < 64 → ∃ t, exec .remoteAccess s = .next t ∧
         { id := s.u.uid, req := r, pa := e.id, size := e.size, value := e.value, holders := hs.map (·.holder),
           time := s.u.seqNo } ∈ t.f.peerHeld ∧ t.f.retried = false ∧ t.f.resp = s.f.resp ∧ t.m = s.m ∧ t.k = s.k ∧
         t.r = s.r ∧ t.x = s.x) ∧
       (hs ≠ [] → 64 ≤ s.holding (homeDie r.il e.id) (homeSlice e.id) → ∃ t, exec .remoteAccess s = .next t ∧
         t.f.retried = true ∧ t.f.peerHeld = s.f.peerHeld ∧ t.f.resp = s.f.resp ∧ t.m = s.m ∧ t.k = s.k ∧ t.r = s.r ∧
         t.x = s.x))) ∧
    ∀ q, s.acc? s.u.ev.id = none → s.f.peerHeld.find? (fun x => decide (x.id = s.u.ev.id)) = some q →
      s.peerDone q = true → exec .recallRelease s = .next
        (({ s with f.peerHeld := s.f.peerHeld.filter fun x => decide (x.id ≠ q.id) } : State).answerPeer q.req q.pa q.size
          q.value)

/-- Matrix results and consorts (R186, R192, R193, R195): an operation's results reach exactly its destination range in its lanes,
full; a joint operation of a resident team starts on the leader's engine once every member has deposited with an equal key;
deposits that have waited for SYS_BARWATCH are discarded: they leave the latch, each depositing group gets a late RENDEZVOUS
with its joint instruction's address, and nothing else changes. -/
def Obligations.MatrixEvents : Prop :=
  ∀ s : State,
    (∀ m, s.e.mats.find? (fun x => decide (x.id = s.u.ev.id ∧ x.at_ ≤ s.u.clk)) = some m → (m.results.map (·.1)).Nodup →
      ∃ t, exec .matrixDeliver s = .next t ∧ t.e.mats = s.e.mats.filter (fun x => decide (x.id ≠ m.id)) ∧
        (∀ l v, (l, v) ∈ m.results → t.getVs ⟨m.team, m.group, l⟩ m.vd m.n = v % 2 ^ (32 * m.n) ∧
          ∀ k, m.vd ≤ k → k < m.vd + m.n → t.isEmpty ⟨m.team, m.group, l⟩ k = false) ∧
        (∀ x k, (x.t ≠ m.team ∨ x.g ≠ m.group ∨ x.l ∉ m.results.map (·.1) ∨ k < m.vd ∨ m.vd + m.n ≤ k) →
          t.getV x k = s.getV x k ∧ t.isEmpty x k = s.isEmpty x k) ∧
        t.m = s.m ∧ t.r.sr = s.r.sr ∧ t.r.mr = s.r.mr ∧ t.x = s.x) ∧
    (∀ d, let c : BitVec 48 := BitVec.ofNat 48 s.u.ev.value
      let ds := s.e.latch.filter fun d => decide (d.team = s.u.ev.id) && sameConsort d.consort c
      let ms := consortMembers c
      let lead : GroupId := ⟨s.u.ev.id, consortLeader c⟩
      ds.find? (fun x => decide (x.group = lead.g)) = some d → ms ≠ [] → (∀ m ∈ ms, ∃ x ∈ ds, x.group = m) →
      (∀ x ∈ ds, x.key = d.key) → s.engineBusy (s.coreOf lead) = false → (s.team s.u.ev.id).status = .running →
      let ty := d.key.getD 1 0
      exec .jointStart s = .next (({ s with e.latch := s.e.latch.filter fun x =>
          !(decide (x.team = s.u.ev.id) && sameConsort x.consort c) } : State).runMma lead
        (ds.map fun x => ({ w := s.width x.team, ty := ty, dx := x.dx % 4, sparse := decide (d.key.getD 0 0 = 1),
                            p24 := decide (d.key.getD 4 0 = 1), a := x.a, b := x.b, md := x.meta_ } : Frag))
        d.vd d.vc ty { mode := modeOf (if d.dx / 4 = 6 then 0 else d.dx / 4) 0, sat := false }
        (decide (d.key.getD 3 0 = 1)) (occupancy (if ty = tyF32 then 8 else 2) (s.width lead.t) * ms.length))) ∧
    (let c : BitVec 48 := BitVec.ofNat 48 s.u.ev.value
     let ds := s.e.latch.filter fun d => decide (d.team = s.u.ev.id) && sameConsort d.consort c
     let w := (s.team s.u.ev.id).barWatch.toNat
     ds ≠ [] → w ≠ 0 → (s.team s.u.ev.id).status = .running → (∀ d ∈ ds, d.since + w ≤ s.u.clk) → w ≤ s.u.clk →
      exec .rendezvousTimeout s = .next (s.discardLatch s.u.ev.id c 4)) ∧
    ∀ (tm row : Nat) (c : BitVec 48),
      let mine := fun (d : Deposit) => decide (d.team = tm) && sameConsort d.consort c
      let t := s.discardLatch tm c row
      t.e.latch = s.e.latch.filter (fun d => !mine d) ∧
      ((∀ d ∈ s.e.latch, mine d = true → ∃ p ∈ s.x.splits, p.team = d.team ∧ p.group = d.group) →
        { t with e.latch := s.e.latch, x.splits := s.x.splits } = s) ∧
      t.x.splits.map (fun q => { q with late := [] }) = s.x.splits.map (fun q => { q with late := [] }) ∧
      ∀ d ∈ s.e.latch, mine d = true → ∀ p, s.x.splits.find? (fun x => decide (x.team = d.team ∧ x.group = d.group)) = some p →
        ∃ q ∈ t.x.splits, { q with late := p.late } = p ∧
          { code := RENDEZVOUS, info := row, unitPc := d.unitPc, late := true } ∈ q.late

/-- Waking and stopping (R29, R147, R173, R174, R205, R216, R217): an expired sleep makes its split ready, a triggered watch or
an expired timeout completes an MWAIT and disarms it, a split that has been ready for 255 clk without issuing becomes the
first in order, a split at its issue boundary takes its oldest late fault with the unit at which it stopped, a round that has
lasted too long fails with BARRIER_STALL in every split that waits in it (with DBGEN in the first of each group, the others
standing before their unit again), and a host write seeds the generators of a slice. -/
def Obligations.WakeEvents : Prop :=
  (∀ (s : State) (p : Split), s.split? s.u.ev.id = some p →
    (∀ u, p.park = .sleep u → u ≤ s.u.clk → ∃ t, exec .sleepExpiry s = .next t ∧
      t.split? p.sid = some { p with park := .run } ∧ { t with x.splits := s.x.splits } = s ∧
      ∀ q ∈ s.x.splits, q.sid ≠ p.sid → q ∈ t.x.splits) ∧
    (p.asleep = true → (∃ w ∈ s.watches p, w.triggered = true) → exec .mwaitWake s = .next
      ((s.disarm p).modSplit p.sid fun x => { x with park := .run })) ∧
    (∀ u, p.park = .mwait u → u ≤ s.u.clk → exec .mwaitTimeout s = .next
      ((s.disarm p).modSplit p.sid fun x => { x with park := .run })) ∧
    (p.wcount = 255 → p.park = .run → p.wait = false → p.able = true → (s.grp ⟨p.team, p.group⟩).halted = false → ∃ t, exec .splitStarved s = .next t ∧
      t.split? p.sid = some { p with wcount := 256 } ∧ { t with x.splits := s.x.splits } = s) ∧
    (∀ f fs, p.late = f :: fs → s.atBoundary p f = true → exec .lateFaultDelivery s = .next
      ((s.modSplit p.sid fun x => { x with late := fs, park := .run, wait := false }).takeFault p.sid
        { f with wordPc := some p.pc } p.pc)) ∧
    (∀ r, s.roundAt p = some r → (s.roundStalled r = true ∨ (s.u.ev.flag = true ∧ r.pod = true)) →
      exec .barrierStall s = .next
        ((s.waiters r).foldl (fun t q =>
            if (s.team q.team).dbgen = false ∨ firstHere (s.waiters r) q = true then
              t.takeFault q.sid { code := BARRIER_STALL, info := r.info, unitPc := q.parkPc } q.pc
            else t.unpark q)
          (s.clearRound r)))) ∧
  ∀ (s : State) (t g c : Nat), s.u.ev.list = [t, g, c] →
    exec .rngseedWrite s = .next (s.reseed ⟨t, g, c⟩ (BitVec.ofNat 32 s.u.ev.value))

/-- The way of a deferred record (R298, R299, R302 to R308, R316 to R318, R379, R380): the oldest record of a log goes to an open
bin, merged with one of its address and operator or as it is; a bin ships when it is full or at its age limit; the records of a
bin from another module are binned the same way; a clearing engine applies the records of shipped bins, one bin of a
pseudo-channel at a time, each changing exactly its word, by its operator, and a bin of a peer that cannot be reached, or whose
acknowledgement does not come, is discarded after the delivery limit; an APPEND puts its payload into its descriptor's ring, else
into the overflow region, and advances RHEAD or OCOUNT, or is refused, which counts in REFUSED (log entry 74) and is notified,
with BADQ for a malformed descriptor; a DST on a page without the deferred bit is performed at its home; an acknowledged bin is
gone, and a packet none of whose bins is left is acknowledged to its module; a refusal notice raises its lane's count, and is
discarded where the lane no longer lives or its grid was aborted. SETTLE completes (R311 to R313) once no covered record, direct operation or notice is left and, for .P,
the other participants have settled: each covered lane's register takes DONE with the lane's count and flags, which are
cleared, and the split is ready. -/
def Obligations.DeferredEvents : Prop :=
  (∀ s : State,
    (∀ r, s.e.log.find? (fun x => decide (x.src = s.u.ev.id)) = some r →
      exec .logDrain s = .next (({ s with e.log := s.e.log.erase r } : State).binRecord (r.src / 192) r)) ∧
    (∀ die r, let away := decide (r.dev ≠ s.f.dev)
      let key := if away = true then r.dev else channelOf r.il r.pa
      let isOpen := fun (b : Bin) => decide (b.die = die ∧ b.unit = key % 8 ∧ b.phase = .open_)
      let mine := fun (b : Bin) => isOpen b && decide (b.toDev = away ∧ b.key = key)
      (∀ b, s.e.bins.find? mine = some b → s.binRecord die r = (s.modBin b.id fun x => x.join r).shipFull die) ∧
      (s.e.bins.find? mine = none → (s.e.bins.filter isOpen).length < 1024 → s.binRecord die r =
        ({ s with e.bins := s.e.bins ++ [{ id := s.u.uid, die := die, unit := key % 8, toDev := away, key := key,
                                           from_ := s.f.dev, recs := [r], opened := s.u.clk }]
                  u.uid := s.u.uid + 1 } : State).shipFull die)) ∧
    (∀ (b : Bin) (r : Rec),
      (∀ x, b.recs.find? (fun y => y.merges r) = some x → b.join r = { b with recs := b.recs.erase x ++
        [{ r with owners := x.owners ++ r.owners, val := recWord r.op r.wid x.val r.val
                  pkts := (x.pkts ++ r.pkts).eraseDups }] }) ∧
      (b.recs.find? (fun y => y.merges r) = none → b.join r = { b with recs := b.recs ++ [r] })) ∧
    (∀ die, (s.shipFull die).e.bins = s.e.bins.map (fun b =>
        if b.phase = .open_ ∧ b.die = die ∧ (128 ≤ b.recs.length ∨ s.dieReg die 0xC2 = 0) then
          { b with phase := .shipped, sent := s.u.clk } else b) ∧
      { s.shipFull die with e.bins := s.e.bins } = s) ∧
    (∀ r, s.e.log.find? (fun x => decide (x.src = s.u.ev.id)) = some r → ∃ t, exec .logDrain s = .next t ∧
      t.e.log = s.e.log.erase r ∧ (∃ b ∈ t.e.bins, b.die = r.src / 192 ∧ ∃ x ∈ b.recs, ∀ o ∈ r.owners, o ∈ x.owners) ∧
      t.m = s.m ∧ t.r = s.r ∧ t.x = s.x ∧ t.k = s.k) ∧
    (∀ b ∈ s.e.bins, b.id = s.u.ev.id → b.phase = .open_ → b.opened + (s.dieReg b.die 0xC2).toNat ≤ s.u.clk →
      ∃ t, exec .binAgeExpiry s = .next t ∧ { b with phase := .shipped, sent := s.u.clk } ∈ t.e.bins ∧
        (∀ c ∈ s.e.bins, c.id ≠ s.u.ev.id → c ∈ t.e.bins) ∧ { t with e.bins := s.e.bins } = s) ∧
    exec .ingressBin s = .next ((ingressRecs s.f.dev (s.u.ev.value, s.u.ev.n) 128 s.u.ev.list).foldl
      (fun t r => t.binRecord (s.u.ev.id % 4) r) s) ∧
    (∀ b, s.e.bins.find? (fun x => decide (x.id = s.u.ev.id)) = some b → b.phase = .shipped →
      (∀ c ∈ s.e.bins, c.id ≠ b.id → c.toDev = b.toDev → c.key = b.key →
        ¬ (c.die = b.die ∧ c.id < b.id ∧ c.phase = .shipped) ∧
        ¬ (b.toDev = false ∧ c.phase = .shipped ∧ ∃ x ∈ c.recs, x.applied = true)) →
      (b.toDev = true → s.reachable b.key = false ∨ s.u.ev.flag = true → b.sent + 2 ^ 24 ≤ s.u.clk → exec .binApply s = .next
        ((b.recs.foldl (fun t r => t.discard r) s).modBin b.id fun x => { x with phase := .applied })) ∧
      (b.toDev = false ∨ (s.reachable b.key = true ∧ s.u.ev.flag = false) →
        (b.nextRec (s.u.ev.list.headD 0) = none → exec .binApply s = .next
          (s.modBin b.id fun x => { x with phase := .applied })) ∧
        ∀ k r, b.nextRec (s.u.ev.list.headD 0) = some k → b.recs[k]? = some r → exec .binApply s = .next
          ((s.applyRec r).modBin b.id fun x =>
            { x with recs := x.recs.modify k fun y => { y with applied := true } }))) ∧
    (∀ r : Rec, let loc := s.recLoc r r.pa
      let n := recBytes r.wid
      s.MemWf → r.op ≠ 7 → (r.dev ≠ s.f.dev ∨ channelOf r.il r.pa ∉ s.m.retiredPc) →
      s.keyAt (loc / 128) = s.keyId (loc / 128) r.key → s.poisoned loc n = false →
      (∀ i, i < n → (s.applyRec r).load (loc + i) 1 = recWord r.op r.wid (s.load loc n) r.val / 256 ^ i % 256) ∧
      ∀ b, b < loc ∨ loc + n ≤ b → (s.applyRec r).load b 1 = s.load b 1) ∧
    (∀ r : Rec, (r.dev = s.f.dev → channelOf r.il r.pa ∈ s.m.retiredPc → s.applyRec r = s.discard r) ∧
      (r.op = 7 → (r.dev ≠ s.f.dev ∨ channelOf r.il r.pa ∉ s.m.retiredPc) →
        s.keyAt (s.recLoc r r.pa / 128) = s.keyId (s.recLoc r r.pa / 128) r.key →
        ∃ u : State, s.applyRec r = u.applyAppend r ∧ u.m.mem = s.m.mem ∧ u.e = s.e ∧ u.r = s.r ∧ u.x = s.x)) ∧
    (∀ r : Rec, let t := (s.appendTouch r r.pa false).appendTouch r (r.pa + 28) false
      let w := fun i => t.load (s.recLoc r (r.pa + 4 * i)) 4
      let top := r.pa / r.psize * r.psize + r.psize
      let region := fun (off cap : Nat) => off % 4 = 0 ∧ (cap = 0 ∨ (32 ≤ off ∧ r.pa + off + 4 * cap ≤ top))
      let ok := r.pa % 64 = 0 ∧ 1 ≤ w 1 ∧ w 1 ≤ 2 ^ 24 ∧ w 3 ≤ 2 ^ 24 ∧ region (w 0) (w 1) ∧ region (w 2) (w 3)
      let held := (w 4 + 2 ^ 32 - w 5) % 2 ^ 32
      let refused := fun bad => (t.appendWord r (r.pa + 28) (min (w 7 + 1) (2 ^ 32 - 1))).notify r bad
      ((∀ pa, pa = r.pa ∨ pa = r.pa + 28 → s.keyAt (s.recLoc r pa / 128) = s.keyId (s.recLoc r pa / 128) r.key) →
        t.m.mem = s.m.mem ∧ t.e = s.e ∧ t.r = s.r ∧ t.x = s.x) ∧
      (ok → held < w 1 → s.applyAppend r =
        (t.appendWord r (r.pa + w 0 + 4 * (w 4 % w 1)) r.val).appendWord r (r.pa + 16) (w 4 + 1)) ∧
      (ok → w 1 ≤ held → w 6 < w 3 → s.applyAppend r =
        (t.appendWord r (r.pa + w 2 + 4 * w 6) r.val).appendWord r (r.pa + 24) (w 6 + 1)) ∧
      (ok → w 1 ≤ held → w 3 ≤ w 6 → s.applyAppend r = refused false) ∧
      (¬ ok → s.applyAppend r = refused true)) ∧
    (∀ (r : Rec) (bad : Bool), (s.notify r bad).e.notices =
        s.e.notices ++ r.owners.map (fun o => { lane := o.1, bad := bad }) ∧
      { s.notify r bad with e.notices := s.e.notices } = s) ∧
    (∀ (r : Rec) (pa v : Nat), let loc := s.recLoc r pa
      s.MemWf → s.retiredAt r.leaf pa = false → s.keyAt (loc / 128) = s.keyId (loc / 128) r.key → s.poisoned loc 4 = false →
      (∀ i, i < 4 → (s.appendWord r pa v).load (loc + i) 1 = v / 256 ^ i % 256) ∧
      ∀ b, b < loc ∨ loc + 4 ≤ b → (s.appendWord r pa v).load b 1 = s.load b 1) ∧
    (∀ (a : Access) (lf : Leaf) (op wid : Nat), s.MemWf → s.acc? s.u.ev.id = some a → a.kind = .dst op wid →
      a.leaf = some lf → a.phase = .atHome → s.acked a = true →
      (op = 7 → s.performDst a op wid = if s.poisonFor a = true then s else (s.recsOf a lf).foldl (fun t r => t.applyAppend r) s) ∧
      (op ≠ 7 → ∃ t, exec .storePerformed s = .next t ∧
        (s.poisonFor a = true → t.m.mem = s.m.mem) ∧
        (s.poisonFor a = false → ∀ i, i < a.size →
          t.load (a.loc + i) 1 = recWord op wid (s.load a.loc a.size) a.data / 256 ^ i % 256) ∧
        (∀ b, b < a.loc ∨ a.loc + a.size ≤ b → t.load b 1 = s.load b 1) ∧ (∀ x ∈ t.k.acc, x.id ≠ a.id) ∧
        t.r.v = s.r.v ∧ t.r.ve = s.r.ve ∧ t.r.sr = s.r.sr ∧ t.r.mr = s.r.mr)) ∧
    (let left := s.e.bins.filter fun b => !decide (b.id = s.u.ev.id ∧ b.phase = .applied)
     exec .binAck s = .next { s with e.bins := left, f.acks := s.f.acks ++ packetsGone s.e.bins left } ∧
     ∀ k, k ∈ packetsGone s.e.bins left ↔ (∃ b ∈ s.e.bins, ∃ r ∈ b.recs, k ∈ r.pkts) ∧ ∀ b ∈ left, ∀ r ∈ b.recs, k ∉ r.pkts) ∧
    ∀ n, s.e.notices[s.u.ev.id]? = some n →
      ((s.team? n.lane.t).isSome = true → (s.grid (s.team n.lane.t).grid).aborted = false → n.lane.l ∈ s.liveLanes n.lane.t n.lane.g → exec .refusalNotice s = .next
        (({ s with e.notices := s.e.notices.eraseIdx s.u.ev.id } : State).modLan n.lane fun x =>
          { x with refused := min (x.refused + 1) 0xFFFF, rsat := x.rsat || decide (x.refused = 0xFFFF),
                   badq := x.badq || n.bad })) ∧
      (s.team? n.lane.t = none ∨ (s.grid (s.team n.lane.t).grid).aborted = true ∨
          n.lane.l ∉ s.liveLanes n.lane.t n.lane.g →
        exec .refusalNotice s = .next { s with e.notices := s.e.notices.eraseIdx s.u.ev.id })) ∧
  ∀ (s : State) (p : Split) (k vd : Nat) (ls : List Nat) (n : Nat) (q : Pc),
    s.split? s.u.ev.id = some p → p.park = .settle k vd ls n q true → s.podSettled p k = true →
    s.owes (s.covers p k ls) n = false → ls.Nodup →
    ∃ t, exec .settleComplete s = .next t ∧
      (∀ l ∈ ls, let x := s.lan ⟨p.team, p.group, l⟩
        t.getV ⟨p.team, p.group, l⟩ vd = BitVec.ofNat 32 (2 ^ 31 + (if x.rsat = true then 2 ^ 30 else 0) +
          (if x.lost = true then 2 ^ 29 else 0) + (if x.badq = true then 2 ^ 28 else 0) + x.refused % 2 ^ 16) ∧
        t.isEmpty ⟨p.team, p.group, l⟩ vd = false ∧
        t.lan ⟨p.team, p.group, l⟩ = { x with refused := 0, rsat := false, lost := false, badq := false }) ∧
      (∀ x m, x.t ≠ p.team ∨ x.g ≠ p.group ∨ x.l ∉ ls ∨ m ≠ vd → t.getV x m = s.getV x m) ∧
      t.split? p.sid = some { p with park := .run } ∧ t.m.mem = s.m.mem ∧ t.r.sr = s.r.sr ∧ t.r.mr = s.r.mr

/-- Commands of a queue (R336, R337, R342, R343, R361, R387, R389): a doorbell stores TAIL and rings, or fails the queue; the
command at the head of the queue whose turn it is begins: NOP is consumed, LAUNCH admits its grid with its first team or fails
the queue, EVENT joins the events of its queue, HEAD staying (log entry 59), WAIT is consumed once its word has reached the
target and waits otherwise, a poisoned word failing the queue, INVAL drops the translations it covers as it begins and is consumed
later (log entry 20), and a sealed command whose stamp does not match waits or fails. -/
def Obligations.QueueEvents : Prop :=
  ∀ s : State,
    let q := s.u.ev.id
    let r := s.queueRec q
    let v := s.u.ev.value % 2 ^ 32
    let begun := (s.readHead q).useTurn q (s.headLevel q)
    (s.p.ready = true → s.u.ev.size = 4 → q < 32768 →
      let back := (r.tail + 2 ^ 32 - v) % 2 ^ 32
      let ahead := (v + 2 ^ 32 - r.head) % 2 ^ 32
      ((1 ≤ back ∧ back ≤ 2 ^ 31) ∨ 2 ^ r.logn < ahead → exec .doorbell s = .next (s.queueFail q TASK 5 0)) ∧
      ((back = 0 ∨ 2 ^ 31 < back) → ahead ≤ 2 ^ r.logn →
        exec .doorbell s = .next ((s.physStore (s.queuePa q + 16) v 4).ring q))) ∧
    (s.p.ready = true → s.u.ev.size = 8 → q < 32768 → exec .doorbell s = .next s) ∧
    (s.p.ready = false ∨ (s.u.ev.size ≠ 4 ∧ s.u.ev.size ≠ 8) ∨ 32768 ≤ q →
      exec .doorbell s = .next { s with p.badAcc := min (s.p.badAcc + 1) 255 }) ∧
    (s.picked q = true →
      (∀ c i a, s.headOf q = .error c i a → ∀ e ∈ [Instr.queueNop, .queueLaunch, .queueEvent, .queueWait, .invalTeardown],
        exec e s = .next (s.queueFail q c i a)) ∧
      (s.headOf q = .unsealed → ∀ e ∈ [Instr.queueNop, .queueLaunch, .queueEvent, .queueWait, .invalTeardown],
        exec e s = .next ((s.readHead q).sealWait q)) ∧
      (∀ ws, s.headOf q = .cmd 0 ws → exec .queueNop s = .next (begun.advance q)) ∧
      (∀ ws, s.headOf q = .cmd 1 ws →
        (∀ c i a, begun.launchAt q ws = .bad c i a → exec .queueLaunch s = .next (begun.queueFail q c i a)) ∧
        (∀ g u, begun.launchAt q ws = .ok g →
          (begun.readRecord (q / 8192) (begun.queueRec q).asid (cmdPair ws 2)).admission g = some u → exec .queueLaunch s = .next (u.advance q))) ∧
      (∀ ws, s.headOf q = .cmd 2 ws →
        (cmdPair ws 2 % 8 ≠ 0 → exec .queueEvent s = .next (begun.queueFail q TASK 2 0)) ∧
        (∀ lf, cmdPair ws 2 % 8 = 0 →
          begun.dieSeek (q / 8192) (begun.queueRec q).asid (cmdPair ws 2) true = .inl lf →
          exec .queueEvent s = .next
            { begun with d.events := begun.d.events ++
                [{ q := q, va := cmdPair ws 2, value := cmdPair ws 4
                   irq := if bit (ws.getD 6 0) 31 then some (ws.getD 6 0 % 2 ^ 11) else none
                   grids := (begun.x.grids.filter fun g => decide (g.queue = q ∧ g.parent = none) && !g.retired).map
                     (·.uid) }] }) ∧
        (∀ c, cmdPair ws 2 % 8 = 0 →
          begun.dieSeek (q / 8192) (begun.queueRec q).asid (cmdPair ws 2) true = .inr c →
          exec .queueEvent s = .next (begun.queueFail q c 1 (cmdPair ws 2)))) ∧
      (∀ ws, s.headOf q = .cmd 3 ws → exec .queueWait s = .next (begun.readWait q ws)) ∧
      (∀ ws, s.headOf q = .cmd 4 ws → invalTear ws = false → s.d.wait.has q = false →
        exec .queueInval s = .next
          { begun.dropTlb ws with d.wait := (begun.dropTlb ws).d.wait.put q (begun.dropTlb ws).u.clk }) ∧
      (∀ ws, s.headOf q = .cmd 4 ws → invalTear ws = true → ∃ t, exec .invalTeardown s = .next t ∧
        (∀ x ∈ t.e.tiles, x.asid = invalAsid ws → x.live = false) ∧
        (∀ x ∈ begun.e.tiles, x.asid ≠ invalAsid ws → x ∈ t.e.tiles) ∧
        (∀ x ∈ t.k.tlb, x.asid ≠ invalAsid ws) ∧ t.d.wait.has q = true ∧ t.r.v = begun.r.v ∧ t.r.sr = begun.r.sr)) ∧
    (∀ ws, s.headOf q = .cmd 4 ws → s.d.wait.has q = true → s.invalDone ws (s.d.wait.look q 0) = true →
      exec .queueInval s = .next (({ s with d.wait := s.d.wait.drop q } : State).advance q)) ∧
    (∀ ws, s.headOf q = .cmd 3 ws → s.d.wait.has q = true → exec .waitRecheck s = .next (s.readWait q ws)) ∧
    (∀ ws lf, cmdPair ws 2 % 8 = 0 → s.dieSeek (q / 8192) r.asid (cmdPair ws 2) false = .inl lf →
      let t : State := { s with d.wait := s.d.wait.drop q }
      let again : State := { s with d.wait := s.d.wait.put q s.u.clk }
      s.readWait q ws = if s.unrecalled r.asid lf (cmdPair ws 2) false = false then again.dieCall r.asid lf (cmdPair ws 2) false
        else if s.badRead lf (cmdPair ws 2) 8 = true then t.queueFail q POISON 0 (cmdPair ws 2)
        else if cmdPair ws 4 ≤ s.peek lf (cmdPair ws 2) 8
        then (t.dieTouch (q / 8192) r.asid lf (cmdPair ws 2) false).advance q
        else again.dieTouch (q / 8192) r.asid lf (cmdPair ws 2) false) ∧
    (∀ n c, s.d.sealTry.has q = true → s.d.sealTry.look q (0, 0) = (n, c) → c ≤ s.u.clk → s.headOf q = .unsealed →
      (s.sealCount (q / 8192) ≤ n + 1 → exec .sealRetry s = .next
        (({ s.readHead q with d.sealTry := (s.readHead q).d.sealTry.drop q } : State).queueFail q TASK 6 0)) ∧
      (n + 1 < s.sealCount (q / 8192) → exec .sealRetry s = .next
        { s.readHead q with d.sealTry := (s.readHead q).d.sealTry.put q (n + 1, s.u.clk + s.sealDelay (q / 8192)) }))

/-- EVENTs (R334, R337, R383): once every grid launched before it has retired, the EVENT at the head of its queue (log entry 59)
has its value written at its address, its vector, if it names one and the entry is masked, becomes pending (log entry 26), and
the command is consumed, while the queue is served: EN is 1, ERROR is 0, and its controller does not wait for an update; a page
that is gone fails the queue, whose HEAD stays. -/
def Obligations.EventWrites : Prop :=
  ∀ (s : State) (e : QEvent), s.d.events[s.u.ev.id]? = some e → e.grids = [] →
    let die := e.q / 8192
    let asid := (s.queueRec e.q).asid
    let t : State := { s with d.events := s.d.events.eraseIdx s.u.ev.id }
    let served := (s.queueRec e.q).en = true ∧ (s.queueRec e.q).err = false ∧ die ∉ s.d.hold
    (¬ served → exec .eventWrite s = .next s) ∧
    (served → (∀ c, s.dieSeek die asid e.va true = .inr c → exec .eventWrite s = .next (t.queueFail e.q c 1 e.va)) ∧
    (∀ lf, s.dieSeek die asid e.va true = .inl lf → s.unrecalled asid lf e.va true = false →
      exec .eventWrite s = .next (s.dieCall asid lf e.va true)) ∧
    ∀ lf, s.dieSeek die asid e.va true = .inl lf → s.unrecalled asid lf e.va true = true →
      let u := (t.dropSnaps fun c => decide (c.holder = .msc)).dieWrite die asid lf e.va e.value 8
      (e.irq = none → exec .eventWrite s = .next (u.advance e.q)) ∧
      ∀ v, e.irq = some v → exec .eventWrite s = .next
        ((if (u.msixWord (4 * v + 3)).getLsbD 0 = true then
          { u with p.msixPend := if v ∈ u.p.msixPend then u.p.msixPend else u.p.msixPend ++ [v] } else u : State).advance e.q))

/-- Replayable faults (R176, R216, R359, R360, R362, R363): a record takes the next slot of its die's ring, or a report that
finds the ring full is dropped and counted; RESUME acts on the record its slot and TIME name: REPLAY performs its held
accesses again, CANCEL cancels the unit and takes the fault, UNITPC and NEXT let a stopped split go on at its unit or the
next, ABORT aborts the grid, also for a record that another action has resolved; a page walk fills the three TLBs on its way and one that faults fills none. -/
def Obligations.ResumeEvents : Prop :=
  (∀ s : State,
    let die := s.u.ev.id
    let mine := fun (r : FqRec) => decide (r.die = die ∧ r.slot = none)
    (∀ r, s.fqFull die = true → s.d.fq.find? (fun r => mine r && decide (r.kind = .report)) = some r →
      exec .faultQueueWrite s = .next
        (({ s with d.fq := s.d.fq.erase r } : State).setDieReg die 0xC4 (bumpSat (s.dieReg die 0xC4)))) ∧
    (∀ r, s.fqFull die = false → s.d.fq.find? mine = some r →
      let n := (s.dieReg die 0xC9).toNat
      let t := (s.storeWords (s.fqPa die (n % s.fqSlots die)) r.words).setDieReg die 0xC9 (BitVec.ofNat 32 (n + 1))
      let rest := (t.d.fq.erase r).filter fun x =>
        !(x.done && decide (x.die = die ∧ x.slot.map (· % s.fqSlots die) = some (n % s.fqSlots die)))
      exec .faultQueueWrite s = .next { t with
        d.fq := if r.kind = .report then rest else rest ++ [{ r with slot := some n }] })) ∧
  (∀ (s : State) (ws : List Nat) (r : FqRec),
    let q := s.u.ev.id
    let fresh := (s.readHead q).useTurn q (s.headLevel q)
    let slot := ws.getD 2 0
    let begun := fresh.physTouch (fresh.fqPa (q / 8192) slot) false
    let t : State := { begun with d.fq := begun.d.fq.map fun x =>
      if x = r then { x with done := true, grid := (begun.team (begun.split r.sid).team).grid } else x }
    s.picked q = true → s.headOf q = .cmd 5 ws → slot < fresh.fqSlots (q / 8192) →
    fresh.load (fresh.fqLoc (q / 8192) slot + 56) 4 = ws.getD 3 0 →
    begun.d.fq.reverse.find? (fun r => decide (r.die = q / 8192 ∧ r.slot.map (· % begun.fqSlots (q / 8192)) = some slot) &&
      decide ((r.words.getD 14 0).toNat = ws.getD 3 0)) = some r →
    (r.done = true →
      (ws.getD 4 0 = 4 → exec .resumeAbort s = .next
        ((match begun.grid? r.grid with
          | some g => if g.aborted = true ∨ g.retired = true then begun else begun.abortGrid r.grid r.words
          | none => begun).advance q)) ∧
      (r.held = true → (ws.getD 4 0 = 0 → exec .resumeReplay s = .next (begun.advance q)) ∧
        (ws.getD 4 0 = 1 → exec .resumeCancel s = .next (begun.advance q)))) ∧
    (r.done = false → ws.getD 4 0 = 0 → r.held = true →
      (r.seq = 0 → exec .resumeReplay s = .next ((t.modSplit r.sid fun p => { p with park := .run }).advance q)) ∧
      (r.seq ≠ 0 →
        let u : State := { t with k.acc := t.k.acc.map fun a =>
          if a.seq = r.seq ∧ a.phase = .held r.code ∧ a.lane.l ∈ r.lanes then { a with phase := .held 0 } else a }
        exec .resumeReplay s = .next
          ((if (u.team (u.split r.sid).team).status = .saved then u else u.replayHeld r.sid r.seq).advance q))) ∧
    (r.done = false → ws.getD 4 0 = 1 → r.held = true → r.seq ≠ 0 →
      let as := t.k.acc.filter fun a => decide (a.seq = r.seq) && a.isHeld
      exec .resumeCancel s = .next
        ((((as.foldl (fun (u : State) a => u.cancelAccess a) t).modSplit r.sid fun x => { x with park := .run }).takeFault
          r.sid { code := r.code, lanes := some r.lanes, addr := r.pair 9, info := (r.words.getD 11 0).toNat
                  unitPc := BitVec.ofNat 56 (r.pair 3), wordPc := some (BitVec.ofNat 56 (r.pair 5)), replayable := true }
          (t.split r.sid).pc).advance q)) ∧
    (∀ u w p, r.done = false → r.kind = .replay → t.split? r.sid = some p → p.park = .replay u w →
      (ws.getD 4 0 = 2 → ∃ t' : State, exec .resumeUnitpc s = .next (t'.advance q) ∧
        t'.split? r.sid = some { p with pc := u, park := .run } ∧ t'.r = t.r ∧ t'.m = t.m) ∧
      (ws.getD 4 0 = 3 → lateCode r.code = false → ∃ t' : State, exec .resumeNext s = .next (t'.advance q) ∧
        t'.split? r.sid = some { p with pc := w, park := .run, blkCount := p.blkCount - 1
                                        blkPattern := p.blkPattern >>> 1 } ∧ t'.r = t.r ∧ t'.m = t.m)) ∧
    (r.done = false → ws.getD 4 0 = 4 → r.kind ≠ .report → (t.split? r.sid).isSome = true → exec .resumeAbort s = .next
      ((t.abortGrid (t.team (t.split r.sid).team).grid r.words).advance q))) ∧
  ∀ (s : State) (core asid va : Nat), s.u.ev.list = [core, asid, va] →
    let w := s.walkAll (core / 192) asid va
    (∀ lf, s.walk (core / 192) asid va = some lf → exec .pageWalk s = .next
      (((w.addTlb (.core core) asid lf).addTlb (.cluster (core / 8)) asid lf).addTlb (.die (core / 192)) asid lf)) ∧
    (s.walk (core / 192) asid va = none → exec .pageWalk s = .next w ∧ w.k.tlb = s.k.tlb) ∧ w.m.mem = s.m.mem ∧ w.r.v = s.r.v ∧
    ∀ at_ lf, ∃ e ∈ (s.addTlb at_ asid lf).k.tlb, e.at_ = at_ ∧ e.asid = asid ∧ e.leaf = lf

/-- The life of teams and grids (R138, R176, R250, R251, R286, R342 to R344, R347, R348, R355 to R357): a die's controller
places a waiting team first, then starts a ready task, then chooses teams to save; teams that have drained are saved where the
save pool has room, one that is over meanwhile not at all; a grid whose teams are all over is retired, its teams forgotten, their
windows reading 0 (log entry 12) and no EVENT waiting for it; a grid resident for its LIMIT has every split take WATCHDOG; a task
that is over retires once, done or failed, once no recall holds back its blocks, one that cannot be reached failing the queue
alone (log entry 7). -/
def Obligations.LifecycleEvents : Prop :=
  ∀ s : State,
    (∀ t, s.placeNow s.u.ev.id = some t → exec .dispatchStep s = .next t) ∧
    (∀ k dies, s.placeNow s.u.ev.id = none → s.pick s.u.ev.id = some (.task k dies) →
      exec .dispatchStep s = .next (s.startTask k dies)) ∧
    (s.placeNow s.u.ev.id = none → (∀ k dies, s.pick s.u.ev.id ≠ some (.task k dies)) →
      (∀ t, s.preemptNow s.u.ev.id = some t → exec .dispatchStep s = .next t) ∧
      (s.preemptNow s.u.ev.id = none → exec .dispatchStep s = .next (s.callHeads s.u.ev.id))) ∧
    (∀ x, s.team? s.u.ev.id = some x → x.status = .saving →
      let gone := (s.saveUnit x).filter fun y => decide (y.status = .saving) && s.over y.uid
      let xs := (s.saveUnit x).filter fun y => !s.over y.uid
      (gone ≠ [] → exec .teamSave s = .next { s with
        x.teams := s.x.teams.map fun y => if gone.any (fun z => decide (z.uid = y.uid)) then { y with status := .running } else y }) ∧
      (gone = [] → (∀ y ∈ xs, y.status = .saving ∧ s.drained y.uid = true) →
        exec .teamSave s = .next (if s.saveRoom xs = true then s.saveTeams (xs.map (·.uid)) else s)) ∧
      (gone = [] → (∃ y ∈ xs, y.status ≠ .saving ∨ s.drained y.uid = false) → exec .teamSave s = .next s)) ∧
    (∀ g, s.grid? s.u.ev.id = some g → s.retirable g = true → ∃ t, exec .gridRetire s = .next t ∧
      (∀ x ∈ t.x.teams, x.grid ≠ g.uid) ∧ ((s.x.teams.map (·.uid)).Nodup → ∀ x ∈ s.x.teams, x.grid ≠ g.uid → x ∈ t.x.teams) ∧
      (∀ y, t.grid? g.uid = some y → y.retired = true ∧ y.chipBase = []) ∧
      (∀ e ∈ t.d.events, g.uid ∉ e.grids) ∧
      (∀ x ∈ s.x.teams, x.grid = g.uid → (∀ a, locScr x.uid 0 ≤ a → a < locScr (x.uid + 1) 0 → t.load a 1 = 0) ∧
        ∀ p ∈ t.x.splits, p.team ≠ x.uid)) ∧
    (∀ g, s.grid? s.u.ev.id = some g → g.launch.limit ≠ 0 → g.watchdogDone = false → g.retired = false →
      g.aborted = false → g.residentFrom + g.launch.limit * 65536 ≤ s.u.clk →
      ∃ t, exec .watchdog s = .next t ∧ t.x.splits = s.x.splits.map (fun p => if s.inGrid g.uid p.team = true then
        { p with late := p.late ++ [{ code := WATCHDOG, unitPc := p.pc, late := true }] } else p) ∧
        (∀ y, t.grid? g.uid = some y → y.watchdogDone = true) ∧ t.r = s.r ∧ t.m = s.m) ∧
    (∀ x, s.team? s.u.ev.id = some x → x.isTask = true → x.taskDone = false →
      ((s.grid x.grid).aborted = true ∨ s.over x.uid = true) →
      let g := s.arena x.uid
      let w : TaskAt := { core := none, die := x.die }
      let t := s.modTeam x.uid fun y => { y with taskDone := true }
      (∀ k, s.retireFault w g x.taskBlk = some k → exec .taskRetire s = .next (t.taskFail g k)) ∧
      (s.retireFault w g x.taskBlk = none →
        let bs := s.retireBlocks w g x.taskBlk
        (s.blocksClear w g bs = false → exec .taskRetire s = .next (s.callBlocks w g bs)) ∧
        (s.blocksClear w g bs = true → exec .taskRetire s = .next
          ((t.touchBlocks w g bs).retireTask w g x.taskBlk (if (s.grid x.grid).aborted = true then 5 else 4)))))

/-- Debugging (R116, R219, R220): a halt request stops a group, once the team's SFU results in flight have landed, at its first
split in issue order, records the stop (log entry 28) and, for the team, halts its other groups, also where the group it names
is halted already; the stopped split of a halted group may issue one unit, or gives the step up; a resumed
group runs again; the host writes a team's DBGCTL. -/
def Obligations.DebugEvents : Prop :=
  ∀ s : State,
    (∀ t g p ps, s.u.ev.list = [t, g] → (s.grp ⟨t, g⟩).halted = false → s.groupSplits ⟨t, g⟩ = p :: ps →
      let s0 := s.landTeamSfu t
      let s1 := (s0.haltGroup ⟨t, g⟩ (some p.sid)).recordStop p
      (∀ o ∈ s0.e.sfu, o.team ≠ t) ∧ ((s.e.sfu.map (·.id)).Nodup → ∀ o ∈ s.e.sfu, o.team ≠ t → o ∈ s0.e.sfu) ∧
      (∀ y n, s0.getV y n ≠ s.getV y n → y.t = t ∧ ∃ o ∈ s.e.sfu, o.team = t ∧ o.group = y.g ∧ o.vd = n) ∧
      (s1.grp ⟨t, g⟩).halted = true ∧ (s1.grp ⟨t, g⟩).stopped = some p.sid ∧ s1.m = s.m ∧ s1.r.v = s0.r.v ∧
      (s.u.ev.flag = false → (s.team t).teamStop = false → exec .debugHalt s = .next s1) ∧
      (s.u.ev.flag = true ∨ (s.team t).teamStop = true → ∃ u, exec .debugHalt s = .next u ∧
        (∀ k ∈ s.groups t, (u.grp ⟨t, k⟩).halted = true) ∧ (∀ o ∈ u.e.sfu, o.team ≠ t) ∧ u.m = s.m ∧ u.r.v = s0.r.v)) ∧
    (∀ t g, s.u.ev.list = [t, g] → (s.grp ⟨t, g⟩).halted = true →
      (s.u.ev.flag = false → (s.team t).teamStop = false → exec .debugHalt s = .next s) ∧
      (s.u.ev.flag = true ∨ (s.team t).teamStop = true → ∃ u, exec .debugHalt s = .next u ∧
        (∀ k ∈ s.groups t, (u.grp ⟨t, k⟩).halted = true) ∧ (∀ o ∈ u.e.sfu, o.team ≠ t) ∧
        (u.grp ⟨t, g⟩).stopped = (s.grp ⟨t, g⟩).stopped ∧ u.m = s.m ∧ u.r.v = (s.landTeamSfu t).r.v)) ∧
    (∀ t g, s.u.ev.list = [t, g] → (s.grp ⟨t, g⟩).halted = false → s.groupSplits ⟨t, g⟩ = [] →
      ∃ u, exec .debugHalt s = .next u ∧ (u.grp ⟨t, g⟩).halted = true ∧ (∀ o ∈ u.e.sfu, o.team ≠ t) ∧ u.m = s.m ∧
        u.r.v = (s.landTeamSfu t).r.v) ∧
    (∀ p, s.split? s.u.ev.id = some p → (s.grp ⟨p.team, p.group⟩).halted = true →
      (s.grp ⟨p.team, p.group⟩).stopped = some p.sid →
      (exec .singleStep s = .next (s.modGrp ⟨p.team, p.group⟩ fun x => { x with stepping := true })) ∧
      exec .stepCancel s = .next (s.modGrp ⟨p.team, p.group⟩ fun x =>
        if x.stopped = some p.sid then { x with stepping := false } else x)) ∧
    (∀ t g, s.u.ev.list = [t, g] →
      let go := fun (u : State) k => u.modGrp ⟨t, k⟩ fun x => { x with halted := false, stopped := none, stepping := false }
      exec .debugResume s = .next (((if s.u.ev.flag = true then s.groups t else [g]).foldl go s).checkRounds t) ∧
      ((go s g).grp ⟨t, g⟩).halted = false ∧ ((go s g).grp ⟨t, g⟩).stopped = none) ∧
    ∀ x, s.team? s.u.ev.id = some x → ∃ t, exec .dbgctlHostWrite s = .next t ∧
      t.team? s.u.ev.id = some { x with dbgen := bit s.u.ev.value 0, teamStop := bit s.u.ev.value 1 } ∧
      { t with x.teams := s.x.teams } = s

/-- The host's side (R254, R256, R257, R382 to R386, R392, R393): a BAR0 access of a wrong size, alignment or offset, or before
READY, is counted, reads zero and changes nothing else; BAR0_STATUS reads as its fields lie; a register write takes effect as
its row says, and BAR2 takes the size that configuration gives it; a carving waits until no chip allocation stands on the die; a
residency control that breaks its limits is ignored as a whole (WAYS 9 to 12 by log entry 80); BAR2 accesses translate under the
host's ASID, one beyond the BAR being dropped, a faulting one being reported, one that a recall holds back calling for its line, a
read answering with the bytes, which may count as the line's write-back (log entry 46), poison and a host read that ends in an
error answering nothing, and a write putting the bytes that its enables select (log entry 29); a key load drops the lines under
its index and gives the index another key than before (log entry 34), for this module's lines alone (log entry 73). -/
def Obligations.HostEvents : Prop :=
  ∀ s : State, let e := s.u.ev
    (s.barBad e.id e.size = true →
      (e.flag = false →
        exec .hostRegWrite s = .next { s with p.badAcc := min (s.p.badAcc + 1) 255 } ∧
        exec .bar0BadAccess s = .next { s with p.badAcc := min (s.p.badAcc + 1) 255 }) ∧
      (e.flag = true → exec .bar0BadAccess s = .next
        { s with p.badAcc := min (s.p.badAcc + 1) 255, p.hostRead := some 0 })) ∧
    (s.barBad e.id e.size = false → e.flag = true →
      exec .bar0BadAccess s = .next { s with p.hostRead := some (s.barRead e.id e.size) }) ∧
    (let w := s.barRead 0 4
     bit w 31 = s.p.ready ∧ bit w 30 = s.p.degraded ∧ bit w 29 = s.p.failed ∧ w / 2 ^ 26 % 8 = s.p.stage % 8 ∧
     w / 2 ^ 24 % 4 = s.p.upd % 4 ∧ w / 2 ^ 16 % 256 = s.p.code % 256 ∧ w / 2 ^ 8 % 256 = 0 ∧ w % 256 = s.p.badAcc % 256) ∧
    (e.flag = true → exec .hostRegWrite s = .next (if e.value ≤ 9 then { s with p.bar2 := 2 ^ (30 + e.value) } else s)) ∧
    (s.barBad e.id e.size = false → e.flag = false →
      exec .bar0BadAccess s = .next s ∧
      (e.size = 4 → exec .hostRegWrite s = .next (s.barWrite e.id (e.value % 2 ^ 32))) ∧
      (e.size = 8 → exec .hostRegWrite s = .next
        ((s.barWrite e.id (e.value % 2 ^ 32)).barWrite (e.id + 4) (e.value / 2 ^ 32))) ∧
      (e.size = 4 → e.id = 0x10 → exec .hostRegWrite s = .next { s with p.hostAsid := e.value % 2 ^ 16 }) ∧
      (e.size = 8 → e.id = 0x20 → e.value < 2 ^ 64 → exec .hostRegWrite s = .next { s with p.hostBase := e.value })) ∧
    (s.p.ready = false → exec .chipcarveWrite s = .next { s with p.badAcc := min (s.p.badAcc + 1) 255 }) ∧
    (s.p.ready = true → e.id < 4 → e.value % 8 ≤ 4 →
      exec .chipcarveWrite s = .next { s with g.carveWait := s.g.carveWait.put e.id (e.value % 8) }) ∧
    (s.p.ready = true → 4 < e.value % 8 → exec .chipcarveWrite s = .next s) ∧
    (s.g.carveWait.has e.id = true → s.chipBusy e.id = false → ∃ t, exec .chipcarveApply s = .next t ∧
      t.dieReg e.id 0xC0 = BitVec.ofNat 32 (s.g.carveWait.look e.id 0) ∧ t.g.carveWait.has e.id = false ∧
      t.m.mem = s.m.mem ∧ t.r.v = s.r.v ∧ t.r.sr = s.r.sr) ∧
    (s.chipBusy e.id = true → exec .chipcarveApply s = .next s) ∧
    (∀ die n, e.list = [die, n] → s.p.ready = true → die < 4 → n < 16 →
      let w := BitVec.ofNat 32 ((if bit e.value 31 then 2 ^ 31 else 0) + e.value % 2 ^ 12)
      let tooMany := 12 - 2 * s.carve die < (s.setDieReg die (0xD2 + 3 * n) w).reserved die
      let bad := bit e.value 31 = true ∧ (e.value % 16 = 0 ∨ s.resLim die n < s.resBase die n)
      (bad ∨ tooMany → exec .resctlWrite s = .next s) ∧
      (¬ bad → ¬ tooMany → ∃ t, exec .resctlWrite s = .next t ∧ t.dieReg die (0xD2 + 3 * n) = w ∧ t.m = s.m ∧ t.r = s.r)) ∧
    (let va := s.p.hostVa + e.id
     (s.p.bar2 < e.id + e.size →
       exec .hostBar2Read s = .next { s with p.hostRead := none } ∧ exec .hostBar2Write s = .next s) ∧
     (∀ c, e.id + e.size ≤ s.p.bar2 → s.dieSeek 0 s.p.hostAsid va false = .inr c → exec .hostBar2Read s = .next
       (({ s with p.hostRead := none } : State).hostFault c va 4)) ∧
     (∀ c, e.id + e.size ≤ s.p.bar2 → s.dieSeek 0 s.p.hostAsid va true = .inr c → exec .hostBar2Write s = .next (s.hostFault c va 5)) ∧
     (∀ lf, e.id + e.size ≤ s.p.bar2 → s.dieSeek 0 s.p.hostAsid va false = .inl lf → e.size ≠ 0 → va % 128 + e.size ≤ 128 →
       s.unrecalled s.p.hostAsid lf va false = true →
       let t := s.dieTouch 0 s.p.hostAsid lf va false
       let loc := t.locOf lf (lf.pa va)
       let x := t.hostBytes loc e.size
       let bad := t.poisoned loc e.size = true ∨ t.retiredAt lf (lf.pa va) = true ∨ (inHost (lf.pa va) = true ∧ e.flag = true)
       (x = (t.loadMsc loc e.size, t) ∨ x = (t.load loc e.size, t.writeBack (loc / 128))) ∧
       (¬ bad → exec .hostBar2Read s = .next { x.2 with p.hostRead := some x.1 }) ∧
       (bad → exec .hostBar2Read s = .next { x.2.poisonEvent (some lf) (lf.pa va) 0 with p.hostRead := none })) ∧
     (∀ lf, e.id + e.size ≤ s.p.bar2 → s.dieSeek 0 s.p.hostAsid va false = .inl lf → e.size ≠ 0 → va % 128 + e.size ≤ 128 →
       s.unrecalled s.p.hostAsid lf va false = false →
       exec .hostBar2Read s = .next (s.dieCall s.p.hostAsid lf va false)) ∧
     (∀ lf, e.id + e.size ≤ s.p.bar2 → s.dieSeek 0 s.p.hostAsid va true = .inl lf → e.size ≠ 0 → va % 128 + e.size ≤ 128 →
       s.unrecalled s.p.hostAsid lf va true = false →
       exec .hostBar2Write s = .next (s.dieCall s.p.hostAsid lf va true)) ∧
     ∀ lf, e.id + e.size ≤ s.p.bar2 → s.dieSeek 0 s.p.hostAsid va true = .inl lf → e.size ≠ 0 → va % 128 + e.size ≤ 128 →
       s.unrecalled s.p.hostAsid lf va true = true →
       (s.retiredAt lf (lf.pa va) = true → exec .hostBar2Write s = .next s) ∧
       (s.retiredAt lf (lf.pa va) = false → exec .hostBar2Write s = .next (if e.list = [] then
           s.dieWrite 0 s.p.hostAsid lf va e.value e.size
         else ((List.range e.size).filter fun i => decide (i ∉ e.list)).foldl (fun (u : State) i =>
           u.dieWrite 0 s.p.hostAsid lf (va + i) (e.value / 2 ^ (8 * i) % 256) 1) s))) ∧
    (e.id < 8192 → s.p.ready = true → ∃ t, exec .keyLoad s = .next t ∧ (∀ m ∈ t.k.msc, m.key ≠ e.id) ∧
      (∀ m ∈ s.k.msc, m.key ≠ e.id → m ∈ t.k.msc) ∧
      (∀ line k, k ≠ e.id ∨ s.lineAway line = true → t.keyId line k = s.keyId line k) ∧
      (∀ line, s.lineAway line = false → t.keyId line e.id ≠ s.keyId line e.id) ∧ t.m = s.m) ∧
    (s.p.ready = false → exec .keyLoad s = .next { s with p.answer := [0x7F] })

/-- Power, clocks, firmware, lifetime records and attestation (R377, R390 to R401, R418, R424): a loss of power keeps only the flash
slots and floors, the lifetime store and the memory that is not this module's, the module's own reading 0 (log entry 12); bring-up
runs its stages one after the other, each within its limit, retires pseudo-channels for as long as power lasts, and stops with its
stage's code or starts the images (operands and codes by log entry 66); a message before READY is answered 0x7F (log entry 30);
caps and clocks stay in their ranges, a measurement above a limit lowering the clock and 100 ms without one raising it (wall time
by log entry 4); a junction at 120 degrees removes power; an image goes to the inactive slot; an update whose image takes the
running image's hand-over version (log entry 31) holds launches, imports within 20 ms, becomes active when alive within 500 ms, and
rolls back when late, the previous image importing in its turn; floors never fall; counts are read, kept and saturate, corrected
errors among them (log entry 83); SPDM requests are answered in order (values behind opaque functions by log entry 10); arrears
thresholds are the same in every core. -/
def Obligations.ManagementEvents : Prop :=
  ∀ s : State, let e := s.u.ev
    let c := e.id
    let x := s.ctrl c
    (∀ t, (exec .powerLoss s = .next t ∨ exec .powerDown s = .next t ∨ (120 ≤ e.n ∧ exec .thermalTrip s = .next t)) →
      t.r = {} ∧ t.x = {} ∧ t.e = {} ∧ t.p.ready = false ∧ t.p.powered = false ∧
      (∀ k < 7, (t.ctrl k).slotA = (s.ctrl k).slotA ∧ (t.ctrl k).slotB = (s.ctrl k).slotB ∧
        (t.ctrl k).floor = (s.ctrl k).floor ∧ (t.ctrl k).activeB = (s.ctrl k).activeB ∧ (t.ctrl k).running = none) ∧
      (∀ a, t.load a 1 = if (2 ^ 64 ≤ a ∧ a < 2 ^ 65) ∨ (a < 2 ^ 64 ∧ a / 2 ^ 40 ≠ s.f.dev) then s.load a 1 else 0)) ∧
    (∃ t, exec .powerLoss s = .next t ∧ t.p.life = s.p.lifeNv ∧ t.p.lifeNv = s.p.lifeNv) ∧
    (∃ t, exec .powerDown s = .next t ∧ t.p.life = s.p.life ∧ t.p.lifeNv = s.p.life) ∧
    (e.n < 120 → exec .thermalTrip s = .next s) ∧
    (120 ≤ e.n → ∃ t, exec .thermalTrip s = .next t ∧ t.p.lifeNv.look (8, 0, 0) 0 = min (s.p.lifeNv.look (8, 0, 0) 0 + 1) (2 ^ 16 - 1)) ∧
    (2 ^ 30 ∉ e.list → e.n ≤ 4 → e.value ≠ 0 → ∃ t, exec .bringUp s = .next t ∧ t.p.failed = true ∧ t.p.stage = e.n ∧
      t.p.code = (if e.n = 0 then 1 else if e.n = 1 then (if e.value = 3 then 3 else 2) else 4) ∧ t.p.ready = false) ∧
    (2 ^ 30 ∈ e.list → s.p.starting = false → exec .bringUp s = .next s) ∧
    (2 ^ 30 ∈ e.list → s.p.starting = true → s.stageLate = true →
      exec .bringUp s = .next { s with p.failed := true, p.code := 4 }) ∧
    (2 ^ 30 ∈ e.list → s.p.starting = true → s.stageLate = false →
      let n := max s.p.stage (min e.n 5)
      let t := s.passStages e n
      t.p.stage = n ∧ t.p.stageAt = (if s.p.stage < n then s.u.clk else s.p.stageAt) ∧
      (s.p.stage < 3 → 3 ≤ n → t.m.retiredPc = (s.m.retiredPc ++ e.list.filter (· < 768)).eraseDups) ∧
      (n ≤ 4 → e.value ≠ 0 → exec .bringUp s = .next (t.bringUpFail n (stageCode n e.value))) ∧
      (e.value = 0 → n ≤ 3 ∨ (n = 4 ∧ e.flag = true) → exec .bringUp s = .next t) ∧
      (e.value = 0 → 4 ≤ n → ¬ (n = 4 ∧ e.flag = true) → exec .bringUp s = .next t.startAll)) ∧
    (2 ^ 30 ∉ e.list → 4 ≤ e.n → e.value = 0 → e.flag = false → ∃ t, exec .bringUp s = .next t ∧
      t.m.retiredPc = ((if s.p.powered = true then s.m.retiredPc else []) ++ e.list.filter (· < 768)).eraseDups ∧
      t.f.dev = e.id % 512 ∧ t.f.podSize = max 1 e.size ∧
      ((t.p.ready = true ∧ t.p.stage = 5 ∧ ∀ k < 7, ∃ i, (t.ctrl k).running = some i ∧ i.authentic k = true) ∨
        (t.p.ready = false ∧ t.p.failed = true ∧ t.p.stage = 4 ∧ (t.p.code = 5 ∨ t.p.code = 6)))) ∧
    ((s.p.starting = true ↔ s.p.powered = true ∧ s.p.ready = false ∧ s.p.failed = false) ∧
      (s.stageLate = true ↔
        s.within s.p.stageAt (([50, 200, 2000, 200, 500] : List Nat).getD s.p.stage 0) = false)) ∧
    (s.p.starting = true → s.stageLate = true → exec .stageTimeout s = .next { s with p.failed := true, p.code := 4 }) ∧
    (s.p.starting = false ∨ s.stageLate = false → exec .stageTimeout s = .next s) ∧
    (s.p.clocks = [] → ∀ since ms,
      (s.within since ms = true ↔ (s.u.clk - since) * 10 ^ 6 / s.p.mhz ≤ ms * 10 ^ 9) ∧
      (s.took since ms = true ↔ ms * 10 ^ 9 ≤ (s.u.clk - since) * 10 ^ 6 / s.p.mhz)) ∧
    (s.p.ready = true → 1000 ≤ e.value → e.value ≤ 3200 → exec .setPowerCap s = .next { s with p.cap := e.value }) ∧
    (s.p.ready = false → ∀ i ∈ [Instr.setPowerCap, .lifetimeRead, .fwImageWrite, .liveUpdate, .floorRaise, .setArrears,
        .migrationPool, .getVersion, .getCapabilities, .negotiateAlgorithms, .getDigests, .getCertificate, .challenge,
        .getMeasurements], exec i s = .next { s with p.answer := [0x7F] }) ∧
    (let hot := s.p.cap < e.value ∨ 105 ≤ e.n
     let timed := fun (t : State) =>
       t.p.clocks = if t.p.mhz = s.p.mhz then s.p.clocks else (s.u.clk, s.p.mhz) :: s.p.clocks
     (hot → exec .clockRaise s = .next { s with p.hotAt := s.u.clk } ∧ ∃ t, exec .clockLower s = .next t ∧
       { t with p.mhz := s.p.mhz, p.clocks := s.p.clocks, p.hotAt := s.p.hotAt } = s ∧ timed t ∧ t.p.hotAt = s.u.clk ∧
       470 ≤ t.p.mhz ∧ (490 ≤ s.p.mhz → t.p.mhz = s.p.mhz - 20)) ∧
     (¬ hot → exec .clockLower s = .next s ∧
       (s.took s.p.hotAt 100 = false → exec .clockRaise s = .next s) ∧
       (s.took s.p.hotAt 100 = true → ∃ t, exec .clockRaise s = .next t ∧
         { t with p.mhz := s.p.mhz, p.clocks := s.p.clocks } = s ∧ timed t ∧
         t.p.mhz ≤ 940 ∧ (s.p.mhz ≤ 920 → t.p.mhz = s.p.mhz + 20)))) ∧
    (∀ i, imageOf e.list = some i → i.version < 2 ^ 32) ∧
    (∀ i, imageOf e.list = some i → s.p.ready = true → c < 7 → x.upd = none → ∃ t, exec .fwImageWrite s = .next t ∧
      (t.ctrl c).inactive = some { i with minor := e.value } ∧ (t.ctrl c).active = x.active ∧ (t.ctrl c).running = x.running ∧ t.m = s.m ∧ t.d = s.d) ∧
    (∀ r, let h := s.handover c r
      h.major = r.hi ∧ h.minor = r.minor ∧ h.kind = kindOf c ∧
      h.image = [h.major, h.minor, h.kind, 4 * (6 + h.body.length), h.sections.length, h.crc] ++ h.body ∧
      (r.minor = 0 → h.sections.map (·.num) = if c < 4 then [1, 2] else if c = 4 then [3, 4, 5, 6] else []) ∧
      ∀ (i : Image) (y : Section), y ∈ i.takes h ↔ y ∈ h.sections ∧ y.minor ≤ i.minor) ∧
    (∀ i r, s.p.ready = true → c < 7 → e.flag = false → x.inactive = some i → x.running = some r → s.noUpdate = true →
      i.lo ≤ r.hi → r.hi ≤ i.hi → exec .liveUpdate s = .next (if i.authentic c = true then
        State.holdDispatch { s.setCtrl c { x with upd := some (.held s.u.clk) } with p.upd := 1 } c else s)) ∧
    (∀ i r, s.p.ready = true → e.flag = false → x.inactive = some i → x.running = some r →
      s.noUpdate = false ∨ r.hi < i.lo ∨ i.hi < r.hi → exec .liveUpdate s = .next s) ∧
    (∀ i since, s.p.ready = true → c < 7 → e.flag = true → x.inactive = some i → x.upd = some (.held since) →
      s.within since 20 = true → ∃ t, exec .liveUpdate s = .next t ∧ (t.ctrl c).running = some i ∧
        (t.ctrl c).upd = some (.imported s.u.clk) ∧ c ∉ t.d.hold ∧ t.r = s.r ∧ t.x = s.x ∧ t.m = s.m) ∧
    (∀ since, x.upd = some (.imported since) → s.within since 500 = true → ∃ t, exec .aliveMsg s = .next t ∧
      (t.ctrl c).activeB = !x.activeB ∧ (t.ctrl c).upd = none ∧ t.p.upd = 0 ∧ t.x = s.x ∧ t.m = s.m) ∧
    (e.flag = false → s.updateLate x = true → ∃ t, exec .updateRollback s = .next t ∧ (t.ctrl c).running = x.active ∧
      (t.ctrl c).upd = some (.rolling s.u.clk) ∧ t.p.upd = 3 ∧ c ∈ t.d.hold ∧
      t.p.lifeNv.look (7, c, 0) 0 = min (s.p.lifeNv.look (7, c, 0) 0 + 1) (2 ^ 16 - 1)) ∧
    (e.flag = false → s.updateLate x = false → exec .updateRollback s = .next s) ∧
    ((s.updateLate x = true ↔ ∃ since, (x.upd = some (.held since) ∧ s.within since 20 = false) ∨
        (x.upd = some (.imported since) ∧ s.within since 500 = false)) ∧
      (s.noUpdate = true ↔ ∀ k < 7, (s.ctrl k).upd = none)) ∧
    (∀ since, e.flag = true → x.upd = some (.rolling since) → ∃ t, exec .updateRollback s = .next t ∧ c ∉ t.d.hold ∧
      (t.ctrl c).upd = none ∧ (t.ctrl c).running = x.running ∧ { t with d.hold := s.d.hold, p.ctrl := s.p.ctrl } = s) ∧
    (∀ i, x.running = some i → s.p.ready = true → c < 7 → ∃ t, exec .floorRaise s = .next t ∧
      t.floorOf c = max (s.floorOf c) i.version ∧ t.m = s.m) ∧
    (s.p.ready = true → exec .lifetimeRead s = .next { s with
      p.answer := (s.p.life.filter fun y => decide (y.1.1 < 11)).flatMap fun y => [y.1.1, y.1.2.1, y.1.2.2, y.2] }) ∧
    (e.flag = false → exec .lifetimePersist s = .next { s with p.lifeNv := s.p.life }) ∧
    (e.flag = true → ∃ t, exec .lifetimePersist s = .next t ∧ { t with p.life := s.p.life } = s ∧
      (∀ k, e.list = [k] → k < 768 → t.p.life.look (0, k, 0) 0 = min (s.p.life.look (0, k, 0) 0 + 1) (2 ^ 32 - 1)) ∧
      ∀ k, e.list = [k] → 768 ≤ k → k < 780 →
        t.p.life.look (1, k - 768, 0) 0 = min (s.p.life.look (1, k - 768, 0) 0 + 1) (2 ^ 32 - 1)) ∧
    (∃ t, exec .histogramMinute s = .next t ∧ { t with p.life := s.p.life } = s ∧
      (e.list = [] → s.p.life.look (11, 0, 0) 0 < 59 →
        t.p.life.look (11, 0, 0) 0 = s.p.life.look (11, 0, 0) 0 + 1) ∧
      (e.list = [] → s.p.life.look (11, 0, 0) 0 = 59 → t.p.life.look (11, 0, 0) 0 = 0 ∧
        t.p.life.look (10, 0, 0) 0 = min (s.p.life.look (10, 0, 0) 0 + 1) (2 ^ 32 - 1))) ∧
    (s.p.ready = true →
      exec .getVersion s = .next { s with p.spdm := 1, p.answer := [0x04, 0x12] } ∧
      (1 ≤ s.p.spdm → exec .getCapabilities s = .next { s with p.spdm := 2, p.answer := [0x61] }) ∧
      (2 ≤ s.p.spdm → exec .negotiateAlgorithms s = .next { s with p.spdm := 3, p.answer := [0x63, 256, 256] }) ∧
      (3 ≤ s.p.spdm →
        exec .getDigests s = .next { s with p.answer := [0x01, Config.digest [Config.certChain 0]] } ∧
        exec .getCertificate s = .next { s with p.answer := [0x02, Config.certChain e.id] } ∧
        exec .challenge s = .next { s with
          p.answer := [0x03, Config.digest [Config.certChain 0], Config.sign [Config.certChain 0, e.value]] } ∧
        let m := (([1, 2, 3, 4, 5, 6, 7] : List Nat).map fun k =>
            match (s.ctrl (k - 1)).running with | some i => Config.digest i.signed | none => 0) ++
          [s.floorOf 0, s.floorOf 4, s.floorOf 5, s.floorOf 6]
        exec .getMeasurements s = .next { s with p.answer := 0x60 :: (m ++ [Config.sign (m ++ [e.value])]) }) ∧
      (s.p.spdm < 3 → ∀ i ∈ [Instr.getDigests, .getCertificate, .challenge, .getMeasurements],
        exec i s = .next { s with p.answer := [0x7F] })) ∧
    (s.p.ready = true → ∃ t, exec .setArrears s = .next t ∧ { t with g.core := s.g.core } = s ∧
      (e.flag = false → ∀ k, t.coreReg k 0x82 = BitVec.ofNat 32 (e.id % 2 ^ 16) ∧
        t.coreReg k 0x83 = BitVec.ofNat 32 (e.value % 2 ^ 16) ∧ t.coreReg k 0x84 = s.coreReg k 0x84) ∧
      (e.flag = true → ∀ k, t.coreReg k 0x84 = BitVec.ofNat 32 (e.n % 2 ^ 16) ∧
        t.coreReg k 0x82 = s.coreReg k 0x82 ∧ t.coreReg k 0x83 = s.coreReg k 0x83)) ∧
    (s.p.ready = true → exec .migrationPool s = .next { s with f.migPool := s.f.migPool ++ e.list })

/-- Links, pod jobs and migration (R414 to R418, R424, R429 to R431): every kind of traffic has its tier, and a tier its two
virtual channels; a flit's failures in a row are counted, its own and then those of its replays, and with 16 replays failed the link
retrains, which is counted or takes the port down, once the fabric manager is not being updated; a plane reaches a peer while both
of its ends are up, and a path leaves on the first such port from 16d + ((SRC + DEV) mod 16) of the core's own die, or else of the
lowest-numbered die that has one; arrears grow while a tier waits, a tier whose arrears are at its threshold wins the grant and
starts afresh, and otherwise the order is strict; a job is registered once per number and ASID, its leader learns of arrivals and
completes rounds; a page is held, its migration is carried out once what went before is performed, and a page that another module
has queued is known (log entry 55). -/
def Obligations.FabricEvents : Prop :=
  ∀ s : State, let e := s.u.ev
    (e.id < 64 → exec .flitReceive s = .next { s with
      f.replays := s.f.replays.put e.id (if e.flag = true then 0 else s.f.replays.look e.id 0 + 1) }) ∧
    (e.size ≠ 1 → e.id < 64 → 17 ≤ s.f.replays.look e.id 0 → e.id ∉ s.f.down → (e.id, []) ∉ s.f.portWait →
      let counted := s.bump (6, e.id, 0)
      counted.p.life.look (6, e.id, 0) 0 = min (s.p.life.look (6, e.id, 0) 0 + 1) (2 ^ 32 - 1) ∧
      (e.flag = true → exec .linkRetrain s = .next { counted with f.replays := s.f.replays.put e.id 0 }) ∧
      (e.flag = false → s.fabricHeld = false → exec .linkRetrain s = .next (counted.portDown e.id)) ∧
      (e.flag = false → s.fabricHeld = true → exec .linkRetrain s = .next
        { counted with f.portWait := s.f.portWait ++ [(e.id, [])] })) ∧
    (e.size ≠ 1 → s.f.replays.look e.id 0 < 17 → exec .linkRetrain s = .next s) ∧
    (∀ port, s.f.jobs = [] → let t := s.portDown port
      (∀ n, t.portUp n = (s.portUp n && decide (n ≠ port))) ∧ t.f.replays.look port 0 = 0 ∧ t.f.planes = s.f.planes ∧
        t.f.jobs = [] ∧ t.r = s.r ∧ t.m = s.m) ∧
    (e.size = 1 → e.list ≠ [] → s.fabricHeld = true →
      exec .linkRetrain s = .next { s with f.portWait := s.f.portWait ++ [(e.id, e.list)] }) ∧
    (e.size = 1 → s.fabricHeld = false → s.f.jobs = [] → ∃ t, exec .linkRetrain s = .next t ∧ t.f.down = s.f.down ∧
      t.r = s.r ∧ t.m = s.m ∧ ∀ d n, n ∈ t.planesTo d ↔ n ∈ s.planesTo d ∧ ¬ (d ∈ e.list ∧ n = e.id)) ∧
    ((s.fabricHeld = true ↔ ∃ c, (s.ctrl 4).upd = some (.held c) ∨ (s.ctrl 4).upd = some (.rolling c)) ∧
      (s.fabricHeld = true → s.applyPorts = s) ∧
      ∀ port, s.fabricHeld = false → s.f.portWait = [(port, [])] →
        s.applyPorts = ({ s with f.portWait := [] } : State).portDown port) ∧
    (∀ core d, d ≠ s.f.dev → (s.reachable d = true ↔ (s.pathPort core d).isSome = true) ∧
      ∀ p, s.pathPort core d = some p → p ∈ s.planesTo d ∧ s.portUp p = true ∧ p ∈ s.f.planes.look d [] ∧
        (∃ i < 16, p = 16 * (p / 16) + (core + d + i) % 16 ∧
          ∀ j < i, 16 * (p / 16) + (core + d + j) % 16 ∉ s.planesTo d) ∧
        ((∃ q ∈ s.planesTo d, q / 16 = core / 192) → p / 16 = core / 192) ∧
        ((∀ q ∈ s.planesTo d, q / 16 ≠ core / 192) → ∀ q ∈ s.planesTo d, p / 16 ≤ q / 16)) ∧
    (∀ x ∈ [Traffic.load, .atomic, .fill, .podMsg], x.tier = 0) ∧
    (∀ x ∈ [Traffic.store, .bin, .copy, .reshardRead], x.tier = 1) ∧
    (∀ x ∈ [Traffic.migration, .migControl], x.tier = 2) ∧
    (∀ (x y : Traffic) a b, x.channel a = y.channel b ↔ x.tier = y.tier ∧ a = b) ∧
    (let waiting := e.list.map fun n => (Traffic.ofNum n).tier
     let t := s.addArrears e.id e.value waiting
     let owed := fun n => s.arrearsLimit n ≤ t.f.arrears.look (e.id, n) 0
     let grant := t.grantTier e.id waiting
     (∀ p n, t.f.arrears.look (p, n) 0 =
       s.f.arrears.look (p, n) 0 + if p = e.id ∧ (n = 1 ∨ n = 2) ∧ n ∈ waiting then e.value else 0) ∧
     { t with f.arrears := s.f.arrears } = s ∧
     (s.arrearsLimit 1 = max 1 ((s.coreReg 0 0x82).toNat % 65536) ∧ s.arrearsLimit 2 = max 1 ((s.coreReg 0 0x83).toNat % 65536)) ∧
     (1 ∈ waiting → owed 1 → grant = some 1) ∧
     (¬ (1 ∈ waiting ∧ owed 1) → 2 ∈ waiting → owed 2 → grant = some 2) ∧
     (¬ (1 ∈ waiting ∧ owed 1) → ¬ (2 ∈ waiting ∧ owed 2) → grant =
       if 0 ∈ waiting then some 0 else if 1 ∈ waiting then some 1 else if 2 ∈ waiting then some 2 else none) ∧
     (e.flag = false ∨ grant = none → exec .arrearsWin s = .next t) ∧
     ∀ k, e.flag = true → grant = some k → exec .arrearsWin s = .next { t with
       f.grants := t.f.grants.put e.id k
       f.arrears := if k ≠ 0 ∧ owed k then t.f.arrears.put (e.id, k) 0 else t.f.arrears }) ∧
    (e.id < 65536 → e.value < 65536 → 2 ≤ e.list.length → e.list.length ≤ 512 → s.f.dev ∈ e.list →
      (∀ j ∈ s.f.jobs, j.asid ≠ e.value ∧ j.num ≠ e.id) → exec .podJobRegister s = .next { s with
        f.jobs := s.f.jobs ++ [{ num := e.id, asid := e.value, devs := e.list }] }) ∧
    (∀ j ∈ s.f.jobs, j.asid = e.value → exec .podJobRegister s = .next s) ∧
    (∀ j, s.job? e.id = some j →
      (e.size = 2 → exec .podArrivalMsg s = .next { s with f.jobs := s.f.jobs.map fun (x : PodJob) =>
          if x.num = j.num then { x with settled := (e.value :: x.settled).eraseDups } else x } ∧
        exec .podCompletionMsg s = .next { s with f.jobs := s.f.jobs.map fun (x : PodJob) =>
          if x.num = j.num then { x with settled := x.devs } else x }) ∧
      (e.size ≠ 2 → e.value = s.f.dev → exec .podArrivalMsg s = .next (s.checkRound e.podRound)) ∧
      (e.size ≠ 2 → j.leader = s.f.dev → e.value ≠ s.f.dev → e.value ∈ j.devs → exec .podArrivalMsg s = .next
        (({ s with f.jobs := s.f.jobs.map fun (x : PodJob) =>
          if x.num = j.num then { x with arrived := ((e.value, min e.size 1) :: x.arrived).eraseDups } else x } :
            State).checkRound e.podRound)) ∧
      (e.size ≠ 2 → min e.size 1 ∈ j.told → exec .podCompletionMsg s = .next (s.complete e.podRound))) ∧
    (∀ asid page dest, e.list = [asid, page, dest] →
      (e.n = 0 → exec .migrationRun s = .next (s.migrationHold asid page dest)) ∧
      (e.n = 0 → (asid, page) ∉ s.f.migHold → dest = s.f.dev → s.f.migPool ≠ [] →
        (∃ m ∈ s.f.migQ, m.asid = asid ∧ m.va = page) → ∃ t, exec .migrationRun s = .next t ∧
          (asid, page) ∈ t.f.migHold ∧ (∀ m ∈ t.f.migQ, ¬ (m.asid = asid ∧ m.va = page)) ∧ t.m = s.m ∧ t.r = s.r) ∧
      (e.n = 1 → (asid, page) ∈ s.f.migHold → s.migBusy asid page = false →
        exec .migrationRun s = .next (s.migrationEnd asid page dest e.value)) ∧
      (e.n = 2 → (asid, page) ∈ s.f.migHold → ∃ t, exec .migrationRun s = .next t ∧
        t = s.releaseHold asid page (((s.anyWalk asid page).map (·.size)).getD 65536)) ∧
      (e.n = 3 → ∃ t, exec .migrationRun s = .next t ∧ { t with f.migFar := s.f.migFar } = s ∧
        ∀ x, x ∈ t.f.migFar ↔ x = (asid, page) ∨ x ∈ s.f.migFar) ∧
      (e.n = 4 → ∃ t, exec .migrationRun s = .next t ∧ { t with f.migFar := s.f.migFar } = s ∧
        ∀ x, x ∈ t.f.migFar ↔ x ≠ (asid, page) ∧ x ∈ s.f.migFar))

/-- The re-shard engine (R438 to R446): a command is accepted once what a round put before it is performed, and has ended where its
record says so, or else begins, afresh or from its recorded progress (RESUMED is set also at STEP 0, log entry 54), and asks for
its tenure; or it is refused with its code in Sd. At most 64 steps of a die are in flight; a step that a recalled access waits for
starts ahead of every other, a recall waits for the steps that are to write to its line, under the engine's tenure or its team's,
and a stopped command keeps no access waiting for a step that has not started; a started step moves its row, byte by byte from
source to destination, its bytes poisoning where the source was poisoned, or stops the command with the error it meets; progress
is written to words 0 to 3 of the record; a save, an abort, or the delivery limit of a read from another module stops a command;
one that is through or stopped, with no step in flight, writes its record, one stopped while queued keeping its words (log entry
54), delivers its status unless its grid was aborted, and gives up its tenure. -/
def Obligations.ReshardEvents : Prop :=
  ∀ (s : State) (r : Rsh), s.rsh? s.u.ev.id = some r →
    (r.phase = .asked → (s.split? r.sid).isSome = true → s.rshBehind r = false → exec .reshardAccept s = .next s) ∧
    (s.rshBehind r = true ↔ ∀ a ∈ s.k.acc, s.beforeRound a r.team r.seq = false) ∧
    (r.phase = .asked → (s.split? r.sid).isSome = true → s.rshBehind r = true →
      let t := s.rshReads r
      let a := t.acceptance r
      (a.1 = 0 → exec .reshardAccept s = .next (t.rshBegin a.2)) ∧
      (a.1 ≠ 0 → exec .reshardAccept s = .next (((t.rshAnswer r a.1).rshDeliver r none).dropRsh r))) ∧
    (r.phase = .asked → (s.split? r.sid).isSome = false → exec .reshardAccept s = .next (s.dropRsh r)) ∧
    (let w := s.recWordAt r
     let done := decide (w 5 = r.crc) && bit (w 4) 31 && decide (w 4 % 16 = 0)
     let again := decide (w 5 = r.crc ∧ w 1 = r.steps)
     let tile := s.tileOf r.handle
     (done = true → s.rshBegin r = (((s.setRec r 4 (w 4)).rshAnswer r 0).rshDeliver r (some (BitVec.ofNat 32 (w 4)))).dropRsh r) ∧
     (done = false → let t := s.rshBegin r
       (∃ x ∈ t.e.rsh, x.id = r.id ∧ x.step = (if again = true then w 0 else 0) ∧
         x.bytes = (if again = true then w 2 + 2 ^ 32 * w 3 else 0) ∧ x.resumed = again ∧ x.phase ≠ .asked) ∧
       t.e.reqs = s.e.reqs ++ if r.own = true then
         [{ holder := .reshard r.id, team := r.team, write := true, tile := some tile.key, foot := tile.foot, since := s.u.clk }]
         else [])) ∧
    (∀ b a d, s.MemWf → s.rshSeek r b.2 false = some a → s.rshSeek r b.1 true = some d →
      let ls := s.locOf a (a.pa b.2)
      let ld := s.locOf d (d.pa b.1)
      (inHost (a.pa b.2) = true ∨ s.keyAt (ls / 128) = s.keyId (ls / 128) a.key) →
      (inHost (d.pa b.1) = true ∨ s.keyAt (ld / 128) = s.keyId (ld / 128) d.key) → s.retiredAt d (d.pa b.1) = false →
      let t := s.rshByte r b
      t.load ld 1 = s.load ls 1 ∧ (∀ x, x ≠ ld → t.load x 1 = s.load x 1) ∧
        (s.poisoned ls 1 = true ∨ s.retiredAt a (a.pa b.2) = true ∨ (inHost (a.pa b.2) = true ∧ s.u.ev.value = 1) →
          t.poisoned ld 1 = true ∧
          ∀ x ∈ t.e.rsh, x.id = r.id → x.poison = true)) ∧
    (∀ i v, s.MemWf → let pa := r.page.pa (r.recVa + 4 * i)
      let loc := s.locOf r.page pa
      (inHost pa = true ∨ s.keyAt (loc / 128) = s.keyId (loc / 128) r.page.key) → s.retiredAt r.page pa = false →
      (s.setRec r i v).load loc 4 = v % 2 ^ 32 ∧ ∀ b, b < loc ∨ loc + 4 ≤ b → (s.setRec r i v).load b 1 = s.load b 1) ∧
    (∀ p code, s.split? r.sid = some p →
      (∀ c ∈ p.slices, (s.rshAnswer r code).getS ⟨p.team, p.group, c⟩ r.sd = BitVec.ofNat 32 code) ∧
      (s.rshAnswer r code).split? r.sid = some { p with park := .run } ∧ (s.rshAnswer r code).m = s.m) ∧
    (∀ k, (s.rshMayStart r k = true ↔ r.todo k = true ∧
      ((∃ j ∈ s.rshRecalled r, r.todo j = true) → k ∈ s.rshRecalled r))) ∧
    (∀ pa, (s.rshOwes r pa = true ↔ ∃ k ∈ s.rshSteps r pa, r.stop = none ∨ ∃ x ∈ r.started, x.1 = k) ∧
      (r.stop.isSome = true → r.started = [] → s.rshOwes r pa = false)) ∧
    (∀ (ag : Agent) pa loc seq, ag.engine = none → s.rshOwes r pa = true → s.holderClear ag r.holding pa loc seq = false) ∧
    (s.u.ev.flag = true → 64 ≤ s.rshFlying r.die → exec .reshardStepComplete s = .next s) ∧
    (s.u.ev.flag = true → s.rshGoes r = true → s.rshMayStart r s.u.ev.n = true → s.rshFlying r.die < 64 →
      exec .reshardStepComplete s = .next (s.modRsh r.id fun x => { x with started := x.started ++ [(s.u.ev.n, s.u.clk)] })) ∧
    (∀ m x, s.u.ev.flag = false → r.plan[s.u.ev.n]? = some m → r.started.find? (fun x => decide (x.1 = s.u.ev.n)) = some x →
      let gone := fun (t : State) => t.modRsh r.id fun y => { y with started := y.started.erase x }
      (s.stepCode r m ≠ 0 → exec .reshardStepComplete s = .next
        ((gone s).modRsh r.id fun y => { y with stop := some (y.stop.getD (s.stepCode r m)) })) ∧
      (s.stepCode r m = 0 → s.rshMayWrite r m = false → exec .reshardStepComplete s = .next
        ((s.rshTargets r m).foldl (fun (t : State) x => t.callLine (s.rshAgent r) x.1 x.2 true) s)) ∧
      (s.stepCode r m = 0 → s.rshMayWrite r m = true → exec .reshardStepComplete s = .next
        ((gone (s.rshRow r m)).modRsh r.id fun y =>
          Rsh.settle { y with complete := y.complete ++ [s.u.ev.n] } r.plan (y.complete.length + 1)))) ∧
    (∀ m, ∃ u, s.rshRow r m = (rowBytes m).foldl (fun (t : State) b => t.rshByte r b) u ∧ { u with p.life := s.p.life } = s ∧
      ((∀ b ∈ rowBytes m, s.rshBad r b.2 = none) → u = s)) ∧
    (r.phase ≠ .asked → exec .progressWrite s = .next
      (((((s.setRec r 0 r.step).setRec r 1 r.steps).setRec r 2 (r.bytes % 2 ^ 32)).setRec r 3 (r.bytes / 2 ^ 32)).modRsh r.id
        fun x => { x with lastWrite := s.u.clk })) ∧
    (r.phase ≠ .asked → s.u.ev.flag = false → s.rshAborted r = true ∨ (s.team r.team).status = .saving →
      exec .reshardStop s = .next (s.modRsh r.id fun x => { x with stop := some (x.stop.getD 1) })) ∧
    (∀ x, r.phase ≠ .asked → s.u.ev.flag = true → r.started.find? (fun x => decide (x.1 = s.u.ev.n)) = some x →
      ((∃ m, r.plan[x.1]? = some m ∧ s.rshAway r m = true) → x.2 + 2 ^ 24 ≤ s.u.clk → exec .reshardStop s = .next
        (s.modRsh r.id fun y => { y with started := y.started.erase x, stop := some (y.stop.getD 4) })) ∧
      ((∀ m, r.plan[x.1]? = some m → s.rshAway r m = false) → exec .reshardStop s = .next s)) ∧
    (r.phase ≠ .asked → r.started = [] → (r.phase = .running ∧ r.steps ≤ r.step) ∨ r.stop.isSome = true →
      let t := ((((s.writeProgress r).setRec r 4 (s.rshStatus r false).toNat).setRec r 5 r.crc).setRec r 6
        (s.f.dev % 512 + r.die * 512)).setRec r 7 0
      exec .reshardEnd s = .next
        ((if s.rshAborted r = true then t else t.rshDeliver r (some (s.rshStatus r false))).dropRsh r)) ∧
    (r.phase ≠ .asked → r.started = [] → (r.phase = .running ∧ r.steps ≤ r.step) ∨ r.stop.isSome = true →
      ∃ t, exec .reshardEnd s = .next t ∧ (∀ x ∈ t.e.rsh, x.id ≠ r.id) ∧ (∀ h ∈ t.e.tens, h.holder ≠ .reshard r.id) ∧
        (∀ h ∈ t.e.reqs, h.holder ≠ .reshard r.id) ∧
        (∀ v, r.vs = some v → s.rshAborted r = false → ∀ l ∈ r.slanes,
          t.getV ⟨r.team, r.group, l⟩ v = s.rshStatus r false ∧ t.isEmpty ⟨r.team, r.group, l⟩ v = false)) ∧
    (s.rshStatus r false).getLsbD 31 = true ∧ (s.rshStatus r false).toNat % 16 = r.code % 16
end

