-- ==== Sys2Proof/Laws/State.lean ====
section
/-! SUPPORT. What each update of the state leaves alone: one lemma per field per update, true by rfl. -/

namespace Sys2Proof.Machine

@[simp] theorem State.putV_r_ve (s : State) (l : LaneId) (n : Nat) (w : Word) : (s.putV l n w).r.ve = s.r.ve := rfl
@[simp] theorem State.putV_r_sr (s : State) (l : LaneId) (n : Nat) (w : Word) : (s.putV l n w).r.sr = s.r.sr := rfl
@[simp] theorem State.putV_r_mr (s : State) (l : LaneId) (n : Nat) (w : Word) : (s.putV l n w).r.mr = s.r.mr := rfl
@[simp] theorem State.putV_r_cn (s : State) (l : LaneId) (n : Nat) (w : Word) : (s.putV l n w).r.cn = s.r.cn := rfl
@[simp] theorem State.putV_r_sl (s : State) (l : LaneId) (n : Nat) (w : Word) : (s.putV l n w).r.sl = s.r.sl := rfl
@[simp] theorem State.putV_r_ln (s : State) (l : LaneId) (n : Nat) (w : Word) : (s.putV l n w).r.ln = s.r.ln := rfl
@[simp] theorem State.putV_r_gr (s : State) (l : LaneId) (n : Nat) (w : Word) : (s.putV l n w).r.gr = s.r.gr := rfl
@[simp] theorem State.putV_x_teams (s : State) (l : LaneId) (n : Nat) (w : Word) : (s.putV l n w).x.teams = s.x.teams := rfl
@[simp] theorem State.putV_x_grids (s : State) (l : LaneId) (n : Nat) (w : Word) : (s.putV l n w).x.grids = s.x.grids := rfl
@[simp] theorem State.putV_x_splits (s : State) (l : LaneId) (n : Nat) (w : Word) : (s.putV l n w).x.splits = s.x.splits := rfl
@[simp] theorem State.putV_m (s : State) (l : LaneId) (n : Nat) (w : Word) : (s.putV l n w).m = s.m := rfl
@[simp] theorem State.putV_k (s : State) (l : LaneId) (n : Nat) (w : Word) : (s.putV l n w).k = s.k := rfl
@[simp] theorem State.putV_g (s : State) (l : LaneId) (n : Nat) (w : Word) : (s.putV l n w).g = s.g := rfl
@[simp] theorem State.putV_e (s : State) (l : LaneId) (n : Nat) (w : Word) : (s.putV l n w).e = s.e := rfl
@[simp] theorem State.putV_d (s : State) (l : LaneId) (n : Nat) (w : Word) : (s.putV l n w).d = s.d := rfl
@[simp] theorem State.putV_f (s : State) (l : LaneId) (n : Nat) (w : Word) : (s.putV l n w).f = s.f := rfl
@[simp] theorem State.putV_p (s : State) (l : LaneId) (n : Nat) (w : Word) : (s.putV l n w).p = s.p := rfl
@[simp] theorem State.putV_u (s : State) (l : LaneId) (n : Nat) (w : Word) : (s.putV l n w).u = s.u := rfl

@[simp] theorem State.setEmpty_r_v (s : State) (l : LaneId) (n : Nat) (e : Bool) : (s.setEmpty l n e).r.v = s.r.v := rfl
@[simp] theorem State.setEmpty_r_sr (s : State) (l : LaneId) (n : Nat) (e : Bool) : (s.setEmpty l n e).r.sr = s.r.sr := rfl
@[simp] theorem State.setEmpty_r_mr (s : State) (l : LaneId) (n : Nat) (e : Bool) : (s.setEmpty l n e).r.mr = s.r.mr := rfl
@[simp] theorem State.setEmpty_r_cn (s : State) (l : LaneId) (n : Nat) (e : Bool) : (s.setEmpty l n e).r.cn = s.r.cn := rfl
@[simp] theorem State.setEmpty_r_sl (s : State) (l : LaneId) (n : Nat) (e : Bool) : (s.setEmpty l n e).r.sl = s.r.sl := rfl
@[simp] theorem State.setEmpty_r_ln (s : State) (l : LaneId) (n : Nat) (e : Bool) : (s.setEmpty l n e).r.ln = s.r.ln := rfl
@[simp] theorem State.setEmpty_r_gr (s : State) (l : LaneId) (n : Nat) (e : Bool) : (s.setEmpty l n e).r.gr = s.r.gr := rfl
@[simp] theorem State.setEmpty_x_teams (s : State) (l : LaneId) (n : Nat) (e : Bool) : (s.setEmpty l n e).x.teams = s.x.teams := rfl
@[simp] theorem State.setEmpty_x_grids (s : State) (l : LaneId) (n : Nat) (e : Bool) : (s.setEmpty l n e).x.grids = s.x.grids := rfl
@[simp] theorem State.setEmpty_x_splits (s : State) (l : LaneId) (n : Nat) (e : Bool) : (s.setEmpty l n e).x.splits = s.x.splits := rfl
@[simp] theorem State.setEmpty_m (s : State) (l : LaneId) (n : Nat) (e : Bool) : (s.setEmpty l n e).m = s.m := rfl
@[simp] theorem State.setEmpty_k (s : State) (l : LaneId) (n : Nat) (e : Bool) : (s.setEmpty l n e).k = s.k := rfl
@[simp] theorem State.setEmpty_g (s : State) (l : LaneId) (n : Nat) (e : Bool) : (s.setEmpty l n e).g = s.g := rfl
@[simp] theorem State.setEmpty_e (s : State) (l : LaneId) (n : Nat) (e : Bool) : (s.setEmpty l n e).e = s.e := rfl
@[simp] theorem State.setEmpty_d (s : State) (l : LaneId) (n : Nat) (e : Bool) : (s.setEmpty l n e).d = s.d := rfl
@[simp] theorem State.setEmpty_f (s : State) (l : LaneId) (n : Nat) (e : Bool) : (s.setEmpty l n e).f = s.f := rfl
@[simp] theorem State.setEmpty_p (s : State) (l : LaneId) (n : Nat) (e : Bool) : (s.setEmpty l n e).p = s.p := rfl
@[simp] theorem State.setEmpty_u (s : State) (l : LaneId) (n : Nat) (e : Bool) : (s.setEmpty l n e).u = s.u := rfl

@[simp] theorem State.setV_r_sr (s : State) (l : LaneId) (n : Nat) (w : Word) : (s.setV l n w).r.sr = s.r.sr := rfl
@[simp] theorem State.setV_r_mr (s : State) (l : LaneId) (n : Nat) (w : Word) : (s.setV l n w).r.mr = s.r.mr := rfl
@[simp] theorem State.setV_r_cn (s : State) (l : LaneId) (n : Nat) (w : Word) : (s.setV l n w).r.cn = s.r.cn := rfl
@[simp] theorem State.setV_r_sl (s : State) (l : LaneId) (n : Nat) (w : Word) : (s.setV l n w).r.sl = s.r.sl := rfl
@[simp] theorem State.setV_r_ln (s : State) (l : LaneId) (n : Nat) (w : Word) : (s.setV l n w).r.ln = s.r.ln := rfl
@[simp] theorem State.setV_r_gr (s : State) (l : LaneId) (n : Nat) (w : Word) : (s.setV l n w).r.gr = s.r.gr := rfl
@[simp] theorem State.setV_x_teams (s : State) (l : LaneId) (n : Nat) (w : Word) : (s.setV l n w).x.teams = s.x.teams := rfl
@[simp] theorem State.setV_x_grids (s : State) (l : LaneId) (n : Nat) (w : Word) : (s.setV l n w).x.grids = s.x.grids := rfl
@[simp] theorem State.setV_x_splits (s : State) (l : LaneId) (n : Nat) (w : Word) : (s.setV l n w).x.splits = s.x.splits := rfl
@[simp] theorem State.setV_m (s : State) (l : LaneId) (n : Nat) (w : Word) : (s.setV l n w).m = s.m := rfl
@[simp] theorem State.setV_k (s : State) (l : LaneId) (n : Nat) (w : Word) : (s.setV l n w).k = s.k := rfl
@[simp] theorem State.setV_g (s : State) (l : LaneId) (n : Nat) (w : Word) : (s.setV l n w).g = s.g := rfl
@[simp] theorem State.setV_e (s : State) (l : LaneId) (n : Nat) (w : Word) : (s.setV l n w).e = s.e := rfl
@[simp] theorem State.setV_d (s : State) (l : LaneId) (n : Nat) (w : Word) : (s.setV l n w).d = s.d := rfl
@[simp] theorem State.setV_f (s : State) (l : LaneId) (n : Nat) (w : Word) : (s.setV l n w).f = s.f := rfl
@[simp] theorem State.setV_p (s : State) (l : LaneId) (n : Nat) (w : Word) : (s.setV l n w).p = s.p := rfl
@[simp] theorem State.setV_u (s : State) (l : LaneId) (n : Nat) (w : Word) : (s.setV l n w).u = s.u := rfl

@[simp] theorem State.setS_r_v (s : State) (c : SliceId) (n : Nat) (w : Word) : (s.setS c n w).r.v = s.r.v := rfl
@[simp] theorem State.setS_r_ve (s : State) (c : SliceId) (n : Nat) (w : Word) : (s.setS c n w).r.ve = s.r.ve := rfl
@[simp] theorem State.setS_r_mr (s : State) (c : SliceId) (n : Nat) (w : Word) : (s.setS c n w).r.mr = s.r.mr := rfl
@[simp] theorem State.setS_r_cn (s : State) (c : SliceId) (n : Nat) (w : Word) : (s.setS c n w).r.cn = s.r.cn := rfl
@[simp] theorem State.setS_r_sl (s : State) (c : SliceId) (n : Nat) (w : Word) : (s.setS c n w).r.sl = s.r.sl := rfl
@[simp] theorem State.setS_r_ln (s : State) (c : SliceId) (n : Nat) (w : Word) : (s.setS c n w).r.ln = s.r.ln := rfl
@[simp] theorem State.setS_r_gr (s : State) (c : SliceId) (n : Nat) (w : Word) : (s.setS c n w).r.gr = s.r.gr := rfl
@[simp] theorem State.setS_x_teams (s : State) (c : SliceId) (n : Nat) (w : Word) : (s.setS c n w).x.teams = s.x.teams := rfl
@[simp] theorem State.setS_x_grids (s : State) (c : SliceId) (n : Nat) (w : Word) : (s.setS c n w).x.grids = s.x.grids := rfl
@[simp] theorem State.setS_x_splits (s : State) (c : SliceId) (n : Nat) (w : Word) : (s.setS c n w).x.splits = s.x.splits := rfl
@[simp] theorem State.setS_m (s : State) (c : SliceId) (n : Nat) (w : Word) : (s.setS c n w).m = s.m := rfl
@[simp] theorem State.setS_k (s : State) (c : SliceId) (n : Nat) (w : Word) : (s.setS c n w).k = s.k := rfl
@[simp] theorem State.setS_g (s : State) (c : SliceId) (n : Nat) (w : Word) : (s.setS c n w).g = s.g := rfl
@[simp] theorem State.setS_e (s : State) (c : SliceId) (n : Nat) (w : Word) : (s.setS c n w).e = s.e := rfl
@[simp] theorem State.setS_d (s : State) (c : SliceId) (n : Nat) (w : Word) : (s.setS c n w).d = s.d := rfl
@[simp] theorem State.setS_f (s : State) (c : SliceId) (n : Nat) (w : Word) : (s.setS c n w).f = s.f := rfl
@[simp] theorem State.setS_p (s : State) (c : SliceId) (n : Nat) (w : Word) : (s.setS c n w).p = s.p := rfl
@[simp] theorem State.setS_u (s : State) (c : SliceId) (n : Nat) (w : Word) : (s.setS c n w).u = s.u := rfl

@[simp] theorem State.setC_r_v (s : State) (c : SliceId) (n v : Nat) : (s.setC c n v).r.v = s.r.v := rfl
@[simp] theorem State.setC_r_ve (s : State) (c : SliceId) (n v : Nat) : (s.setC c n v).r.ve = s.r.ve := rfl
@[simp] theorem State.setC_r_sr (s : State) (c : SliceId) (n v : Nat) : (s.setC c n v).r.sr = s.r.sr := rfl
@[simp] theorem State.setC_r_mr (s : State) (c : SliceId) (n v : Nat) : (s.setC c n v).r.mr = s.r.mr := rfl
@[simp] theorem State.setC_r_sl (s : State) (c : SliceId) (n v : Nat) : (s.setC c n v).r.sl = s.r.sl := rfl
@[simp] theorem State.setC_r_ln (s : State) (c : SliceId) (n v : Nat) : (s.setC c n v).r.ln = s.r.ln := rfl
@[simp] theorem State.setC_r_gr (s : State) (c : SliceId) (n v : Nat) : (s.setC c n v).r.gr = s.r.gr := rfl
@[simp] theorem State.setC_x_teams (s : State) (c : SliceId) (n v : Nat) : (s.setC c n v).x.teams = s.x.teams := rfl
@[simp] theorem State.setC_x_grids (s : State) (c : SliceId) (n v : Nat) : (s.setC c n v).x.grids = s.x.grids := rfl
@[simp] theorem State.setC_x_splits (s : State) (c : SliceId) (n v : Nat) : (s.setC c n v).x.splits = s.x.splits := rfl
@[simp] theorem State.setC_m (s : State) (c : SliceId) (n v : Nat) : (s.setC c n v).m = s.m := rfl
@[simp] theorem State.setC_k (s : State) (c : SliceId) (n v : Nat) : (s.setC c n v).k = s.k := rfl
@[simp] theorem State.setC_g (s : State) (c : SliceId) (n v : Nat) : (s.setC c n v).g = s.g := rfl
@[simp] theorem State.setC_e (s : State) (c : SliceId) (n v : Nat) : (s.setC c n v).e = s.e := rfl
@[simp] theorem State.setC_d (s : State) (c : SliceId) (n v : Nat) : (s.setC c n v).d = s.d := rfl
@[simp] theorem State.setC_f (s : State) (c : SliceId) (n v : Nat) : (s.setC c n v).f = s.f := rfl
@[simp] theorem State.setC_p (s : State) (c : SliceId) (n v : Nat) : (s.setC c n v).p = s.p := rfl
@[simp] theorem State.setC_u (s : State) (c : SliceId) (n v : Nat) : (s.setC c n v).u = s.u := rfl

@[simp] theorem State.lowerC_r_v (s : State) (c : SliceId) (n : Nat) : (s.lowerC c n).r.v = s.r.v := rfl
@[simp] theorem State.lowerC_r_ve (s : State) (c : SliceId) (n : Nat) : (s.lowerC c n).r.ve = s.r.ve := rfl
@[simp] theorem State.lowerC_r_sr (s : State) (c : SliceId) (n : Nat) : (s.lowerC c n).r.sr = s.r.sr := rfl
@[simp] theorem State.lowerC_r_mr (s : State) (c : SliceId) (n : Nat) : (s.lowerC c n).r.mr = s.r.mr := rfl
@[simp] theorem State.lowerC_r_sl (s : State) (c : SliceId) (n : Nat) : (s.lowerC c n).r.sl = s.r.sl := rfl
@[simp] theorem State.lowerC_r_ln (s : State) (c : SliceId) (n : Nat) : (s.lowerC c n).r.ln = s.r.ln := rfl
@[simp] theorem State.lowerC_r_gr (s : State) (c : SliceId) (n : Nat) : (s.lowerC c n).r.gr = s.r.gr := rfl
@[simp] theorem State.lowerC_x_teams (s : State) (c : SliceId) (n : Nat) : (s.lowerC c n).x.teams = s.x.teams := rfl
@[simp] theorem State.lowerC_x_grids (s : State) (c : SliceId) (n : Nat) : (s.lowerC c n).x.grids = s.x.grids := rfl
@[simp] theorem State.lowerC_x_splits (s : State) (c : SliceId) (n : Nat) : (s.lowerC c n).x.splits = s.x.splits := rfl
@[simp] theorem State.lowerC_m (s : State) (c : SliceId) (n : Nat) : (s.lowerC c n).m = s.m := rfl
@[simp] theorem State.lowerC_k (s : State) (c : SliceId) (n : Nat) : (s.lowerC c n).k = s.k := rfl
@[simp] theorem State.lowerC_g (s : State) (c : SliceId) (n : Nat) : (s.lowerC c n).g = s.g := rfl
@[simp] theorem State.lowerC_e (s : State) (c : SliceId) (n : Nat) : (s.lowerC c n).e = s.e := rfl
@[simp] theorem State.lowerC_d (s : State) (c : SliceId) (n : Nat) : (s.lowerC c n).d = s.d := rfl
@[simp] theorem State.lowerC_f (s : State) (c : SliceId) (n : Nat) : (s.lowerC c n).f = s.f := rfl
@[simp] theorem State.lowerC_p (s : State) (c : SliceId) (n : Nat) : (s.lowerC c n).p = s.p := rfl
@[simp] theorem State.lowerC_u (s : State) (c : SliceId) (n : Nat) : (s.lowerC c n).u = s.u := rfl

@[simp] theorem State.setSlc_r_v (s : State) (c : SliceId) (v : Slice) : (s.setSlc c v).r.v = s.r.v := rfl
@[simp] theorem State.setSlc_r_ve (s : State) (c : SliceId) (v : Slice) : (s.setSlc c v).r.ve = s.r.ve := rfl
@[simp] theorem State.setSlc_r_sr (s : State) (c : SliceId) (v : Slice) : (s.setSlc c v).r.sr = s.r.sr := rfl
@[simp] theorem State.setSlc_r_mr (s : State) (c : SliceId) (v : Slice) : (s.setSlc c v).r.mr = s.r.mr := rfl
@[simp] theorem State.setSlc_r_cn (s : State) (c : SliceId) (v : Slice) : (s.setSlc c v).r.cn = s.r.cn := rfl
@[simp] theorem State.setSlc_r_ln (s : State) (c : SliceId) (v : Slice) : (s.setSlc c v).r.ln = s.r.ln := rfl
@[simp] theorem State.setSlc_r_gr (s : State) (c : SliceId) (v : Slice) : (s.setSlc c v).r.gr = s.r.gr := rfl
@[simp] theorem State.setSlc_x_teams (s : State) (c : SliceId) (v : Slice) : (s.setSlc c v).x.teams = s.x.teams := rfl
@[simp] theorem State.setSlc_x_grids (s : State) (c : SliceId) (v : Slice) : (s.setSlc c v).x.grids = s.x.grids := rfl
@[simp] theorem State.setSlc_x_splits (s : State) (c : SliceId) (v : Slice) : (s.setSlc c v).x.splits = s.x.splits := rfl
@[simp] theorem State.setSlc_m (s : State) (c : SliceId) (v : Slice) : (s.setSlc c v).m = s.m := rfl
@[simp] theorem State.setSlc_k (s : State) (c : SliceId) (v : Slice) : (s.setSlc c v).k = s.k := rfl
@[simp] theorem State.setSlc_g (s : State) (c : SliceId) (v : Slice) : (s.setSlc c v).g = s.g := rfl
@[simp] theorem State.setSlc_e (s : State) (c : SliceId) (v : Slice) : (s.setSlc c v).e = s.e := rfl
@[simp] theorem State.setSlc_d (s : State) (c : SliceId) (v : Slice) : (s.setSlc c v).d = s.d := rfl
@[simp] theorem State.setSlc_f (s : State) (c : SliceId) (v : Slice) : (s.setSlc c v).f = s.f := rfl
@[simp] theorem State.setSlc_p (s : State) (c : SliceId) (v : Slice) : (s.setSlc c v).p = s.p := rfl
@[simp] theorem State.setSlc_u (s : State) (c : SliceId) (v : Slice) : (s.setSlc c v).u = s.u := rfl

@[simp] theorem State.modSlc_r_v (s : State) (c : SliceId) (h : Slice → Slice) : (s.modSlc c h).r.v = s.r.v := rfl
@[simp] theorem State.modSlc_r_ve (s : State) (c : SliceId) (h : Slice → Slice) : (s.modSlc c h).r.ve = s.r.ve := rfl
@[simp] theorem State.modSlc_r_sr (s : State) (c : SliceId) (h : Slice → Slice) : (s.modSlc c h).r.sr = s.r.sr := rfl
@[simp] theorem State.modSlc_r_mr (s : State) (c : SliceId) (h : Slice → Slice) : (s.modSlc c h).r.mr = s.r.mr := rfl
@[simp] theorem State.modSlc_r_cn (s : State) (c : SliceId) (h : Slice → Slice) : (s.modSlc c h).r.cn = s.r.cn := rfl
@[simp] theorem State.modSlc_r_ln (s : State) (c : SliceId) (h : Slice → Slice) : (s.modSlc c h).r.ln = s.r.ln := rfl
@[simp] theorem State.modSlc_r_gr (s : State) (c : SliceId) (h : Slice → Slice) : (s.modSlc c h).r.gr = s.r.gr := rfl
@[simp] theorem State.modSlc_x_teams (s : State) (c : SliceId) (h : Slice → Slice) : (s.modSlc c h).x.teams = s.x.teams := rfl
@[simp] theorem State.modSlc_x_grids (s : State) (c : SliceId) (h : Slice → Slice) : (s.modSlc c h).x.grids = s.x.grids := rfl
@[simp] theorem State.modSlc_x_splits (s : State) (c : SliceId) (h : Slice → Slice) : (s.modSlc c h).x.splits = s.x.splits := rfl
@[simp] theorem State.modSlc_m (s : State) (c : SliceId) (h : Slice → Slice) : (s.modSlc c h).m = s.m := rfl
@[simp] theorem State.modSlc_k (s : State) (c : SliceId) (h : Slice → Slice) : (s.modSlc c h).k = s.k := rfl
@[simp] theorem State.modSlc_g (s : State) (c : SliceId) (h : Slice → Slice) : (s.modSlc c h).g = s.g := rfl
@[simp] theorem State.modSlc_e (s : State) (c : SliceId) (h : Slice → Slice) : (s.modSlc c h).e = s.e := rfl
@[simp] theorem State.modSlc_d (s : State) (c : SliceId) (h : Slice → Slice) : (s.modSlc c h).d = s.d := rfl
@[simp] theorem State.modSlc_f (s : State) (c : SliceId) (h : Slice → Slice) : (s.modSlc c h).f = s.f := rfl
@[simp] theorem State.modSlc_p (s : State) (c : SliceId) (h : Slice → Slice) : (s.modSlc c h).p = s.p := rfl
@[simp] theorem State.modSlc_u (s : State) (c : SliceId) (h : Slice → Slice) : (s.modSlc c h).u = s.u := rfl

@[simp] theorem State.setLan_r_v (s : State) (l : LaneId) (v : Lane) : (s.setLan l v).r.v = s.r.v := rfl
@[simp] theorem State.setLan_r_ve (s : State) (l : LaneId) (v : Lane) : (s.setLan l v).r.ve = s.r.ve := rfl
@[simp] theorem State.setLan_r_sr (s : State) (l : LaneId) (v : Lane) : (s.setLan l v).r.sr = s.r.sr := rfl
@[simp] theorem State.setLan_r_mr (s : State) (l : LaneId) (v : Lane) : (s.setLan l v).r.mr = s.r.mr := rfl
@[simp] theorem State.setLan_r_cn (s : State) (l : LaneId) (v : Lane) : (s.setLan l v).r.cn = s.r.cn := rfl
@[simp] theorem State.setLan_r_sl (s : State) (l : LaneId) (v : Lane) : (s.setLan l v).r.sl = s.r.sl := rfl
@[simp] theorem State.setLan_r_gr (s : State) (l : LaneId) (v : Lane) : (s.setLan l v).r.gr = s.r.gr := rfl
@[simp] theorem State.setLan_x_teams (s : State) (l : LaneId) (v : Lane) : (s.setLan l v).x.teams = s.x.teams := rfl
@[simp] theorem State.setLan_x_grids (s : State) (l : LaneId) (v : Lane) : (s.setLan l v).x.grids = s.x.grids := rfl
@[simp] theorem State.setLan_x_splits (s : State) (l : LaneId) (v : Lane) : (s.setLan l v).x.splits = s.x.splits := rfl
@[simp] theorem State.setLan_m (s : State) (l : LaneId) (v : Lane) : (s.setLan l v).m = s.m := rfl
@[simp] theorem State.setLan_k (s : State) (l : LaneId) (v : Lane) : (s.setLan l v).k = s.k := rfl
@[simp] theorem State.setLan_g (s : State) (l : LaneId) (v : Lane) : (s.setLan l v).g = s.g := rfl
@[simp] theorem State.setLan_e (s : State) (l : LaneId) (v : Lane) : (s.setLan l v).e = s.e := rfl
@[simp] theorem State.setLan_d (s : State) (l : LaneId) (v : Lane) : (s.setLan l v).d = s.d := rfl
@[simp] theorem State.setLan_f (s : State) (l : LaneId) (v : Lane) : (s.setLan l v).f = s.f := rfl
@[simp] theorem State.setLan_p (s : State) (l : LaneId) (v : Lane) : (s.setLan l v).p = s.p := rfl
@[simp] theorem State.setLan_u (s : State) (l : LaneId) (v : Lane) : (s.setLan l v).u = s.u := rfl

@[simp] theorem State.modLan_r_v (s : State) (l : LaneId) (h : Lane → Lane) : (s.modLan l h).r.v = s.r.v := rfl
@[simp] theorem State.modLan_r_ve (s : State) (l : LaneId) (h : Lane → Lane) : (s.modLan l h).r.ve = s.r.ve := rfl
@[simp] theorem State.modLan_r_sr (s : State) (l : LaneId) (h : Lane → Lane) : (s.modLan l h).r.sr = s.r.sr := rfl
@[simp] theorem State.modLan_r_mr (s : State) (l : LaneId) (h : Lane → Lane) : (s.modLan l h).r.mr = s.r.mr := rfl
@[simp] theorem State.modLan_r_cn (s : State) (l : LaneId) (h : Lane → Lane) : (s.modLan l h).r.cn = s.r.cn := rfl
@[simp] theorem State.modLan_r_sl (s : State) (l : LaneId) (h : Lane → Lane) : (s.modLan l h).r.sl = s.r.sl := rfl
@[simp] theorem State.modLan_r_gr (s : State) (l : LaneId) (h : Lane → Lane) : (s.modLan l h).r.gr = s.r.gr := rfl
@[simp] theorem State.modLan_x_teams (s : State) (l : LaneId) (h : Lane → Lane) : (s.modLan l h).x.teams = s.x.teams := rfl
@[simp] theorem State.modLan_x_grids (s : State) (l : LaneId) (h : Lane → Lane) : (s.modLan l h).x.grids = s.x.grids := rfl
@[simp] theorem State.modLan_x_splits (s : State) (l : LaneId) (h : Lane → Lane) : (s.modLan l h).x.splits = s.x.splits := rfl
@[simp] theorem State.modLan_m (s : State) (l : LaneId) (h : Lane → Lane) : (s.modLan l h).m = s.m := rfl
@[simp] theorem State.modLan_k (s : State) (l : LaneId) (h : Lane → Lane) : (s.modLan l h).k = s.k := rfl
@[simp] theorem State.modLan_g (s : State) (l : LaneId) (h : Lane → Lane) : (s.modLan l h).g = s.g := rfl
@[simp] theorem State.modLan_e (s : State) (l : LaneId) (h : Lane → Lane) : (s.modLan l h).e = s.e := rfl
@[simp] theorem State.modLan_d (s : State) (l : LaneId) (h : Lane → Lane) : (s.modLan l h).d = s.d := rfl
@[simp] theorem State.modLan_f (s : State) (l : LaneId) (h : Lane → Lane) : (s.modLan l h).f = s.f := rfl
@[simp] theorem State.modLan_p (s : State) (l : LaneId) (h : Lane → Lane) : (s.modLan l h).p = s.p := rfl
@[simp] theorem State.modLan_u (s : State) (l : LaneId) (h : Lane → Lane) : (s.modLan l h).u = s.u := rfl

@[simp] theorem State.setGrp_r_v (s : State) (i : GroupId) (v : Group) : (s.setGrp i v).r.v = s.r.v := rfl
@[simp] theorem State.setGrp_r_ve (s : State) (i : GroupId) (v : Group) : (s.setGrp i v).r.ve = s.r.ve := rfl
@[simp] theorem State.setGrp_r_sr (s : State) (i : GroupId) (v : Group) : (s.setGrp i v).r.sr = s.r.sr := rfl
@[simp] theorem State.setGrp_r_mr (s : State) (i : GroupId) (v : Group) : (s.setGrp i v).r.mr = s.r.mr := rfl
@[simp] theorem State.setGrp_r_cn (s : State) (i : GroupId) (v : Group) : (s.setGrp i v).r.cn = s.r.cn := rfl
@[simp] theorem State.setGrp_r_sl (s : State) (i : GroupId) (v : Group) : (s.setGrp i v).r.sl = s.r.sl := rfl
@[simp] theorem State.setGrp_r_ln (s : State) (i : GroupId) (v : Group) : (s.setGrp i v).r.ln = s.r.ln := rfl
@[simp] theorem State.setGrp_x_teams (s : State) (i : GroupId) (v : Group) : (s.setGrp i v).x.teams = s.x.teams := rfl
@[simp] theorem State.setGrp_x_grids (s : State) (i : GroupId) (v : Group) : (s.setGrp i v).x.grids = s.x.grids := rfl
@[simp] theorem State.setGrp_x_splits (s : State) (i : GroupId) (v : Group) : (s.setGrp i v).x.splits = s.x.splits := rfl
@[simp] theorem State.setGrp_m (s : State) (i : GroupId) (v : Group) : (s.setGrp i v).m = s.m := rfl
@[simp] theorem State.setGrp_k (s : State) (i : GroupId) (v : Group) : (s.setGrp i v).k = s.k := rfl
@[simp] theorem State.setGrp_g (s : State) (i : GroupId) (v : Group) : (s.setGrp i v).g = s.g := rfl
@[simp] theorem State.setGrp_e (s : State) (i : GroupId) (v : Group) : (s.setGrp i v).e = s.e := rfl
@[simp] theorem State.setGrp_d (s : State) (i : GroupId) (v : Group) : (s.setGrp i v).d = s.d := rfl
@[simp] theorem State.setGrp_f (s : State) (i : GroupId) (v : Group) : (s.setGrp i v).f = s.f := rfl
@[simp] theorem State.setGrp_p (s : State) (i : GroupId) (v : Group) : (s.setGrp i v).p = s.p := rfl
@[simp] theorem State.setGrp_u (s : State) (i : GroupId) (v : Group) : (s.setGrp i v).u = s.u := rfl

@[simp] theorem State.modGrp_r_v (s : State) (i : GroupId) (h : Group → Group) : (s.modGrp i h).r.v = s.r.v := rfl
@[simp] theorem State.modGrp_r_ve (s : State) (i : GroupId) (h : Group → Group) : (s.modGrp i h).r.ve = s.r.ve := rfl
@[simp] theorem State.modGrp_r_sr (s : State) (i : GroupId) (h : Group → Group) : (s.modGrp i h).r.sr = s.r.sr := rfl
@[simp] theorem State.modGrp_r_mr (s : State) (i : GroupId) (h : Group → Group) : (s.modGrp i h).r.mr = s.r.mr := rfl
@[simp] theorem State.modGrp_r_cn (s : State) (i : GroupId) (h : Group → Group) : (s.modGrp i h).r.cn = s.r.cn := rfl
@[simp] theorem State.modGrp_r_sl (s : State) (i : GroupId) (h : Group → Group) : (s.modGrp i h).r.sl = s.r.sl := rfl
@[simp] theorem State.modGrp_r_ln (s : State) (i : GroupId) (h : Group → Group) : (s.modGrp i h).r.ln = s.r.ln := rfl
@[simp] theorem State.modGrp_x_teams (s : State) (i : GroupId) (h : Group → Group) : (s.modGrp i h).x.teams = s.x.teams := rfl
@[simp] theorem State.modGrp_x_grids (s : State) (i : GroupId) (h : Group → Group) : (s.modGrp i h).x.grids = s.x.grids := rfl
@[simp] theorem State.modGrp_x_splits (s : State) (i : GroupId) (h : Group → Group) : (s.modGrp i h).x.splits = s.x.splits := rfl
@[simp] theorem State.modGrp_m (s : State) (i : GroupId) (h : Group → Group) : (s.modGrp i h).m = s.m := rfl
@[simp] theorem State.modGrp_k (s : State) (i : GroupId) (h : Group → Group) : (s.modGrp i h).k = s.k := rfl
@[simp] theorem State.modGrp_g (s : State) (i : GroupId) (h : Group → Group) : (s.modGrp i h).g = s.g := rfl
@[simp] theorem State.modGrp_e (s : State) (i : GroupId) (h : Group → Group) : (s.modGrp i h).e = s.e := rfl
@[simp] theorem State.modGrp_d (s : State) (i : GroupId) (h : Group → Group) : (s.modGrp i h).d = s.d := rfl
@[simp] theorem State.modGrp_f (s : State) (i : GroupId) (h : Group → Group) : (s.modGrp i h).f = s.f := rfl
@[simp] theorem State.modGrp_p (s : State) (i : GroupId) (h : Group → Group) : (s.modGrp i h).p = s.p := rfl
@[simp] theorem State.modGrp_u (s : State) (i : GroupId) (h : Group → Group) : (s.modGrp i h).u = s.u := rfl

@[simp] theorem State.modSplit_r_v (s : State) (i : Nat) (h : Split → Split) : (s.modSplit i h).r.v = s.r.v := rfl
@[simp] theorem State.modSplit_r_ve (s : State) (i : Nat) (h : Split → Split) : (s.modSplit i h).r.ve = s.r.ve := rfl
@[simp] theorem State.modSplit_r_sr (s : State) (i : Nat) (h : Split → Split) : (s.modSplit i h).r.sr = s.r.sr := rfl
@[simp] theorem State.modSplit_r_mr (s : State) (i : Nat) (h : Split → Split) : (s.modSplit i h).r.mr = s.r.mr := rfl
@[simp] theorem State.modSplit_r_cn (s : State) (i : Nat) (h : Split → Split) : (s.modSplit i h).r.cn = s.r.cn := rfl
@[simp] theorem State.modSplit_r_sl (s : State) (i : Nat) (h : Split → Split) : (s.modSplit i h).r.sl = s.r.sl := rfl
@[simp] theorem State.modSplit_r_ln (s : State) (i : Nat) (h : Split → Split) : (s.modSplit i h).r.ln = s.r.ln := rfl
@[simp] theorem State.modSplit_r_gr (s : State) (i : Nat) (h : Split → Split) : (s.modSplit i h).r.gr = s.r.gr := rfl
@[simp] theorem State.modSplit_x_teams (s : State) (i : Nat) (h : Split → Split) : (s.modSplit i h).x.teams = s.x.teams := rfl
@[simp] theorem State.modSplit_x_grids (s : State) (i : Nat) (h : Split → Split) : (s.modSplit i h).x.grids = s.x.grids := rfl
@[simp] theorem State.modSplit_m (s : State) (i : Nat) (h : Split → Split) : (s.modSplit i h).m = s.m := rfl
@[simp] theorem State.modSplit_k (s : State) (i : Nat) (h : Split → Split) : (s.modSplit i h).k = s.k := rfl
@[simp] theorem State.modSplit_g (s : State) (i : Nat) (h : Split → Split) : (s.modSplit i h).g = s.g := rfl
@[simp] theorem State.modSplit_e (s : State) (i : Nat) (h : Split → Split) : (s.modSplit i h).e = s.e := rfl
@[simp] theorem State.modSplit_d (s : State) (i : Nat) (h : Split → Split) : (s.modSplit i h).d = s.d := rfl
@[simp] theorem State.modSplit_f (s : State) (i : Nat) (h : Split → Split) : (s.modSplit i h).f = s.f := rfl
@[simp] theorem State.modSplit_p (s : State) (i : Nat) (h : Split → Split) : (s.modSplit i h).p = s.p := rfl
@[simp] theorem State.modSplit_u (s : State) (i : Nat) (h : Split → Split) : (s.modSplit i h).u = s.u := rfl

@[simp] theorem State.modTeam_r_v (s : State) (i : Nat) (h : Team → Team) : (s.modTeam i h).r.v = s.r.v := rfl
@[simp] theorem State.modTeam_r_ve (s : State) (i : Nat) (h : Team → Team) : (s.modTeam i h).r.ve = s.r.ve := rfl
@[simp] theorem State.modTeam_r_sr (s : State) (i : Nat) (h : Team → Team) : (s.modTeam i h).r.sr = s.r.sr := rfl
@[simp] theorem State.modTeam_r_mr (s : State) (i : Nat) (h : Team → Team) : (s.modTeam i h).r.mr = s.r.mr := rfl
@[simp] theorem State.modTeam_r_cn (s : State) (i : Nat) (h : Team → Team) : (s.modTeam i h).r.cn = s.r.cn := rfl
@[simp] theorem State.modTeam_r_sl (s : State) (i : Nat) (h : Team → Team) : (s.modTeam i h).r.sl = s.r.sl := rfl
@[simp] theorem State.modTeam_r_ln (s : State) (i : Nat) (h : Team → Team) : (s.modTeam i h).r.ln = s.r.ln := rfl
@[simp] theorem State.modTeam_r_gr (s : State) (i : Nat) (h : Team → Team) : (s.modTeam i h).r.gr = s.r.gr := rfl
@[simp] theorem State.modTeam_x_grids (s : State) (i : Nat) (h : Team → Team) : (s.modTeam i h).x.grids = s.x.grids := rfl
@[simp] theorem State.modTeam_x_splits (s : State) (i : Nat) (h : Team → Team) : (s.modTeam i h).x.splits = s.x.splits := rfl
@[simp] theorem State.modTeam_m (s : State) (i : Nat) (h : Team → Team) : (s.modTeam i h).m = s.m := rfl
@[simp] theorem State.modTeam_k (s : State) (i : Nat) (h : Team → Team) : (s.modTeam i h).k = s.k := rfl
@[simp] theorem State.modTeam_g (s : State) (i : Nat) (h : Team → Team) : (s.modTeam i h).g = s.g := rfl
@[simp] theorem State.modTeam_e (s : State) (i : Nat) (h : Team → Team) : (s.modTeam i h).e = s.e := rfl
@[simp] theorem State.modTeam_d (s : State) (i : Nat) (h : Team → Team) : (s.modTeam i h).d = s.d := rfl
@[simp] theorem State.modTeam_f (s : State) (i : Nat) (h : Team → Team) : (s.modTeam i h).f = s.f := rfl
@[simp] theorem State.modTeam_p (s : State) (i : Nat) (h : Team → Team) : (s.modTeam i h).p = s.p := rfl
@[simp] theorem State.modTeam_u (s : State) (i : Nat) (h : Team → Team) : (s.modTeam i h).u = s.u := rfl

@[simp] theorem State.modGrid_r_v (s : State) (i : Nat) (h : Grid → Grid) : (s.modGrid i h).r.v = s.r.v := rfl
@[simp] theorem State.modGrid_r_ve (s : State) (i : Nat) (h : Grid → Grid) : (s.modGrid i h).r.ve = s.r.ve := rfl
@[simp] theorem State.modGrid_r_sr (s : State) (i : Nat) (h : Grid → Grid) : (s.modGrid i h).r.sr = s.r.sr := rfl
@[simp] theorem State.modGrid_r_mr (s : State) (i : Nat) (h : Grid → Grid) : (s.modGrid i h).r.mr = s.r.mr := rfl
@[simp] theorem State.modGrid_r_cn (s : State) (i : Nat) (h : Grid → Grid) : (s.modGrid i h).r.cn = s.r.cn := rfl
@[simp] theorem State.modGrid_r_sl (s : State) (i : Nat) (h : Grid → Grid) : (s.modGrid i h).r.sl = s.r.sl := rfl
@[simp] theorem State.modGrid_r_ln (s : State) (i : Nat) (h : Grid → Grid) : (s.modGrid i h).r.ln = s.r.ln := rfl
@[simp] theorem State.modGrid_r_gr (s : State) (i : Nat) (h : Grid → Grid) : (s.modGrid i h).r.gr = s.r.gr := rfl
@[simp] theorem State.modGrid_x_teams (s : State) (i : Nat) (h : Grid → Grid) : (s.modGrid i h).x.teams = s.x.teams := rfl
@[simp] theorem State.modGrid_x_splits (s : State) (i : Nat) (h : Grid → Grid) : (s.modGrid i h).x.splits = s.x.splits := rfl
@[simp] theorem State.modGrid_m (s : State) (i : Nat) (h : Grid → Grid) : (s.modGrid i h).m = s.m := rfl
@[simp] theorem State.modGrid_k (s : State) (i : Nat) (h : Grid → Grid) : (s.modGrid i h).k = s.k := rfl
@[simp] theorem State.modGrid_g (s : State) (i : Nat) (h : Grid → Grid) : (s.modGrid i h).g = s.g := rfl
@[simp] theorem State.modGrid_e (s : State) (i : Nat) (h : Grid → Grid) : (s.modGrid i h).e = s.e := rfl
@[simp] theorem State.modGrid_d (s : State) (i : Nat) (h : Grid → Grid) : (s.modGrid i h).d = s.d := rfl
@[simp] theorem State.modGrid_f (s : State) (i : Nat) (h : Grid → Grid) : (s.modGrid i h).f = s.f := rfl
@[simp] theorem State.modGrid_p (s : State) (i : Nat) (h : Grid → Grid) : (s.modGrid i h).p = s.p := rfl
@[simp] theorem State.modGrid_u (s : State) (i : Nat) (h : Grid → Grid) : (s.modGrid i h).u = s.u := rfl

@[simp] theorem State.takeUid_r_v (s : State) : (s.takeUid).r.v = s.r.v := rfl
@[simp] theorem State.takeUid_r_ve (s : State) : (s.takeUid).r.ve = s.r.ve := rfl
@[simp] theorem State.takeUid_r_sr (s : State) : (s.takeUid).r.sr = s.r.sr := rfl
@[simp] theorem State.takeUid_r_mr (s : State) : (s.takeUid).r.mr = s.r.mr := rfl
@[simp] theorem State.takeUid_r_cn (s : State) : (s.takeUid).r.cn = s.r.cn := rfl
@[simp] theorem State.takeUid_r_sl (s : State) : (s.takeUid).r.sl = s.r.sl := rfl
@[simp] theorem State.takeUid_r_ln (s : State) : (s.takeUid).r.ln = s.r.ln := rfl
@[simp] theorem State.takeUid_r_gr (s : State) : (s.takeUid).r.gr = s.r.gr := rfl
@[simp] theorem State.takeUid_x_teams (s : State) : (s.takeUid).x.teams = s.x.teams := rfl
@[simp] theorem State.takeUid_x_grids (s : State) : (s.takeUid).x.grids = s.x.grids := rfl
@[simp] theorem State.takeUid_x_splits (s : State) : (s.takeUid).x.splits = s.x.splits := rfl
@[simp] theorem State.takeUid_m (s : State) : (s.takeUid).m = s.m := rfl
@[simp] theorem State.takeUid_k (s : State) : (s.takeUid).k = s.k := rfl
@[simp] theorem State.takeUid_g (s : State) : (s.takeUid).g = s.g := rfl
@[simp] theorem State.takeUid_e (s : State) : (s.takeUid).e = s.e := rfl
@[simp] theorem State.takeUid_d (s : State) : (s.takeUid).d = s.d := rfl
@[simp] theorem State.takeUid_f (s : State) : (s.takeUid).f = s.f := rfl
@[simp] theorem State.takeUid_p (s : State) : (s.takeUid).p = s.p := rfl

@[simp] theorem State.addSplit_r_v (s : State) (q : Split) : (s.addSplit q).r.v = s.r.v := rfl
@[simp] theorem State.addSplit_r_ve (s : State) (q : Split) : (s.addSplit q).r.ve = s.r.ve := rfl
@[simp] theorem State.addSplit_r_sr (s : State) (q : Split) : (s.addSplit q).r.sr = s.r.sr := rfl
@[simp] theorem State.addSplit_r_mr (s : State) (q : Split) : (s.addSplit q).r.mr = s.r.mr := rfl
@[simp] theorem State.addSplit_r_cn (s : State) (q : Split) : (s.addSplit q).r.cn = s.r.cn := rfl
@[simp] theorem State.addSplit_r_sl (s : State) (q : Split) : (s.addSplit q).r.sl = s.r.sl := rfl
@[simp] theorem State.addSplit_r_ln (s : State) (q : Split) : (s.addSplit q).r.ln = s.r.ln := rfl
@[simp] theorem State.addSplit_r_gr (s : State) (q : Split) : (s.addSplit q).r.gr = s.r.gr := rfl
@[simp] theorem State.addSplit_x_teams (s : State) (q : Split) : (s.addSplit q).x.teams = s.x.teams := rfl
@[simp] theorem State.addSplit_x_grids (s : State) (q : Split) : (s.addSplit q).x.grids = s.x.grids := rfl
@[simp] theorem State.addSplit_m (s : State) (q : Split) : (s.addSplit q).m = s.m := rfl
@[simp] theorem State.addSplit_k (s : State) (q : Split) : (s.addSplit q).k = s.k := rfl
@[simp] theorem State.addSplit_g (s : State) (q : Split) : (s.addSplit q).g = s.g := rfl
@[simp] theorem State.addSplit_e (s : State) (q : Split) : (s.addSplit q).e = s.e := rfl
@[simp] theorem State.addSplit_d (s : State) (q : Split) : (s.addSplit q).d = s.d := rfl
@[simp] theorem State.addSplit_f (s : State) (q : Split) : (s.addSplit q).f = s.f := rfl
@[simp] theorem State.addSplit_p (s : State) (q : Split) : (s.addSplit q).p = s.p := rfl

@[simp] theorem State.postFq_r_v (s : State) (q : FqRec) : (s.postFq q).r.v = s.r.v := rfl
@[simp] theorem State.postFq_r_ve (s : State) (q : FqRec) : (s.postFq q).r.ve = s.r.ve := rfl
@[simp] theorem State.postFq_r_sr (s : State) (q : FqRec) : (s.postFq q).r.sr = s.r.sr := rfl
@[simp] theorem State.postFq_r_mr (s : State) (q : FqRec) : (s.postFq q).r.mr = s.r.mr := rfl
@[simp] theorem State.postFq_r_cn (s : State) (q : FqRec) : (s.postFq q).r.cn = s.r.cn := rfl
@[simp] theorem State.postFq_r_sl (s : State) (q : FqRec) : (s.postFq q).r.sl = s.r.sl := rfl
@[simp] theorem State.postFq_r_ln (s : State) (q : FqRec) : (s.postFq q).r.ln = s.r.ln := rfl
@[simp] theorem State.postFq_r_gr (s : State) (q : FqRec) : (s.postFq q).r.gr = s.r.gr := rfl
@[simp] theorem State.postFq_x_teams (s : State) (q : FqRec) : (s.postFq q).x.teams = s.x.teams := rfl
@[simp] theorem State.postFq_x_grids (s : State) (q : FqRec) : (s.postFq q).x.grids = s.x.grids := rfl
@[simp] theorem State.postFq_x_splits (s : State) (q : FqRec) : (s.postFq q).x.splits = s.x.splits := rfl
@[simp] theorem State.postFq_m (s : State) (q : FqRec) : (s.postFq q).m = s.m := rfl
@[simp] theorem State.postFq_k (s : State) (q : FqRec) : (s.postFq q).k = s.k := rfl
@[simp] theorem State.postFq_g (s : State) (q : FqRec) : (s.postFq q).g = s.g := rfl
@[simp] theorem State.postFq_e (s : State) (q : FqRec) : (s.postFq q).e = s.e := rfl
@[simp] theorem State.postFq_f (s : State) (q : FqRec) : (s.postFq q).f = s.f := rfl
@[simp] theorem State.postFq_p (s : State) (q : FqRec) : (s.postFq q).p = s.p := rfl
@[simp] theorem State.postFq_u (s : State) (q : FqRec) : (s.postFq q).u = s.u := rfl

@[simp] theorem State.issued_r_v (s : State) : (s.issued).r.v = s.r.v := rfl
@[simp] theorem State.issued_r_ve (s : State) : (s.issued).r.ve = s.r.ve := rfl
@[simp] theorem State.issued_r_sr (s : State) : (s.issued).r.sr = s.r.sr := rfl
@[simp] theorem State.issued_r_mr (s : State) : (s.issued).r.mr = s.r.mr := rfl
@[simp] theorem State.issued_r_cn (s : State) : (s.issued).r.cn = s.r.cn := rfl
@[simp] theorem State.issued_r_sl (s : State) : (s.issued).r.sl = s.r.sl := rfl
@[simp] theorem State.issued_r_ln (s : State) : (s.issued).r.ln = s.r.ln := rfl
@[simp] theorem State.issued_r_gr (s : State) : (s.issued).r.gr = s.r.gr := rfl
@[simp] theorem State.issued_x_teams (s : State) : (s.issued).x.teams = s.x.teams := rfl
@[simp] theorem State.issued_x_grids (s : State) : (s.issued).x.grids = s.x.grids := rfl
@[simp] theorem State.issued_m (s : State) : (s.issued).m = s.m := rfl
@[simp] theorem State.issued_k (s : State) : (s.issued).k = s.k := rfl
@[simp] theorem State.issued_g (s : State) : (s.issued).g = s.g := rfl
@[simp] theorem State.issued_e (s : State) : (s.issued).e = s.e := rfl
@[simp] theorem State.issued_d (s : State) : (s.issued).d = s.d := rfl
@[simp] theorem State.issued_f (s : State) : (s.issued).f = s.f := rfl
@[simp] theorem State.issued_p (s : State) : (s.issued).p = s.p := rfl
@[simp] theorem State.issued_u (s : State) : (s.issued).u = s.u := rfl

@[simp] theorem State.setCoreReg_r_v (s : State) (c n : Nat) (v : Word) : (s.setCoreReg c n v).r.v = s.r.v := rfl
@[simp] theorem State.setCoreReg_r_ve (s : State) (c n : Nat) (v : Word) : (s.setCoreReg c n v).r.ve = s.r.ve := rfl
@[simp] theorem State.setCoreReg_r_sr (s : State) (c n : Nat) (v : Word) : (s.setCoreReg c n v).r.sr = s.r.sr := rfl
@[simp] theorem State.setCoreReg_r_mr (s : State) (c n : Nat) (v : Word) : (s.setCoreReg c n v).r.mr = s.r.mr := rfl
@[simp] theorem State.setCoreReg_r_cn (s : State) (c n : Nat) (v : Word) : (s.setCoreReg c n v).r.cn = s.r.cn := rfl
@[simp] theorem State.setCoreReg_r_sl (s : State) (c n : Nat) (v : Word) : (s.setCoreReg c n v).r.sl = s.r.sl := rfl
@[simp] theorem State.setCoreReg_r_ln (s : State) (c n : Nat) (v : Word) : (s.setCoreReg c n v).r.ln = s.r.ln := rfl
@[simp] theorem State.setCoreReg_r_gr (s : State) (c n : Nat) (v : Word) : (s.setCoreReg c n v).r.gr = s.r.gr := rfl
@[simp] theorem State.setCoreReg_x_teams (s : State) (c n : Nat) (v : Word) : (s.setCoreReg c n v).x.teams = s.x.teams := rfl
@[simp] theorem State.setCoreReg_x_grids (s : State) (c n : Nat) (v : Word) : (s.setCoreReg c n v).x.grids = s.x.grids := rfl
@[simp] theorem State.setCoreReg_x_splits (s : State) (c n : Nat) (v : Word) : (s.setCoreReg c n v).x.splits = s.x.splits := rfl
@[simp] theorem State.setCoreReg_m (s : State) (c n : Nat) (v : Word) : (s.setCoreReg c n v).m = s.m := rfl
@[simp] theorem State.setCoreReg_k (s : State) (c n : Nat) (v : Word) : (s.setCoreReg c n v).k = s.k := rfl
@[simp] theorem State.setCoreReg_e (s : State) (c n : Nat) (v : Word) : (s.setCoreReg c n v).e = s.e := rfl
@[simp] theorem State.setCoreReg_d (s : State) (c n : Nat) (v : Word) : (s.setCoreReg c n v).d = s.d := rfl
@[simp] theorem State.setCoreReg_f (s : State) (c n : Nat) (v : Word) : (s.setCoreReg c n v).f = s.f := rfl
@[simp] theorem State.setCoreReg_p (s : State) (c n : Nat) (v : Word) : (s.setCoreReg c n v).p = s.p := rfl
@[simp] theorem State.setCoreReg_u (s : State) (c n : Nat) (v : Word) : (s.setCoreReg c n v).u = s.u := rfl

@[simp] theorem State.setDieReg_r_v (s : State) (i n : Nat) (v : Word) : (s.setDieReg i n v).r.v = s.r.v := rfl
@[simp] theorem State.setDieReg_r_ve (s : State) (i n : Nat) (v : Word) : (s.setDieReg i n v).r.ve = s.r.ve := rfl
@[simp] theorem State.setDieReg_r_sr (s : State) (i n : Nat) (v : Word) : (s.setDieReg i n v).r.sr = s.r.sr := rfl
@[simp] theorem State.setDieReg_r_mr (s : State) (i n : Nat) (v : Word) : (s.setDieReg i n v).r.mr = s.r.mr := rfl
@[simp] theorem State.setDieReg_r_cn (s : State) (i n : Nat) (v : Word) : (s.setDieReg i n v).r.cn = s.r.cn := rfl
@[simp] theorem State.setDieReg_r_sl (s : State) (i n : Nat) (v : Word) : (s.setDieReg i n v).r.sl = s.r.sl := rfl
@[simp] theorem State.setDieReg_r_ln (s : State) (i n : Nat) (v : Word) : (s.setDieReg i n v).r.ln = s.r.ln := rfl
@[simp] theorem State.setDieReg_r_gr (s : State) (i n : Nat) (v : Word) : (s.setDieReg i n v).r.gr = s.r.gr := rfl
@[simp] theorem State.setDieReg_x_teams (s : State) (i n : Nat) (v : Word) : (s.setDieReg i n v).x.teams = s.x.teams := rfl
@[simp] theorem State.setDieReg_x_grids (s : State) (i n : Nat) (v : Word) : (s.setDieReg i n v).x.grids = s.x.grids := rfl
@[simp] theorem State.setDieReg_x_splits (s : State) (i n : Nat) (v : Word) : (s.setDieReg i n v).x.splits = s.x.splits := rfl
@[simp] theorem State.setDieReg_m (s : State) (i n : Nat) (v : Word) : (s.setDieReg i n v).m = s.m := rfl
@[simp] theorem State.setDieReg_k (s : State) (i n : Nat) (v : Word) : (s.setDieReg i n v).k = s.k := rfl
@[simp] theorem State.setDieReg_e (s : State) (i n : Nat) (v : Word) : (s.setDieReg i n v).e = s.e := rfl
@[simp] theorem State.setDieReg_d (s : State) (i n : Nat) (v : Word) : (s.setDieReg i n v).d = s.d := rfl
@[simp] theorem State.setDieReg_f (s : State) (i n : Nat) (v : Word) : (s.setDieReg i n v).f = s.f := rfl
@[simp] theorem State.setDieReg_p (s : State) (i n : Nat) (v : Word) : (s.setDieReg i n v).p = s.p := rfl
@[simp] theorem State.setDieReg_u (s : State) (i n : Nat) (v : Word) : (s.setDieReg i n v).u = s.u := rfl

@[simp] theorem State.dropSnaps_r_v (s : State) (h : Snap → Bool) : (s.dropSnaps h).r.v = s.r.v := rfl
@[simp] theorem State.dropSnaps_r_ve (s : State) (h : Snap → Bool) : (s.dropSnaps h).r.ve = s.r.ve := rfl
@[simp] theorem State.dropSnaps_r_sr (s : State) (h : Snap → Bool) : (s.dropSnaps h).r.sr = s.r.sr := rfl
@[simp] theorem State.dropSnaps_r_mr (s : State) (h : Snap → Bool) : (s.dropSnaps h).r.mr = s.r.mr := rfl
@[simp] theorem State.dropSnaps_r_cn (s : State) (h : Snap → Bool) : (s.dropSnaps h).r.cn = s.r.cn := rfl
@[simp] theorem State.dropSnaps_r_sl (s : State) (h : Snap → Bool) : (s.dropSnaps h).r.sl = s.r.sl := rfl
@[simp] theorem State.dropSnaps_r_ln (s : State) (h : Snap → Bool) : (s.dropSnaps h).r.ln = s.r.ln := rfl
@[simp] theorem State.dropSnaps_r_gr (s : State) (h : Snap → Bool) : (s.dropSnaps h).r.gr = s.r.gr := rfl
@[simp] theorem State.dropSnaps_x_teams (s : State) (h : Snap → Bool) : (s.dropSnaps h).x.teams = s.x.teams := rfl
@[simp] theorem State.dropSnaps_x_grids (s : State) (h : Snap → Bool) : (s.dropSnaps h).x.grids = s.x.grids := rfl
@[simp] theorem State.dropSnaps_x_splits (s : State) (h : Snap → Bool) : (s.dropSnaps h).x.splits = s.x.splits := rfl
@[simp] theorem State.dropSnaps_k (s : State) (h : Snap → Bool) : (s.dropSnaps h).k = s.k := rfl
@[simp] theorem State.dropSnaps_g (s : State) (h : Snap → Bool) : (s.dropSnaps h).g = s.g := rfl
@[simp] theorem State.dropSnaps_e (s : State) (h : Snap → Bool) : (s.dropSnaps h).e = s.e := rfl
@[simp] theorem State.dropSnaps_d (s : State) (h : Snap → Bool) : (s.dropSnaps h).d = s.d := rfl
@[simp] theorem State.dropSnaps_f (s : State) (h : Snap → Bool) : (s.dropSnaps h).f = s.f := rfl
@[simp] theorem State.dropSnaps_p (s : State) (h : Snap → Bool) : (s.dropSnaps h).p = s.p := rfl
@[simp] theorem State.dropSnaps_u (s : State) (h : Snap → Bool) : (s.dropSnaps h).u = s.u := rfl

@[simp] theorem State.writeByte_r_v (s : State) (a : Nat) (b : Byte) : (s.writeByte a b).r.v = s.r.v := rfl
@[simp] theorem State.writeByte_r_ve (s : State) (a : Nat) (b : Byte) : (s.writeByte a b).r.ve = s.r.ve := rfl
@[simp] theorem State.writeByte_r_sr (s : State) (a : Nat) (b : Byte) : (s.writeByte a b).r.sr = s.r.sr := rfl
@[simp] theorem State.writeByte_r_mr (s : State) (a : Nat) (b : Byte) : (s.writeByte a b).r.mr = s.r.mr := rfl
@[simp] theorem State.writeByte_r_cn (s : State) (a : Nat) (b : Byte) : (s.writeByte a b).r.cn = s.r.cn := rfl
@[simp] theorem State.writeByte_r_sl (s : State) (a : Nat) (b : Byte) : (s.writeByte a b).r.sl = s.r.sl := rfl
@[simp] theorem State.writeByte_r_ln (s : State) (a : Nat) (b : Byte) : (s.writeByte a b).r.ln = s.r.ln := rfl
@[simp] theorem State.writeByte_r_gr (s : State) (a : Nat) (b : Byte) : (s.writeByte a b).r.gr = s.r.gr := rfl
@[simp] theorem State.writeByte_x_teams (s : State) (a : Nat) (b : Byte) : (s.writeByte a b).x.teams = s.x.teams := rfl
@[simp] theorem State.writeByte_x_grids (s : State) (a : Nat) (b : Byte) : (s.writeByte a b).x.grids = s.x.grids := rfl
@[simp] theorem State.writeByte_x_splits (s : State) (a : Nat) (b : Byte) : (s.writeByte a b).x.splits = s.x.splits := rfl
@[simp] theorem State.writeByte_k (s : State) (a : Nat) (b : Byte) : (s.writeByte a b).k = s.k := rfl
@[simp] theorem State.writeByte_g (s : State) (a : Nat) (b : Byte) : (s.writeByte a b).g = s.g := rfl
@[simp] theorem State.writeByte_e (s : State) (a : Nat) (b : Byte) : (s.writeByte a b).e = s.e := rfl
@[simp] theorem State.writeByte_d (s : State) (a : Nat) (b : Byte) : (s.writeByte a b).d = s.d := rfl
@[simp] theorem State.writeByte_f (s : State) (a : Nat) (b : Byte) : (s.writeByte a b).f = s.f := rfl
@[simp] theorem State.writeByte_p (s : State) (a : Nat) (b : Byte) : (s.writeByte a b).p = s.p := rfl
@[simp] theorem State.writeByte_u (s : State) (a : Nat) (b : Byte) : (s.writeByte a b).u = s.u := rfl

@[simp] theorem State.triggerLine_r_v (s : State) (n : Nat) : (s.triggerLine n).r.v = s.r.v := rfl
@[simp] theorem State.triggerLine_r_ve (s : State) (n : Nat) : (s.triggerLine n).r.ve = s.r.ve := rfl
@[simp] theorem State.triggerLine_r_sr (s : State) (n : Nat) : (s.triggerLine n).r.sr = s.r.sr := rfl
@[simp] theorem State.triggerLine_r_mr (s : State) (n : Nat) : (s.triggerLine n).r.mr = s.r.mr := rfl
@[simp] theorem State.triggerLine_r_cn (s : State) (n : Nat) : (s.triggerLine n).r.cn = s.r.cn := rfl
@[simp] theorem State.triggerLine_r_ln (s : State) (n : Nat) : (s.triggerLine n).r.ln = s.r.ln := rfl
@[simp] theorem State.triggerLine_r_gr (s : State) (n : Nat) : (s.triggerLine n).r.gr = s.r.gr := rfl
@[simp] theorem State.triggerLine_x_teams (s : State) (n : Nat) : (s.triggerLine n).x.teams = s.x.teams := rfl
@[simp] theorem State.triggerLine_x_grids (s : State) (n : Nat) : (s.triggerLine n).x.grids = s.x.grids := rfl
@[simp] theorem State.triggerLine_x_splits (s : State) (n : Nat) : (s.triggerLine n).x.splits = s.x.splits := rfl
@[simp] theorem State.triggerLine_m (s : State) (n : Nat) : (s.triggerLine n).m = s.m := rfl
@[simp] theorem State.triggerLine_k (s : State) (n : Nat) : (s.triggerLine n).k = s.k := rfl
@[simp] theorem State.triggerLine_g (s : State) (n : Nat) : (s.triggerLine n).g = s.g := rfl
@[simp] theorem State.triggerLine_e (s : State) (n : Nat) : (s.triggerLine n).e = s.e := rfl
@[simp] theorem State.triggerLine_d (s : State) (n : Nat) : (s.triggerLine n).d = s.d := rfl
@[simp] theorem State.triggerLine_f (s : State) (n : Nat) : (s.triggerLine n).f = s.f := rfl
@[simp] theorem State.triggerLine_p (s : State) (n : Nat) : (s.triggerLine n).p = s.p := rfl
@[simp] theorem State.triggerLine_u (s : State) (n : Nat) : (s.triggerLine n).u = s.u := rfl

@[simp] theorem State.dropSnaps_mem (s : State) (h : Snap → Bool) : (s.dropSnaps h).m.mem = s.m.mem := rfl
@[simp] theorem State.writeByte_mem (s : State) (a : Nat) (b : Byte) :
    (s.writeByte a b).m.mem = Memory.put s.m.mem a b := rfl
@[simp] theorem State.issued_iss (s : State) : s.issued.u.iss = s.u.iss := rfl
@[simp] theorem State.modSplit_clk (s : State) (i : Nat) (h : Split → Split) : (s.modSplit i h).u.clk = s.u.clk := rfl

@[simp] theorem State.missWalks_r (s : State) (core asid : Nat) (vas : List Nat) : (s.missWalks core asid vas).r = s.r := rfl
@[simp] theorem State.missWalks_x (s : State) (core asid : Nat) (vas : List Nat) : (s.missWalks core asid vas).x = s.x := rfl
@[simp] theorem State.missWalks_m (s : State) (core asid : Nat) (vas : List Nat) : (s.missWalks core asid vas).m = s.m := rfl
@[simp] theorem State.missWalks_g (s : State) (core asid : Nat) (vas : List Nat) : (s.missWalks core asid vas).g = s.g := rfl
@[simp] theorem State.missWalks_e (s : State) (core asid : Nat) (vas : List Nat) : (s.missWalks core asid vas).e = s.e := rfl
@[simp] theorem State.missWalks_d (s : State) (core asid : Nat) (vas : List Nat) : (s.missWalks core asid vas).d = s.d := rfl
@[simp] theorem State.missWalks_f (s : State) (core asid : Nat) (vas : List Nat) : (s.missWalks core asid vas).f = s.f := rfl
@[simp] theorem State.missWalks_p (s : State) (core asid : Nat) (vas : List Nat) : (s.missWalks core asid vas).p = s.p := rfl
@[simp] theorem State.missWalks_u (s : State) (core asid : Nat) (vas : List Nat) : (s.missWalks core asid vas).u = s.u := rfl
@[simp] theorem State.missWalks_k_l2 (s : State) (core asid : Nat) (vas : List Nat) : (s.missWalks core asid vas).k.l2 = s.k.l2 := rfl
@[simp] theorem State.missWalks_k_l1 (s : State) (core asid : Nat) (vas : List Nat) : (s.missWalks core asid vas).k.l1 = s.k.l1 := rfl
@[simp] theorem State.missWalks_k_fc (s : State) (core asid : Nat) (vas : List Nat) : (s.missWalks core asid vas).k.fc = s.k.fc := rfl
@[simp] theorem State.missWalks_k_regions (s : State) (core asid : Nat) (vas : List Nat) : (s.missWalks core asid vas).k.regions = s.k.regions := rfl
@[simp] theorem State.missWalks_k_invs (s : State) (core asid : Nat) (vas : List Nat) : (s.missWalks core asid vas).k.invs = s.k.invs := rfl
@[simp] theorem State.missWalks_k_resCnt (s : State) (core asid : Nat) (vas : List Nat) : (s.missWalks core asid vas).k.resCnt = s.k.resCnt := rfl
@[simp] theorem State.missWalks_k_msc (s : State) (core asid : Nat) (vas : List Nat) : (s.missWalks core asid vas).k.msc = s.k.msc := rfl
@[simp] theorem State.missWalks_k_mscGen (s : State) (core asid : Nat) (vas : List Nat) : (s.missWalks core asid vas).k.mscGen = s.k.mscGen := rfl
@[simp] theorem State.missWalks_k_lineKey (s : State) (core asid : Nat) (vas : List Nat) : (s.missWalks core asid vas).k.lineKey = s.k.lineKey := rfl
@[simp] theorem State.missWalks_k_keyGen (s : State) (core asid : Nat) (vas : List Nat) : (s.missWalks core asid vas).k.keyGen = s.k.keyGen := rfl
@[simp] theorem State.missWalks_k_keyBase (s : State) (core asid : Nat) (vas : List Nat) : (s.missWalks core asid vas).k.keyBase = s.k.keyBase := rfl
@[simp] theorem State.missWalks_k_tlb (s : State) (core asid : Nat) (vas : List Nat) : (s.missWalks core asid vas).k.tlb = s.k.tlb := rfl
@[simp] theorem State.missWalks_k_acc (s : State) (core asid : Nat) (vas : List Nat) : (s.missWalks core asid vas).k.acc = s.k.acc := rfl
@[simp] theorem State.missWalks_k_syncs (s : State) (core asid : Nat) (vas : List Nat) : (s.missWalks core asid vas).k.syncs = s.k.syncs := rfl

@[simp] theorem State.squashBy_r (s : State) (l : Option LaneId) (team core : Nat) : (s.squashBy l team core).r = s.r := rfl
@[simp] theorem State.squashBy_x (s : State) (l : Option LaneId) (team core : Nat) : (s.squashBy l team core).x = s.x := rfl
@[simp] theorem State.squashBy_m (s : State) (l : Option LaneId) (team core : Nat) : (s.squashBy l team core).m = s.m := rfl
@[simp] theorem State.squashBy_g (s : State) (l : Option LaneId) (team core : Nat) : (s.squashBy l team core).g = s.g := rfl
@[simp] theorem State.squashBy_e (s : State) (l : Option LaneId) (team core : Nat) : (s.squashBy l team core).e = s.e := rfl
@[simp] theorem State.squashBy_d (s : State) (l : Option LaneId) (team core : Nat) : (s.squashBy l team core).d = s.d := rfl
@[simp] theorem State.squashBy_f (s : State) (l : Option LaneId) (team core : Nat) : (s.squashBy l team core).f = s.f := rfl
@[simp] theorem State.squashBy_p (s : State) (l : Option LaneId) (team core : Nat) : (s.squashBy l team core).p = s.p := rfl
@[simp] theorem State.squashBy_u (s : State) (l : Option LaneId) (team core : Nat) : (s.squashBy l team core).u = s.u := rfl
@[simp] theorem State.squashBy_k_l2 (s : State) (l : Option LaneId) (team core : Nat) : (s.squashBy l team core).k.l2 = s.k.l2 := rfl
@[simp] theorem State.squashBy_k_l1 (s : State) (l : Option LaneId) (team core : Nat) : (s.squashBy l team core).k.l1 = s.k.l1 := rfl
@[simp] theorem State.squashBy_k_fc (s : State) (l : Option LaneId) (team core : Nat) : (s.squashBy l team core).k.fc = s.k.fc := rfl
@[simp] theorem State.squashBy_k_regions (s : State) (l : Option LaneId) (team core : Nat) : (s.squashBy l team core).k.regions = s.k.regions := rfl
@[simp] theorem State.squashBy_k_invs (s : State) (l : Option LaneId) (team core : Nat) : (s.squashBy l team core).k.invs = s.k.invs := rfl
@[simp] theorem State.squashBy_k_resCnt (s : State) (l : Option LaneId) (team core : Nat) : (s.squashBy l team core).k.resCnt = s.k.resCnt := rfl
@[simp] theorem State.squashBy_k_msc (s : State) (l : Option LaneId) (team core : Nat) : (s.squashBy l team core).k.msc = s.k.msc := rfl
@[simp] theorem State.squashBy_k_mscGen (s : State) (l : Option LaneId) (team core : Nat) : (s.squashBy l team core).k.mscGen = s.k.mscGen := rfl
@[simp] theorem State.squashBy_k_lineKey (s : State) (l : Option LaneId) (team core : Nat) : (s.squashBy l team core).k.lineKey = s.k.lineKey := rfl
@[simp] theorem State.squashBy_k_keyGen (s : State) (l : Option LaneId) (team core : Nat) : (s.squashBy l team core).k.keyGen = s.k.keyGen := rfl
@[simp] theorem State.squashBy_k_keyBase (s : State) (l : Option LaneId) (team core : Nat) : (s.squashBy l team core).k.keyBase = s.k.keyBase := rfl
@[simp] theorem State.squashBy_k_tlb (s : State) (l : Option LaneId) (team core : Nat) : (s.squashBy l team core).k.tlb = s.k.tlb := rfl
@[simp] theorem State.squashBy_k_walks (s : State) (l : Option LaneId) (team core : Nat) : (s.squashBy l team core).k.walks = s.k.walks := rfl
@[simp] theorem State.squashBy_k_syncs (s : State) (l : Option LaneId) (team core : Nat) : (s.squashBy l team core).k.syncs = s.k.syncs := rfl

@[simp] theorem State.bump_r (s : State) (k : Nat × Nat × Nat) : (s.bump k).r = s.r := rfl
@[simp] theorem State.bump_x (s : State) (k : Nat × Nat × Nat) : (s.bump k).x = s.x := rfl
@[simp] theorem State.bump_m (s : State) (k : Nat × Nat × Nat) : (s.bump k).m = s.m := rfl
@[simp] theorem State.bump_k (s : State) (k : Nat × Nat × Nat) : (s.bump k).k = s.k := rfl
@[simp] theorem State.bump_g (s : State) (k : Nat × Nat × Nat) : (s.bump k).g = s.g := rfl
@[simp] theorem State.bump_e (s : State) (k : Nat × Nat × Nat) : (s.bump k).e = s.e := rfl
@[simp] theorem State.bump_d (s : State) (k : Nat × Nat × Nat) : (s.bump k).d = s.d := rfl
@[simp] theorem State.bump_f (s : State) (k : Nat × Nat × Nat) : (s.bump k).f = s.f := rfl
@[simp] theorem State.bump_u (s : State) (k : Nat × Nat × Nat) : (s.bump k).u = s.u := rfl

end Sys2Proof.Machine
end

