-- ==== Sys2Proof/Laws/Table.lean ====
section
/-! SUPPORT. Reading a table after a write: the value written at its key, and the old value at every other key. -/

namespace Sys2Proof

variable {κ α : Type} [DecidableEq κ]

@[simp] theorem Tab.look_put_self (t : Tab κ α) (k : κ) (v d : α) : (t.put k v).look k d = v := by
  induction t with
  | nil => simp [Tab.put, Tab.look]
  | cons p t ih =>
    by_cases h : p.1 = k
    · simp [Tab.put, Tab.look, h]
    · simp [Tab.put, Tab.look, h, ih]

theorem Tab.look_put_ne (t : Tab κ α) {k k' : κ} (v d : α) (h : k ≠ k') : (t.put k v).look k' d = t.look k' d := by
  induction t with
  | nil => simp [Tab.put, Tab.look, h]
  | cons p t ih =>
    by_cases hp : p.1 = k
    · have h' : p.1 ≠ k' := fun e => h (hp ▸ e)
      simp [Tab.put, Tab.look, hp, h]
    · by_cases hq : p.1 = k'
      · subst hq; simp [Tab.put, Tab.look, hp]
      · simp [Tab.put, Tab.look, hp, hq, ih]

theorem Tab.look_put (t : Tab κ α) (k k' : κ) (v d : α) :
    (t.put k v).look k' d = if k = k' then v else t.look k' d := by
  by_cases h : k = k'
  · subst h; simp
  · simp [h, Tab.look_put_ne t v d h]

@[simp] theorem Tab.look_drop_self (t : Tab κ α) (k : κ) (d : α) : (t.drop k).look k d = d := by
  induction t with
  | nil => simp [Tab.drop, Tab.look]
  | cons p t ih =>
    by_cases h : p.1 = k <;> simp_all [Tab.drop, Tab.look]

theorem Tab.look_drop_ne (t : Tab κ α) {k k' : κ} (d : α) (h : k ≠ k') : (t.drop k).look k' d = t.look k' d := by
  induction t with
  | nil => simp [Tab.drop, Tab.look]
  | cons p t ih =>
    by_cases hp : p.1 = k
    · have h' : p.1 ≠ k' := fun e => h (hp ▸ e)
      simp_all [Tab.drop, Tab.look]
    · by_cases hq : p.1 = k' <;> simp_all [Tab.drop, Tab.look]

theorem Tab.look_drop (t : Tab κ α) (k k' : κ) (d : α) :
    (t.drop k).look k' d = if k = k' then d else t.look k' d := by
  by_cases h : k = k'
  · subst h; simp
  · simp [h, Tab.look_drop_ne t d h]

end Sys2Proof
end

