-- ==== Sys2Proof/Laws/Registers.lean ====
section
/-! SUPPORT. The laws of the register files: what a register reads after a write (R80 to R86), and what delivering a
result changes (R61, R73). -/

namespace Sys2Proof.Machine

/-! ### V registers -/

theorem State.getV_putV (s : State) (l l' : LaneId) (n n' : Nat) (w : Word) :
    (s.putV l n w).getV l' n' = if (l, n) = (l', n') then w else s.getV l' n' := by
  simp only [State.getV, State.putV, Tab.look_put]

@[simp] theorem State.getV_setEmpty (s : State) (l l' : LaneId) (n n' : Nat) (e : Bool) :
    (s.setEmpty l n e).getV l' n' = s.getV l' n' := rfl

theorem State.getV_setV (s : State) (l l' : LaneId) (n n' : Nat) (w : Word) :
    (s.setV l n w).getV l' n' = if (l, n) = (l', n') then w else s.getV l' n' := by
  simp only [State.setV, State.getV_setEmpty, State.getV_putV]

theorem State.isEmpty_setEmpty (s : State) (l l' : LaneId) (n n' : Nat) (e : Bool) :
    (s.setEmpty l n e).isEmpty l' n' = if (l, n) = (l', n') then e else s.isEmpty l' n' := by
  cases e <;> simp [State.isEmpty, State.setEmpty, Tab.look_put, Tab.look_drop]

theorem State.isEmpty_setV (s : State) (l l' : LaneId) (n n' : Nat) (w : Word) :
    (s.setV l n w).isEmpty l' n' = if (l, n) = (l', n') then false else s.isEmpty l' n' := by
  simp only [State.setV, State.isEmpty_setEmpty]; rfl

theorem State.getV_setVs (s : State) (l l' : LaneId) (n v k n' : Nat) :
    (s.setVs l n v k).getV l' n' =
      if l = l' ∧ n ≤ n' ∧ n' < n + k then BitVec.ofNat 32 (v / 2 ^ (32 * (n' - n))) else s.getV l' n' := by
  induction k generalizing s n v with
  | zero => simp only [State.setVs]; rw [if_neg (by omega)]
  | succ k ih =>
    simp only [State.setVs, ih, State.getV_setV, Prod.mk.injEq]
    by_cases hl : l = l'
    · subst hl
      by_cases h1 : n = n'
      · subst h1
        simp [show ¬ (n + 1 ≤ n) by omega]
      · by_cases h2 : n + 1 ≤ n' ∧ n' < n + 1 + k
        · rw [if_pos ⟨rfl, h2⟩, if_pos ⟨rfl, by omega, by omega⟩, Nat.div_div_eq_div_mul, ← Nat.pow_add]
          congr 3
          omega
        · rw [if_neg (by tauto), if_neg (by tauto), if_neg (by omega)]
    · simp [hl]

theorem State.isEmpty_setVs (s : State) (l l' : LaneId) (n v k n' : Nat) :
    (s.setVs l n v k).isEmpty l' n' = if l = l' ∧ n ≤ n' ∧ n' < n + k then false else s.isEmpty l' n' := by
  induction k generalizing s n v with
  | zero => simp only [State.setVs]; rw [if_neg (by omega)]
  | succ k ih =>
    simp only [State.setVs, ih, State.isEmpty_setV, Prod.mk.injEq]
    by_cases hl : l = l'
    · subst hl
      by_cases h1 : n = n'
      · subst h1
        simp
      · by_cases h2 : n + 1 ≤ n' ∧ n' < n + 1 + k
        · rw [if_pos ⟨rfl, h2⟩, if_pos ⟨rfl, by omega, by omega⟩]
        · rw [if_neg (by tauto), if_neg (by tauto), if_neg (by omega)]
    · simp [hl]

/-- A range of registers written from a number reads as its low bits. -/
theorem State.getVs_setVs (s : State) (l : LaneId) (n v k : Nat) : (s.setVs l n v k).getVs l n k = v % 2 ^ (32 * k) := by
  suffices ∀ k j n (t : State), (∀ i, i < k → t.getV l (n + i) = BitVec.ofNat 32 (v / 2 ^ (32 * (i + j)))) →
      t.getVs l n k = v / 2 ^ (32 * j) % 2 ^ (32 * k) by
    have := this k 0 n (s.setVs l n v k) fun i hi => by
      rw [State.getV_setVs, if_pos ⟨rfl, by omega, by omega⟩]; simp
    simpa using this
  intro k
  induction k with
  | zero => intro j n t _; simp [State.getVs, Nat.mod_one]
  | succ k ih =>
    intro j n t ht
    have h0 := ht 0 (by omega)
    have h1 := ih (j + 1) (n + 1) t fun i hi => by
      have := ht (i + 1) (by omega)
      rw [show n + 1 + i = n + (i + 1) by omega, this, show i + 1 + j = i + (j + 1) by omega]
    simp only [State.getVs, h1]
    simp only [Nat.add_zero, Nat.zero_add] at h0
    rw [h0, BitVec.toNat_ofNat, show 32 * (j + 1) = 32 * j + 32 by ring, Nat.pow_add, ← Nat.div_div_eq_div_mul,
      show 32 * (k + 1) = 32 + 32 * k by ring, Nat.pow_add]
    exact (Nat.mod_mul).symm

@[simp] theorem State.setVs_outside (s : State) (l : LaneId) (n v k : Nat) :
    (s.setVs l n v k).m = s.m ∧ (s.setVs l n v k).k = s.k ∧ (s.setVs l n v k).x = s.x ∧ (s.setVs l n v k).u = s.u := by
  induction k generalizing s n v with
  | zero => simp [State.setVs]
  | succ k ih => simp only [State.setVs, ih]; exact ⟨rfl, rfl, rfl, rfl⟩

/-! ### S, M and C registers -/

theorem State.getS_setS (s : State) (c c' : SliceId) (n n' : Nat) (w : Word) :
    (s.setS c n w).getS c' n' = if (c, n) = (c', n') then w else s.getS c' n' := by
  simp only [State.getS, State.setS, Tab.look_put]

/-- M0 reads 1111 (R84). -/
@[simp] theorem State.getM_zero (s : State) (c : SliceId) : s.getM c 0 = 15 := rfl

/-- A write to M0 is discarded (R84). -/
@[simp] theorem State.setM_zero (s : State) (c : SliceId) (m : BitVec 4) : s.setM c 0 m = s := rfl

theorem State.getM_setM (s : State) (c c' : SliceId) (n n' : Nat) (m : BitVec 4) (h : n ≠ 0) :
    (s.setM c n m).getM c' n' = if (c, n) = (c', n') then m else s.getM c' n' := by
  simp only [State.getM, State.setM, h, if_false]
  by_cases h0 : n' = 0
  · subst h0
    simp [h]
  · simp [h0, Tab.look_put]

theorem State.getC_setC (s : State) (c c' : SliceId) (n n' v : Nat) :
    (s.setC c n v).getC c' n' = if (c, n) = (c', n') then v else s.getC c' n' := by
  simp only [State.getC, State.setC, Tab.look_put]

/-! ### Records of slices, lanes and groups -/

theorem State.slc_setSlc (s : State) (c c' : SliceId) (v : Slice) :
    (s.setSlc c v).slc c' = if c = c' then v else s.slc c' := by
  simp only [State.slc, State.setSlc, Tab.look_put]

theorem State.slc_modSlc (s : State) (c c' : SliceId) (f : Slice → Slice) :
    (s.modSlc c f).slc c' = if c = c' then f (s.slc c) else s.slc c' := State.slc_setSlc _ _ _ _

theorem State.lan_modLan (s : State) (l l' : LaneId) (f : Lane → Lane) :
    (s.modLan l f).lan l' = if l = l' then f (s.lan l) else s.lan l' := by
  simp only [State.lan, State.modLan, State.setLan, Tab.look_put]

theorem State.grp_modGrp (s : State) (g g' : GroupId) (f : Group → Group) :
    (s.modGrp g f).grp g' = if g = g' then f (s.grp g) else s.grp g' := by
  simp only [State.grp, State.modGrp, State.setGrp, Tab.look_put]

/-! ### Registers held per core and per die -/

theorem State.dieReg_setDieReg (s : State) (d d' n n' : Nat) (v : Word) :
    (s.setDieReg d n v).dieReg d' n' = if (d, n) = (d', n') then v else s.dieReg d' n' := by
  simp only [State.dieReg, State.setDieReg, Tab.look_put]

end Sys2Proof.Machine
end

