-- ==== Sys2Proof/Laws/Unit.lean ====
section
/-! SUPPORT. What an issue unit can do (R69, R70, R82, R137, R146, R148), once for all instructions: the provers cite
these and unfold `unit` nowhere else. -/

namespace Sys2Proof.Machine

/-- Without an empty register among the reads, EMPTY_READ names none. -/
theorem State.trapRead_none {s : State} {rs : List Read} (h : s.anyEmpty rs = false) : s.trapRead rs = none := by
  induction rs with
  | nil => rfl
  | cons r rs ih =>
    simp only [State.anyEmpty, List.any_cons, Bool.or_eq_false_iff] at h
    have hr : ((s.readLanes r).findSome? fun l => s.readEmpty r l) = none := by
      rw [List.findSome?_eq_none_iff]
      intro l hl
      have := h.1
      rw [List.any_eq_false] at this
      simpa using this l hl
    simp only [State.trapRead]
    split
    · rw [hr]; exact ih h.2
    · exact ih h.2

/-- A unit that issues has its body's outcome. -/
theorem unit_issues {u : Use} {body : State → Res} {s : State} (h : s.issues u = true) :
    unit u body s = match body s.issued with
      | .ok t => .next t
      | .wait => .next s.waiting
      | .hold f => .next (f s).waiting
      | .trap f => .next (s.fault f)
      | .fail g f => .next ((g s).fault f) := by
  unfold State.issues at h
  split at h
  · exact absurd h (by simp)
  · rename_i p hp
    simp only [Bool.and_eq_true, Bool.not_eq_true', Bool.or_eq_true] at h
    obtain ⟨⟨⟨⟨⟨⟨⟨⟨h1, h2⟩, h3⟩, h4⟩, h5⟩, h6⟩, h7⟩, h8⟩, h9⟩ := h
    have h6' : (!gatedByFence u.major || s.fenceDone p) = true := by simpa using h6
    unfold unit
    simp only [hp, h1, h2, h3, h4, h5, h6', h7, h8, h9, State.trapRead_none h9]
    simp <;> rfl

/-- An instruction whose unit issues with a next state answers it. -/
theorem Meaning.run_ok {m : Meaning} {s t : State} (h : s.issues m.use = true) (hb : m.body s.issued = .ok t) :
    m.run s = .next t := by
  unfold Meaning.run
  rw [unit_issues h, hb]

/-- An instruction whose unit traps takes its fault. -/
theorem Meaning.run_trap {m : Meaning} {s : State} {f : FaultInfo} (h : s.issues m.use = true)
    (hb : m.body s.issued = .trap f) : m.run s = .next (s.fault f) := by
  unfold Meaning.run
  rw [unit_issues h, hb]

/-- An instruction whose unit finds that it must wait does not issue. -/
theorem Meaning.run_wait {m : Meaning} {s : State} (h : s.issues m.use = true) (hb : m.body s.issued = .wait) :
    m.run s = .next s.waiting := by
  unfold Meaning.run
  rw [unit_issues h, hb]

/-- A breach of the encoding or operand rules raises ILLEGAL_OP before anything else (R69). -/
theorem Meaning.run_illegal {m : Meaning} {s : State} {p : Split} (hp : s.split? s.u.iss.sid = some p)
    (h : s.unitLegal m.use = false) :
    m.run s = .next (s.fault { code := ILLEGAL_OP, wordPc := some s.u.iss.wordPc }) := by
  unfold Meaning.run unit
  simp [hp, h]

/-- An instruction is the run of its issue unit. -/
theorem exec_meaning {i : Instr} {s : State} {m : Meaning} (h : meaningOf i s = some m) : exec i s = m.run s := by
  cases i <;> simp only [meaningOf, Option.some.injEq, reduceCtorEq] at h <;> subst h <;> rfl

end Sys2Proof.Machine
end

