-- ==== Sys2Proof/Laws/Deliver.lean ====
section
/-! SUPPORT. What an issue leaves of a split (R62, R146), and what the shared operations that deliver a result can do:
State.deliverAll, State.deliverMask, State.eachSlice and State.setSAll (R61, R73, R83, R139). -/

namespace Sys2Proof.Machine

/-! ### The issue of a unit -/

theorem State.issued_split? (s : State) :
    s.issued.split? s.u.iss.sid = (s.split? s.u.iss.sid).map fun p =>
      { p with
        pc := s.u.iss.nextPc, age := s.u.clk, wcount := 0, waitFrom := none, await := none
        blkCount := if s.u.iss.cond.isSome then p.blkCount - 1 else p.blkCount
        blkPattern := if s.u.iss.cond.isSome then p.blkPattern >>> 1 else p.blkPattern } := by
  simp only [State.issued, State.split?, State.modSplit]
  generalize s.x.splits = l
  induction l with
  | nil => rfl
  | cons p l ih =>
    simp only [List.map_cons, List.find?_cons]
    by_cases h : p.sid = s.u.iss.sid
    · simp [h]
    · simp [h, ih]

/-- An issue keeps the slices, team and group of the split. -/
theorem State.issued_cur (s : State) :
    s.issued.cur.slices = s.cur.slices ∧ s.issued.cur.team = s.cur.team ∧ s.issued.cur.group = s.cur.group := by
  simp only [State.cur, State.split, State.issued_iss, State.issued_split?]
  cases s.split? s.u.iss.sid <;> simp

theorem State.issued_act (s : State) : s.issued.act = s.act := by
  simp only [State.act, State.active]
  rw [(State.issued_cur s).1, (State.issued_cur s).2.1, (State.issued_cur s).2.2]
  rfl

theorem State.issued_maskOk (s : State) (l : Nat) : s.issued.maskOk l = s.maskOk l := rfl

theorem State.issued_elanes (s : State) : s.issued.elanes = s.elanes := by
  simp only [State.elanes, State.issued_act]; rfl

theorem State.issued_wlanes (s : State) : s.issued.wlanes = s.wlanes := by
  simp only [State.wlanes, State.issued_act, State.issued_elanes]; rfl

theorem State.issued_slices (s : State) : s.issued.slices = s.slices := by
  simp only [State.slices, (State.issued_cur s).1]; rfl

theorem State.issued_lead (s : State) : s.issued.lead = s.lead := by
  simp only [State.lead, (State.issued_cur s).1]; rfl

theorem State.mem_elanes {s : State} {l : Nat} : l ∈ s.elanes ↔ l ∈ s.act ∧ s.maskOk l = true := by
  simp [State.elanes]

/-- The lanes whose destination a unit writes. -/
theorem State.mem_wlanes {s : State} {l : Nat} : l ∈ s.wlanes ↔ l ∈ s.act ∧ (s.maskOk l = true ∨ s.zi = true) := by
  unfold State.wlanes
  split <;> simp_all [State.mem_elanes]

theorem State.lane_inj {s : State} {a b : Nat} (h : s.lane a = s.lane b) : a = b := by
  simpa [State.lane] using h

@[simp] theorem State.issued_getV (s : State) : s.issued.getV = s.getV := rfl
@[simp] theorem State.issued_isEmpty (s : State) : s.issued.isEmpty = s.isEmpty := rfl
@[simp] theorem State.issued_getS (s : State) : s.issued.getS = s.getS := rfl
@[simp] theorem State.issued_getM (s : State) : s.issued.getM = s.getM := rfl
@[simp] theorem State.issued_getC (s : State) : s.issued.getC = s.getC := rfl
@[simp] theorem State.issued_slc (s : State) : s.issued.slc = s.slc := rfl
@[simp] theorem State.issued_lan (s : State) : s.issued.lan = s.lan := rfl
@[simp] theorem State.issued_grp (s : State) : s.issued.grp = s.grp := rfl
@[simp] theorem State.issued_lane (s : State) : s.issued.lane = s.lane := rfl
@[simp] theorem State.issued_slice (s : State) : s.issued.slice = s.slice := rfl
@[simp] theorem State.issued_pack (s : State) : s.issued.pack = s.pack := rfl
@[simp] theorem State.issued_alt (s : State) : s.issued.alt = s.alt := rfl
@[simp] theorem State.issued_sat (s : State) : s.issued.sat = s.sat := rfl
@[simp] theorem State.issued_vc (s : State) : s.issued.vc = s.vc := rfl
@[simp] theorem State.issued_fmt (s : State) : s.issued.fmt = s.fmt := rfl
@[simp] theorem State.issued_regsPer (s : State) : s.issued.regsPer = s.regsPer := rfl
@[simp] theorem State.issued_immS (s : State) : s.issued.immS = s.immS := rfl
@[simp] theorem State.issued_immU (s : State) : s.issued.immU = s.immU := rfl
@[simp] theorem State.issued_roundOf (s : State) : s.issued.roundOf = s.roundOf := rfl
@[simp] theorem State.issued_roundCvt (s : State) : s.issued.roundCvt = s.roundCvt := rfl
@[simp] theorem State.issued_teamLane (s : State) : s.issued.teamLane = s.teamLane := rfl
@[simp] theorem State.issued_sliceLanes (s : State) : s.issued.sliceLanes = s.sliceLanes := rfl
@[simp] theorem State.issued_launch (s : State) : s.issued.launch = s.launch := rfl

@[simp] theorem State.issued_getVs (s : State) (l : LaneId) (n k : Nat) : s.issued.getVs l n k = s.getVs l n k := by
  induction k generalizing n with
  | zero => rfl
  | succ k ih => simp only [State.getVs, ih]; rfl

@[simp] theorem State.issued_opV (s : State) : s.issued.opV = s.opV := by
  funext l r
  simp [State.opV]

@[simp] theorem State.issued_perElem (s : State) : s.issued.perElem = s.perElem := by
  funext a b c f l
  simp [State.perElem]

/-! ### V registers -/

/-- A loop over lanes that writes, where `w` holds, `k` registers from `vd` on with `g`. -/
theorem State.foldV (s : State) (vd k : Nat) (w : Nat → Bool) (g : Nat → Nat) (ls : List Nat) (t0 : State) :
    let t := ls.foldl (fun t l => if w l then t.setVs (s.lane l) vd (g l) k else t) t0
    (∀ l ∈ ls, w l = true → ∀ n, vd ≤ n → n < vd + k →
      t.getV (s.lane l) n = BitVec.ofNat 32 (g l / 2 ^ (32 * (n - vd))) ∧ t.isEmpty (s.lane l) n = false) ∧
    (∀ x n, (∀ l ∈ ls, w l = true → x = s.lane l → n < vd ∨ vd + k ≤ n) →
      t.getV x n = t0.getV x n ∧ t.isEmpty x n = t0.isEmpty x n) ∧
    { t with r.v := t0.r.v, r.ve := t0.r.ve } = t0 := by
  induction ls generalizing t0 with
  | nil => exact ⟨by simp, fun _ _ _ => ⟨rfl, rfl⟩, rfl⟩
  | cons a ls ih =>
    simp only [List.foldl_cons]
    by_cases hw : w a = true
    · simp only [hw, if_true]
      obtain ⟨h1, h2, h3⟩ := ih (t0.setVs (s.lane a) vd (g a) k)
      refine ⟨?_, ?_, ?_⟩
      · intro l hl hwl n hn1 hn2
        by_cases hm : l ∈ ls
        · exact h1 l hm hwl n hn1 hn2
        · have hla : l = a := by simpa [hm] using hl
          subst hla
          have := h2 (s.lane l) n fun l' hl' _ he => absurd (State.lane_inj he ▸ hl') hm
          rw [this.1, this.2, State.getV_setVs, State.isEmpty_setVs]
          simp [hn1, hn2]
      · intro x n hx
        obtain ⟨ha, hb⟩ := h2 x n fun l hl hwl he => hx l (List.mem_cons_of_mem _ hl) hwl he
        rw [ha, hb, State.getV_setVs, State.isEmpty_setVs]
        have : ¬ (s.lane a = x ∧ vd ≤ n ∧ n < vd + k) := by
          rintro ⟨he, h4, h5⟩
          have := hx a List.mem_cons_self hw he.symm
          omega
        simp [this]
      · have hs : ∀ (t1 : State) n v k, { t1.setVs (s.lane a) n v k with r.v := t1.r.v, r.ve := t1.r.ve } = t1 := by
          intro t1 n v k
          induction k generalizing t1 n v with
          | zero => rfl
          | succ k ihk =>
            have := ihk (t1.setV (s.lane a) n (BitVec.ofNat 32 v)) (n + 1) (v / 2 ^ 32)
            simp only [State.setVs]
            have h' := congrArg (fun q : State => { q with r.v := t1.r.v, r.ve := t1.r.ve }) this
            exact h'
        have h' := congrArg (fun q : State => { q with r.v := t0.r.v, r.ve := t0.r.ve }) h3
        exact h'.trans (hs t0 vd (g a) k)
    · simp only [hw]
      obtain ⟨h1, h2, h3⟩ := ih t0
      refine ⟨?_, ?_, h3⟩
      · intro l hl hwl
        have : l ≠ a := fun e => hw (e ▸ hwl)
        exact h1 l (by simpa [this] using hl) hwl
      · intro x n hx
        exact h2 x n fun l hl hwl he => hx l (List.mem_cons_of_mem _ hl) hwl he

theorem State.getVs_of_bytes (t : State) (l : LaneId) (vd k v : Nat)
    (h : ∀ n, vd ≤ n → n < vd + k → t.getV l n = BitVec.ofNat 32 (v / 2 ^ (32 * (n - vd)))) :
    t.getVs l vd k = v % 2 ^ (32 * k) := by
  have key : ∀ k n (u : State), (∀ i, i < k → u.getV l (n + i) = t.getV l (n + i)) → u.getVs l n k = t.getVs l n k := by
    intro k
    induction k with
    | zero => intros; rfl
    | succ k ih =>
      intro n u hu
      simp only [State.getVs]
      have h0 := hu 0 (by omega)
      simp only [Nat.add_zero] at h0
      rw [h0, ih (n + 1) u fun i hi => by
        have := hu (i + 1) (by omega)
        rwa [show n + 1 + i = n + (i + 1) by omega]]
  rw [← State.getVs_setVs t l vd v k]
  refine (key k vd (t.setVs l vd v k) fun i hi => ?_).symm
  rw [State.getV_setVs, if_pos ⟨rfl, by omega, by omega⟩, h (vd + i) (by omega) (by omega)]

/-- What delivering a V result can do (R61, R73). -/
theorem State.deliverAll_writesV (s : State) (vd k : Nat) (f g : Nat → Nat) (hfg : ∀ l, f l = g l) :
    s.WritesV (s.issued.deliverAll vd k f) vd k g := by
  have hd : s.issued.deliverAll vd k f =
      s.act.foldl (fun t l => if (s.maskOk l || s.zi) then t.setVs (s.lane l) vd (if s.maskOk l then f l else 0) k else t)
        s.issued := by
    simp only [State.deliverAll, State.issued_act]
    refine List.foldl_ext _ _ _ fun t l hl => ?_
    have e1 : s.issued.maskOk l = s.maskOk l := rfl
    have e2 : s.issued.zi = s.zi := rfl
    have e3 : s.issued.lane l = s.lane l := rfl
    rw [e1, e2, e3]
    cases s.maskOk l <;> cases s.zi <;> simp
  obtain ⟨h1, h2, h3⟩ := State.foldV s vd k (fun l => s.maskOk l || s.zi) (fun l => if s.maskOk l then f l else 0)
    s.act s.issued
  rw [← hd] at h1 h2 h3
  refine ⟨?_, ?_, ?_, ?_, h3⟩
  · intro l hl
    obtain ⟨ha, hm⟩ := State.mem_elanes.1 hl
    rw [State.getVs_of_bytes _ _ _ _ (f l), hfg]
    intro n hn1 hn2
    have := (h1 l ha (by simp [hm]) n hn1 hn2).1
    simpa [hm] using this
  · intro hz l ha hm
    rw [State.getVs_of_bytes _ _ _ _ 0, Nat.zero_mod]
    intro n hn1 hn2
    have := (h1 l ha (by simp [hz]) n hn1 hn2).1
    simpa [hm] using this
  · intro l hl n hn1 hn2
    obtain ⟨ha, hm⟩ := State.mem_wlanes.1 hl
    exact (h1 l ha (by simpa using hm) n hn1 hn2).2
  · intro x n hx
    exact h2 x n fun l hl hw he => hx l (State.mem_wlanes.2 ⟨hl, by simpa using hw⟩) he

/-! ### S registers -/

/-- What writing an S register slice by slice can do (R83, R103). -/
theorem State.eachSlice_writesS (s : State) (sd : Nat) (f g : SliceId → Word) (hfg : ∀ c, f c = g c) :
    ∃ t, s.issued.eachSlice sd f = .ok t ∧ s.WritesS t sd g := by
  refine ⟨_, rfl, ?_⟩
  rw [State.issued_slices]
  have key : ∀ (cs : List SliceId) (t0 : State),
      let t := cs.foldl (fun t c => t.setS c sd (f c)) t0
      (∀ c ∈ cs, t.getS c sd = f c) ∧ (∀ c n, c ∉ cs ∨ n ≠ sd → t.getS c n = t0.getS c n) ∧
        { t with r.sr := t0.r.sr } = t0 := by
    intro cs
    induction cs with
    | nil => intro t0; exact ⟨by simp, fun _ _ _ => rfl, rfl⟩
    | cons a cs ih =>
      intro t0
      obtain ⟨h1, h2, h3⟩ := ih (t0.setS a sd (f a))
      simp only [List.foldl_cons]
      refine ⟨?_, ?_, ?_⟩
      · intro c hc
        by_cases hm : c ∈ cs
        · exact h1 c hm
        · have hca : c = a := by simpa [hm] using hc
          subst hca
          rw [h2 c sd (.inl hm), State.getS_setS]
          simp
      · intro c n hc
        rw [h2 c n (by rcases hc with h | h; exact .inl fun hm => h (List.mem_cons_of_mem _ hm); exact .inr h),
          State.getS_setS]
        have : ¬ ((a, sd) = (c, n)) := by
          rintro he
          cases he
          simp at hc
        simp [this]
      · exact congrArg (fun q : State => { q with r.sr := t0.r.sr }) h3
  obtain ⟨h1, h2, h3⟩ := key s.slices s.issued
  exact ⟨fun c hc => (h1 c hc).trans (hfg c), h2, h3⟩

/-- What writing an S register in every slice of the split can do (R139). -/
theorem State.setSAll_writesS (s : State) (sd : Nat) (w : Word) : s.WritesS (s.issued.setSAll sd w) sd fun _ => w := by
  obtain ⟨t, ht, hw⟩ := State.eachSlice_writesS s sd (fun _ => w) (fun _ => w) fun _ => rfl
  cases ht
  exact hw

end Sys2Proof.Machine
end

