-- ==== Sys2Proof/Laws/Results.lean ====
section
/-! SUPPORT. How a statement "the instruction runs to a state of which P holds" follows from its unit's body, and what
delivering a mask register can do (R61, R73, R84, R97). -/

namespace Sys2Proof.Machine

/-- An instruction runs to what its unit's body answers. -/
theorem runsTo_of {i : Instr} {s : State} {m : Meaning} {P : State → Prop} (hm : meaningOf i s = some m)
    (hb : s.issues m.use = true → ∃ t, m.body s.issued = .ok t ∧ P t) : RunsTo i s P := by
  intro h
  have hu : s.issues m.use = true := by simpa [Runs, hm] using h
  obtain ⟨t, ht, hp⟩ := hb hu
  exact ⟨t, (exec_meaning hm).trans (Meaning.run_ok hu ht), hp⟩

/-- A unit that delivers V registers. -/
theorem runsTo_writesV {i : Instr} {s : State} {m : Meaning} {vd k : Nat} {f g : Nat → Nat}
    (hm : meaningOf i s = some m) (hb : m.body s.issued = .ok (s.issued.deliverAll vd k f)) (hf : ∀ l, f l = g l) :
    RunsTo i s fun t => s.WritesV t vd k g :=
  runsTo_of hm fun _ => ⟨_, hb, State.deliverAll_writesV s vd k f g hf⟩

/-- A unit that issues breaks no rule that raises ILLEGAL_OP by its encoding and prefixes. -/
theorem State.issues_legal {s : State} {u : Use} (h : s.issues u = true) : u.legal = true := by
  unfold State.issues at h
  split at h
  · cases h
  · simp only [Bool.and_eq_true, State.unitLegal] at h
    exact h.1.1.1.1.1.1.1.1.1.1

/-- A unit that issues has a split. -/
theorem State.issues_split {s : State} {u : Use} (h : s.issues u = true) :
    ∃ p, s.split? s.u.iss.sid = some p ∧ p.sid = s.u.iss.sid ∧ s.cur = p := by
  unfold State.issues at h
  split at h
  · cases h
  · rename_i p hp
    refine ⟨p, hp, ?_, by simp only [State.cur, State.split, hp]; rfl⟩
    have := List.find?_some (show s.x.splits.find? _ = some p from hp)
    simpa using this

/-- An issue keeps the name and the frames of its split. -/
theorem State.issued_cur_sid {s : State} {u : Use} (h : s.issues u = true) :
    s.issued.cur.sid = s.u.iss.sid ∧ s.issued.cur.frames = s.cur.frames := by
  obtain ⟨p, hp, hs, hc⟩ := State.issues_split h
  simp only [State.cur, State.split, State.issued_iss, State.issued_split?, hp]
  exact ⟨hs, rfl⟩

/-- An instruction whose unit traps takes its fault. -/
theorem exec_trap {i : Instr} {s : State} {m : Meaning} {f : FaultInfo} (hm : meaningOf i s = some m) (h : Runs i s)
    (hb : m.body s.issued = .trap f) : exec i s = .next (s.fault f) :=
  (exec_meaning hm).trans (Meaning.run_trap (by simpa [Runs, hm] using h) hb)

/-- A unit that delivers V registers, where its legality settles what it delivers. -/
theorem runsTo_writesV_of {i : Instr} {s : State} {m : Meaning} {vd k : Nat} {g : Nat → Nat}
    (hm : meaningOf i s = some m)
    (hb : m.use.legal = true → ∃ f, m.body s.issued = .ok (s.issued.deliverAll vd k f) ∧ ∀ l, f l = g l) :
    RunsTo i s fun t => s.WritesV t vd k g :=
  runsTo_of hm fun h => by
    obtain ⟨f, h1, h2⟩ := hb (State.issues_legal h)
    exact ⟨_, h1, State.deliverAll_writesV s vd k f g h2⟩

/-- A unit that writes an S register in each slice of its split. -/
theorem runsTo_writesS {i : Instr} {s : State} {m : Meaning} {sd : Nat} {f g : SliceId → Word}
    (hm : meaningOf i s = some m) (hb : m.body s.issued = s.issued.eachSlice sd f) (hf : ∀ c, f c = g c) :
    RunsTo i s fun t => s.WritesS t sd g :=
  runsTo_of hm fun _ => by
    obtain ⟨t, ht, hw⟩ := State.eachSlice_writesS s sd f g hf
    exact ⟨t, hb.trans ht, hw⟩

/-! ### Mask registers -/

theorem State.getM_setMBit (s : State) (l : LaneId) (n : Nat) (b : Bool) (c : SliceId) (n' i : Nat) (hi : i < 4) :
    maskBit ((s.setMBit l n b).getM c n') i =
      if n ≠ 0 ∧ l.slice = c ∧ n = n' ∧ i = l.l % 4 then b else maskBit (s.getM c n') i := by
  have key : ∀ (m : BitVec 4) (j : Nat), j < 4 →
      maskBit (if b then m ||| BitVec.ofNat 4 (2 ^ j) else m &&& ~~~BitVec.ofNat 4 (2 ^ j)) i =
        if i = j then b else maskBit m i := by
    intro m j hj
    have hi' : i = 0 ∨ i = 1 ∨ i = 2 ∨ i = 3 := by omega
    have hj' : j = 0 ∨ j = 1 ∨ j = 2 ∨ j = 3 := by omega
    rcases hi' with rfl | rfl | rfl | rfl <;> rcases hj' with rfl | rfl | rfl | rfl <;> cases b <;>
      simp [maskBit]
  unfold State.setMBit
  by_cases hn : n = 0
  · subst hn; simp
  · simp only [State.getM_setM _ _ _ _ _ _ hn, Prod.mk.injEq]
    by_cases hc : l.slice = c ∧ n = n'
    · obtain ⟨rfl, rfl⟩ := hc
      simp only [and_self, if_true, key _ _ (Nat.mod_lt _ (by omega))]
      simp [hn]
    · rw [if_neg hc]
      rw [if_neg]
      rintro ⟨-, h1, h2, -⟩
      exact hc ⟨h1, h2⟩

theorem State.getM_setMBit_ne (s : State) (l : LaneId) (n : Nat) (b : Bool) (c : SliceId) {n' : Nat} (h : n' ≠ n) :
    (s.setMBit l n b).getM c n' = s.getM c n' := by
  unfold State.setMBit
  by_cases hn : n = 0
  · subst hn; rfl
  · simp only [State.getM_setM _ _ _ _ _ _ hn, Prod.mk.injEq]
    rw [if_neg]
    rintro ⟨-, h1⟩
    exact h h1.symm

theorem State.setMBit_rest (s : State) (l : LaneId) (n : Nat) (b : Bool) :
    { s.setMBit l n b with r.mr := s.r.mr } = s := by
  unfold State.setMBit State.setM
  by_cases hn : n = 0
  · subst hn; rfl
  · simp [hn]

/-- A loop over lanes that writes, where `w` holds, their bits of a mask register with `g`. -/
theorem State.foldM (s : State) (md : Nat) (w g : Nat → Bool) (ls : List Nat) (t0 : State) :
    let t := ls.foldl (fun t l => if w l then t.setMBit (s.lane l) md (g l) else t) t0
    (md ≠ 0 → ∀ l ∈ ls, w l = true → maskBit (t.getM (s.slice (l / 4)) md) (l % 4) = g l) ∧
    (∀ c i, i < 4 → (∀ l ∈ ls, w l = true → c = s.slice (l / 4) → i ≠ l % 4) →
      maskBit (t.getM c md) i = maskBit (t0.getM c md) i) ∧
    (∀ c n, n ≠ md → t.getM c n = t0.getM c n) ∧
    { t with r.mr := t0.r.mr } = t0 := by
  induction ls generalizing t0 with
  | nil => exact ⟨by simp, fun _ _ _ _ => rfl, fun _ _ _ => rfl, rfl⟩
  | cons a ls ih =>
    simp only [List.foldl_cons]
    by_cases hw : w a = true
    · simp only [hw, if_true]
      obtain ⟨h1, h2, h3, h4⟩ := ih (t0.setMBit (s.lane a) md (g a))
      refine ⟨?_, ?_, ?_, ?_⟩
      · intro hmd l hl hwl
        by_cases hm : l ∈ ls
        · exact h1 hmd l hm hwl
        · have hla : l = a := by simpa [hm] using hl
          subst hla
          rw [h2 (s.slice (l / 4)) (l % 4) (Nat.mod_lt _ (by omega)), State.getM_setMBit _ _ _ _ _ _ _ (Nat.mod_lt _ (by omega))]
          · rw [if_pos ⟨hmd, rfl, rfl, rfl⟩]
          · intro l' hl' _ hs he
            have h5 : l / 4 = l' / 4 := by simpa [State.slice] using hs
            exact hm ((show l = l' by omega) ▸ hl')
      · intro c i hi hx
        rw [h2 c i hi fun l hl hwl => hx l (List.mem_cons_of_mem _ hl) hwl, State.getM_setMBit _ _ _ _ _ _ _ hi]
        rw [if_neg]
        rintro ⟨-, rfl, -, h6⟩
        exact hx a List.mem_cons_self hw rfl h6
      · intro c n hn
        rw [h3 c n hn, State.getM_setMBit_ne _ _ _ _ _ hn]
      · have h' := congrArg (fun q : State => { q with r.mr := t0.r.mr }) h4
        exact h'.trans (State.setMBit_rest t0 _ _ _)
    · simp only [hw]
      obtain ⟨h1, h2, h3, h4⟩ := ih t0
      refine ⟨?_, ?_, h3, h4⟩
      · intro hmd l hl hwl
        have : l ≠ a := fun e => hw (e ▸ hwl)
        exact h1 hmd l (by simpa [this] using hl) hwl
      · intro c i hi hx
        exact h2 c i hi fun l hl hwl => hx l (List.mem_cons_of_mem _ hl) hwl

/-- What delivering to a mask register can do (R61, R73, R84). -/
theorem State.deliverMask_writesM (s : State) (md : Nat) (f g : Nat → Bool) (hfg : ∀ l, f l = g l) :
    s.WritesM (s.issued.deliverMask md f) md g := by
  have hd : s.issued.deliverMask md f =
      s.act.foldl (fun t l => if (s.maskOk l || s.zi) then t.setMBit (s.lane l) md (if s.maskOk l then f l else false)
        else t) s.issued := by
    simp only [State.deliverMask, State.issued_act]
    refine List.foldl_ext _ _ _ fun t l _ => ?_
    have e1 : s.issued.maskOk l = s.maskOk l := rfl
    have e2 : s.issued.zi = s.zi := rfl
    have e3 : s.issued.lane l = s.lane l := rfl
    rw [e1, e2, e3]
    cases s.maskOk l <;> cases s.zi <;> simp
  obtain ⟨h1, h2, h3, h4⟩ := State.foldM s md (fun l => s.maskOk l || s.zi) (fun l => if s.maskOk l then f l else false)
    s.act s.issued
  rw [← hd] at h1 h2 h3 h4
  refine ⟨?_, ?_, ?_, h3, h4⟩
  · intro hmd l hl
    obtain ⟨ha, hm⟩ := State.mem_elanes.1 hl
    simpa [hm, hfg] using h1 hmd l ha (by simp [hm])
  · intro hmd hz l ha hm
    simpa [hm] using h1 hmd l ha (by simp [hz])
  · intro c i hi hx
    exact h2 c i hi fun l hl hw => hx l (State.mem_wlanes.2 ⟨hl, by simpa using hw⟩)

/-- A unit that delivers a mask register. -/
theorem runsTo_writesM {i : Instr} {s : State} {m : Meaning} {md : Nat} {f g : Nat → Bool}
    (hm : meaningOf i s = some m) (hb : m.body s.issued = .ok (s.issued.deliverMask md f)) (hf : ∀ l, f l = g l) :
    RunsTo i s fun t => s.WritesM t md g :=
  runsTo_of hm fun _ => ⟨_, hb, State.deliverMask_writesM s md f g hf⟩

end Sys2Proof.Machine
end

