-- ==== Sys2Proof/Laws/Access.lean ====
section
/-! SUPPORT. What issuing the accesses of a memory unit can do (R158 to R160, R176): State.issueAccesses and
State.memBody. -/

namespace Sys2Proof.Machine

theorem State.issued_plans (s : State) (o : MemOp) : s.issued.plans o = s.plans o := by
  simp only [State.plans, State.issued_elanes]
  rfl

theorem State.issued_accessOf (s : State) (o : MemOp) (p : LanePlan) (i : Nat) :
    s.issued.accessOf o p i = s.accessOf o p i := by
  simp only [State.accessOf, State.issued_getVs]
  rfl

theorem State.postHeld_rest (s : State) (sid seq : Nat) : ∃ q, s.postHeld sid seq = { s with d.fq := q } := by
  unfold State.postHeld
  dsimp only
  split
  · exact ⟨_, rfl⟩
  · exact ⟨s.d.fq, rfl⟩

theorem State.countChunk_rest (s : State) (core asid : Nat) (lf : Leaf) (pa : Nat) :
    ∃ f, s.countChunk core asid lf pa = { s with f := f } := by
  unfold State.countChunk
  dsimp only
  split
  · exact ⟨s.f, rfl⟩
  · split
    · exact ⟨_, rfl⟩
    · exact ⟨_, rfl⟩

theorem State.missWalks_rest (s : State) (core asid : Nat) (vas : List Nat) :
    ∃ w, s.missWalks core asid vas = { s with k.walks := w } := ⟨_, rfl⟩

theorem State.countChunks_rest (s : State) (core asid : Nat) (ps : List (Leaf × Nat)) :
    ∃ f, s.countChunks core asid ps = { s with f := f } := by
  unfold State.countChunks
  dsimp only
  generalize List.eraseDups (α := Leaf × Nat) _ = xs
  induction xs generalizing s with
  | nil => exact ⟨s.f, rfl⟩
  | cons x xs ih =>
    obtain ⟨f, hf⟩ := State.countChunk_rest s core asid x.1 x.2
    obtain ⟨g, hg⟩ := ih (s.countChunk core asid x.1 x.2)
    rw [List.foldl_cons, hg, hf]
    exact ⟨g, rfl⟩

theorem State.markVs_rest (s : State) (l : LaneId) (n : Nat) (e : Bool) (k : Nat) :
    { s.markVs l n e k with r.v := s.r.v, r.ve := s.r.ve } = s ∧ (∀ l' n', (s.markVs l n e k).getV l' n' = s.getV l' n') ∧
      ∀ l' n', (s.markVs l n e k).isEmpty l' n' = if l = l' ∧ n ≤ n' ∧ n' < n + k then e else s.isEmpty l' n' := by
  induction k generalizing s n with
  | zero => exact ⟨rfl, fun _ _ => rfl, fun _ _ => by rw [if_neg (by omega)]; rfl⟩
  | succ k ih =>
    obtain ⟨h1, h2, h3⟩ := ih (s.setEmpty l n e) (n + 1)
    simp only [State.markVs]
    refine ⟨congrArg (fun q : State => { q with r.v := s.r.v, r.ve := s.r.ve }) h1, fun l' n' => (h2 l' n').trans rfl, ?_⟩
    intro l' n'
    simp only [h3, State.isEmpty_setEmpty, Prod.mk.injEq]
    by_cases hl : l = l'
    · subst hl
      by_cases h5 : n = n'
      · subst h5
        simp
      · by_cases h6 : n + 1 ≤ n' ∧ n' < n + 1 + k
        · rw [if_pos ⟨rfl, h6⟩, if_pos ⟨rfl, by omega, by omega⟩]
        · rw [if_neg (by tauto), if_neg (by tauto), if_neg (by omega)]
    · simp [hl]

theorem State.setVs_rest (s : State) (l : LaneId) (n v k : Nat) :
    { s.setVs l n v k with r.v := s.r.v, r.ve := s.r.ve } = s := by
  induction k generalizing s n v with
  | zero => rfl
  | succ k ih =>
    have := ih (s.setV l n (BitVec.ofNat 32 v)) (n + 1) (v / 2 ^ 32)
    exact congrArg (fun q : State => { q with r.v := s.r.v, r.ve := s.r.ve }) this

/-- The loop that empties destinations, and zeroes them where `z` holds. -/
theorem State.foldEmpty (s : State) (vd k : Nat) (w z : Nat → Bool) (ls : List Nat) (t0 : State) :
    let t := ls.foldl (fun t l =>
      if w l then t.markVs (s.lane l) vd true k else if z l then t.setVs (s.lane l) vd 0 k else t) t0
    (∀ l ∈ ls, w l = true → ∀ n, vd ≤ n → n < vd + k →
      t.isEmpty (s.lane l) n = true ∧ t.getV (s.lane l) n = t0.getV (s.lane l) n) ∧
    (∀ l ∈ ls, w l = false → z l = true → ∀ n, vd ≤ n → n < vd + k → t.getV (s.lane l) n = 0) ∧
    (∀ x n, (∀ l ∈ ls, (w l || z l) = true → x = s.lane l → n < vd ∨ vd + k ≤ n) →
      t.getV x n = t0.getV x n ∧ t.isEmpty x n = t0.isEmpty x n) ∧
    { t with r.v := t0.r.v, r.ve := t0.r.ve } = t0 := by
  induction ls generalizing t0 with
  | nil => exact ⟨by simp, by simp, fun _ _ _ => ⟨rfl, rfl⟩, rfl⟩
  | cons a ls ih =>
    simp only [List.foldl_cons]
    by_cases hw : w a = true
    · simp only [hw, if_true]
      obtain ⟨m1, m2, m3⟩ := State.markVs_rest t0 (s.lane a) vd true k
      obtain ⟨h1, h2, h3, h4⟩ := ih (t0.markVs (s.lane a) vd true k)
      refine ⟨?_, ?_, ?_, ?_⟩
      · intro l hl hwl n hn1 hn2
        by_cases hm : l ∈ ls
        · have := h1 l hm hwl n hn1 hn2
          rwa [m2] at this
        · have hla : l = a := by simpa [hm] using hl
          subst hla
          have := h3 (s.lane l) n fun l' hl' _ he => absurd (State.lane_inj he ▸ hl') hm
          rw [this.1, this.2, m2, m3]
          simp [hn1, hn2]
      · intro l hl hwl hz n hn1 hn2
        have : l ≠ a := fun e => by rw [e, hw] at hwl; cases hwl
        exact h2 l (by simpa [this] using hl) hwl hz n hn1 hn2
      · intro x n hx
        obtain ⟨ha, hb⟩ := h3 x n fun l hl => hx l (List.mem_cons_of_mem _ hl)
        rw [ha, hb, m2, m3]
        refine ⟨rfl, if_neg ?_⟩
        rintro ⟨he, h5, h6⟩
        have := hx a List.mem_cons_self (by simp [hw]) he.symm
        omega
      · exact (congrArg (fun q : State => { q with r.v := t0.r.v, r.ve := t0.r.ve }) h4).trans m1
    · have hw' : w a = false := by simpa using hw
      simp only [hw', Bool.false_eq_true, if_false]
      by_cases hz : z a = true
      · simp only [hz, if_true]
        obtain ⟨h1, h2, h3, h4⟩ := ih (t0.setVs (s.lane a) vd 0 k)
        refine ⟨?_, ?_, ?_, ?_⟩
        · intro l hl hwl n hn1 hn2
          have : l ≠ a := fun e => hw (e ▸ hwl)
          have hr := h1 l (by simpa [this] using hl) hwl n hn1 hn2
          refine ⟨hr.1, hr.2.trans ?_⟩
          rw [State.getV_setVs, if_neg]
          rintro ⟨he, -⟩
          exact this (State.lane_inj he).symm
        · intro l hl hwl hzl n hn1 hn2
          by_cases hm : l ∈ ls
          · exact h2 l hm hwl hzl n hn1 hn2
          · have hla : l = a := by simpa [hm] using hl
            subst hla
            have := h3 (s.lane l) n fun l' hl' _ he => absurd (State.lane_inj he ▸ hl') hm
            rw [this.1, State.getV_setVs]
            simp [hn1, hn2]
        · intro x n hx
          obtain ⟨ha, hb⟩ := h3 x n fun l hl => hx l (List.mem_cons_of_mem _ hl)
          rw [ha, hb, State.getV_setVs, State.isEmpty_setVs]
          have : ¬ (s.lane a = x ∧ vd ≤ n ∧ n < vd + k) := by
            rintro ⟨he, h5, h6⟩
            have := hx a List.mem_cons_self (by simp [hz]) he.symm
            omega
          simp [this]
        · exact (congrArg (fun q : State => { q with r.v := t0.r.v, r.ve := t0.r.ve }) h4).trans
            (State.setVs_rest t0 _ _ _ _)
      · have hz' : z a = false := by simpa using hz
        simp only [hz', Bool.false_eq_true, if_false]
        obtain ⟨h1, h2, h3, h4⟩ := ih t0
        refine ⟨?_, ?_, ?_, h4⟩
        · intro l hl hwl
          have : l ≠ a := fun e => hw (e ▸ hwl)
          exact h1 l (by simpa [this] using hl) hwl
        · intro l hl hwl hzl
          have : l ≠ a := fun e => hz (e ▸ hzl)
          exact h2 l (by simpa [this] using hl) hwl hzl
        · intro x n hx
          exact h3 x n fun l hl => hx l (List.mem_cons_of_mem _ hl)

/-- The loop that raises a counter slice by slice. -/
theorem State.foldC (s : State) (n : Nat) (k : Nat → Nat) (cs : List Nat) (t0 : State) :
    let t := cs.foldl (fun t c => if k c = 0 then t else t.setC (s.slice c) n (t.getC (s.slice c) n + k c)) t0
    (cs.Nodup → ∀ c ∈ cs, t.getC (s.slice c) n = t0.getC (s.slice c) n + k c) ∧
    (∀ c, (∀ d ∈ cs, c ≠ s.slice d) → t.getC c n = t0.getC c n) ∧ { t with r.cn := t0.r.cn } = t0 := by
  induction cs generalizing t0 with
  | nil => exact ⟨by simp, fun _ _ => rfl, rfl⟩
  | cons a cs ih =>
    simp only [List.foldl_cons]
    by_cases hk : k a = 0
    · simp only [hk, if_true]
      obtain ⟨h1, h2, h3⟩ := ih t0
      refine ⟨?_, fun c hc => h2 c fun d hd => hc d (List.mem_cons_of_mem _ hd), h3⟩
      intro hn c hc
      rw [List.nodup_cons] at hn
      rcases List.mem_cons.1 hc with rfl | hc
      · rw [hk, h2]
        · rfl
        · intro d hd he
          exact hn.1 ((by simpa [State.slice] using he : c = d) ▸ hd)
      · exact h1 hn.2 c hc
    · simp only [hk, if_false]
      obtain ⟨h1, h2, h3⟩ := ih (t0.setC (s.slice a) n (t0.getC (s.slice a) n + k a))
      refine ⟨?_, ?_, ?_⟩
      · intro hn c hc
        rw [List.nodup_cons] at hn
        rcases List.mem_cons.1 hc with rfl | hc
        · rw [h2, State.getC_setC, if_pos rfl]
          intro d hd he
          exact hn.1 ((by simpa [State.slice] using he : c = d) ▸ hd)
        · rw [h1 hn.2 c hc, State.getC_setC, if_neg]
          intro he
          have : a = c := by simpa [State.slice] using (Prod.mk.inj he).1
          exact hn.1 (this ▸ hc)
      · intro c hc
        rw [h2 c fun d hd => hc d (List.mem_cons_of_mem _ hd), State.getC_setC, if_neg]
        intro he
        exact hc a List.mem_cons_self (Prod.mk.inj he).1.symm
      · exact (congrArg (fun q : State => { q with r.cn := t0.r.cn }) h3).trans rfl

/-- What raising a counter can do (R160). -/
theorem State.raiseC_spec (s : State) (n : Nat) :
    (s.cur.slices.Nodup → ∀ c ∈ s.cur.slices, (s.raiseC n).getC (s.slice c) n =
      s.getC (s.slice c) n + (s.elanes.filter fun l => decide (l / 4 = c)).length) ∧
    { s.raiseC n with r.cn := s.r.cn } = s := by
  obtain ⟨h1, -, h3⟩ := State.foldC s n (fun c => (s.elanes.filter fun l => decide (l / 4 = c)).length) s.cur.slices s
  exact ⟨h1, h3⟩

/-- What issuing accesses can do (R158 to R160, R176). -/
theorem State.issueAccesses_spec (s : State) (o : MemOp) (ps : List LanePlan) :
    let t := s.issueAccesses o ps
    (∃ rv re rc ka kw uid seq fq f, t = { s with
      r.v := rv, r.ve := re, r.cn := rc, k.acc := ka, k.walks := kw, u.uid := uid, u.seqNo := seq, d.fq := fq, f := f }) ∧
    t.k.acc = s.k.acc ++ (ps.mapIdx fun i p => s.accessOf o p i) ∧
    (∀ l ∈ s.elanes, ∀ n, o.dst ≤ n → n < o.dst + o.dstN →
      t.isEmpty (s.lane l) n = true ∧ t.getV (s.lane l) n = s.getV (s.lane l) n) ∧
    (s.zi = true → ∀ l ∈ s.act, s.maskOk l = false → t.getVs (s.lane l) o.dst o.dstN = 0) ∧
    (∀ x n, (∀ l ∈ s.wlanes, x = s.lane l → n < o.dst ∨ o.dst + o.dstN ≤ n) →
      t.getV x n = s.getV x n ∧ t.isEmpty x n = s.isEmpty x n) ∧
    (∀ n, o.cnt = some n → s.cur.slices.Nodup → ∀ c ∈ s.cur.slices,
      t.getC (s.slice c) n = s.getC (s.slice c) n + (s.elanes.filter fun l => decide (l / 4 = c)).length) := by
  intro t
  obtain ⟨t1, e1, hc1, hr1⟩ : ∃ t1, t1 = (match o.cnt with | some n => s.raiseC n | none => s) ∧
      (∀ n, o.cnt = some n → s.cur.slices.Nodup → ∀ c ∈ s.cur.slices,
        t1.getC (s.slice c) n = s.getC (s.slice c) n + (s.elanes.filter fun l => decide (l / 4 = c)).length) ∧
      { t1 with r.cn := s.r.cn } = s := by
    refine ⟨_, rfl, ?_, ?_⟩
    · intro n hn
      simp only [hn]
      exact (State.raiseC_spec s n).1
    · cases o.cnt with
      | none => rfl
      | some n => exact (State.raiseC_spec s n).2
  obtain ⟨t2, e2, he2, hz2, ho2, hr2⟩ : ∃ t2, t2 = (if o.dstN = 0 then t1
      else s.act.foldl (fun t l =>
        if s.maskOk l then t.markVs (s.lane l) o.dst true o.dstN
        else if s.zi then t.setVs (s.lane l) o.dst 0 o.dstN
        else t) t1) ∧
      (∀ l ∈ s.elanes, ∀ n, o.dst ≤ n → n < o.dst + o.dstN →
        t2.isEmpty (s.lane l) n = true ∧ t2.getV (s.lane l) n = t1.getV (s.lane l) n) ∧
      (s.zi = true → ∀ l ∈ s.act, s.maskOk l = false → t2.getVs (s.lane l) o.dst o.dstN = 0) ∧
      (∀ x n, (∀ l ∈ s.wlanes, x = s.lane l → n < o.dst ∨ o.dst + o.dstN ≤ n) →
        t2.getV x n = t1.getV x n ∧ t2.isEmpty x n = t1.isEmpty x n) ∧
      { t2 with r.v := t1.r.v, r.ve := t1.r.ve } = t1 := by
    refine ⟨_, rfl, ?_⟩
    by_cases h0 : o.dstN = 0
    · rw [if_pos h0]
      exact ⟨fun l _ n h5 h6 => absurd h6 (by omega), fun _ _ _ _ => by rw [h0]; rfl, fun _ _ _ => ⟨rfl, rfl⟩, rfl⟩
    · rw [if_neg h0]
      obtain ⟨h1, h2, h3, h4⟩ := State.foldEmpty s o.dst o.dstN s.maskOk (fun _ => s.zi) s.act t1
      refine ⟨?_, ?_, ?_, h4⟩
      · intro l hl
        obtain ⟨ha, hm⟩ := State.mem_elanes.1 hl
        exact h1 l ha hm
      · intro hz l ha hm
        rw [State.getVs_of_bytes _ _ _ _ 0, Nat.zero_mod]
        intro n h5 h6
        rw [h2 l ha hm hz n h5 h6]
        simp
      · intro x n hx
        exact h3 x n fun l hl hw => hx l (State.mem_wlanes.2 ⟨hl, by simpa using hw⟩)
  obtain ⟨t3, e3⟩ : ∃ t3 : State, t3 = { t2 with
      k.acc := t2.k.acc ++ ps.mapIdx fun i p => s.accessOf o p i, u.uid := t2.u.uid + ps.length, u.seqNo := t2.u.seqNo + 1 } :=
    ⟨_, rfl⟩
  obtain ⟨kw, hw⟩ := State.missWalks_rest t3 (s.coreOf s.gid) (s.launch s.u.iss.team).asid (ps.filterMap LanePlan.va?)
  obtain ⟨f, hf⟩ := State.countChunks_rest { t3 with k.walks := kw } (s.coreOf s.gid) (s.launch s.u.iss.team).asid
    (ps.filterMap LanePlan.place)
  obtain ⟨q, hq⟩ := State.postHeld_rest { t3 with k.walks := kw, f := f } s.u.iss.sid s.u.seqNo
  have ht : t = { { t3 with k.walks := kw, f := f } with d.fq := q } := by
    rw [← hq, ← hf, ← hw, e3, e2, e1]
    rfl
  have hg1 : t1 = { s with r.cn := t1.r.cn } := congrArg (fun z : State => { z with r.cn := t1.r.cn }) hr1
  have hg2 : t2 = { t1 with r.v := t2.r.v, r.ve := t2.r.ve } :=
    congrArg (fun z : State => { z with r.v := t2.r.v, r.ve := t2.r.ve }) hr2
  have v1 : ∀ x n, t1.getV x n = s.getV x n ∧ t1.isEmpty x n = s.isEmpty x n := by
    intro x n
    rw [hg1]
    exact ⟨rfl, rfl⟩
  have cn : t2.r.cn = t1.r.cn := by rw [hg2]
  refine ⟨⟨t2.r.v, t2.r.ve, t1.r.cn, t3.k.acc, kw, t3.u.uid, t3.u.seqNo, q, f, ?_⟩, ?_, ?_, ?_, ?_, ?_⟩
  · rw [ht, e3, hg2, hg1]
  · rw [ht, e3, hg2, hg1]
  · intro l hl n h5 h6
    obtain ⟨h7, h8⟩ := he2 l hl n h5 h6
    rw [ht, e3]
    exact ⟨h7, h8.trans (v1 _ _).1⟩
  · intro hz l ha hm
    rw [ht, e3]
    have : ∀ k n, State.getVs { { { t2 with
        k.acc := t2.k.acc ++ ps.mapIdx fun i p => s.accessOf o p i, u.uid := t2.u.uid + ps.length,
        u.seqNo := t2.u.seqNo + 1 } with k.walks := kw, f := f } with d.fq := q } (s.lane l) n k = t2.getVs (s.lane l) n k := by
      intro k
      induction k with
      | zero => intro _; rfl
      | succ k ih => intro n; simp only [State.getVs, ih]; rfl
    rw [this]
    exact hz2 hz l ha hm
  · intro x n hx
    obtain ⟨h7, h8⟩ := ho2 x n hx
    rw [ht, e3]
    exact ⟨h7.trans (v1 _ _).1, h8.trans (v1 _ _).2⟩
  · intro n hn hd c hc
    rw [ht, e3, ← hc1 n hn hd c hc]
    simp only [State.getC, cn]

/-- What a memory unit can do when no lane meets a precise fault (R158 to R160, R179). -/
theorem State.memBody_accesses (s : State) (o : MemOp) (h : State.memFault o (s.plans o) = none) :
    ∃ t, s.issued.memBody o = .ok t ∧ s.Accesses t o := by
  refine ⟨s.issued.issueAccesses o (s.plans o), ?_, ?_⟩
  · simp only [State.memBody, State.issued_plans, h]
  · obtain ⟨⟨rv, re, rc, ka, kw, uid, seq, fq, f, ht⟩, h1, h2, h3, h4, h5⟩ := State.issueAccesses_spec s.issued o (s.plans o)
    simp only [State.issued_accessOf] at h1
    rw [State.issued_elanes] at h2 h5
    rw [State.issued_act] at h3
    rw [State.issued_wlanes] at h4
    rw [(State.issued_cur s).1] at h5
    exact ⟨h1, h2, h3, h4, h5, by rw [ht]; rfl, by rw [ht]; rfl, by rw [ht]; rfl, by rw [ht]; rfl, by rw [ht]; rfl,
      by rw [ht]; rfl, by rw [ht]; rfl, by rw [ht]⟩

/-- A memory instruction. -/
theorem runsTo_accesses {i : Instr} {s : State} {m : Meaning} {o : MemOp} (hm : meaningOf i s = some m)
    (hb : m.body s.issued = s.issued.memBody o) (hf : State.memFault o (s.plans o) = none) :
    RunsTo i s fun t => s.Accesses t o :=
  runsTo_of hm fun _ => by
    obtain ⟨t, ht, ha⟩ := State.memBody_accesses s o hf
    exact ⟨t, hb.trans ht, ha⟩

/-- A memory instruction, with its precise faults. -/
theorem runsTo_mem {i : Instr} {s : State} {m : Meaning} {o : MemOp} (hm : meaningOf i s = some m)
    (hb : m.body s.issued = s.issued.memBody o) : s.GivesMem i o :=
  ⟨runsTo_accesses hm hb, fun f hf h => exec_trap hm h (hb.trans (by simp only [State.memBody, State.issued_plans, hf]))⟩

end Sys2Proof.Machine
end

