-- ==== Sys2Proof/Laws/Effects.lean ====
section
/-! SUPPORT. What the operations do that deliver more than one result: the generators of a conversion (R28), the issue of an
SFU operation (R116), and results that land in registers. -/

namespace Sys2Proof.Machine

@[simp] theorem State.issued_gen (s : State) : s.issued.gen = s.gen := rfl
@[simp] theorem State.issued_cvtWord (s : State) : s.issued.cvtWord = s.cvtWord := rfl
@[simp] theorem State.issued_stoch (s : State) : s.issued.stoch = s.stoch := rfl
@[simp] theorem State.issued_dxCode (s : State) : s.issued.dxCode = s.dxCode := rfl
@[simp] theorem State.issued_dxPolicy (s : State) : s.issued.dxPolicy = s.dxPolicy := rfl
@[simp] theorem State.issued_dxRegs (s : State) : s.issued.dxRegs = s.dxRegs := rfl
@[simp] theorem State.issued_dxWide (s : State) : s.issued.dxWide = s.dxWide := rfl
@[simp] theorem State.issued_mBit (s : State) : s.issued.mBit = s.mBit := rfl
@[simp] theorem State.issued_groupWidth (s : State) : s.issued.groupWidth = s.groupWidth := rfl
@[simp] theorem State.issued_redFn (s : State) : s.issued.redFn = s.redFn := by
  funext c
  simp only [State.redFn, State.issued_lead]
  rfl
@[simp] theorem State.issued_redValues (s : State) : s.issued.redValues = s.redValues := by
  funext c va e
  simp [State.redValues, State.issued_elanes]
@[simp] theorem State.issued_cvtLane (s : State) : s.issued.cvtLane = s.cvtLane := by
  funext va vd ws wt f l
  simp [State.cvtLane, State.sliceOf]

/-- What advancing the generators can do (R28). -/
theorem State.advanceGen_spec (s t : State) (n : Nat) :
    (∀ l ∈ s.elanes, s.stoch (s.slice (l / 4)) = true →
      (s.advanceGen t n).lan (s.lane l) = { t.lan (s.lane l) with gen := genIter (s.gen (s.lane l)) n }) ∧
    (∀ x, (∀ l ∈ s.elanes, x = s.lane l → s.stoch (s.slice (l / 4)) = false) → (s.advanceGen t n).lan x = t.lan x) ∧
    { s.advanceGen t n with r.ln := t.r.ln } = t := by
  unfold State.advanceGen
  generalize s.elanes = ls
  induction ls generalizing t with
  | nil => exact ⟨by simp, fun _ _ => rfl, rfl⟩
  | cons a ls ih =>
    simp only [List.foldl_cons, State.sliceOf]
    by_cases hw : s.stoch (s.slice (a / 4)) = true
    · simp only [hw, if_true]
      obtain ⟨h1, h2, h3⟩ := ih (t.modLan (s.lane a) fun x => { x with gen := genIter (s.gen (s.lane a)) n })
      simp only [State.sliceOf] at h1 h2 h3
      refine ⟨?_, ?_, ?_⟩
      · intro l hl hs
        by_cases hm : l ∈ ls
        · rw [h1 l hm hs, State.lan_modLan]
          split
          · rename_i he
            rw [← he]
          · rfl
        · have hla : l = a := by simpa [hm] using hl
          subst hla
          rw [h2 (s.lane l) fun l' hl' he => absurd (State.lane_inj he ▸ hl') hm, State.lan_modLan, if_pos rfl]
      · intro x hx
        rw [h2 x fun l hl he => hx l (List.mem_cons_of_mem _ hl) he, State.lan_modLan, if_neg]
        intro he
        have := hx a List.mem_cons_self he.symm
        rw [hw] at this
        cases this
      · exact congrArg (fun q : State => { q with r.ln := t.r.ln }) h3
    · have hw' : s.stoch (s.slice (a / 4)) = false := by simpa using hw
      simp only [hw', Bool.false_eq_true, if_false]
      obtain ⟨h1, h2, h3⟩ := ih t
      simp only [State.sliceOf] at h1 h2 h3
      refine ⟨?_, ?_, h3⟩
      · intro l hl hs
        have : l ≠ a := fun e => hw (e ▸ hs)
        exact h1 l (by simpa [this] using hl) hs
      · intro x hx
        exact h2 x fun l hl he => hx l (List.mem_cons_of_mem _ hl) he

/-- What a conversion's delivery can do (R28, R120). -/
theorem State.deliver_converts (s : State) (vd k n : Nat) (f g : Nat → Nat) (hfg : ∀ l, f l = g l) :
    s.Converts (s.issued.advanceGen (s.issued.deliverAll vd k f) n) vd k n g := by
  have hw := State.deliverAll_writesV s vd k f g hfg
  obtain ⟨h1, h2, h3⟩ := State.advanceGen_spec s.issued (s.issued.deliverAll vd k f) n
  rw [State.issued_elanes] at h1 h2
  have hl : (s.issued.deliverAll vd k f).r.ln = s.r.ln := by
    have := congrArg (fun q : State => q.r.ln) hw.rest
    exact this
  have hlan : ∀ x, (s.issued.deliverAll vd k f).lan x = s.lan x := fun x => by simp only [State.lan, hl]
  refine ⟨?_, ?_, ?_⟩
  · have : { s.issued.advanceGen (s.issued.deliverAll vd k f) n with r.ln := s.r.ln } = s.issued.deliverAll vd k f := by
      rw [← hl]; exact h3
    rw [this]
    exact hw
  · intro l hl hs
    rw [← hlan]
    exact h1 l hl hs
  · intro x hx
    rw [← hlan]
    exact h2 x hx

/-- A conversion. -/
theorem runsTo_converts {i : Instr} {s : State} {m : Meaning} {vd k n : Nat} {f g : Nat → Nat}
    (hm : meaningOf i s = some m)
    (hb : m.body s.issued = .ok (s.issued.advanceGen (s.issued.deliverAll vd k f) n)) (hf : ∀ l, f l = g l) :
    RunsTo i s fun t => s.Converts t vd k n g :=
  runsTo_of hm fun _ => ⟨_, hb, State.deliver_converts s vd k n f g hf⟩

/-- What the issue of an SFU operation can do (R116). -/
theorem State.issueSfu_sends (s : State) (o : OpA1) (f : Rnd → XVal → Nat) :
    ∃ t, s.issued.issueSfu o f = .ok t ∧ s.SendsSfu t o.vd.toNat fun l =>
      BitVec.ofNat 32 (f (s.roundOf (s.slice (l / 4))) (fp32.value (s.getV (s.lane l) o.va.toNat).toNat)) := by
  obtain ⟨h1, h2, h3, h4⟩ := State.foldEmpty s o.vd.toNat 1 s.maskOk (fun _ => s.zi) s.act s.issued
  obtain ⟨t2, e2⟩ : ∃ t2, t2 = s.act.foldl (fun t l =>
      if s.maskOk l then t.markVs (s.lane l) o.vd.toNat true 1
      else if s.zi then t.setVs (s.lane l) o.vd.toNat 0 1 else t) s.issued := ⟨_, rfl⟩
  rw [← e2] at h1 h2 h3 h4
  have hg : t2 = { s.issued with r.v := t2.r.v, r.ve := t2.r.ve } :=
    congrArg (fun z : State => { z with r.v := t2.r.v, r.ve := t2.r.ve }) h4
  refine ⟨_, rfl, ?_⟩
  simp only [State.issued_act, State.issued_elanes]
  have hfold : (s.act.foldl (fun t l =>
      if s.issued.maskOk l then t.setEmpty (s.issued.lane l) o.vd.toNat true
      else if s.issued.zi then t.setV (s.issued.lane l) o.vd.toNat 0 else t) s.issued) = t2 := e2.symm ▸ rfl
  rw [hfold]
  refine ⟨?_, ?_, ?_, ?_, ?_⟩
  · rw [hg]; rfl
  · intro l hl
    obtain ⟨ha, hm⟩ := State.mem_elanes.1 hl
    exact h1 l ha hm _ (Nat.le_refl _) (Nat.lt_succ_self _)
  · intro hz l ha hm
    exact h2 l ha hm hz _ (Nat.le_refl _) (Nat.lt_succ_self _)
  · intro x n hx
    exact h3 x n fun l hl hw he => by
      have := hx l (State.mem_wlanes.2 ⟨hl, by simpa using hw⟩) he
      omega
  · rw [hg]; rfl

/-- An SFU instruction. -/
theorem runsTo_sfu {i : Instr} {s : State} {m : Meaning} {o : OpA1} {f : Rnd → XVal → Nat}
    (hm : meaningOf i s = some m) (hb : m.body s.issued = s.issued.issueSfu o f) : s.GivesSfu i o f :=
  runsTo_of hm fun _ => by
    obtain ⟨t, ht, hs⟩ := State.issueSfu_sends s o f
    exact ⟨t, hb.trans ht, hs⟩

/-- Results that land in one register of several lanes. -/
theorem State.landV (t0 : State) (tm g vd : Nat) (rs : List (Nat × Word)) :
    let t := rs.foldl (fun t r => t.setV ⟨tm, g, r.1⟩ vd r.2) t0
    ((rs.map (·.1)).Nodup → ∀ r ∈ rs, t.getV ⟨tm, g, r.1⟩ vd = r.2 ∧ t.isEmpty ⟨tm, g, r.1⟩ vd = false) ∧
    (∀ x n, (∀ r ∈ rs, (x, n) ≠ (⟨tm, g, r.1⟩, vd)) → t.getV x n = t0.getV x n ∧ t.isEmpty x n = t0.isEmpty x n) ∧
    { t with r.v := t0.r.v, r.ve := t0.r.ve } = t0 := by
  induction rs generalizing t0 with
  | nil => exact ⟨by simp, fun _ _ _ => ⟨rfl, rfl⟩, rfl⟩
  | cons a rs ih =>
    obtain ⟨h1, h2, h3⟩ := ih (t0.setV ⟨tm, g, a.1⟩ vd a.2)
    simp only [List.foldl_cons]
    refine ⟨?_, ?_, ?_⟩
    · intro hn r hr
      simp only [List.map_cons, List.nodup_cons] at hn
      rcases List.mem_cons.1 hr with rfl | hr
      · have := h2 ⟨tm, g, r.1⟩ vd fun r' hr' he => hn.1 (by
          have : r.1 = r'.1 := by simpa using he
          exact this ▸ List.mem_map_of_mem hr')
        rw [this.1, this.2, State.getV_setV, State.isEmpty_setV]
        simp
      · exact h1 hn.2 r hr
    · intro x n hx
      have := h2 x n fun r hr => hx r (List.mem_cons_of_mem _ hr)
      rw [this.1, this.2, State.getV_setV, State.isEmpty_setV]
      have ha := hx a List.mem_cons_self
      simp [ha.symm]
    · exact congrArg (fun q : State => { q with r.v := t0.r.v, r.ve := t0.r.ve }) h3

end Sys2Proof.Machine
end

