-- ==== Sys2Proof/Laws/Flow.lean ====
section
/-! SUPPORT. What a branch can do (R133, R134): State.branch and State.link. -/

namespace Sys2Proof.Machine

@[simp] theorem State.issued_epcOf (s : State) : s.issued.epcOf = s.epcOf := rfl
@[simp] theorem State.issued_linkOf (s : State) : s.issued.linkOf = s.linkOf := rfl
@[simp] theorem State.issued_outB (s : State) : s.issued.outB = s.outB := rfl
@[simp] theorem State.issued_outBI (s : State) : s.issued.outBI = s.outBI := by
  funext o l
  simp [State.outBI]
@[simp] theorem State.issued_joinB (s : State) : s.issued.joinB = s.joinB := rfl
@[simp] theorem State.issued_joinBI (s : State) : s.issued.joinBI = s.joinBI := rfl
@[simp] theorem State.issued_oddTargets (s : State) : s.issued.oddTargets = s.oddTargets := by
  funext o
  simp only [State.oddTargets, State.issued_act, State.issued_outBI]
@[simp] theorem State.issued_paths (s : State) : s.issued.paths = s.paths := rfl

/-- Writing an S register in every slice writes nothing else. -/
theorem State.setSAll_rest (t : State) (n : Nat) (w : Word) : { t.setSAll n w with r.sr := t.r.sr } = t := by
  unfold State.setSAll
  generalize t.slices = cs
  induction cs generalizing t with
  | nil => rfl
  | cons c cs ih => exact congrArg (fun q : State => { q with r.sr := t.r.sr }) (ih (t.setS c n w))

/-- The link writes S registers and nothing else (R143). -/
theorem State.link_rest (s : State) : ∃ sr, s.link = { s with r.sr := sr } := by
  refine ⟨s.link.r.sr, ?_⟩
  have h2 := State.setSAll_rest (s.setSAll 62 (BitVec.ofNat 32 s.u.iss.nextPc.toNat)) 63
    (BitVec.ofNat 32 (s.u.iss.nextPc.toNat / 2 ^ 32))
  have h3 := State.setSAll_rest s 62 (BitVec.ofNat 32 s.u.iss.nextPc.toNat)
  have h5 := (congrArg (fun q : State => { q with r.sr := s.r.sr }) h2).trans h3
  exact congrArg (fun q : State => { q with r.sr := s.link.r.sr }) h5

/-- A branch of a split without an active lane. -/
theorem State.branch_none {t : State} {out : Nat → Pc} {j fall : Option Pc} (h : t.act = []) :
    t.branch out j fall = .ok t := by
  simp [State.branch, h, List.eraseDups]

/-- A branch whose active lanes agree. -/
theorem State.branch_one {t : State} {out : Nat → Pc} {j fall : Option Pc} {q : Pc} (h : t.act ≠ [])
    (hq : ∀ l ∈ t.act, out l = q) (hs : t.cur.sid = t.u.iss.sid) : t.branch out j fall = .ok (t.goto q) := by
  have : (t.act.map out).eraseDups = [q] := by
    have h2 : t.act.map out = List.replicate t.act.length q := by
      rw [List.eq_replicate_iff]; simpa using hq
    rw [h2]
    cases h3 : t.act.length with
    | zero => simp at h3; exact absurd h3 h
    | succ n =>
      rw [List.replicate_succ, List.eraseDups_cons]
      have : ∀ n, List.filter (fun b => !b == q) (List.replicate n q) = [] := by intro n; simp
      rw [this]; rfl
  simp [State.branch, this, State.goto, hs]

/-- The outcomes of a branch whose active lanes do not agree. -/
theorem State.outcomes_many {t : State} {out : Nat → Pc} (h : ∃ l ∈ t.act, ∃ m ∈ t.act, out l ≠ out m) :
    ∃ a b c, (t.act.map out).eraseDups = a :: b :: c := by
  obtain ⟨l, hl, m, hm, hne⟩ := h
  have h1 : out l ∈ (t.act.map out).eraseDups := List.mem_eraseDups.2 (List.mem_map_of_mem hl)
  have h2 : out m ∈ (t.act.map out).eraseDups := List.mem_eraseDups.2 (List.mem_map_of_mem hm)
  match h3 : (t.act.map out).eraseDups with
  | [] => rw [h3] at h1; cases h1
  | [x] => rw [h3] at h1 h2; simp at h1 h2; exact absurd (h1.trans h2.symm) hne
  | a :: b :: c => exact ⟨a, b, c, rfl⟩

/-- A branch whose active lanes do not agree, without a join address. -/
theorem State.branch_diverge {t : State} {out : Nat → Pc} {fall : Option Pc}
    (h : ∃ l ∈ t.act, ∃ m ∈ t.act, out l ≠ out m) : t.branch out none fall = .trap { code := DIVERGE } := by
  obtain ⟨a, b, c, he⟩ := State.outcomes_many h
  simp only [State.branch, he]

/-- A branch whose active lanes do not agree, with a join address. -/
theorem State.branch_many {t : State} {out : Nat → Pc} {j : Pc} {fall : Option Pc}
    (h : ∃ l ∈ t.act, ∃ m ∈ t.act, out l ≠ out m) (hs : t.cur.sid = t.u.iss.sid) :
    t.branch out (some j) fall = if t.stackFull out then .trap { code := STACK } else .ok (t.split2 out j fall) := by
  obtain ⟨a, b, c, he⟩ := State.outcomes_many h
  simp only [State.branch, he, State.stackFull, State.split2, hs]
  rfl

end Sys2Proof.Machine
end

