-- ==== Sys2Proof/Laws/Fault.lean ====
section
/-! SUPPORT. What taking a fault can do under a handler, and the return from it (R215 to R218): State.latchRec,
State.enterHandler, State.divide and State.returnFromTrap. -/

namespace Sys2Proof.Machine

/-- A loop over the slices of a group that changes each slice's record. -/
theorem State.foldSlc (tm g : Nat) (f : Nat → Slice → Slice) (cs : List Nat) (s : State) :
    let t := cs.foldl (fun t c => t.modSlc ⟨tm, g, c⟩ (f c)) s
    (cs.Nodup → ∀ c ∈ cs, t.slc ⟨tm, g, c⟩ = f c (s.slc ⟨tm, g, c⟩)) ∧
    (∀ x, (∀ c ∈ cs, x ≠ ⟨tm, g, c⟩) → t.slc x = s.slc x) ∧ { t with r.sl := s.r.sl } = s := by
  induction cs generalizing s with
  | nil => exact ⟨by simp, fun _ _ => rfl, rfl⟩
  | cons a cs ih =>
    obtain ⟨h1, h2, h3⟩ := ih (s.modSlc ⟨tm, g, a⟩ (f a))
    simp only [List.foldl_cons]
    refine ⟨?_, ?_, ?_⟩
    · intro hn c hc
      rw [List.nodup_cons] at hn
      rcases List.mem_cons.1 hc with rfl | hc
      · rw [h2 ⟨tm, g, c⟩ fun d hd he => hn.1 ((by simpa using he : c = d) ▸ hd), State.slc_modSlc, if_pos rfl]
      · rw [h1 hn.2 c hc, State.slc_modSlc, if_neg]
        intro he
        exact hn.1 ((by simpa using he : a = c) ▸ hc)
    · intro x hx
      rw [h2 x fun c hc => hx c (List.mem_cons_of_mem _ hc), State.slc_modSlc, if_neg]
      exact fun he => hx a List.mem_cons_self he.symm
    · exact congrArg (fun q : State => { q with r.sl := s.r.sl }) h3

/-- What latching a record can do (R215). -/
theorem State.latchRec_spec (s : State) (p : Split) (w : List Word) :
    (p.slices.Nodup → ∀ c ∈ p.slices,
      (s.latchRec p w).slc ⟨p.team, p.group, c⟩ = { s.slc ⟨p.team, p.group, c⟩ with faultRec := w }) ∧
    (∀ x, (∀ c ∈ p.slices, x ≠ ⟨p.team, p.group, c⟩) → (s.latchRec p w).slc x = s.slc x) ∧
    { s.latchRec p w with r.sl := s.r.sl } = s :=
  State.foldSlc p.team p.group (fun _ x => { x with faultRec := w }) p.slices s

/-- A record is latched in every slice. -/
theorem State.latchRec_all (s : State) (p : Split) (w : List Word) (c : Nat) (h : c ∈ p.slices) :
    ((s.latchRec p w).slc ⟨p.team, p.group, c⟩).faultRec = w := by
  unfold State.latchRec
  generalize p.slices = cs at h
  induction cs generalizing s with
  | nil => cases h
  | cons a cs ih =>
    simp only [List.foldl_cons]
    by_cases hm : c ∈ cs
    · exact ih _ hm
    · have : c = a := by simpa [hm] using h
      subst this
      have h2 := (State.foldSlc p.team p.group (fun _ x => { x with faultRec := w }) cs
        (s.modSlc ⟨p.team, p.group, c⟩ fun x => { x with faultRec := w })).2.1 ⟨p.team, p.group, c⟩
        fun d hd he => hm ((by simpa using he : c = d) ▸ hd)
      rw [h2, State.slc_modSlc, if_pos rfl]

/-- What entering a handler can do (R217). -/
theorem State.enterHandler_spec (s : State) (p : Split) (resume handler : Pc) :
    (p.slices.Nodup → ∀ c ∈ p.slices, (s.enterHandler p resume handler).slc ⟨p.team, p.group, c⟩ =
      { s.slc ⟨p.team, p.group, c⟩ with
        hmode := true, epc := resume, ebCount := p.blkCount, ebPattern := p.blkPattern
        ebMask := if p.blkCount = 0 then 0 else (s.slc ⟨p.team, p.group, c⟩).blkMask
        blkMask := 0 }) ∧
    (∀ x, (∀ c ∈ p.slices, x ≠ ⟨p.team, p.group, c⟩) → (s.enterHandler p resume handler).slc x = s.slc x) ∧
    (s.enterHandler p resume handler).x.splits = s.x.splits.map (fun q => if q.sid = p.sid then
      { q with pc := handler, blkCount := 0, blkPattern := 0, waitFrom := none, park := .run } else q) ∧
    { s.enterHandler p resume handler with r.sl := s.r.sl, x.splits := s.x.splits } = s := by
  obtain ⟨h1, h2, h3⟩ := State.foldSlc p.team p.group (fun _ x =>
    { x with hmode := true, epc := resume, ebCount := p.blkCount, ebPattern := p.blkPattern
             ebMask := if p.blkCount = 0 then 0 else x.blkMask, blkMask := 0 }) p.slices s
  refine ⟨h1, h2, ?_, ?_⟩
  · exact congrArg (fun q : State => q.x.splits.map (fun q => if q.sid = p.sid then
      { q with pc := handler, blkCount := 0, blkPattern := 0, waitFrom := none, park := .run } else q)) h3
  · exact congrArg (fun q : State => { q with x.splits := s.x.splits }) h3

/-- A loop that adds splits keeps the splits there are. -/
theorem State.foldAdd_mem (g : Pc → Split) (qs : List Pc) (s : State) :
    (∀ q ∈ s.x.splits, q ∈ (qs.foldl (fun t r => t.addSplit (g r)) s).x.splits) ∧
    (∀ r ∈ qs, ∃ q ∈ (qs.foldl (fun t r => t.addSplit (g r)) s).x.splits, ∃ i x, q = { g r with sid := i, tix := x }) ∧
    { qs.foldl (fun t r => t.addSplit (g r)) s with x.splits := s.x.splits, u.uid := s.u.uid } = s := by
  induction qs generalizing s with
  | nil => exact ⟨fun _ h => h, by simp, rfl⟩
  | cons a qs ih =>
    obtain ⟨h1, h2, h3⟩ := ih (s.addSplit (g a))
    simp only [List.foldl_cons]
    refine ⟨?_, ?_, ?_⟩
    · intro q hq
      exact h1 q (List.mem_append_left _ hq)
    · intro r hr
      rcases List.mem_cons.1 hr with rfl | hr
      · exact ⟨_, h1 _ (List.mem_append_right _ (List.mem_singleton.2 rfl)), _, _, rfl⟩
      · exact h2 r hr
    · exact congrArg (fun q : State => { q with x.splits := s.x.splits, u.uid := s.u.uid }) h3

/-- What dividing a split can do (R134, R143, R218): each of its slices stands in a split at its own address, which holds the
slices that share the address. -/
theorem State.divide_spec (s : State) (sid : Nat) (pcOf : Nat → Pc) (upd : Split → Split) (p : Split)
    (h : s.split? sid = some p) :
    (∀ c ∈ p.slices, ∃ q ∈ (s.divide sid pcOf upd).x.splits, ∃ i x fs,
      q = { upd { p with pc := pcOf c, slices := p.slices.filter fun d => pcOf d == pcOf c } with sid := i, tix := x, late := fs }) ∧
    { s.divide sid pcOf upd with x.splits := s.x.splits, u.uid := s.u.uid } = s := by
  unfold State.divide
  simp only [h]
  match he : (p.slices.map pcOf).eraseDups with
  | [] =>
    refine ⟨fun c hc => ?_, rfl⟩
    have : pcOf c ∈ (p.slices.map pcOf).eraseDups := List.mem_eraseDups.2 (List.mem_map_of_mem hc)
    rw [he] at this
    cases this
  | q :: qs =>
    obtain ⟨h1, h2, h3⟩ := State.foldAdd_mem
      (fun r => { upd { p with pc := r, slices := p.slices.filter fun d => pcOf d == r } with late := [] }) qs
      (s.modSplit sid fun _ => upd { p with pc := q, slices := p.slices.filter fun d => pcOf d == q })
    refine ⟨fun c hc => ?_, congrArg (fun z : State => { z with x.splits := s.x.splits, u.uid := s.u.uid }) h3⟩
    have hm : pcOf c ∈ (p.slices.map pcOf).eraseDups := List.mem_eraseDups.2 (List.mem_map_of_mem hc)
    rw [he] at hm
    rcases List.mem_cons.1 hm with hq | hq
    · have hp : p ∈ s.x.splits := List.mem_of_find?_eq_some h
      have hs : p.sid = sid := by simpa using List.find?_some (show s.x.splits.find? _ = some p from h)
      refine ⟨_, h1 _ (List.mem_map.2 ⟨p, hp, rfl⟩), ?_⟩
      rw [if_pos hs, hq]
      exact ⟨_, _, _, rfl⟩
    · obtain ⟨r, hr, i, x, e⟩ := h2 _ hq
      exact ⟨r, hr, i, x, [], e⟩

/-- What a return from a handler can do (R218). -/
theorem State.returnFromTrap_spec (s : State) (p : Split) (h : s.split? p.sid = some p) (hn : p.slices.Nodup) :
    (∀ c ∈ p.slices, (s.returnFromTrap p.sid).slc ⟨p.team, p.group, c⟩ =
      { s.slc ⟨p.team, p.group, c⟩ with hmode := false, blkMask := (s.slc ⟨p.team, p.group, c⟩).ebMask }) ∧
    (∀ c ∈ p.slices, ∃ q ∈ (s.returnFromTrap p.sid).x.splits, q.team = p.team ∧ q.group = p.group ∧ c ∈ q.slices ∧
      q.pc = s.epcOf ⟨p.team, p.group, c⟩ ∧
      q.blkCount = (s.slc ⟨p.team, p.group, q.slices.headD 0⟩).ebCount ∧
      q.blkPattern = (s.slc ⟨p.team, p.group, q.slices.headD 0⟩).ebPattern) ∧
    { s.returnFromTrap p.sid with r.sl := s.r.sl, x.splits := s.x.splits, u.uid := s.u.uid } = s := by
  unfold State.returnFromTrap
  simp only [h]
  obtain ⟨d1, d2⟩ := State.divide_spec s p.sid (fun c => s.epcOf ⟨p.team, p.group, c⟩) (fun x =>
    { x with blkCount := (s.slc ⟨p.team, p.group, x.slices.headD 0⟩).ebCount
             blkPattern := (s.slc ⟨p.team, p.group, x.slices.headD 0⟩).ebPattern }) p h
  generalize he : s.divide p.sid _ _ = u at d1 d2
  have hsl : u.r.sl = s.r.sl := by
    have := congrArg (fun z : State => z.r.sl) d2
    exact this
  have hslc : ∀ x, u.slc x = s.slc x := fun x => by simp only [State.slc, hsl]
  obtain ⟨h1, h2, h3⟩ := State.foldSlc p.team p.group (fun _ x => { x with hmode := false, blkMask := x.ebMask }) p.slices u
  have hu := congrArg (fun z : State => z.x.splits) h3
  refine ⟨?_, ?_, ?_⟩
  · intro c hc
    rw [h1 hn c hc, hslc]
  · intro c hc
    obtain ⟨q, hq, i, x, fs, e⟩ := d1 c hc
    refine ⟨q, ?_, ?_⟩
    · exact (show _ = u.x.splits from hu) ▸ hq
    · subst e
      refine ⟨rfl, rfl, ?_, rfl, rfl, rfl⟩
      simp [hc]
  · exact (congrArg (fun z : State => { z with r.sl := s.r.sl, x.splits := s.x.splits, u.uid := s.u.uid }) h3).trans
      ((congrArg (fun z : State => { z with r.sl := s.r.sl }) d2))

end Sys2Proof.Machine
end

