-- ==== Sys2Proof/Laws/Memory.lean ====
section
/-! SUPPORT. The laws of memory: a byte reads as written, every other byte is unchanged, and every memory operation
keeps the canonical form. -/

namespace Sys2Proof.Machine

/-! ### One byte -/

theorem Memory.get_of_above {m : List Host.Cell} {lo a : Nat} (h : Memory.above lo m = true) (ha : a < lo) :
    Memory.get m a = 0 := by
  induction m generalizing lo with
  | nil => rfl
  | cons p t ih =>
    simp only [Memory.above, Bool.and_eq_true, decide_eq_true_eq] at h
    simp only [Memory.get]
    rw [if_neg (by omega)]
    exact ih h.2 (by omega)

theorem Memory.above_mono {m : List Host.Cell} {lo lo' : Nat} (h : Memory.above lo m = true) (hl : lo' ≤ lo) :
    Memory.above lo' m = true := by
  cases m with
  | nil => rfl
  | cons p t =>
    simp only [Memory.above, Bool.and_eq_true, decide_eq_true_eq] at h ⊢
    exact ⟨⟨by omega, h.1.2⟩, h.2⟩

theorem Memory.above_put {m : List Host.Cell} {lo a : Nat} (b : Byte) (h : Memory.above lo m = true) (ha : lo ≤ a) :
    Memory.above lo (Memory.put m a b) = true := by
  induction m generalizing lo with
  | nil =>
    simp only [Memory.put]
    split
    · rfl
    · rename_i hb
      simp only [Memory.above, Bool.and_eq_true, decide_eq_true_eq]
      exact ⟨⟨ha, hb⟩, trivial⟩
  | cons p t ih =>
    simp only [Memory.above, Bool.and_eq_true, decide_eq_true_eq] at h
    obtain ⟨⟨h1, h2⟩, h3⟩ := h
    simp only [Memory.put]
    split
    · split
      · simp only [Memory.above, Bool.and_eq_true, decide_eq_true_eq]
        exact ⟨⟨h1, h2⟩, h3⟩
      · rename_i hlt hb
        simp only [Memory.above, Bool.and_eq_true, decide_eq_true_eq]
        exact ⟨⟨ha, hb⟩, ⟨by omega, h2⟩, h3⟩
    · split
      · rename_i hlt he
        split
        · exact Memory.above_mono h3 (by omega)
        · rename_i hb
          simp only [Memory.above, Bool.and_eq_true, decide_eq_true_eq]
          exact ⟨⟨ha, hb⟩, he ▸ h3⟩
      · rename_i hlt he
        simp only [Memory.above, Bool.and_eq_true, decide_eq_true_eq]
        exact ⟨⟨h1, h2⟩, ih h3 (by omega)⟩

theorem Memory.wf_put {m : List Host.Cell} (a : Nat) (b : Byte) (h : Memory.wf m) : Memory.wf (Memory.put m a b) :=
  Memory.above_put b h (Nat.zero_le a)

theorem Memory.above_filter {m : List Host.Cell} {lo : Nat} (f : Host.Cell → Bool) (h : Memory.above lo m = true) :
    Memory.above lo (m.filter f) = true := by
  induction m generalizing lo with
  | nil => rfl
  | cons p t ih =>
    simp only [Memory.above, Bool.and_eq_true, decide_eq_true_eq] at h
    obtain ⟨⟨h1, h2⟩, h3⟩ := h
    rw [List.filter_cons]
    split
    · simp only [Memory.above, Bool.and_eq_true, decide_eq_true_eq]
      exact ⟨⟨h1, h2⟩, ih h3⟩
    · exact Memory.above_mono (ih h3) (by omega)

theorem Memory.wf_filter {m : List Host.Cell} (f : Host.Cell → Bool) (h : Memory.wf m) : Memory.wf (m.filter f) :=
  Memory.above_filter f h

theorem Memory.wf_clear {m : List Host.Cell} (lo hi : Nat) (h : Memory.wf m) : Memory.wf (Memory.clear m lo hi) :=
  Memory.above_filter _ h

theorem Memory.above_get_put_self {m : List Host.Cell} {lo a : Nat} (b : Byte) (h : Memory.above lo m = true) :
    Memory.get (Memory.put m a b) a = b := by
  induction m generalizing lo with
  | nil =>
    simp only [Memory.put]
    split
    · rename_i hb; simp [Memory.get, hb]
    · simp [Memory.get]
  | cons p t ih =>
    simp only [Memory.above, Bool.and_eq_true, decide_eq_true_eq] at h
    simp only [Memory.put]
    split
    · rename_i hlt
      split
      · rename_i hb
        simp only [Memory.get]
        rw [if_neg (by omega), hb]
        exact Memory.get_of_above h.2 (by omega)
      · simp [Memory.get]
    · split
      · rename_i hlt he
        split
        · rename_i hb
          rw [hb, ← he]
          exact Memory.get_of_above h.2 (by omega)
        · simp [Memory.get]
      · rename_i hlt he
        simp only [Memory.get]
        rw [if_neg he]
        exact ih h.2

theorem Memory.get_put_ne (m : List Host.Cell) {a a' : Nat} (b : Byte) (h : a ≠ a') :
    Memory.get (Memory.put m a b) a' = Memory.get m a' := by
  induction m with
  | nil =>
    simp only [Memory.put]
    split <;> simp [Memory.get, h]
  | cons p t ih =>
    simp only [Memory.put]
    split
    · split
      · rfl
      · simp [Memory.get, h]
    · split
      · rename_i hlt he
        split <;> simp [Memory.get, he, h]
      · simp only [Memory.get, ih]

/-- A byte read after a write in canonical memory. -/
theorem Memory.get_put {m : List Host.Cell} (a a' : Nat) (b : Byte) (h : Memory.wf m) :
    Memory.get (Memory.put m a b) a' = if a = a' then b else Memory.get m a' := by
  by_cases he : a = a'
  · subst he; simp [Memory.above_get_put_self b h]
  · simp [he, Memory.get_put_ne m b he]

/-! ### Several bytes -/

@[simp] theorem State.writeBytes_zero (s : State) (a v : Nat) : s.writeBytes a v 0 = s := rfl
@[simp] theorem State.writeBytes_succ (s : State) (a v n : Nat) :
    s.writeBytes a v (n + 1) = (s.writeByte a (BitVec.ofNat 8 v)).writeBytes (a + 1) (v / 256) n := rfl

theorem State.writeBytes_wf {s : State} (a v n : Nat) (h : Memory.wf s.m.mem) :
    Memory.wf (s.writeBytes a v n).m.mem := by
  induction n generalizing s a v with
  | zero => exact h
  | succ n ih => exact ih _ _ (Memory.wf_put _ _ h)

/-- A write leaves every byte outside it alone. -/
theorem State.writeBytes_other (s : State) (a v n b : Nat) (h : b < a ∨ a + n ≤ b) :
    Memory.get (s.writeBytes a v n).m.mem b = Memory.get s.m.mem b := by
  induction n generalizing s a v with
  | zero => rfl
  | succ n ih =>
    rw [State.writeBytes_succ, ih _ _ _ (by omega)]
    exact Memory.get_put_ne _ _ (by omega)

/-- The i-th byte of a value written in canonical memory. -/
theorem State.writeBytes_byte {s : State} (a v n i : Nat) (h : Memory.wf s.m.mem) (hi : i < n) :
    Memory.get (s.writeBytes a v n).m.mem (a + i) = BitVec.ofNat 8 (v / 256 ^ i) := by
  induction n generalizing s a v i with
  | zero => omega
  | succ n ih =>
    rw [State.writeBytes_succ]
    cases i with
    | zero =>
      rw [State.writeBytes_other _ _ _ _ _ (by omega)]
      simp [State.writeByte_mem, Memory.get_put _ _ _ h]
    | succ i =>
      have := ih (s := s.writeByte a (BitVec.ofNat 8 v)) (a + 1) (v / 256) i (Memory.wf_put _ _ h) (by omega)
      rw [show a + (i + 1) = a + 1 + i by omega, this, Nat.pow_succ, Nat.div_div_eq_div_mul, Nat.mul_comm]

@[simp] theorem State.store_mem (s : State) (a v n : Nat) : (s.store a v n).m = (s.writeBytes a v n).m := rfl

theorem State.store_wf {s : State} (a v n : Nat) (h : Memory.wf s.m.mem) : Memory.wf (s.store a v n).m.mem :=
  State.writeBytes_wf a v n h

/-- A store leaves every byte outside it alone. -/
theorem State.store_other (s : State) (a v n b : Nat) (h : b < a ∨ a + n ≤ b) :
    Memory.get (s.store a v n).m.mem b = Memory.get s.m.mem b :=
  State.writeBytes_other s a v n b h

theorem State.storeAt_wf {s : State} (a v n : Nat) (upd : Holder → Bool) (h : Memory.wf s.m.mem) :
    Memory.wf (s.storeAt a v n upd).m.mem := State.store_wf a v n h

/-- An MSC touch leaves memory alone. -/
@[simp] theorem State.mscTouch_m (s : State) (loc pa key : Nat) (chain : Option (Nat × Nat)) (dirty : Bool) :
    (s.mscTouch loc pa key chain dirty).m = s.m := by
  simp only [State.mscTouch]
  repeat' split
  all_goals rfl

@[simp] theorem State.physTouch_m (s : State) (pa : Nat) (write : Bool) : (s.physTouch pa write).m = s.m := by
  unfold State.physTouch
  split
  · rfl
  · exact State.mscTouch_m _ _ _ _ _ _

theorem State.rekey_wf {s : State} (loc pa key : Nat) (h : Memory.wf s.m.mem) :
    Memory.wf (s.rekey loc pa key).m.mem := by
  simp only [State.rekey]
  split
  · exact h
  · exact State.writeBytes_wf _ _ _ h

theorem State.physStore_wf {s : State} (pa v n : Nat) (h : Memory.wf s.m.mem) :
    Memory.wf (s.physStore pa v n).m.mem := by
  unfold State.physStore
  split
  · exact h
  · exact State.store_wf _ _ _ (by simpa [State.dropSnaps] using h)

theorem State.storeWords_wf {s : State} (a : Nat) (ws : List Word) (h : Memory.wf s.m.mem) :
    Memory.wf (s.storeWords a ws).m.mem := by
  induction ws generalizing s a with
  | nil => exact h
  | cons w ws ih => exact ih _ (State.physStore_wf _ _ _ h)

theorem State.addSnap_mem (s : State) (h : Holder) (n : Nat) : (s.addSnap h n).m.mem = s.m.mem := by
  unfold State.addSnap; split <;> rfl

theorem State.poisonBytes_mem (s : State) (a n : Nat) : (s.poisonBytes a n).m.mem = s.m.mem := by
  induction n generalizing s a with
  | zero => rfl
  | succ n ih => simp [State.poisonBytes, ih]

end Sys2Proof.Machine
end

