-- ==== Sys2Proof/Laws/Words.lean ====
section
/-! SUPPORT. Units that take their operands from S registers and words of memory: what the issue leaves of those operands,
and the outcomes other than a next state. -/

namespace Sys2Proof.Machine

/-- An instruction whose unit finds that it must wait answers the waiting state. -/
theorem exec_wait {i : Instr} {s : State} {m : Meaning} (hm : meaningOf i s = some m) (r : Runs i s)
    (h : m.body s.issued = .wait) : exec i s = .next s.waiting := by
  have hu : s.issues m.use = true := by simpa [Runs, hm] using r
  rw [exec_meaning hm]
  exact Meaning.run_wait hu h

/-- An instruction whose unit waits with an effect answers the waiting state after it. -/
theorem exec_hold {i : Instr} {s : State} {m : Meaning} {f : State → State} (hm : meaningOf i s = some m) (r : Runs i s)
    (h : m.body s.issued = .hold f) : exec i s = .next (f s).waiting := by
  have hu : s.issues m.use = true := by simpa [Runs, hm] using r
  rw [exec_meaning hm]
  unfold Meaning.run
  rw [unit_issues hu, h]

@[simp] theorem State.issued_leadS (s : State) : s.issued.leadS = s.leadS := by
  funext a; simp only [State.leadS, State.issued_lead]; rfl
@[simp] theorem State.issued_leadAddr (s : State) : s.issued.leadAddr = s.leadAddr := by
  funext a; simp only [State.leadAddr, State.issued_lead]; rfl
@[simp] theorem State.issued_recordAt (s : State) : s.issued.recordAt = s.recordAt := by
  funext a; simp only [State.recordAt, State.issued_lead]; rfl
@[simp] theorem State.issued_scratchLoc (s : State) : s.issued.scratchLoc = s.scratchLoc := by
  funext a b; simp only [State.scratchLoc, State.issued_lead]; rfl
@[simp] theorem State.issued_wordFault (s : State) : s.issued.wordFault = s.wordFault := by
  funext a n b; simp only [State.wordFault, State.issued_scratchLoc]
@[simp] theorem State.issued_load (s : State) : s.issued.load = s.load := rfl
@[simp] theorem State.issued_ringAt (s : State) : s.issued.ringAt = s.ringAt := rfl
@[simp] theorem State.issued_actLanes (s : State) : s.issued.actLanes = s.actLanes := by
  simp only [State.actLanes, State.issued_act]; rfl
@[simp] theorem State.issued_covered (s : State) : s.issued.covered = s.covered := by
  funext a; simp only [State.covered, State.issued_actLanes]; rfl
@[simp] theorem State.issued_owesAt (s : State) : s.issued.owesAt = s.owesAt := by
  funext a b; simp only [State.owesAt, State.issued_covered]; rfl
@[simp] theorem State.issued_owesRelease (s : State) : s.issued.owesRelease = s.owesRelease := by
  simp only [State.owesRelease, State.issued_covered]; rfl
@[simp] theorem State.issued_handleS (s : State) : s.issued.handleS = s.handleS := by
  funext n; simp only [State.handleS, State.issued_leadS]; rfl
@[simp] theorem State.issued_tileOf (s : State) : s.issued.tileOf = s.tileOf := rfl
@[simp] theorem State.issued_asid (s : State) : s.issued.asid = s.asid := rfl
@[simp] theorem State.issued_gid (s : State) : s.issued.gid = s.gid := rfl
@[simp] theorem State.issued_coreOf (s : State) : s.issued.coreOf = s.coreOf := rfl
@[simp] theorem State.issued_arena (s : State) : s.issued.arena = s.arena := rfl
@[simp] theorem State.issued_taskHere (s : State) : s.issued.taskHere = s.taskHere := rfl
@[simp] theorem State.issued_ownBlock (s : State) : s.issued.ownBlock = s.ownBlock := rfl
@[simp] theorem State.issued_joinOf (s : State) : s.issued.joinOf = s.joinOf := rfl
@[simp] theorem State.issued_stateOf (s : State) : s.issued.stateOf = s.stateOf := rfl
@[simp] theorem State.issued_blockFault (s : State) : s.issued.blockFault = s.blockFault := rfl
theorem State.issued_blockLeaf (s : State) : s.issued.blockLeaf = s.blockLeaf := rfl
theorem State.issued_blockWord (s : State) : s.issued.blockWord = s.blockWord := rfl
theorem State.issued_listChain (s : State) (w : TaskAt) (g : Grid) (n i : Nat) :
    s.issued.listChain w g i n = s.listChain w g i n := by
  induction n generalizing i with
  | zero => rfl
  | succ n ih => simp only [State.listChain, State.issued_blockWord, ih]
theorem State.issued_succs (s : State) : s.issued.succs = s.succs := by
  funext w g i; simp only [State.succs, State.issued_blockWord, State.issued_listChain]
@[simp] theorem State.issued_retireFault (s : State) : s.issued.retireFault = s.retireFault := by
  funext w g i
  simp only [State.retireFault, State.retireBlocks, State.parentOf, State.issued_succs, State.issued_blockWord,
    State.issued_blockLeaf]
  rfl
@[simp] theorem State.issued_queueRec (s : State) : s.issued.queueRec = s.queueRec := rfl
@[simp] theorem State.issued_dieSeek (s : State) : s.issued.dieSeek = s.dieSeek := rfl
@[simp] theorem State.issued_seek (s : State) : s.issued.seek = s.seek := rfl
@[simp] theorem State.issued_translate (s : State) : s.issued.translate = s.translate := rfl
@[simp] theorem State.issued_team (s : State) : s.issued.team = s.team := rfl
@[simp] theorem State.issued_grid (s : State) : s.issued.grid = s.grid := rfl
@[simp] theorem State.issued_modeOf (s : State) : s.issued.modeOf = s.modeOf := rfl
@[simp] theorem State.issued_locOf (s : State) : s.issued.locOf = s.locOf := rfl
@[simp] theorem State.issued_recallers (s : State) : s.issued.recallers = s.recallers := rfl
@[simp] theorem State.issued_copyVs (s : State) : s.issued.copyVs = s.copyVs := rfl
@[simp] theorem State.issued_holders (s : State) : s.issued.holders = s.holders := rfl
@[simp] theorem State.issued_waitingOn (s : State) : s.issued.waitingOn = s.waitingOn := rfl
@[simp] theorem State.issued_tileState (s : State) : s.issued.tileState = s.tileState := rfl
@[simp] theorem State.issued_mine (s : State) : s.issued.mine = s.mine := rfl
@[simp] theorem State.issued_granted (s : State) : s.issued.granted = s.granted := rfl
@[simp] theorem State.issued_myRequest (s : State) : s.issued.myRequest = s.myRequest := rfl
@[simp] theorem State.issued_requestFor (s : State) : s.issued.requestFor = s.requestFor := rfl
/-- An issue keeps the name of the split that holds a slice. -/
theorem State.issued_splitOf (s : State) (c : SliceId) : (s.issued.splitOf c).map (·.sid) = (s.splitOf c).map (·.sid) := by
  simp only [State.issued, State.splitOf, State.modSplit]
  generalize s.x.splits = l
  induction l with
  | nil => rfl
  | cons p l ih =>
    simp only [List.map_cons, List.find?_cons]
    by_cases h : p.sid = s.u.iss.sid
    · by_cases h2 : p.team = c.t ∧ p.group = c.g ∧ c.s ∈ p.slices
      · simp [h, h2]
      · simp only [h, if_true, h2, decide_false, ih]
    · by_cases h2 : p.team = c.t ∧ p.group = c.g ∧ c.s ∈ p.slices
      · simp [h, h2]
      · simp only [h, if_false, h2, decide_false, ih]
@[simp] theorem State.issued_drainHolds (s : State) : s.issued.drainHolds = s.drainHolds := by
  funext q d
  simp only [State.drainHolds, State.issued_splitOf]
  rfl
@[simp] theorem State.issued_grantable (s : State) : s.issued.grantable = s.grantable := by
  funext q e
  simp only [State.grantable, State.waitsFor, State.issued_drainHolds]
  rfl
@[simp] theorem State.issued_freeEntry (s : State) : s.issued.freeEntry = s.freeEntry := rfl
@[simp] theorem State.issued_crowd (s : State) : s.issued.crowd = s.crowd := rfl
@[simp] theorem State.issued_rshOwner (s : State) : s.issued.rshOwner = s.rshOwner := rfl
@[simp] theorem State.issued_rshStatus (s : State) : s.issued.rshStatus = s.rshStatus := rfl
@[simp] theorem State.issued_migQueued (s : State) : s.issued.migQueued = s.migQueued := rfl
@[simp] theorem State.issued_dxReserved (s : State) : s.issued.dxReserved = s.dxReserved := by
  simp only [State.dxReserved, State.issued_slices]; rfl
@[simp] theorem State.issued_fetchFormat (s : State) : s.issued.fetchFormat = s.fetchFormat := by
  funext minor data aux; simp only [State.fetchFormat, State.issued_dxReserved]; rfl
@[simp] theorem State.issued_lowV (s : State) : s.issued.lowV = s.lowV := by
  funext r; simp only [State.lowV, State.lowLane, State.issued_elanes]; rfl
@[simp] theorem State.issued_handlesV (s : State) : s.issued.handlesV = s.handlesV := by
  funext r; simp only [State.handlesV, State.issued_lowV, State.lowLane, State.issued_elanes]; rfl

/-- An S register after a write to a register of every slice of the split (R103, R139). -/
theorem State.setSAll_getS (s : State) (sd : Nat) (w : Word) (c : SliceId) (n : Nat) :
    (s.setSAll sd w).getS c n = if c ∈ s.slices ∧ n = sd then w else s.getS c n := by
  have key : ∀ (ls : List SliceId) (t : State), (ls.foldl (fun t c => t.setS c sd w) t).getS c n =
      if c ∈ ls ∧ n = sd then w else t.getS c n := by
    intro ls
    induction ls with
    | nil => intro t; simp
    | cons a ls ih =>
      intro t
      rw [List.foldl_cons, ih]
      by_cases h1 : c ∈ ls ∧ n = sd
      · simp [h1]
      · rw [if_neg h1, State.getS_setS]
        by_cases h2 : (a, sd) = (c, n)
        · obtain ⟨rfl, rfl⟩ := Prod.mk.inj h2; simp
        · rw [if_neg h2, if_neg]
          rintro ⟨h3, h4⟩
          rcases List.mem_cons.1 h3 with h5 | h5
          · exact h2 (by rw [h5, h4])
          · exact h1 ⟨h5, h4⟩
  exact key s.slices s

end Sys2Proof.Machine
end

