-- ==== Sys2Proof/Tests/Slice0.lean ====
section
/-! SUPPORT. Tests: a word of every instruction from the encoding tables, an ill-formed term for each check of
well-formedness, single steps, and for every statement a state and operands that meet its hypotheses, clause by clause.
Expected results come from the spec's tables and examples. -/

namespace Sys2Proof.Tests
open Sys2Proof.Machine
set_option Elab.async false

/-! ### Decoding -/

/-- Major 0x00: a word of each instruction, its bits taken from the encoding table, operands set. -/
theorem test_decodeMajor00 : ∀ x ∈ ([
    (0x0CFA34C1, .iadd { tb := false, ta := true, vb := 79, va := 81, vd := 83 }),
    (0x34FA34C1, .isub { tb := true, ta := false, vb := 79, va := 81, vd := 83 }),
    (0x4CFA34C1, .imin { tb := false, ta := true, vb := 79, va := 81, vd := 83 }),
    (0x74FA34C1, .imax { tb := true, ta := false, vb := 79, va := 81, vd := 83 }),
    (0x8CFA34C1, .iminu { tb := false, ta := true, vb := 79, va := 81, vd := 83 }),
    (0xB4FA34C1, .imaxu { tb := true, ta := false, vb := 79, va := 81, vd := 83 }),
    (0xCCFA34C1, .iaddc { tb := false, ta := true, vb := 79, va := 81, vd := 83 }),
    (0xF4FA34C1, .iabsd { tb := true, ta := false, vb := 79, va := 81, vd := 83 })] : List (Nat × Instr)),
    decodeWord x.1 = .instr x.2 4 := by decide +kernel

/-- Major 0x01: a word of each instruction, its bits taken from the encoding table, operands set. -/
theorem test_decodeMajor01 : ∀ x ∈ ([
    (0x0CFA34C3, .imul { tb := false, ta := true, vb := 79, va := 81, vd := 83 }),
    (0x34FA34C3, .imulh { tb := true, ta := false, vb := 79, va := 81, vd := 83 }),
    (0x4CFA34C3, .imulhu { tb := false, ta := true, vb := 79, va := 81, vd := 83 }),
    (0x74FA34C3, .imad { tb := true, ta := false, vb := 79, va := 81, vd := 83 }),
    (0x8CFA34C3, .idot4 { tb := false, ta := true, vb := 79, va := 81, vd := 83 }),
    (0xB4FA34C3, .idot4u { tb := true, ta := false, vb := 79, va := 81, vd := 83 }),
    (0xC009B3C3, .popc { ta := false, va := 77, vd := 79 }),
    (0xE809B3C3, .clz { ta := true, va := 77, vd := 79 })] : List (Nat × Instr)),
    decodeWord x.1 = .instr x.2 4 := by decide +kernel

/-- Major 0x02: a word of each instruction, its bits taken from the encoding table, operands set. -/
theorem test_decodeMajor02 : ∀ x ∈ ([
    (0x0CFA34C5, .andB { tb := false, ta := true, vb := 79, va := 81, vd := 83 }),
    (0x34FA34C5, .orB { tb := true, ta := false, vb := 79, va := 81, vd := 83 }),
    (0x4CFA34C5, .xorB { tb := false, ta := true, vb := 79, va := 81, vd := 83 }),
    (0x74FA34C5, .andn { tb := true, ta := false, vb := 79, va := 81, vd := 83 }),
    (0x8CFA34C5, .orn { tb := false, ta := true, vb := 79, va := 81, vd := 83 }),
    (0xB4FA34C5, .xnor { tb := true, ta := false, vb := 79, va := 81, vd := 83 }),
    (0xCCFA34C5, .sel { tb := false, ta := true, vb := 79, va := 81, vd := 83 }),
    (0xE809B3C5, .brev { ta := true, va := 77, vd := 79 })] : List (Nat × Instr)),
    decodeWord x.1 = .instr x.2 4 := by decide +kernel

/-- Major 0x03: a word of each instruction, its bits taken from the encoding table, operands set. -/
theorem test_decodeMajor03 : ∀ x ∈ ([
    (0x0CFA34C7, .shl { tb := false, ta := true, vb := 79, va := 81, vd := 83 }),
    (0x34FA34C7, .shr { tb := true, ta := false, vb := 79, va := 81, vd := 83 }),
    (0x4CFA34C7, .sar { tb := false, ta := true, vb := 79, va := 81, vd := 83 }),
    (0x74FA34C7, .rol { tb := true, ta := false, vb := 79, va := 81, vd := 83 }),
    (0x8CFA34C7, .ror { tb := false, ta := true, vb := 79, va := 81, vd := 83 }),
    (0xB4FA34C7, .fshl { tb := true, ta := false, vb := 79, va := 81, vd := 83 }),
    (0xCCFA34C7, .bfx { tb := false, ta := true, vb := 79, va := 81, vd := 83 }),
    (0xF4FA34C7, .bfi { tb := true, ta := false, vb := 79, va := 81, vd := 83 })] : List (Nat × Instr)),
    decodeWord x.1 = .instr x.2 4 := by decide +kernel

/-- Major 0x04: a word of each instruction, its bits taken from the encoding table, operands set. -/
theorem test_decodeMajor04 : ∀ x ∈ ([
    (0x0CFA2149, .icmpEq { tb := false, ta := true, vb := 79, va := 81, md := 5 }),
    (0x34FA2149, .icmpNe { tb := true, ta := false, vb := 79, va := 81, md := 5 }),
    (0x4CFA2149, .icmpLt { tb := false, ta := true, vb := 79, va := 81, md := 5 }),
    (0x74FA2149, .icmpLe { tb := true, ta := false, vb := 79, va := 81, md := 5 }),
    (0x8CFA2149, .icmpGt { tb := false, ta := true, vb := 79, va := 81, md := 5 }),
    (0xB4FA2149, .icmpGe { tb := true, ta := false, vb := 79, va := 81, md := 5 }),
    (0xCCFA2149, .icmpLtu { tb := false, ta := true, vb := 79, va := 81, md := 5 }),
    (0xF4FA2149, .icmpGeu { tb := true, ta := false, vb := 79, va := 81, md := 5 })] : List (Nat × Instr)),
    decodeWord x.1 = .instr x.2 4 := by decide +kernel

/-- Major 0x05: a word of each instruction, its bits taken from the encoding table, operands set. -/
theorem test_decodeMajor05 : ∀ x ∈ ([
    (0x11B9F44B, .iaddi { imm := 141, ta := true, va := 79, vd := 81 }),
    (0x31A9F44B, .andi { imm := 141, ta := false, va := 79, vd := 81 }),
    (0x51B9F44B, .ori { imm := 141, ta := true, va := 79, vd := 81 }),
    (0x71A9F44B, .xori { imm := 141, ta := false, va := 79, vd := 81 }),
    (0x91B9F44B, .shli { imm := 141, ta := true, va := 79, vd := 81 }),
    (0xB1A9F44B, .shri { imm := 141, ta := false, va := 79, vd := 81 }),
    (0xD1B9F44B, .sari { imm := 141, ta := true, va := 79, vd := 81 }),
    (0xF1A9B3CB, .movi { imm := 141, lo := 77, vd := 79 })] : List (Nat × Instr)),
    decodeWord x.1 = .instr x.2 4 := by decide +kernel

/-- Major 0x06: a word of each instruction, its bits taken from the encoding table, operands set. -/
theorem test_decodeMajor06 : ∀ x ∈ ([
    (0x0009B3CD, .mov { ta := false, va := 77, vd := 79 }),
    (0x2809B3CD, .movhi { ta := true, va := 77, vd := 79 }),
    (0x4CFA34CD, .lea { tb := false, ta := true, vb := 79, va := 81, vd := 83 }),
    (0x74FA34CD, .pack { tb := true, ta := false, vb := 79, va := 81, vd := 83 }),
    (0x8019F44D, .unpk { ta := false, n := 1, va := 79, vd := 81 }),
    (0xB4FA34CD, .perm { tb := true, ta := false, vb := 79, va := 81, vd := 83 }),
    (0xC009F44D, .bcast { ta := false, n := 0, va := 79, vd := 81 }),
    (0xE4B9B3CD, .vget { sel := 75, va := 77, vd := 79 })] : List (Nat × Instr)),
    decodeWord x.1 = .instr x.2 4 := by decide +kernel

/-- Major 0x07: a word of each instruction, its bits taken from the encoding table, operands set. -/
theorem test_decodeMajor07 : ∀ x ∈ ([
    (0x0254EA4F, .sadd { sb := 37, sa := 39, sd := 41 }),
    (0x2254EA4F, .ssub { sb := 37, sa := 39, sd := 41 }),
    (0x4254EA4F, .smul { sb := 37, sa := 39, sd := 41 }),
    (0x6254EA4F, .sand { sb := 37, sa := 39, sd := 41 }),
    (0x8254EA4F, .sor { sb := 37, sa := 39, sd := 41 }),
    (0xA254EA4F, .sxor { sb := 37, sa := 39, sd := 41 }),
    (0xC254EA4F, .sshl { sb := 37, sa := 39, sd := 41 }),
    (0xE254EA4F, .sshr { sb := 37, sa := 39, sd := 41 })] : List (Nat × Instr)),
    decodeWord x.1 = .instr x.2 4 := by decide +kernel

/-- Major 0x08: a word of each instruction, its bits taken from the encoding table, operands set. -/
theorem test_decodeMajor08 : ∀ x ∈ ([
    (0x11A4EA51, .saddi { imm := 141, sa := 39, sd := 41 }),
    (0x31A9AA51, .smovi { imm := 141, lo := 77, sd := 41 }),
    (0x4254EA51, .scmp { sb := 37, sa := 39, sd := 41 }),
    (0x6004A9D1, .smov { sa := 37, sd := 39 }),
    (0x84D9EAD1, .vput { ta := false, n := 77, va := 79, sd := 43 }),
    (0xB1A4EA51, .smovhi { imm := 141, sa := 39, sd := 41 }),
    (0xC254EA51, .ssar { sb := 37, sa := 39, sd := 41 }),
    (0xE254EA51, .ssel { sb := 37, sa := 39, sd := 41 })] : List (Nat × Instr)),
    decodeWord x.1 = .instr x.2 4 := by decide +kernel

/-- Major 0x09: a word of each instruction, its bits taken from the encoding table, operands set. -/
theorem test_decodeMajor09 : ∀ x ∈ ([
    (0x0CFA34D3, .fadd { tb := false, ta := true, vb := 79, va := 81, vd := 83 }),
    (0x34FA34D3, .fsub { tb := true, ta := false, vb := 79, va := 81, vd := 83 }),
    (0x4CFA34D3, .fmul { tb := false, ta := true, vb := 79, va := 81, vd := 83 }),
    (0x74FA34D3, .fmin { tb := true, ta := false, vb := 79, va := 81, vd := 83 }),
    (0x8CFA34D3, .fmax { tb := false, ta := true, vb := 79, va := 81, vd := 83 }),
    (0xB4FA34D3, .fminm { tb := true, ta := false, vb := 79, va := 81, vd := 83 }),
    (0xCCFA34D3, .fmaxm { tb := false, ta := true, vb := 79, va := 81, vd := 83 }),
    (0xF4FA34D3, .fcpys { tb := true, ta := false, vb := 79, va := 81, vd := 83 })] : List (Nat × Instr)),
    decodeWord x.1 = .instr x.2 4 := by decide +kernel

/-- Major 0x0A: a word of each instruction, its bits taken from the encoding table, operands set. -/
theorem test_decodeMajor0A : ∀ x ∈ ([
    (0x0CFA34D5, .ffma { tb := false, ta := true, vb := 79, va := 81, vd := 83 }),
    (0x34FA34D5, .ffms { tb := true, ta := false, vb := 79, va := 81, vd := 83 }),
    (0x4CFA34D5, .fnma { tb := false, ta := true, vb := 79, va := 81, vd := 83 }),
    (0x74FA34D5, .fnms { tb := true, ta := false, vb := 79, va := 81, vd := 83 }),
    (0x8CFA34D5, .fdot2 { tb := false, ta := true, vb := 79, va := 81, vd := 83 }),
    (0xB4FA34D5, .fdot4 { tb := true, ta := false, vb := 79, va := 81, vd := 83 }),
    (0xCCFA34D5, .fscale { tb := false, ta := true, vb := 79, va := 81, vd := 83 })] : List (Nat × Instr)),
    decodeWord x.1 = .instr x.2 4 := by decide +kernel

/-- Major 0x0B: a word of each instruction, its bits taken from the encoding table, operands set. -/
theorem test_decodeMajor0B : ∀ x ∈ ([
    (0x14FA2157, .fcmpEq { tb := true, ta := false, vb := 79, va := 81, md := 5 }),
    (0x2CFA2157, .fcmpNe { tb := false, ta := true, vb := 79, va := 81, md := 5 }),
    (0x54FA2157, .fcmpLt { tb := true, ta := false, vb := 79, va := 81, md := 5 }),
    (0x6CFA2157, .fcmpLe { tb := false, ta := true, vb := 79, va := 81, md := 5 }),
    (0x94FA2157, .fcmpGt { tb := true, ta := false, vb := 79, va := 81, md := 5 }),
    (0xACFA2157, .fcmpGe { tb := false, ta := true, vb := 79, va := 81, md := 5 }),
    (0xD4FA2157, .fcmpUn { tb := true, ta := false, vb := 79, va := 81, md := 5 }),
    (0xECFA2157, .fcmpOrd { tb := false, ta := true, vb := 79, va := 81, md := 5 })] : List (Nat × Instr)),
    decodeWord x.1 = .instr x.2 4 := by decide +kernel

/-- Major 0x0C: a word of each instruction, its bits taken from the encoding table, operands set. -/
theorem test_decodeMajor0C : ∀ x ∈ ([
    (0x0809B3D9, .frcp { ta := true, va := 77, vd := 79 }),
    (0x2009B3D9, .frsq { ta := false, va := 77, vd := 79 }),
    (0x4809B3D9, .fsqrt { ta := true, va := 77, vd := 79 }),
    (0x6009B3D9, .fexp2 { ta := false, va := 77, vd := 79 }),
    (0x8809B3D9, .flog2 { ta := true, va := 77, vd := 79 }),
    (0xA009B3D9, .fsin { ta := false, va := 77, vd := 79 }),
    (0xC809B3D9, .fcos { ta := true, va := 77, vd := 79 }),
    (0xE009B3D9, .ftanh { ta := false, va := 77, vd := 79 })] : List (Nat × Instr)),
    decodeWord x.1 = .instr x.2 4 := by decide +kernel

/-- Major 0x0D: a word of each instruction, its bits taken from the encoding table, operands set. -/
theorem test_decodeMajor0D : ∀ x ∈ ([
    (0x0B9A34DB, .fcvt { ta := true, tgt := 7, src := 1, va := 81, vd := 83 }),
    (0x259A34DB, .icvtf { ta := false, icode := 11, fcode := 1, va := 81, vd := 83 }),
    (0x4D9A34DB, .fcvti { ta := true, icode := 11, fcode := 1, va := 81, vd := 83 }),
    (0x6009B3DB, .fround { ta := false, va := 77, vd := 79 }),
    (0x8809B3DB, .fclass { ta := true, va := 77, vd := 79 }),
    (0xA009B3DB, .dxpack { ta := false, va := 77, vd := 79 }),
    (0xC809B3DB, .dxunpk { ta := true, va := 77, vd := 79 }),
    (0xE009B3DB, .fexpo { ta := false, va := 77, vd := 79 })] : List (Nat × Instr)),
    decodeWord x.1 = .instr x.2 4 := by decide +kernel

/-- Major 0x0E: a word of each instruction, its bits taken from the encoding table, operands set. -/
theorem test_decodeMajor0E : ∀ x ∈ ([
    (0x11B41ADD, .bra { join := 141, target := 643, sense := true, mreg := 3 }),
    (0x31B9E01D, .brai { join := 141, ta := true, va := 79 }),
    (0x51B41ADD, .call { join := 141, target := 643, sense := true, mreg := 3 }),
    (0x71B9E01D, .calli { join := 141, ta := true, va := 79 }),
    (0x8000001D, .ret),
    (0xA000001D, .regang),
    (0xC000001D, .exit),
    (0xE000001D, .yield)] : List (Nat × Instr)),
    decodeWord x.1 = .instr x.2 4 := by decide +kernel

/-- Major 0x0F: a word of each instruction, its bits taken from the encoding table, operands set. -/
theorem test_decodeMajor0F : ∀ x ∈ ([
    (0x11A0001F, .trap { imm := 141 }),
    (0x31A0001F, .bkpt { imm := 141 }),
    (0x4000001F, .rte),
    (0x71A009DF, .sread { num := 141, sd := 39 }),
    (0x91A4E01F, .swrite { num := 141, sa := 39 }),
    (0xA000001F, .nop),
    (0xD1A0001F, .sleep { imm := 141 }),
    (0xF6CA201F, .cacheIinv { off := 5, cnt := 11, ta := false, va := 81 }),
    (0xF6DA205F, .cacheL1inv { off := 5, cnt := 11, ta := true, va := 81 }),
    (0xF6CA209F, .cacheL2clean { off := 5, cnt := 11, ta := false, va := 81 }),
    (0xF6DA20DF, .cacheL2flush { off := 5, cnt := 11, ta := true, va := 81 })] : List (Nat × Instr)),
    decodeWord x.1 = .instr x.2 4 := by decide +kernel

/-- Major 0x10: a word of each instruction, its bits taken from the encoding table, operands set. -/
theorem test_decodeMajor10 : ∀ x ∈ ([
    (0x04B0F3E1, .vote { sel := 75, ma := 7, vd := 79 }),
    (0x20000161, .elect { md := 5 }),
    (0x4009B3E1, .matchV { ta := false, va := 77, vd := 79 }),
    (0x74FA34E1, .shfl { tb := true, ta := false, vb := 79, va := 81, vd := 83 }),
    (0x80B9F461, .reduce { ta := false, op := 11, va := 79, vd := 81 }),
    (0xA959F461, .scan { ta := true, op := 21, va := 79, vd := 81 }),
    (0xC000B361, .rank { ma := 5, vd := 77 })] : List (Nat × Instr)),
    decodeWord x.1 = .instr x.2 4 := by decide +kernel

/-- Major 0x11: a word of each instruction, its bits taken from the encoding table, operands set. -/
theorem test_decodeMajor11 : ∀ x ∈ ([
    (0x16DA34E3, .ldB8u { off := 5, cnt := 11, ta := true, va := 81, vd := 83 }),
    (0x36CA34E3, .ldB8s { off := 5, cnt := 11, ta := false, va := 81, vd := 83 }),
    (0x56DA34E3, .ldB16u { off := 5, cnt := 11, ta := true, va := 81, vd := 83 }),
    (0x76CA34E3, .ldB16s { off := 5, cnt := 11, ta := false, va := 81, vd := 83 }),
    (0x96DA34E3, .ldB32 { off := 5, cnt := 11, ta := true, va := 81, vd := 83 }),
    (0xB6CA34E3, .ldB64 { off := 5, cnt := 11, ta := false, va := 81, vd := 83 }),
    (0xD6DA34E3, .ldB128 { off := 5, cnt := 11, ta := true, va := 81, vd := 83 }),
    (0xF6CA34E3, .ldc { off := 5, cnt := 11, ta := false, va := 81, vd := 83 })] : List (Nat × Instr)),
    decodeWord x.1 = .instr x.2 4 := by decide +kernel

/-- Major 0x12: a word of each instruction, its bits taken from the encoding table, operands set. -/
theorem test_decodeMajor12 : ∀ x ∈ ([
    (0x16EA7565, .stB8 { off := 5, cnt := 11, td := true, ta := false, va := 83, vd := 85 }),
    (0x36DA7565, .stB16 { off := 5, cnt := 11, td := false, ta := true, va := 83, vd := 85 }),
    (0x56EA7565, .stB32 { off := 5, cnt := 11, td := true, ta := false, va := 83, vd := 85 }),
    (0x76DA7565, .stB64 { off := 5, cnt := 11, td := false, ta := true, va := 83, vd := 85 }),
    (0x96EA7565, .stB128 { off := 5, cnt := 11, td := true, ta := false, va := 83, vd := 85 }),
    (0xB6DA7565, .stnt { off := 5, cnt := 11, td := false, ta := true, va := 83, vd := 85 }),
    (0xD409F465, .prefetch { off := 5, ta := false, va := 79, level := 81 })] : List (Nat × Instr)),
    decodeWord x.1 = .instr x.2 4 := by decide +kernel

/-- Major 0x13: a word of each instruction, its bits taken from the encoding table, operands set. -/
theorem test_decodeMajor13 : ∀ x ∈ ([
    (0x16DA7567, .atomAdd { off := 5, cnt := 11, td := false, ta := true, va := 83, vd := 85 }),
    (0x36EA7567, .atomMin { off := 5, cnt := 11, td := true, ta := false, va := 83, vd := 85 }),
    (0x56DA7567, .atomMax { off := 5, cnt := 11, td := false, ta := true, va := 83, vd := 85 }),
    (0x76EA7567, .atomAnd { off := 5, cnt := 11, td := true, ta := false, va := 83, vd := 85 }),
    (0x96DA7567, .atomOr { off := 5, cnt := 11, td := false, ta := true, va := 83, vd := 85 }),
    (0xB6EA7567, .atomXor { off := 5, cnt := 11, td := true, ta := false, va := 83, vd := 85 }),
    (0xD6DA7567, .atomExch { off := 5, cnt := 11, td := false, ta := true, va := 83, vd := 85 }),
    (0xF6EA7567, .atomCas { off := 5, cnt := 11, td := true, ta := false, va := 83, vd := 85 })] : List (Nat × Instr)),
    decodeWord x.1 = .instr x.2 4 := by decide +kernel

/-- Major 0x14: a word of each instruction, its bits taken from the encoding table, operands set. -/
theorem test_decodeMajor14 : ∀ x ∈ ([
    (0x16DA7569, .atomfFadd32 { off := 5, cnt := 11, td := false, ta := true, va := 83, vd := 85 }),
    (0x36EA7569, .atomfFadd64 { off := 5, cnt := 11, td := true, ta := false, va := 83, vd := 85 }),
    (0x56DA7569, .atomfFmin32 { off := 5, cnt := 11, td := false, ta := true, va := 83, vd := 85 }),
    (0x76EA7569, .atomfFmax32 { off := 5, cnt := 11, td := true, ta := false, va := 83, vd := 85 }),
    (0x96DA7569, .atomfFaddh2 { off := 5, cnt := 11, td := false, ta := true, va := 83, vd := 85 }),
    (0xB6EA7569, .atomfFaddb2 { off := 5, cnt := 11, td := true, ta := false, va := 83, vd := 85 }),
    (0xD6DA7569, .atomfInc { off := 5, cnt := 11, td := false, ta := true, va := 83, vd := 85 }),
    (0xF6EA7569, .atomfDec { off := 5, cnt := 11, td := true, ta := false, va := 83, vd := 85 })] : List (Nat × Instr)),
    decodeWord x.1 = .instr x.2 4 := by decide +kernel

/-- Major 0x15: a word of each instruction, its bits taken from the encoding table, operands set. -/
theorem test_decodeMajor15 : ∀ x ∈ ([
    (0x0000002B, .fence),
    (0x31A9A7EB, .waitc { imm := 141, va := 77, bySa := true, n := 15 }),
    (0x5419E02B, .monitor { off := 5, ta := true, va := 79 }),
    (0x6000002B, .mwait),
    (0x800012EB, .settleL { vd := 75 }),
    (0x801012EB, .settleT { vd := 75 }),
    (0x802012EB, .settleG { vd := 75 }),
    (0x803012EB, .settleP { vd := 75 }),
    (0xA000002B, .bar),
    (0xC000002B, .gridsync),
    (0xE000002B, .podsync)] : List (Nat × Instr)),
    decodeWord x.1 = .instr x.2 4 := by decide +kernel

/-- Major 0x16: a word of each instruction, its bits taken from the encoding table, operands set. -/
theorem test_decodeMajor16 : ∀ x ∈ ([
    (0x16EA756D, .dstStore { off := 5, cnt := 11, td := true, ta := false, va := 83, vd := 85 }),
    (0x36DA756D, .dstAdd { off := 5, cnt := 11, td := false, ta := true, va := 83, vd := 85 }),
    (0x56EA756D, .dstFadd { off := 5, cnt := 11, td := true, ta := false, va := 83, vd := 85 }),
    (0x76DA756D, .dstMin { off := 5, cnt := 11, td := false, ta := true, va := 83, vd := 85 }),
    (0x96EA756D, .dstMax { off := 5, cnt := 11, td := true, ta := false, va := 83, vd := 85 }),
    (0xB6DA756D, .dstOr { off := 5, cnt := 11, td := false, ta := true, va := 83, vd := 85 }),
    (0xD6EA756D, .dstAnd { off := 5, cnt := 11, td := true, ta := false, va := 83, vd := 85 }),
    (0xF6DA756D, .dstAppend { off := 5, cnt := 11, td := false, ta := true, va := 83, vd := 85 })] : List (Nat × Instr)),
    decodeWord x.1 = .instr x.2 4 := by decide +kernel

/-- Major 0x17: a word of each instruction, its bits taken from the encoding table, operands set. -/
theorem test_decodeMajor17 : ∀ x ∈ ([
    (0x14FA34EF, .mma { tb := true, ta := false, vb := 79, va := 81, vd := 83 }),
    (0x2CFA34EF, .mmas { tb := false, ta := true, vb := 79, va := 81, vd := 83 }),
    (0x54FA34EF, .mmad { tb := true, ta := false, vb := 79, va := 81, vd := 83 }),
    (0x64D9F46F, .spcmp { ta := false, sel := 77, va := 79, vd := 81 }),
    (0x8809B3EF, .xqt { ta := true, va := 77, vd := 79 }),
    (0xA009B3EF, .smxacc { ta := false, va := 77, vd := 79 }),
    (0xD4FA34EF, .smxfin { tb := true, ta := false, vb := 79, va := 81, vd := 83 }),
    (0xE00012EF, .accz { vd := 75 })] : List (Nat × Instr)),
    decodeWord x.1 = .instr x.2 4 := by decide +kernel

/-- Major 0x18: a word of each instruction, its bits taken from the encoding table, operands set. -/
theorem test_decodeMajor18 : ∀ x ∈ ([
    (0x00096031, .consort { va := 75 }),
    (0x36CA2031, .mscale { off := 5, cnt := 11, ta := false, va := 81 }),
    (0x20000071, .mscaleOff),
    (0x4009B3F1, .fragt { ta := false, va := 77, vd := 79 }),
    (0x71A00031, .setfmt { imm := 141 }),
    (0x800012F1, .getfmt { vd := 75 })] : List (Nat × Instr)),
    decodeWord x.1 = .instr x.2 4 := by decide +kernel

/-- Major 0x19: a word of each instruction, its bits taken from the encoding table, operands set. -/
theorem test_decodeMajor19 : ∀ x ∈ ([
    (0x0254EA73, .cpy { sb := 37, sa := 39, sd := 41 }),
    (0x2254EA73, .tcpy { sb := 37, sa := 39, sd := 41 }),
    (0x4254EA73, .tcpym { sb := 37, sa := 39, sd := 41 }),
    (0x6254EA73, .tstore { sb := 37, sa := 39, sd := 41 }),
    (0x8004A9F3, .rpush { sa := 37, sd := 39 }),
    (0xA004A9F3, .rpop { sa := 37, sd := 39 }),
    (0xC254EA73, .rwait { sb := 37, sa := 39, sd := 41 })] : List (Nat × Instr)),
    decodeWord x.1 = .instr x.2 4 := by decide +kernel

/-- Major 0x1A: a word of each instruction, its bits taken from the encoding table, operands set. -/
theorem test_decodeMajor1A : ∀ x ∈ ([
    (0x0254EA75, .binit { sb := 37, sa := 39, sd := 41 }),
    (0x2254EA75, .barv { sb := 37, sa := 39, sd := 41 }),
    (0x4254EA75, .bwait { sb := 37, sa := 39, sd := 41 }),
    (0x6254EA75, .btest { sb := 37, sa := 39, sd := 41 }),
    (0x8254EA75, .bexpect { sb := 37, sa := 39, sd := 41 }),
    (0xA004A9F5, .binval { sa := 37, sd := 39 })] : List (Nat × Instr)),
    decodeWord x.1 = .instr x.2 4 := by decide +kernel

/-- Major 0x1B: a word of each instruction, its bits taken from the encoding table, operands set. -/
theorem test_decodeMajor1B : ∀ x ∈ ([
    (0x0004A9F7, .tmint { sa := 37, sd := 39 }),
    (0x2004A9F7, .tfree { sa := 37, sd := 39 }),
    (0x4254EA77, .tacq { sb := 37, sa := 39, sd := 41 }),
    (0x6004A9F7, .trel { sa := 37, sd := 39 }),
    (0x8254EA77, .tsplit { sb := 37, sa := 39, sd := 41 }),
    (0xA254EA77, .tmerge { sb := 37, sa := 39, sd := 41 }),
    (0xC004A9F7, .tstat { sa := 37, sd := 39 }),
    (0xE004A9F7, .tdown { sa := 37, sd := 39 })] : List (Nat × Instr)),
    decodeWord x.1 = .instr x.2 4 := by decide +kernel

/-- Major 0x1C: a word of each instruction, its bits taken from the encoding table, operands set. -/
theorem test_decodeMajor1C : ∀ x ∈ ([
    (0x0CFA34F9, .fetch { tb := false, ta := true, vb := 79, va := 81, vd := 83 }),
    (0x34FA34F9, .fetchx { tb := true, ta := false, vb := 79, va := 81, vd := 83 }),
    (0x4CFA34F9, .fetchs { tb := false, ta := true, vb := 79, va := 81, vd := 83 }),
    (0x74D00039, .finv { tb := true, vb := 77 })] : List (Nat × Instr)),
    decodeWord x.1 = .instr x.2 4 := by decide +kernel

/-- Major 0x1D: a word of each instruction, its bits taken from the encoding table, operands set. -/
theorem test_decodeMajor1D : ∀ x ∈ ([
    (0x0004A9FB, .spawn { sa := 37, sd := 39 }),
    (0x2000097B, .joinTask { sd := 37 }),
    (0x2010097B, .joinPoll { sd := 37 }),
    (0x4254EA7B, .launchCmd { sb := 37, sa := 39, sd := 41 }),
    (0x6000097B, .taskend { sd := 37 }),
    (0x8004A9FB, .qstat { sa := 37, sd := 39 })] : List (Nat × Instr)),
    decodeWord x.1 = .instr x.2 4 := by decide +kernel

/-- Major 0x1E: a word of each instruction, its bits taken from the encoding table, operands set. -/
theorem test_decodeMajor1E : ∀ x ∈ ([
    (0x0254EA7D, .rshard { sb := 37, sa := 39, sd := 41 }),
    (0x2004A9FD, .rspoll { sa := 37, sd := 39 }),
    (0x4004A9FD, .migrate { sa := 37, sd := 39 }),
    (0x6000097D, .peerid { sd := 37 }),
    (0x6014A9FD, .peeridQ { sa := 37, sd := 39 })] : List (Nat × Instr)),
    decodeWord x.1 = .instr x.2 4 := by decide +kernel

/-- The 16-bit instructions (R46, R47): a word of each instruction, its bits taken from the encoding table, operands set. -/
theorem test_decodeShort : ∀ x ∈ ([
    (0xD6E0, .mov16 { ta := true, va := 21, vd := 23 }),
    (0x56E2, .iadd16 { ta := false, va := 21, vd := 23 }),
    (0xD6E4, .isub16 { ta := true, va := 21, vd := 23 }),
    (0x56E6, .and16 { ta := false, va := 21, vd := 23 }),
    (0xD6E8, .or16 { ta := true, va := 21, vd := 23 }),
    (0x56EA, .xor16 { ta := false, va := 21, vd := 23 }),
    (0xD6EC, .shl16 { ta := true, va := 21, vd := 23 }),
    (0x56EE, .shr16 { ta := false, va := 21, vd := 23 }),
    (0xD6F0, .fadd16 { ta := true, va := 21, vd := 23 }),
    (0x56F2, .fsub16 { ta := false, va := 21, vd := 23 }),
    (0xD6F4, .fmul16 { ta := true, va := 21, vd := 23 }),
    (0x56F6, .fmax16 { ta := false, va := 21, vd := 23 }),
    (0xD6F8, .iaddi16 { ta := true, imm := 21, vd := 23 }),
    (0x4EBA, .movi16 { imm := 19, vd := 21 }),
    (0xD6FC, .ld16 { ta := true, va := 21, vd := 23 }),
    (0x56FE, .imul16 { ta := false, va := 21, vd := 23 })] : List (Nat × Instr)),
    decodeWord x.1 = .instr x.2 2 := by decide +kernel

/-- The examples that the spec prints: `ICMP.LTU M2, V4, V5`, `SMOVI S5, 1000`, `PEERID S2`, `PEERID.Q S3, S5` (R97, R104, R426). -/
theorem test_decodeExamples :
    decodeWord 0xC0508089 = .instr (.icmpLtu { tb := false, ta := false, vb := 5, va := 4, md := 2 }) 4 ∧
    decodeWord 0x20ED0151 = .instr (.smovi { imm := 7, lo := 104, sd := 5 }) 4 ∧
    decodeWord 0x600000BD = .instr (.peerid { sd := 2 }) 4 ∧
    decodeWord 0x6010A0FD = .instr (.peeridQ { sa := 5, sd := 3 }) 4 := by decide +kernel

/-- The prefixes (R56, R62, R65): header 0x3F, 0x2000003F and 0x4000003F; a PBLK of two whose pattern has a bit at or above
its count is reserved, and so are an unused bit that is set and minor 3 (R55, R69). -/
theorem test_decodePrefixes :
    decodeWord (0x3F + 5 * 2 ^ 6 + 2 ^ 10 + 3 * 2 ^ 11 + 77 * 2 ^ 14 + 2 * 2 ^ 22 + 2 ^ 25) =
      .modp { sat := true, alt := false, pack := 2, tc := false, vc := 77, rnd := 3, zi := true, mask := 5 } ∧
    decodeWord (0x2000003F + 3 * 2 ^ 6 + 1 * 2 ^ 9 + 2 * 2 ^ 12) = .pblk { pattern := 2, count := 1, mask := 3 } ∧
    decodeWord (0x2000003F + 3 * 2 ^ 6 + 1 * 2 ^ 9 + 4 * 2 ^ 12) = .reserved ∧
    decodeWord (0x4000003F + 0x7FFFFF * 2 ^ 6) = .immx 0x7FFFFF ∧
    decodeWord (0xA000001F + 2 ^ 6) = .reserved ∧ decodeWord 0x6000003F = .reserved ∧
    decodeWord 0x801A = .reserved := by decide +kernel

/-! ### Well-formedness -/

/-- A term that breaks each check is refused. -/
theorem test_wfRefuses : ∀ i ∈ ([
    .lea { tb := false, ta := false, vb := 2, va := 3, vd := 8 }, .lea { tb := false, ta := false, vb := 2, va := 4, vd := 9 },
    .vget { sel := 0, va := 64, vd := 1 }, .vget { sel := 1, va := 1, vd := 1 }, .vget { sel := 4, va := 0, vd := 1 },
    .vput { ta := false, n := 5, va := 1, sd := 1 },
    .fcvt { ta := false, tgt := 1, src := 1, va := 1, vd := 2 }, .fcvt { ta := false, tgt := 6, src := 1, va := 1, vd := 2 },
    .fcvt { ta := false, tgt := 1, src := 6, va := 1, vd := 2 },
    .icvtf { ta := false, icode := 10, fcode := 1, va := 1, vd := 2 }, .icvtf { ta := false, icode := 1, fcode := 6, va := 1, vd := 2 },
    .fcvti { ta := false, icode := 10, fcode := 1, va := 1, vd := 2 }, .fcvti { ta := false, icode := 1, fcode := 6, va := 1, vd := 2 },
    .brai { join := 0, ta := false, va := 3 }, .calli { join := 0, ta := false, va := 3 },
    .cacheIinv { off := 0, cnt := 0, ta := false, va := 65 }, .cacheL1inv { off := 0, cnt := 0, ta := true, va := 5 },
    .cacheL2clean { off := 0, cnt := 0, ta := false, va := 65 }, .cacheL2flush { off := 0, cnt := 0, ta := true, va := 5 },
    .vote { sel := 3, ma := 1, vd := 3 }, .vote { sel := 4, ma := 1, vd := 2 }, .vote { sel := 0, ma := 1, vd := 8 },
    .matchV { ta := false, va := 2, vd := 3 }, .reduce { ta := false, op := 15, va := 2, vd := 3 },
    .scan { ta := false, op := 15, va := 2, vd := 3 }, .scan { ta := false, op := 31, va := 2, vd := 3 },
    .waitc { imm := 1, va := 4, bySa := true, n := 0 }, .waitc { imm := 0, va := 64, bySa := true, n := 0 },
    .waitc { imm := 1, va := 4, bySa := false, n := 0 }, .monitor { off := 0, ta := false, va := 65 },
    .prefetch { off := 0, ta := false, va := 65, level := 0 }, .prefetch { off := 0, ta := false, va := 4, level := 3 },
    .mmad { tb := false, ta := false, vb := 2, va := 3, vd := 8 }, .mmad { tb := false, ta := false, vb := 3, va := 2, vd := 8 },
    .mmad { tb := false, ta := false, vb := 2, va := 4, vd := 9 }, .spcmp { ta := false, sel := 2, va := 4, vd := 8 },
    .smxacc { ta := false, va := 4, vd := 9 }, .smxfin { tb := false, ta := false, vb := 2, va := 4, vd := 9 },
    .smxfin { tb := false, ta := false, vb := 2, va := 5, vd := 8 }, .smxfin { tb := false, ta := false, vb := 3, va := 4, vd := 8 },
    .consort { va := 3 }, .mscale { off := 0, cnt := 0, ta := false, va := 65 },
    .rpush { sa := 1, sd := 2 }, .rpop { sa := 1, sd := 2 }, .binval { sa := 1, sd := 2 }, .tmint { sa := 8, sd := 1 },
    .tmint { sa := 4, sd := 2 }, .migrate { sa := 1, sd := 2 }, .rspoll { sa := 1, sd := 2 }, .rspoll { sa := 2, sd := 1 },
    .mov16 { ta := true, va := 3, vd := 3 }, .ld16 { ta := false, va := 3, vd := 4 }] : List Instr),
    i.wf = false := by decide +kernel

/-- So is a term that breaks a check of format M, of a multiple or of a form of format X. -/
theorem test_wfRefusesShared :
    (∀ va ∈ [65, 127], ∀ ta ∈ [false, true], let l : OpL := { off := 0, cnt := 0, ta := ta, va := BitVec.ofNat 7 va, vd := 8 }
      let o : OpS := { off := 0, cnt := 0, td := false, ta := ta, va := BitVec.ofNat 7 va, vd := 8 }
      ∀ i ∈ [Instr.ldB8u l, .ldB8s l, .ldB16u l, .ldB16s l, .ldB32 l, .ldB64 l, .ldB128 l, .ldc l, .stB8 o, .stB16 o, .stB32 o,
        .stB64 o, .stB128 o, .stnt o, .atomAdd o, .atomMin o, .atomMax o, .atomAnd o, .atomOr o, .atomXor o, .atomExch o,
        .atomCas o, .atomfFadd32 o, .atomfFadd64 o, .atomfFmin32 o, .atomfFmax32 o, .atomfFaddh2 o, .atomfFaddb2 o, .atomfInc o,
        .atomfDec o, .dstStore o, .dstAdd o, .dstFadd o, .dstMin o, .dstMax o, .dstOr o, .dstAnd o, .dstAppend o], i.wf = false) ∧
    (let l : OpL := { off := 0, cnt := 0, ta := false, va := 4, vd := 9 }
     let o : OpS := { off := 0, cnt := 0, td := false, ta := false, va := 4, vd := 9 }
     ∀ i ∈ [Instr.ldB64 l, .ldB128 l, .stB64 o, .stB128 o, .stnt o, .atomCas o, .atomfFadd64 o], i.wf = false) ∧
    (let x : OpX := { sb := 1, sa := 1, sd := 1 }
     ∀ i ∈ [Instr.cpy x, .tcpy x, .tcpym x, .tstore x, .rwait x, .binit x, .barv x, .bwait x, .btest x, .bexpect x, .launchCmd x,
       .rshard x], i.wf = false) ∧
    (∀ i ∈ [Instr.tcpy { sb := 0, sa := 8, sd := 4 }, .tcpym { sb := 0, sa := 4, sd := 8 }, .tstore { sb := 0, sa := 2, sd := 4 },
       .cpy { sb := 0, sa := 2, sd := 3 }, .rwait { sb := 2, sa := 2, sd := 2 }, .rwait { sb := 0, sa := 2, sd := 3 },
       .rshard { sb := 3, sa := 2, sd := 2 }, .tsplit { sb := 0, sa := 0, sd := 62 }], i.wf = false) ∧
    ∀ i ∈ [Instr.fetch { tb := false, ta := false, vb := 2, va := 4, vd := 9 }, .fetchx { tb := false, ta := false, vb := 2, va := 5, vd := 8 },
      .fetchs { tb := false, ta := false, vb := 2, va := 5, vd := 8 }], i.wf = false := by decide +kernel

/-! ### States for the tests -/

/-- One co-operative grid of one team of one group of 16 lanes, its split under issue at 0x80000. -/
def s0 : State :=
  { x.grids := [{ uid := 1, launch := { coop := true } }]
    x.teams := [{ uid := 2, grid := 1 }]
    x.splits := [{ sid := 3, team := 2, group := 0, tix := 0, pc := 0x80000, slices := [0, 1, 2, 3] }]
    u.iss := { sid := 3, team := 2, group := 0, unitPc := 0x80000, wordPc := 0x80000, nextPc := 0x80004 }
    u.uid := 4, u.seqNo := 5, u.clk := 100 }

/-- A change of the launch record. -/
def launched (f : Launch → Launch) (s : State) : State := s.modGrid 1 fun g => { g with launch := f g.launch }
/-- Sn of every slice. -/
def withS (n : Nat) (w : Word) (s : State) : State := [0, 1, 2, 3].foldl (fun t c => t.setS ⟨2, 0, c⟩ n w) s
/-- Vn of every lane. -/
def withV (n : Nat) (w : Word) (s : State) : State := (List.range 16).foldl (fun t l => t.setV ⟨2, 0, l⟩ n w) s
/-- Mn of every slice. -/
def withM (n : Nat) (m : BitVec 4) (s : State) : State := [0, 1, 2, 3].foldl (fun t c => t.setM ⟨2, 0, c⟩ n m) s
/-- Every slice's record. -/
def withSlc (f : Slice → Slice) (s : State) : State := [0, 1, 2, 3].foldl (fun t c => t.modSlc ⟨2, 0, c⟩ f) s
/-- The split under issue, changed. -/
def withP (f : Split → Split) (s : State) : State := s.modSplit 3 f
/-- A MODP in front of the unit. -/
def withModp (m : Modp) (s : State) : State := { s with u.iss.modp := some m }
/-- A MODP with every field 0. -/
def m0 : Modp := { sat := false, alt := false, pack := 0, tc := false, vc := 0, rnd := 0, zi := false, mask := 0 }
/-- No lane is active. -/
def asleep (s : State) : State := withSlc (fun x => { x with mask := 0 }) s
/-- No lane has a true effective mask: M1 is 0 and the MODP names it. -/
def masked (s : State) : State := withModp { m0 with mask := 1 } s
/-- A page table with one 1 GiB page for ASID 0, that maps an address to itself with every permission. -/
def mapped (s : State) : State :=
  ((s.store (s.locPhys 0) (2 ^ 17 + 1) 16).store (s.locPhys (2 ^ 17)) (2 ^ 18 + 1) 16).store (s.locPhys (2 ^ 18)) 31 16
/-- An event of an argument. -/
def event (e : EventArg) (s : State) : State := { s with u.ev := e }
/-- A role for the group. -/
def withRole (r : Role) (s : State) : State := s.modGrp ⟨2, 0⟩ fun g => { g with role := r }

/-- The machine after a step that answers a next state. -/
def after (o : Host.Outcome State Fault Refusal) : State := match o with | .next t => t | .fault _ => {} | .refused _ => {}

/-! ### Single steps -/

/-- `SMOVI S5, 1000`, the spec's example word, fetched and run by a step after reset (R104). -/
theorem test_stepSmovi : (after (step (State.reset.withFetchWord 32 0x20ED0151))).getS ⟨2, 0, 3⟩ 5 = 1000 := by decide +kernel

/-- PEERID S2, the spec's example word, on a lone module: device 0, one module, 64 ports up (R426). -/
theorem test_stepPeerid : ((after (step (State.reset.withFetchWord 32 0x600000BD))).getS ⟨2, 0, 0⟩ 2).toNat =
    0 + 1 * 2 ^ 9 + 64 * 2 ^ 19 := by decide +kernel

/-- A reserved encoding raises ILLEGAL_OP at its own address, and under ABORT_GRID ends its grid (R69, R217). -/
theorem test_stepReserved :
    ((after (step (State.reset.withFetchWord 32 0x6000003F))).slc ⟨2, 0, 0⟩).faultRec.headD 0 = 0x80000001 ∧
    ((after (step (State.reset.withFetchWord 32 0x6000003F))).grid 1).aborted = true := by decide +kernel

/-- IADD wraps, and with sat it clamps (R91, R93). -/
theorem test_iaddWraps :
    (after (exec (.iadd { tb := false, ta := false, vb := 2, va := 4, vd := 6 })
      (withV 2 1 (withV 4 0x7FFFFFFF s0)))).getV ⟨2, 0, 5⟩ 6 = 0x80000000 ∧
    (after (exec (.iadd { tb := false, ta := false, vb := 2, va := 4, vd := 6 })
      (withModp { m0 with sat := true } (withV 2 1 (withV 4 0x7FFFFFFF s0))))).getV ⟨2, 0, 5⟩ 6 = 0x7FFFFFFF := by decide +kernel

/-- ICMP.LT is signed: −1 < 1, and writes every lane's bit (R97). -/
theorem test_icmpSigned :
    (after (exec (.icmpLt { tb := false, ta := false, vb := 2, va := 4, md := 3 })
      (withV 2 1 (withV 4 0xFFFFFFFF s0)))).getM ⟨2, 0, 1⟩ 3 = 15 := by decide +kernel

/-- A shift by the width or more gives 0, and SAR the sign (R92). -/
theorem test_shiftsByWidth :
    (after (exec (.shl { tb := false, ta := false, vb := 2, va := 4, vd := 6 })
      (withV 2 32 (withV 4 0x80000001 s0)))).getV ⟨2, 0, 0⟩ 6 = 0 ∧
    (after (exec (.sar { tb := false, ta := false, vb := 2, va := 4, vd := 6 })
      (withV 2 40 (withV 4 0x80000001 s0)))).getV ⟨2, 0, 0⟩ 6 = 0xFFFFFFFF := by decide +kernel

/-- 1.0 + 2^-24 rounds to even, 1.0 (R21, R109). -/
theorem test_faddRounds :
    (after (exec (.fadd { tb := false, ta := false, vb := 2, va := 4, vd := 6 })
      (withV 2 0x33800000 (withV 4 0x3F800000 s0)))).getV ⟨2, 0, 9⟩ 6 = 0x3F800000 := by decide +kernel

/-- SSEL reads the old Sd (R104). -/
theorem test_sselOldSd :
    (after (exec (.ssel { sb := 2, sa := 4, sd := 6 }) (withS 6 1 (withS 4 7 (withS 2 9 s0))))).getS ⟨2, 0, 2⟩ 6 = 7 := by
  decide +kernel

/-- TRAP 5 with a handler: handler mode, and the resume address is the next unit's (R217). -/
theorem test_trapResumesNext :
    let t := after (exec (.trap { imm := 5 }) (launched (fun l => { l with policy := .handler, trapPc := 0x90000 }) s0))
    (t.slc ⟨2, 0, 0⟩).epc = 0x80004 ∧ (t.slc ⟨2, 0, 0⟩).hmode = true ∧ (t.split 3).pc = 0x90000 := by decide +kernel

/-- A store to the scratchpad window, performed, is read back (R155, R162). -/
theorem test_storePerforms :
    let s := launched (fun l => { l with scratch := 65536 }) (withV 4 (BitVec.ofNat 32 scratchWindow)
      (withV 5 (BitVec.ofNat 32 (scratchWindow / 2 ^ 32)) (withV 8 0xCAFE s0)))
    let t := after (exec (.stB32 { off := 0, cnt := 0, td := false, ta := false, va := 4, vd := 8 }) s)
    let u := after (exec .storePerformed (event { id := (t.k.acc.headD
      { id := 0, sid := 0, lane := ⟨0, 0, 0⟩, unitPc := 0, seq := 0, kind := .ldc, gaddr := 0, size := 0 }).id } t))
    t.k.acc.length = 16 ∧ u.load (locScr 2 0) 4 = 0xCAFE ∧ t.load (locScr 2 0) 4 = 0 := by decide +kernel

/-! ### Every hypothesis is met: encoding, issue, arithmetic -/

/-- What an instruction's unit uses. -/
def useOf (i : Instr) (s : State) : Use := ((meaningOf i s).map (·.use)).getD { major := 0, legal := true }
/-- A unit was found. -/
def Front.isRun : Front → Bool | .run _ _ _ => true | .illegal _ _ _ => false | .hold _ _ _ _ => false | .wait => false
/-- An illegal encoding was found. -/
def Front.isIllegal : Front → Bool | .run _ _ _ => false | .illegal _ _ _ => true | .hold _ _ _ _ => false | .wait => false
/-- A fetch fault was found. -/
def Front.isHold : Front → Bool | .run _ _ _ => false | .illegal _ _ _ => false | .hold _ _ _ _ => true | .wait => false
/-- The halfword of a fetch. -/
def halfOf : Fetched → Option Nat | .half h _ => some h | .hold _ _ => none | .wait => none

abbrev xA : OpA := { tb := false, ta := false, vb := 2, va := 4, vd := 8 }
abbrev xA1 : OpA1 := { ta := false, va := 4, vd := 8 }
abbrev xC : OpC := { tb := false, ta := false, vb := 2, va := 4, md := 1 }
abbrev xI : OpI := { imm := 3, ta := false, va := 4, vd := 8 }
abbrev xX : OpX := { sb := 2, sa := 4, sd := 8 }
abbrev xX1 : OpX1 := { sa := 4, sd := 8 }
abbrev xXI : OpXI := { imm := 3, sa := 4, sd := 8 }
abbrev xMovi : OpMovi := { imm := 3, lo := 1, vd := 8 }
abbrev xSmovi : OpSmovi := { imm := 3, lo := 1, sd := 8 }
abbrev xVput : OpVput := { ta := false, n := 4, va := 4, sd := 8 }
abbrev xD : OpD := { vd := 8 }
abbrev xImm : OpImm := { imm := 3 }
abbrev xSd : OpSd := { sd := 8 }
abbrev xL : OpL := { off := 0, cnt := 0, ta := false, va := 4, vd := 8 }
abbrev xS : OpS := { off := 0, cnt := 0, td := false, ta := false, va := 4, vd := 8 }
abbrev xMC : OpMC := { off := 0, cnt := 0, ta := false, va := 4 }
abbrev x16 : Op16 := { ta := false, va := 4, vd := 8 }

theorem wit_DecodeEncode :
    encode (.iadd xA) = some (32, 0x208101 + 4 * 2 ^ 13 - 0x8000 + 0x100) ∧ encode (.mov16 x16) = some (16, 0x1100) ∧
    ({ pattern := 255, count := 7, mask := 7 } : Pblk).patternOk = true ∧
    ({ pattern := 1, count := 0, mask := 0 } : Pblk).patternOk = true := by decide +kernel

theorem wit_StepRunsDecoded :
    (let s := State.reset.withFetchWord 32 0x20ED0151
     let t : State := { s.tick with u.agenda := [] }
     s.tick.u.agenda = [.issue 3] ∧ (t.split? 3).isSome = true ∧ t.ready (t.split 3) = true ∧
      Front.isRun (t.front (t.split 3)) = true ∧ halfOf (t.fetchHalf 0 0 0 0x80000 0) = some 0x0151) ∧
    (let s := (State.reset.withFetchWord 32 0x20ED0151).modSplit 3 fun p => { p with wait := true }
     { s.tick with u.agenda := [] }.ready (s.tick.split 3) = false) ∧
    (let s := State.reset.withFetchWord 32 0x6000003F
     Front.isIllegal (s.tick.front (s.tick.split 3)) = true) ∧
    (let s := (State.reset.withFetchWord 32 0x20ED0151).modSplit 3 fun p => { p with pc := 0xFFFFFFFF000000 }
     Front.isHold (s.tick.front (s.tick.split 3)) = true) ∧
    (let s := State.reset.withFetchWord 16 0x1100
     halfOf (s.fetchHalf 0 0 0 0x80000 0) = some 0x1100 ∧ (s.translate 0 0 0x80000 64).any (·.x) = true ∧
      (s.translate 0 0 0x80000 64).any (s.migHeld 0 0 · 0x80000) = false ∧ s.snapOf (.icache 0 0 0x80000) 0x1000 = none ∧
      s.poisoned 0x80000 2 = false) ∧
    (let s := State.reset.withFetchWord 16 0x1100
     let t : State := { s with m.poison := [s.locPhys 0x80000] }
     t.poisoned (t.locPhys 0x80000) 2 = true ∧ Front.isHold (t.front (t.split 3)) = true) ∧
    (let s : State := { s0 with u.agenda := [.event .lifetimeRead {}] }
     s.tick.u.agenda = [.event .lifetimeRead {}] ∧ encode .lifetimeRead = none) := by decide +kernel

theorem wit_IssueChecks :
    (s0.split? s0.u.iss.sid).isSome = true ∧
    (Instr.wf (.brai { join := 0, ta := false, va := 3 }) = false ∧
      (meaningOf (.brai { join := 0, ta := false, va := 3 }) s0).isSome = true) ∧
    s0.unitLegal (useOf (.iadd xA) s0) = true ∧
    (useOf (.cpy xX) s0).roleOk .matrix = false ∧
    (let s := withP (fun p => { p with slices := [0, 1] }) s0
     s.unitLegal (useOf (.mma xA) s) = true ∧ (useOf (.mma xA) s).roleOk s.role = true ∧
      (useOf (.mma xA) s).partGroup = true ∧ (useOf (.iadd xA) s).partGroup = false) ∧
    (let s := s0.setEmpty ⟨2, 0, 3⟩ 8 true
     let u := useOf (.iadd xA) s
     s.destEmpty u = true ∧ s.unitLegal u = true ∧ u.roleOk s.role = true ∧ u.partGroup = false) ∧
    (let s := s0.setEmpty ⟨2, 0, 3⟩ 4 true
     let u := useOf (.iadd { xA with ta := true }) s
     s.trapRead u.reads = some (4, [3]) ∧ s.destEmpty u = false ∧ s.unitLegal u = true ∧ u.ready = true ∧ s.pendFree u = true) ∧
    (let s := withP (fun p => { p with frames := [{ join := 0x80000, token := 1 }] }) s0
     let u := useOf (.iadd xA) s
     s.joinBreach (s.split 3) u = true ∧ u.major ≠ 0x0E ∧ s.trapRead u.reads = none ∧ s.unitLegal u = true ∧ u.ready = true) ∧
    (let s := s0.setEmpty ⟨2, 0, 3⟩ 4 true
     let u := useOf (.iadd xA) s
     s.anyEmpty u.reads = true ∧ s.trapRead u.reads = none ∧ s.joinBreach (s.split 3) u = false ∧ s.destEmpty u = false) := by
  decide +kernel

/-- A unit at the join of its split's frame: in major 0x17, and in a branch with full and with empty registers. -/
theorem wit_IssueChecks_join :
    let s := withP (fun p => { p with frames := [{ join := 0x80000, token := 1 }] }) s0
    let b : Instr := .brai { join := 0, ta := false, va := 4 }
    (let u := useOf (.smxacc xA1) s
     u.major = 0x17 ∧ s.joinBreach (s.split 3) u = true ∧ s.unitLegal u = true ∧ u.roleOk s.role = true ∧ u.partGroup = false) ∧
    (let u := useOf b s
     u.major = 0x0E ∧ s.joinBreach (s.split 3) u = true ∧ s.unitLegal u = true ∧ u.ready = true ∧ s.trapRead u.reads = none ∧
      s.anyEmpty u.reads = false) ∧
    (let t := s.setEmpty ⟨2, 0, 3⟩ 5 true
     let u := useOf b t
     t.anyEmpty u.reads = true ∧ t.trapRead u.reads = none ∧ t.destEmpty u = false) := by decide +kernel

theorem wit_StepKeepsMemWf :
    Memory.wf (State.reset.withFetchWord 32 0x20ED0151).m.mem ∧
    (after (step (State.reset.withFetchWord 32 0x20ED0151))).m.mem ≠ [] := by decide +kernel

theorem wit_MaskRegisters :
    (s0.u.iss.cond = none ∧ (3 : Nat) ≠ 0 ∧ (s0.split 3).slices.Nodup ∧ 3 ∈ (s0.split 3).slices) ∧
    ({ s0 with u.iss.cond := some true } : State).u.iss.cond = some true := by decide +kernel

theorem wit_Arithmetic : ∀ i ∈ ([
    .iadd xA, .isub xA, .imin xA, .imax xA, .iminu xA, .imaxu xA, .iaddc xA, .iabsd xA,
    .imul xA, .imulh xA, .imulhu xA, .imad xA, .idot4 xA, .idot4u xA, .popc xA1, .clz xA1,
    .andB xA, .orB xA, .xorB xA, .andn xA, .orn xA, .xnor xA, .sel xA, .brev xA1,
    .shl xA, .shr xA, .sar xA, .rol xA, .ror xA, .fshl xA, .bfx xA, .bfi xA,
    .icmpEq xC, .icmpNe xC, .icmpLt xC, .icmpLe xC, .icmpGt xC, .icmpGe xC, .icmpLtu xC, .icmpGeu xC,
    .fcmpEq xC, .fcmpNe xC, .fcmpLt xC, .fcmpLe xC, .fcmpGt xC, .fcmpGe xC, .fcmpUn xC, .fcmpOrd xC] : List Instr),
    Runs i s0 := by decide +kernel

theorem wit_ImmediatesAndMoves : ∀ i ∈ ([
    .iaddi xI, .andi xI, .ori xI, .xori xI, .shli xI, .shri xI, .sari xI, .movi xMovi, .mov xA1, .movhi xA1, .lea xA, .pack xA,
    .unpk { ta := false, n := 1, va := 4, vd := 8 }, .perm xA, .bcast { ta := false, n := 3, va := 4, vd := 8 },
    .vget { sel := 0, va := 63, vd := 8 }, .vget { sel := 3, va := 0, vd := 8 }] : List Instr), Runs i s0 := by decide +kernel

theorem wit_Scalars :
    (∀ i ∈ ([.sadd xX, .ssub xX, .smul xX, .sand xX, .sor xX, .sxor xX, .sshl xX, .sshr xX, .saddi xXI, .smovi xSmovi, .scmp xX,
      .smov xX1, .vput xVput, .smovhi xXI, .ssar xX, .ssel xX] : List Instr), Runs i s0) ∧
    (withModp m0 s0).u.iss.modp.isSome = true ∧ ((withModp m0 s0).split? (withModp m0 s0).u.iss.sid).isSome = true := by
  decide +kernel

theorem wit_FloatArithmetic : ∀ i ∈ ([
    .fadd xA, .fsub xA, .fmul xA, .fmin xA, .fmax xA, .fminm xA, .fmaxm xA, .fcpys xA, .ffma xA, .ffms xA, .fnma xA, .fnms xA,
    .fdot2 xA, .fdot4 xA, .fscale xA] : List Instr), Runs i s0 := by decide +kernel

theorem wit_SfuOperations :
    (∀ i ∈ ([.frcp xA1, .frsq xA1, .fsqrt xA1, .fexp2 xA1, .flog2 xA1, .fsin xA1, .fcos xA1, .ftanh xA1] : List Instr),
      Runs i s0) ∧
    (let o : SfuOp := { id := 9, team := 2, group := 0, vd := 8, results := [(0, 1), (15, 2)] }
     let s := event { id := 9 } { s0 with e.sfu := [o] }
     s.e.sfu.find? (fun q => decide (q.id = s.u.ev.id)) = some o ∧ (o.results.map (·.1)).Nodup) := by decide +kernel

theorem wit_Conversions :
    floatCode 1 = some fp32 ∧ (floatCode 0).isSome = true ∧ (floatCode 5).isSome = true ∧ (intCode 0).isSome = true ∧ (intCode 9).isSome = true ∧ s0.dxReserved = false ∧
    (∀ i ∈ ([.fcvt { ta := false, tgt := 1, src := 0, va := 4, vd := 8 }, .fcvt { ta := false, tgt := 0, src := 5, va := 4, vd := 8 },
      .icvtf { ta := false, icode := 0, fcode := 0, va := 4, vd := 8 }, .icvtf { ta := false, icode := 9, fcode := 5, va := 4, vd := 8 },
      .fcvti { ta := false, icode := 0, fcode := 0, va := 4, vd := 8 }, .fcvti { ta := false, icode := 9, fcode := 5, va := 4, vd := 8 },
      .fround xA1, .fclass xA1, .fexpo xA1, .dxunpk xA1, .dxpack xA1] : List Instr), Runs i s0) := by decide +kernel

theorem wit_ShortForms :
    (∀ i ∈ ([.mov16 x16, .mov16 { ta := false, va := 8, vd := 8 }, .iadd16 x16, .isub16 x16, .and16 x16, .or16 x16, .xor16 x16,
      .shl16 x16, .shr16 x16, .fadd16 x16, .fsub16 x16, .fmul16 x16, .fmax16 x16, .iaddi16 { ta := false, imm := 31, vd := 8 },
      .movi16 { imm := 31, vd := 8 }, .imul16 x16] : List Instr), Runs i s0) ∧
    Runs (.ld16 x16) (mapped s0) ∧
    State.memFault { kind := .load false, size := 4, va := 4, off := 0, ta := false, cnt := some 0, dst := 8, dstN := 1 }
      ((mapped s0).plans
        { kind := .load false, size := 4, va := 4, off := 0, ta := false, cnt := some 0, dst := 8, dstN := 1 }) = none := by
  decide +kernel

theorem wit_GroupOperations : ∀ i ∈ ([
    .vote { sel := 0, ma := 1, vd := 2 }, .vote { sel := 1, ma := 1, vd := 2 }, .vote { sel := 2, ma := 1, vd := 2 },
    .vote { sel := 3, ma := 1, vd := 8 }, .elect { md := 3 }, .matchV xA1, .shfl xA, .rank { ma := 1, vd := 8 },
    .reduce { ta := false, op := 0, va := 4, vd := 8 }, .reduce { ta := false, op := 14, va := 4, vd := 8 },
    .scan { ta := false, op := 0, va := 4, vd := 8 }, .scan { ta := false, op := 30, va := 4, vd := 8 }] : List Instr),
    Runs i s0 := by decide +kernel

/-! ### Branches, system instructions, exceptions -/

abbrev xB (join : BitVec 8) : OpB := { join := join, target := 8, sense := false, mreg := 1 }
abbrev xBI (join : BitVec 8) : OpBI := { join := join, ta := false, va := 4 }
/-- M1 is 0101 in every slice: the lanes disagree. -/
def split0 : State := withM 1 5 s0
/-- Lane 0 branches elsewhere. -/
def splitI : State := (withV 4 0x90000 s0).setV ⟨2, 0, 0⟩ 4 0xA0000
/-- A full mask stack in every slice. -/
def full (s : State) : State :=
  withSlc (fun x => { x with stack := List.replicate 16 { pc := 0, mask := 0, join := 0, fcopy := 0, isJoin := true } }) s

theorem wit_DirectBranches :
    ((asleep s0).act = [] ∧ Runs (.bra (xB 0)) (asleep s0) ∧ Runs (.call (xB 0)) (asleep s0)) ∧
    (s0.act ≠ [] ∧ (∀ l ∈ s0.act, s0.outB (xB 0) l = 0x80004) ∧ Runs (.bra (xB 0)) s0 ∧ Runs (.call (xB 0)) s0) ∧
    ((∃ l ∈ split0.act, ∃ m ∈ split0.act, split0.outB (xB 0) l ≠ split0.outB (xB 0) m) ∧ split0.joinB (xB 0) = none ∧
      Runs (.bra (xB 0)) split0 ∧ Runs (.call (xB 0)) split0) ∧
    (split0.joinB (xB 1) = some 0x80002 ∧ split0.stackFull (split0.outB (xB 1)) = false ∧ Runs (.bra (xB 1)) split0 ∧
      Runs (.call (xB 1)) split0) ∧
    ((full split0).stackFull ((full split0).outB (xB 255)) = true ∧ (full split0).joinB (xB 255) = some 0x801FE ∧
      (∃ l ∈ (full split0).act, ∃ m ∈ (full split0).act, (full split0).outB (xB 255) l ≠ (full split0).outB (xB 255) m) ∧
      Runs (.bra (xB 255)) (full split0) ∧ Runs (.call (xB 255)) (full split0)) := by decide +kernel

theorem wit_IndirectBranches :
    (((withV 4 1 s0).oddTargets (xBI 0)).isSome = true ∧ Runs (.brai (xBI 0)) (withV 4 1 s0) ∧
      Runs (.calli (xBI 0)) (withV 4 1 s0)) ∧
    ((asleep s0).oddTargets (xBI 0) = none ∧ (asleep s0).act = [] ∧ Runs (.brai (xBI 0)) (asleep s0) ∧
      Runs (.calli (xBI 0)) (asleep s0)) ∧
    ((withV 4 0x90000 s0).oddTargets (xBI 0) = none ∧ (∀ l ∈ s0.act, (withV 4 0x90000 s0).outBI (xBI 0) l = 0x90000) ∧
      Runs (.brai (xBI 0)) (withV 4 0x90000 s0) ∧ Runs (.calli (xBI 0)) (withV 4 0x90000 s0)) ∧
    (splitI.oddTargets (xBI 0) = none ∧ splitI.joinBI (xBI 0) = none ∧
      (∃ l ∈ splitI.act, ∃ m ∈ splitI.act, splitI.outBI (xBI 0) l ≠ splitI.outBI (xBI 0) m) ∧
      Runs (.brai (xBI 0)) splitI ∧ Runs (.calli (xBI 0)) splitI) ∧
    (splitI.joinBI (xBI 1) = some 0x80002 ∧ splitI.stackFull (splitI.outBI (xBI 1)) = false ∧ Runs (.brai (xBI 1)) splitI ∧
      Runs (.calli (xBI 1)) splitI) ∧
    ((full splitI).stackFull ((full splitI).outBI (xBI 255)) = true ∧ (full splitI).joinBI (xBI 255) = some 0x801FE ∧
      (full splitI).oddTargets (xBI 255) = none ∧ Runs (.brai (xBI 255)) (full splitI) ∧
      Runs (.calli (xBI 255)) (full splitI)) ∧
    ((∀ c ∈ s0.cur.slices, (s0.linkOf c).getLsbD 0 = false) ∧ Runs .ret s0) ∧
    (let s := withS 62 1 s0
     (s.cur.slices.filter fun c => (s.linkOf c).getLsbD 0) = [0, 1, 2, 3] ∧ Runs .ret s) := by decide +kernel

theorem wit_RegangExitYield :
    (s0.cur.frames = [] ∧ Runs .regang s0 ∧ Runs .exit s0 ∧ Runs .yield s0) ∧
    (let s := withP (fun p => { p with frames := [{ join := 0x90000, token := 1 }] }) s0
     s.cur.frames = [{ join := 0x90000, token := 1 }] ∧ s.u.iss.unitPc ≠ 0x90000 ∧ Runs .regang s) ∧
    (let s := withP (fun p => { p with frames := [{ join := 0x80000, token := 1 }] }) s0
     s.cur.frames = [{ join := 0x80000, token := 1 }] ∧ s.u.iss.unitPc = 0x80000 ∧ Runs .regang s) := by decide +kernel

theorem wit_SystemInstructions :
    (Runs .nop s0 ∧ Runs (.sread { num := 0, sd := 8 }) s0 ∧ Runs (.swrite { num := 0, sa := 4 }) s0 ∧ Runs (.trap { imm := 255 }) s0 ∧
      Runs (.bkpt { imm := 0 }) s0) ∧
    (s0.immU (0 : BitVec 8) = 0 ∧ Runs (.sleep { imm := 0 }) s0) ∧ (s0.immU (255 : BitVec 8) ≠ 0 ∧ Runs (.sleep { imm := 255 }) s0) ∧
    (let s := withSlc (fun x => { x with hmode := true, epc := 0x80010 }) s0
     (∀ c ∈ s.cur.slices, (s.epcOf (s.slice c)).getLsbD 0 = false) ∧ Runs .rte s) ∧
    (let s := withSlc (fun x => { x with hmode := true, epc := 0x80011 }) s0
     (s.cur.slices.filter fun c => (s.epcOf (s.slice c)).getLsbD 0) = [0, 1, 2, 3] ∧ Runs .rte s) := by decide +kernel

theorem wit_HandlerEntryAndReturn :
    let s := launched (fun l => { l with policy := .handler, trapPc := 0x90000 }) s0
    let p := s.split 3
    s.split? p.sid = some p ∧ (s.team p.team).dbgen = false ∧ s.inHandler p = false ∧ (s.launch p.team).policy = .handler ∧
      (s.launch p.team).trapPc ≠ 0 ∧ p.slices.Nodup ∧ p.slices ≠ [] ∧ 3 ∈ p.slices := by decide +kernel

theorem wit_FaultPolicies :
    (let p := s0.split 3
     s0.split? p.sid = some p ∧ 3 ∈ p.slices ∧ (s0.team p.team).dbgen = false ∧ s0.inHandler p = false ∧
      (s0.launch p.team).policy = .abortGrid) ∧
    (let s := s0.modTeam 2 fun x => { x with dbgen := true }
     (s.team (s.split 3).team).dbgen = true ∧ (s.split? 3).isSome = true) ∧
    (let s := withSlc (fun x => { x with hmode := true }) s0
     s.inHandler (s.split 3) = true ∧ (s.team (s.split 3).team).dbgen = false) ∧
    (let s := launched (fun l => { l with policy := .handler }) s0
     (s.launch (s.split 3).team).policy = .handler ∧ (s.launch (s.split 3).team).trapPc = 0 ∧ s.inHandler (s.split 3) = false) ∧
    (let s := launched (fun l => { l with policy := .replay }) s0
     (s.launch (s.split 3).team).policy = .replay ∧ s.inHandler (s.split 3) = false) := by decide +kernel

/-! ### Memory instructions -/

/-- Addresses that fault precisely, whatever the size: odd, in a scratchpad window that nothing backs. -/
def badAddr : State := withV 4 1 (withV 5 0xFFFFE000 s0)
/-- No lane of the instruction meets a precise fault in one state, and some lane does in the other; the unit issues in both. -/
def accesses (i : Instr) (good bad : State) (o o' : MemOp) : Bool :=
  (State.memFault o (good.plans o)).isNone && decide (Runs i good) && (State.memFault o' (bad.plans o')).isSome && decide (Runs i bad)

theorem wit_Loads :
    ∀ x ∈ ([(.ldB8u xL, fun s => s.loadOp xL 1 1 false), (.ldB8s xL, fun s => s.loadOp xL 1 1 true), (.ldB16u xL, fun s => s.loadOp xL 2 1 false),
      (.ldB16s xL, fun s => s.loadOp xL 2 1 true), (.ldB32 xL, fun s => s.loadOp xL 4 1 false), (.ldB64 xL, fun s => s.loadOp xL 8 2 false),
      (.ldB128 xL, fun s => s.loadOp xL 16 4 false), (.ldc xL, fun _ => ldcOp xL)] : List (Instr × (State → MemOp))),
      accesses x.1 (mapped s0) badAddr (x.2 (mapped s0)) (x.2 badAddr) = true := by decide +kernel

theorem wit_Stores :
    (∀ x ∈ ([(.stB8 xS, fun s => s.storeOp xS 1 1 false), (.stB16 xS, fun s => s.storeOp xS 2 1 false), (.stB32 xS, fun s => s.storeOp xS 4 1 false),
      (.stB64 xS, fun s => s.storeOp xS 8 2 false), (.stB128 xS, fun s => s.storeOp xS 16 4 false), (.stnt xS, fun s => s.storeOp xS 16 4 true)] :
        List (Instr × (State → MemOp))), accesses x.1 (mapped s0) badAddr (x.2 (mapped s0)) (x.2 badAddr) = true) ∧
    Runs (.prefetch { off := 0, ta := false, va := 4, level := 2 }) s0 := by decide +kernel

theorem wit_Atomics :
    ∀ x ∈ ([(.atomAdd xS, fun s => s.atomOp xS .add), (.atomMin xS, fun s => s.atomOp xS .min), (.atomMax xS, fun s => s.atomOp xS .max),
      (.atomAnd xS, fun s => s.atomOp xS .and), (.atomOr xS, fun s => s.atomOp xS .or), (.atomXor xS, fun s => s.atomOp xS .xor),
      (.atomExch xS, fun s => s.atomOp xS .exch), (.atomCas xS, fun s => s.atomOp xS .cas), (.atomfFadd32 xS, fun s => s.atomfOp xS .fadd32),
      (.atomfFadd64 xS, fun s => s.atomfOp xS .fadd64), (.atomfFmin32 xS, fun s => s.atomfOp xS .fmin32),
      (.atomfFmax32 xS, fun s => s.atomfOp xS .fmax32), (.atomfFaddh2 xS, fun s => s.atomfOp xS .faddh2),
      (.atomfFaddb2 xS, fun s => s.atomfOp xS .faddb2), (.atomfInc xS, fun s => s.atomfOp xS .inc), (.atomfDec xS, fun s => s.atomfOp xS .dec)] :
        List (Instr × (State → MemOp))), accesses x.1 (mapped s0) badAddr (x.2 (mapped s0)) (x.2 badAddr) = true := by decide +kernel

theorem wit_DeferredStores :
    ∀ x ∈ ([(.dstStore xS, 0), (.dstAdd xS, 1), (.dstFadd xS, 2), (.dstMin xS, 3), (.dstMax xS, 4), (.dstOr xS, 5), (.dstAnd xS, 6),
      (.dstAppend xS, 7)] : List (Instr × Nat)),
      accesses x.1 (mapped s0) badAddr ((mapped s0).deferOp x.2 xS) (badAddr.deferOp x.2 xS) = true := by decide +kernel

theorem wit_CacheOperations :
    (∀ i ∈ ([.cacheIinv xMC, .cacheL1inv xMC, .cacheL2clean xMC, .cacheL2flush xMC] : List Instr), Runs i (mapped s0)) ∧
    (mapped s0).cur.slices.Nodup ∧ (∀ l ∈ (mapped s0).elanes, l / 4 ∈ (mapped s0).cur.slices) := by decide +kernel

theorem wit_WaitsAndFences :
    let armed := fun (b : Bool) => withSlc (fun x => { x with watch := some { line := 4, triggered := b } }) s0
    let m : OpMon := { off := 0, ta := false, va := 4 }
    Runs (.waitc { imm := 0, va := 0, bySa := false, n := 15 }) s0 ∧
    ((State.memFault (monitorOp m) (badAddr.plans (monitorOp m))).isSome = true ∧ Runs (.monitor m) badAddr) ∧
    (State.memFault (monitorOp m) ((mapped s0).plans (monitorOp m)) = none ∧ Runs (.monitor m) (mapped s0) ∧
      (mapped s0).elanes.Pairwise (· < ·) ∧ (∀ k ∈ (mapped s0).elanes, k / 4 = 12 / 4 → 12 ≤ k) ∧ 12 ∈ (mapped s0).elanes ∧
      (∃ p ∈ (mapped s0).plans (monitorOp m), p.l = 12 ∧ p.code = 0)) ∧
    (s0.watches s0.cur = [] ∧ Runs .mwait s0) ∧ ((∃ w ∈ (armed true).watches s0.cur, w.triggered = true) ∧ Runs .mwait (armed true)) ∧
    ((withSlc (fun x => { x with mwTimeout := 0 }) (armed false)).mwLimit s0.cur = 0) ∧
    ((armed false).watches s0.cur ≠ [] ∧ (∀ w ∈ (armed false).watches s0.cur, w.triggered = false) ∧
      (armed false).mwLimit s0.cur ≠ 0 ∧ Runs .mwait (armed false)) ∧
    (let s := withModp { m0 with rnd := 3, pack := 2 } s0
     s.fenceMode.isSome = true ∧ s.elanes ≠ [] ∧ Runs .fence s) ∧
    (let s := withModp { m0 with rnd := 3, pack := 2, mask := 1 } s0
     s.elanes = [] ∧ Runs .fence s) := by decide +kernel

/-! ### Rounds, matrix engine, copies -/

/-- A registered pod job of the grid's ASID. -/
def jobbed (s : State) : State := { s with f.jobs := [{ num := 7, asid := 0, devs := [0, 1] }] }
/-- A grid that is not co-operative. -/
def alone : State := launched (fun l => { l with coop := false }) s0

theorem wit_ArrivalsAtRounds :
    (Runs .bar s0 ∧ Runs (.settleL xD) s0 ∧ Runs (.settleT xD) s0) ∧
    (s0.myGrid.launch.coop = true ∧ Runs .gridsync s0 ∧ Runs (.settleG xD) s0) ∧
    (alone.myGrid.launch.coop = false ∧ Runs .gridsync alone ∧ Runs (.settleG xD) alone) ∧
    ((jobbed s0).jobOf (jobbed s0).myGrid = some { num := 7, asid := 0, devs := [0, 1] } ∧ Runs .podsync (jobbed s0) ∧
      Runs (.settleP xD) (jobbed s0)) ∧
    (s0.jobOf s0.myGrid = none ∧ Runs .podsync s0 ∧ Runs (.settleP xD) s0) := by decide +kernel

theorem wit_BarRounds :
    (let s := withP (fun p => { p with park := .bar 0x80000 }) s0
     (∃ p ∈ s.x.splits, p.team = 2 ∧ (Round.bar 2).parks p = true) ∧ s.teamHalted 2 = false ∧
      (∀ g ∈ s.groups 2, ∀ l ∈ s.liveLanes 2 g,
        ∃ p ∈ s.x.splits, p.team = 2 ∧ p.group = g ∧ (Round.bar 2).parks p = true ∧ l ∈ s.active p)) ∧
    (∃ g ∈ s0.groups 2, ∃ l ∈ s0.liveLanes 2 g, ∀ p ∈ s0.x.splits, p.team = 2 → p.group = g →
      (Round.bar 2).parks p = true → l ∉ s0.active p) := by decide +kernel

/-- Types by alt and pack (R183). -/
def typed (alt : Bool) (pack : BitVec 2) (mask : BitVec 3) (s : State) : State :=
  withModp { m0 with alt := alt, pack := pack, mask := mask, vc := 64 } s
/-- Every group a matrix group, and group 0 in a consort with group 1. -/
def paired (s : State) : State :=
  ((launched (fun l => { l with lanes := 32, regs := [0, 128, 0, 128] }) s).modGrp ⟨2, 0⟩ fun g =>
    { g with role := .matrix, consort := BitVec.ofNat 48 (2 * 2 ^ 42 + 2 ^ 7) }).modGrp ⟨2, 1⟩ fun g => { g with role := .matrix }

/-- Metadata that names three positions of 2-of-4 is malformed where a number is above 5 (R190). -/
theorem wit_MatrixMultiplies :
    (let s := withSlc (fun x => { x with f := 3 }) (typed true 0 0 s0)
     s.ty = tyDx ∧ s.dxOf = none ∧ Runs (.mma xA) s) ∧
    (let s := (typed false 1 0 s0).modGrp ⟨2, 0⟩ fun g => { g with armed := true }
     (s.grp s.gid).armed = true ∧ s.joint = false ∧ s.ty = tyF16 ∧
      (s.grp s.gid).chunkBad s.ty (max 1 1 * matK s.ty 0 false) 8 64 = true ∧ Runs (.mma xA) s) ∧
    (let s := typed false 1 0 s0
     s.ty ≠ tyDx ∧ (s.grp s.gid).armed = false ∧ s.joint = false ∧ Runs (.mma xA) s ∧ s.metaFault 64 (metaRegs s.ty) s.sp = none ∧
      s.vc 8 = 64 ∧ Runs (.mmas xA) s) ∧
    (let s := withV 64 0xFFFFFFFF (typed false 1 0 s0)
     (s.metaFault (s.vc 8) (metaRegs s.ty) s.sp).isSome = true ∧ Runs (.mmas xA) s) ∧
    (let s := typed false 1 1 (s0.modGrp ⟨2, 0⟩ fun g => { g with role := .matrix })
     let s := launched (fun l => { l with regs := [0, 128, 0, 128] }) s
     s.joint = true ∧ s.depositBad (s.jointKey 0) = some 0 ∧ s.depositBad (s.jointKey 1) = some 0 ∧ Runs (.mma xA) s ∧
      Runs (.mmas xA) s) ∧
    (let s := (typed false 1 1 (paired s0)).modGrp ⟨2, 1⟩ fun g => { g with role := .general }
     s.joint = true ∧ s.depositBad (s.jointKey 0) = some 1 ∧ Runs (.mma xA) s) ∧
    (let s := typed false 1 1 (paired s0)
     s.joint = true ∧ s.depositBad (s.jointKey 0) = none ∧ s.depositBad (s.jointKey 1) = none ∧ Runs (.mma xA) s ∧
      Runs (.mmas xA) s) ∧
    ((s0.grp s0.gid).armed = false ∧ Runs (.mmad xA) s0) ∧
    (let s := s0.modGrp ⟨2, 0⟩ fun g => { g with armed := true }
     (s.grp s.gid).armed = true ∧ Runs (.mmad xA) s) := by decide +kernel

theorem wit_MatrixElements :
    (s0.grp ⟨2, 0⟩).armed = false ∧ tyScaled tyF16 = false ∧ tyScaled tyDx = true ∧ 15 < s0.width 2 := by decide +kernel

theorem wit_MatrixControl :
    Runs (.spcmp { ta := false, sel := 1, va := 16, vd := 40 }) (withModp { m0 with pack := 1 } s0) ∧
    Runs (.smxacc xA1) s0 ∧ Runs (.smxfin xA) s0 ∧ Runs (.getfmt xD) s0 ∧ Runs (.setfmt { imm := 7 }) s0 ∧
    (s0.consortOk (s0.getVs (s0.lane 0) 4 2) = true ∧ Runs (.consort { va := 4 }) s0) ∧
    (let s := withV 4 1 s0
     s.consortOk (s.getVs (s.lane 0) 4 2) = false ∧ Runs (.consort { va := 4 }) s) ∧
    (State.memFault (mscaleOp xMC) ((mapped s0).plans (mscaleOp xMC)) = none ∧ Runs (.mscale xMC) (mapped s0)) ∧
    ((State.memFault (mscaleOp xMC) (badAddr.plans (mscaleOp xMC))).isSome = true ∧ Runs (.mscale xMC) badAddr) ∧
    Runs .mscaleOff s0 ∧ Runs (.fragt xA1) s0 ∧
    (let s := withModp { m0 with alt := true } s0
     s.ty = tyDx ∧ s.dxOf = some 0 ∧ Runs (.xqt xA1) s) ∧
    (let s := withSlc (fun x => { x with f := 3 }) (withModp { m0 with alt := true } s0)
     s.ty = tyDx ∧ s.dxOf = none ∧ Runs (.xqt xA1) s) ∧
    (let s := withModp { m0 with alt := true, pack := 3 } s0
     s.ty = tyS4 ∧ Runs (.xqt xA1) s) ∧
    (let s := withSlc (fun x => { x with f := 2 }) (withModp { m0 with alt := true } s0)
     s.ty = tyDx ∧ s.dxOf = some 2 ∧ s.sameF = true ∧ Runs (.xqt xA1) s) ∧
    (let s := (withModp { m0 with alt := true } s0).modSlc ⟨2, 0, 3⟩ fun x => { x with f := 4 }
     s.ty = tyDx ∧ s.sameF = false ∧ Runs (.xqt xA1) s) ∧
    Runs (.accz xD) s0 := by decide +kernel

theorem wit_CopyIssue :
    let o : OpX := { sb := 2, sa := 16, sd := 8 }
    (∀ i ∈ ([.cpy o, .tcpy o, .tcpym o, .tstore o] : List Instr), Runs i s0 ∧ Runs i (withModp { m0 with vc := 9 } s0)) ∧
    (withModp { m0 with vc := 9 } s0).copyVs = some 9 ∧ 15 ∈ (withModp { m0 with vc := 9 } s0).elanes := by decide +kernel

/-! ### Barriers and rings -/

/-- The pair S4 holds a scratchpad address, S2 a count or token, and the word at the address is `w`. -/
def barAt (w : Nat) (n : Word) : State :=
  ((launched (fun l => { l with scratch := 65536 })
    (withS 4 64 (withS 5 (BitVec.ofNat 32 (scratchWindow / 2 ^ 32)) (withS 2 n s0)))).store (locScr 2 64) w 4)
/-- A store of lane 3 to the word is in flight. -/
def owing (s : State) : State :=
  { s with k.acc := [{ id := 50, sid := 3, lane := ⟨2, 0, 3⟩, unitPc := 0, seq := 1, kind := .store false, gaddr := 0, size := 4
                       loc := locScr 2 64 }] }
/-- One of its loads, elsewhere, is in flight. -/
def loading (s : State) : State :=
  { s with k.acc := [{ id := 50, sid := 3, lane := ⟨2, 0, 3⟩, unitPc := 0, seq := 1, kind := .load false, gaddr := 0, size := 4
                       loc := locScr 2 128 }] }
/-- The unit has waited longer than SYS_BARWATCH. -/
def late (s : State) : State :=
  withP (fun p => { p with waitFrom := some 1 }) (s.modTeam 2 fun x => { x with barWatch := 98 })
/-- Every lane's address is in order and nothing is owed. -/
def barOk (s : State) : Bool :=
  decide (s.wordFault (s.leadAddr 4) 4 true = none ∧ s.scratchLoc (s.leadAddr 4) true = some (locScr 2 64) ∧
    s.owesAt (locScr 2 64) 4 = false)

/-- The instructions on a barrier word with a count or token. -/
def barAll : List Instr := [.binit xX, .barv xX, .bwait xX, .btest xX, .bexpect xX]
/-- The word is in order and its operation issues. -/
def barRuns (n : Nat) (i : Instr) (s : State) : Bool := barOk s && decide (s.leadS 2 = n ∧ s.owesRelease = false ∧ Runs i s)

theorem wit_Barriers_fault :
    (s0.wordFault (s0.leadAddr 4) 4 true).isSome = true ∧ (∀ i ∈ barAll, Runs i s0) ∧ Runs (.binval xX1) s0 ∧
    (withS 4 1 s0).wordFault ((withS 4 1 s0).leadAddr 4) 4 true = some { code := MISALIGN, addr := 1, info := 2 } ∧
    barRuns 0 (.binval xX1) (barAt 0 0) = true ∧ (owing (barAt 0 0)).owesAt (locScr 2 64) 4 = true ∧
    (owing (barAt 0 0)).wordFault ((owing (barAt 0 0)).leadAddr 4) 4 true = none ∧ ∀ i ∈ barAll, Runs i (owing (barAt 0 0)) := by
  decide +kernel

theorem wit_Barriers_count :
    (∀ n ∈ [1, 4095], barRuns n (.binit xX) (barAt 0 (BitVec.ofNat 32 n)) = true) ∧
    (∀ n ∈ [0, 4096], ∀ i ∈ [Instr.binit xX, .bexpect xX, .barv xX], barRuns n i (barAt 0 (BitVec.ofNat 32 n)) = true) ∧
    barV ((barAt 0 1).load (locScr 2 64) 4) = false ∧
    (∀ n ∈ [1, 4095], ∀ i ∈ [Instr.bexpect xX, .barv xX], barRuns n i (barAt 0 (BitVec.ofNat 32 n)) = true) := by decide +kernel

/-- A word of generation 2, phase 7, of which 3 of 3 are outstanding. -/
def bar3 (n : Nat) : State := barAt (barWord 2 true 7 3 3) (BitVec.ofNat 32 n)

theorem wit_Barriers_valid :
    barV ((bar3 0).load (locScr 2 64) 4) = true ∧ barPend ((bar3 0).load (locScr 2 64) 4) = 3 ∧
    (∀ n ∈ [2, 3, 4], barRuns n (.barv xX) (bar3 n) = true) ∧ (∀ n ∈ [4092, 4093], barRuns n (.bexpect xX) (bar3 n) = true) ∧
    barOk (loading (bar3 1)) = true ∧ (loading (bar3 1)).owesRelease = true ∧ Runs (.barv xX) (loading (bar3 1)) := by
  decide +kernel

/-- Tokens: generation 2 phase 0 has passed, generation 3 is another, generation 2 phase 7 is not yet over. -/
theorem wit_Barriers_token :
    let w := barWord 2 true 7 3 3
    (barInc w = barInc 0x20000000 ∧ barPhase w ≠ barPhase 0x20000000 ∧ barInc w ≠ barInc 0x30000000 ∧
      barInc w = barInc 0x27000000 ∧ barPhase w = barPhase 0x27000000) ∧
    (∀ n ∈ [0x20000000, 0x30000000, 0x27000000], ∀ i ∈ [Instr.btest xX, .bwait xX], barRuns n i (bar3 n) = true) ∧
    (bar3 0x27000000).stalled = false ∧ (late (bar3 0x27000000)).stalled = true ∧ Runs (.bwait xX) (late (bar3 0x27000000)) := by
  decide +kernel

/-- A BWAIT that waits, with no word found, and with one of the next phase found before the word moved on. -/
theorem wit_Barriers_await :
    let wait := fun (x : Option Nat) (s : State) =>
      withP (fun p => { p with waitFrom := some 1, await := some { loc := locScr 2 64, token := 0x27000000, found := x } }) s
    (let s := wait none (bar3 0x27000000)
     (s.waitsOn (locScr 2 64) 0x27000000).isSome = true ∧ s.waitWord (locScr 2 64) 0x27000000 = barWord 2 true 7 3 3 ∧
      s.stalled = false ∧ barRuns 0x27000000 (.bwait xX) s = true) ∧
    (let s := wait (some (barWord 2 true 0 3 3)) (bar3 0x27000000)
     barPhase (s.waitWord (locScr 2 64) 0x27000000) = 0 ∧ s.cur.waitFrom ≠ none ∧ barRuns 0x27000000 (.bwait xX) s = true) ∧
    (let s := wait none (barAt (barWord 2 true 0 3 3) 0x27000000)
     s.cur.await = some { loc := locScr 2 64, token := 0x27000000 } ∧
      barExamine (s.load (locScr 2 64) 4) 0x27000000 ≠ 1) := by decide +kernel

/-- A ring descriptor of four slots of 32 bytes at 0x100, with TAIL, HEAD and PH. -/
def ringS (tail head ph : Nat) : State :=
  (barAt 0x100 0).store (locScr 2 68) (2 * 2 ^ 16 + 4 + 2 ^ 32 * (tail * 2 ^ 16 + head) + 2 ^ 64 * ph) 12
/-- The descriptor's address is in order. -/
def ringOk (s : State) : Bool :=
  decide (s.wordFault (s.leadAddr 4) 16 false = none ∧ s.scratchLoc (s.leadAddr 4) false = some (locScr 2 64))

/-- The ring's instructions. -/
def ringAll : List Instr := [.rpush xX1, .rpop xX1, .rwait { sb := 0, sa := 4, sd := 8 }, .rwait { sb := 1, sa := 4, sd := 8 }]

/-- Faults, a malformed descriptor (HEAD = NSLOT), accesses in flight, and a wait that is over. -/
theorem wit_StageRings_stops :
    (s0.wordFault (s0.leadAddr 4) 16 false).isSome = true ∧ (∀ i ∈ ringAll, Runs i s0) ∧
    (ringOk (loading (ringS 0 0 0)) = true ∧ (loading (ringS 0 0 0)).owesRelease = true ∧ ∀ i ∈ ringAll, Runs i (loading (ringS 0 0 0))) ∧
    (ringOk (ringS 0 4 0) = true ∧ ((ringS 0 4 0).ringAt (locScr 2 64)).bad = true ∧ (ringS 0 4 0).owesRelease = false ∧
      (ringS 0 4 0).owesAt (locScr 2 64) 16 = false ∧ ∀ i ∈ ringAll, Runs i (ringS 0 4 0)) ∧
    ((owing (ringS 0 3 8)).owesAt (locScr 2 64) 16 = true ∧ ∀ i ∈ ringAll, Runs i (owing (ringS 0 3 8))) ∧
    (late (ringS 0 3 8)).stalled = true ∧ ∀ i ∈ ringAll, Runs i (late (ringS 0 3 8)) := by decide +kernel

/-- Slot HEAD full and slot TAIL free, and the other way about, at the last slot. -/
theorem wit_StageRings_runs :
    (let r := (ringS 0 3 8).ringAt (locScr 2 64)
     ringOk (ringS 0 3 8) = true ∧ r.bad = false ∧ bit r.ph r.head = true ∧ bit r.ph r.tail = false) ∧
    (ringS 0 3 8).stalled = false ∧ (∀ i ∈ ringAll, Runs i (ringS 0 3 8)) ∧
    (let r := (ringS 3 0 8).ringAt (locScr 2 64)
     ringOk (ringS 3 0 8) = true ∧ r.bad = false ∧ bit r.ph r.head = false ∧ bit r.ph r.tail = true) ∧
    ∀ i ∈ ringAll, Runs i (ringS 3 0 8) := by decide +kernel

/-! ### Copies in the engine, tiles, fetches -/

/-- A CPY from one scratchpad address to another, in the engine. -/
def xCopy (phase : CopyPhase) (bad : Nat) : Copy :=
  { id := 40, kind := .cpy, sid := 3, team := 2, group := 0, core := 0, seq := 5, dst := { base := scratchWindow }
    src := { base := scratchWindow + 256 }, ctl := 1, lanes := [0], act := [0], vs := some 9, slanes := [0], bad := bad, phase := phase }
/-- A write tenure that an engine asks for. -/
def xTen (h : Holding) : Tenure := { holder := h, team := 2, write := true }
/-- The command is the event's. -/
def copying (c : Copy) (s : State) : State := event { id := 40 } { s with e.copies := [c] }

theorem wit_CopyExecution :
    (let s := copying (xCopy .waiting 0) s0
     s.copy? s.u.ev.id = some (xCopy .waiting 0) ∧ s.mayStart (xCopy .waiting 0) = true ∧ s.copyRequest 40 = none) ∧
    (let s : State := { copying (xCopy .waiting 0) s0 with e.reqs := [xTen (.copy 40)] }
     s.copyRequest 40 = some 0 ∧ s.e.reqs[0]? = some (xTen (.copy 40)) ∧
      (s.e.reqs.eraseIdx 0).all (fun x => decide (x.holder ≠ .copy 40)) = true ∧ s.mayStart (xCopy .waiting 0) = true ∧
      s.grantable (xTen (.copy 40)) (s.e.reqs.take 0) = true) ∧
    (copying (xCopy .waiting 4) s0).copy? 40 = some (xCopy .waiting 4) ∧
    (let s := copying (xCopy .started 0) (launched (fun l => { l with scratch := 65536 }) s0)
     s.copy? 40 = some (xCopy .started 0) ∧ s.u.ev.flag = false ∧
      s.mayMove (xCopy .started 0) ((xCopy .started 0).steps.drop 0).flatten = true) ∧
    ((xCopy .waiting 0).vs = some 9 ∧ (xCopy .waiting 0).incs = [] ∧ (0 : Nat) ∈ (xCopy .waiting 0).slanes) := by decide +kernel

/-- Bytes between windows and pages, one that has no source or no destination, an arrival that fits and one that does not. -/
theorem wit_CopyExecution_bytes :
    let s := launched (fun l => { l with scratch := 65536 }) s0
    let c := { xCopy .started 0 with ctl := 3 }
    (c.steps.length = 4 ∧
      (let t := copying c s
       let u : State := { t with u.ev := { id := 40, n := 1, flag := true } }
       u.mayMove c ((c.steps.drop 0).take 1).flatten = true ∧ (u.moveBytes c false false (c.steps.take 1).flatten).2.1 = 0)) ∧
    ((match s.copyPlace c (scratchWindow + 256) false with | .inl p => p.2.isNone | .inr _ => false) = true ∧
      (match s.copyPlace c (scratchWindow + 70000) false with | .inl _ => 0 | .inr k => k) = 3 ∧ Memory.wf s.m.mem) ∧
    (match (mapped s).copyPlace c 0x400000 true with
      | .inl (loc, some lf) => decide ((mapped s).keyAt (loc / 128) = (mapped s).keyId (loc / 128) lf.key) && !(mapped s).retiredAt lf (lf.pa 0x400000)
      | _ => false) = true ∧
    (let w := barWord 2 true 7 3 3
     (s.store 64 w 4).load 64 4 = w ∧ barV w = true ∧ barInc w = 2 ∧ 1 ≤ barPend w) := by decide +kernel

/-- A row of 64 FP32 elements at 0x10000. -/
def xRec : Layout := { base := 0x10000, ext := [64, 1, 1, 1], rank := 1, fmt := 2 }
/-- Entry n of the directory holds a live tile on the row. -/
def xTile (n : Nat) : Tile := { die := 0, entry := n, gen := 1, live := true, foot := { recs := [xRec] } }
/-- S4 names entry 0 and S2 holds `w`; entries 0 and on as given, and tenures. -/
def tiled (ts : List Tile) (w : Word) (s : State) : State := { withS 4 1 (withS 2 w s) with e.tiles := ts }
/-- Team 2, or another, holds entry 0. -/
def held (team : Nat) (write : Bool) (s : State) : State :=
  { s with e.tens := [{ holder := .team team, team := team, write := write, tile := some (0, 0), foot := { recs := [xRec] }, sid := 0 }] }
/-- The record's eight words from S16 on. -/
def recorded (s : State) : State := withS 16 0x10000 (withS 18 63 (withS 23 2 s))

theorem wit_TileEntries_mint :
    let o : OpX1 := { sa := 16, sd := 8 }
    (let s := recorded (mapped s0)
     let r := s.recordAt 16
     r.valid = true ∧ s.issued.mintCode r (s.issued.pagesOf (s.coreOf s.gid) s.asid r) = 0 ∧
      (s.freeEntry (s.coreOf s.gid / 192) none).isSome = true ∧ Runs (.tmint o) s) ∧
    (let s := recorded s0
     s.issued.mintCode (s.recordAt 16) (s.issued.pagesOf (s.coreOf s.gid) s.asid (s.recordAt 16)) = 8 ∧ Runs (.tmint o) s) := by
  decide +kernel

theorem wit_TileEntries_free :
    (s0.handleS 4).isSome = true ∧ Runs (.tfree xX1) s0 ∧ Runs (.tsplit xX) s0 ∧ Runs (.tmerge xX) s0 ∧
    (let s := tiled [xTile 0] 0 s0
     let y := s.tileOf (s.leadS 4)
     s.handleS 4 = none ∧ y.isSplit = false ∧ s.holders y = [] ∧ s.waitingOn y = 0 ∧ y.child = false ∧ Runs (.tfree xX1) s) ∧
    (let s := held 2 true (tiled [xTile 0] 0 s0)
     s.handleS 4 = none ∧ s.holders (s.tileOf (s.leadS 4)) ≠ [] ∧ Runs (.tfree xX1) s) ∧
    (let s := tiled [{ xTile 0 with parent := some (0, 5) }] 0 s0
     s.handleS 4 = none ∧ (s.tileOf (s.leadS 4)).child = true ∧ s.holders (s.tileOf (s.leadS 4)) = [] ∧ Runs (.tfree xX1) s) := by
  decide +kernel

theorem wit_TileEntries_split :
    (let s := tiled [xTile 0] 0 s0
     s.splitRefusal (s.tileOf (s.leadS 4)) (s.leadS 2) = some 17 ∧ s.handleS 4 = none ∧ Runs (.tsplit xX) s) ∧
    (let s := held 2 true (tiled [xTile 0] (BitVec.ofNat 32 (63 * 2 ^ 16)) s0)
     let y := s.tileOf (s.leadS 4)
     s.splitRefusal y (s.leadS 2) = none ∧ s.handleS 4 = none ∧ ((s.freeEntry 0 none).map (·.entry)) = some 1 ∧
      ((s.freeEntry 0 (some 1)).map (·.entry)) = some 2 ∧ s.coreOf s.gid / 192 = 0 ∧
      (∃ h ∈ s.e.tens, h.tile = some y.key) ∧ Runs (.tsplit xX) s) := by decide +kernel

theorem wit_TileEntries_merge :
    let kid := fun n => { xTile n with parent := some (0, 5) }
    (let s := tiled [xTile 0] 0 s0
     s.handleS 4 = none ∧ (s.handleS 2).isSome = true ∧ Runs (.tmerge xX) s) ∧
    (let s := tiled [xTile 0, xTile 1] 0x1001 s0
     s.handleS 4 = none ∧ s.handleS 2 = none ∧ (s.tileOf (s.leadS 4)).parent = none ∧ Runs (.tmerge xX) s) ∧
    (let s := tiled [kid 0, xTile 1] 0x1001 s0
     s.handleS 2 = none ∧ (s.tileOf (s.leadS 4)).parent = some (0, 5) ∧ (s.tileOf (s.leadS 2)).parent ≠ some (0, 5) ∧
      Runs (.tmerge xX) s) ∧
    (let s := held 2 true (tiled [kid 0, kid 1] 0x1001 s0)
     s.handleS 2 = none ∧ (s.tileOf (s.leadS 2)).parent = some (0, 5) ∧ s.holders (s.tileOf (s.leadS 4)) ≠ [] ∧ Runs (.tmerge xX) s) ∧
    (let s := tiled [kid 0, kid 1] 0x1001 s0
     let y := s.tileOf (s.leadS 4)
     let z := s.tileOf (s.leadS 2)
     s.handleS 4 = none ∧ s.handleS 2 = none ∧ y.parent = some (0, 5) ∧ z.parent = some (0, 5) ∧ y.key ≠ z.key ∧
      y.isSplit = false ∧ z.isSplit = false ∧ s.holders y = [] ∧ s.holders z = [] ∧ s.waitingOn y = 0 ∧ s.waitingOn z = 0 ∧
      Runs (.tmerge xX) s) := by decide +kernel

theorem wit_TileTenure_acquire :
    ((s0.handleS 4).isSome = true ∧ ∀ i ∈ [Instr.trel xX1, .tdown xX1, .tstat xX1, .tacq xX], Runs i s0) ∧
    (let s := tiled [xTile 0] 1 s0
     let y := s.tileOf (s.leadS 4)
     let q := s.requestFor y true
     s.handleS 4 = none ∧ s.granted y = none ∧ s.myRequest y = none ∧ (s.mine y s.u.iss.team).isSome = false ∧ y.isSplit = false ∧
      s.leadS 2 < 4 ∧ s.grantable q s.e.reqs = true ∧ Runs (.tacq xX) s ∧
      (let t : State := { s with e.tens := [q] }
       (t.granted y).isSome = true ∧ Runs (.tacq xX) t) ∧
      (let t : State := { s with e.reqs := [q] }
       t.granted y = none ∧ t.myRequest y = some q ∧ q.brch = false ∧ Runs (.tacq xX) t) ∧
      (let t : State := { s with e.reqs := [{ q with brch := true }] }
       t.myRequest y = some { q with brch := true } ∧ Runs (.tacq xX) t)) ∧
    (let s := tiled [xTile 0] 4 s0
     4 ≤ s.leadS 2 ∧ Runs (.tacq xX) s) ∧
    (let s := held 2 true (tiled [xTile 0] 3 s0)
     (s.mine (s.tileOf (s.leadS 4)) s.u.iss.team).isSome = true ∧ s.granted (s.tileOf (s.leadS 4)) = none ∧ Runs (.tacq xX) s) ∧
    (let s := tiled [{ xTile 0 with isSplit := true }] 3 s0
     (s.tileOf (s.leadS 4)).isSplit = true ∧ Runs (.tacq xX) s) ∧
    (∀ m ∈ [1, 3], let s := held 9 true (tiled [xTile 0] (BitVec.ofNat 32 m) s0)
      let y := s.tileOf (s.leadS 4)
      s.grantable (s.requestFor y true) s.e.reqs = false ∧ bit (s.leadS 2) 1 = decide (m = 3) ∧ s.mine y s.u.iss.team = none ∧
        Runs (.tacq xX) s) := by decide +kernel

theorem wit_TileTenure_release :
    (let s := tiled [xTile 0] 0 s0
     s.handleS 4 = none ∧ s.mine (s.tileOf (s.leadS 4)) s.u.iss.team = none ∧
      ∀ i ∈ [Instr.trel xX1, .tdown xX1, .tstat xX1], Runs i s) ∧
    (∀ w ∈ [false, true], let s := held 2 w (tiled [xTile 0] 0 s0)
      s.handleS 4 = none ∧ ((s.mine (s.tileOf (s.leadS 4)) s.u.iss.team).map (·.write)) = some w ∧
        ∀ i ∈ [Instr.trel xX1, .tdown xX1, .tstat xX1], Runs i s) ∧
    (let q := xTen (.team 2)
     let s : State := event { id := 0 } { s0 with e.reqs := [q] }
     s.e.reqs[s.u.ev.id]? = some q ∧ q.brch = false ∧ s.grantable q (s.e.reqs.take s.u.ev.id) = true) ∧
    (let q := { xTen (.team 2) with since := 1 }
     let s : State := event { id := 0 } { s0.modTeam 2 (fun x => { x with barWatch := 98 }) with e.reqs := [q] }
     s.e.reqs[s.u.ev.id]? = some q ∧ q.holder = .team 2 ∧ (s.team q.team).barWatch.toNat ≠ 0 ∧
      q.since + (s.team q.team).barWatch.toNat < s.u.clk) := by decide +kernel

/-- V2 names entry 0 in every lane. -/
def fetching (fmt : Nat) (s : State) : State :=
  withV 2 1 { s with e.tiles := [{ xTile 0 with foot := { recs := [{ xRec with fmt := fmt }] } }] }

theorem wit_FetchUnit :
    ((masked s0).elanes = [] ∧ ∀ i ∈ [Instr.fetch xA, .fetchx xA, .fetchs xA], Runs i (masked s0)) ∧
    ({ s0 with u.iss.cond := some true }.elanes = [] ∧ Runs (.finv { tb := false, vb := 2 }) { s0 with u.iss.cond := some true }) ∧
    (s0.elanes ≠ [] ∧ (s0.handlesV [2]).isSome = true ∧ (s0.handlesV [2, 8]).isSome = true ∧ Runs (.fetch xA) s0 ∧ Runs (.fetchx xA) s0 ∧
      Runs (.fetchs xA) s0 ∧ Runs (.finv { tb := false, vb := 2 }) s0) ∧
    (let s := fetching 2 s0
     let d := (s.tileOf (s.lowV 2)).layout
     fetchAux 0 d = false ∧ s.handlesV [2] = none ∧ s.fetchFormat 0 d {} = false ∧ Runs (.fetch xA) s ∧
      Runs (.finv { tb := false, vb := 2 }) s ∧ fmtDx d.fmt = false ∧ d.inside (63, 0, 0, 0) = true ∧ d.inside (64, 0, 0, 0) = false) ∧
    (let s := withModp { m0 with vc := 2 } (fetching 3 s0)
     let d := (s.tileOf (s.lowV 2)).layout
     fetchAux 1 d = true ∧ s.vc 8 = 2 ∧ s.handlesV [2, 2] = none ∧ s.fetchFormat 1 d d = true ∧ Runs (.fetchx xA) s ∧
      s.fetchFormat 2 d d = true ∧ Runs (.fetchs xA) s) ∧
    (let s := withModp { m0 with vc := 64 } (withV 64 0x1001 (fetching 3 s0))
     let t : State := { s with e.tiles := s.e.tiles ++ [{ xTile 1 with foot := { recs := [{ xRec with fmt := 8 }] } }] }
     let d := (t.tileOf (t.lowV 2)).layout
     let x := (t.tileOf (t.lowV 64)).layout
     t.handlesV [2, 64] = none ∧ t.fetchFormat 1 d x = false ∧ Runs (.fetchx xA) t ∧ t.fetchFormat 2 d x = false ∧
      Runs (.fetchs xA) t) := by decide +kernel

/-! ### Tasks and the fabric -/

/-- A grid with an arena of 8 blocks at 0x100000, its team being block 0. -/
def arena0 : State := (launched (fun l => { l with taskBase := 0x100000, taskN := 8 }) s0).modTeam 2 fun x => { x with taskBlk := 0 }
/-- The same with its pages mapped, JOIN of block 0 as given, and S4 naming a block. -/
def arena (join : Nat) (blk : Word) : State :=
  withS 4 blk ((mapped arena0).store (s0.locPhys (0x100000 + 28)) join 2)

theorem wit_TaskInstructions_task :
    let all := [Instr.spawn xX1, .joinTask xSd, .joinPoll xSd, .taskend xSd]
    ((s0.arena 2).launch.taskBase = 0 ∧ ∀ i ∈ all, Runs i s0) ∧
    ((arena 0 8).leadS 4 = 8 ∧ ((arena 0 8).arena 2).launch.taskN = 8 ∧ Runs (.spawn xX1) (arena 0 8)) ∧
    ((arena0.blockFault (arena0.arena 2) [arena0.ownBlock] false).isSome = true ∧
      (arena0.blockFault (arena0.arena 2) [0, arena0.ownBlock] true).isSome = true ∧ ∀ i ∈ all, Runs i arena0) ∧
    (let s := arena 0 7
     s.blockFault (s.arena 2) [s.ownBlock] false = none ∧ s.joinOf s.taskHere (s.arena 2) s.ownBlock = 0 ∧
      s.blockFault (s.arena 2) [7, s.ownBlock] true = none ∧ s.owesRelease = false ∧ (s.arena 2).launch.teams ≤ 7 ∧
      s.stateOf s.taskHere (s.arena 2) 7 = 0 ∧ ∀ i ∈ all, Runs i s) ∧
    ((arena 0 0).leadS 4 < (s0.arena 2).launch.teams ∧ (loading (arena 0 7)).owesRelease = true ∧
      Runs (.spawn xX1) (loading (arena 0 7))) ∧
    (let s := arena 65535 7
     s.joinOf s.taskHere (s.arena 2) s.ownBlock = 65535 ∧ Runs (.spawn xX1) s ∧ Runs (.joinTask xSd) s ∧ Runs (.joinPoll xSd) s) := by
  decide +kernel

theorem wit_TaskInstructions_taskend :
    (arena 0 0).arena 2 = arena0.arena 2 ∧ ((arena 0 0).team 2).isTask = false ∧
    (∀ d ∈ [false, true], let s := (arena 0 0).modTeam 2 fun x => { x with isTask := true, taskDone := d }
      (s.team 2).isTask = true ∧ (s.team 2).taskDone = d ∧ s.retireFault s.taskHere (s.arena 2) 0 = none ∧ s.owesRelease = false ∧
        Runs (.taskend xSd) s) ∧
    (let s := arena0.modTeam 2 fun x => { x with isTask := true }
     (s.retireFault s.taskHere (s.arena 2) 0).isSome = true ∧ Runs (.taskend xSd) s) ∧
    (let s := loading ((arena 0 0).modTeam 2 fun x => { x with isTask := true })
     s.owesRelease = true ∧ Runs (.taskend xSd) s) := by decide +kernel

/-- Queue 0 enabled, of 16 slots, its ring at 0x200000, its record apart from the page table. -/
def queueState (head tail : Nat) : State := (mapped (s0.setDieReg 0 0xC5 1))
    |>.store ((s0.setDieReg 0 0xC5 1).queueLoc 0) (0x200000 + 2 ^ 64 * (2 ^ 31 + 4) + 2 ^ 96 * head + 2 ^ 128 * tail) 24

theorem wit_TaskInstructions_queue :
    (Runs (.launchCmd xX) s0 ∧ Runs (.qstat xX1) s0 ∧ (s0.queueRec 0).en = false ∧ s0.owesRelease = false ∧
      (loading s0).owesRelease = true ∧ Runs (.launchCmd xX) (loading s0)) ∧
    ((queueState 0 16).queueRec 0).pend = 2 ^ ((queueState 0 16).queueRec 0).logn ∧ Runs (.launchCmd xX) (queueState 0 16) ∧
    (let s := queueState 0xFFFFFFFF 14
     let r := s.queueRec 0
     s.leadS 2 = 0 ∧ r.en = true ∧ r.err = false ∧ r.asid = s.asid ∧ r.pend = 15 ∧ r.logn = 4 ∧
      (match s.dieSeek 0 r.asid (r.slot r.tail) true with | .inl _ => true | .inr _ => false) = true ∧ Runs (.launchCmd xX) s) ∧
    (let s : State := { queueState 0 0 with m.mem := [] }
     let s := s.store (s.queueLoc 0) (0x200000 + 2 ^ 64 * (2 ^ 31 + 4)) 24
     (s.queueRec 0).en = true ∧
      (match s.dieSeek 0 0 ((s.queueRec 0).slot 0) true with | .inl _ => false | .inr _ => true) = true ∧ Runs (.launchCmd xX) s) ∧
    (∀ w ∈ [32767, 32768, 0xFFFFFFFE, 0xFFFFFFFF], (withS 4 (BitVec.ofNat 32 w) s0).leadS 4 = w ∧
      Runs (.qstat xX1) (withS 4 (BitVec.ofNat 32 w) s0)) := by
  decide +kernel

/-- A page of 64 KiB in mode MOC of device 1. -/
def moc (s : State) : State :=
  (((((s.store (s.locPhys 0) (2 ^ 17 + 1) 16).store (s.locPhys (2 ^ 17)) (2 ^ 18 + 1) 16).store (s.locPhys (2 ^ 18)) (2 ^ 19 + 1) 16).store
    (s.locPhys (2 ^ 19)) (2 ^ 20 + 1) 16).store (s.locPhys (2 ^ 20)) (2 ^ 21 + 1) 16).store (s.locPhys (2 ^ 21)) (31 + 3 * 2 ^ 10 + 2 ^ 77) 16
/-- A re-shard command under way whose record lies at address 0. -/
def xRsh : Rsh :=
  { id := 60, sid := 3, team := 2, group := 0, core := 0, sd := 8, srcVa := 0, dstVa := 0, phase := .running
    page := { size := 2 ^ 30, r := true, w := true } }

theorem wit_FabricInstructions :
    (∀ i ∈ [Instr.peerid xSd, .peeridQ xX1, .rshard xX, .rspoll xX1, .migrate xX1], Runs i s0) ∧
    (s0.issued.translate (s0.coreOf s0.gid) s0.asid (s0.leadAddr 4) 0 = none ∧
      2 ^ 56 ≤ (withS 5 0x01000000 s0).leadAddr 4 ∧ Runs (.migrate xX1) (withS 5 0x01000000 s0)) ∧
    ((((mapped s0).issued.translate 0 0 0 0).map (mapped s0).modeOf) = some 0 ∧ Runs (.migrate xX1) (mapped s0)) ∧
    (let s := moc s0
     (s.issued.translate 0 0 0 0).map (fun lf => (s.modeOf lf, s.migQueued s.asid lf.va)) = some (3, false) ∧ Runs (.migrate xX1) s ∧
      (s.f.migQ.filter fun m => decide (m.die = 0)).length < 64 ∧
      (let t : State := { s with f.migQ := [{ die := 0, asid := 0, va := 0 }] }
       t.migQueued 0 0 = true ∧ Runs (.migrate xX1) t) ∧
      let t : State := { s with f.migQ := List.replicate 64 { die := 0, asid := 7, va := 0 } }
      t.migQueued 0 0 = false ∧ 64 ≤ (t.f.migQ.filter fun m => decide (m.die = 0)).length ∧ Runs (.migrate xX1) t) ∧
    ((withModp { m0 with vc := 9 } s0).copyVs = some 9 ∧ Runs (.rshard xX) (withModp { m0 with vc := 9 } s0)) ∧
    ((match s0.issued.seek 0 0 0 0 false with | .inl _ => true | .inr _ => false) = false) ∧
    (let s := mapped s0
     (match s.issued.seek 0 0 0 0 false with | .inl _ => true | .inr _ => false) = true ∧
      (match s.issued.seek 0 0 16 0 false with | .inl _ => true | .inr _ => false) = true ∧ s.rshOwner (s.locPhys 0) = none ∧
      s.recallers { team := some 2, core := some 0, asid := 0 } 0 false = [] ∧ Runs (.rspoll xX1) s) ∧
    (let s : State := { mapped s0 with e.rsh := [xRsh] }
     s.rshOwner (s.locPhys 0) = some xRsh ∧ Runs (.rspoll xX1) s) := by decide +kernel

/-! ### Accesses on their way -/

/-- A load, store or atomic of lane 0 at 0x1000 of the module, in flight. -/
def xAcc (k : AccKind) (lf : Option Leaf) (ph : Phase) : Access :=
  { id := 40, sid := 3, lane := ⟨2, 0, 0⟩, unitPc := 0x7FFF8, seq := 5, kind := k, gaddr := 0x1000, size := 4, data := 7, dst := 9,
    dstN := 1, loc := 0x1000, pa := 0x1000, leaf := lf, phase := ph }
/-- The access is the event's. -/
def flying (a : Access) (s : State) : State := event { id := 40 } { s with k.acc := [a] }
/-- A page of this module at 0. -/
def xLeaf : Leaf := { size := 2 ^ 30, w := true, r := true }
/-- Another team's engine holds a write tenure on the line of 0x1000. -/
def recalling (s : State) : State :=
  { s with e.tens := [{ holder := .copy 41, team := 9, write := true, foot := { recs := [{ xRec with base := 0x1000 }], pages := [xLeaf] } }] }

theorem wit_StoresPerform :
    (let a := xAcc (.store false) none .issued
     let s := flying a s0
     Memory.wf s.m.mem ∧ s.acc? s.u.ev.id = some a ∧ a.kind = .store false ∧ a.leaf = none ∧ a.phase = .issued ∧ s.mayPerform a = true) ∧
    (let a := xAcc (.store true) (some xLeaf) .atHome
     let s := flying a s0
     Memory.wf s.m.mem ∧ s.acc? s.u.ev.id = some a ∧ a.kind = .store true ∧ s.acked a = true ∧ s.retiredAt xLeaf a.pa = false) ∧
    (let lf := { xLeaf with df := true }
     let a := xAcc (.store false) (some lf) .issued
     let s := flying a s0
     Memory.wf s.m.mem ∧ s.acc? s.u.ev.id = some a ∧ a.leaf = some lf ∧ a.append = true ∧ a.phase = .issued ∧ s.mayAppend a = true) := by
  decide +kernel

theorem wit_RepliesLand :
    (let a := xAcc (.load true) (some xLeaf) .performed
     (flying a s0).acc? 40 = some a ∧ a.kind = .load true ∧ a.failed = 0 ∧ a.poisoned = false) ∧
    (let a := { xAcc (.load false) (some xLeaf) .performed with failed := 1 }
     (flying a s0).acc? 40 = some a ∧ a.failed ≠ 0 ∧ ((flying a s0).lateSplit a.sid a.lane).isSome = true) ∧
    (let a := { xAcc (.load false) (some xLeaf) .performed with poisoned := true }
     (flying a s0).acc? 40 = some a ∧ a.poisoned = true ∧ ((flying a s0).lateSplit a.sid a.lane).isSome = true) ∧
    (let a := { xAcc (.load false) (some xLeaf) .performed with spec := true }
     (flying a s0).acc? 40 = some a ∧ (flying a s0).mayPerform a = true) ∧
    (let a := xAcc (.load false) none .issued
     let s := flying a s0
     s.acc? 40 = some a ∧ a.leaf = none ∧ a.phase = .issued ∧ a.failed = 0 ∧ s.mayPerform a = true ∧ s.poisoned a.loc a.size = false) := by
  decide +kernel

/-- Two loads of one core to one module: the later waits for the earlier to arrive. -/
theorem wit_HomeAccesses_path :
    let lf := { xLeaf with peer := 1, mode := 1 }
    let b := { xAcc (.load false) (some lf) .issued with dev := 1 }
    let a := { b with id := 41, seq := 6, lane := ⟨2, 0, 1⟩, pa := 0x2000, loc := 0x2000 }
    let s := { flying b s0 with k.acc := [b, a] }
    b.before a = true ∧ a.dev ≠ s.f.dev ∧ s.accCore b = s.accCore a ∧ s.mayPerform b = true ∧ s.hits b lf = false ∧
      s.mayPerform a = true ∧ s.mayReach a false = false := by decide +kernel

theorem wit_HomeAccesses_issued :
    (let lf := { xLeaf with peer := 1, mode := 1 }
     let a := xAcc (.load false) (some lf) .issued
     let s := flying a s0
     s.acc? s.u.ev.id = some a ∧ a.append = false ∧ s.mayPerform a = true ∧ s.reachable (s.devOf lf) = false ∧ s.u.ev.flag = false) ∧
    (∀ k ∈ [AccKind.cache 3, .monitor, .load false], let a := xAcc k (some xLeaf) .issued
     let s := flying a s0
     s.acc? s.u.ev.id = some a ∧ a.append = false ∧ s.mayPerform a = true ∧ s.reachable (s.devOf xLeaf) = true ∧
      s.recallers (s.accAgent a) a.pa a.writes = []) ∧
    (let a := xAcc (.load false) (some xLeaf) .issued
     let s := recalling (flying a s0)
     s.mayPerform a = true ∧ s.modeOf xLeaf = 0 ∧ inHost a.pa = false ∧ s.recallers (s.accAgent a) a.pa a.writes ≠ [] ∧
      s.holding (homeDie xLeaf.il a.pa) (homeSlice a.pa) < 64) ∧
    (let a := xAcc (.load false) (some xLeaf) .issued
     let s := recalling (flying a s0)
     let w : Access := { xAcc (.load false) (some xLeaf) .recalled with lane := ⟨2, 0, 1⟩ }
     let t : State := { s with k.acc := a :: (List.range 64).map fun i => { w with id := 100 + i } }
     t.acc? t.u.ev.id = some a ∧ t.mayPerform a = true ∧ t.recallers (t.accAgent a) a.pa a.writes ≠ [] ∧
      64 ≤ t.holding (homeDie xLeaf.il a.pa) (homeSlice a.pa)) := by decide +kernel

/-- A load behind another lane's store to its line may go ahead of it, and only with the event's number. -/
theorem wit_HomeAccesses_early :
    let a := xAcc (.load false) (some xLeaf) .issued
    let b : Access :=
      { xAcc (.load false) (some xLeaf) .issued with
        id := 39, seq := 4, gaddr := 0x2000, loc := 0x2000, pa := 0x2000, order := .acquire, scope := .team }
    let s : State := event { id := 40, n := 1 } { s0 with k.acc := [b, a] }
    s.acc? s.u.ev.id = some a ∧ s.mayReach a false = false ∧ s.mayReach a (decide (s.u.ev.n ≠ 0)) = true ∧
      ({ s with u.ev := { id := 40 } } : State).mayReach a false = false := by decide +kernel

theorem wit_HomeAccesses_later :
    (let a := xAcc (.load false) (some xLeaf) .recalled
     let s := recalling (flying a s0)
     s.acc? s.u.ev.id = some a ∧ a.phase = .recalled ∧ s.recallDone a = true) ∧
    (let a := xAcc (.load false) (some xLeaf) (.retry 100)
     (flying a s0).acc? 40 = some a ∧ 100 ≤ (flying a s0).u.clk) ∧
    (let a := xAcc (.store false) (some { xLeaf with peer := 1, mode := 1 }) .remote
     (flying a s0).acc? 40 = some a ∧ a.phase = .remote) ∧
    (let lf := { xLeaf with peer := 1, mode := 1 }
     let a := xAcc (.load false) (some lf) .issued
     let s : State := { flying a s0 with u.clk := 2 ^ 24 }
     s.acc? s.u.ev.id = some a ∧ s.devOf lf ≠ s.f.dev ∧ a.append = false ∧ a.born + 2 ^ 24 ≤ s.u.clk) ∧
    (let a := xAcc (.atom .add) (some xLeaf) .atHome
     let s := flying a s0
     Memory.wf s.m.mem ∧ s.acc? s.u.ev.id = some a ∧ s.acked a = true ∧ s.poisonFor a = false) := by decide +kernel

/-- An invalidation under way, and two buddy regions of 128 bytes. -/
def xInv (core : Option Nat) : Inv := { id := 40, access := 0, core := core, die := 0, slice := 0, base := 0, log := 16 }
def xReg (base : Nat) : Region := { die := 0, slice := 0, base := base, log := 15, sharers := [base] }

theorem wit_CoherenceEvents :
    (let s : State := event { id := 40 } { s0 with k.invs := [xInv (some 1)] }
     s.k.invs.find? (fun x => decide (x.id = s.u.ev.id)) = some (xInv (some 1))) ∧
    (let s : State := event { id := 40 } { s0 with k.invs := [xInv none] }
     s.k.invs.find? (fun x => decide (x.id = s.u.ev.id)) = some (xInv none) ∧
      s.k.invs.all (fun x => decide (x.access = 0 → x.die = 0 → x.core = none)) = true) ∧
    (let s : State := (event { list := [0, 0, 2 ^ 15, 15] } { s0 with k.regions := [xReg 0, xReg (2 ^ 15)], u.clk := 2 ^ 30 })
     s.k.regions.find? (fun r => decide (r.die = 0 ∧ r.slice = 0 ∧ r.base = 0 ∧ r.log = 15)) = some (xReg 0) ∧
      s.k.regions.find? (fun r => decide (r.die = 0 ∧ r.slice = 0 ∧ r.base = 0 + 2 ^ 15 ∧ r.log = 15)) = some (xReg (2 ^ 15)) ∧
      (s.dieReg 0 0xC1).toNat ≠ 0 ∧ 0 + (s.dieReg 0 0xC1).toNat ≤ s.u.clk) ∧
    (let e : EventArg := { id := 2 ^ 40 - 128, size := 128, list := [0, 0, 4] }
     e.size ≠ 0 ∧ e.id % 128 + e.size ≤ 128 ∧ e.id < 2 ^ 40 ∧ e.request.kind = 4 ∧ (event e s0).servedAt = s0.f.dev) ∧
    (let e : EventArg := { id := 127, size := 1, list := [0, 0, 1, 0, 0, 0, 0, 0, 3] }
     (event e s0).servedAt ≠ s0.f.dev ∧ e.id % 128 + e.size ≤ 128 ∧ e.id < hostWindow) ∧
    (let e : EventArg := { id := 127, size := 1 }
     e.id % 128 + e.size ≤ 128 ∧ s0.unrecalled 0 e.request.leaf e.id e.request.write = true) := by decide +kernel

/-! ### Engines and splits that wait -/

/-- A joint deposit of group 0, alone in its consort. -/
def xDep : Deposit :=
  { team := 2, group := 0, sid := 3, unitPc := 0, consort := 2 ^ 42, key := [0, tyF32, 0, 0, 0, 0], dx := 0, a := [], b := [], meta_ := [],
    vd := 8, vc := 8, since := 0 }

theorem wit_MatrixEvents :
    (let m : MatOp := { id := 40, team := 2, group := 0, vd := 8, n := 4, at_ := 100, results := [(0, 1), (15, 2)] }
     let s : State := event { id := 40 } { s0 with e.mats := [m] }
     s.e.mats.find? (fun x => decide (x.id = s.u.ev.id ∧ x.at_ ≤ s.u.clk)) = some m ∧ (m.results.map (·.1)).Nodup) ∧
    (let s : State := event { id := 2, value := 2 ^ 42 } { s0 with e.latch := [xDep], u.clk := 2 ^ 24 }
     let c : BitVec 48 := BitVec.ofNat 48 s.u.ev.value
     let ds := s.e.latch.filter fun d => decide (d.team = s.u.ev.id) && sameConsort d.consort c
     ds.find? (fun x => decide (x.group = (consortLeader c))) = some xDep ∧ consortMembers c ≠ [] ∧
      (consortMembers c).all (fun m => ds.any fun x => decide (x.group = m)) = true ∧ (ds.all fun x => decide (x.key = xDep.key)) = true ∧
      s.engineBusy (s.coreOf ⟨2, consortLeader c⟩) = false ∧
      (s.x.splits.find? fun x => decide (x.team = xDep.team ∧ x.group = xDep.group)).isSome = true ∧ xDep ∈ s.e.latch ∧
      (s.team 2).barWatch.toNat ≠ 0 ∧ (s.team 2).status = .running ∧ (ds.all fun d => decide (d.since + (s.team 2).barWatch.toNat ≤ s.u.clk)) = true ∧
      (s.team 2).barWatch.toNat ≤ s.u.clk) := by decide +kernel

theorem wit_WakeEvents :
    (let s := event { id := 3 } (withP (fun p => { p with park := .sleep 100 }) s0)
     ∃ p, s.split? s.u.ev.id = some p ∧ p.park = .sleep 100 ∧ 100 ≤ s.u.clk) ∧
    (let s := event { id := 3 } (withSlc (fun x => { x with watch := some ⟨0, true, 0⟩ }) (withP (fun p => { p with park := .mwait 100 }) s0))
     ∃ p, s.split? s.u.ev.id = some p ∧ p.asleep = true ∧ (∃ w ∈ s.watches p, w.triggered = true) ∧ p.park = .mwait 100 ∧ 100 ≤ s.u.clk) ∧
    (let s := event { id := 3 } (withP (fun p => { p with wcount := 255, able := true }) s0)
     ∃ p, s.split? s.u.ev.id = some p ∧ p.wcount = 255 ∧ p.park = .run ∧ p.wait = false ∧ p.able = true ∧
      (s.grp ⟨p.team, p.group⟩).halted = false) ∧
    (let s := event { id := 3 } (withP (fun p => { p with late := [{ code := POISON, late := true }] }) s0)
     ∃ p, s.split? s.u.ev.id = some p ∧ ∃ f fs, p.late = f :: fs ∧ s.atBoundary p f = true) ∧
    (let s : State := { event { id := 3 } (withP (fun p => { p with park := .bar 0x80000 }) (s0.modTeam 2 fun x => { x with barFrom := some 0 })) with
       u.clk := 2 ^ 24 + 1 }
     ∃ p, s.split? s.u.ev.id = some p ∧ ∃ r, s.roundAt p = some r ∧ s.roundStalled r = true) ∧
    (let s := event { id := 3, flag := true } (jobbed (withP (fun p => { p with park := .podsync 0x80000 }) s0))
     ∃ p, s.split? s.u.ev.id = some p ∧ ∃ r, s.roundAt p = some r ∧ r.pod = true) ∧
    (event { list := [2, 0, 3] } s0).u.ev.list = [2, 0, 3] := by
  refine ⟨⟨_, rfl, ?_⟩, ⟨_, rfl, ?_⟩, ⟨_, rfl, ?_⟩, ⟨_, rfl, _, _, rfl, ?_⟩, ⟨_, rfl, .bar 2, ?_⟩, ⟨_, rfl, .podsync 7, ?_⟩, rfl⟩ <;>
    decide +kernel

/-! ### Deferred records and queues -/

/-- A record of lane 0, and a bin that holds it. -/
def xDef : Rec := { owners := [(⟨2, 0, 0⟩, 5)], src := 191, pa := 0x1000, op := 1, val := 7 }
def xBin (ph : BinPhase) : Bin := { id := 40, die := 0, unit := 0, toDev := false, key := 0, from_ := 0, recs := [xDef], phase := ph }
/-- The bin is the event's. -/
def binned (b : Bin) (s : State) : State := event { id := 40 } { s with e.bins := [b], u.clk := 2 ^ 24 }

theorem wit_DeferredEvents :
    (let s : State := event { id := 191 } { s0 with e.log := [xDef] }
     s.e.log.find? (fun x => decide (x.src = s.u.ev.id)) = some xDef) ∧
    (let s := binned (xBin .open_) s0
     xBin .open_ ∈ s.e.bins ∧ s.u.ev.id = 40 ∧ 0 + (s.dieReg 0 0xC2).toNat ≤ s.u.clk) ∧
    (let b := { xBin .shipped with toDev := true, key := 1 }
     let s := binned b s0
     s.e.bins.find? (fun x => decide (x.id = s.u.ev.id)) = some b ∧ s.reachable b.key = false ∧ b.sent + 2 ^ 24 ≤ s.u.clk) ∧
    (let s := binned (xBin .shipped) s0
     s.e.bins.find? (fun x => decide (x.id = s.u.ev.id)) = some (xBin .shipped) ∧ (xBin .shipped).nextRec 0 = some 0 ∧
      (xBin .shipped).recs[0]? = some xDef ∧ ({ xBin .shipped with recs := [{ xDef with applied := true }] } : Bin).nextRec 0 = none) ∧
    (let loc := s0.recLoc xDef xDef.pa
     Memory.wf s0.m.mem ∧ xDef.op ≠ 7 ∧ channelOf xDef.il xDef.pa ∉ s0.m.retiredPc ∧
      s0.keyAt (loc / 128) = s0.keyId (loc / 128) xDef.key ∧ s0.poisoned loc 4 = false) ∧
    (let s : State := { s0 with e.notices := [⟨⟨2, 0, 15⟩, true⟩] }
     s.e.notices[0]? = some ⟨⟨2, 0, 15⟩, true⟩ ∧ (s.team? 2).isSome = true ∧ 15 ∈ s.liveLanes 2 0 ∧ s.team? 9 = none ∧
      (s.grid (s.team 2).grid).aborted = false ∧ ((s.modGrid 1 fun g => { g with aborted := true }).grid (s.team 2).grid).aborted = true ∧
      16 ∉ s.liveLanes 2 0) ∧
    (let s := event { id := 3 } (withP (fun p => { p with park := .settle 3 9 [0, 15] 5 0 true }) s0)
     ∃ p, s.split? s.u.ev.id = some p ∧ p.park = .settle 3 9 [0, 15] 5 0 true ∧ s.podSettled p 3 = true ∧
      s.owes (s.covers p 3 [0, 15]) 5 = false) := by
  refine ⟨?_, ?_, ?_, ?_, ?_, ?_, ⟨_, rfl, ?_⟩⟩ <;> decide +kernel

/-- A record finds a bin of its key, or none, and in the bin one to merge with, or none; a bin is full. -/
theorem wit_DeferredEvents_bins :
    (let key := channelOf xDef.il xDef.pa
     let b := { xBin .open_ with unit := key % 8, key := key }
     let mine := fun (x : Bin) => decide (x.die = 0 ∧ x.unit = key % 8 ∧ x.phase = .open_) && decide (x.toDev = false ∧ x.key = key)
     ({ s0 with e.bins := [b] } : State).e.bins.find? mine = some b ∧ s0.e.bins.find? mine = none ∧
      b.recs.find? (fun y => y.merges xDef) = some xDef ∧ b.recs.find? (fun y => y.merges { xDef with pa := 8 }) = none) ∧
    (128 ≤ (List.replicate 128 xDef).length ∧ (s0.setDieReg 0 0xC2 0).dieReg 0 0xC2 = 0) := by decide +kernel

/-- Queue 0, enabled, with one command of some words at its head; its ring lies at 0x200000. -/
def commanded (ws : List Nat) : State :=
  let s : State := { p.ready := true, d.rung := [0], u.clk := 100, u.uid := 9 }
  ((mapped (s.setDieReg 0 0xC5 1)).store ((s.setDieReg 0 0xC5 1).queueLoc 0) (0x200000 + 2 ^ 64 * (2 ^ 31 + 4) + 2 ^ 128 * 1)
    24).storeWords 0x200000 (ws.map (BitVec.ofNat 32))
/-- The words at the head. -/
def headIs (s : State) (op : Nat) : Bool :=
  s.picked 0 && match s.headOf 0 with | .cmd o _ => decide (o = op) | _ => false
/-- The words of the command at the head. -/
def headWs (s : State) : List Nat := match s.headOf 0 with | .cmd _ ws => ws | _ => []
/-- A state after the controller has begun its head. -/
def begun (s : State) : State := (s.readHead 0).useTurn 0 (s.headLevel 0)
/-- A launch record of one team of 16 lanes at 0x300000. -/
def recorded1 (s : State) : State := s.storeWords 0x300000
  ([0, 0, 0, 0, 0, 0, 0, 0, 15, 0x01000000, 0x80000000, 0, 0, 0, 0, 0, 1, 1, 1] : List Word)

theorem wit_QueueEvents_doorbell :
    (let s : State := commanded [0]
     s.p.ready = true ∧ (s.queueRec 0).tail = 1 ∧ (s.queueRec 0).head = 0 ∧ (s.queueRec 0).logn = 4) ∧
    ((1 + 2 ^ 32 - 0) % 2 ^ 32 = 1 ∧ (17 + 2 ^ 32 - 0) % 2 ^ 32 = 17 ∧ (1 + 2 ^ 32 - 17) % 2 ^ 32 > 2 ^ 31) ∧
    State.reset.p.ready = false := by decide +kernel

theorem wit_QueueEvents_stops :
    (let s := commanded [0x100]
     s.picked 0 = true ∧ s.headOf 0 = .error TASK 2 0) ∧
    (let s := commanded [0x80000000, 0xFFFFFFFF]
     s.picked 0 = true ∧ s.headOf 0 = .unsealed) := by decide +kernel

theorem wit_QueueEvents_nop : headIs (commanded [0]) 0 = true := by decide +kernel

theorem wit_QueueEvents_launchBad :
    (let s := commanded [1, 0, 1]
     headIs s 1 && (match (begun s).launchAt 0 (headWs s) with | .bad _ _ _ => true | .ok _ => false)) = true := by decide +kernel

theorem wit_QueueEvents_launch :
    (let s := recorded1 (commanded [1, 0, 0x300000])
     headIs s 1 && (match (begun s).launchAt 0 (headWs s) with
       | .bad _ _ _ => false
       | .ok g => (((begun s).readRecord 0 ((begun s).queueRec 0).asid (cmdPair (headWs s) 2)).admission g).isSome)) = true := by
  decide +kernel

theorem wit_QueueEvents_event :
    (headIs (commanded [2, 0, 7]) 2 = true ∧ cmdPair [2, 0, 7] 2 % 8 ≠ 0) ∧
    (let s := commanded [2, 0, 0x400000, 0, 5, 0, 0x800007FF]
     headIs s 2 && (decide (cmdPair (headWs s) 2 % 8 = 0)) &&
      (match (begun s).dieSeek 0 ((begun s).queueRec 0).asid (cmdPair (headWs s) 2) true with | .inl _ => true | .inr _ => false)) = true ∧
    (let s := commanded [2, 0, 0x40000000]
     headIs s 2 && (match (begun s).dieSeek 0 ((begun s).queueRec 0).asid 0x40000000 true with | .inl _ => false | .inr _ => true)) = true := by
  decide +kernel

theorem wit_QueueEvents_wait :
    (let s := commanded [3, 0, 0x400000, 0, 5]
     headIs s 3 && (match s.dieSeek 0 (s.queueRec 0).asid (cmdPair (headWs s) 2) false with
       | .inl lf => s.unrecalled 0 lf 0x400000 false | .inr _ => false) &&
      (let t : State := { s with d.wait := s.d.wait.put 0 100 }
       match t.headOf 0 with | .cmd 3 _ => t.d.wait.has 0 | _ => false)) = true := by decide +kernel

theorem wit_QueueEvents_inval :
    (let s := commanded [4, 0, 0x10000]
     headIs s 4 && !invalTear (headWs s) && !s.d.wait.has 0 &&
      (let t : State := { s with d.wait := s.d.wait.put 0 100 }
       (match t.headOf 0 with | .cmd 4 ws => t.invalDone ws (t.d.wait.look 0 0) | _ => false) && t.d.wait.has 0)) = true ∧
    (let s := commanded [4, 0, 0x20007]
     headIs s 4 && invalTear (headWs s)) = true := by decide +kernel

theorem wit_QueueEvents_seal :
    (let s : State := { commanded [0x80000000, 0xFFFFFFFF] with d.sealTry := [(0, (2, 100))] }
     s.d.sealTry.has 0 = true ∧ s.d.sealTry.look 0 (0, 0) = (2, 100) ∧ 100 ≤ s.u.clk ∧ s.headOf 0 = .unsealed ∧
      (s.setDieReg 0 0xCD 3).sealCount 0 ≤ 2 + 1 ∧ 2 + 1 < (s.setDieReg 0 0xCD 4).sealCount 0) := by decide +kernel

theorem wit_EventWrites :
    (let e : QEvent := { q := 0, va := 0x400000, value := 5, irq := some 2047, grids := [] }
     let s : State := event { id := 0 } { commanded [0] with d.events := [e] }
     s.d.events[s.u.ev.id]? = some e ∧ e.grids = [] ∧
      (match s.dieSeek 0 (s.queueRec 0).asid e.va true with | .inl lf => s.unrecalled 0 lf e.va true | .inr _ => false) = true ∧
      (match ({ s with m.mem := [] } : State).dieSeek 0 0 e.va true with | .inl _ => false | .inr _ => true) = true) := by
  decide +kernel

/-! ### Resolutions, teams and the debugger -/

/-- A record of the fault queue under slot 0. -/
def xFq (k : FqKind) (seq : Nat) (slot : Option Nat) : FqRec :=
  { die := 0, words := [], kind := k, sid := 3, seq := seq, code := ACCESS, lanes := [0], slot := slot }
/-- A RESUME of slot 0 with an action, and the record; the split waits as given. -/
def resuming (act : Nat) (r : FqRec) (pk : Park) : State :=
  withP (fun p => { p with park := pk }) { commanded [5, 0, 0, 0, act] with x := (s0.modGrid 1 fun g => { g with placed := 1 }).x, d.fq := [r] }
/-- The RESUME is at the head and finds the record. -/
def resumes (s : State) (r : FqRec) : Bool :=
  headIs s 5 && decide (0 < (begun s).fqSlots 0 ∧ (begun s).load ((begun s).fqLoc 0 0 + 56) 4 = (headWs s).getD 3 0 ∧
    ((begun s).physTouch ((begun s).fqPa 0 0) false).d.fq.reverse.find? (fun r =>
      decide (r.die = 0 ∧ r.slot.map (· % (begun s).fqSlots 0) = some 0) &&
        decide ((r.words.getD 14 0).toNat = (headWs s).getD 3 0)) = some r ∧
    (({ begun s with d.fq := [] } : State).split? 3).isSome)

theorem wit_ResumeEvents_write :
    (let s : State := ({ s0 with d.fq := [xFq .report 0 none] }).setDieReg 0 0xC8 6
     let t := s.setDieReg 0 0xC9 64
     t.fqFull 0 = true ∧ s.fqFull 0 = false ∧ s.fqSlots 0 = 64 ∧
      t.d.fq.find? (fun r => decide (r.die = 0 ∧ r.slot = none) && decide (r.kind = .report)) = some (xFq .report 0 none) ∧
      s.d.fq.find? (fun r => decide (r.die = 0 ∧ r.slot = none)) = some (xFq .report 0 none)) := by decide +kernel

theorem wit_ResumeEvents_held :
    (∀ n ∈ ([0, 5] : List Nat), resumes (resuming 0 (xFq .held n (some 0)) .run) (xFq .held n (some 0)) = true) ∧
    (headWs (resuming 0 (xFq .held 0 (some 0)) .run)).getD 4 0 = 0 ∧ (xFq .held 5 (some 0)).held = true ∧
    resumes (resuming 1 (xFq .held 5 (some 0)) .run) (xFq .held 5 (some 0)) = true ∧
    (headWs (resuming 1 (xFq .held 5 (some 0)) .run)).getD 4 0 = 1 := by decide +kernel

/-- A record that has been resolved, its grid still there. -/
theorem wit_ResumeEvents_done :
    let r := { xFq .held 5 (some 0) with done := true, grid := 1 }
    (∀ k ∈ ([0, 1, 4] : List Nat), resumes (resuming k r .run) r = true ∧ (headWs (resuming k r .run)).getD 4 0 = k) ∧
    r.held = true ∧ ((resuming 4 r .run).grid? 1).isSome = true := by decide +kernel

theorem wit_ResumeEvents_replay :
    (∀ k ∈ ([2, 3, 4] : List Nat), let s := resuming k (xFq .replay 0 (some 0)) (.replay 0x80000 0x80004)
     resumes s (xFq .replay 0 (some 0)) = true ∧ (headWs s).getD 4 0 = k ∧
      (({ begun s with d.fq := [] } : State).split? 3).map (·.park) = some (.replay 0x80000 0x80004)) ∧
    lateCode ACCESS = false := by decide +kernel

theorem wit_ResumeEvents_walk :
    ((mapped s0).walk 0 0 (2 ^ 30 - 1)).isSome = true ∧ (mapped s0).walk 0 0 (2 ^ 30) = none := by decide +kernel

/-- A grid that waits for its one team, on a machine that is ready. -/
def waiting : State :=
  { p.ready := true, u.uid := 9, u.clk := 100, x.grids := [{ uid := 1, launch := { gridX := 1 } }] }

theorem wit_LifecycleEvents_dispatch :
    (waiting.placeNow 0).isSome = true ∧
    (let k : ReadyTask := { die := 0, grid := 1, blk := 0, level := 7 }
     let s : State := { waiting with x.grids := [{ uid := 1, launch := {}, placed := 1 }], d.taskQ := [k] }
     s.placeNow 0 = none ∧ (match s.pick 0 with | some (.task x _) => decide (x = k) | _ => false) = true) := by decide +kernel

/-- One core of every cluster of die 0 is full of a grid of priority 0, and a SPREAD grid of priority 7 waits for a cluster. -/
def crowded : State :=
  { waiting with
    x.grids := [{ uid := 1, launch := { scratch := 2 ^ 20, dieMask := 1, gridX := 24 }, placed := 24 },
      { uid := 2, launch := { scratch := 2 ^ 20, dieMask := 1, gridX := 8, spread := true, prio := 7 } }]
    x.teams := (List.range 24).map fun i => { uid := 10 + i, grid := 1, index := i, core := 8 * i, batch := i }
    x.splits := (List.range 24).map fun i => { sid := 300 + i, team := 10 + i, group := 0, tix := 0, pc := 0, slices := [0, 1, 2, 3] } }
/-- Every lane has exited. -/
def ended (s : State) : State := withSlc (fun x => { x with gone := true }) { s with x.splits := [] }

theorem wit_LifecycleEvents_preempt :
    crowded.placeNow 0 = none ∧ (crowded.pick 0).isNone = true ∧ (crowded.preemptNow 0).isSome = true := by decide +kernel

theorem wit_LifecycleEvents_save :
    (let s := s0.modTeam 2 fun x => { x with status := .saving }
     let xs := s.saveUnit (s.team 2)
     s.team? 2 = some (s.team 2) ∧ (s.team 2).status = .saving ∧ xs.map (·.uid) = [2] ∧ s.over 2 = false ∧ s.drained 2 = true) ∧
    (let s := ended (s0.modTeam 2 fun x => { x with status := .saving })
     (s.saveUnit (s.team 2)).map (·.uid) = [2] ∧ s.over 2 = true) := by decide +kernel

theorem wit_LifecycleEvents_end :
    (let s := ended (s0.modGrid 1 fun g => { g with placed := 1 })
     s.grid? 1 = some (s.grid 1) ∧ s.retirable (s.grid 1) = true ∧ (s.x.teams.map (·.uid)).Nodup) ∧
    (let s : State := { launched (fun l => { l with limit := 1 }) s0 with u.clk := 65536 }
     let g := s.grid 1
     s.grid? 1 = some g ∧ g.launch.limit ≠ 0 ∧ g.watchdogDone = false ∧ g.retired = false ∧ g.aborted = false ∧
      g.residentFrom + g.launch.limit * 65536 ≤ s.u.clk) ∧
    (let s := ended (arena0.modTeam 2 fun x => { x with isTask := true })
     s.team? 2 = some (s.team 2) ∧ (s.team 2).taskDone = false ∧ s.over 2 = true ∧
      (s.retireFault { core := none, die := 0 } (s.arena 2) 0).isSome = true ∧
      (let t := ended ((arena 0 0).modTeam 2 fun x => { x with isTask := true })
       t.over 2 = true ∧ t.retireFault { core := none, die := 0 } (t.arena 2) 0 = none)) := by decide +kernel

theorem wit_DebugEvents :
    (let s := event { list := [2, 0] } s0
     (s.grp ⟨2, 0⟩).halted = false ∧ (s.groupSplits ⟨2, 0⟩).map (·.sid) = [3] ∧ (s.team 2).teamStop = false ∧
      ((s.modTeam 2 fun x => { x with teamStop := true }).team 2).teamStop = true) ∧
    (let s := event { id := 3 } (s0.modGrp ⟨2, 0⟩ fun x => { x with halted := true, stopped := some 3 })
     (s.split? s.u.ev.id).map (·.sid) = some 3 ∧ (s.grp ⟨2, 0⟩).halted = true ∧ (s.grp ⟨2, 0⟩).stopped = some 3) ∧
    (s0.team? 2).isSome = true := by decide +kernel

/-! ### The host, the package and the fabric -/

/-- A machine that is ready, its pages mapped for ASID 0. -/
def hosted : State := mapped { p.ready := true, u.uid := 9, u.clk := 100 }

theorem wit_HostEvents_bar0 :
    hosted.barBad 4 8 = true ∧ hosted.barBad 0x10 4 = false ∧ hosted.barBad 0x20 8 = false ∧ hosted.barBad 0x28100 4 = true ∧
    State.reset.p.ready = false ∧ State.reset.barBad 0x10 4 = true ∧
    hosted.p.bar2 < 2 ^ 30 - 4 + 8 ∧ 2 ^ 30 - 128 + 128 ≤ hosted.p.bar2 := by decide +kernel

theorem wit_HostEvents_carve :
    hosted.p.ready = true ∧ (4 : Nat) % 8 ≤ 4 ∧ 4 < 5 % 8 ∧
    (let s : State := { hosted with g.carveWait := [(3, 4)] }
     s.g.carveWait.has 3 = true ∧ s.chipBusy 3 = false ∧
      ({ s with x.grids := [{ uid := 1, launch := {}, chipBase := [(3, 0)] }] } : State).chipBusy 3 = true) := by decide +kernel

theorem wit_HostEvents_ways :
    (let v := 2 ^ 31 + 12
     let w := BitVec.ofNat 32 ((if bit v 31 then 2 ^ 31 else 0) + v % 2 ^ 12)
     ¬ 12 - 2 * hosted.carve 3 < (hosted.setDieReg 3 (0xD2 + 3 * 15) w).reserved 3 ∧ hosted.resBase 3 15 ≤ hosted.resLim 3 15) ∧
    (let v := 2 ^ 31 + 13
     let w := BitVec.ofNat 32 ((if bit v 31 then 2 ^ 31 else 0) + v % 2 ^ 12)
     12 - 2 * hosted.carve 3 < (hosted.setDieReg 3 (0xD2 + 3 * 15) w).reserved 3) ∧
    bit (2 ^ 31) 31 = true ∧ 2 ^ 31 % 16 = 0 ∧
    (hosted.setDieReg 3 (0xD0 + 3 * 15) 1).resLim 3 15 < (hosted.setDieReg 3 (0xD0 + 3 * 15) 1).resBase 3 15 := by decide +kernel

theorem wit_HostEvents_bar2 :
    (∀ w ∈ [false, true], (match hosted.dieSeek 0 0 (2 ^ 30) w with | .inl _ => false | .inr _ => true) = true) ∧
    (∀ w ∈ [false, true], (match hosted.dieSeek 0 0 (2 ^ 30 - 128) w with
      | .inl lf => hosted.unrecalled 0 lf (2 ^ 30 - 128) w && !(hosted.dieTouch 0 0 lf (2 ^ 30 - 128) w).poisoned (hosted.locOf lf (2 ^ 30 - 128)) 128
      | .inr _ => false) = true) ∧
    (match hosted.dieSeek 0 0 0x1000 false with
      | .inl lf => (({ hosted with m.poison := [hosted.locOf lf 0x1000] } : State).dieTouch 0 0 lf 0x1000 false).poisoned (hosted.locOf lf 0x1000) 1
      | .inr _ => false) = true := by decide +kernel

theorem wit_HostEvents_key : (8191 : Nat) < 8192 ∧ hosted.p.ready = true := by decide +kernel

/-- An image of controller 6 in its inactive slot, and where an update of it stands. -/
def updating (u : Option UpdPhase) : State :=
  { hosted with p.ctrl := [(6, { slotA := some { kind := 6, version := 0, lo := 0, hi := 0, body := [], sig := [] }
                                 slotB := some { kind := 6, version := 1, lo := 0, hi := 0, body := [], sig := [] }
                                 running := some { kind := 6, version := 0, lo := 0, hi := 0, body := [], sig := [] }, upd := u })]
                u.clk := 2 ^ 34 }

theorem wit_ManagementEvents :
    ((4 : Nat) ≤ 4 ∧ State.reset.p.powered = true ∧ State.reset.p.ready = false ∧ State.reset.p.failed = false) ∧
    (State.reset.p.starting = true ∧ hosted.p.starting = false ∧ State.reset.p.stage = 0 ∧ max 0 (min 3 5) = 3) ∧
    (let s := event { value := 3201, n := 104 } hosted
     let t := event { value := 3200, n := 104 } hosted
     s.p.cap < s.u.ev.value ∧ ¬ (t.p.cap < t.u.ev.value ∨ 105 ≤ t.u.ev.n) ∧ t.took t.p.hotAt 100 = false ∧
      ({ t with u.clk := 2 ^ 27 } : State).took t.p.hotAt 100 = true ∧ t.p.clocks = []) ∧
    (490 ≤ hosted.p.mhz ∧ ({ hosted with p.mhz := 920 } : State).p.mhz ≤ 920) ∧
    (imageOf [6, 1, 0, 0, 0]).isSome = true ∧
    (let s := updating none
     (s.ctrl 6).upd = none ∧ (s.ctrl 6).inactive.isSome = true ∧ (s.ctrl 6).running.isSome = true ∧ s.noUpdate = true) ∧
    (let s := updating (some (.held (2 ^ 34)))
     (s.ctrl 6).upd = some (.held (2 ^ 34)) ∧ s.within (2 ^ 34) 20 = true) ∧
    (let s := updating (some (.imported (2 ^ 34)))
     (s.ctrl 6).upd = some (.imported (2 ^ 34)) ∧ s.within (2 ^ 34) 500 = true) ∧
    (let s := updating (some (.held 0))
     s.updateLate (s.ctrl 6) = true) ∧
    (let s := updating (some (.rolling (2 ^ 34)))
     (s.ctrl 6).upd = some (.rolling (2 ^ 34)) ∧ s.updateLate (s.ctrl 6) = false ∧ s.noUpdate = false) ∧
    (∀ n ∈ ([58, 59] : List Nat), ({ hosted with p.life := [((11, 0, 0), n)] } : State).p.life.look (11, 0, 0) 0 = n) ∧
    (∀ n ∈ ([0, 1, 2, 3] : List Nat), ({ hosted with p.spdm := n } : State).p.spdm = n) := by decide +kernel

/-- A machine whose link has failed with 16 replays in a row, with a page held for a migration. -/
def worn : State :=
  { hosted with f.replays := [(63, 17)], f.planes := [(1, [63, 5])], f.migPool := [0x20000], f.migQ := [{ die := 0, asid := 0, va := 0 }] }

theorem wit_FabricEvents :
    (worn.reachable 1 = true ∧ worn.pathPort 600 1 = some 63 ∧ worn.pathPort 200 1 = some 5 ∧ worn.reachable 2 = false ∧
      worn.planesTo 1 = [5, 63] ∧ (∃ q ∈ worn.planesTo 1, q / 16 = 5 / 192)) ∧
    (17 ≤ worn.f.replays.look 63 0 ∧ (63 : Nat) ∉ worn.f.down ∧ worn.f.jobs = []) ∧
    (([1, 6, 2, 9, 0, 5, 77] : List Nat).map (fun n => (Traffic.ofNum n).tier) = [1, 1, 2, 2, 0, 0, 0]) ∧
    hosted.f.arrears.look (0, 1) 0 < hosted.arrearsLimit 1 ∧
    ((([0, 1] : List Nat).length = 2 ∧ hosted.f.dev ∈ ([0, 1] : List Nat)) ∧
      hosted.f.jobs.all (fun j => decide (j.asid ≠ 65535 ∧ j.num ≠ 65535)) = true ∧ (jobbed s0).f.jobs.any (fun j => decide (j.asid = 0)) = true) ∧
    (let s := jobbed s0
     (s.job? 7).isSome = true ∧ (s.job? 7).map (fun j => (j.leader, j.devs)) = some (s.f.dev, [0, 1]) ∧
      ({ s with f.jobs := [{ num := 7, asid := 0, devs := [0, 1], told := [1] }] } : State).job? 7 =
        some { num := 7, asid := 0, devs := [0, 1], told := [1] }) ∧
    ((0, 0) ∉ worn.f.migHold ∧ worn.f.dev = 0 ∧ worn.f.migPool ≠ [] ∧ worn.f.migQ.any (fun m => decide (m.asid = 0 ∧ m.va = 0)) = true) ∧
    (let s : State := { worn with f.migHold := [(0, 0)] }
     (0, 0) ∈ s.f.migHold ∧ s.migBusy 0 0 = false) := by decide +kernel

/-- A re-shard of one FP32 element from rank 0 of a mesh of one, its descriptors at 0x400000, its tile entry 0. -/
def srcWords : List Word := [0, 0, 0, 0, 0, 0, 0, 2, 1, 1, 1, 0xFFFF, 0, 0, 0x500000, 0]
def dstWords : List Word := [0x10000, 0, 0, 0, 0, 0, 0, 2, 1, 1, 1, 0xFFFF, 0, 1, 0x600000, 0]
def xAsk : Rsh := { id := 60, sid := 3, team := 2, group := 0, core := 0, sd := 8, srcVa := 0x400000, dstVa := 0x400040, vs := some 9, slanes := [0] }
/-- The command as given, in the engine. -/
def sharding (r : Rsh) (s : State) : State :=
  let t := (((mapped s).storeWords 0x400000 srcWords).storeWords 0x400040 dstWords).store (s.locPhys 0x500000) 0x700000 8
  event { id := 60, flag := true } { t with e.rsh := [r], e.tiles := [xTile 0] }
/-- The command accepted, at step 0 of 1. -/
def xRun : Rsh := { xAsk with phase := .running, recVa := 0x600000, handle := 1, words := srcWords ++ dstWords, table := [0x700000], steps := 1 }

theorem wit_ReshardEvents_accept :
    (let s := sharding xAsk s0
     s.rsh? s.u.ev.id = some xAsk ∧ (s.split? 3).isSome = true ∧ s.rshBehind xAsk = true ∧ ((s.rshReads xAsk).acceptance xAsk).1 = 0) ∧
    (let s : State := { sharding xAsk s0 with e.tiles := [] }
     ((s.rshReads xAsk).acceptance xAsk).1 = 3) := by decide +kernel

/-- A record that says the command has ended, and one that does not; a byte of its row, and a word of its record. -/
theorem wit_ReshardEvents_record :
    let r := { xRun with page := xLeaf, own := true }
    let s := sharding r s0
    (s.recWordAt r 5 ≠ 1 ∧ s.recWordAt r 4 = 0 ∧
      (let t := (s.store (s.locOf xLeaf 0x600010) (2 ^ 31) 4).store (s.locOf xLeaf 0x600014) 0 4
       t.recWordAt r 5 = r.crc ∧ bit (t.recWordAt r 4) 31 = true ∧ t.recWordAt r 4 % 16 = 0)) ∧
    (match s.rshSeek r 0x700000 false, s.rshSeek r 0x10000 true with
      | some a, some d => decide (s.keyAt (s.locOf a 0x700000 / 128) = s.keyId (s.locOf a 0x700000 / 128) a.key ∧
          s.keyAt (s.locOf d 0x10000 / 128) = s.keyId (s.locOf d 0x10000 / 128) d.key) &&
          !s.retiredAt d 0x10000
      | _, _ => false) = true ∧
    (s.keyAt (s.locOf xLeaf 0x600000 / 128) = s.keyId (s.locOf xLeaf 0x600000 / 128) xLeaf.key ∧ s.retiredAt xLeaf 0x600000 = false ∧ Memory.wf s.m.mem) ∧
    (s.split? 77).isSome = false := by decide +kernel

theorem wit_ReshardEvents_step :
    (let s := sharding xRun s0
     s.rsh? s.u.ev.id = some xRun ∧ s.rshGoes xRun = true ∧ s.rshMayStart xRun 0 = true ∧ s.rshRecalled xRun = [] ∧ s.u.ev.flag = true) ∧
    (let r := { xRun with started := [(0, 100)] }
     let s := sharding r s0
     r.plan[0]? = some (0x700000, 0x10000, 4) ∧ r.started.find? (fun x => decide (x.1 = 0)) = some (0, 100) ∧
      s.stepCode r (0x700000, 0x10000, 4) = 0 ∧ s.rshMayWrite r (0x700000, 0x10000, 4) = true ∧
      ({ s with m.mem := [] } : State).stepCode r (0x700000, 0x10000, 4) = 2) := by decide +kernel

theorem wit_ReshardEvents_end :
    (let s : State := { sharding xRun (launched (fun l => l) s0) with x.teams := [] }
     s.rshAborted xRun = true) ∧
    (let r := { xRun with started := [(0, 100)] }
     let s : State := { sharding r s0 with u.clk := 100 + 2 ^ 24 }
     r.started.find? (fun x => decide (x.1 = 0)) = some (0, 100) ∧ 100 + 2 ^ 24 ≤ s.u.clk) ∧
    (let r := { xRun with step := 1 }
     let s := sharding r s0
     r.phase = .running ∧ r.steps ≤ r.step ∧ r.started = [] ∧ r.vs = some 9 ∧ s.rshAborted r = false) ∧
    (let r := { xRun with phase := .queued, stop := some 1 }
     r.stop.isSome = true ∧ r.started = [] ∧ r.phase ≠ .asked) := by decide +kernel

/-! ### Hypotheses of the wider statements, clause by clause -/

/-- A slice of the reserved DX code. -/
theorem wit_Conversions_format :
    let s := s0.modSlc ⟨2, 0, 3⟩ fun x => { x with f := 7 }
    (∃ c ∈ s.slices, (s.slc c).f.toNat % 4 = 3) ∧ Runs (.dxpack xA1) s ∧ Runs (.dxunpk xA1) s := by decide +kernel

/-- Entries of a mask stack at join 0x80000: the join's own, and paths by address and mask. -/
abbrev xJoin : StackEntry := { pc := 0, mask := 15, join := 0x80000, fcopy := 0, isJoin := true }
abbrev xPath (pc : Pc) (m : BitVec 4) : StackEntry := { pc := pc, mask := m, join := 0x80000, fcopy := 0, isJoin := false }
/-- Slice 0 has a path to go, the others only their join; the split's frame has token 1. -/
def framed (s : State) : State :=
  withP (fun p => { p with frames := [{ join := 0x80000, token := 1 }] })
    ((withSlc (fun x => { x with stack := [xJoin] }) s).modSlc ⟨2, 0, 0⟩ fun x => { x with stack := [xPath 0x90000 3, xJoin] })
/-- The split's slices are its first three, and the fourth stands in another split, whose frame carries a token. -/
def beside (tok : Nat) (s : State) : State :=
  { s with x.splits := s.x.splits.map (fun p => { p with slices := [0, 1, 2] }) ++
    [{ sid := 4, team := 2, group := 0, tix := 1, pc := 0x90000, slices := [3], frames := [{ join := 0x80000, token := tok }] }] }
/-- The split under issue waits at its join. -/
def parked (s : State) : State := withP (fun p => { p with wait := true }) s

theorem wit_RegangExitYield_atJoin :
    (∀ e ∈ [xPath 0x90000 0, xPath 0x80000 3], e.isJoin = false ∧ e.join = 0x80000 ∧ (e.mask = 0 ∨ e.pc = 0x80000)) ∧
    (xJoin.isJoin = true ∧ ({ xPath 0x90000 3 with join := 0xA0000 } : StackEntry).join ≠ 0x80000) ∧
    ((xPath 0x90000 3).isJoin = false ∧ (xPath 0x90000 3).mask ≠ 0 ∧ (xPath 0x90000 3).pc ≠ 0x80000) := by decide +kernel

theorem wit_RegangExitYield_arrive :
    let s := beside 2 (framed s0)
    let p := s.split 3
    s.split? p.sid = some p ∧ p.frames = [{ join := 0x80000, token := 1 }] ∧ ([0, 1] : List Nat).Nodup ∧
    ((s.slc ⟨2, 0, 1⟩).atJoin 0x80000).2 = none ∧ ((s.slc ⟨2, 0, 0⟩).atJoin 0x80000).2 = some 0x90000 ∧
    (∃ q ∈ s.x.splits, q.sid ≠ p.sid ∧ q.slices ≠ []) ∧ (∃ d ∈ [3], ∀ c ∈ [0, 1], (⟨2, 0, d⟩ : SliceId) ≠ ⟨2, 0, c⟩) := by
  decide +kernel

/-- A parked split with its token alone fuses; with another of its token it does not. -/
theorem wit_RegangExitYield_fuse :
    (let s := parked (beside 2 (framed s0))
     let p := s.split 3
     s.fusable 2 0 = some p ∧ p.frames = [{ join := 0x80000, token := 1 }] ∧ p.slices.Nodup ∧ s.split? p.sid = some p ∧
      (s.slc ⟨2, 0, 0⟩).stack = [xPath 0x90000 3, xJoin] ∧ (∃ q ∈ s.x.splits, q.sid ≠ p.sid)) ∧
    (let s := parked (beside 1 (framed s0))
     s.fusable 2 0 = none ∧ (s.split 3).wait = true ∧ (s.split 3).frames = [{ join := 0x80000, token := 1 }]) := by decide +kernel

/-- A slice whose mask alone is empty, and one without a lane. -/
theorem wit_RegangExitYield_sweep :
    (let s := framed s0
     s.split? 3 = some (s.split 3) ∧ (s.split 3).slices.Nodup ∧ ∀ c ∈ (s.split 3).slices, (s.slc ⟨2, 0, c⟩).mask ≠ 0) ∧
    (let s := (framed s0).modSlc ⟨2, 0, 0⟩ fun x => { x with mask := 0 }
     0 ∈ (s.split 3).slices ∧ (s.slc ⟨2, 0, 0⟩).mask = 0 ∧ (s.split 3).frames = [{ join := 0x80000, token := 1 }] ∧
      ∃ e ∈ (s.slc ⟨2, 0, 0⟩).stack, e.mask ≠ 0) ∧
    (let s := s0.modSlc ⟨2, 0, 0⟩ fun x => { x with mask := 0 }
     0 ∈ (s.split 3).slices ∧ (s.slc ⟨2, 0, 0⟩).mask = 0 ∧ ∀ e ∈ (s.slc ⟨2, 0, 0⟩).stack, e.mask = 0) := by decide +kernel

theorem wit_SystemInstructions_registers :
    (∀ n ∈ ([0x05, 0x0F, 0x33, 0x3F, 0x46, 0x7F, 0x85, 0xBF, 0xCE, 0xCF] : List Nat),
      ¬ (n ≤ 0x04 ∨ 0x10 ≤ n ∧ n ≤ 0x32 ∨ 0x40 ≤ n ∧ n ≤ 0x45 ∨ 0x80 ≤ n ∧ n ≤ 0x84 ∨ 0xC0 ≤ n ∧ n ≤ 0xCD ∨
        0xD0 ≤ n ∧ n ≤ 0xFF) ∧ s0.immU (BitVec.ofNat 8 n) = n) ∧
    (s0.split? s0.u.iss.sid).isSome = true ∧ s0.cur.slices = [0, 1, 2] ++ [3] ∧ (s0.team? s0.u.iss.team).isSome = true ∧
    (∀ n ∈ ([0x42, 0x43, 0x80, 0x81] : List (BitVec 8)), s0.immU n = n.toNat ∧ Runs (.swrite { num := n, sa := 4 }) s0) ∧
    (∀ v ∈ ([4, 5, 6, 7] : List Nat), v % 8 = v) ∧ (⟨2, 0, 4⟩ : LaneId).slice ≠ ⟨2, 0, 0⟩ ∧ (⟨2, 0, 3⟩ : SliceId) ≠ ⟨2, 0, 0⟩ := by
  decide +kernel

/-- Every lane of the group stands in a round. -/
def inRound (pk : Park) (s : State) : State := withP (fun p => { p with park := pk }) s
/-- Of a round: someone waits, the teams are not halted, and every live lane has arrived. -/
def complete (r : Round) (s : State) : Bool :=
  s.x.splits.any (fun p => decide (p.team ∈ s.roundTeams r) && r.parks p) && (s.roundTeams r).all (fun t => !s.teamHalted t) &&
    (s.roundTeams r).all fun t => (s.groups t).all fun g => (s.liveLanes t g).all fun l =>
      s.x.splits.any fun p => decide (p.team = t ∧ p.group = g ∧ l ∈ s.active p) && r.parks p

theorem wit_BarRounds_kinds :
    ∀ x ∈ ([(.settleT 2, .settle 1 8 [0] 5 0x80000 false), (.gridsync 1, .gridsync 0x80000), (.settleG 1, .settle 2 8 [0] 5 0x80000 false)] :
      List (Round × Park)), complete x.1 (inRound x.2 s0) = true ∧ (∀ n, x.1 ≠ .podsync n ∧ x.1 ≠ .settleP n) ∧
      (∀ p ∈ s0.x.splits, (decide (p.team ∈ s0.roundTeams x.1) && x.1.parks p) = false) := by
  intro x h
  simp only [List.mem_cons, List.not_mem_nil, or_false] at h
  obtain rfl | rfl | rfl := h <;> exact ⟨by decide +kernel, by simp, by decide +kernel⟩

/-- A pod round at its leader, told and not, elsewhere, and before what its lanes did is performed. -/
theorem wit_BarRounds_pod :
    ∀ x ∈ ([(.podsync 7, .podsync 0x80000), (.settleP 7, .settle 3 8 [0] 5 0x80000 false)] : List (Round × Park)),
      let s := inRound x.2 (jobbed s0)
      let j : PodJob := { num := 7, asid := 0, devs := [0, 1] }
      complete x.1 s = true ∧ s.job? 7 = some j ∧ s.jobGrids j ≠ [] ∧ s.k.acc = [] ∧
      (j.devs.filter fun d => decide (d = s.f.dev)).length ≤ (s.jobGrids j).length ∧ j.leader = s.f.dev ∧ (1, x.1.podIndex) ∉ j.arrived ∧
      (∀ d ∈ ({ j with arrived := [(1, x.1.podIndex)] } : PodJob).devs, d ≠ s.f.dev →
        (d, x.1.podIndex) ∈ ({ j with arrived := [(1, x.1.podIndex)] } : PodJob).arrived) ∧
      (let t : State := { s with f.dev := 1 }
       complete x.1 t = true ∧ t.job? 7 = some j ∧ j.leader ≠ t.f.dev) ∧
      (∃ a ∈ (owing s).k.acc, a.append = false ∧ a.lane.t ∈ (owing s).roundTeams x.1) := by decide +kernel

/-- A DX operation whose effective K ends the chunk, and one whose does not; one whose type has no scale. -/
theorem wit_MatrixElements_chunk :
    let f : Frag := { w := 16, ty := tyDx, dx := 0, sparse := false, p24 := false, a := [], b := [], md := [] }
    let s := fun (n : Nat) => s0.modGrp ⟨2, 0⟩ fun g => { g with armed := true, kpos := n, bind := some (8, tyDx) }
    ((s 96).grp ⟨2, 0⟩).armed = true ∧ tyScaled tyDx = true ∧ tyScaled tyE4M3 = true ∧ tyScaled tyS8 = false ∧
    ((s 96).grp ⟨2, 0⟩).kpos + ([f].map fun f => matK f.ty f.dx f.sparse).sum = 128 ∧
    ((s 0).grp ⟨2, 0⟩).kpos + ([f].map fun f => matK f.ty f.dx f.sparse).sum ≠ 128 ∧
    (s0.grp ⟨2, 1⟩).armed = false ∧ (⟨2, 1⟩ : GroupId) ≠ ⟨2, 0⟩ ∧ ([] : List XVal) ++ [.nan] ≠ [] := by decide +kernel

/-- A CPY from memory to memory; another team holds the destination's line, and its store there is in flight or not. -/
theorem wit_CopyExecution_recall :
    let c := { xCopy .started 0 with dst := { base := 0x1000 }, src := { base := 0x400000 } }
    (let s := recalling (copying c (mapped s0))
     s.copy? s.u.ev.id = some c ∧ s.u.ev.value ≠ 2 ∧ s.mayMove c (c.steps.drop 0).flatten = true) ∧
    (let t : Tenure := { xTen (.team 9) with team := 9, foot := { recs := [{ xRec with base := 0x1000 }], pages := [xLeaf] } }
     let s : State := { copying c (mapped s0) with e.tens := [t] }
     let s : State := { s with k.acc := [{ xAcc (.store false) (some xLeaf) .atHome with
       lane := ⟨9, 0, 0⟩, seq := 1, loc := s.locOf xLeaf 0x1000 }] }
     s.mayMove c (c.steps.drop 0).flatten = false ∧ s.recallsClear c (c.steps.drop 0).flatten = false) ∧
    (let s : State := copying c (mapped s0)
     let s : State := { s with k.acc := [{ xAcc (.store false) (some xLeaf) .atHome with
       seq := 1, loc := s.locOf xLeaf 0x400000, near := some .team }] }
     s.mayMove c (c.steps.drop 0).flatten = false ∧ s.recallsClear c (c.steps.drop 0).flatten = true) := by decide +kernel

/-- The source of the next bytes lies on another module, which has been silent for the delivery limit or has not. -/
theorem wit_CopyExecution_late :
    let c := { xCopy .started 0 with src := { base := 0x1000 } }
    let s : State := { copying c (moc (launched (fun l => { l with scratch := 65536 }) s0)) with f.planes := [(1, [5])] }
    (event { id := 40, value := 2 } s).u.ev.value = 2 ∧ s.copy? 40 = some c ∧ s.copyLate c (c.steps.drop 0).flatten = false ∧
    ({ s with u.clk := 2 ^ 24 } : State).copyLate c (c.steps.drop 0).flatten = true := by decide +kernel

/-- A window byte that lies nowhere. -/
theorem wit_CopyExecution_refused :
    let c := xCopy .started 0
    (match s0.copyPlace c scratchWindow false with | .inl _ => 0 | .inr k => k) = 3 ∧
    (match s0.copyPlace c scratchWindow true with | .inl _ => 0 | .inr k => k) = 3 ∧
    (match (mapped s0).copyPlace c 0x1000 false with | .inl _ => true | .inr _ => false) = true := by decide +kernel

/-- A run of a fetch: FP32 rows of 64, or as given. -/
def xFetch (minor : Nat) (d x : Layout) (xs : List Nat) : FetchOp := { acc := 40, minor := minor, data := d, aux := x, x := xs }
/-- Data of rank 2, 64 by 4, of a format. -/
abbrev xWide (fmt : Nat) : Layout := { xRec with ext := [64, 4, 1, 1], rank := 2, fmt := fmt }

/-- Dense and DX elements, inside and outside. -/
theorem wit_FetchUnit_dense :
    (let f := xFetch 0 (xWide 2) {} [62, 3]
     f.minor = 0 ∧ fmtDx f.data.fmt = false ∧ 0 < f.shape.1 ∧ f.data.inside (63, 3, 0, 0) = true ∧ f.data.inside (64, 3, 0, 0) = false) ∧
    (let f := xFetch 0 (xWide 0x10) (xWide 1) [62, 3]
     f.minor = 0 ∧ fmtDx f.data.fmt = true ∧ 0 < f.shape.1 ∧ f.data.inside (63, 3, 0, 0) = true ∧ f.data.inside (64, 3, 0, 0) = false ∧
      f.aux.inside (1, 3, 0, 0) = true) := by decide +kernel

/-- A gather within and beyond its list, its index within, beyond and negative. -/
theorem wit_FetchUnit_gather :
    let zero : Nat → Nat := fun _ => 0
    let minus : Nat → Nat := fun _ => 255
    (∀ p ∈ ([63, 64] : List Nat), let f := xFetch 1 (xWide 2) { xRec with fmt := 7 } [0, 0, 0, 0, p]
      f.minor = 1 ∧ (p < f.aux.e 0 ↔ p = 63) ∧ f.aux.fmt = 7 ∧ f.aux.elemIn zero (p, 0, 0, 0) < f.data.e 1 ∧
        2 ^ 31 ≤ f.aux.elemIn minus (p, 0, 0, 0)) ∧
    (xWide 2).inside (63, 0, 0, 0) = true ∧ (xWide 2).inside (64, 0, 0, 0) = false := by decide +kernel

/-- Kept and pruned positions under pattern 0 (positions 0 to 3 of 8, 0 and 1 of 4), a malformed word, and the ends of the kept
data. -/
theorem wit_FetchUnit_sparse :
    (let f := xFetch 2 (xWide 2) (xWide 8) [0, 0]
     f.minor = 2 ∧ f.alt = false ∧ f.data.inside (0, 0, 0, 0) = true ∧ f.aux.inside (0, 0, 0, 0) = true ∧ metaBad false 0 = false ∧
      (3 : Nat) ∈ patternOf 4 0 ∧ (4 : Nat) ∉ patternOf 4 0 ∧ (patternOf 4 0).findIdx? (fun p => decide (p = 3)) = some 3 ∧
      metaBad false 70 = true ∧ metaBad false (2 ^ 28) = true ∧ f.data.inside (64, 0, 0, 0) = false) ∧
    (metaBad true 5 = false ∧ metaBad true 6 = true ∧ patternOf 2 5 = [2, 3] ∧ patternOf 2 0 = [0, 1] ∧ patternOf 4 69 = [4, 5, 6, 7]) := by
  decide +kernel

/-- Another team holds a write tenure on the line of an address, and its store there waits for acknowledgements. -/
def kept (base : Nat) (s : State) : State :=
  { s with
    e.tens := [{ holder := .team 9, team := 9, write := true, foot := { recs := [{ xRec with base := base }], pages := [xLeaf] } }]
    k.acc := [{ xAcc (.store false) (some xLeaf) .atHome with lane := ⟨9, 0, 0⟩, seq := 1, loc := s.locOf xLeaf base, pa := base }] }

/-- A recall keeps the block's line, or the ring slot's, from the split. -/
theorem wit_TaskInstructions_recall :
    (let s := kept 0x100000 (arena 0 7)
     let t := s.modTeam 2 fun x => { x with isTask := true }
     s.issued.blocksClear s.taskHere (s.arena 2) [(s.ownBlock, false)] = false ∧ s.owesRelease = false ∧
      s.blockFault (s.arena 2) [s.ownBlock] false = none ∧ s.blockFault (s.arena 2) [7, s.ownBlock] true = none ∧
      s.issued.blocksClear s.taskHere (s.arena 2) [(7, true), (s.ownBlock, true)] = false ∧
      Runs (.joinTask xSd) s ∧ Runs (.joinPoll xSd) s ∧ Runs (.spawn xX1) s ∧ (t.arena 2).launch.taskBase ≠ 0 ∧
      t.retireFault t.taskHere (t.arena 2) 0 = none ∧ t.owesRelease = false ∧
      t.issued.blocksClear t.taskHere (t.arena 2) (t.retireBlocks t.taskHere (t.arena 2) 0) = false ∧ Runs (.taskend xSd) t) ∧
    (let s := arena 0 7
     s.issued.blocksClear s.taskHere (s.arena 2) [(7, true), (s.ownBlock, true)] = true) ∧
    (let s := queueState 0xFFFFFFFF 14
     let ag : Agent := { team := some 2, core := some 0, asid := (s.queueRec 0).asid }
     s.coreOf s.gid = 0 ∧ (s.queueRec 0).slot (s.queueRec 0).tail = 0x200380 ∧ s.issued.recallClear ag xLeaf 0x200380 true = true ∧
      (kept 0x200380 s).issued.recallClear ag xLeaf 0x200380 true = false ∧ (kept 0x200380 s).owesRelease = false ∧
      Runs (.launchCmd xX) (kept 0x200380 s)) := by decide +kernel

theorem wit_FabricInstructions_poll :
    let ag : Agent := { team := some 2, core := some 0, asid := 0 }
    (let s := mapped s0
     s.issued.recallClear ag xLeaf 0 false = true ∧ s.issued.badRead xLeaf 0 4 = false ∧ s.issued.badRead xLeaf 16 4 = false) ∧
    (let s := kept 0 (mapped s0)
     s.rshOwner (s.locOf xLeaf 0) = none ∧ s.issued.recallClear ag xLeaf 0 false = false ∧ Runs (.rspoll xX1) s) ∧
    (let s : State := { mapped s0 with m.poison := [s0.locOf xLeaf 0 / 128 * 128] }
     s.issued.badRead xLeaf 0 4 = true ∧ Runs (.rspoll xX1) s) ∧
    (let s : State := { withS 4 112 (mapped s0) with m.poison := [s0.locOf xLeaf 128] }
     s.leadAddr 4 = 112 ∧ s.issued.badRead xLeaf 112 4 = false ∧ s.issued.badRead xLeaf 128 4 = true ∧ Runs (.rspoll xX1) s) := by
  decide +kernel

/-- What lands of each kind, and a run that may be read, one that waits, and its elements. -/
theorem wit_RepliesLand_kinds :
    (∀ x ∈ ([(.atom .add, 1), (.ldc, 1), (.fetch, 4), (.load false, 2)] : List (AccKind × Nat)),
      let a := { xAcc x.1 (some xLeaf) .performed with dstN := x.2 }
      (flying a s0).acc? 40 = some a ∧ a.isLoad = true ∧ a.spec = false ∧ a.failed = 0 ∧ a.poisoned = false ∧ a.kind ≠ .mscale ∧
        a.kind ≠ .monitor) ∧
    (∀ l ∈ ([0, 5] : List Nat), let a := { xAcc .mscale (some xLeaf) .performed with lane := ⟨2, 0, l⟩ }
      (flying a s0).acc? 40 = some a ∧ a.isLoad = true ∧ a.failed = 0 ∧ a.poisoned = false) ∧
    (let a := xAcc .fetch none .issued
     let f := { xFetch 0 xRec {} [0] with acc := 40 }
     let s : State := { flying a (mapped s0) with e.fetches := [f] }
     s.acc? 40 = some a ∧ a.isLoad = true ∧ s.e.fetches.find? (fun x => decide (x.acc = a.id)) = some f ∧ s.mayFetch a f = true ∧
      s.runFault (s.accCore a) (s.launch a.lane.t).asid f a.id = none ∧
      (let b := { xAcc (.load false) (some xLeaf) .issued with id := 39, seq := 4, order := .acquire, scope := .device }
       let t : State := { s with k.acc := [b, a] }
       t.acc? 40 = some a ∧ t.mayFetch a f = false ∧ t.mayPerform a = false)) := by decide +kernel

/-- A page of module 1, direct or cached. -/
abbrev xFar (m : Nat) : Leaf := { xLeaf with size := 65536, peer := 1, mode := m }
/-- Module 1 is reached through port 5. -/
def near1 (s : State) : State := { s with f.planes := [(1, [5])] }

/-- Lanes that share the line of an LDC, a CACHE operation, a path whose port sends again, a copy that serves a load of an
unreachable module, and what keeps an access waiting on every kind of page. -/
theorem wit_HomeAccesses_mates :
    (let a := xAcc .ldc (some xLeaf) .issued
     let b := { a with id := 41, lane := ⟨2, 0, 1⟩, gaddr := 0x1004, loc := 0x1004, pa := 0x1004 }
     let s : State := { flying a s0 with k.acc := [a, b] }
     s.acc? 40 = some a ∧ a.isLoad = true ∧ b ∈ s.mates a ∧ b.id ≠ a.id ∧ s.mayReach a false = true) ∧
    (let a := xAcc (.cache 1) (some xLeaf) .issued
     (flying a s0).acc? 40 = some a ∧ a.append = false ∧ (flying a s0).mayReach a false = true) ∧
    (let a := { xAcc (.load false) (some (xFar 1)) .issued with dev := 1 }
     let s : State := { near1 (flying a s0) with f.replays := [(5, 1)] }
     s.acc? 40 = some a ∧ a.dev ≠ s.f.dev ∧ s.pathPort (s.accCore a) a.dev = some 5 ∧ s.f.replays.look 5 0 ≠ 0 ∧
      (near1 (flying a s0)).mayReach a false = true) ∧
    (let a := { xAcc (.load false) (some (xFar 2)) .issued with dev := 1 }
     let s := (flying a s0).addSnap (.guest ((flying a s0).accCore a / 192)) (a.loc / 128)
     s.acc? 40 = some a ∧ s.reachable (s.devOf (xFar 2)) = false ∧ s.guestServes a (xFar 2) = true) ∧
    (∀ m ∈ ([1, 2, 3] : List Nat), (near1 s0).modeOf (xFar m) = m ∧ (near1 s0).reachable ((near1 s0).devOf (xFar m)) = true) ∧
    s0.modeOf xLeaf = 0 ∧ inHost 0x1000 = false ∧ ({ xLeaf with df := true } : Leaf).df = true ∧
    (let a := { xAcc (.load false) (some (xFar 1)) .issued with dev := 1, sent := some 5 }
     let s : State := { flying a s0 with u.clk := 2 ^ 24 + 5 }
     s.acc? 40 = some a ∧ a.isHeld = false ∧ a.failed = 0 ∧ a.kind ≠ .fetch ∧ 5 + 2 ^ 24 ≤ s.u.clk) := by decide +kernel

/-- The event is a peer's request about the line of 0x1000. -/
def asking (list : List Nat) (s : State) : State := event { id := 0x1000, size := 4, value := 7, list := list } s
/-- A request that waits in the holding space. -/
def xPeer (k : Nat) : PeerReq := { id := 70, req := (asking [0, 0, k] s0).u.ev.request, pa := 0x1000, size := 4, value := 7, holders := [.team 9], time := 5 }

/-- A peer's request met by no tenure, held, and answered with a retry; a read; a write to another module; a held one released. -/
theorem wit_CoherenceEvents_peer :
    (let s := asking [0, 0, 0] s0
     s.servedAt = s.f.dev ∧ s.recallers s.u.ev.request.agent s.u.ev.id s.u.ev.request.write = [] ∧ s.u.ev.request.kind = 0 ∧
      s.poisoned (s.locHere 0 0x1000) 4 = false ∧ s.retiredAt s.u.ev.request.leaf 0x1000 = false ∧
      s.keyAt (s.locHere 0 0x1000 / 128) = s.keyId (s.locHere 0 0x1000 / 128) 0) ∧
    (let s := kept 0x1000 (asking [0, 0, 0] s0)
     s.recallers s.u.ev.request.agent s.u.ev.id s.u.ev.request.write ≠ [] ∧ s.holding (homeDie 0 0x1000) (homeSlice 0x1000) < 64 ∧
      64 ≤ ({ s with f.peerHeld := List.replicate 64 (xPeer 1) } : State).holding (homeDie 0 0x1000) (homeSlice 0x1000)) ∧
    (let s := asking [0, 0, 1, 0, 0, 0, 0, 0, 3] s0
     s.servedAt ≠ s.f.dev ∧ s.u.ev.request.kind = 1 ∧ Memory.wf s.m.mem) ∧
    (let s : State := event { id := 70 } { s0 with f.peerHeld := [xPeer 0] }
     s.acc? 70 = none ∧ s.f.peerHeld.find? (fun x => decide (x.id = s.u.ev.id)) = some (xPeer 0) ∧ s.peerDone (xPeer 0) = true ∧
      (kept 0x1000 s).peerDone (xPeer 0) = false) := by decide +kernel

/-- A deposit whose group has a split, and one whose group has none. -/
theorem wit_MatrixEvents_discard :
    (let s : State := { s0 with e.latch := [xDep] }
     (∀ d ∈ s.e.latch, ∃ p ∈ s.x.splits, p.team = d.team ∧ p.group = d.group) ∧
      (s.x.splits.find? fun x => decide (x.team = xDep.team ∧ x.group = xDep.group)) = some (s.split 3) ∧ xDep ∈ s.e.latch ∧
      (decide (xDep.team = 2) && sameConsort xDep.consort (2 ^ 42)) = true) := by decide +kernel

/-- A descriptor at 0x1000 with its words, for a record of an APPEND. -/
def ring4 (ws : List Nat) : State := s0.storeWords 0x1000 (ws.map (BitVec.ofNat 32))

/-- The word of a descriptor. -/
def dword (s : State) (i : Nat) : Nat := s.load (s.recLoc { xDef with op := 7 } (0x1000 + 4 * i)) 4

/-- Room in the ring, in the overflow region, in neither, a capacity of 0, and a descriptor whose last word lies past its page. -/
theorem wit_DeferredEvents_append :
    let r : Rec := { xDef with op := 7 }
    (r.op = 7 ∧ r.pa % 64 = 0 ∧ r.pa / r.psize * r.psize + r.psize = 65536 ∧ channelOf r.il r.pa ∉ s0.m.retiredPc ∧
      (∀ pa ∈ [0x1000, 0x101C], s0.keyAt (s0.recLoc r pa / 128) = s0.keyId (s0.recLoc r pa / 128) r.key)) ∧
    ((List.range 8).map (dword (ring4 [64, 4, 128, 1, 3, 0, 0, 0])) = [64, 4, 128, 1, 3, 0, 0, 0]) ∧
    (∀ ws ∈ ([[64, 4, 128, 1, 3, 0, 0, 0], [64, 4, 128, 1, 4, 0, 0, 0], [64, 4, 128, 1, 4, 0, 1, 0]] : List (List Nat)),
      let w := dword (ring4 ws)
      1 ≤ w 1 ∧ w 1 ≤ 2 ^ 24 ∧ w 3 ≤ 2 ^ 24 ∧ w 0 % 4 = 0 ∧ 32 ≤ w 0 ∧ r.pa + w 0 + 4 * w 1 ≤ 65536 ∧ w 2 % 4 = 0 ∧
        r.pa + w 2 + 4 * w 3 ≤ 65536) ∧
    (dword (ring4 [64, 4, 128, 1, 3, 0, 0, 0]) 4 < 4 ∧ 4 ≤ dword (ring4 [64, 4, 128, 1, 4, 0, 0, 0]) 4 ∧
      dword (ring4 [64, 4, 128, 1, 4, 0, 0, 0]) 6 < 1 ∧ 1 ≤ dword (ring4 [64, 4, 128, 1, 4, 0, 1, 0]) 6) ∧
    dword (ring4 [64, 0]) 1 = 0 ∧ ¬ ({ r with pa := 65528 } : Rec).pa % 64 = 0 := by decide +kernel

/-- A bin whose acknowledgement does not come, a retired channel's record, a record of APPEND to apply, a word of a ring, and direct
operations at their homes. -/
theorem wit_DeferredEvents_direct :
    (let b := { xBin .shipped with toDev := true, key := 1 }
     let s : State := event { id := 40, flag := true } (near1 (binned b s0))
     s.e.bins.find? (fun x => decide (x.id = s.u.ev.id)) = some b ∧ s.reachable 1 = true ∧ b.sent + 2 ^ 24 ≤ s.u.clk ∧ b.nextRec 0 = some 0) ∧
    (let s : State := { s0 with m.retiredPc := [channelOf xDef.il xDef.pa] }
     xDef.dev = s.f.dev ∧ channelOf xDef.il xDef.pa ∈ s.m.retiredPc) ∧
    (let r : Rec := { xDef with op := 7 }
     Memory.wf s0.m.mem ∧ s0.retiredAt r.leaf 0x1040 = false ∧ s0.poisoned (s0.recLoc r 0x1040) 4 = false ∧
      s0.keyAt (s0.recLoc r 0x1040 / 128) = s0.keyId (s0.recLoc r 0x1040 / 128) r.key) ∧
    (∀ op ∈ ([1, 7] : List Nat), let a := xAcc (.dst op 2) (some xLeaf) .atHome
      let s := flying a s0
      Memory.wf s.m.mem ∧ s.acc? s.u.ev.id = some a ∧ s.acked a = true ∧ s.poisonFor a = false ∧
        ({ s with m.poison := [0x1000] } : State).poisonFor a = true) := by decide +kernel

/-- A WAIT whose word is poisoned, or kept by a recall, and one whose target is reached or not. -/
theorem wit_QueueEvents_waitStops :
    let s := commanded [3, 0, 0x400000, 0, 5]
    (match s.dieSeek 0 (s.queueRec 0).asid (cmdPair (headWs s) 2) false with | .inl lf => decide (lf.pa 0x400000 = 0x400000) | .inr _ => false) = true ∧
    s.badRead xLeaf 0x400000 8 = false ∧ ({ s with m.poison := [s.locOf xLeaf 0x400000] } : State).badRead xLeaf 0x400000 8 = true ∧
    (kept 0x400000 { s with u.seqNo := 5 }).unrecalled 0 xLeaf 0x400000 false = false ∧ cmdPair (headWs s) 4 = 5 ∧
    s.peek xLeaf 0x400000 8 < 5 ∧ 5 ≤ (s.store (s.locOf xLeaf 0x400000) 5 8).peek xLeaf 0x400000 8 := by decide +kernel

/-- An EVENT of a queue that is served, and that is not: EN 0, ERROR 1, or its controller waits; one that a recall keeps, and its
vector's mask. -/
theorem wit_EventWrites_served :
    let e : QEvent := { q := 0, va := 0x400000, value := 5, irq := some 2047, grids := [] }
    let s : State := event { id := 0 } { commanded [0] with d.events := [e], u.seqNo := 5 }
    (s.d.events[s.u.ev.id]? = some e ∧ (s.queueRec e.q).en = true ∧ (s.queueRec e.q).err = false ∧ 0 ∉ s.d.hold) ∧
    (({ s with m.mem := [] } : State).queueRec e.q).en = false ∧ ((s.queueFail 0 TASK 5 0).queueRec e.q).err = true ∧
    0 ∈ ({ s with d.hold := [0] } : State).d.hold ∧ (kept 0x400000 s).unrecalled 0 xLeaf 0x400000 true = false ∧
    (s.msixWord (4 * 2047 + 3)).getLsbD 0 = true ∧
    (({ s with p.msix := [(4 * 2047 + 3, 0)] } : State).msixWord (4 * 2047 + 3)).getLsbD 0 = false := by decide +kernel

/-- A RESUME finds its record by slot and TIME, the newest of that slot. -/
theorem wit_ResumeEvents_time :
    let r := { xFq .held 5 (some 0) with words := (List.replicate 14 0) ++ [7, 0] }
    let s : State := { resuming 0 r .run with d.fq := [xFq .held 4 (some 0), r] }
    let s := s.store (s.locPhys 0x20000C) 7 4
    let s := s.store (s.fqLoc 0 0 + 56) 7 4
    headIs s 5 = true ∧ (begun s).load ((begun s).fqLoc 0 0 + 56) 4 = (headWs s).getD 3 0 ∧
      (((begun s).physTouch ((begun s).fqPa 0 0) false).d.fq.reverse.find?
        (fun r => decide (r.die = 0 ∧ r.slot.map (· % (begun s).fqSlots 0) = some 0) &&
          decide ((r.words.getD 14 0).toNat = (headWs s).getD 3 0)) = some r) := by decide +kernel

/-- Nothing to choose, not even to save; a team that is over while it is being saved, one that has not drained, and a task whose
block a recall keeps. -/
theorem wit_LifecycleEvents_others :
    (let s : State := { p.ready := true, u.clk := 100 }
     s.placeNow 0 = none ∧ (s.pick 0).isNone = true ∧ (s.preemptNow 0).isNone = true) ∧
    (let s := (withP (fun p => p) s0).modTeam 2 fun x => { x with status := .saving }
     let t := owing s
     (s.saveUnit (s.team 2)).map (·.uid) = [2] ∧ s.drained 2 = true ∧ t.over 2 = false ∧ t.drained 2 = false ∧
      (ended s).over 2 = true) ∧
    (let s := ended (arena 0 0)
     let t := (s.modTeam 2 fun x => { x with isTask := true })
     let w : TaskAt := { core := none, die := 0 }
     t.blocksClear w (t.arena 2) (t.retireBlocks w (t.arena 2) 0) = true ∧
      (kept 0x100000 t).blocksClear w (t.arena 2) (t.retireBlocks w (t.arena 2) 0) = false ∧ (kept 0x100000 t).over 2 = true) := by
  decide +kernel

/-- A halt request to a group that is halted already, alone and for its team, and to a group without a split. -/
theorem wit_DebugEvents_halted :
    (let s := event { list := [2, 0], flag := true } (s0.modGrp ⟨2, 0⟩ fun x => { x with halted := true, stopped := some 3 })
     (s.grp ⟨2, 0⟩).halted = true ∧ s.u.ev.flag = true ∧ (s.team 2).teamStop = false) ∧
    (let s := event { list := [2, 0] } (ended s0)
     (s.grp ⟨2, 0⟩).halted = false ∧ s.groupSplits ⟨2, 0⟩ = []) ∧
    (let o : SfuOp := { id := 9, team := 2, group := 0, vd := 8, results := [(0, 1)] }
     let s : State := { s0 with e.sfu := [o] }
     (s.e.sfu.map (·.id)).Nodup ∧ ∃ o ∈ s.e.sfu, o.team = 2) := by decide +kernel

/-- Host accesses that a recall keeps, and lines of this module and another. -/
theorem wit_HostEvents_recall :
    (∀ w ∈ [false, true], (match hosted.dieSeek 0 0 0x400000 w with | .inl lf => decide (lf.pa 0x400000 = 0x400000) | .inr _ => false) = true ∧
      (kept 0x400000 { hosted with u.seqNo := 5 }).unrecalled 0 xLeaf 0x400000 w = false ∧ hosted.unrecalled 0 xLeaf 0x400000 w = true) ∧
    hosted.retiredAt xLeaf 0x400000 = false ∧ ({ hosted with m.retiredPc := List.range 768 } : State).retiredAt xLeaf 0x400000 = true ∧
    hosted.lineAway (2 ^ 33) = true ∧ hosted.lineAway 0 = false ∧ hosted.p.ready = true ∧ State.reset.p.ready = false := by decide +kernel

/-- Stages within their limits and beyond them, an update that waits, comes alive or is late, and a version that does not fit. -/
theorem wit_ManagementEvents_limits :
    (State.reset.stageLate = false ∧ State.reset.p.stage < 3 ∧
      ({ State.reset with u.clk := 2 ^ 30 } : State).stageLate = true ∧ State.reset.p.clocks = []) ∧
    ((updating (some (.held 0))).updateLate ((updating (some (.held 0))).ctrl 6) = true ∧
      (updating (some (.imported 0))).updateLate ((updating (some (.imported 0))).ctrl 6) = true ∧
      (updating none).updateLate ((updating none).ctrl 6) = false ∧ (updating (some (.held 0))).noUpdate = false) ∧
    (({ kind := 6, version := 1, lo := 1, hi := 2, body := [], sig := [] } : Image).lo > ((updating none).ctrl 6).running.elim 0 (·.hi)) := by
  decide +kernel

/-- A link after 16 failed replays, and after 15; the fabric manager's update, which holds port changes; grants; the job's own event. -/
theorem wit_FabricEvents_more :
    (17 ≤ worn.f.replays.look 63 0 ∧ (63 : Nat) ∉ worn.f.down ∧ ((63 : Nat), ([] : List Nat)) ∉ worn.f.portWait ∧
      ({ worn with f.replays := [(63, 16)] } : State).f.replays.look 63 0 < 17) ∧
    (worn.fabricHeld = false ∧ ({ worn with p.ctrl := [(4, { upd := some (.held 0) })] } : State).fabricHeld = true ∧
      ({ worn with f.portWait := [(63, [])] } : State).f.portWait = [(63, [])]) ∧
    (let s := event { id := 0, value := 5, flag := true, list := [6, 2, 0] } hosted
     let waiting := s.u.ev.list.map fun n => (Traffic.ofNum n).tier
     let t := s.addArrears 0 5 waiting
     waiting = [1, 2, 0] ∧ (t.grantTier 0 waiting).isSome = true ∧
      ({ t with f.arrears := [((0, 1), 65535), ((0, 2), 65535)] } : State).grantTier 0 waiting = some 1 ∧
      ({ t with f.arrears := [((0, 2), 65535)] } : State).grantTier 0 waiting = some 2 ∧
      ({ t with f.arrears := [] } : State).grantTier 0 waiting = some 0) ∧
    (let s := event { id := 7, value := 0 } (jobbed s0)
     s.u.ev.size ≠ 2 ∧ s.u.ev.value = s.f.dev ∧ (s.job? 7).isSome = true) ∧
    (event { n := 3, list := [0, 0, 0] } worn).u.ev.n = 3 ∧ worn.f.migFar = [] := by decide +kernel

/-- A command whose team's round is not through, an engine of 64 steps in flight, a step that a recall keeps, a step whose read goes
to another module, source bytes that are bad, and a command under its team's tenure. -/
theorem wit_ReshardEvents_more :
    (let s : State := { owing (sharding xAsk s0) with k.syncs := [([2], 5)] }
     s.rshBehind { xAsk with seq := 5 } = false ∧ s.rshBehind xAsk = true) ∧
    (let r := { xRun with started := (List.range 64).map fun k => (k, 100) }
     (sharding r s0).rshFlying r.die = 64 ∧ (sharding xRun s0).rshFlying xRun.die < 64) ∧
    (let r := { xRun with started := [(0, 100)], own := true }
     let s := kept 0x10000 (sharding r s0)
     s.stepCode r (0x700000, 0x10000, 4) = 0 ∧ s.rshMayWrite r (0x700000, 0x10000, 4) = false) ∧
    (let s := sharding { xRun with started := [(0, 100)] } s0
     s.rshAway xRun (0x700000, 0x10000, 4) = false ∧
      (near1 (s.store (s.locPhys (2 ^ 18)) (31 + 2 ^ 10 + 2 ^ 77) 16)).rshAway xRun (0x700000, 0x10000, 4) = true) ∧
    (let s := sharding xRun s0
     let t : State := { s with m.poison := [s.locOf xLeaf 0x700000] }
     (∀ b ∈ rowBytes (0x700000, 0x10000, 4), s.rshBad xRun b.2 = none) ∧ (t.rshBad xRun 0x700000).isSome = true) ∧
    (let r := { xRun with own := false }
     let s : State := { sharding r s0 with e.tiles := [{ xTile 0 with foot := { recs := [xRec], pages := [xLeaf] } }] }
     s.rshOwes r 0x10000 = true ∧ r.holding = .team 2 ∧ s.rshOwes { r with stop := some 1 } 0x10000 = false) := by decide +kernel

end Sys2Proof.Tests
end

/-! SUPPORT. The state after reset: what each register file, the registers held per core and per die, and memory read
there. -/

namespace Sys2Proof.Machine

/-! ### Memory after reset -/

/-- No byte is listed, so every byte reads 0 (log entry 12). -/
theorem Memory.read_nil (a n : Nat) : Memory.read [] a n = 0 := by
  induction n generalizing a with
  | zero => rfl
  | succ n ih => simp [Memory.read, Memory.get, ih]

@[simp] theorem State.load_reset (a n : Nat) : State.reset.load a n = 0 := Memory.read_nil a n

theorem State.memWf_reset : State.reset.MemWf := rfl

/-! ### Registers after reset -/

@[simp] theorem State.getV_reset (l : LaneId) (n : Nat) : State.reset.getV l n = 0 := rfl
@[simp] theorem State.isEmpty_reset (l : LaneId) (n : Nat) : State.reset.isEmpty l n = false := rfl
@[simp] theorem State.getS_reset (c : SliceId) (n : Nat) : State.reset.getS c n = 0 := rfl
@[simp] theorem State.getM_reset (c : SliceId) (n : Nat) : State.reset.getM c n = if n = 0 then 15 else 0 := rfl
@[simp] theorem State.getC_reset (c : SliceId) (n : Nat) : State.reset.getC c n = 0 := rfl
@[simp] theorem State.coreReg_reset (c n : Nat) : State.reset.coreReg c n = coreRegReset n := rfl
@[simp] theorem State.dieReg_reset (d n : Nat) : State.reset.dieReg d n = dieRegReset n := rfl

/-- Only four registers held per die have a reset value other than 0 (R260, R305, R386). -/
theorem dieRegReset_eq_zero {n : Nat} (h1 : n ≠ 0xC1) (h2 : n ≠ 0xC2) (h8 : n ≠ 0xC8) (hD : n ≠ 0xCD) :
    dieRegReset n = 0 := by
  unfold dieRegReset
  split
  · exact absurd rfl h1
  · exact absurd rfl h2
  · exact absurd rfl h8
  · exact absurd rfl hD
  · rfl

/-- `SYS_RESCTLn` (0xD2 + 3n) is 0 at reset: no residency range is enabled (R256). -/
theorem dieRegReset_resCtl (n : Nat) : dieRegReset (0xD2 + 3 * n) = 0 :=
  dieRegReset_eq_zero (by omega) (by omega) (by omega) (by omega)

/-- Settles O5: every table is empty after reset, so each accessor reads its default, which is the register's reset
value, and a byte that no cell lists reads 0. -/
theorem resetState : Obligations.ResetState := by
  unfold Obligations.ResetState
  refine ⟨rfl, rfl, rfl, rfl, fun a => State.load_reset a 1, State.memWf_reset, fun d => ?die, fun c => ?core,
    rfl, rfl, rfl, rfl, rfl, rfl, fun l n => ⟨State.getV_reset l n, State.isEmpty_reset l n⟩,
    fun c n => ⟨State.getS_reset c n, State.getC_reset c n⟩, State.getM_reset⟩
  case die =>
    simp only [State.dieReg_reset]
    exact ⟨rfl, rfl, rfl, rfl, rfl, rfl, rfl, rfl, rfl, rfl, rfl, fun n _ => dieRegReset_resCtl n⟩
  case core =>
    simp only [State.coreReg_reset]
    exact ⟨rfl, rfl, rfl, rfl, rfl⟩

end Sys2Proof.Machine

/-! SUPPORT. Majors 0x09 and 0x0A: what a floating-point instruction delivers (R108 to R114). -/

namespace Sys2Proof.Machine

/-- A unit that delivers a floating-point result element by element (R108). -/
theorem givesF_of {i : Instr} {s : State} {m : Meaning} {o : OpA} {f : Fmt → Rnd → Nat → Nat → Nat → Nat}
    (hm : meaningOf i s = some m) (hb : m.body s.issued = s.issued.deliverF o f) : s.GivesF i o f :=
  runsTo_writesV hm hb fun l => by
    simp only [State.issued_perElem, State.issued_vc, State.issued_fmt, State.issued_roundOf]
    rfl

/-- Settles O14: the body of each unit delivers by State.deliverF the function its row names; FSCALE, whose exponent is
not of an element's width, delivers lane by lane. -/
theorem floatArithmetic : Obligations.FloatArithmetic := by
  unfold Obligations.FloatArithmetic
  intro s o
  refine ⟨givesF_of rfl rfl, givesF_of rfl rfl, givesF_of rfl rfl, givesF_of rfl rfl, givesF_of rfl rfl,
    givesF_of rfl rfl, givesF_of rfl rfl, givesF_of rfl rfl, givesF_of rfl rfl, givesF_of rfl rfl, givesF_of rfl rfl,
    givesF_of rfl rfl, givesF_of rfl rfl, givesF_of rfl rfl, ?fscale⟩
  case fscale =>
    refine runsTo_writesV rfl rfl fun l => ?_
    simp only [State.issued_pack, State.issued_opV, State.issued_getV, State.issued_fmt, State.issued_roundOf]
    rfl

end Sys2Proof.Machine

/-! SUPPORT. Major 0x0D: what a conversion and the DX micro-blocks deliver, and how the generators advance (R28, R119 to
R126). -/

namespace Sys2Proof.Machine

/-! ### Conversions by the shape rule -/

/-- A unit that converts by the shape rule (R120). -/
theorem givesCvt_of {i : Instr} {s : State} {m : Meaning} {va vd ws wt : Nat} {cvt : Rnd → Nat → Nat}
    (hm : meaningOf i s = some m) (hb : m.body s.issued = s.issued.deliverCvt va vd ws wt cvt) :
    s.GivesCvt i va vd ws wt cvt :=
  runsTo_converts hm hb fun l => by rw [State.issued_cvtLane]

theorem meanFcvt_body {o : OpFcvt} {f g : Fmt} (hf : floatCode o.src.toNat = some f)
    (hg : floatCode o.tgt.toNat = some g) (s t : State) :
    (meanFcvt o s).body t =
      t.deliverCvt o.va.toNat o.vd.toNat f.width g.width fun r x => roundTo g r (f.value x) := by
  simp only [meanFcvt, hf, hg, Option.getD_some]

theorem meanIcvtf_body {o : OpIcvt} {w : Nat} {u : Bool} {g : Fmt} (hi : intCode o.icode.toNat = some (w, u))
    (hg : floatCode o.fcode.toNat = some g) (s t : State) :
    (meanIcvtf o s).body t =
      t.deliverCvt o.va.toNat o.vd.toNat w g.width fun r x => roundTo g r (XVal.ofInt (readInt w u x)) := by
  simp only [meanIcvtf, hi, hg, Option.getD_some]

theorem meanFcvti_body {o : OpIcvt} {w : Nat} {u : Bool} {f : Fmt} (hi : intCode o.icode.toNat = some (w, u))
    (hf : floatCode o.fcode.toNat = some f) (s t : State) :
    (meanFcvti o s).body t = t.deliverCvt o.va.toNat o.vd.toNat f.width w fun r x =>
      wrap w (roundInt r.mode (intRange w u).1 (intRange w u).2 (f.value x)) := by
  simp only [meanFcvti, hi, hf, Option.getD_some]

/-! ### Writes of a different number of registers in each lane -/

/-- A loop over lanes that writes `k l` registers from `vd` on with `g l` in lane l. -/
theorem State.foldl_setVs (s : State) (vd : Nat) (k g : Nat → Nat) (ls : List Nat) (t0 : State) :
    let t := ls.foldl (fun t l => t.setVs (s.lane l) vd (g l) (k l)) t0
    (∀ l ∈ ls, ∀ n, vd ≤ n → n < vd + k l →
      t.getV (s.lane l) n = BitVec.ofNat 32 (g l / 2 ^ (32 * (n - vd))) ∧ t.isEmpty (s.lane l) n = false) ∧
    (∀ x n, (∀ l ∈ ls, x = s.lane l → n < vd ∨ vd + k l ≤ n) →
      t.getV x n = t0.getV x n ∧ t.isEmpty x n = t0.isEmpty x n) ∧
    { t with r.v := t0.r.v, r.ve := t0.r.ve } = t0 := by
  induction ls generalizing t0 with
  | nil => exact ⟨by simp, fun _ _ _ => ⟨rfl, rfl⟩, rfl⟩
  | cons a ls ih =>
    obtain ⟨hwritten, hothers, hrest⟩ := ih (t0.setVs (s.lane a) vd (g a) (k a))
    rw [List.foldl_cons]
    refine ⟨fun l hl n hn1 hn2 => ?_, fun x n hx => ?_, ?_⟩
    · by_cases hm : l ∈ ls
      · exact hwritten l hm n hn1 hn2
      · obtain rfl : l = a := by simpa [hm] using hl
        obtain ⟨hv, he⟩ := hothers (s.lane l) n fun j hj he => absurd (State.lane_inj he ▸ hj) hm
        rw [hv, he, State.getV_setVs, State.isEmpty_setVs, if_pos ⟨rfl, hn1, hn2⟩, if_pos ⟨rfl, hn1, hn2⟩]
        exact ⟨rfl, rfl⟩
    · have hout : ¬ (s.lane a = x ∧ vd ≤ n ∧ n < vd + k a) := fun ⟨he, h1, h2⟩ => by
        have := hx a List.mem_cons_self he.symm
        omega
      obtain ⟨hv, he⟩ := hothers x n fun l hl => hx l (List.mem_cons_of_mem _ hl)
      rw [hv, he, State.getV_setVs, State.isEmpty_setVs, if_neg hout, if_neg hout]
      exact ⟨rfl, rfl⟩
    · exact (congrArg (fun q : State => { q with r.v := t0.r.v, r.ve := t0.r.ve }) hrest).trans
        (State.setVs_rest t0 _ _ _ _)

/-! ### DX micro-blocks -/

theorem State.dxReserved_iff (s : State) : s.dxReserved = true ↔ ∃ c ∈ s.slices, (s.slc c).f.toNat % 4 = 3 := by
  simp only [State.dxReserved, List.any_eq_true, decide_eq_true_eq]
  rfl

theorem meanDxunpk_reserved {s : State} (h : s.dxReserved = true) (p : OpA1) :
    (meanDxunpk p s).body s.issued = .trap { code := FORMAT } := by
  simp only [meanDxunpk, State.issued_dxReserved, h, if_true]

theorem meanDxpack_reserved {s : State} (h : s.dxReserved = true) (p : OpA1) :
    (meanDxpack p s).body s.issued = .trap { code := FORMAT } := by
  simp only [meanDxpack, State.issued_dxReserved, h, if_true]

/-- What DXUNPK delivers in lane l: the 32 elements of its micro-block at `va`, converted (R126). -/
def State.unpackedLane (s : State) (va l : Nat) : Nat :=
  joinElems (if s.pack = 0 then 32 else 16) (fun j =>
    roundTo s.fmt (s.roundCvt (s.slice (l / 4)) (s.cvtWord l j))
      (dxValue (s.dxCode (s.slice (l / 4))) (s.dxExpEntry l va % 256) (s.dxExpEntry l va / 256 % 256)
        (elem (s.getVs (s.lane l) va (s.dxRegs (s.slice (l / 4)))) j (dxShape (s.dxCode (s.slice (l / 4)))).1))) 32

/-- What DXPACK delivers in lane l: the data field and, above it, the exponent entry (R125). -/
def State.packedLane (s : State) (va l : Nat) : Nat :=
  let c := s.slice (l / 4)
  let q := dxPack (s.dxCode c) (s.dxPolicy c) (fun j => (s.roundCvt c (s.cvtWord l j)).mode)
    ((List.range 32).map fun j => s.fmt.value
      (elem (s.getVs (s.lane l) va s.dxWide) j (if s.pack = 0 then 32 else 16)))
  q.1 + 2 ^ (32 * (s.dxRegs c - 1)) * q.2

theorem State.issued_unpackedLane (s : State) (va l : Nat) : s.issued.unpackedLane va l = s.unpackedLane va l := by
  simp only [State.unpackedLane, State.dxExpEntry, State.issued_getVs]
  rfl

theorem State.issued_packedLane (s : State) (va l : Nat) : s.issued.packedLane va l = s.packedLane va l := by
  simp only [State.packedLane, State.issued_getVs]
  rfl

/-- DXUNPK under valid codes delivers as a conversion does (R126). -/
theorem meanDxunpk_body {s : State} (h : s.dxReserved = false) (p : OpA1) :
    (meanDxunpk p s).body s.issued =
      .ok (s.issued.advanceGen (s.issued.deliverAll p.vd.toNat s.dxWide (s.issued.unpackedLane p.va.toNat)) 32) := by
  simp only [meanDxunpk, State.issued_dxReserved, h, Bool.false_eq_true, if_false]
  rfl

/-- A loop over the active lanes that treats those of a true effective mask in one way and, with zi, the others in another. -/
theorem State.foldl_act_eq_wlanes (s : State) (f g : State → Nat → State) (t0 : State) :
    s.act.foldl (fun r l => if s.maskOk l then f r l else if s.zi then g r l else r) t0 =
      s.wlanes.foldl (fun r l => if s.maskOk l then f r l else g r l) t0 := by
  unfold State.wlanes State.elanes
  by_cases hz : s.zi = true
  · simp [hz]
  · rw [if_neg hz, List.foldl_filter]
    refine List.foldl_ext _ _ _ fun r l _ => ?_
    simp [hz]
    split <;> rfl

/-- The registers that DXPACK writes, before its generators advance. -/
def State.dxpacked (s : State) (vd va : Nat) : State :=
  s.wlanes.foldl (fun r l => r.setVs (s.lane l) vd (if s.maskOk l = true then s.packedLane va l else 0)
    (s.dxRegs (s.slice (l / 4)))) s.issued

/-- DXPACK under valid codes (R125). -/
theorem meanDxpack_body {s : State} (h : s.dxReserved = false) (p : OpA1) :
    (meanDxpack p s).body s.issued = .ok (s.issued.advanceGen (s.dxpacked p.vd.toNat p.va.toNat) 32) := by
  simp only [meanDxpack, State.issued_dxReserved, h, Bool.false_eq_true, if_false]
  refine congrArg (fun t => Res.ok (s.issued.advanceGen t 32)) ?_
  refine (State.foldl_act_eq_wlanes s.issued (fun r l => r.setVs (s.lane l) p.vd.toNat (s.issued.packedLane p.va.toNat l)
    (s.dxRegs (s.slice (l / 4)))) (fun r l => r.setVs (s.lane l) p.vd.toNat 0 (s.dxRegs (s.slice (l / 4))))
    s.issued).trans ?_
  rw [State.issued_wlanes]
  refine List.foldl_ext _ _ _ fun r l _ => ?_
  have hm : s.issued.maskOk l = s.maskOk l := rfl
  rw [State.issued_packedLane, hm]
  cases s.maskOk l <;> rfl

/-- What DXPACK's body leaves under valid codes: as State.Converts says, with as many registers in each lane as its slice's
code needs (R28, R61, R73, R125). -/
structure State.Packs (s t : State) (vd va : Nat) : Prop where
  result : ∀ l ∈ s.elanes, t.getVs (s.lane l) vd (s.dxRegs (s.slice (l / 4))) =
    s.packedLane va l % 2 ^ (32 * s.dxRegs (s.slice (l / 4)))
  zeroed : s.zi = true → ∀ l ∈ s.act, s.maskOk l = false → t.getVs (s.lane l) vd (s.dxRegs (s.slice (l / 4))) = 0
  full : ∀ l ∈ s.wlanes, ∀ n, vd ≤ n → n < vd + s.dxRegs (s.slice (l / 4)) → t.isEmpty (s.lane l) n = false
  others : ∀ x n, (∀ l ∈ s.wlanes, x = s.lane l → n < vd ∨ vd + s.dxRegs (s.slice (l / 4)) ≤ n) →
    t.getV x n = s.getV x n ∧ t.isEmpty x n = s.isEmpty x n
  advanced : ∀ l ∈ s.elanes, s.stoch (s.slice (l / 4)) = true →
    t.lan (s.lane l) = { s.lan (s.lane l) with gen := genIter (s.gen (s.lane l)) 32 }
  kept : ∀ x, (∀ l ∈ s.elanes, x = s.lane l → s.stoch (s.slice (l / 4)) = false) → t.lan x = s.lan x
  rest : { t with r.v := s.r.v, r.ve := s.r.ve, r.ln := s.r.ln } = s.issued

theorem State.advanceGen_packs (s : State) (vd va : Nat) : s.Packs (s.issued.advanceGen (s.dxpacked vd va) 32) vd va := by
  obtain ⟨hwritten, hothers, hrest⟩ := State.foldl_setVs s vd (fun l => s.dxRegs (s.slice (l / 4)))
    (fun l => if s.maskOk l = true then s.packedLane va l else 0) s.wlanes s.issued
  obtain ⟨hadv, hkept, hgen⟩ := State.advanceGen_spec s.issued (s.dxpacked vd va) 32
  rw [State.issued_elanes] at hadv hkept
  have hv : (s.issued.advanceGen (s.dxpacked vd va) 32).getV = (s.dxpacked vd va).getV :=
    (congrArg State.getV hgen :)
  have he : (s.issued.advanceGen (s.dxpacked vd va) 32).isEmpty = (s.dxpacked vd va).isEmpty :=
    (congrArg State.isEmpty hgen :)
  have hl : (s.dxpacked vd va).lan = s.lan := (congrArg State.lan hrest :)
  have hval : ∀ l ∈ s.wlanes, (s.issued.advanceGen (s.dxpacked vd va) 32).getVs (s.lane l) vd (s.dxRegs (s.slice (l / 4))) =
      (if s.maskOk l = true then s.packedLane va l else 0) % 2 ^ (32 * s.dxRegs (s.slice (l / 4))) := fun l hl =>
    State.getVs_of_bytes _ _ _ _ _ fun n hn1 hn2 => by
      rw [hv]
      exact (hwritten l hl n hn1 hn2).1
  refine ⟨fun l hl => ?_, fun hz l ha hm => ?_, fun l hl n hn1 hn2 => ?_, fun x n hx => ?_, ?_, ?_, ?_⟩
  · obtain ⟨ha, hm⟩ := State.mem_elanes.1 hl
    rw [hval l (State.mem_wlanes.2 ⟨ha, .inl hm⟩), if_pos hm]
  · rw [hval l (State.mem_wlanes.2 ⟨ha, .inr hz⟩), hm]
    exact Nat.zero_mod _
  · rw [he]
    exact (hwritten l hl n hn1 hn2).2
  · rw [hv, he]
    exact hothers x n hx
  · exact hl ▸ hadv
  · exact hl ▸ hkept
  · exact (congrArg (fun q : State => { q with r.v := s.r.v, r.ve := s.r.ve, r.ln := s.r.ln }) hgen).trans
      (congrArg (fun q : State => { q with r.ln := s.r.ln }) hrest)

/-- Settles O16: a conversion's body is State.deliverCvt, whose source values and generator words no issue changes; the
DX micro-blocks go by whether a slice of the split holds the reserved code. -/
theorem conversions : Obligations.Conversions := by
  unfold Obligations.Conversions
  intro s o i p
  refine ⟨fun f g hf hg => givesCvt_of rfl (meanFcvt_body hf hg s _),
    fun w u g hi hg => givesCvt_of rfl (meanIcvtf_body hi hg s _),
    fun w u f hi hf => givesCvt_of rfl (meanFcvti_body hi hf s _),
    runsTo_writesV rfl rfl fun l => ?fround, runsTo_writesV rfl rfl fun l => ?fclass,
    runsTo_writesV rfl rfl fun l => ?fexpo,
    fun h => runsTo_converts rfl (meanDxunpk_body h p) (State.issued_unpackedLane s _), fun h => ?pack, fun h => ?reserved⟩
  case fround =>
    simp only [State.issued_perElem, State.issued_fmt, State.issued_roundOf]
    rfl
  case fclass | fexpo => simp only [State.issued_opV, State.issued_fmt, State.issued_pack]
  case pack =>
    refine runsTo_of rfl fun _ => ⟨_, meanDxpack_body h p, ?_⟩
    obtain ⟨hres, hzero, hfull, hothers, hadv, hkept, hrest⟩ := s.advanceGen_packs p.vd.toNat p.va.toNat
    exact ⟨hres, hzero, hfull, hothers, hadv, hkept, hrest⟩
  case reserved =>
    have hr := s.dxReserved_iff.2 h
    exact ⟨fun hrun => exec_trap rfl hrun (meanDxpack_reserved hr p),
      fun hrun => exec_trap rfl hrun (meanDxunpk_reserved hr p)⟩

end Sys2Proof.Machine

/-! SUPPORT. Major 0x10: what an operation over the participants delivers (R151 to R153). -/

namespace Sys2Proof.Machine

/-! ### Votes -/

theorem meanVote_any {v : OpVote} (h : v.sel = 0) (s t : State) :
    (meanVote v s).body t = .ok (t.deliverMask v.vd.toNat fun _ => t.elanes.any (t.mBit v.ma.toNat)) := by
  simp [meanVote, h]

theorem meanVote_all {v : OpVote} (h : v.sel = 1) (s t : State) :
    (meanVote v s).body t = .ok (t.deliverMask v.vd.toNat fun _ => t.elanes.all (t.mBit v.ma.toNat)) := by
  simp [meanVote, h]

theorem meanVote_uni {v : OpVote} (h : v.sel = 2) (s t : State) :
    (meanVote v s).body t = .ok (t.deliverMask v.vd.toNat fun _ =>
      t.elanes.all (t.mBit v.ma.toNat) || !t.elanes.any (t.mBit v.ma.toNat)) := by
  simp [meanVote, h]

theorem meanVote_ballot {v : OpVote} (h : v.sel = 3) (s t : State) :
    (meanVote v s).body t =
      .ok (t.deliverAll v.vd.toNat 2 fun _ => laneBits (t.elanes.filter (t.mBit v.ma.toNat))) := by
  simp [meanVote, h]

/-- Settles O18: no group operation reads what its issue changes, so each body delivers the function of the participants
that its row names. -/
theorem groupOperations : Obligations.GroupOperations := by
  unfold Obligations.GroupOperations
  intro s v e p o k r c
  refine ⟨fun h => runsTo_writesM rfl (meanVote_any h s _) fun _ => ?any,
    fun h => runsTo_writesM rfl (meanVote_all h s _) fun _ => ?all,
    fun h => runsTo_writesM rfl (meanVote_uni h s _) fun _ => ?uni,
    fun h => runsTo_writesV rfl (meanVote_ballot h s _) fun _ => ?ballot,
    runsTo_writesM rfl rfl fun l => ?elect, runsTo_writesV rfl rfl fun l => ?matchV,
    runsTo_writesV rfl rfl fun l => ?shfl, runsTo_writesV rfl rfl fun l => ?rank,
    runsTo_writesV rfl rfl fun l => ?reduce, runsTo_writesV rfl rfl fun l => ?scan⟩
  case any | all | ballot => simp only [State.issued_elanes, State.issued_mBit]
  case uni => simp only [State.issued_elanes, State.issued_mBit, List.not_any_eq_all_not]
  case elect => simp only [State.issued_elanes]
  case matchV => simp only [State.issued_elanes, State.issued_opV]
  case shfl =>
    simp only [State.issued_elanes, State.issued_opV, State.issued_getV, State.issued_lane, State.issued_groupWidth]
    split <;> rfl
  case rank => simp only [State.issued_elanes, State.issued_mBit]
  case reduce => simp only [State.issued_pack, State.issued_redFn, State.issued_redValues]
  case scan => simp only [State.issued_pack, State.issued_redFn, State.issued_redValues, State.issued_fmt]

end Sys2Proof.Machine

/-! SUPPORT. MMA, MMAS and MMAD: the outcome of a unit's body, one lemma per outcome (R181 to R193, R196). -/

namespace Sys2Proof.Machine

/-- An instruction whose unit fails with an effect takes its fault after it. -/
theorem exec_fail {i : Instr} {s : State} {m : Meaning} {g : State → State} {f : FaultInfo} (hm : meaningOf i s = some m)
    (h : Runs i s) (hb : m.body s.issued = .fail g f) : exec i s = .next ((g s).fault f) := by
  have hu : s.issues m.use = true := by simpa [Runs, hm] using h
  rw [exec_meaning hm]
  unfold Meaning.run
  rw [unit_issues hu, hb]

/-! ### MMA and MMAS -/

/-- The range that an MMA or MMAS takes C from: MMAS takes it from its destination (R190). -/
abbrev State.mmaC (s : State) (o : OpA) (sparse : Bool) : Nat := if sparse = true then o.vd.toNat else s.vc o.vd.toNat

/-- The operands of an MMA or MMAS as a fragment of the group. -/
abbrev State.mmaFrag (s : State) (o : OpA) (sparse : Bool) : Frag :=
  s.myFrag s.ty (s.dxOf.getD 0) sparse o.va.toNat o.vb.toNat (s.vc o.vd.toNat)

/-- An MMA or MMAS raises FORMAT: a DX type without one valid format in every slice, or, unless it only deposits for
another leader, a breach of the chunk rule (R183, R196; log entry 63). -/
def State.mmaFormat (s : State) (o : OpA) (sparse : Bool) : Prop :=
  (s.ty = tyDx ∧ s.dxOf = none) ∨ ((s.grp s.gid).armed = true ∧ (s.joint = false ∨ s.isLeader = true) ∧
    (s.grp s.gid).chunkBad s.ty
      (max 1 (if s.joint = true then (s.grp s.gid).consort.toNat / 2 ^ 42 % 8 else 1) *
        matK s.ty (s.dxOf.getD 0) sparse) o.vd.toNat (s.mmaC o sparse) = true)

section
variable {s : State} {o : OpA} {sparse : Bool}

/-- The test of the unit's body for FORMAT. -/
theorem State.mmaFormat_iff :
    (!(decide (s.ty ≠ tyDx) || s.dxOf.isSome) || ((s.grp s.gid).armed && (!s.joint || s.isLeader) &&
      (s.grp s.gid).chunkBad s.ty
        (max 1 (if s.joint = true then (s.grp s.gid).consort.toNat / 2 ^ 42 % 8 else 1) *
          matK s.ty (s.dxOf.getD 0) sparse) o.vd.toNat (s.mmaC o sparse))) = true ↔ s.mmaFormat o sparse := by
  simp [State.mmaFormat, and_assoc]

theorem mmaUnit_format (h : s.mmaFormat o sparse) :
    (mmaUnit sparse o s).body s.issued = .trap { code := FORMAT } :=
  if_pos (State.mmaFormat_iff.2 h)

/-- Malformed metadata is found past the test for FORMAT (R190). -/
theorem mmaUnit_meta (h : ¬ s.mmaFormat o sparse) (hs : sparse = true) {e : FaultInfo}
    (hm : s.metaFault (s.vc o.vd.toNat) (metaRegs s.ty) s.sp = some e) :
    (mmaUnit sparse o s).body s.issued = .trap e := by
  subst hs
  refine (if_neg (mt State.mmaFormat_iff.1 h)).trans ?_
  show (match s.metaFault (s.vc o.vd.toNat) (metaRegs s.ty) s.sp with | some e => _ | none => _) = _
  rw [hm]

/-- What an MMA or MMAS that raises neither does: the group's own operation, or its part in a joint one (R186, R192, R193). -/
def State.mmaStart (s : State) (o : OpA) (sparse : Bool) : Res :=
  if !s.joint then
    .ok (s.issued.runMma s.gid [s.mmaFrag o sparse] o.vd.toNat (s.mmaC o sparse) s.ty (s.roundOf s.lead) s.sat
      (occupancy (if s.ty = tyF32 then 8 else 2) s.gw))
  else
    match s.depositBad (s.jointKey (if sparse = true then 1 else 0)) with
    | some row => .fail (fun x => if row = 0 then x else x.discardLatch s.u.iss.team (s.grp s.gid).consort row)
        { code := RENDEZVOUS, info := row }
    | none => .ok (s.issued.deposit (s.jointKey (if sparse = true then 1 else 0)) (s.mmaFrag o sparse) o.vd.toNat
        (s.mmaC o sparse))

theorem mmaUnit_start (h : ¬ s.mmaFormat o sparse)
    (hm : sparse = true → s.metaFault (s.vc o.vd.toNat) (metaRegs s.ty) s.sp = none) :
    (mmaUnit sparse o s).body s.issued = s.mmaStart o sparse := by
  refine (if_neg (mt State.mmaFormat_iff.1 h)).trans ?_
  have hmeta : (if sparse then s.metaFault (s.vc o.vd.toNat) (metaRegs s.ty) s.sp else none) = none := by
    split
    · exact hm ‹_›
    · rfl
  show (match (if sparse then s.metaFault (s.vc o.vd.toNat) (metaRegs s.ty) s.sp else none) with
    | some e => _ | none => _) = _
  rw [hmeta]
  rw [State.issued_lead]
  rfl

theorem State.mmaStart_solo (hj : s.joint = false) : s.mmaStart o sparse =
    .ok (s.issued.runMma s.gid [s.mmaFrag o sparse] o.vd.toNat (s.mmaC o sparse) s.ty (s.roundOf s.lead) s.sat
      (occupancy (if s.ty = tyF32 then 8 else 2) s.gw)) := by
  simp only [State.mmaStart, hj, Bool.not_false, if_true]

theorem State.mmaStart_bad (hj : s.joint = true) {row : Nat}
    (hd : s.depositBad (s.jointKey (if sparse = true then 1 else 0)) = some row) :
    s.mmaStart o sparse = .fail (fun x => if row = 0 then x else x.discardLatch s.u.iss.team (s.grp s.gid).consort row)
      { code := RENDEZVOUS, info := row } := by
  simp only [State.mmaStart, hj, hd, Bool.not_true, Bool.false_eq_true, if_false]

theorem State.mmaStart_deposit (hj : s.joint = true)
    (hd : s.depositBad (s.jointKey (if sparse = true then 1 else 0)) = none) :
    s.mmaStart o sparse = .ok (s.issued.deposit (s.jointKey (if sparse = true then 1 else 0)) (s.mmaFrag o sparse)
      o.vd.toNat (s.mmaC o sparse)) := by
  simp only [State.mmaStart, hj, hd, Bool.not_true, Bool.false_eq_true, if_false]

/-- Both instructions are this unit. -/
theorem meaningOf_mma {i : Instr} (h : (i, sparse) ∈ [(Instr.mma o, false), (.mmas o, true)]) :
    meaningOf i s = some (mmaUnit sparse o s) := by
  simp only [List.mem_cons, Prod.mk.injEq, List.not_mem_nil, or_false] at h
  obtain ⟨rfl, rfl⟩ | ⟨rfl, rfl⟩ := h <;> rfl

/-! ### MMAD -/

theorem meanMmad_armed (h : (s.grp s.gid).armed = true) : (meanMmad o s).body s.issued = .trap { code := FORMAT } :=
  if_pos h

theorem meanMmad_start (h : (s.grp s.gid).armed = false) : (meanMmad o s).body s.issued =
    .ok (s.issued.startMat (s.coreOf s.gid) s.gid o.vd.toNat 64 (occupancy 8 s.gw) 12
      ((List.range s.gw).map fun i => (i, joinElems 64 (fun j => mmadElem (s.roundOf s.lead)
        (rowOf (s.fragRegs s.gid o.va.toNat 8) i)
        (colOf s.gw tyF32 0 false
          (s.fragRegs s.gid o.vb.toNat (if s.gw = 16 then 16 else if s.gw = 64 then 4 else 8)) j)
        (elem (rowOf (s.fragRegs s.gid (s.vc o.vd.toNat) 64) i) j 64)) 32))) := by
  rw [← State.issued_lead]
  exact if_neg (Bool.eq_false_iff.1 h)

end

/-- Settles O33: the outcomes of an MMA's body in the order of its tests, and those of MMAD's. -/
theorem matrixMultiplies : Obligations.MatrixMultiplies := by
  unfold Obligations.MatrixMultiplies
  intro s o i sparse hi
  have hmean : meaningOf i s = some (mmaUnit sparse o s) := meaningOf_mma hi
  refine ⟨fun hbad hrun => exec_trap hmean hrun (mmaUnit_format hbad),
    fun hbad hs e he hrun => exec_trap hmean hrun (mmaUnit_meta hbad hs he),
    fun hbad hm => ⟨fun hj => ?solo, fun hj => ⟨fun row hd hrun => ?depositBad, fun hd => ?deposit⟩⟩,
    fun ha hrun => exec_trap rfl hrun (meanMmad_armed ha),
    fun ha => runsTo_of rfl fun _ => ⟨_, meanMmad_start ha, rfl⟩⟩
  case solo => exact runsTo_of hmean fun _ => ⟨_, (mmaUnit_start hbad hm).trans (State.mmaStart_solo hj), rfl⟩
  case depositBad => exact exec_fail hmean hrun ((mmaUnit_start hbad hm).trans (State.mmaStart_bad hj hd))
  case deposit => exact runsTo_of hmean fun _ => ⟨_, (mmaUnit_start hbad hm).trans (State.mmaStart_deposit hj hd), rfl⟩

end Sys2Proof.Machine

/-! SUPPORT. The elements of a matrix operation (R37, R39, R187, R190, R196): what State.runMma starts in each of its cases, and
the exact sums that the chunk buffer keeps. -/

namespace Sys2Proof.Machine

/-! ### Elements put together -/

theorem joinElems_lt (w : Nat) (f : Nat → Nat) (n : Nat) : joinElems w f n < 2 ^ (w * n) := by
  induction n with
  | zero => exact Nat.one_pos
  | succ n ih =>
    calc joinElems w f n + f n % 2 ^ w * 2 ^ (w * n)
        < 2 ^ (w * n) + f n % 2 ^ w * 2 ^ (w * n) := Nat.add_lt_add_right ih _
      _ = (f n % 2 ^ w + 1) * 2 ^ (w * n) := by ring
      _ ≤ 2 ^ w * 2 ^ (w * n) := Nat.mul_le_mul_right _ (Nat.mod_lt _ (Nat.two_pow_pos w))
      _ = 2 ^ (w * (n + 1)) := by rw [← Nat.pow_add]; congr 1; ring

/-- What stands above an element does not change it. -/
theorem elem_add_above {w j n : Nat} (h : j < n) (x c : Nat) : elem (x + c * 2 ^ (w * n)) j w = elem x j w := by
  obtain ⟨k, rfl⟩ : ∃ k, n = j + 1 + k := ⟨n - (j + 1), by omega⟩
  have hpow : c * 2 ^ (w * (j + 1 + k)) = 2 ^ (w * j) * (2 ^ w * (2 ^ (w * k) * c)) := by
    rw [show w * (j + 1 + k) = w * j + w + w * k by ring, Nat.pow_add, Nat.pow_add]
    ring
  rw [elem, elem, hpow, Nat.add_mul_div_left _ _ (Nat.two_pow_pos _), Nat.add_mul_mod_self_left]

theorem elem_joinElems (w : Nat) (f : Nat → Nat) {j n : Nat} (h : j < n) : elem (joinElems w f n) j w = f j % 2 ^ w := by
  induction n with
  | zero => exact absurd h (Nat.not_lt_zero j)
  | succ n ih =>
    rw [joinElems]
    by_cases hj : j < n
    · rw [elem_add_above hj, ih hj]
    · obtain rfl : j = n := by omega
      rw [elem, Nat.add_mul_div_right _ _ (Nat.two_pow_pos _), Nat.div_eq_of_lt (joinElems_lt w f j), Nat.zero_add,
        Nat.mod_mod]

/-- A table of `k` columns kept as one list of rows. -/
theorem getD_flatMap_range {α : Type} (f : Nat → Nat → α) (d : α) {w k i j : Nat} (hi : i < w) (hj : j < k) :
    ((List.range w).flatMap fun i => (List.range k).map fun j => f i j).getD (k * i + j) d = f i j := by
  induction w with
  | zero => exact absurd hi (Nat.not_lt_zero i)
  | succ w ih =>
    have hlen : ((List.range w).flatMap fun i => (List.range k).map fun j => f i j).length = k * w := by
      simp [List.length_flatMap, Nat.mul_comm]
    rw [List.range_succ, List.flatMap_append, List.flatMap_singleton]
    by_cases hw : i < w
    · have hlt : k * i + j < k * w := by
        have := Nat.mul_le_mul_left k hw
        rw [Nat.mul_succ] at this
        omega
      rw [List.getD_append _ _ _ _ (hlen ▸ hlt), ih hw]
    · obtain rfl : i = w := by omega
      rw [List.getD_append_right _ _ _ _ (by rw [hlen]; omega), hlen, Nat.add_sub_cancel_left]
      simp [List.getD, hj]

/-! ### What an operation starts -/

/-- The results of an operation on a group's lanes: element j of the number of lane i is `f i j`. -/
def State.rowResults (s : State) (g : GroupId) (f : Nat → Nat → Nat) : List (Nat × Nat) :=
  (List.range (s.width g.t)).map fun i => (i, joinElems 32 (f i) 32)

theorem State.rowResults_lanes (s : State) (g : GroupId) (f : Nat → Nat → Nat) :
    (s.rowResults g f).map (·.1) = List.range (s.width g.t) := by
  simp [State.rowResults, Function.comp_def]

theorem State.rowResults_elem (s : State) (g : GroupId) (f : Nat → Nat → Nat) {i : Nat} (hi : i < s.width g.t) {j : Nat}
    (hj : j < 32) : ∃ v, (i, v) ∈ s.rowResults g f ∧ elem v j 32 = f i j % 2 ^ 32 :=
  ⟨_, List.mem_map.2 ⟨i, List.mem_range.2 hi, rfl⟩, elem_joinElems 32 (f i) hj⟩

/-- The operation that State.startMat puts in flight for an MMA or MMAS. -/
def State.mmaOp (s : State) (g : GroupId) (vd occ : Nat) (rs : List (Nat × Nat)) : MatOp :=
  { id := s.u.uid, team := g.t, group := g.g, vd := vd, n := 32, at_ := s.u.clk + occ + 12, results := rs }

/-- C, as an operation reads it in lane i register j. -/
def State.mmaCElem (s : State) (g : GroupId) (vc i j : Nat) : Nat := (s.getV ⟨g.t, g.g, i⟩ (vc + j)).toNat

/-- The entry of PB for row i and column j after the products of some fragments (R196). -/
def State.mmaPb (s : State) (g : GroupId) (fs : List Frag) (i j : Nat) : XVal :=
  chunkAdd (if (s.grp g).kpos = 0 then [] else [(s.grp g).chunk.getD (32 * i + j) (.fin false 0 0)])
    (fs.flatMap fun f => f.prods i j)

/-- The effective K of an operation: the sum of its members' own (log entry 77). -/
def mmaK (fs : List Frag) : Nat := (fs.map fun f => matK f.ty f.dx f.sparse).sum

section
variable {s : State} {g : GroupId} {ty : Nat} (fs : List Frag) (vd vc occ : Nat) (r : Rnd) (sat : Bool)

/-- An operation that the chunk rule does not meet. -/
theorem State.runMma_plain (h : (s.grp g).armed = false ∨ tyScaled ty = false) :
    s.runMma g fs vd vc ty r sat occ = s.startMat (s.coreOf g) g vd 32 occ 12 (s.rowResults g fun i j =>
      if tyInt ty = true then intElem sat (s.mmaCElem g vc i j) (fs.flatMap fun f => f.prods i j)
      else roundTo fp32 r (exactSum r.mode (fp32.value (s.mmaCElem g vc i j) :: fs.flatMap fun f => f.prods i j))) :=
  if_neg fun ⟨ha, ht⟩ => by simp [ha, ht] at h

/-- The operation that completes a chunk. -/
theorem State.runMma_chunk_end (ha : (s.grp g).armed = true) (ht : tyScaled ty = true) (hk : (s.grp g).kpos + mmaK fs = 128) :
    s.runMma g fs vd vc ty r sat occ = (s.startMat (s.coreOf g) g vd 32 occ 12 (s.rowResults g fun i j =>
        chunkElem r (s.mmaPb g fs i j) ((s.grp g).sa.getD i 0).toNat (s.grp g).sb.toNat (s.mmaCElem g vc i j))).modGrp g
      fun y => { y with kpos := 0, bind := none, chunk := [] } :=
  (if_pos ⟨ha, ht⟩).trans (if_pos hk)

/-- An operation before the end of a chunk. -/
theorem State.runMma_chunk_part (ha : (s.grp g).armed = true) (ht : tyScaled ty = true)
    (hk : (s.grp g).kpos + mmaK fs ≠ 128) :
    s.runMma g fs vd vc ty r sat occ = (s.startMat (s.coreOf g) g vd 32 occ 12 []).modGrp g fun y =>
      { y with kpos := y.kpos + mmaK fs, bind := some (vd, ty)
               chunk := (List.range (s.width g.t)).flatMap fun i => (List.range 32).map fun j => s.mmaPb g fs i j } :=
  (if_pos ⟨ha, ht⟩).trans (if_neg hk)

end

/-! ### Exact sums in parts -/

theorem minExp_le (q : Int) (xs : List XVal) : minExp q xs ≤ q := by
  induction xs generalizing q with
  | nil => exact le_refl q
  | cons x xs ih =>
    cases x with
    | nan | inf b => exact ih q
    | fin b m e =>
      refine (ih _).trans ?_
      split
      · exact le_refl q
      · exact min_le_left q e

/-- What an exact sum is, in every rounding mode: a special value, a number other than zero, or a zero, whose sign alone
depends on the mode (R39). -/
theorem exactSum_cases (xs : List XVal) :
    (∀ md, exactSum md xs = .nan) ∨ (∃ b, ∀ md, exactSum md xs = .inf b) ∨
    (∃ (t q : Int), t ≠ 0 ∧ q ≤ 0 ∧ ∀ md, exactSum md xs = .fin (decide (t < 0)) t.natAbs q) ∨
    ∀ md, exactSum md xs =
      .fin ((!xs.isEmpty && xs.all XVal.isNegZero) || (decide (md = .rdn) && !xs.all XVal.isPosZero)) 0 0 := by
  unfold exactSum
  by_cases hnan : xs.any XVal.isNan = true
  · exact .inl fun md => if_pos hnan
  by_cases hboth : (xs.contains (.inf false) && xs.contains (.inf true)) = true
  · exact .inl fun md => by rw [if_neg hnan, if_pos hboth]
  by_cases hpos : xs.contains (.inf false) = true
  · exact .inr (.inl ⟨false, fun md => by rw [if_neg hnan, if_neg hboth, if_pos hpos]⟩)
  by_cases hneg : xs.contains (.inf true) = true
  · exact .inr (.inl ⟨true, fun md => by rw [if_neg hnan, if_neg hboth, if_neg hpos, if_pos hneg]⟩)
  simp only [if_neg hnan, if_neg hboth, if_neg hpos, if_neg hneg]
  by_cases ht : (xs.map fun x => x.units (minExp 0 xs)).sum = 0
  · exact .inr (.inr (.inr fun md => if_pos ht))
  · exact .inr (.inr (.inl ⟨_, _, ht, minExp_le 0 xs, fun md => if_neg ht⟩))

/-- The exact sum of one number other than zero, of units not above 1, is that number. -/
theorem exactSum_singleton (md : RMode) {t q : Int} (ht : t ≠ 0) (hq : q ≤ 0) :
    exactSum md [.fin (decide (t < 0)) t.natAbs q] = .fin (decide (t < 0)) t.natAbs q := by
  have hunits : (XVal.fin (decide (t < 0)) t.natAbs q).units q = t := by
    simp only [XVal.units, Int.sub_self, Int.toNat_zero, pow_zero, mul_one, decide_eq_true_eq]
    split <;> omega
  have hmin : minExp 0 [.fin (decide (t < 0)) t.natAbs q] = q := by simp [minExp, ht, hq]
  simp [exactSum, XVal.isNan, hmin, hunits, ht]

/-- An entry of the chunk buffer that stands for a sum of zeros keeps what the sum's sign depends on. -/
theorem exactSum_zeros (md : RMode) :
    exactSum md [.fin true 0 0] = .fin true 0 0 ∧ exactSum md [.fin false 0 0] = .fin false 0 0 ∧
      exactSum md [.fin true 0 0, .fin false 0 0] = .fin (decide (md = .rdn)) 0 0 := by
  simp [exactSum, XVal.isNan, minExp, XVal.units, XVal.isNegZero, XVal.isPosZero]

theorem chunkAddends_of_ne_zero (b : Bool) {m : Nat} (hm : m ≠ 0) (e : Int) : chunkAddends (.fin b m e) = [.fin b m e] := by
  unfold chunkAddends
  split
  · rename_i he
    exact absurd (XVal.fin.inj he).2.1 hm
  · rfl

theorem chunkAddends_ne_nil (x : XVal) : chunkAddends x ≠ [] := by
  unfold chunkAddends
  split <;> exact List.cons_ne_nil _ _

/-- The chunk buffer keeps enough of a sum to add to it exactly (R39, R196). -/
theorem exactSum_chunkAdd (md : RMode) (old ps : List XVal) (h : old.flatMap chunkAddends ++ ps ≠ []) :
    exactSum md (chunkAddends (chunkAdd old ps)) = exactSum md (old.flatMap chunkAddends ++ ps) := by
  unfold chunkAdd
  generalize old.flatMap chunkAddends ++ ps = xs at h ⊢
  obtain hs | ⟨b, hs⟩ | ⟨t, q, ht, hq, hs⟩ | hs := exactSum_cases xs
  · simp only [hs]
    rfl
  · simp only [hs]
    cases b <;> rfl
  · obtain ⟨n, hn⟩ : ∃ n, t.natAbs = n + 1 := ⟨t.natAbs - 1, by omega⟩
    have hone := exactSum_singleton md ht hq
    simp only [hs, hn] at hone ⊢
    rw [chunkAddends_of_ne_zero _ n.succ_ne_zero, hone]
  · obtain ⟨hz, hp, hu⟩ := exactSum_zeros md
    simp only [hs]
    by_cases hneg : xs.all XVal.isNegZero = true
    · simp [hneg, h, chunkAddends, hz]
    by_cases hpos : xs.all XVal.isPosZero = true
    · simp [hneg, hpos, chunkAddends, hp]
    · simp [hneg, hpos, chunkAddends, hu]

/-- Settles O34: State.runMma in its three cases, each starting one operation; and the chunk buffer's exactness. -/
theorem matrixElements : Obligations.MatrixElements := by
  unfold Obligations.MatrixElements
  refine ⟨fun s g fs vd vc ty occ r sat => ?start, fun md old ps h => exactSum_chunkAdd md old ps ?addends⟩
  case addends =>
    cases old with
    | nil => simpa using h
    | cons x old => simp [chunkAddends_ne_nil]
  case start =>
    by_cases hplain : (s.grp g).armed = false ∨ tyScaled ty = false
    · have hnot : ¬ ((s.grp g).armed = true ∧ tyScaled ty = true) := fun ⟨ha, ht⟩ => by
        simp [ha, ht] at hplain
      simp only [State.runMma_plain fs vd vc occ r sat hplain]
      exact ⟨s.mmaOp g vd occ _, rfl, rfl, rfl, rfl, rfl, rfl,
        fun _ => ⟨s.rowResults_lanes g _, fun i hi j hj => s.rowResults_elem g _ hi hj, rfl⟩,
        fun ha ht => absurd ⟨ha, ht⟩ hnot⟩
    obtain ⟨ha, ht⟩ : (s.grp g).armed = true ∧ tyScaled ty = true := by simpa using hplain
    by_cases hk : (s.grp g).kpos + mmaK fs = 128
    · simp only [State.runMma_chunk_end fs vd vc occ r sat ha ht hk]
      exact ⟨s.mmaOp g vd occ _, rfl, rfl, rfl, rfl, rfl, rfl, fun h => absurd h hplain, fun _ _ =>
        ⟨fun _ => ⟨s.rowResults_lanes g _, fun i hi j hj => s.rowResults_elem g _ hi hj,
            (State.grp_modGrp _ _ _ _).trans (if_pos rfl)⟩,
          fun h => absurd hk h, fun h hne => (State.grp_modGrp _ _ _ _).trans (if_neg hne.symm), rfl⟩⟩
    · simp only [State.runMma_chunk_part fs vd vc occ r sat ha ht hk]
      refine ⟨s.mmaOp g vd occ [], rfl, rfl, rfl, rfl, rfl, rfl, fun h => absurd h hplain, fun _ _ =>
        ⟨fun h => absurd h hk, fun _ => ⟨rfl, fun i hi j hj => ?_, ?_⟩,
          fun h hne => (State.grp_modGrp _ _ _ _).trans (if_neg hne.symm), rfl⟩⟩
      · rw [State.grp_modGrp, if_pos rfl]
        exact getD_flatMap_range _ _ hi hj
      · rw [State.grp_modGrp, if_pos rfl]
        rfl

end Sys2Proof.Machine

/-! SUPPORT. The events that wake or stop a waiting split, and the seeding of generators (R29, R147, R173, R174, R205,
R216, R217). -/

namespace Sys2Proof.Machine

/-! ### One split of the table -/

theorem State.split?_sid {s : State} {i : Nat} {p : Split} (h : s.split? i = some p) : p.sid = i := by
  simpa using List.find?_some h

/-- The split of a name after a change that keeps its name. -/
theorem State.split?_modSplit {s : State} {i : Nat} {p : Split} {f : Split → Split} (h : s.split? i = some p)
    (hf : (f p).sid = p.sid) : (s.modSplit i f).split? i = some (f p) := by
  have hp : p.sid = i := State.split?_sid h
  simp only [State.split?, State.modSplit] at h ⊢
  generalize s.x.splits = l at h
  induction l with
  | nil => cases h
  | cons q l ih =>
    by_cases hq : q.sid = i
    · obtain rfl : q = p := by simpa [hq] using h
      simp [hp, hf]
    · simp only [List.find?_cons, hq, decide_false] at h
      simpa [hq] using ih h

/-- A split of another name stays in the table as it is. -/
theorem State.mem_modSplit_of_ne {s : State} {i : Nat} {f : Split → Split} {q : Split} (h : q ∈ s.x.splits)
    (hq : q.sid ≠ i) : q ∈ (s.modSplit i f).x.splits :=
  List.mem_map.2 ⟨q, h, if_neg hq⟩

/-! ### Rounds that fail -/

/-- Clearing a round keeps DBGEN of every team. -/
theorem State.clearRound_dbgen (s : State) (r : Round) (t : Nat) : ((s.clearRound r).team t).dbgen = (s.team t).dbgen := by
  have modTeam : ∀ (f : Team → Team) (i : Nat), (∀ x, (f x).uid = x.uid ∧ (f x).dbgen = x.dbgen) →
      ((s.modTeam i f).team t).dbgen = (s.team t).dbgen := by
    intro f i hf
    simp only [State.team, State.team?, State.modTeam, List.find?_map]
    have hk : ((fun p : Team => decide (p.uid = t)) ∘ fun p => if p.uid = i then f p else p) =
        fun p => decide (p.uid = t) := by
      funext p
      by_cases h : p.uid = i <;> simp [h, hf]
    rw [hk]
    cases s.x.teams.find? fun p => decide (p.uid = t) with
    | none => rfl
    | some p => by_cases h : p.uid = i <;> simp [h, hf]
  cases r with
  | bar i => exact modTeam _ i fun x => ⟨rfl, rfl⟩
  | settleT i => exact modTeam _ i fun x => ⟨rfl, rfl⟩
  | gridsync g => rfl
  | settleG g => rfl
  | podsync j => rfl
  | settleP j => rfl

/-- A round that fails: each split that waited in it takes the fault, or with DBGEN stands before its unit again unless it
is the first of its group (R205, R219, R430). -/
theorem State.failRound_eq (s : State) (r : Round) (f : FaultInfo) :
    s.failRound r f = (s.waiters r).foldl (fun t q =>
      if (s.team q.team).dbgen = false ∨ firstHere (s.waiters r) q = true then
        t.takeFault q.sid { f with unitPc := q.parkPc } q.pc
      else t.unpark q) (s.clearRound r) := by
  simp only [State.failRound, State.failSplits]
  refine List.foldl_ext _ _ _ fun t q _ => ?_
  rw [State.clearRound_dbgen]
  cases (s.team q.team).dbgen <;> cases firstHere (s.waiters r) q <;> rfl

/-! ### The events -/

section
variable {s : State} {p : Split}

theorem exec_sleepExpiry (hp : s.split? s.u.ev.id = some p) {u : Nat} (hu : p.park = .sleep u) (hc : u ≤ s.u.clk) :
    ∃ t, exec .sleepExpiry s = .next t ∧ t.split? p.sid = some { p with park := .run } ∧
      { t with x.splits := s.x.splits } = s ∧ ∀ q ∈ s.x.splits, q.sid ≠ p.sid → q ∈ t.x.splits := by
  have hid := State.split?_sid hp
  refine ⟨_, rfl, ?_, rfl, fun q hq hne => State.mem_modSplit_of_ne hq (hid ▸ hne)⟩
  rw [hid, State.split?_modSplit hp] <;> simp [hid, hu, hc]

theorem exec_splitStarved (hp : s.split? s.u.ev.id = some p)
    (hw : p.wcount = 255 ∧ p.park = .run ∧ p.wait = false ∧ p.able ∧ (s.grp ⟨p.team, p.group⟩).halted = false) :
    ∃ t, exec .splitStarved s = .next t ∧ t.split? p.sid = some { p with wcount := 256 } ∧
      { t with x.splits := s.x.splits } = s := by
  have hid := State.split?_sid hp
  refine ⟨_, rfl, ?_, rfl⟩
  rw [hid, State.split?_modSplit hp] <;> simp [hid, hw]

theorem exec_mwaitWake (hp : s.split? s.u.ev.id = some p) (ha : p.asleep = true)
    (hw : ∃ w ∈ s.watches p, w.triggered = true) :
    exec .mwaitWake s = .next ((s.disarm p).modSplit p.sid fun x => { x with park := .run }) := by
  have hany : (s.watches p).any (·.triggered) = true := List.any_eq_true.2 hw
  simp only [exec, execMwaitWake, hp, ha, hany, Bool.and_self, if_true]
  rfl

theorem exec_mwaitTimeout (hp : s.split? s.u.ev.id = some p) {u : Nat} (hu : p.park = .mwait u) (hc : u ≤ s.u.clk) :
    exec .mwaitTimeout s = .next ((s.disarm p).modSplit p.sid fun x => { x with park := .run }) := by
  simp only [exec, execMwaitTimeout, hp, hu, hc, if_true]
  rfl

theorem exec_lateFaultDelivery (hp : s.split? s.u.ev.id = some p) {f : FaultInfo} {fs : List FaultInfo}
    (hl : p.late = f :: fs) (hb : s.atBoundary p f = true) :
    exec .lateFaultDelivery s = .next
      ((s.modSplit p.sid fun x => { x with late := fs, park := .run, wait := false }).takeFault p.sid
        { f with wordPc := some p.pc } p.pc) := by
  simp only [exec, execLateFaultDelivery, hp, hl, hb, if_true]

theorem exec_barrierStall (hp : s.split? s.u.ev.id = some p) {r : Round} (hr : s.roundAt p = some r)
    (hs : s.roundStalled r = true ∨ (s.u.ev.flag = true ∧ r.pod = true)) :
    exec .barrierStall s = .next (s.failRound r { code := BARRIER_STALL, info := r.info }) := by
  have hc : (s.roundStalled r || (s.u.ev.flag && r.pod)) = true := by simpa using hs
  simp only [exec, execBarrierStall, hp, hr, hc, if_true]

theorem exec_rngseedWrite {t g c : Nat} (h : s.u.ev.list = [t, g, c]) :
    exec .rngseedWrite s = .next (s.reseed ⟨t, g, c⟩ (BitVec.ofNat 32 s.u.ev.value)) := by
  simp only [exec, execRngseedWrite, h]

end

/-- Settles O50, one event at a time. -/
theorem wakeEvents : Obligations.WakeEvents := by
  unfold Obligations.WakeEvents
  refine ⟨fun s p hp => ⟨?sleep, ?wake, ?timeout, ?starved, ?late, ?stall⟩, fun s t g c => exec_rngseedWrite⟩
  case sleep => exact fun u hu hc => exec_sleepExpiry hp hu hc
  case wake => exact exec_mwaitWake hp
  case timeout => exact fun u hu hc => exec_mwaitTimeout hp hu hc
  case starved => exact fun h1 h2 h3 h4 h5 => exec_splitStarved hp ⟨h1, h2, h3, h4, h5⟩
  case late => exact fun f fs hl hb => exec_lateFaultDelivery hp hl hb
  case stall =>
    intro r hr hs
    rw [exec_barrierStall hp hr hs, State.failRound_eq]

end Sys2Proof.Machine

/-! SUPPORT. Decoding and encoding agree (R43 to R69): what each operand structure reads back from its own bits behind the
head of an instruction, and the round trip of instructions and prefixes. -/

namespace Sys2Proof

/-! ### Operand structures in a word -/

theorem flag_eq_iff {w lo : Nat} {b : Bool} : flag w lo = b ↔ w / 2 ^ lo % 2 = b.toNat := by
  cases b <;> simp [flag]

theorem ofNat_eq_iff {n x : Nat} {v : BitVec n} : BitVec.ofNat n x = v ↔ x % 2 ^ n = v.toNat := by
  rw [← BitVec.toNat_inj, BitVec.toNat_ofNat]

/-- Behind the head `c` of a 32-bit instruction, which holds its framing bit, major and minor, the operand bits `b` stay
between bits 6 and 28; there `read` finds the operands `o`, and the reserved fields are as `P` says. -/
def LongReads {α : Type} (read : Nat → α) (P : Nat → Prop) (c b : Nat) (o : α) : Prop :=
  b % 64 = 0 ∧ c % 2 ^ 29 + b < 2 ^ 29 ∧ read (c + b) = o ∧ P (c + b)

/-- The same behind the head of a 16-bit instruction, whose operand bits stand above bit 4. -/
def ShortReads {α : Type} (read : Nat → α) (P : Nat → Prop) (c b : Nat) (o : α) : Prop :=
  b % 32 = 0 ∧ c + b < 2 ^ 16 ∧ read (c + b) = o ∧ P (c + b)

theorem OpA.reads {c : Nat} (hc : c % 2 ^ 29 < 64) (o : OpA) :
    LongReads OpA.read (fun _ => True) c o.bits o := by
  obtain ⟨tb, ta, vb, va, vd⟩ := o
  have htb := tb.toNat_le
  have hta := ta.toNat_le
  simp only [LongReads, OpA.read, OpA.bits, OpA.mk.injEq, flag_eq_iff, ofNat_eq_iff, and_true]
  omega

theorem OpA1.reads {c : Nat} (hc : c % 2 ^ 29 < 64) (o : OpA1) :
    LongReads OpA1.read (fun w => fld w 20 7 = 0 ∧ fld w 28 1 = 0) c o.bits o := by
  obtain ⟨ta, va, vd⟩ := o
  have hta := ta.toNat_le
  simp only [LongReads, OpA1.read, OpA1.bits, OpA1.mk.injEq, flag_eq_iff, ofNat_eq_iff, fld]
  omega

theorem OpC.reads {c : Nat} (hc : c % 2 ^ 29 < 64) (o : OpC) :
    LongReads OpC.read (fun w => fld w 9 4 = 0) c o.bits o := by
  obtain ⟨tb, ta, vb, va, md⟩ := o
  have htb := tb.toNat_le
  have hta := ta.toNat_le
  simp only [LongReads, OpC.read, OpC.bits, OpC.mk.injEq, flag_eq_iff, ofNat_eq_iff, fld]
  omega

theorem OpI.reads {c : Nat} (hc : c % 2 ^ 29 < 64) (o : OpI) :
    LongReads OpI.read (fun _ => True) c o.bits o := by
  obtain ⟨imm, ta, va, vd⟩ := o
  have hta := ta.toNat_le
  simp only [LongReads, OpI.read, OpI.bits, OpI.mk.injEq, flag_eq_iff, ofNat_eq_iff, and_true]
  omega

theorem OpMovi.reads {c : Nat} (hc : c % 2 ^ 29 < 64) (o : OpMovi) :
    LongReads OpMovi.read (fun w => fld w 20 1 = 0) c o.bits o := by
  obtain ⟨imm, lo, vd⟩ := o
  simp only [LongReads, OpMovi.read, OpMovi.bits, OpMovi.mk.injEq, ofNat_eq_iff, fld]
  omega

theorem OpUnpk.reads {c : Nat} (hc : c % 2 ^ 29 < 64) (o : OpUnpk) :
    LongReads OpUnpk.read (fun w => fld w 21 6 = 0 ∧ fld w 28 1 = 0) c o.bits o := by
  obtain ⟨ta, n, va, vd⟩ := o
  have hta := ta.toNat_le
  simp only [LongReads, OpUnpk.read, OpUnpk.bits, OpUnpk.mk.injEq, flag_eq_iff, ofNat_eq_iff, fld]
  omega

theorem OpBcast.reads {c : Nat} (hc : c % 2 ^ 29 < 64) (o : OpBcast) :
    LongReads OpBcast.read (fun w => fld w 22 5 = 0 ∧ fld w 28 1 = 0) c o.bits o := by
  obtain ⟨ta, n, va, vd⟩ := o
  have hta := ta.toNat_le
  simp only [LongReads, OpBcast.read, OpBcast.bits, OpBcast.mk.injEq, flag_eq_iff, ofNat_eq_iff, fld]
  omega

theorem OpVget.reads {c : Nat} (hc : c % 2 ^ 29 < 64) (o : OpVget) :
    LongReads OpVget.read (fun w => fld w 27 2 = 0) c o.bits o := by
  obtain ⟨sel, va, vd⟩ := o
  simp only [LongReads, OpVget.read, OpVget.bits, OpVget.mk.injEq, ofNat_eq_iff, fld]
  omega

theorem OpX.reads {c : Nat} (hc : c % 2 ^ 29 < 64) (o : OpX) :
    LongReads OpX.read (fun w => fld w 12 1 = 0 ∧ fld w 19 1 = 0 ∧ fld w 26 3 = 0) c o.bits o := by
  obtain ⟨sb, sa, sd⟩ := o
  simp only [LongReads, OpX.read, OpX.bits, OpX.mk.injEq, ofNat_eq_iff, fld]
  omega

theorem OpXI.reads {c : Nat} (hc : c % 2 ^ 29 < 64) (o : OpXI) :
    LongReads OpXI.read (fun w => fld w 12 1 = 0 ∧ fld w 19 2 = 0) c o.bits o := by
  obtain ⟨imm, sa, sd⟩ := o
  simp only [LongReads, OpXI.read, OpXI.bits, OpXI.mk.injEq, ofNat_eq_iff, fld]
  omega

theorem OpSmovi.reads {c : Nat} (hc : c % 2 ^ 29 < 64) (o : OpSmovi) :
    LongReads OpSmovi.read (fun w => fld w 12 1 = 0 ∧ fld w 20 1 = 0) c o.bits o := by
  obtain ⟨imm, lo, sd⟩ := o
  simp only [LongReads, OpSmovi.read, OpSmovi.bits, OpSmovi.mk.injEq, ofNat_eq_iff, fld]
  omega

theorem OpX1.reads {c : Nat} (hc : c % 2 ^ 19 < 64) (o : OpX1) :
    LongReads OpX1.read (fun w => fld w 12 1 = 0 ∧ fld w 19 10 = fld c 19 10) c o.bits o := by
  obtain ⟨sa, sd⟩ := o
  simp only [LongReads, OpX1.read, OpX1.bits, OpX1.mk.injEq, ofNat_eq_iff, fld]
  omega

theorem OpVput.reads {c : Nat} (hc : c % 2 ^ 29 < 64) (o : OpVput) :
    LongReads OpVput.read (fun w => fld w 12 1 = 0 ∧ fld w 28 1 = 0) c o.bits o := by
  obtain ⟨ta, n, va, sd⟩ := o
  have hta := ta.toNat_le
  simp only [LongReads, OpVput.read, OpVput.bits, OpVput.mk.injEq, flag_eq_iff, ofNat_eq_iff, fld]
  omega

theorem OpFcvt.reads {c : Nat} (hc : c % 2 ^ 29 < 64) (o : OpFcvt) :
    LongReads OpFcvt.read (fun w => fld w 26 1 = 0 ∧ fld w 28 1 = 0) c o.bits o := by
  obtain ⟨ta, tgt, src, va, vd⟩ := o
  have hta := ta.toNat_le
  simp only [LongReads, OpFcvt.read, OpFcvt.bits, OpFcvt.mk.injEq, flag_eq_iff, ofNat_eq_iff, fld]
  omega

theorem OpIcvt.reads {c : Nat} (hc : c % 2 ^ 29 < 64) (o : OpIcvt) :
    LongReads OpIcvt.read (fun w => fld w 28 1 = 0) c o.bits o := by
  obtain ⟨ta, icode, fcode, va, vd⟩ := o
  have hta := ta.toNat_le
  simp only [LongReads, OpIcvt.read, OpIcvt.bits, OpIcvt.mk.injEq, flag_eq_iff, ofNat_eq_iff, fld]
  omega

theorem OpB.reads {c : Nat} (hc : c % 2 ^ 29 < 64) (o : OpB) :
    LongReads OpB.read (fun w => fld w 10 1 = 0) c o.bits o := by
  obtain ⟨join, target, sense, mreg⟩ := o
  have hsense := sense.toNat_le
  simp only [LongReads, OpB.read, OpB.bits, OpB.mk.injEq, flag_eq_iff, ofNat_eq_iff, fld]
  omega

theorem OpBI.reads {c : Nat} (hc : c % 2 ^ 29 < 64) (o : OpBI) :
    LongReads OpBI.read (fun w => fld w 6 7 = 0) c o.bits o := by
  obtain ⟨join, ta, va⟩ := o
  have hta := ta.toNat_le
  simp only [LongReads, OpBI.read, OpBI.bits, OpBI.mk.injEq, flag_eq_iff, ofNat_eq_iff, fld]
  omega

theorem OpImm.reads {c : Nat} (hc : c % 2 ^ 29 < 64) (o : OpImm) :
    LongReads OpImm.read (fun w => fld w 6 15 = 0) c o.bits o := by
  obtain ⟨imm⟩ := o
  simp only [LongReads, OpImm.read, OpImm.bits, OpImm.mk.injEq, ofNat_eq_iff, fld]
  omega

theorem OpSread.reads {c : Nat} (hc : c % 2 ^ 29 < 64) (o : OpSread) :
    LongReads OpSread.read (fun w => fld w 12 9 = 0) c o.bits o := by
  obtain ⟨num, sd⟩ := o
  simp only [LongReads, OpSread.read, OpSread.bits, OpSread.mk.injEq, ofNat_eq_iff, fld]
  omega

theorem OpSwrite.reads {c : Nat} (hc : c % 2 ^ 29 < 64) (o : OpSwrite) :
    LongReads OpSwrite.read (fun w => fld w 6 7 = 0 ∧ fld w 19 2 = 0) c o.bits o := by
  obtain ⟨num, sa⟩ := o
  simp only [LongReads, OpSwrite.read, OpSwrite.bits, OpSwrite.mk.injEq, ofNat_eq_iff, fld]
  omega

theorem OpMC.reads {c : Nat} (hc : c % 2 ^ 29 < 2 ^ 13) (o : OpMC) :
    LongReads OpMC.read (fun w => fld w 6 7 = fld c 6 7 ∧ fld w 21 1 = 0) c o.bits o := by
  obtain ⟨off, cnt, ta, va⟩ := o
  have hta := ta.toNat_le
  simp only [LongReads, OpMC.read, OpMC.bits, OpMC.mk.injEq, flag_eq_iff, ofNat_eq_iff, fld]
  omega

theorem OpVote.reads {c : Nat} (hc : c % 2 ^ 29 < 64) (o : OpVote) :
    LongReads OpVote.read (fun w => fld w 16 4 = 0 ∧ fld w 27 2 = 0) c o.bits o := by
  obtain ⟨sel, ma, vd⟩ := o
  simp only [LongReads, OpVote.read, OpVote.bits, OpVote.mk.injEq, ofNat_eq_iff, fld]
  omega

theorem OpElect.reads {c : Nat} (hc : c % 2 ^ 29 < 64) (o : OpElect) :
    LongReads OpElect.read (fun w => fld w 9 20 = 0) c o.bits o := by
  obtain ⟨md⟩ := o
  simp only [LongReads, OpElect.read, OpElect.bits, OpElect.mk.injEq, ofNat_eq_iff, fld]
  omega

theorem OpReduce.reads {c : Nat} (hc : c % 2 ^ 29 < 64) (o : OpReduce) :
    LongReads OpReduce.read (fun w => fld w 24 3 = 0 ∧ fld w 28 1 = 0) c o.bits o := by
  obtain ⟨ta, op, va, vd⟩ := o
  have hta := ta.toNat_le
  simp only [LongReads, OpReduce.read, OpReduce.bits, OpReduce.mk.injEq, flag_eq_iff, ofNat_eq_iff, fld]
  omega

theorem OpScan.reads {c : Nat} (hc : c % 2 ^ 29 < 64) (o : OpScan) :
    LongReads OpScan.read (fun w => fld w 25 2 = 0 ∧ fld w 28 1 = 0) c o.bits o := by
  obtain ⟨ta, op, va, vd⟩ := o
  have hta := ta.toNat_le
  simp only [LongReads, OpScan.read, OpScan.bits, OpScan.mk.injEq, flag_eq_iff, ofNat_eq_iff, fld]
  omega

theorem OpRank.reads {c : Nat} (hc : c % 2 ^ 29 < 64) (o : OpRank) :
    LongReads OpRank.read (fun w => fld w 16 13 = 0) c o.bits o := by
  obtain ⟨ma, vd⟩ := o
  simp only [LongReads, OpRank.read, OpRank.bits, OpRank.mk.injEq, ofNat_eq_iff, fld]
  omega

theorem OpL.reads {c : Nat} (hc : c % 2 ^ 29 < 64) (o : OpL) :
    LongReads OpL.read (fun w => fld w 21 1 = 0) c o.bits o := by
  obtain ⟨off, cnt, ta, va, vd⟩ := o
  have hta := ta.toNat_le
  simp only [LongReads, OpL.read, OpL.bits, OpL.mk.injEq, flag_eq_iff, ofNat_eq_iff, fld]
  omega

theorem OpS.reads {c : Nat} (hc : c % 2 ^ 29 < 64) (o : OpS) :
    LongReads OpS.read (fun _ => True) c o.bits o := by
  obtain ⟨off, cnt, td, ta, va, vd⟩ := o
  have htd := td.toNat_le
  have hta := ta.toNat_le
  simp only [LongReads, OpS.read, OpS.bits, OpS.mk.injEq, flag_eq_iff, ofNat_eq_iff, and_true]
  omega

theorem OpPre.reads {c : Nat} (hc : c % 2 ^ 29 < 64) (o : OpPre) :
    LongReads OpPre.read (fun w => fld w 21 5 = 0) c o.bits o := by
  obtain ⟨off, ta, va, level⟩ := o
  have hta := ta.toNat_le
  simp only [LongReads, OpPre.read, OpPre.bits, OpPre.mk.injEq, flag_eq_iff, ofNat_eq_iff, fld]
  omega

theorem OpWaitc.reads {c : Nat} (hc : c % 2 ^ 29 < 64) (o : OpWaitc) :
    LongReads OpWaitc.read (fun w => fld w 11 2 = 0 ∧ fld w 20 1 = 0) c o.bits o := by
  obtain ⟨imm, va, bySa, n⟩ := o
  have hbySa := bySa.toNat_le
  simp only [LongReads, OpWaitc.read, OpWaitc.bits, OpWaitc.mk.injEq, flag_eq_iff, ofNat_eq_iff, fld]
  omega

theorem OpMon.reads {c : Nat} (hc : c % 2 ^ 29 < 64) (o : OpMon) :
    LongReads OpMon.read (fun w => fld w 6 7 = 0 ∧ fld w 21 5 = 0) c o.bits o := by
  obtain ⟨off, ta, va⟩ := o
  have hta := ta.toNat_le
  simp only [LongReads, OpMon.read, OpMon.bits, OpMon.mk.injEq, flag_eq_iff, ofNat_eq_iff, fld]
  omega

theorem OpD.reads {c : Nat} (hc : c % 2 ^ 13 < 64) (o : OpD) :
    LongReads OpD.read (fun w => fld w 13 16 = fld c 13 16) c o.bits o := by
  obtain ⟨vd⟩ := o
  simp only [LongReads, OpD.read, OpD.bits, OpD.mk.injEq, ofNat_eq_iff, fld]
  omega

theorem OpSpcmp.reads {c : Nat} (hc : c % 2 ^ 29 < 64) (o : OpSpcmp) :
    LongReads OpSpcmp.read (fun w => fld w 28 1 = 0) c o.bits o := by
  obtain ⟨ta, sel, va, vd⟩ := o
  have hta := ta.toNat_le
  simp only [LongReads, OpSpcmp.read, OpSpcmp.bits, OpSpcmp.mk.injEq, flag_eq_iff, ofNat_eq_iff, fld]
  omega

theorem OpConsort.reads {c : Nat} (hc : c % 2 ^ 29 < 64) (o : OpConsort) :
    LongReads OpConsort.read (fun w => fld w 6 7 = 0 ∧ fld w 20 9 = 0) c o.bits o := by
  obtain ⟨va⟩ := o
  simp only [LongReads, OpConsort.read, OpConsort.bits, OpConsort.mk.injEq, ofNat_eq_iff, fld]
  omega

theorem OpFinv.reads {c : Nat} (hc : c % 2 ^ 29 < 64) (o : OpFinv) :
    LongReads OpFinv.read (fun w => fld w 6 14 = 0 ∧ fld w 27 1 = 0) c o.bits o := by
  obtain ⟨tb, vb⟩ := o
  have htb := tb.toNat_le
  simp only [LongReads, OpFinv.read, OpFinv.bits, OpFinv.mk.injEq, flag_eq_iff, ofNat_eq_iff, fld]
  omega

theorem OpSd.reads {c : Nat} (hc : c % 2 ^ 12 < 64) (o : OpSd) :
    LongReads OpSd.read (fun w => fld w 12 17 = fld c 12 17) c o.bits o := by
  obtain ⟨sd⟩ := o
  simp only [LongReads, OpSd.read, OpSd.bits, OpSd.mk.injEq, ofNat_eq_iff, fld]
  omega

theorem Op16.reads {c : Nat} (hc : c < 32) (o : Op16) :
    ShortReads Op16.read (fun _ => True) c o.bits o := by
  obtain ⟨ta, va, vd⟩ := o
  have hta := ta.toNat_le
  simp only [ShortReads, Op16.read, Op16.bits, Op16.mk.injEq, flag_eq_iff, ofNat_eq_iff, and_true]
  omega

theorem Op16I.reads {c : Nat} (hc : c < 32) (o : Op16I) :
    ShortReads Op16I.read (fun _ => True) c o.bits o := by
  obtain ⟨ta, imm, vd⟩ := o
  have hta := ta.toNat_le
  simp only [ShortReads, Op16I.read, Op16I.bits, Op16I.mk.injEq, flag_eq_iff, ofNat_eq_iff, and_true]
  omega

theorem Op16M.reads {c : Nat} (hc : c < 32) (o : Op16M) :
    ShortReads Op16M.read (fun w => fld w 15 1 = 0) c o.bits o := by
  obtain ⟨imm, vd⟩ := o
  simp only [ShortReads, Op16M.read, Op16M.bits, Op16M.mk.injEq, ofNat_eq_iff, fld]
  omega

/-! ### The decoder by its keys -/

/-- The decoder of 32-bit instructions by major `m` and minor `k`. -/
def decodeMajor (m k w : Nat) : Option Instr :=
  match m with
  | 0 => decodeIarith k w
  | 1 => decodeImult k w
  | 2 => decodeLogic k w
  | 3 => decodeShift k w
  | 4 => decodeIcmp k w
  | 5 => decodeImmed k w
  | 6 => decodeMove k w
  | 7 => decodeSarith k w
  | 8 => decodeSmisc k w
  | 9 => decodeFarith k w
  | 10 => decodeFfma k w
  | 11 => decodeFcmp k w
  | 12 => decodeSfu k w
  | 13 => decodeConvert k w
  | 14 => decodeFlow k w
  | 15 => decodeSystem k w
  | 16 => decodeGroup k w
  | 17 => decodeLd k w
  | 18 => decodeSt k w
  | 19 => decodeAtom k w
  | 20 => decodeAtomf k w
  | 21 => decodeSync k w
  | 22 => decodeDefer k w
  | 23 => decodeMatrix k w
  | 24 => decodeMatctl k w
  | 25 => decodeCopy k w
  | 26 => decodeBarrier k w
  | 27 => decodeTile k w
  | 28 => decodeFetch k w
  | 29 => decodeTask k w
  | 30 => decodeFabric k w
  | _ => none

theorem decodeLong_eq (w : Nat) : decodeLong w = decodeMajor (w / 2 % 32) (w / 2 ^ 29 % 8) w := rfl

/-- The decoder of 16-bit instructions by operation. -/
def decodeOp16 (k w : Nat) : Option Instr :=
  match k with
  | 0 => some (.mov16 (Op16.read w))
  | 1 => some (.iadd16 (Op16.read w))
  | 2 => some (.isub16 (Op16.read w))
  | 3 => some (.and16 (Op16.read w))
  | 4 => some (.or16 (Op16.read w))
  | 5 => some (.xor16 (Op16.read w))
  | 6 => some (.shl16 (Op16.read w))
  | 7 => some (.shr16 (Op16.read w))
  | 8 => some (.fadd16 (Op16.read w))
  | 9 => some (.fsub16 (Op16.read w))
  | 10 => some (.fmul16 (Op16.read w))
  | 11 => some (.fmax16 (Op16.read w))
  | 12 => some (.iaddi16 (Op16I.read w))
  | 13 => if fld w 15 1 = 0 then some (.movi16 (Op16M.read w)) else none
  | 14 => some (.ld16 (Op16.read w))
  | 15 => some (.imul16 (Op16.read w))
  | _ => none

theorem decodeShort_eq (w : Nat) : decodeShort w = decodeOp16 (w / 2 % 16) w := rfl

theorem decodeWord_short {w : Nat} {i : Instr} (h0 : w % 2 = 0) (hw : w < 2 ^ 16) (hd : decodeShort w = some i) :
    decodeWord w = .instr i 2 := by
  simp only [decodeWord, h0, if_true, Nat.mod_eq_of_lt hw, hd]

theorem decodeWord_long {w : Nat} {i : Instr} (h1 : w % 2 = 1) (hm : w / 2 % 32 ≠ 31) (hw : w < 2 ^ 32)
    (hd : decodeLong w = some i) : decodeWord w = .instr i 4 := by
  simp only [decodeWord, h1, one_ne_zero, if_false, hm, Nat.mod_eq_of_lt hw, hd]

theorem decodeWord_prefix {w : Nat} (h1 : w % 2 = 1) (hm : w / 2 % 32 = 31) (hw : w < 2 ^ 32) :
    decodeWord w = decodePrefix w := by
  simp only [decodeWord, h1, one_ne_zero, if_false, hm, if_true, Nat.mod_eq_of_lt hw]

/-! ### Instructions -/

/-- The word of an instruction fits its length and decodes to that instruction and length. -/
def RoundTrips (i : Instr) : Prop := ∀ n w, encode i = some (n, w) →
  (n = 16 ∨ n = 32) ∧ w < 2 ^ n ∧ decodeWord w = .instr i (n / 8) ∧ decodeTableWord n w = some i

theorem RoundTrips.of {i : Instr} {n w : Nat} (he : encode i = some (n, w)) (hn : n = 16 ∨ n = 32) (hw : w < 2 ^ n)
    (hd : decodeWord w = .instr i (n / 8)) : RoundTrips i := by
  intro n' w' h
  obtain ⟨rfl, rfl⟩ : n = n' ∧ w = w' := by simpa [he] using h
  exact ⟨hn, hw, hd, by simp only [decodeTableWord, Nat.mod_eq_of_lt hw, hd]⟩

/-- What can stand below the operands of a 32-bit instruction: bit 0 set, and a major outside the prefixes. -/
def longHead (c : Nat) : Bool := decide (c % 2 = 1 ∧ c / 2 % 32 ≠ 31 ∧ c < 2 ^ 32)

theorem roundTrips_long {α : Type} {f : α → Instr} {read : Nat → α} {P : Nat → Prop} {c b : Nat} {o : α}
    (he : encode (f o) = some (32, c + b)) (hc : longHead c = true) (hr : LongReads read P c b o)
    (hd : ∀ w, P w → decodeMajor (c / 2 % 32) (c / 2 ^ 29 % 8) w = some (f (read w))) : RoundTrips (f o) := by
  obtain ⟨hb, hlt, hread, hP⟩ := hr
  obtain ⟨hodd, hmajor, hc32⟩ := of_decide_eq_true hc
  have hm : (c + b) / 2 % 32 = c / 2 % 32 := by omega
  have hk : (c + b) / 2 ^ 29 % 8 = c / 2 ^ 29 % 8 := by omega
  have hw : c + b < 2 ^ 32 := by omega
  refine .of he (.inr rfl) hw (decodeWord_long (by omega) (hm ▸ hmajor) hw ?_)
  rw [decodeLong_eq, hm, hk, hd _ hP, hread]

/-- What can stand below the operands of a 16-bit instruction: bit 0 clear. -/
def shortHead (c : Nat) : Bool := decide (c % 2 = 0 ∧ c < 32)

theorem roundTrips_short {α : Type} {f : α → Instr} {read : Nat → α} {P : Nat → Prop} {c b : Nat} {o : α}
    (he : encode (f o) = some (16, c + b)) (hc : shortHead c = true) (hr : ShortReads read P c b o)
    (hd : ∀ w, P w → decodeOp16 (c / 2 % 16) w = some (f (read w))) : RoundTrips (f o) := by
  obtain ⟨hb, hlt, hread, hP⟩ := hr
  obtain ⟨heven, -⟩ := of_decide_eq_true hc
  have hm : (c + b) / 2 % 16 = c / 2 % 16 := by omega
  refine .of he (.inl rfl) hlt (decodeWord_short (by omega) hlt ?_)
  rw [decodeShort_eq, hm, hd _ hP, hread]

/-- The word of a PEERID that names a source register is none of the plain PEERID, whose wider field is 0 (R426). -/
theorem fld_wide_ne_zero {w : Nat} (h : fld w 19 10 = 2) : fld w 12 17 ≠ 0 := by
  simp only [fld] at *
  omega

/-- By operand form: without a reserved field, with one, without operands, of 16 bits, and the further forms of a minor
that has several; an event has no word. -/
theorem roundTrips (i : Instr) : RoundTrips i := by
  cases i with
  | iadd o | isub o | imin o | imax o | iminu o | imaxu o | iaddc o | iabsd o | imul o | imulh o | imulhu o
  | imad o | idot4 o | idot4u o | andB o | orB o | xorB o | andn o | orn o | xnor o | sel o | shl o | shr o
  | sar o | rol o | ror o | fshl o | bfx o | bfi o | lea o | pack o | perm o | fadd o | fsub o | fmul o
  | fmin o | fmax o | fminm o | fmaxm o | fcpys o | ffma o | ffms o | fnma o | fnms o | fdot2 o | fdot4 o
  | fscale o | shfl o | mma o | mmas o | mmad o | smxfin o | fetch o | fetchx o | fetchs o | iaddi o | andi o
  | ori o | xori o | shli o | shri o | sari o | stB8 o | stB16 o | stB32 o | stB64 o | stB128 o | stnt o
  | atomAdd o | atomMin o | atomMax o | atomAnd o | atomOr o | atomXor o | atomExch o | atomCas o
  | atomfFadd32 o | atomfFadd64 o | atomfFmin32 o | atomfFmax32 o | atomfFaddh2 o | atomfFaddb2 o | atomfInc o
  | atomfDec o | dstStore o | dstAdd o | dstFadd o | dstMin o | dstMax o | dstOr o | dstAnd o | dstAppend o =>
    exact roundTrips_long rfl rfl (o.reads (by decide)) fun _ _ => rfl
  | popc o | clz o | brev o | mov o | movhi o | frcp o | frsq o | fsqrt o | fexp2 o | flog2 o | fsin o | fcos o
  | ftanh o | fround o | fclass o | dxpack o | dxunpk o | fexpo o | matchV o | xqt o | smxacc o | fragt o
  | icmpEq o | icmpNe o | icmpLt o | icmpLe o | icmpGt o | icmpGe o | icmpLtu o | icmpGeu o | fcmpEq o
  | fcmpNe o | fcmpLt o | fcmpLe o | fcmpGt o | fcmpGe o | fcmpUn o | fcmpOrd o | movi o | unpk o | bcast o
  | vget o | sadd o | ssub o | smul o | sand o | sor o | sxor o | sshl o | sshr o | scmp o | ssar o | ssel o
  | cpy o | tcpy o | tcpym o | tstore o | rwait o | binit o | barv o | bwait o | btest o | bexpect o | tacq o
  | tsplit o | tmerge o | launchCmd o | rshard o | saddi o | smovhi o | smovi o | smov o | rpush o | rpop o
  | binval o | tmint o | tfree o | trel o | tstat o | tdown o | spawn o | qstat o | rspoll o | migrate o
  | vput o | fcvt o | icvtf o | fcvti o | bra o | call o | brai o | calli o | trap o | bkpt o | sleep o
  | setfmt o | sread o | swrite o | cacheIinv o | mscale o | vote o | elect o | reduce o | scan o | rank o
  | ldB8u o | ldB8s o | ldB16u o | ldB16s o | ldB32 o | ldB64 o | ldB128 o | ldc o | prefetch o | waitc o
  | monitor o | settleL o | accz o | getfmt o | spcmp o | consort o | finv o | joinTask o | taskend o
  | peerid o =>
    exact roundTrips_long rfl rfl (o.reads (by decide)) fun _ h => if_pos h
  | ret | regang | exit | yield | rte | nop | fence | mwait | bar | gridsync | podsync | mscaleOff =>
    exact .of rfl (.inr rfl) (by decide) rfl
  | mov16 o | iadd16 o | isub16 o | and16 o | or16 o | xor16 o | shl16 o | shr16 o | fadd16 o | fsub16 o
  | fmul16 o | fmax16 o | ld16 o | imul16 o | iaddi16 o =>
    exact roundTrips_short rfl rfl (o.reads (by decide)) fun _ _ => rfl
  | movi16 o => exact roundTrips_short rfl rfl (o.reads (by decide)) fun _ h => if_pos h
  | cacheL1inv o =>
    exact roundTrips_long rfl rfl (o.reads (by decide)) fun _ h => by
      simp [decodeMajor, decodeSystem, show fld _ 6 7 = 1 from h.1, h.2]
  | cacheL2clean o =>
    exact roundTrips_long rfl rfl (o.reads (by decide)) fun _ h => by
      simp [decodeMajor, decodeSystem, show fld _ 6 7 = 2 from h.1, h.2]
  | cacheL2flush o =>
    exact roundTrips_long rfl rfl (o.reads (by decide)) fun _ h => by
      simp [decodeMajor, decodeSystem, show fld _ 6 7 = 3 from h.1, h.2]
  | settleT o =>
    exact roundTrips_long rfl rfl (o.reads (by decide)) fun _ h => by
      simp [decodeMajor, decodeSync, show fld _ 13 16 = 128 from h]
  | settleG o =>
    exact roundTrips_long rfl rfl (o.reads (by decide)) fun _ h => by
      simp [decodeMajor, decodeSync, show fld _ 13 16 = 256 from h]
  | settleP o =>
    exact roundTrips_long rfl rfl (o.reads (by decide)) fun _ h => by
      simp [decodeMajor, decodeSync, show fld _ 13 16 = 384 from h]
  | joinPoll o =>
    exact roundTrips_long rfl rfl (o.reads (by decide)) fun _ h => by
      simp [decodeMajor, decodeTask, show fld _ 12 17 = 256 from h]
  | peeridQ o =>
    exact roundTrips_long rfl rfl (o.reads (by decide)) fun _ h => by
      simp [decodeMajor, decodeFabric, h.1, fld_wide_ne_zero h.2, show fld _ 19 10 = 2 from h.2]
  | _ => nofun

/-! ### Prefixes -/

theorem decodeWord_modp (m : Modp) : decodeWord m.word = .modp m := by
  obtain ⟨sat, alt, pack, tc, vc, rnd, zi, mask⟩ := m
  have hsat := sat.toNat_le
  have halt := alt.toNat_le
  have htc := tc.toNat_le
  have hzi := zi.toNat_le
  generalize hw : Modp.word _ = w
  simp only [Modp.word] at hw
  have hread : Modp.read w = ⟨sat, alt, pack, tc, vc, rnd, zi, mask⟩ := by
    simp only [Modp.read, Modp.mk.injEq, flag_eq_iff, ofNat_eq_iff]
    omega
  have hres : fld w 26 3 = 0 ∧ fld w 9 1 = 0 := by
    simp only [fld]
    omega
  rw [decodeWord_prefix (by omega) (by omega) (by omega), decodePrefix, show w / 2 ^ 29 % 8 = 0 by omega]
  simp only [hres, and_self, if_true, hread]

theorem decodeWord_pblk {p : Pblk} (hp : p.patternOk = true) :
    decodeWord (0x2000003F + p.mask.toNat * 2 ^ 6 + p.count.toNat * 2 ^ 9 + p.pattern.toNat * 2 ^ 12) = .pblk p := by
  generalize hw : 0x2000003F + p.mask.toNat * 2 ^ 6 + p.count.toNat * 2 ^ 9 + p.pattern.toNat * 2 ^ 12 = w
  have hread : Pblk.read w = p := by
    obtain ⟨pattern, count, mask⟩ := p
    simp only at hw
    simp only [Pblk.read, Pblk.mk.injEq, ofNat_eq_iff]
    omega
  have hres : fld w 20 9 = 0 := by
    simp only [fld]
    omega
  rw [decodeWord_prefix (by omega) (by omega) (by omega), decodePrefix, show w / 2 ^ 29 % 8 = 1 by omega]
  simp only [hres, hread, hp, and_self, if_true]

theorem decodeWord_immx {p : Nat} (hp : p < 2 ^ 23) : decodeWord (0x4000003F + p * 2 ^ 6) = .immx p := by
  rw [decodeWord_prefix (by omega) (by omega) (by omega), decodePrefix,
    show (0x4000003F + p * 2 ^ 6) / 2 ^ 29 % 8 = 2 by omega]
  refine congrArg Decoded.immx ?_
  simp only [fld]
  omega

/-- Settles O1: each instruction by its operand form, and the prefixes by the fields of their words. -/
theorem decodeEncode : Obligations.DecodeEncode := by
  unfold Obligations.DecodeEncode
  exact ⟨roundTrips, decodeWord_modp, fun _ => decodeWord_pblk, fun _ => decodeWord_immx⟩

/-- Settles O2: the decoder evaluates on each of the twelve words. -/
theorem decodeWords : Obligations.DecodeWords := by
  unfold Obligations.DecodeWords
  refine ⟨?_, ?_, ?_, ?_, ?_, ?_, ?_, ?_, ?_, ?_, ?_, ?_⟩ <;> decide

end Sys2Proof

/-! SUPPORT. Majors 0x05 and 0x06: what an immediate and a move deliver (R98 to R102). -/

namespace Sys2Proof.Machine

/-- A unit that delivers an integer result element by element from va, vb and vc (R90). -/
theorem givesA_of {i : Instr} {s : State} {m : Meaning} {o : OpA} {f : Nat → Nat → Nat → Nat → Nat}
    (hm : meaningOf i s = some m) (hb : m.body s.issued = s.issued.deliverA o f) : s.GivesA i o f :=
  runsTo_writesV hm hb fun l => by
    rw [State.issued_perElem]
    rfl

/-- A unit that delivers a result element by element from va alone (R90). -/
theorem givesA1_of {i : Instr} {s : State} {m : Meaning} {o : OpA1} {f : Nat → Nat → Nat}
    (hm : meaningOf i s = some m) (hb : m.body s.issued = s.issued.deliverA1 o f) : s.GivesA1 i o f :=
  runsTo_writesV hm hb fun l => by rw [State.issued_perElem]

/-- A unit that delivers a result element by element from va and an immediate (R98). -/
theorem givesI_of {i : Instr} {s : State} {m : Meaning} {o : OpI} {f : Nat → Nat → Nat}
    (hm : meaningOf i s = some m) (hb : m.body s.issued = s.issued.deliverI o f) : s.GivesI i o f :=
  runsTo_writesV hm hb fun l => by rw [State.issued_perElem]

/-- Settles O12: each body delivers by the function its row names; what it reads of its operands and prefixes, no issue
changes. -/
theorem immediatesAndMoves : Obligations.ImmediatesAndMoves := by
  unfold Obligations.ImmediatesAndMoves
  intro s o m p q u b g
  refine ⟨givesI_of rfl rfl, givesI_of rfl rfl, givesI_of rfl rfl, givesI_of rfl rfl, givesI_of rfl rfl,
    givesI_of rfl rfl, givesI_of rfl rfl, runsTo_writesV rfl rfl fun _ => rfl, givesA1_of rfl rfl,
    runsTo_writesV rfl rfl fun _ => rfl, runsTo_writesV rfl rfl fun _ => ?lea, runsTo_writesV rfl rfl fun l => ?pack,
    runsTo_writesV rfl rfl fun _ => rfl, givesA_of rfl rfl, runsTo_writesV rfl rfl fun _ => ?bcast,
    runsTo_writesV rfl rfl fun l => ?vget⟩
  case lea =>
    rw [State.issued_getVs]
    rfl
  case pack =>
    simp only [apply_ite (s.getV (s.lane l)), apply_ite BitVec.toNat]
    rfl
  case bcast =>
    rw [State.issued_opV]
    rfl
  case vget =>
    match g.sel.toNat with
    | 0 | 1 | 2 | n + 3 => rfl

end Sys2Proof.Machine

/-! SUPPORT. The 16-bit instructions: what their 32-bit equivalents deliver without prefixes (R46 to R48). -/

namespace Sys2Proof.Machine

/-! ### A unit without prefixes -/

theorem elem_word (a : Word) : elem a.toNat 0 32 = a.toNat := by
  simp only [elem, Nat.mul_zero, Nat.pow_zero, Nat.div_one, Nat.mod_eq_of_lt (BitVec.isLt a)]

theorem joinElems_one (w : Nat) (f : Nat → Nat) : joinElems w f 1 = f 0 % 2 ^ w := by simp [joinElems]

section
variable {s : State} (hs : s.bare = true)
include hs

theorem State.modp_of_bare : s.u.iss.modp = none := by
  simp only [State.bare, Bool.and_eq_true, Option.isNone_iff_eq_none] at hs
  exact hs.1

theorem State.pack_of_bare : s.pack = 0 := by simp only [State.pack, State.modp_of_bare hs]

theorem State.regsPer_of_bare : s.regsPer = 1 := by simp [State.regsPer, State.pack_of_bare hs]

theorem State.fmt_of_bare : s.fmt = fp32 := by simp only [State.fmt, State.pack_of_bare hs]

/-- Without a MODP an instruction rounds to nearest even (R57). -/
theorem State.roundOf_of_bare (c : SliceId) : s.roundOf c = { sat8 := true } := by
  have h : s.rndCode = 0 := by simp only [State.rndCode, State.modp_of_bare hs]
  simp [State.roundOf, State.modeCode, h, Machine.modeOf]

theorem State.opV_of_bare (l r : Nat) : s.opV l r = (s.getV (s.lane l) r).toNat := by
  simp [State.opV, State.regsPer_of_bare hs, State.getVs]

/-- Without a MODP a register is one element of 32 bits (R90). -/
theorem State.perElem_of_bare (ra rb rc : Nat) (f : Nat → Nat → Nat → Nat → Nat) (l : Nat) :
    s.perElem ra rb rc f l = f 32 (s.getV (s.lane l) ra).toNat (s.getV (s.lane l) rb).toNat
      (s.getV (s.lane l) rc).toNat % 2 ^ 32 := by
  simp only [State.perElem, State.pack_of_bare hs, State.opV_of_bare hs, packShape, joinElems_one, elem_word]

end

/-! ### Delivery of one register -/

/-- What a unit delivers counts by the bits that its registers hold. -/
theorem State.WritesV.congr_mod {s t : State} {vd k : Nat} {f g : Nat → Nat} (h : s.WritesV t vd k f)
    (hfg : ∀ l, f l % 2 ^ (32 * k) = g l % 2 ^ (32 * k)) : s.WritesV t vd k g :=
  { h with result := fun l hl => (h.result l hl).trans (hfg l) }

/-- A 16-bit instruction is legal only without prefixes (R48). -/
theorem Use.bare_of_short {u : Use} {s : State} (h : (u.short s).legal = true) : s.bare = true := by
  simp only [Use.short, Bool.and_eq_true] at h
  exact h.2

/-- A 16-bit unit delivers to one register what it computes without prefixes. -/
theorem givesShort_of {i : Instr} {s : State} {m : Meaning} {vd : Nat} {g : Nat → Nat}
    (hm : meaningOf i s = some m) (hu : m.use.legal = true → s.bare = true)
    (hb : s.bare = true →
      ∃ f, m.body s.issued = .ok (s.issued.deliverAll vd 1 f) ∧ ∀ l, f l % 2 ^ 32 = g l % 2 ^ 32) :
    s.Gives i vd 1 g :=
  runsTo_of hm fun h => by
    obtain ⟨f, hf, hfg⟩ := hb (hu (State.issues_legal h))
    exact ⟨_, hf, (State.deliverAll_writesV s vd 1 f f fun _ => rfl).congr_mod hfg⟩

/-! ### The operands of a two-address form -/

theorem toNat_setWidth7 (r : BitVec 5) : (r.setWidth 7).toNat = r.toNat := BitVec.toNat_setWidth_of_le (by decide)

@[simp] theorem wideOf_va (o : Op16) : (wideOf o).va.toNat = o.vd.toNat := toNat_setWidth7 _
@[simp] theorem wideOf_vb (o : Op16) : (wideOf o).vb.toNat = o.va.toNat := toNat_setWidth7 _
@[simp] theorem wideOf_vd (o : Op16) : (wideOf o).vd.toNat = o.vd.toNat := toNat_setWidth7 _

theorem gives16_of {i : Instr} {s : State} {major : Nat} {o : Op16} {f : Word → Word → Word}
    {g : Nat → Nat → Nat} (hm : meaningOf i s = some (short2 major o g s))
    (hg : ∀ a b : Word, g a.toNat b.toNat % 2 ^ 32 = (f a b).toNat) :
    s.Gives16 i o f := by
  refine givesShort_of hm Use.bare_of_short fun hs =>
    ⟨s.perElem o.vd.toNat o.va.toNat (s.vc o.vd.toNat) fun _ a b _ => g a b, ?_, fun l => ?_⟩
  · simp only [short2, State.deliverA, wideOf_va, wideOf_vb, wideOf_vd, State.issued_regsPer, State.regsPer_of_bare hs,
      State.issued_perElem, State.issued_vc]
  · rw [State.perElem_of_bare hs, Nat.mod_mod, hg, Nat.mod_eq_of_lt (BitVec.isLt _)]

theorem gives16_shift_of {i : Instr} {s : State} {o : Op16} {f : Word → Word → Word}
    {g : Nat → Nat → Nat → Nat} {u : Use} {b : State → Res} (hm : meaningOf i s = some ⟨u.short s, b⟩)
    (hb : b s.issued = s.issued.deliverShift (wideOf o) g)
    (hg : ∀ a b : Word, g 32 a.toNat (b.toNat % 256) % 2 ^ 32 = (f a b).toNat) : s.Gives16 i o f := by
  refine givesShort_of hm Use.bare_of_short fun hs =>
    ⟨fun l => g 32 (s.getV (s.lane l) o.vd.toNat).toNat ((s.getV (s.lane l) o.va.toNat).toNat % 256) % 2 ^ 32, ?_,
      fun l => ?_⟩
  · simp only [hb, State.deliverShift, wideOf_va, wideOf_vb, wideOf_vd, State.issued_regsPer, State.regsPer_of_bare hs,
      State.issued_pack, State.pack_of_bare hs, State.issued_opV, State.opV_of_bare hs, State.issued_getV,
      State.issued_lane, packShape, joinElems_one, elem_word]
  · rw [Nat.mod_mod, hg, Nat.mod_eq_of_lt (BitVec.isLt _)]

theorem givesF16_of {i : Instr} {s : State} {o : Op16} {g : Fmt → Rnd → Nat → Nat → Nat} {f : Nat → Nat}
    (hm : meaningOf i s = some (shortF o g s))
    (hf : ∀ l, g fp32 { sat8 := true } (s.getV (s.lane l) o.vd.toNat).toNat
      (s.getV (s.lane l) o.va.toNat).toNat = f l) :
    s.Gives i o.vd.toNat 1 f := by
  refine givesShort_of hm Use.bare_of_short fun hs =>
    ⟨fun l => s.perElem o.vd.toNat o.va.toNat (s.vc o.vd.toNat) (fun _ a b _ => g fp32 { sat8 := true } a b) l, ?_,
      fun l => ?_⟩
  · simp only [shortF, State.deliverF, wideOf_va, wideOf_vb, wideOf_vd, State.issued_regsPer, State.regsPer_of_bare hs,
      State.issued_perElem, State.issued_vc, State.issued_fmt, State.fmt_of_bare hs, State.issued_roundOf,
      State.roundOf_of_bare hs]
  · simp only [State.perElem_of_bare hs, Nat.mod_mod, hf]

/-- A 16-bit unit of one source. -/
theorem gives16_one_of {i : Instr} {s : State} {major : Nat} {w : OpA1} {al : Allow} {m : Meaning} {f : Word → Word}
    {g : Nat → Nat} (hm : meaningOf i s = some m) (hu : m.use = (s.useA1 major w al).short s)
    (hb : m.body s.issued = s.issued.deliverA1 w fun _ a => g a)
    (hg : ∀ a : Word, g a.toNat % 2 ^ 32 = (f a).toNat) :
    s.Gives i w.vd.toNat 1 fun l => (f (s.getV (s.lane l) w.va.toNat)).toNat := by
  refine givesShort_of hm (hu ▸ Use.bare_of_short) fun hs =>
    ⟨s.perElem w.va.toNat w.va.toNat w.va.toNat fun _ a _ _ => g a, ?_, fun l => ?_⟩
  · rw [hb]
    simp only [State.deliverA1, State.issued_regsPer, State.regsPer_of_bare hs, State.issued_perElem]
  · rw [State.perElem_of_bare hs, Nat.mod_mod, hg, Nat.mod_eq_of_lt (BitVec.isLt _)]

theorem shiftLeft_of_shlBits (a b : Word) :
    shlBits 32 a.toNat (b.toNat % 256) % 2 ^ 32 = (a <<< (b.toNat % 256)).toNat := by
  unfold shlBits
  split
  next h => rw [BitVec.shiftLeft_eq_zero h]; rfl
  next h => rw [BitVec.toNat_shiftLeft, Nat.mod_mod, Nat.shiftLeft_eq]

theorem shiftRight_of_shrBits (a b : Word) :
    shrBits 32 a.toNat (b.toNat % 256) % 2 ^ 32 = (a >>> (b.toNat % 256)).toNat := by
  unfold shrBits
  split
  next h => rw [BitVec.ushiftRight_eq_zero h]; rfl
  next h =>
    rw [BitVec.toNat_ushiftRight, Nat.shiftRight_eq_div_pow, Nat.mod_eq_of_lt (BitVec.isLt a),
      Nat.mod_eq_of_lt (lt_of_le_of_lt (Nat.div_le_self _ _) a.isLt)]

/-- IADDI's sum wraps to the register (R47). -/
theorem wrap_add (a : Word) (k : Int) : wrap 32 ((a.toNat : Int) + k) % 2 ^ 32 = (a + BitVec.ofInt 32 k).toNat := by
  simp only [wrap, BitVec.toNat_add, BitVec.toNat_ofInt]
  omega

/-- Settles O17: without prefixes a register is one element of 32 bits, rounding is to nearest even and the format is
FP32, so each body delivers the function of the words vd and va that its row names. -/
theorem shortForms : Obligations.ShortForms := by
  unfold Obligations.ShortForms
  intro s o i m
  refine ⟨fun h => ?mov, fun h => ?movSame, gives16_of rfl fun a b => ?add, gives16_of rfl fun a b => ?sub,
    gives16_of rfl fun a b => ?and, gives16_of rfl fun a b => ?or, gives16_of rfl fun a b => ?xor,
    gives16_of rfl fun a b => ?mul, gives16_shift_of rfl rfl shiftLeft_of_shlBits,
    gives16_shift_of rfl rfl shiftRight_of_shrBits, givesF16_of rfl fun _ => rfl,
    givesF16_of rfl fun _ => rfl, givesF16_of rfl fun _ => rfl, givesF16_of rfl fun _ => rfl, ?addi,
    givesShort_of rfl id fun _ => ⟨_, rfl, fun _ => ?movi⟩,
    runsTo_accesses rfl rfl⟩
  case mov =>
    have hmov := gives16_one_of (i := .mov16 o) (s := s) (f := fun a => a) (g := fun a => a)
      (congrArg some (if_neg h)) rfl rfl fun a => Nat.mod_eq_of_lt a.isLt
    simpa only [toNat_setWidth7] using hmov
  case movSame => exact runsTo_of (congrArg some (if_pos h)) fun _ => ⟨_, rfl, rfl⟩
  case add => rw [BitVec.toNat_add]
  case sub => rw [BitVec.toNat_sub, Nat.add_comm]
  case and => rw [← BitVec.toNat_and, Nat.mod_eq_of_lt (BitVec.isLt _)]
  case or => rw [← BitVec.toNat_or, Nat.mod_eq_of_lt (BitVec.isLt _)]
  case xor => rw [← BitVec.toNat_xor, Nat.mod_eq_of_lt (BitVec.isLt _)]
  case mul => rw [BitVec.toNat_mul]
  case addi =>
    have haddi := gives16_one_of (i := .iaddi16 i) (s := s) rfl rfl rfl fun a => wrap_add a i.imm.toInt
    simpa only [toNat_setWidth7] using haddi
  case movi => rw [BitVec.toNat_ofInt]; rfl

end Sys2Proof.Machine

/-! SUPPORT. LD, ST, PREFETCH, ATOM and ATOMF at issue (R158 to R170): the memory operation of each, by
State.memBody. -/

namespace Sys2Proof.Machine

/-- A load of `size` bytes takes address, destination and counter from its operand fields, and fills `n`
registers (R161). -/
theorem State.loadOp_fields (s : State) (o : OpL) {size n : Nat} (hn : n = (size + 3) / 4) (signed : Bool) :
    let op := s.loadOp o size n signed
    op.va = o.va.toNat ∧ op.off = o.off ∧ op.dst = o.vd.toNat ∧ op.cnt = some o.cnt.toNat ∧
      op.dstN = (op.size + 3) / 4 :=
  ⟨rfl, rfl, rfl, rfl, hn⟩

/-- Settles O25: each body is State.memBody on the load's operation, whose address, destination and counter are its
operand fields. -/
theorem loads : Obligations.Loads := by
  unfold Obligations.Loads
  intro s o
  refine ⟨runsTo_mem rfl rfl, runsTo_mem rfl rfl, runsTo_mem rfl rfl, runsTo_mem rfl rfl, runsTo_mem rfl rfl,
    runsTo_mem rfl rfl, runsTo_mem rfl rfl, runsTo_mem rfl rfl, fun op hop => ?fields⟩
  case fields =>
    simp only [List.mem_cons, List.not_mem_nil, or_false] at hop
    rcases hop with rfl | rfl | rfl | rfl | rfl | rfl | rfl | rfl
    iterate 7 exact s.loadOp_fields o rfl _
    exact ⟨rfl, rfl, rfl, rfl, by simp only [ldcOp]⟩

/-- A store of `size` bytes from its `n` registers carries their contents to its location, and empties no register
(R162). -/
theorem State.storeOp_carries (s : State) (o : OpS) {size n : Nat} (hn : n = (size + 3) / 4) (stnt : Bool) :
    let op := s.storeOp o size n stnt
    op.dstN = 0 ∧ op.cnt = some o.cnt.toNat ∧
      ∀ p i, (s.accessOf op p i).data = s.getVs (s.lane p.l) o.vd.toNat ((op.size + 3) / 4) ∧
        (s.accessOf op p i).size = op.size ∧ (s.accessOf op p i).loc = p.loc :=
  ⟨rfl, rfl, fun _ _ => ⟨hn ▸ rfl, rfl, rfl⟩⟩

/-- What PREFETCH brings in, no issue changes (R167). -/
theorem meanPrefetch_body (q : OpPre) (s : State) :
    (meanPrefetch q s).body s.issued = .ok ((s.plans (prefetchOp q)).foldl
      (fun u p => u.prefetchLine q.level.toNat (s.lane p.l) p)
      (s.issued.missWalks (s.coreOf s.gid) (s.launch s.u.iss.team).asid
        ((s.plans (prefetchOp q)).filterMap LanePlan.va?))) := by
  simp only [meanPrefetch, State.issued_plans]
  rfl

/-- Settles O26: each body of a store is State.memBody on its operation, and that of PREFETCH a loop over its lanes. -/
theorem stores : Obligations.Stores := by
  unfold Obligations.Stores
  intro s o q
  refine ⟨runsTo_mem rfl rfl, runsTo_mem rfl rfl, runsTo_mem rfl rfl, runsTo_mem rfl rfl, runsTo_mem rfl rfl,
    runsTo_mem rfl rfl, fun op hop => ?fields, runsTo_of rfl fun _ => ⟨_, meanPrefetch_body q s, rfl⟩⟩
  case fields =>
    simp only [List.mem_cons, List.not_mem_nil, or_false] at hop
    rcases hop with rfl | rfl | rfl | rfl | rfl | rfl <;> exact s.storeOp_carries o rfl _

/-- Settles O27: each body is State.memBody on the atomic's operation. -/
theorem atomics : Obligations.Atomics := by
  unfold Obligations.Atomics
  intro s o
  exact ⟨runsTo_mem rfl rfl, runsTo_mem rfl rfl, runsTo_mem rfl rfl, runsTo_mem rfl rfl, runsTo_mem rfl rfl,
    runsTo_mem rfl rfl, runsTo_mem rfl rfl, runsTo_mem rfl rfl, runsTo_mem rfl rfl, runsTo_mem rfl rfl,
    runsTo_mem rfl rfl, runsTo_mem rfl rfl, runsTo_mem rfl rfl, runsTo_mem rfl rfl, runsTo_mem rfl rfl,
    runsTo_mem rfl rfl⟩

end Sys2Proof.Machine

/-! SUPPORT. Branches: the outcomes of State.branch as an instruction's (R133, R134), before and after the link is
written (R143). -/

namespace Sys2Proof.Machine

/-- Of the state in which a branch decides, behind the issue of its unit: what it decides by is as before the issue. -/
structure State.Deciding (s t : State) : Prop where
  act : t.act = s.act
  sid : t.cur.sid = t.u.iss.sid
  stackFull : ∀ out, t.stackFull out = s.stackFull out

theorem State.deciding_issued {s : State} {u : Use} (h : s.issues u = true) : s.Deciding s.issued :=
  ⟨s.issued_act, (State.issued_cur_sid h).1, fun out => by
    simp only [State.stackFull, (State.issued_cur s).1]
    rfl⟩

/-- The link leaves what a branch decides by (R143). -/
theorem State.Deciding.link {s t : State} (h : s.Deciding t) : s.Deciding t.link := by
  obtain ⟨sr, hsr⟩ := State.link_rest t
  rw [hsr]
  exact ⟨h.act, h.sid, h.stackFull⟩

/-- What an instruction that branches does from `t`: with no active lane it goes on, agreeing lanes take the split to
their outcome, and others raise DIVERGE without a join address, STACK where a mask stack would overfill, and else divide
the split (R133, R134). -/
structure State.Branches (s t : State) (i : Instr) (out : Nat → Pc) (j fall : Option Pc) : Prop where
  idle : s.act = [] → RunsTo i s fun u => u = t
  agree : ∀ q, s.act ≠ [] → (∀ l ∈ s.act, out l = q) → RunsTo i s fun u => u = t.goto q
  diverge : (∃ l ∈ s.act, ∃ m ∈ s.act, out l ≠ out m) → j = none → Runs i s →
    exec i s = .next (s.fault { code := DIVERGE })
  full : (∃ l ∈ s.act, ∃ m ∈ s.act, out l ≠ out m) → ∀ k, j = some k → s.stackFull out = true → Runs i s →
    exec i s = .next (s.fault { code := STACK })
  divide : (∃ l ∈ s.act, ∃ m ∈ s.act, out l ≠ out m) → ∀ k, j = some k → s.stackFull out = false →
    RunsTo i s fun u => u = t.split2 out k fall

theorem branches_of {i : Instr} {s t : State} {m : Meaning} {out : Nat → Pc} {j fall : Option Pc}
    (hm : meaningOf i s = some m) (hb : m.body s.issued = t.branch out j fall)
    (ht : s.issues m.use = true → s.Deciding t) : s.Branches t i out j fall := by
  have hrun : Runs i s → s.Deciding t := fun h => ht (by simpa [Runs, hm] using h)
  refine ⟨fun h => runsTo_of hm fun hu => ?idle, fun q h hq => runsTo_of hm fun hu => ?agree, fun h hj hr => ?diverge,
    fun h k hj hf hr => ?full, fun h k hj hf => runsTo_of hm fun hu => ?divide⟩
  case idle =>
    exact ⟨_, hb.trans (State.branch_none ((ht hu).act.trans h)), rfl⟩
  case agree =>
    rw [← (ht hu).act] at h hq
    exact ⟨_, hb.trans (State.branch_one h hq (ht hu).sid), rfl⟩
  case diverge =>
    rw [← (hrun hr).act] at h
    exact exec_trap hm hr (hb.trans (hj ▸ State.branch_diverge h))
  case full =>
    rw [← (hrun hr).act] at h
    refine exec_trap hm hr (hb.trans (hj ▸ (State.branch_many h (hrun hr).sid).trans ?_))
    rw [(hrun hr).stackFull, hf, if_pos rfl]
  case divide =>
    rw [← (ht hu).act] at h
    refine ⟨_, hb.trans (hj ▸ (State.branch_many h (ht hu).sid).trans ?_), rfl⟩
    rw [(ht hu).stackFull, hf]
    rfl

/-! ### BRA and CALL -/

theorem branches_bra (s : State) (o : OpB) :
    s.Branches s.issued (.bra o) (s.outB o) (s.joinB o) (some s.u.iss.nextPc) :=
  branches_of rfl rfl State.deciding_issued

theorem branches_call (s : State) (o : OpB) :
    s.Branches s.issued.link (.call o) (s.outB o) (s.joinB o) (some s.u.iss.nextPc) := by
  refine branches_of rfl ?_ fun h => (State.deciding_issued h).link
  simp only [meanCall, State.issued_outB, State.issued_joinB, State.issued_iss]

/-- Settles O19: a BRA branches from the issued state, a CALL from the one with the link written. -/
theorem directBranches : Obligations.DirectBranches := by
  unfold Obligations.DirectBranches
  intro s o
  have hbra := branches_bra s o
  have hcall := branches_call s o
  exact ⟨fun h => ⟨hbra.idle h, hcall.idle h⟩, fun q h hq => ⟨hbra.agree q h hq, hcall.agree q h hq⟩, fun h =>
    ⟨fun hj => ⟨hbra.diverge h hj, hcall.diverge h hj⟩, fun j hj =>
      ⟨fun hf => ⟨hbra.full h j hj hf, hcall.full h j hj hf⟩,
        fun hf => ⟨hbra.divide h j hj hf, hcall.divide h j hj hf⟩⟩⟩⟩

/-! ### BRAI, CALLI and RET -/

theorem meanBrai_odd {s : State} {o : OpBI} {f : FaultInfo} (h : s.oddTargets o = some f) :
    (meanBrai o s).body s.issued = .trap f := by
  simp only [meanBrai, State.issued_oddTargets, h]

theorem meanCalli_odd {s : State} {o : OpBI} {f : FaultInfo} (h : s.oddTargets o = some f) :
    (meanCalli o s).body s.issued = .trap f := by
  simp only [meanCalli, State.issued_oddTargets, h]

theorem State.oddTargets_code {s : State} {o : OpBI} {f : FaultInfo} (h : s.oddTargets o = some f) :
    f.code = MISALIGN := by
  unfold State.oddTargets at h
  split at h
  · cases h
  · cases h
    rfl

theorem branches_brai {s : State} {o : OpBI} (h : s.oddTargets o = none) :
    s.Branches s.issued (.brai o) (s.outBI o) (s.joinBI o) none := by
  refine branches_of rfl ?_ State.deciding_issued
  simp only [meanBrai, State.issued_oddTargets, h, State.issued_outBI, State.issued_joinBI]

theorem branches_calli {s : State} {o : OpBI} (h : s.oddTargets o = none) :
    s.Branches s.issued.link (.calli o) (s.outBI o) (s.joinBI o) none := by
  refine branches_of rfl ?_ fun h => (State.deciding_issued h).link
  simp only [meanCalli, State.issued_oddTargets, h, State.issued_outBI, State.issued_joinBI]

/-- RET where no slice's link is odd sends each slice to its link (R143). -/
theorem runsTo_ret {s : State} (h : ∀ c ∈ s.cur.slices, (s.linkOf c).getLsbD 0 = false) :
    RunsTo .ret s fun t => t = s.issued.divide s.u.iss.sid s.linkOf id :=
  runsTo_of rfl fun hu => by
    have hodd : s.cur.slices.filter (fun c => (s.linkOf c).getLsbD 0) = [] :=
      List.filter_eq_nil_iff.2 fun c hc => Bool.eq_false_iff.1 (h c hc)
    refine ⟨_, ?_, rfl⟩
    simp only [meanRet, (State.issued_cur s).1, State.issued_linkOf, hodd, (State.issued_cur_sid hu).1]

/-- RET of slices with an odd link (R142, R143). -/
theorem meanRet_odd {s : State} {c : Nat} {cs : List Nat}
    (h : (s.cur.slices.filter fun c => (s.linkOf c).getLsbD 0) = c :: cs) :
    (meanRet s).body s.issued = .trap
      { code := MISALIGN, addr := (s.linkOf c).toNat
        lanes := some ((c :: cs).flatMap fun c => s.sliceLanes s.u.iss.team s.u.iss.group c) } := by
  simp only [meanRet, (State.issued_cur s).1, State.issued_linkOf, h]
  rfl

/-- Settles O20: an indirect branch first looks for odd targets, and then branches as a direct one does. -/
theorem indirectBranches : Obligations.IndirectBranches := by
  unfold Obligations.IndirectBranches
  intro s o
  refine ⟨fun f hf => ⟨fun h => exec_trap rfl h (meanBrai_odd hf), fun h => exec_trap rfl h (meanCalli_odd hf),
    State.oddTargets_code hf⟩, fun hf => ?even, runsTo_ret, fun c cs h hr => exec_trap rfl hr (meanRet_odd h)⟩
  case even =>
    have hbrai := branches_brai hf
    have hcalli := branches_calli hf
    exact ⟨fun h => ⟨hbrai.idle h, hcalli.idle h⟩, fun q h hq => ⟨hbrai.agree q h hq, hcalli.agree q h hq⟩, fun h =>
      ⟨fun hj => ⟨hbrai.diverge h hj, hcalli.diverge h hj⟩, fun j hj =>
        ⟨fun hs => ⟨hbrai.full h j hj hs, hcalli.full h j hj hs⟩,
          fun hs => ⟨hbrai.divide h j hj hs, hcalli.divide h j hj hs⟩⟩⟩⟩

end Sys2Proof.Machine

/-! SUPPORT. Taking a fault under HANDLER (R217): the record is latched, and then the handler entered. -/

namespace Sys2Proof.Machine

theorem State.takeFault_handler {s : State} {p : Split} (f : FaultInfo) (next : Pc) (hp : s.split? p.sid = some p)
    (hd : (s.team p.team).dbgen = false) (hn : s.inHandler p = false) (hpol : (s.launch p.team).policy = .handler)
    (ht : (s.launch p.team).trapPc ≠ 0) :
    s.takeFault p.sid f next = (s.latchRec p (s.faultWords p f false)).enterHandler p (f.resume next)
      (BitVec.ofNat 56 (s.launch p.team).trapPc) := by
  simp only [State.takeFault, hp, hd, hn, hpol, ht, Bool.false_eq_true, if_false]

/-- What latching a record and entering the handler do together (R215, R217). -/
theorem State.latchRec_enterHandler_spec (s : State) (p : Split) (w : List Word) (resume handler : Pc) :
    let t := (s.latchRec p w).enterHandler p resume handler
    (p.slices.Nodup → ∀ c ∈ p.slices, t.slc ⟨p.team, p.group, c⟩ =
      { s.slc ⟨p.team, p.group, c⟩ with
        faultRec := w, hmode := true, epc := resume, ebCount := p.blkCount, ebPattern := p.blkPattern
        ebMask := if p.blkCount = 0 then 0 else (s.slc ⟨p.team, p.group, c⟩).blkMask
        blkMask := 0 }) ∧
    (∀ x, (∀ c ∈ p.slices, x ≠ ⟨p.team, p.group, c⟩) → t.slc x = s.slc x) ∧
    t.x.splits = s.x.splits.map (fun q => if q.sid = p.sid then
      { q with pc := handler, blkCount := 0, blkPattern := 0, waitFrom := none, park := .run } else q) ∧
    { t with r.sl := s.r.sl, x.splits := s.x.splits } = s := by
  obtain ⟨hlatched, hlother, hlrest⟩ := s.latchRec_spec p w
  obtain ⟨hentered, heother, hsplits, herest⟩ := (s.latchRec p w).enterHandler_spec p resume handler
  have hkept : (s.latchRec p w).x.splits = s.x.splits :=
    (congrArg (fun q : State => q.x.splits) hlrest :)
  refine ⟨fun hn c hc => ?_, fun x hx => (heother x hx).trans (hlother x hx), hkept ▸ hsplits, ?_⟩
  · rw [hentered hn c hc, hlatched hn c hc]
  · exact (congrArg (fun q : State => { q with r.sl := s.r.sl, x.splits := s.x.splits }) herest).trans
      (congrArg (fun q : State => { q with x.splits := s.x.splits }) hlrest)

/-- Settles O23: entry by what latching and entering do together, return by State.returnFromTrap_spec. -/
theorem handlerEntryAndReturn : Obligations.HandlerEntryAndReturn := by
  unfold Obligations.HandlerEntryAndReturn
  refine ⟨fun s p f next hp hd hn hpol ht => ?entry, fun s p hp hn _ => State.returnFromTrap_spec s p hp hn⟩
  case entry =>
    simp only [State.takeFault_handler f next hp hd hn hpol ht]
    obtain ⟨hslices, hothers, hsplits, hrest⟩ := s.latchRec_enterHandler_spec p (s.faultWords p f false) (f.resume next)
      (BitVec.ofNat 56 (s.launch p.team).trapPc)
    exact ⟨fun c hc hnd => hslices hnd c hc, hothers, hsplits, hrest⟩

end Sys2Proof.Machine

/-! SUPPORT. Turns: what a step does with the turn at the head of the agenda (R43, R44, R62, R146; log entry 1), and
what the fetch of a unit's words finds (R45, R176, R177). -/

namespace Sys2Proof.Machine

/-! ### The turn at the head of the agenda -/

theorem step_issue {s : State} {sid : Nat} {rest : List Turn} (h : s.tick.u.agenda = .issue sid :: rest) :
    step s = State.issueTurn { s.tick with u.agenda := rest } sid := by
  simp only [step, h]

theorem step_event {s : State} {i : Instr} {a : EventArg} {rest : List Turn}
    (h : s.tick.u.agenda = .event i a :: rest) (hi : encode i = none) :
    step s = exec i { s.tick with u.agenda := rest, u.ev := a } := by
  simp only [step, h, State.eventTurn, hi, Option.isSome_none, Bool.false_eq_true, if_false]

theorem State.issueTurn_eq {t : State} {sid : Nat} {p : Split} (hp : t.split? sid = some p) :
    t.issueTurn sid = if t.ready p then t.issueSplit p else .next t := by
  simp only [State.issueTurn, hp]

section
variable {t : State} {p : Split}

theorem State.issueSplit_run {i : Instr} {u : IssueUnit} {v : State} (h : t.front p = .run i u v) :
    t.issueSplit p = andThen (exec i (v.take p u)) fun x => x.settleUnit t p u.pblk := by
  simp only [State.issueSplit, h]

theorem State.issueSplit_illegal {a w : Pc} {v : State} (h : t.front p = .illegal a w v) :
    t.issueSplit p = .next (((v.take p { unitPc := a, wordPc := w, nextPc := a }).fault
      { code := ILLEGAL_OP, wordPc := some w }).finishStep p) := by
  simp only [State.issueSplit, h]

theorem State.issueSplit_hold {u w : Pc} {c a : Nat} (h : t.front p = .hold u c a w) :
    t.issueSplit p = .next (if c = POISON then t.poisonFetch p u a w else t.holdFetch p u c a w) := by
  simp only [State.issueSplit, h]

theorem State.issueSplit_wait (h : t.front p = .wait) : t.issueSplit p = .next (t.waitFetch p) := by
  simp only [State.issueSplit, h]

end

/-! ### The words of a unit -/

/-- An instruction word alone is a unit (R44). -/
theorem State.front_instr {s v : State} {p : Split} {i : Instr} {n : Nat}
    (h : s.fetchWord (s.coreOf ⟨p.team, p.group⟩) (s.launch p.team).asid (s.launch p.team).chain p.pc.toNat 0 =
      .word (.instr i n) v) :
    s.front p = .run i { unitPc := p.pc, wordPc := p.pc, nextPc := p.pc + BitVec.ofNat 56 n } v := by
  simp only [State.front, State.readUnit, h]

theorem State.fetchWord_short {s v : State} {core asid chain a i h : Nat}
    (hf : s.fetchHalf core asid chain a (2 * i) = .half h v) (he : h % 2 = 0) :
    s.fetchWord core asid chain a i = .word (decodeWord h) v := by
  simp only [State.fetchWord, hf, he, if_true]

theorem State.fetchWord_long {s v z : State} {core asid chain a i h k : Nat}
    (hf : s.fetchHalf core asid chain a (2 * i) = .half h v) (ho : h % 2 = 1)
    (hg : v.fetchHalf core asid chain ((a + 2) % 2 ^ 56) (2 * i + 1) = .half k z) :
    s.fetchWord core asid chain a i = .word (decodeWord (h + 2 ^ 16 * k)) z := by
  simp only [State.fetchWord, hf, ho, hg, one_ne_zero, if_false]

/-! ### A halfword -/

/-- What a fetch finds of a page that no migration holds: translated and executable, it is read once its line is under
the page's key and its walks are noted. -/
def State.fetchFrom (s : State) (core asid a : Nat) (lf : Leaf) : State :=
  (if inHost (lf.pa a) = true then s else s.rekey (s.locOf lf (lf.pa a)) (lf.pa a) lf.key).missWalks core asid [a]

/-- A halfword that no instruction cache holds is memory's, or POISON (R45, R177). -/
theorem State.fetchHalf_uncached {s : State} {core asid chain a i : Nat} {lf : Leaf}
    (ht : s.translate core asid a (64 + 2 * i) = some lf) (hx : lf.x = true) (hm : s.migHeld core asid lf a = false)
    (hc : s.fetchCached lf (lf.pa a) = false ∨ (s.fetchFrom core asid a lf).snapOf
      (Holder.icache core asid (lf.pa a / 128 * 128)) (s.locOf lf (lf.pa a) / 128) = none) :
    let loc := s.locOf lf (lf.pa a)
    let v := s.fetchFrom core asid a lf
    let w := v.fetchTouch core asid chain lf (lf.pa a) loc
    s.fetchHalf core asid chain a i =
      if v.poisoned loc 2 || v.retiredAt lf (lf.pa a) then .hold POISON a
      else .half (v.load loc 2) (if s.fetchCached lf (lf.pa a) then
        w.keepCopy (Holder.icache core asid (lf.pa a / 128 * 128)) (loc / 128) else w) := by
  have hnone : ((s.fetchFrom core asid a lf).snapOf (Holder.icache core asid (lf.pa a / 128 * 128))
      (s.locOf lf (lf.pa a) / 128)).filter (fun _ => s.fetchCached lf (lf.pa a)) = none := by
    rcases hc with hc | hc
    · simp [hc]
    · rw [hc]
      rfl
  unfold State.fetchFrom at hnone ⊢
  simp only [State.fetchHalf, ht, hx, hm, hnone, Bool.not_true, Bool.false_eq_true, if_false]

/-- Settles O3: a step takes the turn at the head of the agenda, which goes by what the front finds at the
split's PC. -/
theorem stepRunsDecoded : Obligations.StepRunsDecoded := by
  unfold Obligations.StepRunsDecoded
  refine ⟨fun s sid rest p hs => ?turn, fun s p i n v => State.front_instr, fun s v core asid chain a i h hf =>
    ⟨State.fetchWord_short hf, fun k z ho hg => State.fetchWord_long hf ho hg⟩,
    fun s core asid chain a i lf ht hx hm => ?half, fun s i a rest => step_event⟩
  case turn =>
    intro t hp
    have hturn : step s = if t.ready p then t.issueSplit p else .next t := (step_issue hs).trans (State.issueTurn_eq hp)
    refine ⟨fun hr => hturn.trans (if_neg (Bool.eq_false_iff.1 hr)), fun hr => ?ready⟩
    case ready =>
      have hstep : step s = t.issueSplit p := hturn.trans (if_pos hr)
      exact ⟨fun i u v hf => hstep.trans (State.issueSplit_run hf),
        fun a w v hf => hstep.trans (State.issueSplit_illegal hf),
        fun u c a w hf => ⟨fun hc => hstep.trans ((State.issueSplit_hold hf).trans (by rw [if_neg hc])),
          fun hc => hstep.trans ((State.issueSplit_hold hf).trans (by rw [if_pos hc]))⟩,
        fun hf => hstep.trans (State.issueSplit_wait hf)⟩
  case half =>
    intro loc v w c hc
    have hf := State.fetchHalf_uncached (chain := chain) ht hx hm hc
    exact ⟨fun hb => hf.trans (if_pos hb), fun hb => hf.trans (if_neg (Bool.eq_false_iff.1 hb))⟩

end Sys2Proof.Machine

/-! SUPPORT. The checks of an issue unit in their order (R69, R70, R82, R137, R148, R181, R203), and the operand
rules that its legality holds (R52, R55). -/

namespace Sys2Proof.Machine

/-! ### The checks in order -/

theorem joinFirst_eq (major : Nat) : joinFirst major = (decide (major = 0x17) || decide (major = 0x18)) :=
  Bool.decide_or ..

/-- Every condition of readiness but that of the checked reads holds (R82, R146, R186, R328). -/
def State.mayGo (s : State) (p : Split) (u : Use) : Bool :=
  u.ready && s.pendFree u && (!gatedByFence u.major || s.fenceDone p) && !s.destEmpty u

/-- What a branch that stands at a JOIN raises: the MISALIGN of its target, or DIVERGE (R137, R142). -/
def joinFault (r : Res) : FaultInfo :=
  match r with
  | .trap f => if f.code = MISALIGN then f else { code := DIVERGE, info := 1 }
  | _ => { code := DIVERGE, info := 1 }

theorem joinFault_code (r : Res) :
    (joinFault r).code = MISALIGN ∨ (joinFault r).code = DIVERGE ∧ (joinFault r).info = 1 := by
  cases r with
  | trap f =>
    by_cases h : f.code = MISALIGN
    · exact .inl (by simp only [joinFault, h, if_true])
    · exact .inr (by simp only [joinFault, h, if_false, and_self])
  | ok | wait | hold | fail => exact .inr ⟨rfl, rfl⟩

section
variable {s : State} {p : Split} {u : Use} {body : State → Res} (hp : s.split? s.u.iss.sid = some p)
include hp

theorem unit_illegal (hl : s.unitLegal u = false) :
    unit u body s = .next (s.fault { code := ILLEGAL_OP, wordPc := some s.u.iss.wordPc }) := by
  simp only [unit, hp, hl, Bool.not_false, if_true]

variable (hl : s.unitLegal u = true)
include hl

theorem unit_role (hr : u.roleOk s.role = false) : unit u body s = .next (s.fault { code := ROLE }) := by
  simp [unit, hp, hl, hr]

variable (hr : u.roleOk s.role = true)
include hr

theorem unit_partGroup (hg : u.partGroup = true) :
    unit u body s = .next (s.fault { code := DIVERGE, info := 2 }) := by
  simp [unit, hp, hl, hr, hg]

variable (hg : u.partGroup = false)
include hg

theorem unit_joinFirst (he : (joinFirst u.major && s.joinBreach p u) = true) :
    unit u body s = .next (s.fault { code := DIVERGE, info := 1 }) := by
  simp only [unit, hp, hl, hr, hg, he, Bool.not_true, Bool.false_eq_true, if_false, if_true]

variable (he : (joinFirst u.major && s.joinBreach p u) = false)
include he

theorem unit_waits (hw : s.mayGo p u = false) : unit u body s = .next s.waiting := by
  unfold State.mayGo at hw
  simp only [unit, hp, hl, hr, hg, he, hw, Bool.not_true, Bool.not_false, Bool.false_eq_true, if_false, if_true]

variable (hw : s.mayGo p u = true)
include hw

theorem unit_emptyRead {n : Nat} {ls : List Nat} (ht : s.trapRead u.reads = some (n, ls)) :
    unit u body s = .next (s.fault { code := EMPTY_READ, reg := n, lanes := some ls }) := by
  unfold State.mayGo at hw
  simp only [unit, hp, hl, hr, hg, he, hw, ht, Bool.not_true, Bool.false_eq_true, if_false]

variable (ht : s.trapRead u.reads = none)
include ht

/-- A JOIN without a REGANG, outside the branches (R137). -/
theorem unit_join (hj : s.joinBreach p u = true) (hm : u.major ≠ 0x0E) :
    unit u body s = .next (s.fault { code := DIVERGE, info := 1 }) := by
  have hm17 : joinFirst u.major = false := by simpa [hj] using he
  unfold State.mayGo at hw
  simp only [unit, hp, hl, hr, hg, hm17, hw, ht, hj, hm, decide_false, Bool.not_true, Bool.not_false, Bool.false_and,
    Bool.true_and, Bool.false_eq_true, if_false, if_true]

/-- A branch at a JOIN whose registers are full (R137). -/
theorem unit_joinBranch (hj : s.joinBreach p u = true) (hm : u.major = 0x0E) (hf : s.anyEmpty u.reads = false) :
    unit u body s = .next (s.fault (joinFault (body s.issued))) := by
  have hm17 : joinFirst u.major = false := by simpa [hj] using he
  unfold State.mayGo at hw
  rw [unit, hp]
  simp only [hl, hr, hg, hm17, hw, ht, hj, hf, decide_eq_true hm, if_pos hm, Bool.not_true, Bool.not_false,
    Bool.and_false, Bool.and_true, Bool.false_eq_true, if_false, if_true]
  rfl

/-- Behind them the unit waits for its registers (R82). -/
theorem unit_anyEmpty (hj : s.joinBreach p u = false ∨ u.major = 0x0E) (hf : s.anyEmpty u.reads = true) :
    unit u body s = .next s.waiting := by
  have hb : (s.joinBreach p u && !(decide (u.major = 0x0E) && s.anyEmpty u.reads)) = false := by
    rcases hj with hj | hj <;> simp [hj, hf]
  unfold State.mayGo at hw
  simp only [unit, hp, hl, hr, hg, he, hw, ht, hb, Bool.not_true, Bool.false_eq_true, if_false]
  rw [if_pos hf]

end

/-! ### Operand rules of the encodings -/

theorem floatCode_le {c : Nat} (h : (floatCode c).isSome = true) : c ≤ 5 := by
  by_contra hc
  obtain ⟨n, rfl⟩ : ∃ n, c = n + 6 := ⟨c - 6, by omega⟩
  cases h

theorem intCode_le {c : Nat} (h : (intCode c).isSome = true) : c ≤ 9 := by
  by_contra hc
  obtain ⟨n, rfl⟩ : ∃ n, c = n + 10 := ⟨c - 10, by omega⟩
  cases h

/-- A legal unit keeps the operand rules of its encoding (R52, R55). -/
theorem Instr.wf_of_legal {i : Instr} {s : State} (h : ((meaningOf i s).any fun m => m.use.legal) = true) :
    i.wf = true := by
  cases i with
  | cacheIinv o | cacheL1inv o | cacheL2clean o | cacheL2flush o | ldB8u o | ldB8s o | ldB16u o | ldB16s o | ldB32 o
  | ldc o | stB8 o | stB16 o | stB32 o | atomAdd o | atomMin o | atomMax o | atomAnd o | atomOr o | atomXor o
  | atomExch o | atomfFadd32 o | atomfFmin32 o | atomfFmax32 o | atomfFaddh2 o | atomfFaddb2 o | atomfInc o
  | atomfDec o | monitor o | dstStore o | dstAdd o | dstFadd o | dstMin o | dstMax o | dstOr o | dstAnd o | dstAppend o
  | mscale o => exact (Bool.and_eq_true_iff.1 h).2
  | ldB64 o | ldB128 o | stB64 o | stB128 o | stnt o | prefetch o | atomfFadd64 o =>
    obtain ⟨hl, hp⟩ := Bool.and_eq_true_iff.1 h
    exact Bool.and_eq_true_iff.2 ⟨hp, (Bool.and_eq_true_iff.1 hl).2⟩
  | lea o | cpy o | tcpy o | tcpym o | tstore o | fetch o | fetchx o | fetchs o | rshard o =>
    obtain ⟨hl, hb⟩ := Bool.and_eq_true_iff.1 h
    exact Bool.and_eq_true_iff.2 ⟨(Bool.and_eq_true_iff.1 hl).2, hb⟩
  | brai o | calli o | matchV o | smxacc o | bwait o | binit o | barv o | btest o | bexpect o | binval o | tsplit o
  | launchCmd o | migrate o | tmint o | rspoll o => exact (Bool.and_eq_true_iff.1 h).2
  | rpush o | rpop o => exact (Bool.and_eq_true_iff.1 (Bool.and_eq_true_iff.1 h).1).2
  | consort o => exact (Bool.and_eq_true_iff.1 h).2
  | ld16 o => exact (Bool.and_eq_true_iff.1 (Bool.and_eq_true_iff.1 h).1).1
  | smxfin o =>
    simp only [meaningOf, meanSmxfin, Option.any_some, Bool.and_eq_true] at h
    obtain ⟨⟨⟨-, hd⟩, ha⟩, hb⟩ := h
    simp only [Instr.wf, Bool.and_eq_true]
    exact ⟨⟨hd, ha⟩, hb⟩
  | mmad o =>
    simp only [meaningOf, meanMmad, State.useWide, Option.any_some, Bool.and_eq_true] at h
    obtain ⟨⟨⟨⟨-, ha⟩, hb⟩, hd⟩, -⟩ := h
    simp only [Instr.wf, Bool.and_eq_true]
    exact ⟨⟨ha, hb⟩, hd⟩
  | rwait o =>
    simp only [meaningOf, meanRwait, State.useRing, Option.any_some, Bool.and_eq_true] at h
    obtain ⟨⟨-, ha⟩, hd, hb⟩ := h
    simp only [Instr.wf, Bool.and_eq_true]
    exact ⟨⟨ha, hd⟩, hb⟩
  | atomCas o =>
    simp only [meaningOf, meanAtomCas, atomUnit, memUnit, State.useMem, Option.any_some, Bool.and_eq_true, if_true,
      aligned, decide_eq_true_eq] at h
    obtain ⟨⟨-, hd⟩, hp⟩ := h
    simp only [Instr.wf, multiple, Bool.and_eq_true, decide_eq_true_eq]
    exact ⟨hp, Nat.mod_eq_zero_of_dvd ((Nat.dvd_mul_right 2 _).trans (Nat.dvd_of_mod_eq_zero hd))⟩
  | vput o => exact (Bool.and_eq_true_iff.1 (Bool.and_eq_true_iff.1 h).1).1
  | reduce o | scan o =>
    exact (Bool.and_eq_true_iff.1 (Bool.and_eq_true_iff.1 (Bool.and_eq_true_iff.1 h).1).1).1
  | spcmp o =>
    simp only [meaningOf, meanSpcmp, Option.any_some, Bool.and_eq_true, decide_eq_true_eq] at h
    exact decide_eq_true h.2.1
  | fcvt o =>
    simp only [meaningOf, meanFcvt, State.useCvt, Option.any_some, Bool.and_eq_true, decide_eq_true_eq] at h
    obtain ⟨⟨⟨⟨⟨⟨⟨hne, hsrc⟩, htgt⟩, -⟩, -⟩, -⟩, -⟩, -⟩ := h
    exact decide_eq_true ⟨hne, floatCode_le hsrc, floatCode_le htgt⟩
  | icvtf o =>
    simp only [meaningOf, meanIcvtf, State.useCvt, Option.any_some, Bool.and_eq_true] at h
    obtain ⟨⟨⟨⟨⟨⟨hi, hf⟩, -⟩, -⟩, -⟩, -⟩, -⟩ := h
    exact decide_eq_true ⟨intCode_le hi, floatCode_le hf⟩
  | fcvti o =>
    simp only [meaningOf, meanFcvti, State.useCvt, Option.any_some, Bool.and_eq_true] at h
    obtain ⟨⟨⟨⟨⟨⟨hi, hf⟩, -⟩, -⟩, -⟩, -⟩, -⟩ := h
    exact decide_eq_true ⟨intCode_le hi, floatCode_le hf⟩
  | vget o =>
    have hsel := (Bool.and_eq_true_iff.1 h).2
    have h0 : o.sel = 0 ↔ o.sel.toNat = 0 := BitVec.toNat_inj.symm
    have hva : o.va = 0 ↔ o.va.toNat = 0 := BitVec.toNat_inj.symm
    simp only [Instr.wf, decide_eq_true_eq, h0, hva]
    split at hsel <;> simp only [decide_eq_true_eq, Bool.false_eq_true] at hsel <;> omega
  | vote o =>
    have hsel := (Bool.and_eq_true_iff.1 h).2
    have h3 : o.sel = 3 ↔ o.sel.toNat = 3 := BitVec.toNat_inj.symm
    simpa only [Instr.wf, multiple, aligned, h3] using hsel
  | waitc o =>
    have hsrc := (Bool.and_eq_true_iff.1 h).2
    simp only [Instr.wf]
    split at hsrc
    · next hs => simpa only [hs, if_true] using (Bool.and_eq_true_iff.1 hsrc).1
    · next hs => simpa only [hs, Bool.false_eq_true, if_false] using hsrc
  | mov16 o =>
    simp only [meaningOf, meanMov16, Option.any_some] at h
    simp only [Instr.wf]
    split at h
    · next hv => simpa only [hv, decide_true, Bool.true_and] using (Bool.and_eq_true_iff.1 h).2
    · next hv => simp only [hv, decide_false, Bool.false_and, Bool.not_false]
  | _ => rfl

theorem unitLegal_of_not_wf {i : Instr} {s : State} {m : Meaning} (hm : meaningOf i s = some m) (hi : i.wf = false) :
    s.unitLegal m.use = false := by
  by_contra hl
  have hu := Bool.and_eq_true_iff.1 (Bool.and_eq_true_iff.1 (Bool.eq_true_of_not_eq_false hl)).1
  have hwf : i.wf = true := Instr.wf_of_legal (s := s) (by simpa only [hm, Option.any_some] using hu.1)
  exact Bool.false_ne_true (hi.symm.trans hwf)

/-- Settles O4: every check is the next branch of `unit`, and a legal unit keeps the operand rules of its encoding. -/
theorem issueChecks : Obligations.IssueChecks := by
  intro i s m p hm hp
  have hrun : exec i s = unit m.use m.body s := exec_meaning hm
  rw [hrun]
  refine ⟨unitLegal_of_not_wf hm, unit_illegal hp, fun hl => ⟨unit_role hp hl, fun hr =>
    ⟨unit_partGroup hp hl hr, fun hg => ?_⟩⟩⟩
  simp only [← joinFirst_eq]
  refine ⟨unit_joinFirst hp hl hr hg, fun he => ⟨unit_waits hp hl hr hg he, fun hw =>
    ⟨fun n ls => unit_emptyRead hp hl hr hg he hw, fun ht => ⟨unit_join hp hl hr hg he hw ht, fun hj hb hf => ?_,
      unit_anyEmpty hp hl hr hg he hw ht⟩⟩⟩⟩
  exact ⟨_, unit_joinBranch hp hl hr hg he hw ht hj hb hf, joinFault_code _⟩

end Sys2Proof.Machine

/-! SUPPORT. Mask registers: what the latch of a PBLK keeps of one, and what a write of one lane's bit leaves alone
(R62, R84). -/

namespace Sys2Proof.Machine

/-- The latch of one slice writes no mask register, so every slice latches the mask of the state before the PBLK (R62). -/
theorem State.foldl_latch_eq (s : State) (tm g n : Nat) (cs : List Nat) (t : State) (h : t.getM = s.getM) :
    cs.foldl (fun (u : State) c => u.modSlc ⟨tm, g, c⟩ fun x => { x with blkMask := u.getM ⟨tm, g, c⟩ n }) t =
      cs.foldl (fun (u : State) c => u.modSlc ⟨tm, g, c⟩ fun x => { x with blkMask := s.getM ⟨tm, g, c⟩ n }) t := by
  induction cs generalizing t with
  | nil => rfl
  | cons a cs ih =>
    simp only [List.foldl_cons, h]
    exact ih _ h

/-- A PBLK latches in each slice of the split that slice's own mask register (R62, R84). -/
theorem State.latch_blkMask (s : State) (p : Split) (k : Pblk) (hp : p.slices.Nodup) {d : Nat} (hd : d ∈ p.slices) :
    ((s.latch p (some k)).slc ⟨p.team, p.group, d⟩).blkMask = s.getM ⟨p.team, p.group, d⟩ k.mask.toNat := by
  obtain ⟨hlatched, -, -⟩ := State.foldSlc p.team p.group
    (fun c x => { x with blkMask := s.getM ⟨p.team, p.group, c⟩ k.mask.toNat }) p.slices s
  rw [← State.foldl_latch_eq s p.team p.group k.mask.toNat p.slices s rfl] at hlatched
  exact congrArg Slice.blkMask (hlatched hp d hd)

/-- Without a block the effective mask is that of the MODP's mask register (R61). -/
theorem State.emask_of_cond_none {s : State} (h : s.u.iss.cond = none) (j : Nat) :
    s.emask j = (decide (j ∈ s.act) && maskBit (s.getM (s.slice (j / 4)) s.maskReg) (j % 4)) := by
  simp only [State.emask, State.maskOk, h, Bool.and_true]

/-- Under a block the latched mask must also agree with the block's condition (R61, R62). -/
theorem State.emask_of_cond_some {s : State} {v : Bool} (h : s.u.iss.cond = some v) (j : Nat) :
    s.emask j = (decide (j ∈ s.act) && (maskBit (s.getM (s.slice (j / 4)) s.maskReg) (j % 4) &&
      (maskBit (s.slc (s.slice (j / 4))).blkMask (j % 4) == v))) := by
  simp only [State.emask, State.maskOk, h]

/-- A write of one lane's bit keeps every other mask register, the same register of other slices included (R84). -/
theorem State.getM_setMBit_other (s : State) (l : LaneId) (n : Nat) (b : Bool) {d : SliceId} {k : Nat}
    (h : (d, k) ≠ (l.slice, n)) : (s.setMBit l n b).getM d k = s.getM d k := by
  by_cases hn : n = 0
  · subst hn
    rfl
  · rw [State.setMBit, State.getM_setM _ _ _ _ _ _ hn, if_neg h.symm]

/-- Settles O7: reads after writes by the register's laws, and the readers by their definitions; a PBLK latches slice by
slice what no latch changes. -/
theorem maskRegisters : Obligations.MaskRegisters := by
  unfold Obligations.MaskRegisters
  intro s c l n b m
  refine ⟨⟨State.getM_zero s c, State.setM_zero s c m, rfl⟩, fun hn => ⟨?whole, ?bit, fun i hi hne => ?otherBits,
      fun d k => State.getM_setMBit_other s l n b⟩, State.emask_of_cond_none,
    fun p k hp d hd => State.latch_blkMask s p k hp hd, fun v => State.emask_of_cond_some, fun o j => rfl⟩
  case whole => rw [State.getM_setM _ _ _ _ _ _ hn, if_pos rfl]
  case bit => rw [State.getM_setMBit _ _ _ _ _ _ _ (Nat.mod_lt _ (by decide)), if_pos ⟨hn, rfl, rfl, rfl⟩]
  case otherBits => rw [State.getM_setMBit _ _ _ _ _ _ _ hi, if_neg fun ⟨_, _, _, h⟩ => hne h]

end Sys2Proof.Machine

/-! SUPPORT. Majors 0x00 to 0x04 and 0x0B: what the integer, bitwise, shift and compare units deliver (R90 to R97,
R115). -/

namespace Sys2Proof.Machine

/-- A unit that delivers a shift element by element (R92). -/
theorem givesShift_of {i : Instr} {s : State} {m : Meaning} {o : OpA} {f : Nat → Nat → Nat → Nat}
    (hm : meaningOf i s = some m) (hb : m.body s.issued = s.issued.deliverShift o f) : s.GivesShift i o f :=
  runsTo_writesV hm hb fun l => by
    rw [State.issued_opV]
    rfl

/-- A unit that delivers the truth of a comparison to a mask register (R97, R115). -/
theorem givesC_of {i : Instr} {s : State} {m : Meaning} {o : OpC} {f : Nat → Nat → Bool}
    (hm : meaningOf i s = some m) (hb : m.body s.issued = s.issued.deliverC o f) : s.GivesC i o f :=
  runsTo_writesM hm hb fun l => by rw [State.issued_opV]

/-- Settles O8: the body of each unit delivers element by element the function its row names. -/
theorem integerArithmetic : Obligations.IntegerArithmetic := by
  unfold Obligations.IntegerArithmetic
  intro s o
  exact ⟨givesA_of rfl rfl, givesA_of rfl rfl, givesA_of rfl rfl, givesA_of rfl rfl, givesA_of rfl rfl,
    givesA_of rfl rfl, givesA_of rfl rfl, givesA_of rfl rfl⟩

/-- Settles O9: the six of three operands by givesA_of, POPC and CLZ, of one source, by givesA1_of. -/
theorem integerMultiply : Obligations.IntegerMultiply := by
  unfold Obligations.IntegerMultiply
  intro s o p
  exact ⟨givesA_of rfl rfl, givesA_of rfl rfl, givesA_of rfl rfl, givesA_of rfl rfl, givesA_of rfl rfl,
    givesA_of rfl rfl, givesA1_of rfl rfl, givesA1_of rfl rfl⟩

/-- Settles O10: the five shifts, whose amount is one register under every packing, by givesShift_of, the others by the
delivery of their form. -/
theorem logicAndShift : Obligations.LogicAndShift := by
  unfold Obligations.LogicAndShift
  intro s o p
  exact ⟨givesA_of rfl rfl, givesA_of rfl rfl, givesA_of rfl rfl, givesA_of rfl rfl, givesA_of rfl rfl,
    givesA_of rfl rfl, givesA_of rfl rfl, givesA1_of rfl rfl, givesShift_of rfl rfl, givesShift_of rfl rfl,
    givesShift_of rfl rfl, givesShift_of rfl rfl, givesShift_of rfl rfl, givesA_of rfl rfl, givesA_of rfl rfl,
    givesA_of rfl rfl⟩

/-- Settles O11: each unit delivers by State.deliverMask the condition its minor selects, which for GT and GE is that of
LT and LE with the operands exchanged. -/
theorem compares : Obligations.Compares := by
  unfold Obligations.Compares
  intro s o
  exact ⟨givesC_of rfl rfl, givesC_of rfl rfl, givesC_of rfl rfl, givesC_of rfl rfl, givesC_of rfl rfl,
    givesC_of rfl rfl, givesC_of rfl rfl, givesC_of rfl rfl, givesC_of rfl rfl, givesC_of rfl rfl, givesC_of rfl rfl,
    givesC_of rfl rfl, givesC_of rfl rfl, givesC_of rfl rfl, givesC_of rfl rfl, givesC_of rfl rfl⟩

end Sys2Proof.Machine

/-! SUPPORT. Majors 0x07 and 0x08: the words of SARITH, the MODP that no scalar instruction takes, and what each writes
(R83, R103 to R105). -/

namespace Sys2Proof.Machine

/-- The word of a SARITH instruction is its minor, Sb, Sa and Sd over the major (R103). -/
theorem encode_sarith {j : Instr} {o : OpX} {n : Nat} (h : encode j = some (32, n * 2 ^ 29 + 0x0F + o.bits)) :
    encode j =
      some (32, n * 2 ^ 29 + o.sb.toNat * 2 ^ 20 + o.sa.toNat * 2 ^ 13 + o.sd.toNat * 2 ^ 6 + 0x0F) := by
  have hword : n * 2 ^ 29 + 0x0F + o.bits =
      n * 2 ^ 29 + o.sb.toNat * 2 ^ 20 + o.sa.toNat * 2 ^ 13 + o.sd.toNat * 2 ^ 6 + 0x0F := by
    unfold OpX.bits
    omega
  rw [h, hword]

/-- A unit legal only without a MODP is illegal behind one, whatever else its legality asks (R63, R103). -/
theorem State.unitLegal_of_modp {s : State} {u : Use} {extra rest : Bool}
    (hu : u.legal = (extra && s.u.iss.modp.isNone && rest)) (hm : s.u.iss.modp.isSome = true) :
    s.unitLegal u = false := by
  have hnone : s.u.iss.modp.isNone = false := by rw [← Option.not_isSome, hm]; rfl
  simp only [State.unitLegal, hu, hnone, Bool.and_false, Bool.false_and]

/-- A scalar instruction behind a MODP raises ILLEGAL_OP (R63, R103). -/
theorem exec_scalar_modp {j : Instr} {s : State} {m : Meaning} {extra rest : Bool}
    (hmodp : s.u.iss.modp.isSome = true) (hsplit : (s.split? s.u.iss.sid).isSome = true)
    (hm : meaningOf j s = some m) (hu : m.use.legal = (extra && s.u.iss.modp.isNone && rest)) :
    exec j s = .next (s.fault { code := ILLEGAL_OP, wordPc := some s.u.iss.wordPc }) := by
  obtain ⟨p, hp⟩ := Option.isSome_iff_exists.1 hsplit
  exact (exec_meaning hm).trans (Meaning.run_illegal hp (State.unitLegal_of_modp hu hmodp))

/-- A unit that writes Sd in every slice from that slice's own S registers, none of which an issue changes (R83, R103). -/
theorem givesS_of {i : Instr} {s : State} {m : Meaning} {sd : Nat} {f : SliceId → Word}
    (hm : meaningOf i s = some m) (hb : m.body s.issued = s.issued.eachSlice sd f) : s.GivesS i sd f :=
  runsTo_writesS hm hb fun _ => rfl

/-- Settles O13: the words by encode_sarith, the MODP by exec_scalar_modp, and each result by the S register its unit
writes in every slice. -/
theorem scalars : Obligations.Scalars := by
  unfold Obligations.Scalars
  intro s o i m p v
  refine ⟨fun n j hj => ?words, fun hmodp hsplit => ?modp,
    givesS_of rfl rfl, givesS_of rfl rfl, givesS_of rfl rfl, givesS_of rfl rfl, givesS_of rfl rfl, givesS_of rfl rfl,
    givesS_of rfl rfl, givesS_of rfl rfl, givesS_of rfl rfl, givesS_of rfl rfl, givesS_of rfl rfl, givesS_of rfl rfl,
    givesS_of rfl rfl, givesS_of rfl rfl, givesS_of rfl rfl, givesS_of rfl rfl⟩
  case words =>
    simp only [List.mem_cons, List.not_mem_nil, or_false, Prod.mk.injEq] at hj
    rcases hj with ⟨rfl, rfl⟩ | ⟨rfl, rfl⟩ | ⟨rfl, rfl⟩ | ⟨rfl, rfl⟩ | ⟨rfl, rfl⟩ | ⟨rfl, rfl⟩ | ⟨rfl, rfl⟩ | ⟨rfl, rfl⟩ <;>
      exact encode_sarith rfl
  case modp =>
    simp only [List.forall_mem_cons]
    exact ⟨exec_scalar_modp hmodp hsplit rfl rfl, exec_scalar_modp hmodp hsplit rfl rfl, exec_scalar_modp hmodp hsplit rfl rfl,
      exec_scalar_modp hmodp hsplit rfl rfl, exec_scalar_modp hmodp hsplit rfl rfl, exec_scalar_modp hmodp hsplit rfl rfl,
      exec_scalar_modp hmodp hsplit rfl rfl, exec_scalar_modp hmodp hsplit rfl rfl, exec_scalar_modp hmodp hsplit rfl rfl,
      exec_scalar_modp hmodp hsplit rfl rfl, exec_scalar_modp hmodp hsplit rfl rfl, exec_scalar_modp hmodp hsplit rfl rfl,
      exec_scalar_modp hmodp hsplit rfl rfl, exec_scalar_modp hmodp hsplit rfl rfl, exec_scalar_modp hmodp hsplit rfl rfl,
      exec_scalar_modp hmodp hsplit rfl rfl, List.forall_mem_nil _⟩

end Sys2Proof.Machine

/-! SUPPORT. Major 0x0C: what the landing of an SFU operation's results changes, and the event that lands them (R116). -/

namespace Sys2Proof.Machine

/-- What landing an SFU operation can do (R116): write the vd of its lanes, and leave the list of those in flight. -/
theorem State.landSfu_spec (s : State) (p : SfuOp) :
    ((p.results.map (·.1)).Nodup → ∀ r ∈ p.results,
      (s.landSfu p).getV ⟨p.team, p.group, r.1⟩ p.vd = r.2 ∧ (s.landSfu p).isEmpty ⟨p.team, p.group, r.1⟩ p.vd = false) ∧
    (∀ x n, (∀ r ∈ p.results, (x, n) ≠ (⟨p.team, p.group, r.1⟩, p.vd)) →
      (s.landSfu p).getV x n = s.getV x n ∧ (s.landSfu p).isEmpty x n = s.isEmpty x n) ∧
    { s.landSfu p with r.v := s.r.v, r.ve := s.r.ve, e.sfu := s.e.sfu } = s ∧
    (s.landSfu p).e.sfu = s.e.sfu.filter fun q => decide (q.id ≠ p.id) := by
  obtain ⟨hlanded, hothers, hrest⟩ := State.landV s p.team p.group p.vd p.results
  refine ⟨hlanded, hothers, ?rest, ?inFlight⟩
  case rest => exact congrArg (fun t : State => { t with e.sfu := s.e.sfu }) hrest
  case inFlight => exact congrArg (fun t : State => t.e.sfu.filter fun q => decide (q.id ≠ p.id)) hrest

/-- SFU_RESULT lands the operation in flight that it names. -/
theorem exec_sfuResult {s : State} {p : SfuOp} (hp : s.e.sfu.find? (fun q => decide (q.id = s.u.ev.id)) = some p) :
    exec .sfuResult s = .next (s.landSfu p) := by
  change execSfuResult s = _
  simp only [execSfuResult, hp]

/-- Settles O15: the body of each unit is State.issueSfu on the function its row names, and SFU_RESULT is State.landSfu. -/
theorem sfuOperations : Obligations.SfuOperations := by
  unfold Obligations.SfuOperations
  constructor
  case left =>
    intro s o
    exact ⟨runsTo_sfu rfl rfl, runsTo_sfu rfl rfl, runsTo_sfu rfl rfl, runsTo_sfu rfl rfl, runsTo_sfu rfl rfl,
      runsTo_sfu rfl rfl, runsTo_sfu rfl rfl, runsTo_sfu rfl rfl⟩
  case right =>
    intro s p hp
    exact ⟨s.landSfu p, exec_sfuResult hp, State.landSfu_spec s p⟩

end Sys2Proof.Machine

/-! SUPPORT. The life of teams and grids (R138, R343, R344, R347, R348, R355 to R357): what each event of a controller
answers, one lemma per outcome, and what the release of a grid's teams leaves. -/

namespace Sys2Proof.Machine

/-! ### DISPATCH_STEP -/

theorem exec_dispatchStep_place {s t : State} (h : s.placeNow s.u.ev.id = some t) : exec .dispatchStep s = .next t := by
  simp only [exec, execDispatchStep, h]

theorem exec_dispatchStep_task {s : State} {k : ReadyTask} {dies : List Nat} (hn : s.placeNow s.u.ev.id = none)
    (h : s.pick s.u.ev.id = some (.task k dies)) : exec .dispatchStep s = .next (s.startTask k dies) := by
  simp only [exec, execDispatchStep, hn, h]

/-- With no team to place and no task to start, a controller looks for teams to save. -/
theorem exec_dispatchStep_preempt {s : State} (hn : s.placeNow s.u.ev.id = none)
    (h : ∀ k dies, s.pick s.u.ev.id ≠ some (.task k dies)) :
    exec .dispatchStep s = .next ((s.preemptNow s.u.ev.id).getD (s.callHeads s.u.ev.id)) := by
  simp only [exec, execDispatchStep, hn]
  cases hp : s.pick s.u.ev.id with
  | none => cases s.preemptNow s.u.ev.id <;> rfl
  | some k =>
    cases k with
    | task k dies => exact absurd hp (h k dies)
    | head q => cases s.preemptNow s.u.ev.id <;> rfl

/-! ### TEAM_SAVE -/

section
variable {s : State} {x : Team}

/-- Of the teams to be saved together, those that are over meanwhile (R357). -/
def State.savedOver (s : State) (x : Team) : List Team :=
  (s.saveUnit x).filter fun y => decide (y.status = .saving) && s.over y.uid

/-- Of the teams to be saved together, those that are not over. -/
def State.savedLive (s : State) (x : Team) : List Team := (s.saveUnit x).filter fun y => !s.over y.uid

theorem exec_teamSave_over (hx : s.team? s.u.ev.id = some x) (hs : x.status = .saving) (hg : s.savedOver x ≠ []) :
    exec .teamSave s = .next { s with
      x.teams := s.x.teams.map fun y =>
        if (s.savedOver x).any (fun z => decide (z.uid = y.uid)) then { y with status := .running } else y } := by
  have hany : (!(s.savedOver x).isEmpty) = true := by simpa using hg
  simp only [exec, execTeamSave, hx]
  exact (if_neg (not_not.2 hs)).trans (if_pos hany)

theorem exec_teamSave_live (hx : s.team? s.u.ev.id = some x) (hs : x.status = .saving) (hg : s.savedOver x = []) :
    exec .teamSave s = .next
      (if (∀ y ∈ s.savedLive x, y.status = .saving ∧ s.drained y.uid = true) ∧ s.saveRoom (s.savedLive x) = true then
        s.saveTeams ((s.savedLive x).map (·.uid)) else s) := by
  unfold State.savedOver at hg
  simp only [exec, execTeamSave, hx, hs, hg, ne_eq, not_true_eq_false, if_false, List.isEmpty_nil, Bool.not_true,
    Bool.false_eq_true, Bool.and_eq_true, List.all_eq_true, decide_eq_true_eq, State.savedLive]
  exact (apply_ite Host.Outcome.next _ _ _).symm

end

/-! ### The teams of a grid that retires -/

/-- A grid found by its name in a table where the grids of that name have changed is one that has. -/
theorem State.grid?_of_map {t : State} {l : List Grid} {f : Grid → Grid} {i : Nat} {y : Grid}
    (ht : t.x.grids = l.map fun x => if x.uid = i then f x else x) (h : t.grid? i = some y) : ∃ x, y = f x := by
  have huid : y.uid = i := by simpa using List.find?_some h
  obtain ⟨z, -, rfl⟩ := List.mem_map.1 (ht ▸ List.mem_of_find?_eq_some h)
  by_cases hz : z.uid = i
  · exact ⟨z, if_pos hz⟩
  · simp [hz] at huid

/-- Releasing a team's tenures touches nothing but tenures, requests and drains (R272). -/
theorem State.releaseTenures_rest (s : State) (team : Nat) :
    { s.releaseTenures team with e.tens := s.e.tens, e.drains := s.e.drains, e.reqs := s.e.reqs } = s := by
  have hfold : ∀ (hs : List Tenure) (t : State), { hs.foldl (fun t h => t.release h []) t with
      e.tens := t.e.tens, e.drains := t.e.drains } = t := by
    intro hs
    induction hs with
    | nil => exact fun _ => rfl
    | cons h hs ih =>
      exact fun t => congrArg (fun q : State => { q with e.tens := t.e.tens, e.drains := t.e.drains }) (ih (t.release h []))
  exact congrArg (fun q : State => { q with e.reqs := s.e.reqs }) (hfold _ s)

@[simp] theorem State.releaseTenures_x (s : State) (team : Nat) : (s.releaseTenures team).x = s.x :=
  (congrArg (fun q : State => q.x) (s.releaseTenures_rest team) :)

@[simp] theorem State.releaseTenures_m (s : State) (team : Nat) : (s.releaseTenures team).m = s.m :=
  (congrArg (fun q : State => q.m) (s.releaseTenures_rest team) :)

theorem State.dropTeam_teams (s : State) (t : Nat) :
    (s.dropTeam t).x.teams = s.x.teams.filter fun x => decide (x.uid ≠ t) := by
  simp only [State.dropTeam, State.releaseTenures_x]

theorem State.dropTeam_splits (s : State) (t : Nat) :
    (s.dropTeam t).x.splits = s.x.splits.filter fun p => decide (p.team ≠ t) := by
  simp only [State.dropTeam, State.releaseTenures_x]

theorem State.dropTeam_mem (s : State) (t : Nat) :
    (s.dropTeam t).m.mem = Memory.clear s.m.mem (locScr t 0) (locScr (t + 1) 0) := by
  simp only [State.dropTeam, State.releaseTenures_m]

/-- A forgotten range reads 0, and every other byte is as it was. -/
theorem Memory.get_clear (m : List Host.Cell) (lo hi a : Nat) :
    Memory.get (Memory.clear m lo hi) a = if lo ≤ a ∧ a < hi then 0 else Memory.get m a := by
  induction m with
  | nil => simp [Memory.clear, Memory.get]
  | cons c m ih =>
    obtain ⟨k, b⟩ := c
    simp only [Memory.clear, List.filter_cons, decide_eq_true_eq] at ih ⊢
    by_cases hk : k < lo ∨ hi ≤ k
    · simp only [hk, if_true, Memory.get, ih]
      by_cases hka : k = a
      · rw [if_pos hka, if_pos hka, if_neg (by omega)]
      · simp only [hka, if_false]
    · simp only [hk, if_false, Memory.get, ih]
      by_cases hka : k = a
      · rw [if_pos (by omega), if_pos (by omega)]
      · simp only [hka, if_false]

/-- A byte of a team's window (R155, R234). -/
def inWindow (team a : Nat) : Prop := locScr team 0 ≤ a ∧ a < locScr (team + 1) 0

/-- What forgetting a list of teams leaves: the other teams and their splits, and windows that read 0. -/
theorem State.dropTeams_spec (ts : List Nat) (s : State) :
    let t := ts.foldl (fun (u : State) x => u.dropTeam x) s
    (∀ x, x ∈ t.x.teams ↔ x ∈ s.x.teams ∧ x.uid ∉ ts) ∧ (∀ p, p ∈ t.x.splits ↔ p ∈ s.x.splits ∧ p.team ∉ ts) ∧
    ∀ a, Memory.get s.m.mem a = 0 ∨ (∃ x ∈ ts, inWindow x a) → Memory.get t.m.mem a = 0 := by
  induction ts generalizing s with
  | nil => simp
  | cons y ts ih =>
    obtain ⟨hteams, hsplits, hmem⟩ := ih (s.dropTeam y)
    simp only [List.foldl_cons]
    refine ⟨fun x => ?teams, fun p => ?splits, fun a ha => hmem a ?window⟩
    case teams =>
      rw [hteams, State.dropTeam_teams, List.mem_filter, decide_eq_true_eq, List.mem_cons, not_or, and_assoc]
    case splits =>
      rw [hsplits, State.dropTeam_splits, List.mem_filter, decide_eq_true_eq, List.mem_cons, not_or, and_assoc]
    case window =>
      rw [State.dropTeam_mem, Memory.get_clear]
      obtain hzero | ⟨x, hx, hin⟩ := ha
      · exact .inl (by rw [hzero, ite_self])
      · obtain rfl | hx := List.mem_cons.1 hx
        · exact .inl (if_pos hin)
        · exact .inr ⟨x, hx, hin⟩

/-! ### GRID_RETIRE -/

/-- The names of a grid's teams. -/
def State.teamsOf (s : State) (g : Nat) : List Nat := (s.x.teams.filter fun x => decide (x.grid = g)).map (·.uid)

/-- The state behind a grid's retirement. -/
def State.retireGrid (s : State) (g : Grid) : State :=
  let t := (s.teamsOf g.uid).foldl (fun (u : State) x => u.dropTeam x) s
  let t := (if g.chainEnd then t.demote g.launch.chain else t).modGrid g.uid fun x => { x with retired := true, chipBase := [] }
  { t with d.events := t.d.events.map fun (e : QEvent) => { e with grids := e.grids.filter fun x => decide (x ≠ g.uid) } }

theorem exec_gridRetire {s : State} {g : Grid} (hg : s.grid? s.u.ev.id = some g) (hr : s.retirable g = true) :
    exec .gridRetire s = .next (s.retireGrid g) := by
  simp only [exec, execGridRetire, hg, hr, Bool.not_true, Bool.false_eq_true, if_false]
  rfl

theorem State.mem_teamsOf {s : State} {g : Nat} {x : Team} (hx : x ∈ s.x.teams) (hg : x.grid = g) : x.uid ∈ s.teamsOf g :=
  List.mem_map.2 ⟨x, List.mem_filter.2 ⟨hx, decide_eq_true hg⟩, rfl⟩

/-- Where no two teams share a name, a team of another grid has no name of this one's. -/
theorem State.not_mem_teamsOf {s : State} {g : Nat} {x : Team} (hn : (s.x.teams.map (·.uid)).Nodup) (hx : x ∈ s.x.teams)
    (hg : x.grid ≠ g) : x.uid ∉ s.teamsOf g := by
  intro hmem
  obtain ⟨y, hy, huid⟩ := List.mem_map.1 hmem
  obtain ⟨hy, hyg⟩ := List.mem_filter.1 hy
  obtain rfl : y = x := List.inj_on_of_nodup_map hn hy hx huid
  exact hg (by simpa using hyg)

@[simp] theorem State.demote_x (s : State) (chain : Nat) : (s.demote chain).x = s.x := by
  unfold State.demote
  split <;> rfl

@[simp] theorem State.demote_m (s : State) (chain : Nat) : (s.demote chain).m = s.m := by
  unfold State.demote
  split <;> rfl

/-- Behind its teams, a grid's retirement leaves teams, splits and memory alone. -/
theorem State.retireGrid_keeps (s : State) (g : Grid) :
    let t := (s.teamsOf g.uid).foldl (fun (u : State) x => u.dropTeam x) s
    (s.retireGrid g).x.teams = t.x.teams ∧ (s.retireGrid g).x.splits = t.x.splits ∧ (s.retireGrid g).m = t.m := by
  simp only [State.retireGrid]
  split <;> simp

theorem State.retireGrid_spec (s : State) (g : Grid) :
    (∀ x, x ∈ (s.retireGrid g).x.teams ↔ x ∈ s.x.teams ∧ x.uid ∉ s.teamsOf g.uid) ∧
    (∀ p, p ∈ (s.retireGrid g).x.splits ↔ p ∈ s.x.splits ∧ p.team ∉ s.teamsOf g.uid) ∧
    (∀ x ∈ s.teamsOf g.uid, ∀ a, inWindow x a → (s.retireGrid g).load a 1 = 0) := by
  obtain ⟨hteams, hsplits, hmem⟩ := State.dropTeams_spec (s.teamsOf g.uid) s
  obtain ⟨hx, hp, hm⟩ := s.retireGrid_keeps g
  refine ⟨fun x => hx ▸ hteams x, fun p => hp ▸ hsplits p, fun x hx' a ha => ?_⟩
  simp [State.load, Memory.read, hm, hmem a (.inr ⟨x, hx', ha⟩)]

theorem State.retireGrid_grid? {s : State} {g y : Grid} (h : (s.retireGrid g).grid? g.uid = some y) :
    y.retired = true ∧ y.chipBase = [] := by
  obtain ⟨x, rfl⟩ := State.grid?_of_map rfl h
  exact ⟨rfl, rfl⟩

theorem State.retireGrid_events {s : State} {g : Grid} {e : QEvent} (h : e ∈ (s.retireGrid g).d.events) :
    g.uid ∉ e.grids := by
  obtain ⟨f, -, rfl⟩ := List.mem_map.1 h
  simp

/-! ### WATCHDOG -/

theorem exec_watchdog {s : State} {g : Grid} (hg : s.grid? s.u.ev.id = some g) (hl : g.launch.limit ≠ 0)
    (hd : g.watchdogDone = false) (hr : g.retired = false) (ha : g.aborted = false)
    (hc : g.residentFrom + g.launch.limit * 65536 ≤ s.u.clk) :
    exec .watchdog s = .next { s.modGrid g.uid fun x => { x with watchdogDone := true } with
      x.splits := s.x.splits.map fun p => if s.inGrid g.uid p.team = true then
        { p with late := p.late ++ [{ code := WATCHDOG, unitPc := p.pc, late := true }] } else p } := by
  simp only [exec, execWatchdog, hg, hd, hr, ha, Bool.not_false, State.modGrid_x_splits]
  exact if_pos ⟨hl, trivial, trivial, trivial, hc⟩

/-! ### TASK_RETIRE -/

section
variable {s : State} {x : Team} (hx : s.team? s.u.ev.id = some x) (ht : x.isTask = true) (hd : x.taskDone = false)
  (he : (s.grid x.grid).aborted = true ∨ s.over x.uid = true)
include hx ht hd he

theorem exec_taskRetire_fault {k : Nat}
    (hk : s.retireFault { core := none, die := x.die } (s.arena x.uid) x.taskBlk = some k) :
    exec .taskRetire s = .next
      ((s.modTeam x.uid fun y => { y with taskDone := true }).taskFail (s.arena x.uid) k) := by
  simp only [exec, execTaskRetire, hx, ht, hd, hk]
  exact if_pos ⟨trivial, rfl, he⟩

theorem exec_taskRetire_reached
    (hk : s.retireFault { core := none, die := x.die } (s.arena x.uid) x.taskBlk = none) :
    let w : TaskAt := { core := none, die := x.die }
    let g := s.arena x.uid
    let bs := s.retireBlocks w g x.taskBlk
    exec .taskRetire s = .next (if s.blocksClear w g bs = false then s.callBlocks w g bs else
      ((s.modTeam x.uid fun y => { y with taskDone := true }).touchBlocks w g bs).retireTask w g x.taskBlk
        (if (s.grid x.grid).aborted = true then 5 else 4)) := by
  intro w g bs
  simp only [exec, execTaskRetire, hx, ht, hd, hk, Bool.not_eq_true']
  exact (if_pos ⟨trivial, trivial, he⟩).trans (apply_ite Host.Outcome.next _ _ _).symm

end

/-- Settles O55, one event at a time. -/
theorem lifecycleEvents : Obligations.LifecycleEvents := by
  unfold Obligations.LifecycleEvents
  intro s
  refine ⟨fun t => exec_dispatchStep_place, fun k dies => exec_dispatchStep_task, fun hn h => ?preempt,
    fun x hx hs => ?save, fun g hg hr => ?retire, fun g hg hl hd hr ha hc => ?watchdog, fun x hx ht hd he => ?task⟩
  case preempt =>
    have hstep := exec_dispatchStep_preempt hn h
    exact ⟨fun t ht => by rw [hstep, ht, Option.getD_some], fun ht => by rw [hstep, ht, Option.getD_none]⟩
  case save =>
    refine ⟨exec_teamSave_over hx hs, fun hgone hall => ?_, fun hgone hnot => ?_⟩
    · exact (exec_teamSave_live hx hs hgone).trans (congrArg _ (if_congr (and_iff_right hall) rfl rfl))
    · obtain ⟨y, hy, hno⟩ := hnot
      refine (exec_teamSave_live hx hs hgone).trans (congrArg _ (if_neg ?_))
      rintro ⟨hall, -⟩
      obtain ⟨hsaving, hdrained⟩ := hall y hy
      simp [hsaving, hdrained] at hno
  case retire =>
    obtain ⟨hteams, hsplits, hwindow⟩ := State.retireGrid_spec s g
    exact ⟨s.retireGrid g, exec_gridRetire hg hr,
      fun x hx hxg => ((hteams x).1 hx).2 (State.mem_teamsOf ((hteams x).1 hx).1 hxg),
      fun hn x hx hxg => (hteams x).2 ⟨hx, State.not_mem_teamsOf hn hx hxg⟩,
      fun y => State.retireGrid_grid?, fun e => State.retireGrid_events, fun x hx hxg =>
        ⟨fun a hlo hhi => hwindow x.uid (State.mem_teamsOf hx hxg) a ⟨hlo, hhi⟩,
          fun p hp hpx => ((hsplits p).1 hp).2 (hpx ▸ State.mem_teamsOf hx hxg)⟩⟩
  case watchdog =>
    refine ⟨_, exec_watchdog hg hl hd hr ha hc, rfl, fun y hy => ?_, rfl, rfl⟩
    obtain ⟨x, rfl⟩ := State.grid?_of_map rfl hy
    rfl
  case task =>
    refine ⟨fun k => exec_taskRetire_fault hx ht hd he, fun hk => ⟨fun hb => ?_, fun hb => ?_⟩⟩
    · exact (exec_taskRetire_reached hx ht hd he hk).trans (congrArg _ (if_pos hb))
    · exact (exec_taskRetire_reached hx ht hd he hk).trans (congrArg _ (if_neg (by simp [hb])))

end Sys2Proof.Machine

/-! SUPPORT. REGANG, EXIT and YIELD (R135, R136, R138, R144): a slice at its join, and what arriving, fusing and sweeping
do to the table of splits and to the slices' records, stage by stage. -/

namespace Sys2Proof.Machine

/-! ### A slice at its join (R135) -/

/-- A slice behind path entries that it has used up: the last of them that held a lane gave it its mask and F. -/
def Slice.behind (c : Slice) (ds : List StackEntry) : Slice :=
  let last := (ds.filter fun (e : StackEntry) => decide (e.mask ≠ 0)).getLast?
  { c with mask := (last.map StackEntry.mask).getD c.mask, f := (last.map StackEntry.fcopy).getD c.f }

/-- An entry is a path of the join `j` that has no lane or has arrived. -/
def StackEntry.exhausted (e : StackEntry) (j : Pc) : Prop := e.isJoin = false ∧ e.join = j ∧ (e.mask = 0 ∨ e.pc = j)

section
variable {c : Slice} {j : Pc} {e : StackEntry} {es : List StackEntry}

/-- A path entry without a lane is dropped. -/
theorem Slice.atJoin_go_empty (hi : e.isJoin = false) (hj : e.join = j) (hm : e.mask = 0) :
    Slice.atJoin.go j c (e :: es) = Slice.atJoin.go j c es := by
  simp [Slice.atJoin.go, hi, hj, hm]

/-- A path entry that has arrived gives the slice its lanes. -/
theorem Slice.atJoin_go_arrived (hi : e.isJoin = false) (hj : e.join = j) (hm : e.mask ≠ 0) (hp : e.pc = j) :
    Slice.atJoin.go j c (e :: es) = Slice.atJoin.go j { c with mask := e.mask, f := e.fcopy } es := by
  simp only [Slice.atJoin.go, hi, hj, hm, hp, bne_self_eq_false, Bool.or_self, Bool.false_eq_true, if_false]

/-- The slice leaves for a path entry with lanes elsewhere. -/
theorem Slice.atJoin_go_leave (hi : e.isJoin = false) (hj : e.join = j) (hm : e.mask ≠ 0) (hp : e.pc ≠ j) :
    Slice.atJoin.go j c (e :: es) = ({ c with stack := es, mask := e.mask, f := e.fcopy }, some e.pc) := by
  simp only [Slice.atJoin.go, hi, hj, hm, bne_iff_ne.2 hp, bne_self_eq_false, Bool.or_self, Bool.false_eq_true, if_false,
    if_true]

/-- Above no path entry of the join, the slice has arrived. -/
theorem Slice.atJoin_go_stop (h : ∀ e r, es = e :: r → e.isJoin = true ∨ e.join ≠ j) :
    Slice.atJoin.go j c es = ({ c with stack := es }, none) := by
  cases es with
  | nil => rfl
  | cons e r => simp [Slice.atJoin.go, h e r rfl]

/-- A slice at its join passes the exhausted entries on top of its stack. -/
theorem Slice.atJoin_go_behind (c : Slice) (ds es : List StackEntry) (h : ∀ e ∈ ds, e.exhausted j) :
    Slice.atJoin.go j c (ds ++ es) = Slice.atJoin.go j (c.behind ds) es := by
  induction ds generalizing c with
  | nil => rfl
  | cons e ds ih =>
    obtain ⟨hi, hj, hx⟩ := h e List.mem_cons_self
    have ih := fun c => ih c fun x hx => h x (List.mem_cons_of_mem e hx)
    rw [List.cons_append]
    by_cases hm : e.mask = 0
    · rw [Slice.atJoin_go_empty hi hj hm, ih]
      simp [Slice.behind, hm]
    · rw [Slice.atJoin_go_arrived hi hj hm (hx.resolve_left hm), ih]
      have hlast : ((e :: ds).filter fun (e : StackEntry) => decide (e.mask ≠ 0)).getLast? =
          some (((ds.filter fun (e : StackEntry) => decide (e.mask ≠ 0)).getLast?).getD e) := by
        rw [List.filter_cons_of_pos (by simpa using hm), List.getLast?_cons]
      unfold Slice.behind
      rw [hlast]
      cases (ds.filter fun (e : StackEntry) => decide (e.mask ≠ 0)).getLast? <;> rfl

/-- What a slice at its join does below its exhausted entries: it has arrived, or leaves for the next path. -/
theorem Slice.atJoin_spec (c : Slice) (j : Pc) (ds es : List StackEntry) (hs : c.stack = ds ++ es)
    (h : ∀ e ∈ ds, e.exhausted j) :
    ((∀ e r, es = e :: r → e.isJoin = true ∨ e.join ≠ j) → c.atJoin j = ({ c.behind ds with stack := es }, none)) ∧
    ∀ e r, es = e :: r → e.isJoin = false → e.join = j → e.mask ≠ 0 → e.pc ≠ j →
      c.atJoin j = ({ c.behind ds with stack := r, mask := e.mask, f := e.fcopy }, some e.pc) := by
  have hgo : c.atJoin j = Slice.atJoin.go j (c.behind ds) es := by
    rw [Slice.atJoin, hs, Slice.atJoin_go_behind c ds es h]
  refine ⟨fun hstop => hgo.trans (Slice.atJoin_go_stop hstop), fun e r he hi hj hm hp => ?_⟩
  rw [hgo, he, Slice.atJoin_go_leave hi hj hm hp]

end

/-! ### The table of splits -/

/-- A split of a name that still has slices stands first under it. -/
def State.occupied (s : State) (sid : Nat) : Prop := ∃ r, s.split? sid = some r ∧ r.slices ≠ []

/-- The splits of a name hold slices of a kind only. -/
def State.Within (s : State) (sid : Nat) (L : Nat → Prop) : Prop :=
  ∀ q ∈ s.x.splits, q.sid = sid → ∀ c ∈ q.slices, L c

@[simp] theorem State.freeSplits_r (s : State) : s.freeSplits.r = s.r := rfl
@[simp] theorem State.freeSplits_m (s : State) : s.freeSplits.m = s.m := rfl

theorem State.mem_freeSplits {s : State} {q : Split} : q ∈ s.freeSplits.x.splits ↔ q ∈ s.x.splits ∧ q.slices ≠ [] := by
  simp [State.freeSplits]

theorem State.Within.freeSplits {s : State} {sid : Nat} {L : Nat → Prop} (h : s.Within sid L) :
    s.freeSplits.Within sid L :=
  fun q hq => h q (State.mem_freeSplits.1 hq).1

/-- The splits of a name after a change of those of a name. -/
theorem State.Within.modSplit {s : State} {sid i : Nat} {L : Nat → Prop} {f : Split → Split} (h : s.Within sid L)
    (hf : ∀ q ∈ s.x.splits, q.sid = i → (f q).sid = sid → ∀ c ∈ (f q).slices, L c) : (s.modSplit i f).Within sid L := by
  intro q hq
  obtain ⟨x, hx, rfl⟩ := List.mem_map.1 hq
  by_cases hi : x.sid = i
  · simpa [hi] using hf x hx hi
  · simpa [hi] using h x hx

/-- A split that stands in the table is found first under its name where it is. -/
theorem State.split?_append {s t : State} {i : Nat} {p : Split} {l : List Split} (h : s.split? i = some p)
    (ht : t.x.splits = s.x.splits ++ l) : t.split? i = some p := by
  unfold State.split? at h ⊢
  rw [ht, List.find?_append, h]
  rfl

/-! ### Placing a split (log entry 57) -/

section
variable {s : State} {p r : Split}

/-- Placing a split leaves registers and memory alone. -/
theorem State.place_keeps (s : State) (p : Split) : (s.place p).r = s.r ∧ (s.place p).m = s.m := by
  unfold State.place
  split
  · split <;> exact ⟨rfl, rfl⟩
  · exact ⟨rfl, rfl⟩

theorem State.place_free (h : s.split? p.sid = some r) (hr : r.slices = []) :
    s.place p = s.modSplit p.sid fun _ => p := by
  simp [State.place, h, hr]

theorem State.place_occupied (h : s.occupied p.sid) : s.place p = s.addSplit { p with late := [] } := by
  obtain ⟨r, hr, hne⟩ := h
  simp [State.place, hr, hne]

/-- What placing a split with slices leaves, its entry standing in the table: the split under some name, every split that
stood there but for the free entry, and an entry that is taken. -/
theorem State.place_spec (s : State) (p : Split) (h : (s.split? p.sid).isSome = true) (hne : p.slices ≠ []) :
    (∃ q ∈ (s.place p).x.splits, ∃ i x fs, q = { p with sid := i, tix := x, late := fs }) ∧
    (∀ q ∈ s.x.splits, q.sid ≠ p.sid ∨ s.occupied p.sid → q ∈ (s.place p).x.splits) ∧
    (s.place p).occupied p.sid ∧
    ∀ L : Nat → Prop, s.Within p.sid L → (∀ c ∈ p.slices, L c) → (s.place p).Within p.sid L := by
  obtain ⟨r, hr⟩ := Option.isSome_iff_exists.1 h
  by_cases hfree : r.slices = []
  · have hno : ¬ s.occupied p.sid := by
      rintro ⟨r', hr', hne'⟩
      exact hne' (Option.some.inj (hr.symm.trans hr') ▸ hfree)
    have hfound : (s.modSplit p.sid fun _ => p).split? p.sid = some p := State.split?_modSplit hr (State.split?_sid hr).symm
    rw [State.place_free hr hfree]
    exact ⟨⟨p, List.mem_of_find?_eq_some hfound, p.sid, p.tix, p.late, rfl⟩,
      fun q hq hkept => State.mem_modSplit_of_ne hq (hkept.resolve_right hno), ⟨p, hfound, hne⟩,
      fun L hL hp => hL.modSplit fun _ _ _ _ => hp⟩
  · have hocc : s.occupied p.sid := ⟨r, hr, hfree⟩
    rw [State.place_occupied hocc]
    refine ⟨⟨_, List.mem_append_right _ List.mem_cons_self, _, _, _, rfl⟩, fun q hq _ => List.mem_append_left _ hq,
      ⟨r, State.split?_append hr rfl, hfree⟩, fun L hL hp q hq hsid => ?_⟩
    obtain hq | hq := List.mem_append.1 hq
    · exact hL q hq hsid
    · obtain rfl := List.mem_singleton.1 hq
      exact hp

/-- What placing splits with slices, one after another at one entry, leaves. -/
theorem State.placeAll_spec {sid : Nat} (F : Pc → Split) (qs : List Pc) (s : State) (h : (s.split? sid).isSome = true)
    (hF : ∀ a ∈ qs, (F a).sid = sid ∧ (F a).slices ≠ []) :
    let t := qs.foldl (fun t a => t.place (F a)) s
    (∀ a ∈ qs, ∃ q ∈ t.x.splits, ∃ i x fs, q = { F a with sid := i, tix := x, late := fs }) ∧
    (∀ q ∈ s.x.splits, q.sid ≠ sid ∨ s.occupied sid → q ∈ t.x.splits) ∧
    ((t.split? sid).isSome = true ∧ (qs ≠ [] ∨ s.occupied sid → t.occupied sid)) ∧
    (∀ L : Nat → Prop, s.Within sid L → (∀ a ∈ qs, ∀ c ∈ (F a).slices, L c) → t.Within sid L) ∧
    t.r = s.r ∧ t.m = s.m := by
  induction qs generalizing s with
  | nil => exact ⟨by simp, fun _ hq _ => hq, ⟨h, fun ho => ho.resolve_left (· rfl)⟩, fun _ hL _ => hL, rfl, rfl⟩
  | cons a qs ih =>
    obtain ⟨rfl, hne⟩ := hF a List.mem_cons_self
    obtain ⟨hplaced, hkept, hocc, hwithin⟩ := s.place_spec (F a) h hne
    have hsome : ((s.place (F a)).split? (F a).sid).isSome = true := by
      obtain ⟨r, hr, -⟩ := hocc
      rw [hr]
      rfl
    obtain ⟨hall, hrest, ⟨hthere, htaken⟩, hin, hr, hm⟩ :=
      ih (s.place (F a)) hsome fun b hb => hF b (List.mem_cons_of_mem a hb)
    rw [List.foldl_cons]
    refine ⟨fun b hb => ?_, fun q hq hk => hrest q (hkept q hq hk) (.inr hocc), ⟨hthere, fun _ => htaken (.inr hocc)⟩,
      fun L hL hc => hin L (hwithin L hL (hc a List.mem_cons_self)) fun b hb => hc b (List.mem_cons_of_mem a hb),
      hr.trans (s.place_keeps _).1, hm.trans (s.place_keeps _).2⟩
    obtain rfl | hb := List.mem_cons.1 hb
    · obtain ⟨q, hq, hform⟩ := hplaced
      exact ⟨q, hrest q hq (.inr hocc), hform⟩
    · exact hall b hb

end


/-! ### Those that arrived (R135, R136) -/

theorem mem_insertBy {α : Type} (le : α → α → Bool) (a b : α) (l : List α) : b ∈ insertBy le a l ↔ b = a ∨ b ∈ l := by
  induction l with
  | nil => simp [insertBy]
  | cons x l ih =>
    unfold insertBy
    split
    · rw [List.mem_cons]
    · rw [List.mem_cons, ih, List.mem_cons, or_left_comm]

theorem mem_sortBy {α : Type} (le : α → α → Bool) (b : α) (l : List α) : b ∈ sortBy le l ↔ b ∈ l := by
  induction l with
  | nil => exact Iff.rfl
  | cons a l ih => rw [sortBy, List.foldr_cons, mem_insertBy, List.mem_cons, ← ih, sortBy]

/-- A split stands on as it was, perhaps with more slices; an AGE of `a` it keeps. -/
structure Split.GrowsTo (a : Nat) (q x : Split) : Prop where
  sid : x.sid = q.sid
  team : x.team = q.team
  group : x.group = q.group
  pc : x.pc = q.pc
  frames : x.frames = q.frames
  wait : x.wait = q.wait
  age : q.age = a → x.age = a
  slices : ∀ c ∈ q.slices, c ∈ x.slices

theorem Split.GrowsTo.refl (a : Nat) (q : Split) : q.GrowsTo a q := ⟨rfl, rfl, rfl, rfl, rfl, rfl, id, fun _ => id⟩

/-- A parked split takes in slices of a split `p` that have arrived. -/
def Split.takeIn (x p : Split) (as : List Nat) : Split :=
  { x with slices := sortBy (fun a b => decide (a ≤ b)) (x.slices ++ as), age := min x.age p.age,
           late := x.late ++ p.late, fences := x.fences ++ p.fences }

theorem Split.mem_takeIn {x p : Split} {as : List Nat} {c : Nat} : c ∈ (x.takeIn p as).slices ↔ c ∈ x.slices ∨ c ∈ as := by
  simp only [Split.takeIn, mem_sortBy, List.mem_append]

theorem Split.growsTo_takeIn (x p : Split) (as : List Nat) : x.GrowsTo p.age (x.takeIn p as) :=
  ⟨rfl, rfl, rfl, rfl, rfl, rfl, fun h => by simp [Split.takeIn, h], fun _ hc => Split.mem_takeIn.2 (.inl hc)⟩

/-- The split that is parked already for the frame `fr` of a split `p`. -/
def State.parkedFor (t : State) (p : Split) (fr : Frame) : Option Split :=
  t.x.splits.find? fun q =>
    decide (q.team = p.team ∧ q.group = p.group ∧ q.wait = true ∧ q.sid ≠ p.sid) && decide (q.frames.head? = some fr)

/-- Slices that arrived go to the parked split, or form it. -/
def State.parkArrived (t : State) (p : Split) (fr : Frame) (as : List Nat) : State :=
  if as.isEmpty then t
  else
    match t.parkedFor p fr with
    | some q => t.modSplit q.sid fun x => x.takeIn p as
    | none => t.place { p with pc := fr.join, wait := true, slices := as }

/-- A split that ends in the parked one leaves it, in `u`, what it issued. -/
def State.handNames (t u : State) (p : Split) (fr : Frame) (as : List Nat) : State :=
  match t.parkedFor p fr, u.split? p.sid with
  | some q, some x => if x.slices.isEmpty ∧ !as.isEmpty then u.mergeNames p.sid q.sid else u
  | _, _ => u

/-- Handing names over leaves splits, registers and memory alone. -/
theorem State.handNames_rest (t u : State) (p : Split) (fr : Frame) (as : List Nat) :
    (t.handNames u p fr as).x = u.x ∧ (t.handNames u p fr as).r = u.r ∧ (t.handNames u p fr as).m = u.m := by
  unfold State.handNames
  split
  · split <;> exact ⟨rfl, rfl, rfl⟩
  · exact ⟨rfl, rfl, rfl⟩

section
variable {t : State} {p q : Split} {fr : Frame} {as : List Nat}

theorem State.parkedFor_some (h : t.parkedFor p fr = some q) : q ∈ t.x.splits ∧ q.team = p.team ∧ q.group = p.group ∧
    q.wait = true ∧ q.sid ≠ p.sid ∧ q.frames.head? = some fr := by
  have hq := List.find?_some h
  simp only [Bool.and_eq_true, decide_eq_true_eq] at hq
  exact ⟨List.mem_of_find?_eq_some h, hq.1.1, hq.1.2.1, hq.1.2.2.1, hq.1.2.2.2, hq.2⟩

theorem State.parkArrived_some (has : as ≠ []) (h : t.parkedFor p fr = some q) :
    t.parkArrived p fr as = t.modSplit q.sid fun x => x.takeIn p as := by
  simp [State.parkArrived, has, h]

theorem State.parkArrived_none (has : as ≠ []) (h : t.parkedFor p fr = none) :
    t.parkArrived p fr as = t.place { p with pc := fr.join, wait := true, slices := as } := by
  simp [State.parkArrived, has, h]

/-- Parking leaves registers and memory alone. -/
theorem State.parkArrived_keeps (t : State) (p : Split) (fr : Frame) (as : List Nat) :
    (t.parkArrived p fr as).r = t.r ∧ (t.parkArrived p fr as).m = t.m := by
  unfold State.parkArrived
  split
  · exact ⟨rfl, rfl⟩
  · split
    · exact ⟨rfl, rfl⟩
    · exact State.place_keeps ..

/-- What parking the slices that arrived leaves, the entry of their split standing in the table. -/
theorem State.parkArrived_spec (as : List Nat) (h : (t.split? p.sid).isSome = true) (hf : p.frames.head? = some fr) :
    (∀ c ∈ as, ∃ q ∈ (t.parkArrived p fr as).x.splits, q.team = p.team ∧ q.group = p.group ∧ q.wait = true ∧
      q.frames.head? = some fr ∧ c ∈ q.slices) ∧
    (∀ q ∈ t.x.splits, q.sid ≠ p.sid ∨ t.occupied p.sid → ∃ x ∈ (t.parkArrived p fr as).x.splits, q.GrowsTo p.age x) ∧
    ∀ L : Nat → Prop, t.Within p.sid L → (∀ c ∈ as, L c) → (t.parkArrived p fr as).Within p.sid L := by
  by_cases has : as = []
  · subst has
    exact ⟨by simp, fun q hq _ => ⟨q, hq, Split.GrowsTo.refl _ q⟩, fun L hL _ => hL⟩
  cases hparked : t.parkedFor p fr with
  | some q =>
    obtain ⟨hq, hteam, hgroup, hwait, hsid, hframe⟩ := State.parkedFor_some hparked
    rw [State.parkArrived_some has hparked]
    refine ⟨fun c hc => ⟨q.takeIn p as, List.mem_map.2 ⟨q, hq, if_pos rfl⟩, hteam, hgroup, hwait, hframe,
      Split.mem_takeIn.2 (.inr hc)⟩, fun y hy _ => ?_, fun L hL _ => hL.modSplit fun x _ hx hp => ?_⟩
    · by_cases hs : y.sid = q.sid
      · exact ⟨y.takeIn p as, List.mem_map.2 ⟨y, hy, if_pos hs⟩, Split.growsTo_takeIn y p as⟩
      · exact ⟨y, State.mem_modSplit_of_ne hy hs, Split.GrowsTo.refl _ y⟩
    · exact absurd (hx.symm.trans hp) hsid
  | none =>
    rw [State.parkArrived_none has hparked]
    obtain ⟨⟨q, hq, i, x, fs, rfl⟩, hkept, -, hwithin⟩ :=
      t.place_spec { p with pc := fr.join, wait := true, slices := as } h has
    exact ⟨fun c hc => ⟨_, hq, rfl, rfl, rfl, hf, hc⟩, fun q hq hk => ⟨q, hkept q hq hk, Split.GrowsTo.refl _ q⟩, hwithin⟩

end

/-! ### Slices of a split at its join (R135) -/

section
variable (s : State) (p : Split) (fr : Frame) (cs : List Nat)

/-- What slice `c` of a split does at the join of the frame `fr`. -/
def State.atJoin (c : Nat) : Slice × Option Pc := (s.slc ⟨p.team, p.group, c⟩).atJoin fr.join

/-- The slices that have arrived. -/
def State.arrived : List Nat := cs.filter fun c => (s.atJoin p fr c).2.isNone

/-- The addresses for which the others leave. -/
def State.leaving : List Pc := (cs.filterMap fun c => (s.atJoin p fr c).2).eraseDups

/-- The split of the slices that leave for an address. -/
def State.leaver (a : Pc) : Split := { p with pc := a, wait := false, slices := cs.filter fun c => (s.atJoin p fr c).2 = some a }

/-- The slices' records after their join. -/
def State.joinSlices : State := cs.foldl (fun t c => t.modSlc ⟨p.team, p.group, c⟩ fun _ => (s.atJoin p fr c).1) s

/-- The slices stand in their split no longer. -/
def State.withdraw : State :=
  (s.joinSlices p fr cs).modSplit p.sid fun x => { x with slices := x.slices.filter fun c => decide (c ∉ cs) }

/-- Those that leave stand in splits of their own. -/
def State.depart : State := (s.leaving p fr cs).foldl (fun t a => t.place (s.leaver p fr cs a)) (s.withdraw p fr cs)

/-- Those that arrived are parked. -/
def State.park : State := (s.depart p fr cs).parkArrived p fr (s.arrived p fr cs)

variable {s p fr cs}

/-- Arriving, stage by stage. -/
theorem State.arrive_eq {fs : List Frame} (h : s.split? p.sid = some p) (hf : p.frames = fr :: fs) :
    s.arrive p.sid cs =
      ((s.depart p fr cs).handNames (s.park p fr cs) p fr (s.arrived p fr cs)).freeSplits := by
  simp only [State.arrive, h]
  split
  · rename_i hnil
    rw [hf] at hnil
    cases hnil
  · rename_i fr' fs' hcons
    obtain ⟨rfl, -⟩ := List.cons.inj (hcons.symm.trans hf)
    rfl

theorem State.arrive_split_none {i : Nat} (h : s.split? i = none) : s.arrive i cs = s := by
  simp only [State.arrive, h]

theorem State.arrive_frames_nil {i : Nat} (h : s.split? i = some p) (hf : p.frames = []) : s.arrive i cs = s := by
  simp only [State.arrive, h, hf]

theorem State.mem_arrived {c : Nat} : c ∈ s.arrived p fr cs ↔ c ∈ cs ∧ (s.atJoin p fr c).2 = none := by
  simp [State.arrived]

theorem State.mem_leaving {a : Pc} : a ∈ s.leaving p fr cs ↔ ∃ c ∈ cs, (s.atJoin p fr c).2 = some a := by
  simp [State.leaving]

theorem State.mem_leaver {a : Pc} {c : Nat} : c ∈ (s.leaver p fr cs a).slices ↔ c ∈ cs ∧ (s.atJoin p fr c).2 = some a := by
  simp [State.leaver]

theorem State.leaver_slices_ne_nil {a : Pc} (h : a ∈ s.leaving p fr cs) : (s.leaver p fr cs a).slices ≠ [] := by
  obtain ⟨c, hc, ha⟩ := State.mem_leaving.1 h
  exact List.ne_nil_of_mem (State.mem_leaver.2 ⟨hc, ha⟩)

/-- Withdrawing changes the split and its slices' records, and no other name. -/
theorem State.withdraw_spec (h : s.split? p.sid = some p) :
    ((s.withdraw p fr cs).split? p.sid).isSome = true ∧
    (∀ q ∈ s.x.splits, q.sid ≠ p.sid → q ∈ (s.withdraw p fr cs).x.splits) ∧
    ∀ L : Nat → Prop, s.Within p.sid L → (s.withdraw p fr cs).Within p.sid L := by
  obtain ⟨-, -, hrest⟩ := State.foldSlc p.team p.group (fun c _ => (s.atJoin p fr c).1) cs s
  have hx : (s.joinSlices p fr cs).x.splits = s.x.splits := (congrArg (fun q : State => q.x.splits) hrest :)
  refine ⟨?_, fun q hq hne => State.mem_modSplit_of_ne (hx ▸ hq) hne, fun L hL => ?_⟩
  · have hj : (s.joinSlices p fr cs).split? p.sid = some p := by
      rw [State.split?, hx]
      exact h
    rw [State.withdraw, State.split?_modSplit hj rfl]
    rfl
  · have hj : (s.joinSlices p fr cs).Within p.sid L := by
      rw [State.Within, hx]
      exact hL
    exact hj.modSplit fun q hq hsid _ c hc => hj q hq hsid c (List.mem_of_mem_filter hc)

/-- What departing leaves. -/
theorem State.depart_spec (h : s.split? p.sid = some p) :
    (∀ a ∈ s.leaving p fr cs, ∃ q ∈ (s.depart p fr cs).x.splits, ∃ i x fs,
      q = { s.leaver p fr cs a with sid := i, tix := x, late := fs }) ∧
    (∀ q ∈ s.x.splits, q.sid ≠ p.sid → q ∈ (s.depart p fr cs).x.splits) ∧
    (((s.depart p fr cs).split? p.sid).isSome = true ∧ (s.leaving p fr cs ≠ [] → (s.depart p fr cs).occupied p.sid)) ∧
    (∀ L : Nat → Prop, s.Within p.sid L → (∀ c ∈ cs, L c) → (s.depart p fr cs).Within p.sid L) ∧
    (s.depart p fr cs).r = (s.joinSlices p fr cs).r ∧ (s.depart p fr cs).m = (s.joinSlices p fr cs).m := by
  obtain ⟨hsome, hkept, hin⟩ := State.withdraw_spec (fr := fr) (cs := cs) h
  obtain ⟨hall, hrest, ⟨hthere, htaken⟩, hwithin, hr, hm⟩ :=
    State.placeAll_spec (s.leaver p fr cs) (s.leaving p fr cs) (s.withdraw p fr cs) hsome
      fun a ha => ⟨rfl, State.leaver_slices_ne_nil ha⟩
  exact ⟨hall, fun q hq hne => hrest q (hkept q hq hne) (.inl hne), ⟨hthere, fun hl => htaken (.inl hl)⟩,
    fun L hL hc => hwithin L (hin L hL) fun a _ c hca => hc c (State.mem_leaver.1 hca).1, hr, hm⟩

/-- The splits behind an arrival are those of the last stage that have slices. -/
theorem State.mem_arrive {fs : List Frame} (h : s.split? p.sid = some p) (hf : p.frames = fr :: fs) {q : Split} :
    q ∈ (s.arrive p.sid cs).x.splits ↔ q ∈ (s.park p fr cs).x.splits ∧ q.slices ≠ [] := by
  rw [State.arrive_eq h hf, State.mem_freeSplits, (State.handNames_rest ..).1]

/-- Behind the slices' records, an arrival leaves registers and memory alone. -/
theorem State.arrive_keeps {fs : List Frame} (h : s.split? p.sid = some p) (hf : p.frames = fr :: fs) :
    (s.arrive p.sid cs).r = (s.joinSlices p fr cs).r ∧ (s.arrive p.sid cs).m = (s.joinSlices p fr cs).m := by
  obtain ⟨-, -, -, -, hr, hm⟩ := State.depart_spec (fr := fr) (cs := cs) h
  obtain ⟨-, hnr, hnm⟩ := (s.depart p fr cs).handNames_rest (s.park p fr cs) p fr (s.arrived p fr cs)
  obtain ⟨hpr, hpm⟩ := (s.depart p fr cs).parkArrived_keeps p fr (s.arrived p fr cs)
  rw [State.arrive_eq h hf, State.freeSplits_r, State.freeSplits_m]
  exact ⟨(hnr.trans hpr).trans hr, (hnm.trans hpm).trans hm⟩

/-- The slices' records after an arrival, and all registers and memory. -/
theorem State.arrive_slices {fs : List Frame} (h : s.split? p.sid = some p) (hf : p.frames = fr :: fs) :
    (cs.Nodup → ∀ c ∈ cs, (s.arrive p.sid cs).slc ⟨p.team, p.group, c⟩ = (s.atJoin p fr c).1) ∧
    (∀ d, (∀ c ∈ cs, d ≠ ⟨p.team, p.group, c⟩) → (s.arrive p.sid cs).slc d = s.slc d) ∧
    { (s.arrive p.sid cs).r with sl := s.r.sl } = s.r ∧ (s.arrive p.sid cs).m = s.m := by
  obtain ⟨hjoined, hothers, hrest⟩ := State.foldSlc p.team p.group (fun c _ => (s.atJoin p fr c).1) cs s
  obtain ⟨hr, hm⟩ := State.arrive_keeps (cs := cs) h hf
  have hslc : (s.arrive p.sid cs).slc = (s.joinSlices p fr cs).slc := by
    funext d
    rw [State.slc, hr, State.slc]
  rw [hslc, hr, hm]
  exact ⟨hjoined, hothers, (congrArg (fun q : State => q.r) hrest :), (congrArg (fun q : State => q.m) hrest :)⟩

/-- An arrival leaves the records of all other slices, whatever the frames of its split. -/
theorem State.arrive_slc_other (h : s.split? p.sid = some p) {d : SliceId} (hd : ∀ c ∈ cs, d ≠ ⟨p.team, p.group, c⟩) :
    (s.arrive p.sid cs).slc d = s.slc d := by
  cases hf : p.frames with
  | nil => rw [State.arrive_frames_nil h hf]
  | cons fr fs => exact (State.arrive_slices h hf).2.1 d hd

/-- Where the slices and the other splits stand after an arrival. -/
theorem State.arrive_splits {fs : List Frame} (h : s.split? p.sid = some p) (hf : p.frames = fr :: fs) :
    (∀ c ∈ cs, (s.atJoin p fr c).2 = none → ∃ q ∈ (s.arrive p.sid cs).x.splits, q.team = p.team ∧ q.group = p.group ∧
      q.wait = true ∧ q.frames.head? = some fr ∧ c ∈ q.slices) ∧
    (∀ c ∈ cs, ∀ a, (s.atJoin p fr c).2 = some a → ∃ q ∈ (s.arrive p.sid cs).x.splits, q.team = p.team ∧
      q.group = p.group ∧ q.wait = false ∧ q.frames = p.frames ∧ q.pc = a ∧ q.age = p.age ∧ c ∈ q.slices) ∧
    ∀ q ∈ s.x.splits, q.sid ≠ p.sid → q.slices ≠ [] → ∃ x ∈ (s.arrive p.sid cs).x.splits, q.GrowsTo p.age x := by
  obtain ⟨hleft, hkept, ⟨hthere, htaken⟩, -⟩ := State.depart_spec (fr := fr) (cs := cs) h
  obtain ⟨hparked, hgrows, -⟩ := State.parkArrived_spec (s.arrived p fr cs) hthere (by rw [hf, List.head?_cons])
  simp only [State.mem_arrive h hf]
  refine ⟨fun c hc ha => ?arrived, fun c hc a ha => ?left, fun q hq hne hsl => ?other⟩
  case arrived =>
    obtain ⟨q, hq, hteam, hgroup, hwait, hframe, hcq⟩ := hparked c (State.mem_arrived.2 ⟨hc, ha⟩)
    exact ⟨q, ⟨hq, List.ne_nil_of_mem hcq⟩, hteam, hgroup, hwait, hframe, hcq⟩
  case left =>
    have hl : a ∈ s.leaving p fr cs := State.mem_leaving.2 ⟨c, hc, ha⟩
    obtain ⟨q, hq, i, x, late, rfl⟩ := hleft a hl
    obtain ⟨y, hy, hg⟩ := hgrows _ hq (.inr (htaken (List.ne_nil_of_mem hl)))
    have hcy : c ∈ y.slices := hg.slices c (State.mem_leaver.2 ⟨hc, ha⟩)
    exact ⟨y, ⟨hy, List.ne_nil_of_mem hcy⟩, hg.team, hg.group, hg.wait, hg.frames, hg.pc, hg.age rfl, hcy⟩
  case other =>
    obtain ⟨x, hx, hg⟩ := hgrows q (hkept q hq hne) (.inl hne)
    obtain ⟨c, hc⟩ := List.exists_mem_of_ne_nil _ hsl
    exact ⟨x, ⟨hx, List.ne_nil_of_mem (hg.slices c hc)⟩, hg⟩

/-- An arrival leaves a split no slices but those it had and those that arrive. -/
theorem State.Within.arrive {L : Nat → Prop} (h : s.split? p.sid = some p) (hL : s.Within p.sid L)
    (hc : ∀ c ∈ cs, L c) : (s.arrive p.sid cs).Within p.sid L := by
  cases hf : p.frames with
  | nil =>
    rw [State.arrive_frames_nil h hf]
    exact hL
  | cons fr fs =>
    obtain ⟨-, -, ⟨hthere, -⟩, hwithin, -⟩ := State.depart_spec (fr := fr) (cs := cs) h
    obtain ⟨-, -, hpark⟩ := State.parkArrived_spec (s.arrived p fr cs) hthere (by rw [hf, List.head?_cons])
    exact fun q hq => hpark L (hwithin L hL hc) (fun c hca => hc c (State.mem_arrived.1 hca).1) q
      ((State.mem_arrive h hf).1 hq).1

end

/-! ### Fusion (R136) -/

theorem State.fusable_some {s : State} {g h : Nat} {p : Split} (hp : s.fusable g h = some p) :
    p ∈ s.x.splits ∧ p.team = g ∧ p.group = h ∧ p.wait = true ∧
      ∃ fr fs, p.frames = fr :: fs ∧ ∀ q ∈ s.x.splits, q.team = g → q.group = h → q.sid ≠ p.sid →
        ∀ x ∈ q.frames, x.token ≠ fr.token := by
  have hfound := List.find?_some hp
  simp only [Bool.and_eq_true, decide_eq_true_eq] at hfound
  obtain ⟨⟨hteam, hgroup, hwait⟩, htoken⟩ := hfound
  refine ⟨List.mem_of_find?_eq_some hp, hteam, hgroup, hwait, ?_⟩
  cases hf : p.frames with
  | nil => simp [hf] at htoken
  | cons fr fs =>
    simp only [hf, List.all_eq_true, Bool.or_eq_true, decide_eq_true_eq] at htoken
    refine ⟨fr, fs, rfl, fun q hq hqg hqh hne => (htoken q hq).resolve_left ?_⟩
    simp [hqg, hqh, hne]

theorem State.fusable_none {s : State} {g h : Nat} (hn : s.fusable g h = none) {p : Split} (hp : p ∈ s.x.splits)
    (hteam : p.team = g) (hgroup : p.group = h) (hwait : p.wait = true) {fr : Frame} {fs : List Frame}
    (hf : p.frames = fr :: fs) :
    ∃ q ∈ s.x.splits, q.team = g ∧ q.group = h ∧ q.sid ≠ p.sid ∧ ∃ x ∈ q.frames, x.token = fr.token := by
  have hnot := List.find?_eq_none.1 hn p hp
  obtain ⟨q, hq, hne, hqg, hqh, htoken⟩ : ∃ q ∈ s.x.splits, q.sid ≠ p.sid ∧ q.team = g ∧ q.group = h ∧
      ∃ x ∈ q.frames, x.token = fr.token := by simpa [hteam, hgroup, hwait, hf, and_assoc] using hnot
  exact ⟨q, hq, hqg, hqh, hne, htoken⟩

/-- A slice pops its join entry, with its mask and F. -/
def Slice.popJoin (c : Slice) : Slice :=
  match c.stack with
  | e :: es => { c with stack := es, mask := e.mask, f := e.fcopy }
  | [] => c

theorem Slice.popJoin_cons {c : Slice} {e : StackEntry} {es : List StackEntry} (h : c.stack = e :: es) :
    c.popJoin = { c with stack := es, mask := e.mask, f := e.fcopy } := by
  simp only [Slice.popJoin, h]

theorem State.fuse_eq (s : State) (p : Split) :
    s.fuse p = (p.slices.foldl (fun t c => t.modSlc ⟨p.team, p.group, c⟩ Slice.popJoin) s).modSplit p.sid fun x =>
      { x with wait := false, frames := x.frames.drop 1, pc := (x.frames.headD ⟨x.pc, 0⟩).join + 4 } := rfl

/-- What a fusion leaves. -/
theorem State.fuse_spec {s : State} {p : Split} {fr : Frame} {fs : List Frame} (hf : p.frames = fr :: fs)
    (hn : p.slices.Nodup) (hp : s.split? p.sid = some p) :
    (∀ c ∈ p.slices, (s.fuse p).slc ⟨p.team, p.group, c⟩ = (s.slc ⟨p.team, p.group, c⟩).popJoin) ∧
    (∀ d, (∀ c ∈ p.slices, d ≠ ⟨p.team, p.group, c⟩) → (s.fuse p).slc d = s.slc d) ∧
    (s.fuse p).split? p.sid = some { p with wait := false, frames := fs, pc := fr.join + 4 } ∧
    (∀ q ∈ s.x.splits, q.sid ≠ p.sid → q ∈ (s.fuse p).x.splits) ∧
    { s.fuse p with r.sl := s.r.sl, x.splits := s.x.splits } = s := by
  obtain ⟨hpopped, hothers, hrest⟩ := State.foldSlc p.team p.group (fun _ => Slice.popJoin) p.slices s
  have hx := (congrArg (fun q : State => q.x) hrest :)
  rw [State.fuse_eq]
  refine ⟨hpopped hn, hothers, ?_, fun q hq hne => State.mem_modSplit_of_ne (hx ▸ hq) hne,
    congrArg (fun q : State => { q with x.splits := s.x.splits }) hrest⟩
  rw [State.split?_modSplit (p := p) (by rw [State.split?, hx]; exact hp) rfl]
  simp [hf]

theorem State.fuseAll_none {s : State} {g h : Nat} (n : Nat) (hn : s.fusable g h = none) : s.fuseAll g h n = s := by
  cases n with
  | zero => rfl
  | succ n => simp only [State.fuseAll, hn]

theorem State.fuseAll_succ {s : State} {g h : Nat} {p : Split} (n : Nat) (hp : s.fusable g h = some p) :
    s.fuseAll g h (n + 1) = ((s.fuse p).sweep p.sid).fuseAll g h n := by
  simp only [State.fuseAll, hp]

/-! ### Slices left without a lane (R138) -/

section
variable (s : State) (p : Split)

/-- The slices of a split without an active lane. -/
def State.idle : List Nat := p.slices.filter fun c => decide ((s.slc ⟨p.team, p.group, c⟩).mask = 0)

/-- Those of them that no entry of the stack gives a lane. -/
def State.idleDead : List Nat := (s.idle p).filter fun c => (s.slc ⟨p.team, p.group, c⟩).dead

/-- Those of them that act as at their join. -/
def State.idleLive : List Nat := (s.idle p).filter fun c => !(s.slc ⟨p.team, p.group, c⟩).dead

/-- The slices without a lane have retired and left their split. -/
def State.retireSlices : State :=
  ((s.idleDead p).foldl (fun t c => t.modSlc ⟨p.team, p.group, c⟩ fun x => { x with gone := true, stack := [] }) s).modSplit
    p.sid fun x => { x with slices := x.slices.filter fun c => decide (c ∉ s.idleDead p) }

/-- The split without the slices that have retired. -/
def State.remnant : Split := { p with slices := p.slices.filter fun c => decide (c ∉ s.idleDead p) }

variable {s p}

theorem State.sweep_eq (h : s.split? p.sid = some p) :
    s.sweep p.sid = (if (s.idleLive p).isEmpty then s.retireSlices p
      else (s.retireSlices p).arrive p.sid (s.idleLive p)).freeSplits := by
  simp only [State.sweep, h]
  rfl

theorem State.mem_idle {c : Nat} : c ∈ s.idle p ↔ c ∈ p.slices ∧ (s.slc ⟨p.team, p.group, c⟩).mask = 0 := by
  simp [State.idle]

theorem Slice.dead_iff {c : Slice} (h : c.mask = 0) : c.dead = true ↔ ∀ e ∈ c.stack, e.mask = 0 := by
  simp [Slice.dead, h]

/-- Where every slice has an active lane, sweeping frees splits and does nothing else. -/
theorem State.sweep_of_active (h : s.split? p.sid = some p)
    (hm : ∀ c ∈ p.slices, (s.slc ⟨p.team, p.group, c⟩).mask ≠ 0) : s.sweep p.sid = s.freeSplits := by
  have hidle : s.idle p = [] := List.filter_eq_nil_iff.2 fun c hc => by simpa using hm c hc
  have hsame : s.retireSlices p = s := by
    simp [State.retireSlices, State.idleDead, hidle, State.modSplit]
  rw [State.sweep_eq h, hsame]
  simp [State.idleLive, hidle]

/-- What retiring the slices without a lane leaves. -/
theorem State.retireSlices_spec (h : s.split? p.sid = some p) (hn : p.slices.Nodup) :
    (∀ c ∈ s.idleDead p, (s.retireSlices p).slc ⟨p.team, p.group, c⟩ =
      { s.slc ⟨p.team, p.group, c⟩ with gone := true, stack := [] }) ∧
    (∀ c ∉ s.idleDead p, (s.retireSlices p).slc ⟨p.team, p.group, c⟩ = s.slc ⟨p.team, p.group, c⟩) ∧
    (s.retireSlices p).split? p.sid = some (s.remnant p) ∧
    (s.retireSlices p).Within p.sid fun c => c ∉ s.idleDead p := by
  obtain ⟨hretired, hothers, hrest⟩ :=
    State.foldSlc p.team p.group (fun _ x => { x with gone := true, stack := [] }) (s.idleDead p) s
  have hx := (congrArg (fun q : State => q.x) hrest :)
  refine ⟨hretired ((hn.filter _).filter _), fun c hc => hothers _ fun d hd he => hc ?_, ?_, ?_⟩
  · obtain rfl : c = d := by simpa using he
    exact hd
  · rw [State.retireSlices, State.split?_modSplit (p := p) (by rw [State.split?, hx]; exact h) rfl]
    rfl
  · intro q hq hsid c hc
    obtain ⟨y, -, rfl⟩ := List.mem_map.1 hq
    by_cases hy : y.sid = p.sid
    · rw [if_pos hy] at hc
      simpa using (List.mem_filter.1 hc).2
    · rw [if_neg hy] at hsid
      exact absurd hsid hy

/-- What a sweep does to the slices without an active lane. -/
theorem State.sweep_spec (h : s.split? p.sid = some p) (hn : p.slices.Nodup) :
    (∀ c ∈ s.idleDead p, (s.sweep p.sid).slc ⟨p.team, p.group, c⟩ =
      { s.slc ⟨p.team, p.group, c⟩ with gone := true, stack := [] }) ∧
    ((s.sweep p.sid).Within p.sid fun c => c ∉ s.idleDead p) ∧
    ∀ fr fs, p.frames = fr :: fs → ∀ c ∈ s.idleLive p,
      (s.sweep p.sid).slc ⟨p.team, p.group, c⟩ = (s.atJoin p fr c).1 := by
  obtain ⟨hdead, hlive, hsplit, hwithin⟩ := State.retireSlices_spec h hn
  have hapart : ∀ c ∈ s.idleLive p, c ∉ s.idleDead p := fun c hl hd => by
    have h1 := (List.mem_filter.1 hl).2
    rw [(List.mem_filter.1 hd).2] at h1
    cases h1
  rw [State.sweep_eq h]
  refine ⟨fun c hc => ?dead, State.Within.freeSplits ?within, fun fr fs hf c hc => ?live⟩
  case dead =>
    change State.slc (if _ then _ else _) _ = _
    split
    · exact hdead c hc
    · refine (State.arrive_slc_other (p := s.remnant p) hsplit fun d hd he => hapart d hd ?_).trans (hdead c hc)
      obtain rfl : c = d := congrArg SliceId.s he
      exact hc
  case within =>
    split
    · exact hwithin
    · exact State.Within.arrive (p := s.remnant p) hsplit hwithin hapart
  case live =>
    rw [if_neg (by simpa using List.ne_nil_of_mem hc)]
    refine ((State.arrive_slices (p := s.remnant p) hsplit hf).1 ((hn.filter _).filter _) c hc).trans ?_
    exact congrArg (fun x => (x.atJoin fr.join).1) (hlive c (hapart c hc))

end

/-! ### The instructions -/

/-- A REGANG that is not the join of its split's innermost frame only issues. -/
theorem runsTo_regang_off {s : State} (h : ∀ f fs, s.cur.frames = f :: fs → f.join ≠ s.u.iss.unitPc) :
    RunsTo .regang s fun t => t = s.issued :=
  runsTo_of rfl fun hu => by
    refine ⟨_, ?_, rfl⟩
    simp only [meanRegang, (State.issued_cur_sid hu).2]
    split
    · rfl
    · rename_i f fs hf
      exact if_neg (h f fs hf)

/-- A REGANG that is the join of its split's innermost frame brings the slices of the split to it (R135, R136). -/
theorem runsTo_regang_at {s : State} {f : Frame} {fs : List Frame} (hf : s.cur.frames = f :: fs)
    (hj : f.join = s.u.iss.unitPc) : RunsTo .regang s fun t =>
      t = (s.issued.arrive s.u.iss.sid s.cur.slices).fuseAll s.cur.team s.cur.group fuseFuel :=
  runsTo_of rfl fun hu => by
    obtain ⟨hslices, hteam, hgroup⟩ := State.issued_cur s
    obtain ⟨hsid, hframes⟩ := State.issued_cur_sid hu
    refine ⟨_, ?_, rfl⟩
    simp only [meanRegang, hframes, hf, hslices, hteam, hgroup, hsid]
    exact if_pos hj

theorem runsTo_exit (s : State) : RunsTo .exit s fun t =>
    t = (((((s.cur.slices.foldl (fun u c => u.modSlc (s.slice c) fun x => x.drop (laneMask s.elanes c)) s.issued).sweep
      s.u.iss.sid).fuseAll s.cur.team s.cur.group fuseFuel).rendezvousExit s.cur.team s.cur.group).checkRounds
        s.cur.team) :=
  runsTo_of rfl fun hu => by
    obtain ⟨hslices, hteam, hgroup⟩ := State.issued_cur s
    refine ⟨_, ?_, rfl⟩
    simp only [meanExit, hslices, hteam, hgroup, (State.issued_cur_sid hu).1, State.issued_elanes, State.issued_slice]

/-- Settles O21: the outcomes of the three instructions, and what each operation they are made of leaves. -/
theorem regangExitYield : Obligations.RegangExitYield := by
  unfold Obligations.RegangExitYield
  intro s
  refine ⟨fun hf => runsTo_regang_off fun f fs hc => ?_, fun f fs hf hj => runsTo_regang_off fun f' fs' hc => ?_,
    fun f fs => runsTo_regang_at, runsTo_exit s, runsTo_of rfl fun _ => ⟨_, rfl, rfl⟩, Slice.atJoin_spec,
    fun p fr fs cs hp hf hn => ?arrive, fun g h p => State.fusable_some,
    fun g h hn p hp hteam hgroup hwait fr fs => State.fusable_none hn hp hteam hgroup hwait,
    fun p fr fs hf hn hp => ?fuse, fun g h n => ⟨State.fuseAll_none n, fun p => State.fuseAll_succ n⟩,
    fun p hp hn => ?sweep⟩
  · rw [hf] at hc
    cases hc
  · obtain ⟨rfl, -⟩ := List.cons.inj (hf.symm.trans hc)
    exact hj
  case arrive =>
    obtain ⟨hjoined, hothers, hregs, hmem⟩ := State.arrive_slices (cs := cs) hp hf
    obtain ⟨harrived, hleft, hkept⟩ := State.arrive_splits (cs := cs) hp hf
    refine ⟨hjoined hn, hothers, harrived, hleft, fun q hq hne hsl => ?_, (congrArg (·.v) hregs :), (congrArg (·.ve) hregs :),
      (congrArg (·.sr) hregs :), (congrArg (·.mr) hregs :), (congrArg (·.cn) hregs :), hmem⟩
    obtain ⟨x, hx, hg⟩ := hkept q hq hne hsl
    exact ⟨x, hx, hg.sid, hg.pc, hg.frames, hg.wait, hg.slices⟩
  case fuse =>
    obtain ⟨hpopped, hothers, hsplit, hkept, hrest⟩ := State.fuse_spec hf hn hp
    exact ⟨fun c hc e es hs => (hpopped c hc).trans (Slice.popJoin_cons hs), hothers, hsplit, hkept, hrest⟩
  case sweep =>
    obtain ⟨hdead, hwithin, hlive⟩ := State.sweep_spec hp hn
    refine ⟨State.sweep_of_active hp, fun c hc hm => ⟨fun hstack => ?_, fun fr fs hf hlane => ?_⟩⟩
    · have hd : c ∈ s.idleDead p :=
        List.mem_filter.2 ⟨State.mem_idle.2 ⟨hc, hm⟩, (Slice.dead_iff hm).2 hstack⟩
      exact ⟨hdead c hd, fun q hq hsid hcq => hwithin q hq hsid c hcq hd⟩
    · obtain ⟨e, he, hne⟩ := hlane
      have hlives : (s.slc ⟨p.team, p.group, c⟩).dead = false :=
        Bool.eq_false_iff.2 fun hd => hne ((Slice.dead_iff hm).1 hd e he)
      exact hlive fr fs hf c (List.mem_filter.2 ⟨State.mem_idle.2 ⟨hc, hm⟩, by rw [hlives]; rfl⟩)

end Sys2Proof.Machine

/-! SUPPORT. Memory that an operation leaves alone: what each operation of the state keeps of it (R155, R158). -/

namespace Sys2Proof.Machine

@[simp] theorem State.mem_ite (c : Prop) [Decidable c] (a b : State) :
    (if c then a else b).m.mem = if c then a.m.mem else b.m.mem := by split <;> rfl

/-- Every step of a fold leaves memory as it was. -/
def MemFixed {α : Type} (f : State → α → State) : Prop := ∀ t x, (f t x).m.mem = t.m.mem

@[simp] theorem memFixed_iff {α : Type} (f : State → α → State) : MemFixed f ↔ ∀ t x, (f t x).m.mem = t.m.mem := .rfl

@[simp] theorem State.foldl_mem {α : Type} (l : List α) (f : State → α → State) (s : State)
    (hf : MemFixed f) : (l.foldl f s).m.mem = s.m.mem := by
  induction l generalizing s with
  | nil => rfl
  | cons x xs ih => rw [List.foldl_cons, ih, hf]

@[simp] theorem State.latchRec_mem (s : State) (p : Split) (w : List Word) : (s.latchRec p w).m.mem = s.m.mem := by
  simp [State.latchRec]

@[simp] theorem State.disarm_mem (s : State) (p : Split) : (s.disarm p).m.mem = s.m.mem := by
  simp [State.disarm]

@[simp] theorem State.wakeAll_mem (s : State) (f : Split → Bool) : (s.wakeAll f).m.mem = s.m.mem := by
  simp [State.wakeAll]

@[simp] theorem State.haltGroup_mem (s : State) (g : GroupId) (sid : Option ℕ) :
    (s.haltGroup g sid).m.mem = s.m.mem := by
  simp [State.haltGroup]

@[simp] theorem State.landSfu_mem (s : State) (o : SfuOp) : (s.landSfu o).m.mem = s.m.mem := by
  simp [State.landSfu]

@[simp] theorem State.landTeamSfu_mem (s : State) (t : ℕ) : (s.landTeamSfu t).m.mem = s.m.mem := by
  simp [State.landTeamSfu]

@[simp] theorem State.stop_mem (s : State) (p : Split) : (s.stop p).m.mem = s.m.mem := by
  simp [State.stop]

@[simp] theorem State.enterHandler_mem (s : State) (p : Split) (resume handler : Pc) :
    (s.enterHandler p resume handler).m.mem = s.m.mem := by
  simp [State.enterHandler]

@[simp] theorem State.unblock_mem (s : State) (code : ℕ) : (s.unblock code).m.mem = s.m.mem := by
  simp [State.unblock]

@[simp] theorem State.waiting_mem (s : State) : s.waiting.m.mem = s.m.mem := rfl

@[simp] theorem State.triggerCore_mem (s : State) (core line : ℕ) : (s.triggerCore core line).m.mem = s.m.mem := rfl

@[simp] theorem State.dropData_mem (s : State) (f : L1Line → Bool) : (s.dropData f).m.mem = s.m.mem := by
  simp [State.dropData]

@[simp] theorem State.dropL1_mem (s : State) (f : L1Line → Bool) : (s.dropL1 f).m.mem = s.m.mem := by
  simp [State.dropL1]

@[simp] theorem State.dropAway_mem (s : State) : s.dropAway.m.mem = s.m.mem := by
  simp [State.dropAway]

@[simp] theorem State.acquireCopies_mem (s : State) (a : Access) : (s.acquireCopies a).m.mem = s.m.mem := by
  simp [State.acquireCopies]

@[simp] theorem State.addArrears_mem (s : State) (point clks : ℕ) (waiting : List ℕ) :
    (s.addArrears point clks waiting).m.mem = s.m.mem := by
  simp [State.addArrears]

@[simp] theorem State.addL1_mem (s : State) (core loc pa : ℕ) : (s.addL1 core loc pa).m.mem = s.m.mem := by
  unfold State.addL1
  dsimp only
  (repeat' split) <;> simp

@[simp] theorem State.bindGroups_mem (s : State) (t core : ℕ) : (s.bindGroups t core).m.mem = s.m.mem := by
  simp [State.bindGroups]

@[simp] theorem State.addTeam_mem (s : State) (x : Team) : (s.addTeam x).m.mem = s.m.mem := by
  simp [State.addTeam]

@[simp] theorem State.addTlb_mem (s : State) (at_ : TlbAt) (asid : ℕ) (lf : Leaf) :
    (s.addTlb at_ asid lf).m.mem = s.m.mem :=
  rfl

@[simp] theorem State.freshConst_mem (s : State) (g core asid : ℕ) : (s.freshConst g core asid).m.mem = s.m.mem := by
  unfold State.freshConst
  split <;> rfl

@[simp] theorem State.dropGuests_mem (s : State) (pa : ℕ) (f : ℕ → Bool) : (s.dropGuests pa f).m.mem = s.m.mem := rfl

@[simp] theorem State.voidFills_mem (s : State) (core slice base lg : ℕ) :
    (s.voidFills core slice base lg).m.mem = s.m.mem :=
  rfl

@[simp] theorem State.dropRegion_mem (s : State) (slice base lg core : ℕ) :
    (s.dropRegion slice base lg core).m.mem = s.m.mem := by
  simp [State.dropRegion]

@[simp] theorem State.dropEntry_mem (s : State) (r : Region) : (s.dropEntry r).m.mem = s.m.mem := by
  simp [State.dropEntry]

@[simp] theorem State.entryRoom_mem (s : State) (die slice : ℕ) (keep : Region → Bool) :
    (s.entryRoom die slice keep).m.mem = s.m.mem := by
  unfold State.entryRoom
  dsimp only
  (repeat' split) <;> simp

@[simp] theorem State.splitFor_mem (s : State) (writer : Option ℕ) (die pa : ℕ) :
    (s.splitFor writer die pa).1.m.mem = s.m.mem := by
  unfold State.splitFor
  dsimp only
  (repeat' split) <;> simp

@[simp] theorem State.conflictNow_mem (s : State) (pa : ℕ) : (s.conflictNow pa).m.mem = s.m.mem := by
  simp [State.conflictNow]

@[simp] theorem State.writeBack_mem (s : State) (line : ℕ) : (s.writeBack line).m.mem = s.m.mem := rfl

@[simp] theorem State.fillSplits_mem (s : State) (t : ℕ) : (s.fillSplits t).m.mem = s.m.mem := by
  simp [State.fillSplits]

@[simp] theorem State.restartRounds_mem (s : State) (gu : ℕ) : (s.restartRounds gu).m.mem = s.m.mem := rfl

@[simp] theorem State.postHeld_mem (s : State) (sid seq : ℕ) : (s.postHeld sid seq).m.mem = s.m.mem := by
  unfold State.postHeld
  dsimp only
  split <;> simp

@[simp] theorem State.replayHeld_mem (s : State) (sid seq : ℕ) : (s.replayHeld sid seq).m.mem = s.m.mem := by
  simp [State.replayHeld]

@[simp] theorem State.replayResolved_mem (s : State) (t : ℕ) : (s.replayResolved t).m.mem = s.m.mem := by
  simp [State.replayResolved]

@[simp] theorem State.retix_mem (s : State) (t : ℕ) : (s.retix t).m.mem = s.m.mem := by
  simp [State.retix]

@[simp] theorem State.modCopy_mem (s : State) (id : ℕ) (f : Copy → Copy) : (s.modCopy id f).m.mem = s.m.mem := rfl

@[simp] theorem State.resumeCopy_mem (s : State) (c : Copy) : (s.resumeCopy c).m.mem = s.m.mem := by
  simp [State.resumeCopy]

@[simp] theorem State.advanceGen_mem (s0 s : State) (n : ℕ) : (s0.advanceGen s n).m.mem = s.m.mem := by
  simp [State.advanceGen]

@[simp] theorem State.ageWaits_mem (s : State) : s.ageWaits.m.mem = s.m.mem := rfl

@[simp] theorem State.dropSharers_mem (s : State) (die pa : ℕ) : (s.dropSharers die pa).m.mem = s.m.mem := by
  unfold State.dropSharers
  split <;> simp

@[simp] theorem State.purgeLine_mem (s : State) (pa : ℕ) : (s.purgeLine pa).m.mem = s.m.mem := by
  simp [State.purgeLine]

@[simp] theorem State.aliasCheck_mem (s : State) (die pa : ℕ) (tracked : Bool) (core asid : ℕ) :
    (s.aliasCheck die pa tracked core asid).m.mem = s.m.mem := by
  unfold State.aliasCheck
  split <;> simp

@[simp] theorem State.breach_mem (s : State) (a : Agent) (pa : ℕ) (write : Bool) :
    (s.breach a pa write).m.mem = s.m.mem :=
  rfl

@[simp] theorem State.noteAlias_mem (s : State) (pa loc : ℕ) : (s.noteAlias pa loc).m.mem = s.m.mem := by
  simp [State.noteAlias, State.addSnap_mem]

@[simp] theorem State.resCount_mem (s : State) (die pa : ℕ) : (s.resCount die pa).1.m.mem = s.m.mem := by
  unfold State.resCount
  split <;> rfl

@[simp] theorem State.evictL2_mem (s : State) (x : L2Line) : (s.evictL2 x).m.mem = s.m.mem := by
  simp [State.evictL2]

@[simp] theorem State.evictOne_mem (s : State) (die pa : ℕ) (f : L2Line → Bool) :
    (s.evictOne die pa f).m.mem = s.m.mem := by
  unfold State.evictOne
  split <;> simp

@[simp] theorem State.l2Hit_mem (s : State) (die pa : ℕ) (tracked : Bool) (cls : Option ℕ) (y : L2Line) :
    (s.l2Hit die pa tracked cls y).m.mem = s.m.mem := by
  unfold State.l2Hit
  split <;> simp

@[simp] theorem State.l2Miss_mem (s : State) (die pa loc : ℕ) (tracked nt guest : Bool) (cls : Option ℕ) :
    (s.l2Miss die pa loc tracked nt guest cls).m.mem = s.m.mem := by
  unfold State.l2Miss
  dsimp only
  (repeat' split) <;> simp

@[simp] theorem State.l2Place_mem (s : State) (die pa loc : ℕ) (tracked nt guest : Bool) :
    (s.l2Place die pa loc tracked nt guest).m.mem = s.m.mem := by
  unfold State.l2Place
  dsimp only
  split <;> simp

@[simp] theorem State.l2Touch_mem (s : State) (die pa loc : ℕ) (tracked nt : Bool) (core asid : ℕ) :
    (s.l2Touch die pa loc tracked nt core asid).m.mem = s.m.mem := by
  simp [State.l2Touch]

@[simp] theorem State.notify_mem (s : State) (r : Rec) (bad : Bool) : (s.notify r bad).m.mem = s.m.mem := rfl

@[simp] theorem State.unpark_mem (s : State) (p : Split) : (s.unpark p).m.mem = s.m.mem := rfl

@[simp] theorem State.clearRound_mem (s : State) (r : Round) : (s.clearRound r).m.mem = s.m.mem := by
  unfold State.clearRound
  split <;> rfl

@[simp] theorem State.discard_mem (s : State) (r : Rec) : (s.discard r).m.mem = s.m.mem := by
  simp [State.discard]

@[simp] theorem State.arm_mem (s : State) (c : SliceId) (loc n : ℕ) : (s.arm c loc n).m.mem = s.m.mem := rfl

@[simp] theorem State.armRead_mem (s : State) (c : SliceId) (loc n : ℕ) : (s.armRead c loc n).m.mem = s.m.mem := by
  unfold State.armRead
  split <;> simp

@[simp] theorem State.place_mem (s : State) (p : Split) : (s.place p).m.mem = s.m.mem := by
  unfold State.place
  split <;> simp

@[simp] theorem State.mergeNames_mem (s : State) (old new : ℕ) : (s.mergeNames old new).m.mem = s.m.mem := rfl

@[simp] theorem State.arrive_mem (s : State) (sid : ℕ) (cs : List ℕ) : (s.arrive sid cs).m.mem = s.m.mem := by
  unfold State.arrive
  dsimp only
  (repeat' split) <;> simp

@[simp] theorem State.syncPoint_mem (s : State) (ts : List ℕ) : (s.syncPoint ts).m.mem = s.m.mem := rfl

@[simp] theorem State.roundAcquire_mem (s : State) (r : Round) : (s.roundAcquire r).m.mem = s.m.mem := by
  unfold State.roundAcquire
  split <;> simp

@[simp] theorem State.complete_mem (s : State) (r : Round) : (s.complete r).m.mem = s.m.mem := by
  unfold State.complete
  split <;> simp

@[simp] theorem State.checkRound_mem (s : State) (r : Round) : (s.checkRound r).m.mem = s.m.mem := by
  unfold State.checkRound
  (repeat' split) <;> simp

@[simp] theorem State.checkRounds_mem (s : State) (t : ℕ) : (s.checkRounds t).m.mem = s.m.mem := by
  unfold State.checkRounds
  dsimp only
  split <;> simp

@[simp] theorem State.noteArrival_mem (s : State) (r : Round) : (s.noteArrival r).m.mem = s.m.mem := by
  unfold State.noteArrival
  split <;> rfl

@[simp] theorem State.deliverAll_mem (s0 : State) (vd k : ℕ) (f : ℕ → ℕ) :
    (s0.deliverAll vd k f).m.mem = s0.m.mem := by
  simp [State.deliverAll]

@[simp] theorem State.setM_mem (s : State) (c : SliceId) (n : ℕ) (m : BitVec 4) : (s.setM c n m).m.mem = s.m.mem := by
  unfold State.setM
  split <;> rfl

@[simp] theorem State.setMBit_mem (s : State) (l : LaneId) (n : ℕ) (b : Bool) :
    (s.setMBit l n b).m.mem = s.m.mem := by
  simp [State.setMBit]

@[simp] theorem State.deliverMask_mem (s0 : State) (md : ℕ) (f : ℕ → Bool) :
    (s0.deliverMask md f).m.mem = s0.m.mem := by
  simp [State.deliverMask]

@[simp] theorem State.divide_mem (s : State) (sid : ℕ) (pcOf : ℕ → Pc) (upd : Split → Split) :
    (s.divide sid pcOf upd).m.mem = s.m.mem := by
  unfold State.divide
  (repeat' split) <;> simp

@[simp] theorem State.setSAll_mem (s : State) (n : ℕ) (w : Word) : (s.setSAll n w).m.mem = s.m.mem := by
  simp [State.setSAll]

@[simp] theorem State.link_mem (s : State) : s.link.m.mem = s.m.mem := by
  simp [State.link]

@[simp] theorem State.sweep_mem (s : State) (sid : ℕ) : (s.sweep sid).m.mem = s.m.mem := by
  unfold State.sweep
  split <;> simp

@[simp] theorem State.fuse_mem (s : State) (p : Split) : (s.fuse p).m.mem = s.m.mem := by
  simp [State.fuse]

@[simp] theorem State.returnFromTrap_mem (s : State) (sid : ℕ) : (s.returnFromTrap sid).m.mem = s.m.mem := by
  unfold State.returnFromTrap
  split <;> simp

@[simp] theorem State.reseed_mem (s : State) (c : SliceId) (v : Word) : (s.reseed c v).m.mem = s.m.mem := rfl

@[simp] theorem State.sysWrite_mem (s : State) (c : SliceId) (n : ℕ) (v : Word) :
    (s.sysWrite c n v).m.mem = s.m.mem := by
  simp [State.sysWrite]

@[simp] theorem State.countChunk_mem (s : State) (core asid : ℕ) (lf : Leaf) (pa : ℕ) :
    (s.countChunk core asid lf pa).m.mem = s.m.mem := by
  simp [State.countChunk]

@[simp] theorem State.countChunks_mem (s : State) (core asid : ℕ) (ps : List (Leaf × ℕ)) :
    (s.countChunks core asid ps).m.mem = s.m.mem := by
  simp [State.countChunks]

@[simp] theorem State.freshSnap_mem (s : State) (h : Holder) (line : ℕ) : (s.freshSnap h line).m.mem = s.m.mem := by
  simp [State.freshSnap, State.addSnap_mem]

@[simp] theorem State.guest_mem (s : State) (home die pa loc : ℕ) (nt : Bool) :
    (s.guest home die pa loc nt).m.mem = s.m.mem := by
  simp [State.guest]

@[simp] theorem State.share_mem (s : State) (core pa : ℕ) : (s.share core pa).m.mem = s.m.mem := by
  unfold State.share
  dsimp only
  split <;> simp

@[simp] theorem State.fillL1_mem (s : State) (core : ℕ) (lf : Leaf) (pa loc : ℕ) (nt : Bool) :
    (s.fillL1 core lf pa loc nt).m.mem = s.m.mem := by
  simp [State.fillL1]

@[simp] theorem State.fillAway_mem (s : State) (core dev pa loc : ℕ) (nt : Bool) :
    (s.fillAway core dev pa loc nt).m.mem = s.m.mem := by
  simp [State.fillAway]

@[simp] theorem State.guestAway_mem (s : State) (core dev pa loc : ℕ) (nt : Bool) :
    (s.guestAway core dev pa loc nt).m.mem = s.m.mem := by
  simp [State.guestAway]

@[simp] theorem State.noteNear_mem (s : State) (p : Split) (f : FenceIn) : (s.noteNear p f).m.mem = s.m.mem := by
  unfold State.noteNear
  split <;> rfl

@[simp] theorem State.startMat_mem (s : State) (core : ℕ) (g : GroupId) (vd n occ late : ℕ) (rs : List (ℕ × ℕ)) :
    (s.startMat core g vd n occ late rs).m.mem = s.m.mem :=
  rfl

@[simp] theorem State.runMma_mem (s : State) (g : GroupId) (fs : List Frag) (vd vc ty : ℕ) (r : Rnd) (sat : Bool)
    (occ : ℕ) : (s.runMma g fs vd vc ty r sat occ).m.mem = s.m.mem := by
  simp [State.runMma]

@[simp] theorem State.deposit_mem (s : State) (key : List ℕ) (f : Frag) (vd vc : ℕ) :
    (s.deposit key f vd vc).m.mem = s.m.mem :=
  rfl

@[simp] theorem State.issueCopy_mem (s : State) (c : Copy) : (s.issueCopy c).m.mem = s.m.mem := by
  unfold State.issueCopy
  dsimp only
  split <;> simp

@[simp] theorem State.modTile_mem (s : State) (k : ℕ × ℕ) (f : Tile → Tile) : (s.modTile k f).m.mem = s.m.mem := rfl

@[simp] theorem State.putTile_mem (s : State) (t : Tile) : (s.putTile t).m.mem = s.m.mem := by
  unfold State.putTile
  split <;> rfl

@[simp] theorem State.startDrain_mem (s : State) (team : ℕ) (f : Foot) (write : Bool) (lanes : List LaneId) :
    (s.startDrain team f write lanes).m.mem = s.m.mem :=
  rfl

@[simp] theorem State.release_mem (s : State) (h : Tenure) (lanes : List LaneId) :
    (s.release h lanes).m.mem = s.m.mem :=
  rfl

@[simp] theorem State.dieWalks_mem (s : State) (die asid va : ℕ) : (s.dieWalks die asid va).m.mem = s.m.mem := by
  unfold State.dieWalks
  split <;> rfl

@[simp] theorem State.callLine_mem (s : State) (ag : Agent) (lf : Leaf) (va : ℕ) (write : Bool) :
    (s.callLine ag lf va write).m.mem = s.m.mem := by
  simp [State.callLine]

@[simp] theorem State.readQueue_mem (s : State) (q : ℕ) : (s.readQueue q).m.mem = s.m.mem := by
  simp [State.readQueue]

@[simp] theorem State.ring_mem (s : State) (q : ℕ) : (s.ring q).m.mem = s.m.mem := rfl

@[simp] theorem State.taskErr_mem (s : State) (die : ℕ) : (s.taskErr die).m.mem = s.m.mem := rfl

@[simp] theorem State.poisonEvent_mem (s : State) (lf : Option Leaf) (pa die : ℕ) :
    (s.poisonEvent lf pa die).m.mem = s.m.mem := by
  unfold State.poisonEvent
  split <;> simp

@[simp] theorem State.finish_mem (s : State) (a : Access) : (s.finish a).m.mem = s.m.mem := by
  unfold State.finish
  split <;> rfl

@[simp] theorem State.scaleLand_mem (s : State) (a : Access) : (s.scaleLand a).m.mem = s.m.mem := rfl

@[simp] theorem State.squash_mem (s : State) (l : LaneId) : (s.squash l).m.mem = s.m.mem := rfl

@[simp] theorem State.releaseSystem_mem (s : State) (a : Access) : (s.releaseSystem a).m.mem = s.m.mem := by
  unfold State.releaseSystem
  split <;> rfl

@[simp] theorem State.modAcc_mem (s : State) (id : ℕ) (f : Access → Access) : (s.modAcc id f).m.mem = s.m.mem := rfl

@[simp] theorem State.holdAccess_mem (s : State) (a : Access) (va code : ℕ) :
    (s.holdAccess a va code).m.mem = s.m.mem := by
  simp [State.holdAccess]

@[simp] theorem State.fillFc_mem (s : State) (core : ℕ) (lf : Leaf) (va : ℕ) :
    (s.fillFc core lf va).m.mem = s.m.mem := by
  simp [State.fillFc]

@[simp] theorem State.keepCopy_mem (s : State) (h : Holder) (line : ℕ) : (s.keepCopy h line).m.mem = s.m.mem := by
  unfold State.keepCopy
  dsimp only
  split <;> simp [State.addSnap_mem]

@[simp] theorem State.fillFor_mem (s : State) (a : Access) (lf : Leaf) : (s.fillFor a lf).m.mem = s.m.mem := by
  simp [State.fillFor]

@[simp] theorem State.fillRemote_mem (s : State) (a : Access) : (s.fillRemote a).2.m.mem = s.m.mem := by
  unfold State.fillRemote
  dsimp only
  (repeat' split) <;> simp

@[simp] theorem State.missValue_mem (s : State) (a : Access) (lf : Leaf) : (s.missValue a lf).2.m.mem = s.m.mem := by
  unfold State.missValue
  (repeat' split) <;> simp

@[simp] theorem State.readFor_mem (s : State) (a : Access) (hit : Bool) : (s.readFor a hit).2.m.mem = s.m.mem := by
  unfold State.readFor
  (repeat' split) <;> simp

@[simp] theorem State.fixLoad_mem (s : State) (a : Access) (hit : Bool) : (s.fixLoad a hit).m.mem = s.m.mem := by
  simp [State.fixLoad]

@[simp] theorem State.performLoad_mem (s : State) (a : Access) (hit : Bool) :
    (s.performLoad a hit).m.mem = s.m.mem := by
  simp [State.performLoad]

@[simp] theorem State.wakeSplit_mem (s : State) (p : Split) : (s.wakeSplit p).m.mem = s.m.mem := by
  simp [State.wakeSplit]

@[simp] theorem State.dropAwayLine_mem (s : State) (line : ℕ) : (s.dropAwayLine line).m.mem = s.m.mem := by
  simp [State.dropAwayLine]

@[simp] theorem State.flushLine_mem (s : State) (lf : Leaf) (pa line : ℕ) :
    (s.flushLine lf pa line).m.mem = s.m.mem := by
  unfold State.flushLine
  dsimp only
  split <;> simp

@[simp] theorem State.cacheLine_mem (s : State) (a : Access) (lf : Leaf) (op : ℕ) :
    (s.cacheLine a lf op).m.mem = s.m.mem := by
  unfold State.cacheLine
  split <;> simp

@[simp] theorem State.serveCache_mem (s : State) (a : Access) (lf : Leaf) (op : ℕ) :
    (s.serveCache a lf op).m.mem = s.m.mem := by
  simp [State.serveCache]

@[simp] theorem State.modMates_mem (s : State) (a : Access) (f : Access → Access) :
    (s.modMates a f).m.mem = s.m.mem := by
  simp [State.modMates]

@[simp] theorem State.meetTenure_mem (s : State) (a : Access) (lf : Leaf) : (s.meetTenure a lf).m.mem = s.m.mem := by
  unfold State.meetTenure
  split <;> rfl

@[simp] theorem State.l2Pass_mem (s : State) (die pa : ℕ) (tracked : Bool) :
    (s.l2Pass die pa tracked).m.mem = s.m.mem := by
  unfold State.l2Pass
  dsimp only
  split <;> simp

@[simp] theorem State.l2Bypass_mem (s : State) (die pa : ℕ) (tracked : Bool) (core asid : ℕ) :
    (s.l2Bypass die pa tracked core asid).m.mem = s.m.mem := by
  simp [State.l2Bypass]

@[simp] theorem State.sendInv_mem (s : State) (access : ℕ) (core : Option ℕ) (die slice base lg : ℕ) :
    (s.sendInv access core die slice base lg).m.mem = s.m.mem :=
  rfl

@[simp] theorem State.conflictAt_mem (s : State) (access : ℕ) (writer : Option ℕ) (die pa : ℕ) :
    (s.conflictAt access writer die pa).m.mem = s.m.mem := by
  simp [State.conflictAt]

@[simp] theorem State.conflicts_mem (s : State) (access : ℕ) (writer : Option ℕ) (home pa : ℕ) :
    (s.conflicts access writer home pa).m.mem = s.m.mem := by
  unfold State.conflicts
  dsimp only
  split <;> simp

@[simp] theorem State.grantAt_mem (s : State) (i : ℕ) : (s.grantAt i).m.mem = s.m.mem := by
  unfold State.grantAt
  split <;> simp

@[simp] theorem State.copyPoison_mem (s : State) (c : Copy) (va : ℕ) : (s.copyPoison c va).m.mem = s.m.mem := by
  unfold State.copyPoison
  split <;> simp

@[simp] theorem State.modBin_mem (s : State) (id : ℕ) (f : Bin → Bin) : (s.modBin id f).m.mem = s.m.mem := rfl

@[simp] theorem State.shipIf_mem (s : State) (f : Bin → Bool) : (s.shipIf f).m.mem = s.m.mem := rfl

@[simp] theorem State.shipFull_mem (s : State) (die : ℕ) : (s.shipFull die).m.mem = s.m.mem := rfl

@[simp] theorem State.binRecord_mem (s : State) (die : ℕ) (r : Rec) : (s.binRecord die r).m.mem = s.m.mem := by
  unfold State.binRecord
  dsimp only
  (repeat' split) <;> simp

@[simp] theorem State.settleDeliver_mem (s : State) (l : LaneId) (vd : ℕ) : (s.settleDeliver l vd).m.mem = s.m.mem :=
  rfl

@[simp] theorem State.badAccess_mem (s : State) : s.badAccess.m.mem = s.m.mem := rfl

@[simp] theorem State.dieCall_mem (s : State) (asid : ℕ) (lf : Leaf) (va : ℕ) (write : Bool) :
    (s.dieCall asid lf va write).m.mem = s.m.mem := by
  simp [State.dieCall]

@[simp] theorem State.raiseIrq_mem (s : State) (v : ℕ) : (s.raiseIrq v).m.mem = s.m.mem := by
  unfold State.raiseIrq
  split <;> rfl

@[simp] theorem State.dropTlb_mem (s : State) (ws : List ℕ) : (s.dropTlb ws).m.mem = s.m.mem := rfl

@[simp] theorem State.dropRun_mem (s : State) (a : Access) : (s.dropRun a).m.mem = s.m.mem := rfl

@[simp] theorem State.markSaving_mem (s : State) (ts : List ℕ) : (s.markSaving ts).m.mem = s.m.mem := by
  simp [State.markSaving]

@[simp] theorem State.callRecord_mem (s : State) (die asid va : ℕ) : (s.callRecord die asid va).m.mem = s.m.mem := by
  unfold State.callRecord
  split <;> simp

@[simp] theorem State.walkTouch_mem (s : State) (pa : ℕ) : (s.walkTouch pa).m.mem = s.m.mem := by
  simp [State.walkTouch]

@[simp] theorem State.walkAll_mem (s : State) (die asid va : ℕ) : (s.walkAll die asid va).m.mem = s.m.mem := by
  simp [State.walkAll]

@[simp] theorem State.haltTeam_mem (s : State) (t : ℕ) : (s.haltTeam t).m.mem = s.m.mem := by
  simp [State.haltTeam]

@[simp] theorem State.freeRange_mem (s : State) (die n : ℕ) : (s.freeRange die n).m.mem = s.m.mem := rfl

@[simp] theorem State.hostDieWrite_mem (s : State) (die n v : ℕ) : (s.hostDieWrite die n v).m.mem = s.m.mem := by
  unfold State.hostDieWrite
  split <;> simp

@[simp] theorem State.msixWrite_mem (s : State) (i v : ℕ) : (s.msixWrite i v).m.mem = s.m.mem := by
  unfold State.msixWrite
  split <;> rfl

@[simp] theorem State.barWrite_mem (s : State) (off v : ℕ) : (s.barWrite off v).m.mem = s.m.mem := by
  simp [State.barWrite]

@[simp] theorem State.shrinkWays_mem (s : State) (die ways : ℕ) : (s.shrinkWays die ways).m.mem = s.m.mem := by
  simp [State.shrinkWays]

@[simp] theorem State.hostFault_mem (s : State) (code va info : ℕ) : (s.hostFault code va info).m.mem = s.m.mem := rfl

@[simp] theorem State.hostBytes_mem (s : State) (loc n : ℕ) : (s.hostBytes loc n).2.m.mem = s.m.mem := by
  unfold State.hostBytes
  split <;> rfl

@[simp] theorem State.spdmError_mem (s : State) : s.spdmError.m.mem = s.m.mem := rfl

@[simp] theorem State.bringUpFail_mem (s : State) (stage code : ℕ) : (s.bringUpFail stage code).m.mem = s.m.mem := rfl

@[simp] theorem State.passStages_mem (s : State) (e : EventArg) (n : ℕ) : (s.passStages e n).m.mem = s.m.mem := by
  simp [State.passStages]

@[simp] theorem State.setCtrl_mem (s : State) (c : ℕ) (x : Ctrl) : (s.setCtrl c x).m.mem = s.m.mem := rfl

@[simp] theorem State.startAll_mem (s : State) : s.startAll.m.mem = s.m.mem := by
  unfold State.startAll
  simp
  (repeat' split) <;> simp

@[simp] theorem State.setClock_mem (s : State) (mhz : ℕ) : (s.setClock mhz).m.mem = s.m.mem := by
  unfold State.setClock
  split <;> rfl

@[simp] theorem State.bumpStored_mem (s : State) (k : ℕ × ℕ × ℕ) : (s.bumpStored k).m.mem = s.m.mem := rfl

@[simp] theorem State.freeDispatch_mem (s : State) (c : ℕ) : (s.freeDispatch c).m.mem = s.m.mem := rfl

@[simp] theorem State.holdDispatch_mem (s : State) (c : ℕ) : (s.holdDispatch c).m.mem = s.m.mem := by
  unfold State.holdDispatch
  split <;> rfl

@[simp] theorem State.endRollback_mem (s : State) (c : ℕ) : (s.endRollback c).m.mem = s.m.mem := by
  unfold State.endRollback
  split <;> rfl

@[simp] theorem State.corrected_mem (s : State) (parts : List ℕ) : (s.corrected parts).m.mem = s.m.mem := by
  simp [State.corrected]

@[simp] theorem State.persist_mem (s : State) : s.persist.m.mem = s.m.mem := rfl

@[simp] theorem State.spdm_mem (s : State) (need stage code : ℕ) (data : List ℕ) :
    (s.spdm need stage code data).m.mem = s.m.mem := by
  unfold State.spdm
  split <;> rfl

@[simp] theorem State.holdPeer_mem (s : State) (r : Request) (pa size v : ℕ) (hs : List Tenure) :
    (s.holdPeer r pa size v hs).m.mem = s.m.mem := by
  unfold State.holdPeer
  split <;> rfl

@[simp] theorem State.migrationHold_mem (s : State) (asid page dest : ℕ) :
    (s.migrationHold asid page dest).m.mem = s.m.mem := by
  unfold State.migrationHold
  (repeat' split) <;> simp

@[simp] theorem State.releaseHold_mem (s : State) (asid page size : ℕ) :
    (s.releaseHold asid page size).m.mem = s.m.mem := by
  simp [State.releaseHold]

@[simp] theorem State.dropPage_mem (s : State) (asid page size : ℕ) : (s.dropPage asid page size).m.mem = s.m.mem :=
  rfl

@[simp] theorem State.modRsh_mem (s : State) (id : ℕ) (f : Rsh → Rsh) : (s.modRsh id f).m.mem = s.m.mem := rfl

@[simp] theorem State.rshPromote_mem (s : State) (die : ℕ) : (s.rshPromote die).m.mem = s.m.mem := by
  unfold State.rshPromote
  dsimp only
  (repeat' split) <;> simp

@[simp] theorem State.dropRsh_mem (s : State) (r : Rsh) : (s.dropRsh r).m.mem = s.m.mem := by
  simp [State.dropRsh]

@[simp] theorem State.rshAnswer_mem (s : State) (r : Rsh) (code : ℕ) : (s.rshAnswer r code).m.mem = s.m.mem := by
  unfold State.rshAnswer
  split <;> simp

@[simp] theorem State.fenceEffect_mem (s : State) (f : FenceIn) : (s.fenceEffect f).m.mem = s.m.mem := by
  simp [State.fenceEffect]

@[simp] theorem State.endFences_mem (s : State) (p : Split) : (s.endFences p).m.mem = s.m.mem := by
  simp [State.endFences]

@[simp] theorem State.endRollbacks_mem (s : State) : s.endRollbacks.m.mem = s.m.mem := by
  simp [State.endRollbacks]

@[simp] theorem State.examineWaits_mem (s : State) : s.examineWaits.m.mem = s.m.mem := rfl

@[simp] theorem State.fetchTouch_mem (s : State) (core asid chain : ℕ) (lf : Leaf) (pa loc : ℕ) :
    (s.fetchTouch core asid chain lf pa loc).m.mem = s.m.mem := by
  simp [State.fetchTouch]

@[simp] theorem State.waitFetch_mem (s : State) (p : Split) : (s.waitFetch p).m.mem = s.m.mem := rfl

@[simp] theorem State.latch_mem (s : State) (p : Split) (b : Option Pblk) : (s.latch p b).m.mem = s.m.mem := by
  unfold State.latch
  split <;> simp

@[simp] theorem State.take_mem (s : State) (p : Split) (u : IssueUnit) : (s.take p u).m.mem = s.m.mem := by
  simp [State.take]

@[simp] theorem State.holdFetch_mem (s : State) (p : Split) (unitPc : Pc) (code addr : ℕ) (wordPc : Pc) :
    (s.holdFetch p unitPc code addr wordPc).m.mem = s.m.mem :=
  rfl

@[simp] theorem State.unlatch_mem (t s : State) (p : Split) (b : Option Pblk) :
    (t.unlatch s p b).m.mem = t.m.mem := by
  unfold State.unlatch
  split <;> simp

@[simp] theorem State.noteSent_mem (s : State) : s.noteSent.m.mem = s.m.mem := by
  unfold State.noteSent
  split <;> rfl

@[simp] theorem State.prune_mem (s : State) : s.prune.m.mem = s.m.mem := rfl

@[simp] theorem State.releaseExited_mem (s : State) : s.releaseExited.m.mem = s.m.mem := by
  simp [State.releaseExited]

@[simp] theorem State.runWalks_mem (s : State) : s.runWalks.m.mem = s.m.mem := by
  simp [State.runWalks]

@[simp] theorem State.shipCovered_mem (s : State) (p : Split) : (s.shipCovered p).m.mem = s.m.mem := by
  unfold State.shipCovered
  split <;> rfl

@[simp] theorem State.recordStop_mem (s : State) (p : Split) : (s.recordStop p).m.mem = s.m.mem := by
  simp [State.recordStop]

@[simp] theorem State.fillArgs_mem (s : State) (t : ℕ) : (s.fillArgs t).m.mem = s.m.mem := by
  simp only [State.fillArgs]
  refine State.foldl_mem _ _ _ fun u g => State.foldl_mem _ _ _ fun v c => State.foldl_mem _ _ _ fun w x => ?_
  split <;> rfl

@[simp] theorem State.fuseAll_mem (s : State) (t g n : ℕ) : (s.fuseAll t g n).m.mem = s.m.mem := by
  induction n generalizing s with
  | zero => rfl
  | succ n ih => unfold State.fuseAll; split <;> simp [ih]

@[simp] theorem State.markVs_mem (s : State) (l : LaneId) (n : ℕ) (e : Bool) (k : ℕ) :
    (s.markVs l n e k).m.mem = s.m.mem := by
  induction k generalizing s n with
  | zero => rfl
  | succ n ih => unfold State.markVs; simp [ih]

@[simp] theorem State.issueAccesses_mem (s : State) (o : MemOp) (ps : List LanePlan) :
    (s.issueAccesses o ps).m.mem = s.m.mem := by
  obtain ⟨⟨_, _, _, _, _, _, _, _, _, h⟩, -⟩ := s.issueAccesses_spec o ps
  rw [h]

@[simp] theorem State.issueFetch_mem (s : State) (minor vd va : ℕ) (data aux : Layout) :
    (s.issueFetch minor vd va data aux).m.mem = s.m.mem := by
  simp [State.issueFetch]

@[simp] theorem State.fillOnly_mem (s : State) (a : Access) : (s.fillOnly a).m.mem = s.m.mem := by
  simp [State.fillOnly]

@[simp] theorem State.callBlocks_mem (s : State) (w : TaskAt) (g : Grid) (xs : List (ℕ × Bool)) :
    (s.callBlocks w g xs).m.mem = s.m.mem :=
  State.foldl_mem _ _ _ fun t x => by split <;> simp

@[simp] theorem State.callMoves_mem (s : State) (c : Copy) (ms : Moves) : (s.callMoves c ms).m.mem = s.m.mem :=
  State.foldl_mem _ _ _ fun t x => by split <;> simp

@[simp] theorem State.callTask_mem (s : State) (k : ReadyTask) : (s.callTask k).m.mem = s.m.mem := by
  simp [State.callTask]

@[simp] theorem State.callHeads_mem (s : State) (die : ℕ) : (s.callHeads die).m.mem = s.m.mem := by
  unfold State.callHeads
  dsimp only
  rw [State.foldl_mem, State.foldl_mem]
  · intro t x; simp
  · intro t x; dsimp only; split
    · rfl
    · split <;> simp

@[simp] theorem State.requestHalt_mem (s : State) (g : GroupId) : (s.requestHalt g).m.mem = s.m.mem := by
  unfold State.requestHalt
  split
  · rfl
  · dsimp only; split <;> simp

@[simp] theorem State.rshDeliver_mem (s : State) (r : Rsh) (w : Option Word) : (s.rshDeliver r w).m.mem = s.m.mem := by
  unfold State.rshDeliver
  split
  · rfl
  · exact State.foldl_mem _ _ _ fun t x => by split <;> simp

@[simp] theorem State.cancelAccess_mem (s : State) (a : Access) : (s.cancelAccess a).m.mem = s.m.mem := by
  simp [State.cancelAccess]

@[simp] theorem State.finishStep_mem (s : State) (p : Split) : (s.finishStep p).m.mem = s.m.mem := by
  unfold State.finishStep
  dsimp only
  split
  · rfl
  · split
    · simp
    · split <;> simp

@[simp] theorem State.settleUnit_mem (s t : State) (p : Split) (b : Option Pblk) :
    (t.settleUnit s p b).m.mem = t.m.mem := by
  simp [State.settleUnit]

end Sys2Proof.Machine

/-! SUPPORT. The operations that write memory keep it in canonical form (R155, R158). -/

namespace Sys2Proof.Machine

/-- Every step of a fold keeps memory in canonical form. -/
def WfKept {α : Type} (f : State → α → State) : Prop := ∀ t x, t.MemWf → (f t x).MemWf

@[simp] theorem wfKept_iff {α : Type} (f : State → α → State) :
    WfKept f ↔ ∀ t x, Memory.above 0 t.m.mem = true → Memory.above 0 (f t x).m.mem = true :=
  .rfl

@[simp] theorem State.foldl_wf {α : Type} (l : List α) (f : State → α → State) (s : State) (h : Memory.wf s.m.mem)
    (hf : WfKept f) : Memory.wf (l.foldl f s).m.mem := by
  induction l generalizing s with
  | nil => exact h
  | cons x xs ih => exact ih _ (hf _ _ h)

@[simp] theorem Memory.wf_ite (c : Prop) [Decidable c] (a b : List Host.Cell) :
    Memory.above 0 (if c then a else b) = if c then Memory.above 0 a else Memory.above 0 b := by split <;> rfl

theorem Memory.foldl_clear_wf {α : Type} (l : List α) (lo hi : α → Nat) (m : List Host.Cell) (h : Memory.wf m) :
    Memory.wf (l.foldl (fun m c => Memory.clear m (lo c) (hi c)) m) := by
  induction l generalizing m with
  | nil => exact h
  | cons x xs ih => exact ih _ (Memory.wf_clear _ _ h)

theorem State.wf_of_mem {s t : State} (h : Memory.wf s.m.mem) (e : t.m.mem = s.m.mem) : Memory.wf t.m.mem := e ▸ h

theorem State.MemWf.physStore {s : State} (h : s.MemWf) (pa v n : Nat) : (s.physStore pa v n).MemWf :=
  State.physStore_wf pa v n h

@[simp] theorem State.queueError_wf {s : State} (q : ℕ) (rec16 : List Word) (h : Memory.wf s.m.mem) :
    Memory.wf (s.queueError q rec16).m.mem := by
  simp [State.queueError, Memory.wf, h, State.physStore_wf, State.storeWords_wf]

@[simp] theorem State.abortGrid_wf {s : State} (g : ℕ) (rec16 : List Word) (h : Memory.wf s.m.mem) :
    Memory.wf (s.abortGrid g rec16).m.mem := by
  simp [State.abortGrid, Memory.wf, h]

@[simp] theorem State.takeFault_wf {s : State} (sid : ℕ) (f : FaultInfo) (next : Pc) (h : Memory.wf s.m.mem) :
    Memory.wf (s.takeFault sid f next).m.mem := by
  unfold State.takeFault
  dsimp only
  (repeat' split) <;> simp [Memory.wf, h]

@[simp] theorem State.fault_wf {s : State} (f : FaultInfo) (h : Memory.wf s.m.mem) : Memory.wf (s.fault f).m.mem := by
  simp [State.fault, Memory.wf, h]

@[simp] theorem State.takeChip_wf {s : State} (gu die : ℕ) (h : Memory.wf s.m.mem) :
    Memory.wf (s.takeChip gu die).m.mem := by
  unfold State.takeChip
  dsimp only
  split
  · exact h
  · split
    · exact h
    · dsimp only [State.modGrid_m]
      generalize List.range 256 = cs
      exact Memory.foldl_clear_wf _ _ _ _ h

@[simp] theorem State.homeWrite_wf {s : State} (lf : Leaf) (pa loc v n : ℕ) (msc : Bool) (h : Memory.wf s.m.mem) :
    Memory.wf (s.homeWrite lf pa loc v n msc).m.mem := by
  simp [State.homeWrite, Memory.wf, h, State.writeBytes_wf, State.storeAt_wf, State.addSnap_mem]

@[simp] theorem State.zeroPiece_wf {s : State} (lf : Leaf) (va : ℕ) (h : Memory.wf s.m.mem) :
    Memory.wf (s.zeroPiece lf va).m.mem := by
  simp [State.zeroPiece, Memory.wf, h]

@[simp] theorem State.keyed_wf {s : State} (lf : Leaf) (va : ℕ) (h : Memory.wf s.m.mem) :
    Memory.wf (s.keyed lf va).m.mem := by
  simp [State.keyed, Memory.wf, h, State.rekey_wf]

@[simp] theorem State.zeroSpill_wf {s : State} (t die : ℕ) (h : Memory.wf s.m.mem) :
    Memory.wf (s.zeroSpill t die).m.mem := by
  unfold State.zeroSpill
  dsimp only
  split
  · exact h
  · refine State.foldl_wf _ _ _ h fun u i hu => ?_
    split
    · split
      · exact hu
      · exact State.zeroPiece_wf _ _ (State.keyed_wf _ _ hu)
    · exact hu

@[simp] theorem State.startTeam_wf {s : State} (gu index batch member core taskBlk : ℕ) (task : Bool)
    (h : Memory.wf s.m.mem) :
    Memory.wf (s.startTeam gu index batch member core taskBlk task).m.mem := by
  unfold State.startTeam
  exact State.zeroSpill_wf _ _ (by simpa using State.takeChip_wf gu (core / 192) h)

theorem State.placeBatch_wf {s t : State} {gu : ℕ} {dies : List ℕ} (h : Memory.wf s.m.mem)
    (ht : s.placeBatch gu dies = some t) :
    Memory.wf t.m.mem := by
  unfold State.placeBatch at ht
  dsimp only at ht
  split at ht
  · exact absurd ht (by simp)
  · obtain ⟨p, -, rfl⟩ := Option.map_eq_some_iff.1 ht
    exact State.foldl_wf _ _ _ h fun u c hu => State.startTeam_wf _ _ _ _ _ _ _ hu

theorem State.placeAll_wf {s t : State} {gu : ℕ} {dies : List ℕ} {n : ℕ} (h : Memory.wf s.m.mem)
    (ht : s.placeAll gu dies n = some t) :
    Memory.wf t.m.mem := by
  induction n generalizing s with
  | zero => cases ht; exact h
  | succ n ih =>
    unfold State.placeAll at ht
    split at ht
    · cases ht; exact h
    · obtain ⟨u, hu, hut⟩ := Option.bind_eq_some_iff.1 ht
      exact ih (State.placeBatch_wf h hu) hut

@[simp] theorem State.restoreTeam_wf {s : State} (t core : ℕ) (h : Memory.wf s.m.mem) :
    Memory.wf (s.restoreTeam t core).m.mem := by
  simpa [State.restoreTeam] using State.takeChip_wf _ _ h

theorem State.restoreBatch_wf {s t : State} {gu b : ℕ} {dies : List ℕ} (h : Memory.wf s.m.mem)
    (ht : s.restoreBatch gu b dies = some t) :
    Memory.wf t.m.mem := by
  obtain ⟨p, -, rfl⟩ := Option.map_eq_some_iff.1 ht
  exact State.foldl_wf _ _ _ h fun u z hu => State.restoreTeam_wf _ _ hu

theorem State.restoreAll_wf {s t : State} {gu : ℕ} {dies bs : List ℕ} (h : Memory.wf s.m.mem)
    (ht : s.restoreAll gu dies bs = some t) :
    Memory.wf t.m.mem := by
  induction bs generalizing s with
  | nil => cases ht; exact h
  | cons b bs ih =>
    obtain ⟨u, hu, hut⟩ := Option.bind_eq_some_iff.1 ht
    exact ih (State.restoreBatch_wf h hu) hut

theorem State.tryPlace_wf {s t : State} {gu : ℕ} {dies : List ℕ} (h : Memory.wf s.m.mem)
    (ht : s.tryPlace gu dies = some t) :
    Memory.wf t.m.mem := by
  unfold State.tryPlace at ht
  dsimp only at ht
  split at ht <;> split at ht
  · exact State.placeAll_wf h ht
  · exact State.placeBatch_wf h ht
  · exact State.restoreAll_wf h ht
  · exact State.restoreBatch_wf h ht

theorem State.admission_wf {s t : State} {g : Grid} (h : Memory.wf s.m.mem) (ht : s.admission g = some t) :
    Memory.wf t.m.mem := by
  unfold State.admission at ht
  split at ht
  next u hu =>
    split at ht
    · cases ht
    · cases ht; exact State.tryPlace_wf (s := s.addGrid g) h hu
  next => cases ht

@[simp] theorem State.advance_wf {s : State} (q : ℕ) (h : Memory.wf s.m.mem) : Memory.wf (s.advance q).m.mem := by
  simp [State.advance, Memory.wf, h, State.physStore_wf]

@[simp] theorem State.homeTouch_wf {s : State} (ag : Agent) (core : ℕ) (chain : Option (ℕ × ℕ)) (lf : Leaf) (va : ℕ)
    (write : Bool) (h : Memory.wf s.m.mem) : Memory.wf (s.homeTouch ag core chain lf va write).m.mem := by
  simp [State.homeTouch, Memory.wf, h, State.rekey_wf]

@[simp] theorem State.remoteWrite_wf {s : State} (r : Request) (pa v n : ℕ) (h : Memory.wf s.m.mem) :
    Memory.wf (s.remoteWrite r pa v n).m.mem := by
  simp [State.remoteWrite, Memory.wf, h]

@[simp] theorem State.appendTouch_wf {s : State} (r : Rec) (pa : ℕ) (write : Bool) (h : Memory.wf s.m.mem) :
    Memory.wf (s.appendTouch r pa write).m.mem := by
  simp [State.appendTouch, Memory.wf, h, State.rekey_wf]

@[simp] theorem State.appendWord_wf {s : State} (r : Rec) (pa v : ℕ) (h : Memory.wf s.m.mem) :
    Memory.wf (s.appendWord r pa v).m.mem := by
  simp [State.appendWord, Memory.wf, h]

@[simp] theorem State.applyAppend_wf {s : State} (r : Rec) (h : Memory.wf s.m.mem) :
    Memory.wf (s.applyAppend r).m.mem := by
  unfold State.applyAppend
  have h1 := State.appendTouch_wf r (r.pa + 28) false (State.appendTouch_wf r r.pa false h)
  dsimp only
  split
  · simpa using State.appendWord_wf _ _ _ h1
  · split
    · exact State.appendWord_wf _ _ _ (State.appendWord_wf _ _ _ h1)
    · split
      · exact State.appendWord_wf _ _ _ (State.appendWord_wf _ _ _ h1)
      · simpa using State.appendWord_wf _ _ _ h1

theorem State.serveRemote_wf {s : State} (r : Request) (pa size v : ℕ) (h : Memory.wf s.m.mem) :
    Memory.wf (s.serveRemote r pa size v).2.m.mem := by
  unfold State.serveRemote
  have h1 := State.homeTouch_wf r.agent r.core none r.leaf pa r.write h
  dsimp only
  split
  · exact State.remoteWrite_wf _ _ _ _ h1
  · split
    · exact h1
    · exact State.remoteWrite_wf _ _ _ _ h1
  · split
    · exact h1
    · split
      · exact State.applyAppend_wf _ h1
      · exact State.remoteWrite_wf _ _ _ _ h1
  · split <;> exact h1

@[simp] theorem State.answerPeer_wf {s : State} (r : Request) (pa size v : ℕ) (h : Memory.wf s.m.mem) :
    Memory.wf (s.answerPeer r pa size v).m.mem :=
  State.serveRemote_wf r pa size v h

@[simp] theorem State.failSplits_wf {s : State} (ws : List Split) (f : FaultInfo) (h : Memory.wf s.m.mem) :
    Memory.wf (s.failSplits ws f).m.mem := by
  simp +contextual [State.failSplits, Memory.wf, h]

@[simp] theorem State.failLost_wf {s : State} (r : Round) (h : Memory.wf s.m.mem) : Memory.wf (s.failLost r).m.mem := by
  unfold State.failLost
  split
  · split
    · split
      · exact State.failSplits_wf _ _ (by simpa using h)
      · exact h
    · exact h
  · split
    · split
      · exact State.failSplits_wf _ _ (by simpa using h)
      · exact h
    · exact h
  · exact h

@[simp] theorem State.failLostAll_wf {s : State} (h : Memory.wf s.m.mem) : Memory.wf s.failLostAll.m.mem :=
  State.foldl_wf _ _ _ h fun _ _ ht => State.failLost_wf _ (State.failLost_wf _ ht)

@[simp] theorem State.portDown_wf {s : State} (port : ℕ) (h : Memory.wf s.m.mem) :
    Memory.wf (s.portDown port).m.mem :=
  State.failLostAll_wf h

@[simp] theorem State.farDown_wf {s : State} (port : ℕ) (peers : List ℕ) (h : Memory.wf s.m.mem) :
    Memory.wf (s.farDown port peers).m.mem :=
  State.failLostAll_wf h

@[simp] theorem State.portChange_wf {s : State} (port : ℕ) (peers : List ℕ) (h : Memory.wf s.m.mem) :
    Memory.wf (s.portChange port peers).m.mem := by
  unfold State.portChange
  split
  · exact State.portDown_wf _ h
  · exact State.farDown_wf _ _ h

@[simp] theorem State.applyPorts_wf {s : State} (h : Memory.wf s.m.mem) : Memory.wf s.applyPorts.m.mem := by
  unfold State.applyPorts
  split
  · exact h
  · exact State.foldl_wf _ _ _ h fun _ x ht => State.portChange_wf _ _ ht

@[simp] theorem State.applyRec_wf {s : State} (r : Rec) (h : Memory.wf s.m.mem) : Memory.wf (s.applyRec r).m.mem := by
  have h1 := State.rekey_wf (s.recLoc r r.pa) r.pa r.key h
  unfold State.applyRec
  dsimp only
  split
  · simpa using h
  · split
    · refine State.applyAppend_wf _ ?_
      split <;> simp [Memory.wf, h1]
    · split <;> split <;> simp [Memory.wf, h1, State.writeBytes_wf]

@[simp] theorem State.arriveAt_wf {s : State} (r : Round) (park : Park) (h : Memory.wf s.m.mem) :
    Memory.wf (s.arriveAt r park).m.mem := by
  unfold State.arriveAt
  rw [State.checkRounds_mem]
  exact State.failLost_wf _ (by simpa using h)

@[simp] theorem State.orphanFault_wf {s : State} (g : GroupId) (slices : List ℕ) (f : FaultInfo)
    (h : Memory.wf s.m.mem) : Memory.wf (s.orphanFault g slices f).m.mem := by
  simp [State.orphanFault, Memory.wf, h]

@[simp] theorem State.rendezvousLate_wf {s : State} (row : ℕ) (d : Deposit) (h : Memory.wf s.m.mem) :
    Memory.wf (s.rendezvousLate row d).m.mem := by
  unfold State.rendezvousLate
  split <;> simp [Memory.wf, h]

@[simp] theorem State.discardLatch_wf {s : State} (team : ℕ) (c : BitVec 48) (row : ℕ) (h : Memory.wf s.m.mem) :
    Memory.wf (s.discardLatch team c row).m.mem := by
  simp +contextual [State.discardLatch, Memory.wf, h]

@[simp] theorem State.rendezvousExit_wf {s : State} (t g : ℕ) (h : Memory.wf s.m.mem) :
    Memory.wf (s.rendezvousExit t g).m.mem := by
  simp +contextual [State.rendezvousExit, Memory.wf, h]

@[simp] theorem State.prefetchLine_wf {s : State} (level : ℕ) (l : LaneId) (p : LanePlan) (h : Memory.wf s.m.mem) :
    Memory.wf (s.prefetchLine level l p).m.mem := by
  unfold State.prefetchLine
  dsimp only
  (repeat' split) <;> simp [Memory.wf, h, State.rekey_wf]

@[simp] theorem State.unitWrite_wf {s : State} (loc v n : ℕ) (h : Memory.wf s.m.mem) :
    Memory.wf (s.unitWrite loc v n).m.mem := by
  simp [State.unitWrite, Memory.wf, h, State.writeBytes_wf]

@[simp] theorem State.setRing_wf {s : State} (loc head tail ph : ℕ) (h : Memory.wf s.m.mem) :
    Memory.wf (s.setRing loc head tail ph).m.mem :=
  State.store_wf _ _ _ (State.unitWrite_wf _ _ _ h)

@[simp] theorem State.touchBlocks_wf {s : State} (w : TaskAt) (g : Grid) (xs : List (ℕ × Bool))
    (h : Memory.wf s.m.mem) :
    Memory.wf (s.touchBlocks w g xs).m.mem := by
  refine State.foldl_wf _ _ _ h fun t x ht => ?_
  dsimp only
  split
  · refine State.homeTouch_wf _ _ _ _ _ _ ?_
    split <;> simpa [State.MemWf] using ht
  · exact ht

@[simp] theorem State.coreWrite_wf {s : State} (ag : Agent) (die : ℕ) (chain : Option (ℕ × ℕ)) (lf : Leaf)
    (va v n : ℕ) (h : Memory.wf s.m.mem) : Memory.wf (s.coreWrite ag die chain lf va v n).m.mem := by
  unfold State.coreWrite
  split <;> simp [Memory.wf, h]

@[simp] theorem State.setBlockWord_wf {s : State} (w : TaskAt) (g : Grid) (i k v : ℕ) (h : Memory.wf s.m.mem) :
    Memory.wf (s.setBlockWord w g i k v).m.mem := by
  unfold State.setBlockWord
  split <;> simp [Memory.wf, h]

@[simp] theorem State.setLow_wf {s : State} (w : TaskAt) (g : Grid) (i k v : ℕ) (h : Memory.wf s.m.mem) :
    Memory.wf (s.setLow w g i k v).m.mem := by
  simp [State.setLow, Memory.wf, h]

@[simp] theorem State.setBlockState_wf {s : State} (w : TaskAt) (g : Grid) (i st : ℕ) (h : Memory.wf s.m.mem) :
    Memory.wf (s.setBlockState w g i st).m.mem := by
  simp [State.setBlockState, Memory.wf, h]

@[simp] theorem State.dieTouch_wf {s : State} (die asid : ℕ) (lf : Leaf) (va : ℕ) (write : Bool)
    (h : Memory.wf s.m.mem) : Memory.wf (s.dieTouch die asid lf va write).m.mem := by
  simp [State.dieTouch, Memory.wf, h]

@[simp] theorem State.touchKernel_wf {s : State} (w : TaskAt) (g : Grid) (i : ℕ) (h : Memory.wf s.m.mem) :
    Memory.wf (s.touchKernel w g i).m.mem := by
  unfold State.touchKernel
  dsimp only
  split <;> simp [Memory.wf, h]

@[simp] theorem State.pushTask_wf {s : State} (w : TaskAt) (g : Grid) (i : ℕ) (h : Memory.wf s.m.mem) :
    Memory.wf (s.pushTask w g i).m.mem := by
  simp [State.pushTask, Memory.wf, h]

@[simp] theorem State.retireSucc_wf {s : State} (w : TaskAt) (g : Grid) (i : ℕ) (h : Memory.wf s.m.mem) :
    Memory.wf (s.retireSucc w g i).m.mem := by
  simp [State.retireSucc, Memory.wf, h]

@[simp] theorem State.retireTask_wf {s : State} (w : TaskAt) (g : Grid) (i st : ℕ) (h : Memory.wf s.m.mem) :
    Memory.wf (s.retireTask w g i st).m.mem := by
  have h1 := State.setBlockState_wf w g i st
      (State.foldl_wf (s.succs w g i).1 (fun (u : State) k => u.retireSucc w g k) s h
    fun _ _ hu => State.retireSucc_wf _ _ _ hu)
  unfold State.retireTask
  dsimp only
  split
  · exact h1
  · split
    · simpa using h1
    · exact State.setLow_wf _ _ _ _ _ h1

@[simp] theorem State.engineTouch_wf {s : State} (ag : Agent) (core : ℕ) (chain : Option (ℕ × ℕ)) (lf : Leaf)
    (va : ℕ) (write : Bool) (h : Memory.wf s.m.mem) : Memory.wf (s.engineTouch ag core chain lf va write).m.mem := by
  simp [State.engineTouch, Memory.wf, h]

@[simp] theorem State.lateFault_wf {s : State} (sid : ℕ) (l : LaneId) (f : FaultInfo) (h : Memory.wf s.m.mem) :
    Memory.wf (s.lateFault sid l f).m.mem := by
  unfold State.lateFault
  split <;> simp [Memory.wf, h]

@[simp] theorem State.land_wf {s : State} (a : Access) (h : Memory.wf s.m.mem) : Memory.wf (s.land a).m.mem := by
  simp [State.land, Memory.wf, h]

@[simp] theorem State.writeFor_wf {s : State} (a : Access) (v : ℕ) (h : Memory.wf s.m.mem) :
    Memory.wf (s.writeFor a v).m.mem := by
  unfold State.writeFor
  dsimp only
  (repeat' split) <;> simp [Memory.wf, h, State.writeBytes_wf, State.storeAt_wf, State.addSnap_mem]

@[simp] theorem State.performAtom_wf {s : State} (a : Access) (op : AtomOp) (h : Memory.wf s.m.mem) :
    Memory.wf (s.performAtom a op).m.mem := by
  simp [State.performAtom, Memory.wf, h]

@[simp] theorem State.readFetch_wf {s : State} (a : Access) (f : FetchOp) (h : Memory.wf s.m.mem) :
    Memory.wf (s.readFetch a f).m.mem := by
  unfold State.readFetch
  dsimp only
  (repeat' split) <;> simp +contextual [Memory.wf, h]

@[simp] theorem State.performFetch_wf {s : State} (a : Access) (h : Memory.wf s.m.mem) :
    Memory.wf (s.performFetch a).m.mem := by
  unfold State.performFetch
  split
  · exact h
  · split
    · split
      · simpa using h
      · exact h
    · split
      · simpa using h
      · exact State.readFetch_wf _ _ h

@[simp] theorem State.zeroLate_wf {s : State} (a : Access) (lf : Leaf) (h : Memory.wf s.m.mem) :
    Memory.wf (s.zeroLate a lf).m.mem := by
  simp +contextual [State.zeroLate, Memory.wf, h]

@[simp] theorem State.performNear_wf {s : State} (a : Access) (h : Memory.wf s.m.mem) :
    Memory.wf (s.performNear a).m.mem := by
  unfold State.performNear
  split
  · exact State.performAtom_wf _ _ h
  · exact State.performFetch_wf _ h
  · split
    · simpa using State.zeroLate_wf _ _ h
    · simpa using h

@[simp] theorem State.performDst_wf {s : State} (a : Access) (op wid : ℕ) (h : Memory.wf s.m.mem) :
    Memory.wf (s.performDst a op wid).m.mem := by
  unfold State.performDst
  split
  · exact h
  · split
    · split
      · exact State.foldl_wf _ _ _ h fun _ _ ht => State.applyAppend_wf _ ht
      · exact h
    · exact State.writeFor_wf _ _ h

@[simp] theorem State.performStore_wf {s : State} (a : Access) (h : Memory.wf s.m.mem) :
    Memory.wf (s.performStore a).m.mem := by
  have h1 : Memory.wf (((s.releaseSystem a).squash a.lane).acquireCopies a).m.mem := by simpa using h
  unfold State.performStore
  dsimp only
  split
  · exact State.performDst_wf _ _ _ h1
  · exact State.writeFor_wf _ _ h1

@[simp] theorem State.failRound_wf {s : State} (r : Round) (f : FaultInfo) (h : Memory.wf s.m.mem) :
    Memory.wf (s.failRound r f).m.mem := by
  simp [State.failRound, Memory.wf, h]

@[simp] theorem State.serveCommon_wf {s : State} (a : Access) (lf : Leaf) (h : Memory.wf s.m.mem) :
    Memory.wf (s.serveCommon a lf).m.mem := by
  simp [State.serveCommon, Memory.wf, h, State.rekey_wf]

@[simp] theorem State.serve_wf {s : State} (a : Access) (lf : Leaf) (h : Memory.wf s.m.mem) :
    Memory.wf (s.serve a lf).m.mem := by
  have h0 := State.serveCommon_wf a lf h
  unfold State.serve
  generalize s.serveCommon a lf = t at h0
  dsimp only
  generalize hu : (if a.writes = true ∧ t.modeOf lf = 0 ∧ (!lf.ut) = true ∧ (!inHost a.pa) = true then
    t.conflicts a.id (some (t.accCore a)) (homeDie lf.il a.pa) a.pa else t) = u
  have h1 : Memory.wf u.m.mem := by
    subst hu
    split
    · simpa using h0
    · exact h0
  split
  · split <;> split <;> simp [Memory.wf, h1]
  · split
    · exact h1
    · simpa using State.writeFor_wf a a.data (s := (u.releaseSystem a).squash a.lane) (by simpa using h1)
  · split
    · exact h1
    · simpa using State.performDst_wf a _ _ (s := u.squash a.lane) (by simpa using h1)
  · simpa using h1

@[simp] theorem State.reachHome_wf {s : State} (a : Access) (lf : Leaf) (h : Memory.wf s.m.mem) :
    Memory.wf (s.reachHome a lf).m.mem := by
  have h1 : Memory.wf (s.meetTenure a lf).m.mem := by simpa using h
  unfold State.reachHome
  dsimp only
  split
  · simpa using h
  · split
    · simpa using h
    · generalize (if s.modeOf lf = 0 then s.recallers (s.accAgent a) a.pa a.writes else []) = hs
      split
      · rw [State.modMates_mem]
        exact State.serve_wf a lf h1
      · split <;> simpa using h

@[simp] theorem State.copyArrive_wf {s : State} (team core : ℕ) (x : ℕ × ℕ) (h : Memory.wf s.m.mem) :
    Memory.wf (s.copyArrive team core x).1.m.mem := by
  unfold State.copyArrive
  dsimp only
  split
  · exact State.store_wf _ _ _ (by simpa using h)
  · exact h

@[simp] theorem State.endCopy_wf {s : State} (c : Copy) (code : ℕ) (h : Memory.wf s.m.mem) :
    Memory.wf (s.endCopy c code).m.mem := by
  have h1 : Memory.wf (c.incs.foldl (fun (p : State × Bool) x =>
      ((p.1.copyArrive c.team c.core x).1, p.2 || (p.1.copyArrive c.team c.core x).2)) (s, false)).1.m.mem := by
    generalize false = b
    induction c.incs generalizing s b with
    | nil => exact h
    | cons x xs ih => exact ih (State.copyArrive_wf _ _ _ h) _
  unfold State.endCopy
  dsimp only
  split
  · exact State.wf_of_mem h1 (State.foldl_mem _ _ _ fun _ _ => rfl)
  · exact h1

@[simp] theorem State.engineByte_wf {s : State} (team core : ℕ) (p : Place) (pa b : ℕ) (poison : Bool)
    (h : Memory.wf s.m.mem) :
    Memory.wf (s.engineByte team core p pa b poison).m.mem := by
  have h1 : Memory.wf (match p.2 with
      | some lf => (s.squashBy none team core).homeWrite lf pa p.1 b 1 false
      | none => (s.squashBy none team core).store p.1 b 1).m.mem := by
    split
    · exact State.homeWrite_wf _ _ _ _ _ _ h
    · exact State.store_wf _ _ _ h
  unfold State.engineByte
  dsimp only
  split
  · rw [State.poisonBytes_mem]
    exact h1
  · exact h1

@[simp] theorem State.moveByte_wf {s : State} (c : Copy) (m : ℕ × ℕ) (h : Memory.wf s.m.mem) :
    Memory.wf (s.moveByte c m).1.m.mem := by
  unfold State.moveByte
  dsimp only
  split
  · exact h
  · exact h
  next b bad t ps hsrc _ =>
    have ht : Memory.wf t.m.mem := by
      split at hsrc
      · cases hsrc; exact h
      · split at hsrc
        · cases hsrc
        · cases hsrc
          split
          · exact State.engineTouch_wf _ _ _ _ _ _ h
          · exact h
    refine State.foldl_wf _ _ _ ht fun u p hu => ?_
    obtain ⟨loc, _ | lf⟩ := p
    · dsimp only
      rw [if_neg Bool.false_ne_true]
      exact State.engineByte_wf _ _ _ _ _ _ hu
    · have hu1 := State.engineTouch_wf (c.agent (s.launch c.team).asid) c.core (s.chainOf c.lane) lf m.1 true hu
      dsimp only
      split
      · exact hu1
      · exact State.engineByte_wf _ _ _ _ _ _ hu1

@[simp] theorem State.moveBytes_wf {s : State} (c : Copy) (bad wrote : Bool) (ms : Moves) (h : Memory.wf s.m.mem) :
    Memory.wf (s.moveBytes c bad wrote ms).1.m.mem := by
  induction ms generalizing s bad wrote with
  | nil => exact h
  | cons m ms ih =>
    have h1 := State.moveByte_wf c m h
    unfold State.moveBytes
    split
    next t p heq =>
      rw [heq] at h1
      refine ih _ _ ?_
      split
      · simpa using h1
      · exact h1
    next t k _ _ heq => rw [heq] at h1; exact h1

@[simp] theorem State.queueFail_wf {s : State} (q code info addr : ℕ) (h : Memory.wf s.m.mem) :
    Memory.wf (s.queueFail q code info addr).m.mem := by
  simp [State.queueFail, Memory.wf, h]

@[simp] theorem State.sealWait_wf {s : State} (q : ℕ) (h : Memory.wf s.m.mem) : Memory.wf (s.sealWait q).m.mem := by
  simp [State.sealWait, Memory.wf, h]

@[simp] theorem State.readHead_wf {s : State} (q : ℕ) (h : Memory.wf s.m.mem) : Memory.wf (s.readHead q).m.mem := by
  unfold State.readHead
  dsimp only
  split <;> simp [Memory.wf, h]

theorem State.beginHead_wf {s : State} (q : ℕ) (mine : ℕ → List ℕ → Bool) (body : State → List ℕ → State)
    (hb : WfKept body) (h : Memory.wf s.m.mem) : Memory.wf (s.beginHead q mine body).m.mem := by
  unfold State.beginHead
  split
  · exact h
  · split
    · exact h
    · exact State.queueFail_wf _ _ _ _ h
    · exact State.sealWait_wf _ (State.readHead_wf _ h)
    · split
      · exact hb _ _ (State.readHead_wf _ h)
      · exact h

@[simp] theorem State.readRecord_wf {s : State} (die asid va : ℕ) (h : Memory.wf s.m.mem) :
    Memory.wf (s.readRecord die asid va).m.mem := by
  unfold State.readRecord
  split <;> simp [Memory.wf, h]

@[simp] theorem State.dieWrite_wf {s : State} (die asid : ℕ) (lf : Leaf) (va v n : ℕ) (h : Memory.wf s.m.mem) :
    Memory.wf (s.dieWrite die asid lf va v n).m.mem := by
  simp [State.dieWrite, Memory.wf, h]

@[simp] theorem State.readWait_wf {s : State} (q : ℕ) (ws : List ℕ) (h : Memory.wf s.m.mem) :
    Memory.wf (s.readWait q ws).m.mem := by
  unfold State.readWait
  dsimp only
  (repeat' split) <;> simp [Memory.wf, h]

@[simp] theorem State.clearContext_wf {s : State} (asid : ℕ) (h : Memory.wf s.m.mem) :
    Memory.wf (s.clearContext asid).m.mem := by
  unfold State.clearContext
  exact State.foldl_wf _ _ _ h fun _ _ ht => State.MemWf.physStore ht _ _ _

@[simp] theorem State.resumeDone_wf {s : State} (q action : ℕ) (r : FqRec) (h : Memory.wf s.m.mem) :
    Memory.wf (s.resumeDone q action r).m.mem := by
  unfold State.resumeDone
  split
  · refine State.advance_wf _ ?_
    split
    · split
      · exact h
      · exact State.abortGrid_wf _ _ h
    · exact h
  · split
    · exact State.advance_wf _ h
    · exact State.queueFail_wf _ _ _ _ h

theorem State.resume_wf {s : State} (q action : ℕ) (fits : State → FqRec → Bool) (act : State → FqRec → State)
    (ha : WfKept act) (h : Memory.wf s.m.mem) : Memory.wf (s.resume q action fits act).m.mem := by
  refine State.beginHead_wf _ _ _ (fun t ws ht => ?_) h
  have ht1 : ∀ pa, Memory.wf (t.physTouch pa false).m.mem := fun pa => by rwa [State.physTouch_m]
  dsimp only
  split
  · exact State.queueFail_wf _ _ _ _ ht
  · split
    · exact State.advance_wf _ (ht1 _)
    · split
      · split
        · exact State.resumeDone_wf _ _ _ (ht1 _)
        · split
          · exact State.advance_wf _ (ha _ _ (ht1 _))
          · exact State.queueFail_wf _ _ _ _ ht
      · split
        · exact State.advance_wf _ (ht1 _)
        · exact State.queueFail_wf _ _ _ _ ht

theorem State.placeNow_wf {s t : State} {die : ℕ} (h : Memory.wf s.m.mem) (ht : s.placeNow die = some t) :
    Memory.wf t.m.mem := by
  unfold State.placeNow at ht
  split at ht
  · cases ht
  · obtain ⟨g, -, hg⟩ := List.exists_of_findSome?_eq_some ht
    split at hg
    next u hu =>
      split at hg
      · cases hg; exact State.tryPlace_wf h hu
      · cases hg
    next => cases hg

@[simp] theorem State.taskFail_wf {s : State} (g : Grid) (i : ℕ) (h : Memory.wf s.m.mem) :
    Memory.wf (s.taskFail g i).m.mem := by
  simp [State.taskFail, Memory.wf, h]

theorem State.placeTask_wf {s t : State} {k : ReadyTask} {la : Launch} {dies : List ℕ} (h : Memory.wf s.m.mem)
    (ht : s.placeTask k la dies = some t) : Memory.wf t.m.mem := by
  obtain ⟨p, -, rfl⟩ := Option.map_eq_some_iff.1 ht
  exact State.startTeam_wf _ _ _ _ _ _ _ h

@[simp] theorem State.startTask_wf {s : State} (k : ReadyTask) (dies : List ℕ) (h : Memory.wf s.m.mem) :
    Memory.wf (s.startTask k dies).m.mem := by
  unfold State.startTask
  dsimp only
  generalize hu : ((({ s with d.taskQ := s.d.taskQ.erase k } : State).touchBlocks { core := none, die := k.die }
      (s.grid k.grid)
    [(k.blk, true)]).readRecord k.die (s.grid k.grid).launch.asid
        (s.blockWord { core := none, die := k.die } (s.grid k.grid) k.blk 0 +
      2 ^ 32 * s.blockWord { core := none, die := k.die } (s.grid k.grid) k.blk 1)) = u
  have h1 : Memory.wf u.m.mem := by
    rw [← hu]
    exact State.readRecord_wf _ _ _ (State.touchBlocks_wf _ _ _ h)
  split
  · exact State.taskFail_wf _ _ h1
  · split
    · split
      · exact State.taskFail_wf _ _ h1
      · exact State.retireTask_wf _ _ _ _ h1
    · split
      next t ht => exact State.placeTask_wf (State.setBlockState_wf _ _ _ _ h1) ht
      next => exact h1

theorem State.preempt_wf {s sim t : State} {gu : ℕ} {dies chosen : List ℕ} {xs : List Team} (h : Memory.wf s.m.mem)
    (ht : s.preempt sim gu dies chosen xs = some t) : Memory.wf t.m.mem := by
  induction xs generalizing sim chosen with
  | nil => cases ht
  | cons x xs ih =>
    unfold State.preempt at ht
    dsimp only at ht
    split at ht
    · cases ht; simpa using h
    · exact ih ht

theorem State.preemptNow_wf {s t : State} {die : ℕ} (h : Memory.wf s.m.mem) (ht : s.preemptNow die = some t) :
    Memory.wf t.m.mem := by
  unfold State.preemptNow at ht
  split at ht
  · cases ht
  · obtain ⟨b, -, hb⟩ := List.exists_of_findSome?_eq_some ht
    split at hb
    · cases hb
    · exact State.preempt_wf h hb

@[simp] theorem State.writeSave_wf {s : State} (x : Team) (h : Memory.wf s.m.mem) : Memory.wf (s.writeSave x).m.mem := by
  unfold State.writeSave
  exact State.foldl_wf _ _ _ h fun _ _ ht => State.MemWf.physStore ht _ _ _

@[simp] theorem State.saveTeams_wf {s : State} (ts : List ℕ) (h : Memory.wf s.m.mem) :
    Memory.wf (s.saveTeams ts).m.mem :=
  State.foldl_wf _ _ _ (by simpa using h) fun _ _ ht => State.writeSave_wf _ ht

@[simp] theorem State.dropTeam_wf {s : State} (t : ℕ) (h : Memory.wf s.m.mem) : Memory.wf (s.dropTeam t).m.mem := by
  rw [State.dropTeam_mem]
  exact Memory.wf_clear _ _ h

@[simp] theorem State.hostWrite_wf {s : State} (lf : Leaf) (va v n : ℕ) (off : List ℕ) (h : Memory.wf s.m.mem) :
    Memory.wf (s.hostWrite lf va v n off).m.mem := by
  simp +contextual [State.hostWrite, Memory.wf, h]

@[simp] theorem State.powerOff_wf {s : State} (h : Memory.wf s.m.mem) : Memory.wf s.powerOff.m.mem :=
  Memory.wf_filter _ h

@[simp] theorem State.bringUpStart_wf {s : State} (e : EventArg) (h : Memory.wf s.m.mem) :
    Memory.wf (s.bringUpStart e).m.mem :=
  Memory.wf_filter _ (State.powerOff_wf h)

@[simp] theorem State.portEvent_wf {s : State} (port : ℕ) (peers : List ℕ) (h : Memory.wf s.m.mem) :
    Memory.wf (s.portEvent port peers).m.mem := by
  unfold State.portEvent
  split
  · exact h
  · exact State.portChange_wf _ _ h

@[simp] theorem State.peerWrite_wf {s : State} (dev : ℕ) (r : Request) (pa size v : ℕ) (h : Memory.wf s.m.mem) :
    Memory.wf (s.peerWrite dev r pa size v).m.mem := by
  unfold State.peerWrite
  split <;> simp [Memory.wf, h, State.writeBytes_wf]

@[simp] theorem State.copyPage_wf {s : State} (old new : Leaf) (n : ℕ) (h : Memory.wf s.m.mem) :
    Memory.wf (s.copyPage old new n).m.mem := by
  induction n generalizing s with
  | zero => exact h
  | succ n ih =>
    have h1 := fun pa loc v => State.homeWrite_wf new pa loc v 1 true
        (State.rekey_wf (s.locHere new.il (new.frame + n)) (new.frame + n) new.key
      (State.rekey_wf (locPa old.peer 0 old.il (old.frame + n)) (old.frame + n) old.key h))
    refine ih ?_
    split
    · rw [State.poisonBytes_mem]
      exact h1 _ _ _
    · exact h1 _ _ _

@[simp] theorem State.rewriteLeaf_wf {s : State} (die asid va frame mode : ℕ) (peer : Option ℕ)
    (h : Memory.wf s.m.mem) : Memory.wf (s.rewriteLeaf die asid va frame mode peer).m.mem := by
  unfold State.rewriteLeaf
  dsimp only
  split <;> simp [Memory.wf, h, State.physStore_wf]

@[simp] theorem State.rewriteLeaves_wf {s : State} (asid va frame mode : ℕ) (peer : Option ℕ) (h : Memory.wf s.m.mem)
    :
    Memory.wf (s.rewriteLeaves asid va frame mode peer).m.mem :=
  State.foldl_wf _ _ _ h fun _ _ ht => State.rewriteLeaf_wf _ _ _ _ _ _ ht

@[simp] theorem State.migrationEnd_wf {s : State} (asid page dest frame : ℕ) (h : Memory.wf s.m.mem) :
    Memory.wf (s.migrationEnd asid page dest frame).m.mem := by
  unfold State.migrationEnd
  split
  · simpa using h
  · dsimp only
    split
    · split
      · simpa using h
      · simp only [State.releaseHold_mem, State.dropPage_mem]
        exact State.rewriteLeaves_wf _ _ _ _ _ (State.copyPage_wf _ _ _ h)
    · split
      · split
        · simpa using h
        · simp only [State.releaseHold_mem, State.dropPage_mem]
          exact State.rewriteLeaves_wf _ _ _ _ _ h
      · simp only [State.releaseHold_mem, State.dropPage_mem]
        exact State.rewriteLeaves_wf _ _ _ _ _ h

@[simp] theorem State.rshTouch_wf {s : State} (r : Rsh) (va : ℕ) (h : Memory.wf s.m.mem) :
    Memory.wf (s.rshTouch r va).m.mem := by
  unfold State.rshTouch
  split <;> simp [Memory.wf, h]

@[simp] theorem State.rshReads_wf {s : State} (r : Rsh) (h : Memory.wf s.m.mem) : Memory.wf (s.rshReads r).m.mem :=
  State.foldl_wf _ _ _ h fun _ _ ht => State.rshTouch_wf _ _ ht

@[simp] theorem State.setRec_wf {s : State} (r : Rsh) (i v : ℕ) (h : Memory.wf s.m.mem) :
    Memory.wf (s.setRec r i v).m.mem := by
  simp [State.setRec, Memory.wf, h]

@[simp] theorem State.writeProgress_wf {s : State} (r : Rsh) (h : Memory.wf s.m.mem) :
    Memory.wf (s.writeProgress r).m.mem := by
  unfold State.writeProgress
  rw [State.modRsh_mem]
  exact State.setRec_wf _ _ _ (State.setRec_wf _ _ _ (State.setRec_wf _ _ _ (State.setRec_wf _ _ _ h)))

@[simp] theorem State.rshBegin_wf {s : State} (r : Rsh) (h : Memory.wf s.m.mem) : Memory.wf (s.rshBegin r).m.mem := by
  unfold State.rshBegin
  dsimp only
  split
  · simpa using State.setRec_wf _ _ _ h
  · simp only [State.rshPromote_mem, State.rshAnswer_mem]
    exact State.writeProgress_wf _ (State.setRec_wf _ _ _ h)

@[simp] theorem State.rshByte_wf {s : State} (r : Rsh) (b : ℕ × ℕ) (h : Memory.wf s.m.mem) :
    Memory.wf (s.rshByte r b).m.mem := by
  unfold State.rshByte
  split
  next a d ha hd =>
    have h1 := State.engineTouch_wf (s.rshAgent r) r.core (s.rshChain r) d b.1 true
      (State.engineTouch_wf (s.rshAgent r) r.core (s.rshChain r) a b.2 false h)
    have h2 := fun p pa v bad => State.engineByte_wf r.team r.core p pa v bad h1
    dsimp only
    split <;> split <;> simp [Memory.wf, h1, h2]
  next => exact h

@[simp] theorem State.rshRow_wf {s : State} (r : Rsh) (m : RowMove) (h : Memory.wf s.m.mem) :
    Memory.wf (s.rshRow r m).m.mem := by
  refine State.foldl_wf _ _ _ ?_ fun _ _ ht => State.rshByte_wf _ _ ht
  split
  · simpa using h
  · exact h

@[simp] theorem State.fetchFrom_wf {s : State} (core asid a : ℕ) (lf : Leaf) (h : Memory.wf s.m.mem) :
    Memory.wf (s.fetchFrom core asid a lf).m.mem := by
  simp [State.fetchFrom, Memory.wf, h, State.rekey_wf]

@[simp] theorem State.poisonFetch_wf {s : State} (p : Split) (unitPc : Pc) (addr : ℕ) (wordPc : Pc)
    (h : Memory.wf s.m.mem) : Memory.wf (s.poisonFetch p unitPc addr wordPc).m.mem := by
  simp [State.poisonFetch, Memory.wf, h]

@[simp] theorem State.tick_wf {s : State} (h : Memory.wf s.m.mem) : Memory.wf s.tick.m.mem :=
  State.applyPorts_wf (by simpa using h)

end Sys2Proof.Machine

/-! SUPPORT. Units keep memory in canonical form, whatever their effect comes to (R155, R158). -/

namespace Sys2Proof.Machine

/-- Whatever a unit's effect came to, no state that it names has memory out of canonical form. -/
def Res.Wf : Res → Prop
  | .ok t => t.MemWf
  | .hold f => ∀ t : State, t.MemWf → (f t).MemWf
  | .fail g _ => ∀ t : State, t.MemWf → (g t).MemWf
  | .wait | .trap _ => True

@[simp] theorem Res.wf_ok (t : State) : (Res.ok t).Wf ↔ Memory.above 0 t.m.mem = true := .rfl

@[simp] theorem Res.wf_wait : Res.wait.Wf := trivial

@[simp] theorem Res.wf_trap (f : FaultInfo) : (Res.trap f).Wf := trivial

@[simp] theorem Res.wf_hold (f : State → State) :
    (Res.hold f).Wf ↔ ∀ t : State, Memory.above 0 t.m.mem = true → Memory.above 0 (f t).m.mem = true := .rfl

@[simp] theorem Res.wf_fail (g : State → State) (f : FaultInfo) :
    (Res.fail g f).Wf ↔ ∀ t : State, Memory.above 0 t.m.mem = true → Memory.above 0 (g t).m.mem = true := .rfl

@[simp] theorem Res.wf_ite (c : Prop) [Decidable c] (a b : Res) :
    (if c then a else b).Wf ↔ if c then a.Wf else b.Wf := by
  split <;> rfl

/-- Whatever a unit's body comes to, memory stays in canonical form. -/
def Meaning.Wf (m : Meaning) : Prop := ∀ t : State, Memory.wf t.m.mem → (m.body t).Wf

@[simp] theorem State.deliverA_wf (s : State) (o : OpA) (f : ℕ → ℕ → ℕ → ℕ → ℕ) (h : Memory.wf s.m.mem) :
    (s.deliverA o f).Wf := by
  simp [State.deliverA, h]

@[simp] theorem State.deliverA1_wf (s : State) (o : OpA1) (f : ℕ → ℕ → ℕ) (h : Memory.wf s.m.mem) :
    (s.deliverA1 o f).Wf := by
  simp [State.deliverA1, h]

@[simp] theorem State.deliverShift_wf (s : State) (o : OpA) (f : ℕ → ℕ → ℕ → ℕ) (h : Memory.wf s.m.mem) :
    (s.deliverShift o f).Wf := by
  simp [State.deliverShift, h]

@[simp] theorem State.deliverC_wf (s : State) (o : OpC) (f : ℕ → ℕ → Bool) (h : Memory.wf s.m.mem) :
    (s.deliverC o f).Wf := by
  simp [State.deliverC, h]

@[simp] theorem State.deliverI_wf (s : State) (o : OpI) (f : ℕ → ℕ → ℕ) (h : Memory.wf s.m.mem) :
    (s.deliverI o f).Wf := by
  simp [State.deliverI, h]

@[simp] theorem State.eachSlice_wf (s : State) (sd : ℕ) (f : SliceId → Word) (h : Memory.wf s.m.mem) :
    (s.eachSlice sd f).Wf := by
  simp [State.eachSlice, h]

@[simp] theorem State.scalar2_wf (s : State) (o : OpX) (f : Word → Word → Word) (h : Memory.wf s.m.mem) :
    (s.scalar2 o f).Wf := by
  simp [State.scalar2, Memory.wf, h]

@[simp] theorem State.deliverCvt_wf (s : State) (va vd ws wt : ℕ) (cvt : Rnd → ℕ → ℕ) (h : Memory.wf s.m.mem) :
    (s.deliverCvt va vd ws wt cvt).Wf := by
  simp [State.deliverCvt, h]

@[simp] theorem State.deliverInspect_wf (s : State) (o : OpA1) (f : ℕ → ℕ → ℕ) (h : Memory.wf s.m.mem) :
    (s.deliverInspect o f).Wf := by
  simp [State.deliverInspect, h]

@[simp] theorem State.branch_wf (s : State) (out : ℕ → Pc) (j fall : Option Pc) (h : Memory.wf s.m.mem) :
    (s.branch out j fall).Wf := by
  unfold State.branch
  dsimp only
  (repeat' split) <;> simp +contextual [h]

@[simp] theorem meanBrai_wf (o : OpBI) (s : State) : (meanBrai o s).Wf := by
  intro t h
  unfold meanBrai
  dsimp only
  (repeat' split) <;> simp +contextual [Memory.wf, h]

@[simp] theorem meanCalli_wf (o : OpBI) (s : State) : (meanCalli o s).Wf := by
  intro t h
  unfold meanCalli
  dsimp only
  (repeat' split) <;> simp +contextual [Memory.wf, h]

@[simp] theorem meanRet_wf (s : State) : (meanRet s).Wf := by
  intro t h
  unfold meanRet
  dsimp only
  (repeat' split) <;> simp +contextual [h]

@[simp] theorem meanRegang_wf (s : State) : (meanRegang s).Wf := by
  intro t h
  unfold meanRegang
  dsimp only
  (repeat' split) <;> simp +contextual [h]

@[simp] theorem meanRte_wf (s : State) : (meanRte s).Wf := by
  intro t h
  unfold meanRte
  dsimp only
  (repeat' split) <;> simp +contextual [h]

@[simp] theorem State.cacheBody_wf (s : State) (o : MemOp) (h : Memory.wf s.m.mem) : (s.cacheBody o).Wf := by
  unfold State.cacheBody
  split <;> simp [h]

@[simp] theorem cacheUnit_wf (op : ℕ) (o : OpMC) (s : State) : (cacheUnit op o s).Wf := by
  intro t h
  simp [cacheUnit, Memory.wf, h]

@[simp] theorem meanVote_wf (o : OpVote) (s : State) : (meanVote o s).Wf := by
  intro t h
  unfold meanVote
  dsimp only
  (repeat' split) <;> simp +contextual [h]

@[simp] theorem State.memBody_wf (s : State) (o : MemOp) (h : Memory.wf s.m.mem) : (s.memBody o).Wf := by
  unfold State.memBody
  dsimp only
  (repeat' split) <;> simp +contextual [h]

@[simp] theorem meanPrefetch_wf (o : OpPre) (s : State) : (meanPrefetch o s).Wf := by
  intro t h
  simp +contextual [meanPrefetch, Memory.wf, h]

@[simp] theorem meanFence_wf (s : State) : (meanFence s).Wf := by
  intro t h
  unfold meanFence
  dsimp only
  (repeat' split) <;> simp +contextual [h]

@[simp] theorem meanMonitor_wf (o : OpMon) (s : State) : (meanMonitor o s).Wf := by
  intro t h
  unfold meanMonitor
  dsimp only
  (repeat' split) <;> simp +contextual [h]

@[simp] theorem meanSettleP_wf (o : OpD) (s : State) : (meanSettleP o s).Wf := by
  intro t h
  unfold meanSettleP
  dsimp only
  (repeat' split) <;> simp +contextual [Memory.wf, h]

@[simp] theorem meanPodsync_wf (s : State) : (meanPodsync s).Wf := by
  intro t h
  unfold meanPodsync
  dsimp only
  (repeat' split) <;> simp +contextual [Memory.wf, h]

@[simp] theorem mmaUnit_wf (sparse : Bool) (o : OpA) (s : State) : (mmaUnit sparse o s).Wf := by
  intro t h
  unfold mmaUnit
  dsimp only
  (repeat' split) <;> simp +contextual [Memory.wf, h]

@[simp] theorem ringUnit_wf (pop : Bool) (o : OpX1) (s : State) : (ringUnit pop o s).Wf := by
  intro t h
  unfold ringUnit
  dsimp only
  (repeat' split) <;> simp +contextual [Memory.wf, h]

@[simp] theorem State.stallOr_wf (s : State) (from_ : Option ℕ) (info : ℕ) : (s.stallOr from_ info).Wf := by
  simp [State.stallOr]

@[simp] theorem meanRwait_wf (o : OpX) (s : State) : (meanRwait o s).Wf := by
  intro t h
  unfold meanRwait
  dsimp only
  (repeat' split) <;> simp +contextual [h]

@[simp] theorem barUnit_wf (minor : ℕ) (sd sa : BitVec 6) (n : State → ℕ) (s : State) :
    (barUnit minor sd sa n s).Wf := by
  intro t h
  unfold barUnit
  dsimp only
  (repeat' split) <;> simp +contextual [Memory.wf, h]

@[simp] theorem State.awaitOr_wf (s : State) (loc token : ℕ) : (s.awaitOr loc token).Wf := by
  have h := s.stallOr_wf s.cur.waitFrom 1
  unfold State.awaitOr
  split
  · split
    · trivial
    · exact fun _ ht => ht
  · exact h

@[simp] theorem meanTmint_wf (o : OpX1) (s : State) : (meanTmint o s).Wf := by
  intro t h
  unfold meanTmint
  dsimp only
  (repeat' split) <;> simp +contextual [h]

@[simp] theorem State.status_wf (s : State) (sd : BitVec 6) (w : Word) (h : Memory.wf s.m.mem) :
    (s.status sd w).Wf := by
  simp [State.status, h]

@[simp] theorem State.tacq_wf (s : State) (sd : BitVec 6) (x : Tile) (mode : ℕ) (h : Memory.wf s.m.mem) :
    (s.tacq sd x mode).Wf := by
  unfold State.tacq
  dsimp only
  (repeat' split) <;> simp +contextual [Memory.wf, h]

@[simp] theorem State.tsplit_wf (s : State) (sd : BitVec 6) (x : Tile) (arg : ℕ) (h : Memory.wf s.m.mem) :
    (s.tsplit sd x arg).Wf := by
  unfold State.tsplit
  dsimp only
  (repeat' split) <;> simp +contextual [Memory.wf, h]

@[simp] theorem fetchUnit_wf (minor : ℕ) (o : OpA) (s : State) : (fetchUnit minor o s).Wf := by
  intro t h
  unfold fetchUnit
  dsimp only
  (repeat' split) <;> simp +contextual [h]

@[simp] theorem meanFinv_wf (o : OpFinv) (s : State) : (meanFinv o s).Wf := by
  intro t h
  unfold meanFinv
  dsimp only
  (repeat' split) <;> simp +contextual [h]

@[simp] theorem meanRshard_wf (o : OpX) (s : State) : (meanRshard o s).Wf := by
  intro t h
  unfold meanRshard
  dsimp only
  (repeat' split) <;> simp +contextual [h]

@[simp] theorem meanRspoll_wf (o : OpX1) (s : State) : (meanRspoll o s).Wf := by
  intro t h
  unfold meanRspoll
  dsimp only
  (repeat' split) <;> simp +contextual [Memory.wf, h]

@[simp] theorem meanMov16_wf (o : Op16) (s : State) : (meanMov16 o s).Wf := by
  intro t h
  unfold meanMov16
  split <;> simp [Memory.wf, h]

theorem tileUnit_wf (legal : Bool) (sa : BitVec 6) (body : State → Tile → Res) (s : State)
    (hb : ∀ (t : State) x, Memory.wf t.m.mem → (body t x).Wf) : (tileUnit legal sa body s).Wf := by
  intro t h
  unfold tileUnit
  dsimp only
  split
  · trivial
  · exact hb _ _ h

theorem State.onBlocks_wf {s : State} (g : Grid) (xs : List (ℕ × Bool)) (body : State → Res)
    (hb : ∀ t : State, Memory.wf t.m.mem → (body t).Wf) (h : Memory.wf s.m.mem) : (s.onBlocks g xs body).Wf := by
  unfold State.onBlocks
  split
  · exact hb _ (State.touchBlocks_wf _ _ _ h)
  · exact fun t ht => State.wf_of_mem ht (t.callBlocks_mem _ _ _)

theorem joinUnit_wf (poll : Bool) (o : OpSd) (s : State) : (joinUnit poll o s).Wf := by
  intro t h
  unfold joinUnit
  dsimp only
  split
  · trivial
  · split
    · trivial
    · refine State.onBlocks_wf _ _ _ (fun u hu => ?_) h
      split
      · trivial
      · simpa using hu

theorem meanMscale_wf (o : OpMC) (s : State) : (meanMscale o s).Wf := by
  intro t h
  have h1 := State.memBody_wf t (mscaleOp o) h
  unfold meanMscale
  dsimp only
  split
  next v hv => rw [hv] at h1; exact h1
  next => exact h1

theorem meanBwait_wf (o : OpX) (s : State) : (meanBwait o s).Wf := by
  intro t h
  unfold meanBwait
  dsimp only
  split
  · trivial
  · exact h
  · split
    · trivial
    · split
      · exact State.awaitOr_wf _ _ _
      · exact State.wf_of_mem h (t.setSAll_mem _ _)

theorem meanTfree_wf (o : OpX1) (s : State) : (meanTfree o s).Wf := by
  refine tileUnit_wf _ _ _ _ fun t x h => ?_
  (repeat' split) <;> simp [Memory.wf, h]

theorem meanTmerge_wf (o : OpX) (s : State) : (meanTmerge o s).Wf := by
  refine tileUnit_wf _ _ _ _ fun t x h => ?_
  (repeat' split) <;> simp [Memory.wf, h]

theorem meanTrel_wf (o : OpX1) (s : State) : (meanTrel o s).Wf := by
  refine tileUnit_wf _ _ _ _ fun t x h => ?_
  (repeat' split) <;> simp [Memory.wf, h]

theorem meanTdown_wf (o : OpX1) (s : State) : (meanTdown o s).Wf := by
  refine tileUnit_wf _ _ _ _ fun t x h => ?_
  (repeat' split) <;> simp [Memory.wf, h]

theorem meanTstat_wf (o : OpX1) (s : State) : (meanTstat o s).Wf :=
  tileUnit_wf _ _ _ _ fun t _ h => State.status_wf t _ _ h

theorem meanTacq_wf (o : OpX) (s : State) : (meanTacq o s).Wf :=
  tileUnit_wf _ _ _ _ fun t _ h => State.tacq_wf t _ _ _ h

theorem meanTsplit_wf (o : OpX) (s : State) : (meanTsplit o s).Wf :=
  tileUnit_wf _ _ _ _ fun t _ h => State.tsplit_wf t _ _ _ h

theorem meanSpawn_wf (o : OpX1) (s : State) : (meanSpawn o s).Wf := by
  intro t h
  unfold meanSpawn
  dsimp only
  split
  · trivial
  · split
    · trivial
    · split
      · trivial
      · refine State.onBlocks_wf _ _ _ (fun u hu => ?_) h
        split
        · simpa using hu
        · split
          · simpa using hu
          · have h1 := fun v => State.setLow_wf t.taskHere (t.arena t.u.iss.team) t.ownBlock 7 v
              (State.setBlockWord_wf t.taskHere (t.arena t.u.iss.team) (t.leadS o.sa.toNat) 9 t.ownBlock hu)
            split <;> simp [Memory.wf, h1]

theorem meanTaskend_wf (o : OpSd) (s : State) : (meanTaskend o s).Wf := by
  intro t h
  unfold meanTaskend
  dsimp only
  split
  · trivial
  · split
    · simpa using h
    · split
      · simpa using h
      · split
        · trivial
        · split
          · trivial
          · exact State.onBlocks_wf _ _ _ (fun u hu => by simpa using State.retireTask_wf _ _ _ _ hu) h

theorem meanLaunch_wf (o : OpX) (s : State) : (meanLaunch o s).Wf := by
  intro t h
  unfold meanLaunch
  dsimp only
  generalize 2 ^ 64 * t.leadAddr o.sa.toNat = k
  split
  · trivial
  · split
    · simpa using h
    · split
      · simpa using h
      · split
        · simpa using h
        · split
          · simpa using h
          · split
            · exact fun u hu => State.wf_of_mem hu (u.callLine_mem _ _ _ _)
            · have hr := State.wf_of_mem h (t.readQueue_mem (t.leadS o.sb.toNat))
              generalize t.readQueue (t.leadS o.sb.toNat) = r at hr
              rw [Res.wf_ok, State.setSAll_mem, State.ring_mem]
              exact State.physStore_wf _ _ _ (State.coreWrite_wf _ _ _ _ _ _ _ hr)

end Sys2Proof.Machine

/-! SUPPORT. Events keep memory in canonical form (R155, R158). -/

namespace Sys2Proof.Machine

/-- The next state of an outcome, if it has one, has memory in canonical form. -/
def OutWf (o : Host.Outcome State Fault Refusal) : Prop := ∀ t, o = .next t → t.MemWf

@[simp] theorem outWf_next (t : State) : OutWf (.next t) ↔ Memory.above 0 t.m.mem = true :=
  ⟨fun h => h t rfl, fun h u hu => by cases hu; exact h⟩

@[simp] theorem outWf_ite (c : Prop) [Decidable c] (a b : Host.Outcome State Fault Refusal) :
    OutWf (if c then a else b) ↔ if c then OutWf a else OutWf b := by
  split <;> rfl

theorem OutWf.next {t : State} (h : Memory.wf t.m.mem) : OutWf (.next t) := (outWf_next t).2 h

theorem OutWf.next' {t : State} (h : t.MemWf) : OutWf (.next t) := (outWf_next t).2 h

theorem State.MemWf.of_mem {s t : State} (h : s.MemWf) (e : t.m.mem = s.m.mem) : t.MemWf := State.wf_of_mem h e

theorem State.MemWf.clearContext {s : State} (h : s.MemWf) (a : ℕ) : (s.clearContext a).MemWf :=
  State.clearContext_wf a h

theorem State.MemWf.advance {s : State} (h : s.MemWf) (q : ℕ) : (s.advance q).MemWf := State.advance_wf q h

theorem State.MemWf.withDispatch {s : State} (h : s.MemWf) (d : Disp) : State.MemWf { s with d := d } := h

theorem OutWf.of_mem {s t : State} (h : Memory.wf s.m.mem) (e : t.m.mem = s.m.mem) : OutWf (.next t) :=
  .next (State.wf_of_mem h e)

theorem State.message_wf {s t : State} (h : Memory.wf s.m.mem) (ht : Memory.wf t.m.mem) : OutWf (s.message t) := by
  refine .next ?_
  split
  · exact ht
  · exact State.wf_of_mem h s.spdmError_mem

theorem Res.wf_of_mem {s t : State} (h : Memory.wf s.m.mem) (e : t.m.mem = s.m.mem) : (Res.ok t).Wf :=
  State.wf_of_mem h e

theorem execReplyLand_wf {s : State} (h : Memory.wf s.m.mem) : OutWf (execReplyLand s) := by
  unfold execReplyLand
  dsimp only
  (repeat' split) <;> simp +contextual [Memory.wf, h]

theorem execStorePerformed_wf {s : State} (h : Memory.wf s.m.mem) : OutWf (execStorePerformed s) := by
  unfold execStorePerformed
  dsimp only
  (repeat' split) <;> simp +contextual [Memory.wf, h]

theorem execSfuResult_wf {s : State} (h : Memory.wf s.m.mem) : OutWf (execSfuResult s) := by
  unfold execSfuResult
  split <;> simp [h]

theorem execMatrixDeliver_wf {s : State} (h : Memory.wf s.m.mem) : OutWf (execMatrixDeliver s) := by
  unfold execMatrixDeliver
  split <;> simp [h]

theorem execJointStart_wf {s : State} (h : Memory.wf s.m.mem) : OutWf (execJointStart s) := by
  unfold execJointStart
  dsimp only
  (repeat' split) <;> simp +contextual [h]

theorem execRendezvousTimeout_wf {s : State} (h : Memory.wf s.m.mem) : OutWf (execRendezvousTimeout s) := by
  simp [execRendezvousTimeout, Memory.wf, h]

theorem execLateFaultDelivery_wf {s : State} (h : Memory.wf s.m.mem) : OutWf (execLateFaultDelivery s) := by
  unfold execLateFaultDelivery
  dsimp only
  (repeat' split) <;> simp +contextual [Memory.wf, h]

theorem execSplitStarved_wf {s : State} (h : Memory.wf s.m.mem) : OutWf (execSplitStarved s) := by
  simp [execSplitStarved, h]

theorem execMwaitWake_wf {s : State} (h : Memory.wf s.m.mem) : OutWf (execMwaitWake s) := by
  unfold execMwaitWake
  split <;> simp [h]

theorem execSleepExpiry_wf {s : State} (h : Memory.wf s.m.mem) : OutWf (execSleepExpiry s) := by
  simp [execSleepExpiry, h]

theorem execRngseedWrite_wf {s : State} (h : Memory.wf s.m.mem) : OutWf (execRngseedWrite s) := by
  unfold execRngseedWrite
  split <;> simp [h]

theorem execRecallRelease_wf {s : State} (h : Memory.wf s.m.mem) : OutWf (execRecallRelease s) := by
  unfold execRecallRelease
  dsimp only
  (repeat' split) <;> simp +contextual [Memory.wf, h]

theorem execInvalidation_wf {s : State} (h : Memory.wf s.m.mem) : OutWf (execInvalidation s) := by
  unfold execInvalidation
  dsimp only
  (repeat' split) <;> simp +contextual [h]

theorem execRegionMerge_wf {s : State} (h : Memory.wf s.m.mem) : OutWf (execRegionMerge s) := by
  unfold execRegionMerge
  dsimp only
  (repeat' split) <;> simp +contextual [h]

theorem execTenureTimeout_wf {s : State} (h : Memory.wf s.m.mem) : OutWf (execTenureTimeout s) := by
  unfold execTenureTimeout
  dsimp only
  (repeat' split) <;> simp +contextual [h]

theorem execCopyStart_wf {s : State} (h : Memory.wf s.m.mem) : OutWf (execCopyStart s) := by
  unfold execCopyStart
  dsimp only
  (repeat' split) <;> simp +contextual [h]

theorem execCopyComplete_wf {s : State} (h : Memory.wf s.m.mem) : OutWf (execCopyComplete s) := by
  unfold execCopyComplete
  split <;> simp [Memory.wf, h]

theorem execLogDrain_wf {s : State} (h : Memory.wf s.m.mem) : OutWf (execLogDrain s) := by
  unfold execLogDrain
  split <;> simp [h]

theorem execBinAgeExpiry_wf {s : State} (h : Memory.wf s.m.mem) : OutWf (execBinAgeExpiry s) := by
  simp [execBinAgeExpiry, h]

theorem execIngressBin_wf {s : State} (h : Memory.wf s.m.mem) : OutWf (execIngressBin s) := by
  simp [execIngressBin, h]

theorem execBinApply_wf {s : State} (h : Memory.wf s.m.mem) : OutWf (execBinApply s) := by
  unfold execBinApply
  dsimp only
  (repeat' split) <;> simp +contextual [Memory.wf, h]

theorem execBinAck_wf {s : State} (h : Memory.wf s.m.mem) : OutWf (execBinAck s) := by
  simp [execBinAck, h]

theorem execRefusalNotice_wf {s : State} (h : Memory.wf s.m.mem) : OutWf (execRefusalNotice s) := by
  unfold execRefusalNotice
  split <;> simp [h]

theorem execSettleComplete_wf {s : State} (h : Memory.wf s.m.mem) : OutWf (execSettleComplete s) := by
  unfold execSettleComplete
  dsimp only
  (repeat' split) <;> simp +contextual [h]

theorem execEventWrite_wf {s : State} (h : Memory.wf s.m.mem) : OutWf (execEventWrite s) := by
  unfold execEventWrite
  dsimp only
  (repeat' split) <;> simp +contextual [Memory.wf, h]

theorem execWaitRecheck_wf {s : State} (h : Memory.wf s.m.mem) : OutWf (execWaitRecheck s) := by
  unfold execWaitRecheck
  dsimp only
  (repeat' split) <;> simp +contextual [Memory.wf, h]

theorem execSealRetry_wf {s : State} (h : Memory.wf s.m.mem) : OutWf (execSealRetry s) := by
  unfold execSealRetry
  dsimp only
  (repeat' split) <;> simp +contextual [Memory.wf, h]

theorem execTeamSave_wf {s : State} (h : Memory.wf s.m.mem) : OutWf (execTeamSave s) := by
  unfold execTeamSave
  split <;> simp [Memory.wf, h]

theorem execGridRetire_wf {s : State} (h : Memory.wf s.m.mem) : OutWf (execGridRetire s) := by
  unfold execGridRetire
  dsimp only
  (repeat' split) <;> simp +contextual [Memory.wf, h]

theorem execWatchdog_wf {s : State} (h : Memory.wf s.m.mem) : OutWf (execWatchdog s) := by
  unfold execWatchdog
  split <;> simp [h]

theorem execTaskRetire_wf {s : State} (h : Memory.wf s.m.mem) : OutWf (execTaskRetire s) := by
  unfold execTaskRetire
  dsimp only
  (repeat' split) <;> simp +contextual [Memory.wf, h]

theorem execPageWalk_wf {s : State} (h : Memory.wf s.m.mem) : OutWf (execPageWalk s) := by
  unfold execPageWalk
  dsimp only
  (repeat' split) <;> simp +contextual [h]

theorem execFaultQueueWrite_wf {s : State} (h : Memory.wf s.m.mem) : OutWf (execFaultQueueWrite s) := by
  unfold execFaultQueueWrite
  dsimp only
  (repeat' split) <;> simp +contextual [Memory.wf, h, State.storeWords_wf]

theorem execDebugHalt_wf {s : State} (h : Memory.wf s.m.mem) : OutWf (execDebugHalt s) := by
  unfold execDebugHalt
  split <;> simp [h]

theorem execSingleStep_wf {s : State} (h : Memory.wf s.m.mem) : OutWf (execSingleStep s) := by
  unfold execSingleStep
  split <;> simp [h]

theorem execDebugResume_wf {s : State} (h : Memory.wf s.m.mem) : OutWf (execDebugResume s) := by
  unfold execDebugResume
  split <;> simp [h]

theorem execHostRegWrite_wf {s : State} (h : Memory.wf s.m.mem) : OutWf (execHostRegWrite s) := by
  simp [execHostRegWrite, h]

theorem execBar0BadAccess_wf {s : State} (h : Memory.wf s.m.mem) : OutWf (execBar0BadAccess s) := by
  simp [execBar0BadAccess, h]

theorem execChipcarveWrite_wf {s : State} (h : Memory.wf s.m.mem) : OutWf (execChipcarveWrite s) := by
  simp [execChipcarveWrite, h]

theorem execChipcarveApply_wf {s : State} (h : Memory.wf s.m.mem) : OutWf (execChipcarveApply s) := by
  simp [execChipcarveApply, h]

theorem execResctlWrite_wf {s : State} (h : Memory.wf s.m.mem) : OutWf (execResctlWrite s) := by
  unfold execResctlWrite
  split <;> simp [h]

theorem execHostBar2Read_wf {s : State} (h : Memory.wf s.m.mem) : OutWf (execHostBar2Read s) := by
  unfold execHostBar2Read
  dsimp only
  (repeat' split) <;> simp +contextual [Memory.wf, h]

theorem execHostBar2Write_wf {s : State} (h : Memory.wf s.m.mem) : OutWf (execHostBar2Write s) := by
  unfold execHostBar2Write
  dsimp only
  (repeat' split) <;> simp +contextual [Memory.wf, h]

theorem execBringUp_wf {s : State} (h : Memory.wf s.m.mem) : OutWf (execBringUp s) := by
  simp [execBringUp, Memory.wf, h]

theorem execStageTimeout_wf {s : State} (h : Memory.wf s.m.mem) : OutWf (execStageTimeout s) := by
  simp [execStageTimeout, h]

theorem execClockLower_wf {s : State} (h : Memory.wf s.m.mem) : OutWf (execClockLower s) := by
  simp [execClockLower, h]

theorem execClockRaise_wf {s : State} (h : Memory.wf s.m.mem) : OutWf (execClockRaise s) := by
  simp [execClockRaise, h]

theorem execThermalTrip_wf {s : State} (h : Memory.wf s.m.mem) : OutWf (execThermalTrip s) := by
  simp [execThermalTrip, Memory.wf, h]

theorem execLiveUpdate_wf {s : State} (h : Memory.wf s.m.mem) : OutWf (execLiveUpdate s) := by
  unfold execLiveUpdate
  dsimp only
  (repeat' split) <;> simp +contextual [h]

theorem execAlive_wf {s : State} (h : Memory.wf s.m.mem) : OutWf (execAlive s) := by
  unfold execAlive
  dsimp only
  (repeat' split) <;> simp +contextual [h]

theorem execUpdateRollback_wf {s : State} (h : Memory.wf s.m.mem) : OutWf (execUpdateRollback s) := by
  simp [execUpdateRollback, h]

theorem execLifetimePersist_wf {s : State} (h : Memory.wf s.m.mem) : OutWf (execLifetimePersist s) := by
  simp [execLifetimePersist, h]

theorem execPowerDown_wf {s : State} (h : Memory.wf s.m.mem) : OutWf (execPowerDown s) := by
  simp [execPowerDown, Memory.wf, h]

theorem execGetVersion_wf {s : State} (h : Memory.wf s.m.mem) : OutWf (execGetVersion s) := by
  simp [execGetVersion, h]

theorem execGetCapabilities_wf {s : State} (h : Memory.wf s.m.mem) : OutWf (execGetCapabilities s) := by
  simp [execGetCapabilities, h]

theorem execNegotiateAlgorithms_wf {s : State} (h : Memory.wf s.m.mem) : OutWf (execNegotiateAlgorithms s) := by
  simp [execNegotiateAlgorithms, h]

theorem execGetDigests_wf {s : State} (h : Memory.wf s.m.mem) : OutWf (execGetDigests s) := by
  simp [execGetDigests, h]

theorem execGetCertificate_wf {s : State} (h : Memory.wf s.m.mem) : OutWf (execGetCertificate s) := by
  simp [execGetCertificate, h]

theorem execChallenge_wf {s : State} (h : Memory.wf s.m.mem) : OutWf (execChallenge s) := by
  simp [execChallenge, h]

theorem execGetMeasurements_wf {s : State} (h : Memory.wf s.m.mem) : OutWf (execGetMeasurements s) := by
  simp [execGetMeasurements, h]

theorem execPodJobRegister_wf {s : State} (h : Memory.wf s.m.mem) : OutWf (execPodJobRegister s) := by
  simp [execPodJobRegister, h]

theorem execPodArrivalMsg_wf {s : State} (h : Memory.wf s.m.mem) : OutWf (execPodArrivalMsg s) := by
  unfold execPodArrivalMsg
  dsimp only
  (repeat' split) <;> simp +contextual [h]

theorem execPodCompletionMsg_wf {s : State} (h : Memory.wf s.m.mem) : OutWf (execPodCompletionMsg s) := by
  unfold execPodCompletionMsg
  dsimp only
  (repeat' split) <;> simp +contextual [h]

theorem execFlitReceive_wf {s : State} (h : Memory.wf s.m.mem) : OutWf (execFlitReceive s) := by
  simp [execFlitReceive, h]

theorem execLinkRetrain_wf {s : State} (h : Memory.wf s.m.mem) : OutWf (execLinkRetrain s) := by
  simp [execLinkRetrain, Memory.wf, h]

theorem execArrearsWin_wf {s : State} (h : Memory.wf s.m.mem) : OutWf (execArrearsWin s) := by
  unfold execArrearsWin
  dsimp only
  (repeat' split) <;> simp +contextual [h]

theorem execRemoteAccess_wf {s : State} (h : Memory.wf s.m.mem) : OutWf (execRemoteAccess s) := by
  simp [execRemoteAccess, Memory.wf, h]

theorem execRemoteStoreAck_wf {s : State} (h : Memory.wf s.m.mem) : OutWf (execRemoteStoreAck s) := by
  unfold execRemoteStoreAck
  split <;> simp [h]

theorem execMigrationRun_wf {s : State} (h : Memory.wf s.m.mem) : OutWf (execMigrationRun s) := by
  unfold execMigrationRun
  dsimp only
  (repeat' split) <;> simp +contextual [Memory.wf, h]

theorem execReshardAccept_wf {s : State} (h : Memory.wf s.m.mem) : OutWf (execReshardAccept s) := by
  unfold execReshardAccept
  split <;> simp [Memory.wf, h]

theorem execReshardStepComplete_wf {s : State} (h : Memory.wf s.m.mem) : OutWf (execReshardStepComplete s) := by
  unfold execReshardStepComplete
  dsimp only
  (repeat' split) <;> simp +contextual [Memory.wf, h]

theorem execProgressWrite_wf {s : State} (h : Memory.wf s.m.mem) : OutWf (execProgressWrite s) := by
  unfold execProgressWrite
  split <;> simp [Memory.wf, h]

theorem execPowerLoss_wf {s : State} (h : Memory.wf s.m.mem) : OutWf (execPowerLoss s) := by
  simp [execPowerLoss, Memory.wf, h]

theorem execDbgctlHostWrite_wf {s : State} (h : Memory.wf s.m.mem) : OutWf (execDbgctlHostWrite s) := by
  simp [execDbgctlHostWrite, h]

theorem execStepCancel_wf {s : State} (h : Memory.wf s.m.mem) : OutWf (execStepCancel s) := by
  unfold execStepCancel
  split <;> simp [h]

theorem execHistogramMinute_wf {s : State} (h : Memory.wf s.m.mem) : OutWf (execHistogramMinute s) := by
  simp [execHistogramMinute, h]

section

variable {s : State} (h : Memory.wf s.m.mem)

include h

theorem execBarrierStall_wf : OutWf (execBarrierStall s) := by
  unfold execBarrierStall
  split
  · exact .next h
  · split
    · exact .next h
    · split
      · exact .next (s.failRound_wf _ _ h)
      · exact .next h

theorem execMwaitTimeout_wf : OutWf (execMwaitTimeout s) := by
  unfold execMwaitTimeout
  split
  · exact .next h
  · split
    · split
      · exact .of_mem h (s.wakeSplit_mem _)
      · exact .next h
    · exact .next h

theorem execHomeAccess_wf : OutWf (execHomeAccess s) := by
  unfold execHomeAccess
  split
  · exact .next h
  · split
    · split
      · exact .next (State.performFetch_wf _ h)
      · exact .next h
    · split
      · exact .next h
      · split
        · exact .next (State.reachHome_wf _ _ h)
        · exact .next (State.reachHome_wf _ _ (State.wf_of_mem h (s.modAcc_mem _ _)))
    · split
      · exact .next h
      · split
        · exact .next (State.performAtom_wf _ _ h)
        · exact .next h
    · exact .next h

theorem execRecallRetry_wf : OutWf (execRecallRetry s) := by
  unfold execRecallRetry
  split
  · exact .next h
  · split
    · split
      · exact .of_mem h (s.modMates_mem _ _)
      · exact .next h
    · exact .next h

theorem execTenureGrant_wf : OutWf (execTenureGrant s) := by
  unfold execTenureGrant
  split
  · split
    · exact .next h
    · exact .of_mem h (s.grantAt_mem _)
  · exact .next h

theorem execDoorbell_wf : OutWf (execDoorbell s) := by
  unfold execDoorbell
  extract_lets q v r back ahead
  split
  · exact .of_mem h s.badAccess_mem
  · split
    · exact .next h
    · split
      · exact .next (State.queueFail_wf _ _ _ _ h)
      · exact .next' (State.MemWf.of_mem (State.MemWf.physStore h _ _ _) (State.ring_mem _ _))

theorem execQueueNop_wf : OutWf (execQueueNop s) :=
  .next (State.beginHead_wf _ _ _ (fun _ _ ht => State.MemWf.advance ht _) h)

theorem execQueueLaunch_wf : OutWf (execQueueLaunch s) := by
  refine .next (State.beginHead_wf _ _ _ (fun t ws ht => ?_) h)
  split
  · exact State.queueFail_wf _ _ _ _ ht
  · split
    next u hu => exact State.advance_wf _ (State.admission_wf (State.readRecord_wf _ _ _ ht) hu)
    next => exact h

theorem execQueueEvent_wf : OutWf (execQueueEvent s) := by
  refine .next (State.beginHead_wf _ _ _ (fun t ws ht => ?_) h)
  dsimp only
  split
  · exact State.queueFail_wf _ _ _ _ ht
  · split
    · exact State.queueFail_wf _ _ _ _ ht
    · exact ht

theorem execQueueWait_wf : OutWf (execQueueWait s) :=
  .next (State.beginHead_wf _ _ _ (fun _ _ ht => State.readWait_wf _ _ ht) h)

theorem execQueueInval_wf : OutWf (execQueueInval s) := by
  unfold execQueueInval
  dsimp only
  split
  · split
    · split
      · exact .next (State.advance_wf _ h)
      · exact .next h
    · exact .next h
  · exact .next (State.beginHead_wf _ _ _ (fun t ws ht => State.wf_of_mem ht (t.dropTlb_mem ws)) h)

theorem execInvalTeardown_wf : OutWf (execInvalTeardown s) := by
  unfold execInvalTeardown
  generalize 2 ^ 16 = k
  refine .next (State.beginHead_wf _ _ _ (fun t ws ht => ?_) h)
  extract_lets asid mine e u v w
  have hw : w.MemWf := State.MemWf.clearContext (State.MemWf.of_mem ht (v.dropTlb_mem _)) asid
  exact hw.withDispatch _

theorem execResumeReplay_wf : OutWf (execResumeReplay s) := by
  refine .next (State.resume_wf _ _ _ _ (fun t r ht => ?_) h)
  dsimp only
  split
  · exact ht
  · split
    · exact ht
    · exact State.wf_of_mem ht (State.replayHeld_mem _ _ _)

theorem execResumeCancel_wf : OutWf (execResumeCancel s) := by
  refine .next (State.resume_wf _ _ _ _ (fun t r ht => ?_) h)
  exact State.takeFault_wf _ _ _ (State.wf_of_mem ht (State.foldl_mem _ _ _ fun u a => u.cancelAccess_mem a))

theorem execResumeUnitpc_wf : OutWf (execResumeUnitpc s) :=
  .next (State.resume_wf _ _ _ _ (fun _ _ ht => ht) h)

theorem execResumeNext_wf : OutWf (execResumeNext s) :=
  .next (State.resume_wf _ _ _ _ (fun _ _ ht => ht) h)

theorem execResumeAbort_wf : OutWf (execResumeAbort s) := by
  unfold execResumeAbort
  dsimp only
  split
  · split
    · exact .next (State.resume_wf _ _ _ _ (fun _ _ ht => ht) h)
    · exact .next (State.resume_wf _ _ _ _ (fun _ _ ht => State.abortGrid_wf _ _ ht) h)
  · exact .next h

theorem execDispatchStep_wf : OutWf (execDispatchStep s) := by
  unfold execDispatchStep
  dsimp only
  split
  next t ht => exact .next (State.placeNow_wf h ht)
  next =>
    split
    · exact .next (State.startTask_wf _ _ h)
    · split
      next t ht => exact .next (State.preemptNow_wf h ht)
      next => exact .of_mem h (s.callHeads_mem _)

theorem execKeyLoad_wf : OutWf (execKeyLoad s) := by
  refine State.message_wf h ?_
  split <;> exact h

theorem execSetPowerCap_wf : OutWf (execSetPowerCap s) := by
  refine State.message_wf h ?_
  split <;> exact h

theorem execFwImageWrite_wf : OutWf (execFwImageWrite s) := by
  unfold execFwImageWrite
  dsimp only
  split
  · refine State.message_wf h ?_
    split
    · exact State.wf_of_mem h (s.setCtrl_mem _ _)
    · exact h
  · exact State.message_wf h h

theorem execFloorRaise_wf : OutWf (execFloorRaise s) := by
  unfold execFloorRaise
  dsimp only
  split
  · refine State.message_wf h ?_
    split
    · exact State.wf_of_mem h (s.setCtrl_mem _ _)
    · exact h
  · exact State.message_wf h h

theorem execLifetimeRead_wf : OutWf (execLifetimeRead s) := State.message_wf h h

theorem execSetArrears_wf : OutWf (execSetArrears s) := by
  refine State.message_wf h ?_
  split <;> exact h

theorem execMigrationPool_wf : OutWf (execMigrationPool s) := State.message_wf h h

theorem execDeliveryTimeout_wf : OutWf (execDeliveryTimeout s) := by
  unfold execDeliveryTimeout
  split
  · exact .next h
  · split
    · exact .next h
    · split
      · exact .next h
      · refine .of_mem h ?_
        rw [State.modAcc_mem]
        split
        · exact s.dropRun_mem _
        · rfl

theorem execReshardEnd_wf : OutWf (execReshardEnd s) := by
  unfold execReshardEnd
  split
  · exact .next h
  next r _ =>
    dsimp only
    split
    · exact .next h
    · have h1 := fun a b c d => State.setRec_wf r 7 a
        (State.setRec_wf r 6 b (State.setRec_wf r 5 c (State.setRec_wf r 4 d (State.writeProgress_wf r h))))
      rw [outWf_next, State.dropRsh_mem]
      split
      · exact h1 _ _ _ _
      · rw [State.rshDeliver_mem]
        exact h1 _ _ _ _

theorem execReshardStop_wf : OutWf (execReshardStop s) := by
  unfold execReshardStop
  split
  · exact .next h
  · split
    · exact .next h
    · split
      · split
        · split
          · exact .of_mem h (s.modRsh_mem _ _)
          · exact .next h
        · exact .next h
      · split
        · exact .of_mem h (s.modRsh_mem _ _)
        · exact .next h

end

theorem meaningOf_wf {i : Instr} {s : State} {m : Meaning} (hm : meaningOf i s = some m) : m.Wf := by
  cases i
  case iadd o | isub o | imin o | imax o | iminu o | imaxu o | iaddc o | iabsd o | imul o | imulh o | imulhu o
      | imad o | idot4 o | idot4u o | andB o | orB o | xorB o | andn o | orn o | xnor o | sel o | fshl o | bfx o
      | bfi o | perm o | fmin o | fmax o | fminm o | fmaxm o | fcpys o | iadd16 o | isub16 o | and16 o | or16 o
      | xor16 o | imul16 o =>
    obtain rfl := Option.some.inj hm
    exact fun t h => State.deliverA_wf t _ _ h
  case popc o | clz o | brev o | mov o | iaddi16 o =>
    obtain rfl := Option.some.inj hm
    exact fun t h => State.deliverA1_wf t _ _ h
  case shl o | shr o | sar o | rol o | ror o | shl16 o | shr16 o =>
    obtain rfl := Option.some.inj hm
    exact fun t h => State.deliverShift_wf t _ _ h
  case icmpEq o | icmpNe o | icmpLt o | icmpLe o | icmpGt o | icmpGe o | icmpLtu o | icmpGeu o | fcmpEq o | fcmpNe o
      | fcmpLt o | fcmpLe o | fcmpGt o | fcmpGe o | fcmpUn o | fcmpOrd o =>
    obtain rfl := Option.some.inj hm
    exact fun t h => State.deliverC_wf t _ _ h
  case iaddi o | andi o | ori o | xori o | shli o | shri o | sari o =>
    obtain rfl := Option.some.inj hm
    exact fun t h => State.deliverI_wf t _ _ h
  case movi o | movhi o | lea o | pack o | unpk o | bcast o | vget o | fadd o | fsub o | fmul o | ffma o | ffms o
      | fnma o | fnms o | fdot2 o | fdot4 o | fscale o | fround o | fclass o | matchV o | shfl o | reduce o | scan o
      | rank o | spcmp o | smxacc o | smxfin o | getfmt o | fadd16 o | fsub16 o | fmul16 o | fmax16 o | movi16 o =>
    obtain rfl := Option.some.inj hm
    exact fun t h => Res.wf_of_mem h (State.deliverAll_mem ..)
  case sadd o | ssub o | smul o | sand o | sor o | sxor o =>
    obtain rfl := Option.some.inj hm
    exact fun t h => State.scalar2_wf t _ _ h
  case sshl o | sshr o | saddi o | smovi o | scmp o | smov o | vput o | smovhi o | ssar o | ssel o | sread o
      | peerid o | peeridQ o =>
    obtain rfl := Option.some.inj hm
    exact fun t h => State.eachSlice_wf t _ _ h
  case frcp o | frsq o | fsqrt o | fexp2 o | flog2 o | fsin o | fcos o | ftanh o | swrite o | sleep o | settleL o
      | setfmt o | cpy o | tcpy o | tcpym o | tstore o | qstat o | migrate o | mwait =>
    obtain rfl := Option.some.inj hm
    exact fun t h => Res.wf_of_mem h (by simp)
  case fcvt o | icvtf o | fcvti o =>
    obtain rfl := Option.some.inj hm
    exact fun t h => State.deliverCvt_wf t _ _ _ _ _ h
  case dxpack o | dxunpk o | bra o | call o | settleG o | mmad o | xqt o | consort o | exit | gridsync =>
    obtain rfl := Option.some.inj hm
    intro t h
    simp [Memory.wf, h, meanDxpack, meanDxunpk, meanBra, meanCall, meanSettleG, meanMmad, meanXqt, meanConsort
      , meanExit, meanGridsync]
  case fexpo o =>
    obtain rfl := Option.some.inj hm
    exact fun t h => State.deliverInspect_wf t _ _ h
  case brai o =>
    obtain rfl := Option.some.inj hm
    exact meanBrai_wf _ _
  case calli o =>
    obtain rfl := Option.some.inj hm
    exact meanCalli_wf _ _
  case trap o | bkpt o =>
    obtain rfl := Option.some.inj hm
    exact fun _ _ => trivial
  case cacheIinv o | cacheL1inv o | cacheL2clean o | cacheL2flush o =>
    obtain rfl := Option.some.inj hm
    exact cacheUnit_wf _ _ _
  case vote o =>
    obtain rfl := Option.some.inj hm
    exact meanVote_wf _ _
  case elect o =>
    obtain rfl := Option.some.inj hm
    exact fun t h => Res.wf_of_mem h (State.deliverMask_mem ..)
  case ldB8u o | ldB8s o | ldB16u o | ldB16s o | ldB32 o | ldB64 o | ldB128 o | ldc o | stB8 o | stB16 o | stB32 o
      | stB64 o | stB128 o | stnt o | atomAdd o | atomMin o | atomMax o | atomAnd o | atomOr o | atomXor o
      | atomExch o | atomCas o | atomfFadd32 o | atomfFadd64 o | atomfFmin32 o | atomfFmax32 o | atomfFaddh2 o
      | atomfFaddb2 o | atomfInc o | atomfDec o | dstStore o | dstAdd o | dstFadd o | dstMin o | dstMax o | dstOr o
      | dstAnd o | dstAppend o | ld16 o =>
    obtain rfl := Option.some.inj hm
    exact fun t h => State.memBody_wf t _ h
  case prefetch o =>
    obtain rfl := Option.some.inj hm
    exact meanPrefetch_wf _ _
  case waitc o | accz o | fragt o | yield | nop | mscaleOff =>
    obtain rfl := Option.some.inj hm
    exact fun t h => h
  case monitor o =>
    obtain rfl := Option.some.inj hm
    exact meanMonitor_wf _ _
  case settleT o | bar =>
    obtain rfl := Option.some.inj hm
    exact fun t h => State.arriveAt_wf _ _ h
  case settleP o =>
    obtain rfl := Option.some.inj hm
    exact meanSettleP_wf _ _
  case mma o | mmas o =>
    obtain rfl := Option.some.inj hm
    exact mmaUnit_wf _ _ _
  case mscale o =>
    obtain rfl := Option.some.inj hm
    exact meanMscale_wf _ _
  case rpush o | rpop o =>
    obtain rfl := Option.some.inj hm
    exact ringUnit_wf _ _ _
  case rwait o =>
    obtain rfl := Option.some.inj hm
    exact meanRwait_wf _ _
  case binit o | barv o | btest o | bexpect o | binval o =>
    obtain rfl := Option.some.inj hm
    exact barUnit_wf _ _ _ _ _
  case bwait o =>
    obtain rfl := Option.some.inj hm
    exact meanBwait_wf _ _
  case tmint o =>
    obtain rfl := Option.some.inj hm
    exact meanTmint_wf _ _
  case tfree o =>
    obtain rfl := Option.some.inj hm
    exact meanTfree_wf _ _
  case tacq o =>
    obtain rfl := Option.some.inj hm
    exact meanTacq_wf _ _
  case trel o =>
    obtain rfl := Option.some.inj hm
    exact meanTrel_wf _ _
  case tsplit o =>
    obtain rfl := Option.some.inj hm
    exact meanTsplit_wf _ _
  case tmerge o =>
    obtain rfl := Option.some.inj hm
    exact meanTmerge_wf _ _
  case tstat o =>
    obtain rfl := Option.some.inj hm
    exact meanTstat_wf _ _
  case tdown o =>
    obtain rfl := Option.some.inj hm
    exact meanTdown_wf _ _
  case fetch o | fetchx o | fetchs o =>
    obtain rfl := Option.some.inj hm
    exact fetchUnit_wf _ _ _
  case finv o =>
    obtain rfl := Option.some.inj hm
    exact meanFinv_wf _ _
  case spawn o =>
    obtain rfl := Option.some.inj hm
    exact meanSpawn_wf _ _
  case joinTask o | joinPoll o =>
    obtain rfl := Option.some.inj hm
    exact joinUnit_wf _ _ _
  case launchCmd o =>
    obtain rfl := Option.some.inj hm
    exact meanLaunch_wf _ _
  case taskend o =>
    obtain rfl := Option.some.inj hm
    exact meanTaskend_wf _ _
  case rshard o =>
    obtain rfl := Option.some.inj hm
    exact meanRshard_wf _ _
  case rspoll o =>
    obtain rfl := Option.some.inj hm
    exact meanRspoll_wf _ _
  case mov16 o =>
    obtain rfl := Option.some.inj hm
    exact meanMov16_wf _ _
  case ret =>
    obtain rfl := Option.some.inj hm
    exact meanRet_wf _
  case regang =>
    obtain rfl := Option.some.inj hm
    exact meanRegang_wf _
  case rte =>
    obtain rfl := Option.some.inj hm
    exact meanRte_wf _
  case fence =>
    obtain rfl := Option.some.inj hm
    exact meanFence_wf _
  case podsync =>
    obtain rfl := Option.some.inj hm
    exact meanPodsync_wf _
  all_goals exact (Option.some_ne_none _ hm.symm).elim

theorem execEvent_wf {i : Instr} {s : State} (hm : meaningOf i s = none) (h : Memory.wf s.m.mem) : OutWf (exec i s) := by
  cases i
  case replyLand => exact execReplyLand_wf h
  case storePerformed => exact execStorePerformed_wf h
  case sfuResult => exact execSfuResult_wf h
  case matrixDeliver => exact execMatrixDeliver_wf h
  case jointStart => exact execJointStart_wf h
  case rendezvousTimeout => exact execRendezvousTimeout_wf h
  case lateFaultDelivery => exact execLateFaultDelivery_wf h
  case barrierStall => exact execBarrierStall_wf h
  case splitStarved => exact execSplitStarved_wf h
  case mwaitWake => exact execMwaitWake_wf h
  case mwaitTimeout => exact execMwaitTimeout_wf h
  case sleepExpiry => exact execSleepExpiry_wf h
  case rngseedWrite => exact execRngseedWrite_wf h
  case homeAccess => exact execHomeAccess_wf h
  case recallRelease => exact execRecallRelease_wf h
  case recallRetry => exact execRecallRetry_wf h
  case invalidation => exact execInvalidation_wf h
  case regionMerge => exact execRegionMerge_wf h
  case tenureGrant => exact execTenureGrant_wf h
  case tenureTimeout => exact execTenureTimeout_wf h
  case copyStart => exact execCopyStart_wf h
  case copyComplete => exact execCopyComplete_wf h
  case logDrain => exact execLogDrain_wf h
  case binAgeExpiry => exact execBinAgeExpiry_wf h
  case ingressBin => exact execIngressBin_wf h
  case binApply => exact execBinApply_wf h
  case binAck => exact execBinAck_wf h
  case refusalNotice => exact execRefusalNotice_wf h
  case settleComplete => exact execSettleComplete_wf h
  case doorbell => exact execDoorbell_wf h
  case queueNop => exact execQueueNop_wf h
  case queueLaunch => exact execQueueLaunch_wf h
  case queueEvent => exact execQueueEvent_wf h
  case eventWrite => exact execEventWrite_wf h
  case queueWait => exact execQueueWait_wf h
  case waitRecheck => exact execWaitRecheck_wf h
  case queueInval => exact execQueueInval_wf h
  case invalTeardown => exact execInvalTeardown_wf h
  case resumeReplay => exact execResumeReplay_wf h
  case resumeCancel => exact execResumeCancel_wf h
  case resumeUnitpc => exact execResumeUnitpc_wf h
  case resumeNext => exact execResumeNext_wf h
  case resumeAbort => exact execResumeAbort_wf h
  case sealRetry => exact execSealRetry_wf h
  case dispatchStep => exact execDispatchStep_wf h
  case teamSave => exact execTeamSave_wf h
  case gridRetire => exact execGridRetire_wf h
  case watchdog => exact execWatchdog_wf h
  case taskRetire => exact execTaskRetire_wf h
  case pageWalk => exact execPageWalk_wf h
  case faultQueueWrite => exact execFaultQueueWrite_wf h
  case debugHalt => exact execDebugHalt_wf h
  case singleStep => exact execSingleStep_wf h
  case debugResume => exact execDebugResume_wf h
  case hostRegWrite => exact execHostRegWrite_wf h
  case bar0BadAccess => exact execBar0BadAccess_wf h
  case chipcarveWrite => exact execChipcarveWrite_wf h
  case chipcarveApply => exact execChipcarveApply_wf h
  case resctlWrite => exact execResctlWrite_wf h
  case hostBar2Read => exact execHostBar2Read_wf h
  case hostBar2Write => exact execHostBar2Write_wf h
  case keyLoad => exact execKeyLoad_wf h
  case bringUp => exact execBringUp_wf h
  case stageTimeout => exact execStageTimeout_wf h
  case setPowerCap => exact execSetPowerCap_wf h
  case clockLower => exact execClockLower_wf h
  case clockRaise => exact execClockRaise_wf h
  case thermalTrip => exact execThermalTrip_wf h
  case fwImageWrite => exact execFwImageWrite_wf h
  case liveUpdate => exact execLiveUpdate_wf h
  case aliveMsg => exact execAlive_wf h
  case updateRollback => exact execUpdateRollback_wf h
  case floorRaise => exact execFloorRaise_wf h
  case lifetimeRead => exact execLifetimeRead_wf h
  case lifetimePersist => exact execLifetimePersist_wf h
  case powerDown => exact execPowerDown_wf h
  case getVersion => exact execGetVersion_wf h
  case getCapabilities => exact execGetCapabilities_wf h
  case negotiateAlgorithms => exact execNegotiateAlgorithms_wf h
  case getDigests => exact execGetDigests_wf h
  case getCertificate => exact execGetCertificate_wf h
  case challenge => exact execChallenge_wf h
  case getMeasurements => exact execGetMeasurements_wf h
  case setArrears => exact execSetArrears_wf h
  case migrationPool => exact execMigrationPool_wf h
  case podJobRegister => exact execPodJobRegister_wf h
  case podArrivalMsg => exact execPodArrivalMsg_wf h
  case podCompletionMsg => exact execPodCompletionMsg_wf h
  case flitReceive => exact execFlitReceive_wf h
  case linkRetrain => exact execLinkRetrain_wf h
  case arrearsWin => exact execArrearsWin_wf h
  case remoteAccess => exact execRemoteAccess_wf h
  case remoteStoreAck => exact execRemoteStoreAck_wf h
  case deliveryTimeout => exact execDeliveryTimeout_wf h
  case migrationRun => exact execMigrationRun_wf h
  case reshardAccept => exact execReshardAccept_wf h
  case reshardStepComplete => exact execReshardStepComplete_wf h
  case progressWrite => exact execProgressWrite_wf h
  case reshardEnd => exact execReshardEnd_wf h
  case reshardStop => exact execReshardStop_wf h
  case powerLoss => exact execPowerLoss_wf h
  case dbgctlHostWrite => exact execDbgctlHostWrite_wf h
  case stepCancel => exact execStepCancel_wf h
  case histogramMinute => exact execHistogramMinute_wf h
  all_goals exact (Option.some_ne_none _ hm).elim

theorem unit_wf {u : Use} {body : State → Res} {s : State} (hb : ∀ t : State, Memory.wf t.m.mem → (body t).Wf)
    (h : Memory.wf s.m.mem) : OutWf (unit u body s) := by
  have hf := fun f => OutWf.next (State.fault_wf f h)
  have hw : OutWf (.next s.waiting) := .of_mem h s.waiting_mem
  have hr := hb s.issued h
  unfold unit
  split
  · exact .next h
  · split
    · exact hf _
    · split
      · exact hf _
      · split
        · exact hf _
        · split
          · exact hf _
          · split
            · exact hw
            · split
              · exact hf _
              · split
                · exact hf _
                · split
                  · exact hw
                  · generalize body s.issued = r at hr
                    cases r with
                    | ok t => exact .next hr
                    | wait => exact hw
                    | hold f => exact .of_mem (hr s h) (State.waiting_mem _)
                    | trap f => exact hf f
                    | fail g f => exact .next (State.fault_wf f (hr s h))

theorem exec_wf {i : Instr} {s : State} (h : Memory.wf s.m.mem) : OutWf (exec i s) := by
  cases hm : meaningOf i s with
  | none => exact execEvent_wf hm h
  | some m => exact exec_meaning hm ▸ unit_wf (meaningOf_wf hm) h

end Sys2Proof.Machine

/-! SUPPORT. A turn, and so a step, keeps memory in canonical form (R146, R155, R158). -/

namespace Sys2Proof.Machine

/-- The state that the fetch of a halfword leaves has memory in canonical form. -/
def Fetched.Wf : Fetched → Prop
  | .half _ t => t.MemWf
  | .hold _ _ | .wait => True

/-- The state that the fetch of a word leaves has memory in canonical form. -/
def WordAt.Wf : WordAt → Prop
  | .word _ t => t.MemWf
  | .hold _ _ | .wait => True

/-- The state that the fetch of a unit leaves has memory in canonical form. -/
def Front.Wf : Front → Prop
  | .run _ _ t | .illegal _ _ t => t.MemWf
  | .hold _ _ _ _ | .wait => True

theorem Fetched.wf_ite {c : Prop} [Decidable c] {a b : Fetched} (ha : a.Wf) (hb : b.Wf) : (if c then a else b).Wf := by
  split
  · exact ha
  · exact hb

theorem State.fetchHalf_wf {s : State} (core asid chain a i : ℕ) (h : s.MemWf) :
    (s.fetchHalf core asid chain a i).Wf := by
  unfold State.fetchHalf
  split
  case h_1 => trivial
  case h_2 lf _ =>
    extract_lets pa loc cached v now holder bad
    have hv : v.MemWf := State.fetchFrom_wf core asid a lf h
    clear_value v
    have ht : (v.fetchTouch core asid chain lf pa loc).MemWf := hv.of_mem (State.fetchTouch_mem ..)
    refine Fetched.wf_ite trivial (Fetched.wf_ite trivial ?_)
    split
    case h_1 => exact Fetched.wf_ite hv (Fetched.wf_ite hv (Fetched.wf_ite trivial hv))
    case h_2 =>
      refine Fetched.wf_ite trivial ?_
      change State.MemWf (if _ then _ else _)
      split
      · exact ht.of_mem (State.keepCopy_mem ..)
      · exact ht

theorem State.fetchWord_wf {s : State} (core asid chain a i : ℕ) (h : s.MemWf) :
    (s.fetchWord core asid chain a i).Wf := by
  unfold State.fetchWord
  have hlo := State.fetchHalf_wf core asid chain a (2 * i) h
  split <;> rename_i heq <;> rw [heq] at hlo
  · trivial
  · trivial
  · split
    · exact hlo
    · have hhi := State.fetchHalf_wf core asid chain ((a + 2) % 2 ^ 56) (2 * i + 1) hlo
      split <;> rename_i heq <;> rw [heq] at hhi
      · trivial
      · trivial
      · exact hhi

theorem Front.Wf.illegalAt {f : Front} (hf : f.Wf) (a w : Pc) : (f.illegalAt a w).Wf := by
  cases f <;> exact hf

theorem Front.wf_ite {c : Prop} [Decidable c] {a b : Front} (ha : a.Wf) (hb : b.Wf) : (if c then a else b).Wf := by
  split
  · exact ha
  · exact hb

theorem State.readUnit_wf (core asid chain : ℕ) (inBlock : Bool) (fuel : ℕ) :
    ∀ {s : State} (u : IssueUnit) (a : Pc) (i : ℕ), s.MemWf → (s.readUnit core asid chain inBlock u a i fuel).Wf := by
  induction fuel with
  | zero => exact fun u a i h => h
  | succ fuel ih =>
    intro s u a i h
    unfold State.readUnit
    have hw := State.fetchWord_wf core asid chain a.toNat i h
    cases hf : s.fetchWord core asid chain a.toNat i with
    | wait => trivial
    | hold c x => trivial
    | word d t =>
      rw [hf] at hw
      cases d with
      | reserved => exact hw
      | badModp => exact (ih _ _ _ hw).illegalAt _ _
      | pblk b => exact Front.wf_ite (ih _ _ _ hw) hw
      | modp m => exact Front.wf_ite (ih _ _ _ hw) ((ih _ _ _ hw).illegalAt _ _)
      | immx p => exact Front.wf_ite (ih _ _ _ hw) ((ih _ _ _ hw).illegalAt _ _)
      | instr x n => exact hw

theorem State.issueSplit_wf {s : State} (p : Split) (h : s.MemWf) : OutWf (s.issueSplit p) := by
  have hf : (s.front p).Wf := State.readUnit_wf _ _ _ _ 4 _ _ _ h
  cases hp : s.front p with
  | wait => exact State.issueSplit_wait hp ▸ .of_mem h (State.waitFetch_mem ..)
  | hold u c a w =>
    rw [State.issueSplit_hold hp]
    refine .next' ?_
    split
    · exact State.poisonFetch_wf p u a w h
    · exact h.of_mem (State.holdFetch_mem ..)
  | illegal a w v =>
    rw [hp] at hf
    rw [State.issueSplit_illegal hp]
    have ht : (v.take p { unitPc := a, wordPc := w, nextPc := a }).MemWf := hf.of_mem (State.take_mem ..)
    exact .next' (State.MemWf.of_mem (State.fault_wf _ ht) (State.finishStep_mem ..))
  | run i u v =>
    rw [hp] at hf
    rw [State.issueSplit_run hp]
    have hx : OutWf (exec i (v.take p u)) := exec_wf (hf.of_mem (State.take_mem ..))
    cases ho : exec i (v.take p u) with
    | next t => exact .next' ((hx t ho).of_mem (State.settleUnit_mem ..))
    | fault r => exact fun t ht => nomatch ht
    | refused r => exact fun t ht => nomatch ht

theorem State.fires_wf {s t : State} {x : Instr × EventArg} (h : s.MemWf) (ht : s.fires x = some t) : t.MemWf := by
  have hx : OutWf (exec x.1 { s with u.ev := x.2 }) := exec_wf h
  unfold State.fires at ht
  cases ho : exec x.1 { s with u.ev := x.2 } with
  | next w =>
    simp only [ho, Option.ite_none_left_eq_some, Option.some.injEq] at ht
    exact ht.2 ▸ hx w ho
  | fault r => simp only [ho, reduceCtorEq] at ht
  | refused r => simp only [ho, reduceCtorEq] at ht

theorem State.auto_wf {s t : State} (h : s.MemWf) (ht : s.auto = some t) : t.MemWf := by
  obtain ⟨x, -, hx⟩ := List.exists_of_findSome?_eq_some ht
  exact State.fires_wf h hx

theorem State.issueFirst_wf (ps : List Split) : ∀ {s : State}, s.MemWf → OutWf (s.issueFirst ps) := by
  induction ps with
  | nil => exact fun h => .next' h
  | cons p ps ih =>
    intro s h
    have hp := State.issueSplit_wf p h
    unfold State.issueFirst
    cases ho : s.issueSplit p with
    | next t =>
      have ht := hp t ho
      dsimp only
      split
      · exact ih ht
      · exact .next' ht
    | fault r => exact fun t ht => nomatch ht
    | refused r => exact fun t ht => nomatch ht

theorem State.freeTurn_wf {s : State} (h : s.MemWf) : OutWf s.freeTurn := by
  unfold State.freeTurn
  split
  case h_1 t ht => exact .next' (State.auto_wf h ht)
  case h_2 => exact State.issueFirst_wf _ h

theorem State.issueTurn_wf {s : State} (sid : ℕ) (h : s.MemWf) : OutWf (s.issueTurn sid) := by
  cases hp : s.split? sid with
  | none => simpa only [State.issueTurn, hp] using OutWf.next' h
  | some p =>
    rw [State.issueTurn_eq hp]
    split
    · exact State.issueSplit_wf p h
    · exact .next' h

theorem State.eventTurn_wf {s : State} (i : Instr) (a : EventArg) (h : s.MemWf) : OutWf (s.eventTurn i a) := by
  unfold State.eventTurn
  split
  · exact .next' h
  · exact exec_wf h

theorem State.MemWf.withAgenda {s : State} (h : s.MemWf) (l : List Turn) :
    State.MemWf { s with u.agenda := l } := h

theorem step_wf {s : State} (h : s.MemWf) : OutWf (step s) := by
  have ht : s.tick.MemWf := State.tick_wf h
  unfold step
  generalize s.tick = v at ht
  dsimp only
  split
  case h_1 sid rest _ => exact State.issueTurn_wf sid (ht.withAgenda rest)
  case h_2 i a rest _ => exact State.eventTurn_wf i a (ht.withAgenda rest)
  case h_3 => exact State.freeTurn_wf ht

/-- Settles O6: the clock, every unit and every event keep memory in canonical form. -/
theorem stepKeepsMemWf : Obligations.StepKeepsMemWf := by
  unfold Obligations.StepKeepsMemWf
  exact fun s t h ht => step_wf h t ht

end Sys2Proof.Machine

/-! SUPPORT. DST at issue (R300 to R302): the operator code and the size of its operation. -/

namespace Sys2Proof.Machine

/-- ALT takes FADD, MIN and MAX to their second operators (R301). -/
theorem dstOp_eq (minor : Nat) (alt : Bool) :
    dstOp minor alt = if alt = true ∧ minor ∈ [2, 3, 4] then minor + 6 else minor := by
  cases alt with
  | false => simp [dstOp]
  | true =>
    simp only [dstOp, if_true, true_and, List.mem_cons, List.not_mem_nil, or_false]
    split_ifs <;> omega

theorem State.deferOp_size (s : State) (minor : Nat) (o : OpS) :
    (s.deferOp minor o).size = if s.dstWidth = 1 then 8 else 4 := by
  unfold State.deferOp State.dstRegs
  split <;> rfl

/-- Settles O28: each body is State.memBody on the record's operation. -/
theorem deferredStores : Obligations.DeferredStores := by
  unfold Obligations.DeferredStores
  intro s o
  exact ⟨runsTo_mem rfl rfl, runsTo_mem rfl rfl, runsTo_mem rfl rfl, runsTo_mem rfl rfl, runsTo_mem rfl rfl,
    runsTo_mem rfl rfl, runsTo_mem rfl rfl, runsTo_mem rfl rfl, fun minor =>
      ⟨congrArg (fun n => AccKind.dst n s.dstWidth) (dstOp_eq minor s.dstAlt), s.deferOp_size minor o, rfl, rfl⟩⟩

end Sys2Proof.Machine

/-! SUPPORT. CACHE at issue (R160, R265): a counter lowered once per lane that does nothing, and the lanes that a plan
counts. -/

namespace Sys2Proof.Machine

/-- Lowering a counter once for each element of a list, in the slice that it names (R160). -/
theorem State.foldl_lowerC {α : Type} (s : State) (n : Nat) (k : α → Nat) (ps : List α) (t : State) :
    let u := ps.foldl (fun t p => t.lowerC (s.slice (k p)) n) t
    (∀ c, u.getC (s.slice c) n = t.getC (s.slice c) n - (ps.filter fun p => decide (k p = c)).length) ∧
      { u with r.cn := t.r.cn } = t := by
  induction ps generalizing t with
  | nil => exact ⟨fun _ => rfl, rfl⟩
  | cons p ps ih =>
    obtain ⟨hcount, hrest⟩ := ih (t.lowerC (s.slice (k p)) n)
    refine ⟨fun c => ?_, congrArg (fun q : State => { q with r.cn := t.r.cn }) hrest⟩
    rw [List.foldl_cons, hcount, State.lowerC, State.getC_setC, List.filter_cons]
    by_cases hc : k p = c
    · subst hc
      simp only [if_true, decide_true, List.length_cons]
      omega
    · have hne : ¬(s.slice (k p), n) = (s.slice c, n) := fun h => hc (by simpa [State.slice] using h)
      rw [if_neg hne, if_neg (by simpa using hc)]

theorem State.planGlobal_l (s : State) (k : AccKind) (l : LaneId) (p : LanePlan) (va : Nat) (spill : Bool) (n : Nat) :
    (s.planGlobal k l p va spill n).l = p.l := by
  unfold State.planGlobal
  dsimp only
  (repeat' split) <;> rfl

theorem State.planLane_l (s : State) (k : AccKind) (l : LaneId) (a n : Nat) : (s.planLane k l a n).l = l.l := by
  unfold State.planLane
  dsimp only
  split
  case h_4 => exact State.planGlobal_l ..
  all_goals rfl

/-- The plans of a unit are one for each lane that executes it, in their order (R158). -/
theorem State.plans_l (s : State) (o : MemOp) : (s.plans o).map LanePlan.l = s.elanes := by
  have hl : ∀ l, (LanePlan.l (let p := s.planLane o.kind (s.lane l) (s.addr o.va o.off o.size l) l
      if (o.noWindow && p.window) || (o.noPriv && p.priv) then { p with bad := true } else p)) = l := fun l => by
    dsimp only
    split <;> exact State.planLane_l ..
  simp only [State.plans, List.map_map]
  exact (List.map_congr_left fun l _ => hl l).trans (List.map_id _)

/-- The lanes of a slice that execute a unit are those of its plans that are busy and those that are idle. -/
theorem State.elanes_count (s : State) (o : MemOp) (c : Nat) (idle : LanePlan → Bool) :
    (s.elanes.filter fun l => decide (l / 4 = c)).length =
      (((s.plans o).map LanePlan.lineOf).filter fun p => !idle p && decide (p.l / 4 = c)).length +
        ((((s.plans o).map LanePlan.lineOf).filter idle).filter fun p => decide (p.l / 4 = c)).length := by
  rw [← s.plans_l o]
  generalize s.plans o = ps
  induction ps with
  | nil => rfl
  | cons p ps ih =>
    simp only [List.map_cons, List.filter_cons]
    have hl : p.lineOf.l = p.l := rfl
    cases hi : idle p.lineOf <;> by_cases hc : p.l / 4 = c <;> simp [hl, hc, ih] <;> omega

/-- CACHE issues the line operations of the busy lanes, and lowers the counter for the others (R160, R265). -/
theorem cacheBody_eq (s : State) (op : Nat) (o : OpMC) :
    let lines := (s.plans (cacheOp op o)).map LanePlan.lineOf
    s.issued.cacheBody (cacheOp op o) = .ok ((lines.filter s.cacheIdle).foldl
      (fun t p => t.lowerC (s.slice (p.l / 4)) o.cnt.toNat)
      (s.issued.issueAccesses (cacheOp op o) (lines.filter fun p => !s.cacheIdle p))) := by
  unfold State.cacheBody
  rw [State.issued_plans]
  rfl

theorem meaningOf_cache {s : State} {o : OpMC} {n : Nat} {i : Instr}
    (hi : (n, i) ∈ [(0, Instr.cacheIinv o), (1, .cacheL1inv o), (2, .cacheL2clean o), (3, .cacheL2flush o)]) :
    meaningOf i s = some (cacheUnit n o s) := by
  simp only [List.mem_cons, Prod.mk.injEq, List.not_mem_nil, or_false] at hi
  rcases hi with ⟨rfl, rfl⟩ | ⟨rfl, rfl⟩ | ⟨rfl, rfl⟩ | ⟨rfl, rfl⟩ <;> rfl

/-- Settles O29: each operation's unit is cacheUnit, whose body issues the busy lines and lowers the counter for the
others. -/
theorem cacheOperations : Obligations.CacheOperations := by
  unfold Obligations.CacheOperations
  intro s o n i hi
  refine runsTo_of (meaningOf_cache hi) fun _ => ⟨_, cacheBody_eq s n o, ?_⟩
  set busy := ((s.plans (cacheOp n o)).map LanePlan.lineOf).filter fun p => !s.cacheIdle p
  set idle := ((s.plans (cacheOp n o)).map LanePlan.lineOf).filter s.cacheIdle
  obtain ⟨⟨rv, re, rc, ka, kw, uid, seq, fq, f, hrest⟩, hacc, -, -, hregs, hcnt⟩ :=
    State.issueAccesses_spec s.issued (cacheOp n o) busy
  obtain ⟨hlow, hkept⟩ := State.foldl_lowerC s o.cnt.toNat (fun p : LanePlan => p.l / 4) idle
    (s.issued.issueAccesses (cacheOp n o) busy)
  generalize s.issued.issueAccesses (cacheOp n o) busy = u at *
  generalize idle.foldl (fun t p => t.lowerC (s.slice (p.l / 4)) o.cnt.toNat) u = t at *
  simp only [State.issued_accessOf] at hacc
  have hcount : s.cur.slices.Nodup → ∀ c ∈ s.cur.slices, t.getC (s.slice c) o.cnt.toNat = s.getC (s.slice c) o.cnt.toNat +
      (((s.plans (cacheOp n o)).map LanePlan.lineOf).filter fun p => !s.cacheIdle p && decide (p.l / 4 = c)).length := by
    intro hnd c hc
    have hu := hcnt _ rfl ((State.issued_cur s).1 ▸ hnd) c ((State.issued_cur s).1 ▸ hc)
    rw [State.issued_elanes, s.elanes_count (cacheOp n o) c s.cacheIdle] at hu
    rw [hlow c]
    exact (congrArg (· - _) hu).trans (by rw [← Nat.add_assoc]; exact Nat.add_sub_cancel ..)
  have hall := hkept.trans hrest
  refine ⟨(congrArg (fun q : State => q.k.acc) hkept).trans hacc, fun hnd _ => hcount hnd, fun x k => ?regs,
    (congrArg (fun q : State => q.r.sr) hall :), (congrArg (fun q : State => q.r.mr) hall :),
    (congrArg (fun q : State => q.m) hall :), (congrArg (fun q : State => q.x) hall :)⟩
  case regs =>
    obtain ⟨hv, he⟩ := hregs x k fun _ _ _ => .inr k.zero_le
    exact ⟨(congrArg (fun q : State => q.getV x k) hkept).trans hv,
      (congrArg (fun q : State => q.isEmpty x k) hkept).trans he⟩

end Sys2Proof.Machine

/-! SUPPORT. WAITC, MONITOR, MWAIT and FENCE (R171 to R173, R327, R328): the lanes that a MONITOR reads for and the
watches it arms, and the accesses of a unit that fills no register and counts nothing. -/

namespace Sys2Proof.Machine

/-! ### MONITOR -/

/-- The lowest lane of a slice among lanes in ascending order stands for it. -/
theorem mem_lowestPerSlice {ps : List LanePlan} {p : LanePlan} (hs : ps.Pairwise fun a b => a.l < b.l) (hp : p ∈ ps)
    (hlow : ∀ q ∈ ps, q.l / 4 = p.l / 4 → p.l ≤ q.l) : p ∈ lowestPerSlice ps := by
  induction ps with
  | nil => exact absurd hp List.not_mem_nil
  | cons q ps ih =>
    obtain ⟨hq, hs⟩ := List.pairwise_cons.1 hs
    rcases List.mem_cons.1 hp with rfl | hp
    · exact List.mem_cons_self
    · refine List.mem_cons_of_mem _ (List.mem_filter.2 ⟨ih hs hp fun x hx => hlow x (List.mem_cons_of_mem _ hx), ?_⟩)
      have hlt := hq p hp
      have hne : p.l / 4 ≠ q.l / 4 := fun h => by have := hlow q List.mem_cons_self h.symm; omega
      simpa using hne

/-- No slice has two of them. -/
theorem lowestPerSlice_pairwise (ps : List LanePlan) : (lowestPerSlice ps).Pairwise fun a b => a.l / 4 ≠ b.l / 4 := by
  induction ps with
  | nil => exact .nil
  | cons p ps ih =>
    refine List.pairwise_cons.2 ⟨fun q hq => ?_, ih.filter _⟩
    obtain ⟨-, hne⟩ := List.mem_filter.1 hq
    exact (of_decide_eq_true hne).symm

/-- The loop that arms watches, slice by slice (R172). -/
theorem State.foldl_arm (s : State) (n : Nat) (ps : List LanePlan) (t : State) :
    let u := ps.foldl (fun u p => u.arm (s.lane p.l).slice p.loc n) t
    ((ps.Pairwise fun a b => a.l / 4 ≠ b.l / 4) → ∀ p ∈ ps,
      (u.slc (s.slice (p.l / 4))).watch = some { line := p.loc / 128, triggered := false, by_ := n }) ∧
    (∀ c, (∀ p ∈ ps, p.l / 4 ≠ c) → u.slc (s.slice c) = t.slc (s.slice c)) ∧
    { u with r.sl := t.r.sl } = t := by
  induction ps generalizing t with
  | nil => exact ⟨fun _ _ h => absurd h List.not_mem_nil, fun _ _ => rfl, rfl⟩
  | cons p ps ih =>
    obtain ⟨harmed, hothers, hrest⟩ := ih (t.arm (s.lane p.l).slice p.loc n)
    have hsame : ((t.arm (s.lane p.l).slice p.loc n).slc (s.slice (p.l / 4))).watch =
        some { line := p.loc / 128, triggered := false, by_ := n } := by
      rw [State.arm, State.slc_modSlc]
      exact congrArg Slice.watch (if_pos rfl)
    have hother : ∀ c, p.l / 4 ≠ c → (t.arm (s.lane p.l).slice p.loc n).slc (s.slice c) = t.slc (s.slice c) := fun c hc => by
      rw [State.arm, State.slc_modSlc, if_neg fun h => hc (by simpa [State.slice, LaneId.slice, State.lane] using h)]
    refine ⟨fun hs q hq => ?_, fun c hc => ?_, congrArg (fun v : State => { v with r.sl := t.r.sl }) hrest⟩
    · obtain ⟨hp, hs⟩ := List.pairwise_cons.1 hs
      rcases List.mem_cons.1 hq with rfl | hq
      · exact (congrArg Slice.watch (hothers _ fun x hx => (hp x hx).symm)).trans hsame
      · exact harmed hs q hq
    · exact (hothers c fun x hx => hc x (List.mem_cons_of_mem _ hx)).trans (hother c (hc p List.mem_cons_self))

/-- Accesses that fill no register and lower no counter touch no register (R158). -/
theorem State.issueAccesses_bare (s : State) (o : MemOp) (ps : List LanePlan) (hc : o.cnt = none) (hd : o.dstN = 0) :
    ∃ kw fq f, s.issueAccesses o ps = { s with
      k.acc := s.k.acc ++ ps.mapIdx (fun i p => s.accessOf o p i), k.walks := kw, u.uid := s.u.uid + ps.length
      u.seqNo := s.u.seqNo + 1, d.fq := fq, f := f } := by
  unfold State.issueAccesses
  simp only [hc, hd, if_true]
  obtain ⟨kw, hw⟩ := State.missWalks_rest { s with
    k.acc := s.k.acc ++ ps.mapIdx (fun i p => s.accessOf o p i), u.uid := s.u.uid + ps.length, u.seqNo := s.u.seqNo + 1 }
    (s.coreOf s.gid) (s.launch s.u.iss.team).asid (ps.filterMap LanePlan.va?)
  rw [hw]
  obtain ⟨f, hf⟩ := State.countChunks_rest { s with
    k.acc := s.k.acc ++ ps.mapIdx (fun i p => s.accessOf o p i), u.uid := s.u.uid + ps.length, u.seqNo := s.u.seqNo + 1
    k.walks := kw } (s.coreOf s.gid) (s.launch s.u.iss.team).asid (ps.filterMap LanePlan.place)
  rw [hf]
  obtain ⟨fq, hq⟩ := State.postHeld_rest { s with
    k.acc := s.k.acc ++ ps.mapIdx (fun i p => s.accessOf o p i), u.uid := s.u.uid + ps.length, u.seqNo := s.u.seqNo + 1
    k.walks := kw, f := f } s.u.iss.sid s.u.seqNo
  exact ⟨kw, fq, f, hq⟩

/-- The accesses that a MONITOR issues: one for each slice, where there is a page or a fault to replay. -/
def State.monitorReads (s : State) (o : OpMon) : List LanePlan :=
  (lowestPerSlice (s.plans (monitorOp o))).filter fun p => p.leaf.isSome || decide (p.code ≠ 0)

/-- The state once a MONITOR's watches are armed. -/
def State.monitorArmed (s : State) (o : OpMon) : State :=
  ((lowestPerSlice (s.plans (monitorOp o))).filter fun p => decide (p.code = 0)).foldl
    (fun u p => u.arm (s.lane p.l).slice p.loc s.u.uid) s.issued

theorem meanMonitor_body {s : State} {o : OpMon} (h : State.memFault (monitorOp o) (s.plans (monitorOp o)) = none) :
    (meanMonitor o s).body s.issued = .ok
      { (s.monitorArmed o).issueAccesses { monitorOp o with cnt := none } (s.monitorReads o) with
        u.uid := (s.monitorArmed o).u.uid + (lowestPerSlice (s.plans (monitorOp o))).length + 1 } := by
  simp only [meanMonitor, State.issued_plans, h]
  rfl

theorem meanMonitor_fault {s : State} {o : OpMon} {f : FaultInfo}
    (h : State.memFault (monitorOp o) (s.plans (monitorOp o)) = some f) :
    (meanMonitor o s).body s.issued = .trap f := by
  simp only [meanMonitor, State.issued_plans, h]

/-! ### MWAIT and FENCE -/

theorem State.issued_watches (s : State) : s.issued.watches s.issued.cur = s.watches s.cur := by
  obtain ⟨hs, ht, hg⟩ := s.issued_cur
  simp only [State.watches, hs, ht, hg, State.issued_slc]

theorem State.issued_mwLimit (s : State) : s.issued.mwLimit s.issued.cur = s.mwLimit s.cur := by
  obtain ⟨hs, ht, hg⟩ := s.issued_cur
  simp only [State.mwLimit, hs, ht, hg, State.issued_slc]

theorem State.disarm_issued_cur (s : State) : s.issued.disarm s.issued.cur = s.issued.disarm s.cur := by
  obtain ⟨hs, ht, hg⟩ := s.issued_cur
  simp only [State.disarm, hs, ht, hg]

/-- MWAIT's choice, in terms of the state before its issue (R173). -/
theorem meanMwait_body (s : State) :
    (meanMwait s).body s.issued =
      .ok (if (s.watches s.cur).isEmpty || (s.watches s.cur).any (·.triggered) || decide (s.mwLimit s.cur = 0) then
          s.issued.disarm s.cur
        else s.issued.modSplit s.issued.cur.sid fun x => { x with park := .mwait (s.u.clk + s.mwLimit s.cur) }) := by
  simp only [meanMwait, State.issued_watches, State.issued_mwLimit, State.disarm_issued_cur]
  rfl

/-- The access is one that a release or SC FENCE at a narrow scope covers (R327, R328; log entry 60). -/
def FenceIn.covers (f : FenceIn) (p : Split) (a : Access) : Bool :=
  decide (f.scope.narrow = true ∧ f.order ≠ .acquire ∧ a.lane.t = p.team ∧ a.lane.g = p.group ∧
    a.lane.l ∈ f.lanes ∧ a.seq < f.seq)

theorem State.noteNear_eq (s : State) (p : Split) (f : FenceIn) :
    s.noteNear p f = { s with
      k.acc := s.k.acc.map fun a => if f.covers p a then { a with near := f.scope.widen a.near } else a } := by
  unfold State.noteNear
  split
  case isTrue h =>
    have hnone : ∀ a, f.covers p a = false := fun a => decide_eq_false fun hc => by
      obtain ⟨hn, ho, -⟩ := hc
      simp [hn, ho] at h
    simp [hnone]
  case isFalse h =>
    obtain ⟨hn, ho⟩ := not_or.1 h
    have hnarrow : f.scope.narrow = true := by simpa using hn
    have hall : ∀ a : Access, f.covers p a = decide (a.lane.t = p.team ∧ a.lane.g = p.group ∧ a.lane.l ∈ f.lanes ∧
        a.seq < f.seq) := fun a => decide_eq_decide.2 ⟨fun hc => hc.2.2, fun hc => ⟨hnarrow, ho, hc⟩⟩
    simp only [hall, decide_eq_true_eq]

theorem meanFence_body {s : State} {x : Order × Scope} (hx : s.fenceMode = some x) (he : s.elanes ≠ []) :
    let f : FenceIn := { lanes := s.elanes, order := x.1, scope := x.2, seq := s.u.seqNo }
    (meanFence s).body s.issued = .ok ((s.issued.noteNear s.issued.cur f).modSplit s.issued.cur.sid fun p =>
      { p with fences := p.fences ++ [f] }) := by
  simp [meanFence, hx, State.issued_elanes, he]

/-- Settles O30: each body is what its lemma says, MONITOR's watches are those of the lowest lanes of its slices. -/
theorem waitsAndFences : Obligations.WaitsAndFences := by
  unfold Obligations.WaitsAndFences
  intro s o m
  refine ⟨runsTo_of rfl fun _ => ⟨_, rfl, rfl⟩, fun f hf h => exec_trap rfl h (meanMonitor_fault hf),
    fun hf => runsTo_of rfl fun _ => ⟨_, meanMonitor_body hf, ?monitor⟩,
    fun hw => runsTo_of rfl fun _ => ⟨_, meanMwait_body s, ?now⟩,
    fun hw ht hl => runsTo_of rfl fun hi => ⟨_, meanMwait_body s, ?sleep⟩,
    fun he => runsTo_of rfl fun hi => ?idle, fun x hx he => runsTo_of rfl fun hi => ?fence⟩
  case monitor =>
    obtain ⟨harmed, -, hrest⟩ := State.foldl_arm s s.u.uid
      ((lowestPerSlice (s.plans (monitorOp m))).filter fun p => decide (p.code = 0)) s.issued
    change { s.monitorArmed m with r.sl := s.issued.r.sl } = s.issued at hrest
    obtain ⟨kw, fq, f, hiss⟩ := State.issueAccesses_bare (s.monitorArmed m) { monitorOp m with cnt := none }
      (s.monitorReads m) rfl rfl
    have hacc : ∀ p j, (s.monitorArmed m).accessOf { monitorOp m with cnt := none } p j =
        s.accessOf { monitorOp m with cnt := none } p j := fun p j =>
      (congrArg (fun q : State => q.accessOf { monitorOp m with cnt := none } p j) hrest :).trans (s.issued_accessOf _ p j)
    simp only [hacc] at hiss
    rw [hiss]
    refine ⟨fun l _ hlow hsort p hp hpl hcode => ?watch, ?acc, (congrArg (fun q : State => q.m) hrest :),
      (congrArg (fun q : State => q.r.v) hrest :), (congrArg (fun q : State => q.r.ve) hrest :),
      (congrArg (fun q : State => q.r.sr) hrest :), (congrArg (fun q : State => q.r.mr) hrest :),
      (congrArg (fun q : State => q.x) hrest :)⟩
    case acc =>
      exact congrArg (· ++ _) (congrArg (fun q : State => q.k.acc) hrest :)
    case watch =>
      subst hpl
      rw [← s.plans_l (monitorOp m), List.pairwise_map] at hsort
      have hfirst := mem_lowestPerSlice hsort hp fun q hq => hlow q.l (s.plans_l (monitorOp m) ▸ List.mem_map_of_mem hq)
      exact harmed ((lowestPerSlice_pairwise _).filter _) p (List.mem_filter.2 ⟨hfirst, decide_eq_true hcode⟩)
  case now =>
    refine if_pos ?_
    rcases hw with hw | ⟨w, hw, ht⟩ | hw
    · simp [hw]
    · simp [List.any_eq_true.2 ⟨w, hw, ht⟩]
    · simp [hw]
  case sleep =>
    obtain ⟨hsid, -⟩ := State.issued_cur_sid hi
    rw [if_neg, hsid]
    simpa [hw, hl] using ht
  case idle =>
    refine ⟨_, ?_, rfl⟩
    cases hx : s.fenceMode with
    | none => simp only [meanFence, hx]
    | some x => simp [meanFence, hx, State.issued_elanes, he]
  case fence =>
    obtain ⟨hsid, -⟩ := State.issued_cur_sid hi
    obtain ⟨-, hteam, hgroup⟩ := s.issued_cur
    refine ⟨_, meanFence_body hx he, ?_⟩
    simp only [State.noteNear_eq, FenceIn.covers, hsid, hteam, hgroup]
    exact ⟨rfl, rfl⟩

end Sys2Proof.Machine

/-! SUPPORT. What stands apart from the caches: what no touch of a cache, of memory's keys or of memory itself changes (R159,
R259 to R265). -/

namespace Sys2Proof.Machine

/-- The part of a state that stands apart from caches and memory: registers, execution, translations, the place in the fabric,
and the accesses in flight but for the fills that invalidations made void (R261). -/
structure Apart where
  r : Regs
  x : Run
  u : Model
  f : Fab
  tlb : List TlbEntry
  retired : List Nat
  acc : List Access

/-- An access without the mark of a void fill. -/
def Access.unvoided (a : Access) : Access := { a with void := false }

/-- What stands apart from the caches; of the slices' records only the watches can change there (R172). -/
def State.apart (s : State) : Apart where
  r := { s.r with sl := [] }
  x := s.x
  u := s.u
  f := s.f
  tlb := s.k.tlb
  retired := s.m.retiredPc
  acc := s.k.acc.map Access.unvoided

/-- Every step of a fold leaves what stands apart from the caches. -/
def ApartFixed {α : Type} (f : State → α → State) : Prop := ∀ t x, (f t x).apart = t.apart

@[simp] theorem apartFixed_iff {α : Type} (f : State → α → State) : ApartFixed f ↔ ∀ t x, (f t x).apart = t.apart := .rfl

@[simp] theorem State.foldl_apart {α : Type} (l : List α) (f : State → α → State) (s : State) (hf : ApartFixed f) :
    (l.foldl f s).apart = s.apart := by
  induction l generalizing s with
  | nil => rfl
  | cons x xs ih => rw [List.foldl_cons, ih, hf]

@[simp] theorem State.apart_ite (c : Prop) [Decidable c] (a b : State) :
    (if c then a else b).apart = if c then a.apart else b.apart := by split <;> rfl

/-! ### First-level copies -/

@[simp] theorem State.dropSnaps_apart (s : State) (p : Snap → Bool) : (s.dropSnaps p).apart = s.apart := rfl

@[simp] theorem State.writeBack_apart (s : State) (line : ℕ) : (s.writeBack line).apart = s.apart := rfl

@[simp] theorem State.addSnap_apart (s : State) (h : Holder) (line : ℕ) : (s.addSnap h line).apart = s.apart := by
  unfold State.addSnap
  split <;> rfl

@[simp] theorem State.dropData_apart (s : State) (f : L1Line → Bool) : (s.dropData f).apart = s.apart :=
  State.foldl_apart _ _ s fun _ _ => rfl

@[simp] theorem State.dropL1_apart (s : State) (f : L1Line → Bool) : (s.dropL1 f).apart = s.apart :=
  s.dropData_apart f

@[simp] theorem State.voidFills_apart (s : State) (core slice base lg : ℕ) :
    (s.voidFills core slice base lg).apart = s.apart := by
  have hacc : (s.voidFills core slice base lg).k.acc.map Access.unvoided = s.k.acc.map Access.unvoided := by
    simp only [State.voidFills, List.map_map]
    refine List.map_congr_left fun a _ => ?_
    simp only [Function.comp]
    split <;> rfl
  exact congrArg (fun l => { s.apart with acc := l }) hacc

@[simp] theorem State.dropRegion_apart (s : State) (slice base lg core : ℕ) :
    (s.dropRegion slice base lg core).apart = s.apart := by
  simp [State.dropRegion]

@[simp] theorem State.dropSharers_apart (s : State) (die pa : ℕ) : (s.dropSharers die pa).apart = s.apart := by
  unfold State.dropSharers
  split <;> simp

@[simp] theorem State.dropGuests_apart (s : State) (pa : ℕ) (f : ℕ → Bool) : (s.dropGuests pa f).apart = s.apart := rfl

@[simp] theorem State.purgeLine_apart (s : State) (pa : ℕ) : (s.purgeLine pa).apart = s.apart := by
  simp [State.purgeLine]

@[simp] theorem State.dropAway_apart (s : State) : s.dropAway.apart = s.apart := s.dropL1_apart _

@[simp] theorem State.addL1_apart (s : State) (core loc pa : ℕ) : (s.addL1 core loc pa).apart = s.apart := by
  have hdrop : ∀ mine : List L1Line, State.apart (if mine.length < l1Lines then s else match mine with
      | x :: _ => s.dropData fun y => decide (y = x)
      | [] => s) = s.apart := fun mine => by
    split
    · rfl
    · cases mine with
      | nil => rfl
      | cons x _ => exact s.dropData_apart _
  unfold State.addL1
  split
  · rfl
  · exact hdrop _

@[simp] theorem State.freshSnap_apart (s : State) (h : Holder) (line : ℕ) : (s.freshSnap h line).apart = s.apart := by
  simp [State.freshSnap]

/-! ### The second level and its directory -/

@[simp] theorem State.dropEntry_apart (s : State) (r : Region) : (s.dropEntry r).apart = s.apart :=
  State.foldl_apart _ _ s fun t c => t.dropRegion_apart _ _ _ c

@[simp] theorem State.entryRoom_apart (s : State) (die slice : ℕ) (keep : Region → Bool) :
    (s.entryRoom die slice keep).apart = s.apart := by
  unfold State.entryRoom
  dsimp only
  split
  · rfl
  · split
    · exact s.dropEntry_apart _
    · rfl

@[simp] theorem State.share_apart (s : State) (core pa : ℕ) : (s.share core pa).apart = s.apart := by
  unfold State.share
  dsimp only
  split
  · rfl
  · exact s.entryRoom_apart _ _ _

@[simp] theorem State.evictL2_apart (s : State) (x : L2Line) : (s.evictL2 x).apart = s.apart := by
  change State.apart (if x.guest then s else _) = s.apart
  split
  · rfl
  · simp

@[simp] theorem State.evictOne_apart (s : State) (die pa : ℕ) (f : L2Line → Bool) :
    (s.evictOne die pa f).apart = s.apart := by
  unfold State.evictOne
  split
  · exact s.evictL2_apart _
  · rfl

@[simp] theorem State.resCount_apart (s : State) (die pa : ℕ) : (s.resCount die pa).1.apart = s.apart := by
  unfold State.resCount
  split <;> rfl

@[simp] theorem State.l2Hit_apart (s : State) (die pa : ℕ) (tracked : Bool) (cls : Option ℕ) (y : L2Line) :
    (s.l2Hit die pa tracked cls y).apart = s.apart := by
  unfold State.l2Hit
  extract_lets t
  have ht : t.apart = s.apart := by
    simp only [t]
    split
    · split
      · exact s.evictOne_apart _ _ _
      · rfl
    · rfl
  exact ht

@[simp] theorem State.l2Miss_apart (s : State) (die pa loc : ℕ) (tracked nt guest : Bool) (cls : Option ℕ) :
    (s.l2Miss die pa loc tracked nt guest cls).apart = s.apart := by
  unfold State.l2Miss
  extract_lets room t
  have ht : t.apart = s.apart := by
    simp only [t]
    split
    · exact s.evictL2_apart _
    · rfl
  split
  · exact ht
  · exact ht

@[simp] theorem State.l2Place_apart (s : State) (die pa loc : ℕ) (tracked nt guest : Bool) :
    (s.l2Place die pa loc tracked nt guest).apart = s.apart := by
  unfold State.l2Place
  dsimp only
  split <;> simp

@[simp] theorem State.guest_apart (s : State) (home die pa loc : ℕ) (nt : Bool) :
    (s.guest home die pa loc nt).apart = s.apart := by
  unfold State.guest
  split
  · rfl
  · exact s.l2Place_apart _ _ _ _ _ _

@[simp] theorem State.postFq_apart (s : State) (r : FqRec) : (s.postFq r).apart = s.apart := rfl

@[simp] theorem State.aliasCheck_apart (s : State) (die pa : ℕ) (tracked : Bool) (core asid : ℕ) :
    (s.aliasCheck die pa tracked core asid).apart = s.apart := by
  unfold State.aliasCheck
  split
  · split <;> simp
  · rfl

@[simp] theorem State.noteAlias_apart (s : State) (pa loc : ℕ) : (s.noteAlias pa loc).apart = s.apart := by
  simp [State.noteAlias]

@[simp] theorem State.l2Touch_apart (s : State) (die pa loc : ℕ) (tracked nt : Bool) (core asid : ℕ) :
    (s.l2Touch die pa loc tracked nt core asid).apart = s.apart := by
  simp [State.l2Touch]

/-! ### Memory -/

@[simp] theorem State.mscTouch_apart (s : State) (loc pa key : ℕ) (chain : Option (ℕ × ℕ)) (dirty : Bool) :
    (s.mscTouch loc pa key chain dirty).apart = s.apart := by
  unfold State.mscTouch
  dsimp only
  split <;> rfl

@[simp] theorem State.physTouch_apart (s : State) (pa : ℕ) (write : Bool) : (s.physTouch pa write).apart = s.apart := by
  unfold State.physTouch
  split <;> simp

@[simp] theorem State.walkTouch_apart (s : State) (pa : ℕ) : (s.walkTouch pa).apart = s.apart := by
  simp [State.walkTouch]

@[simp] theorem State.walkAll_apart (s : State) (die asid va : ℕ) : (s.walkAll die asid va).apart = s.apart := by
  simp [State.walkAll]

@[simp] theorem State.writeBytes_apart (s : State) (a v n : ℕ) : (s.writeBytes a v n).apart = s.apart := by
  induction n generalizing s a v with
  | zero => rfl
  | succ n ih => exact ih (s.writeByte a _) _ _

@[simp] theorem State.store_apart (s : State) (a v n : ℕ) : (s.store a v n).apart = s.apart := s.writeBytes_apart a v n

@[simp] theorem State.storeAt_apart (s : State) (a v n : ℕ) (upd : Holder → Bool) :
    (s.storeAt a v n upd).apart = s.apart := s.store_apart a v n

theorem State.apart_withLineKey (s : State) (l : Tab ℕ ℕ) : State.apart { s with k.lineKey := l } = s.apart := rfl

@[simp] theorem State.rekey_apart (s : State) (loc pa key : ℕ) : (s.rekey loc pa key).apart = s.apart := by
  unfold State.rekey
  extract_lets line old new
  split
  · rfl
  · exact (State.apart_withLineKey _ _).trans (s.writeBytes_apart _ _ _)

end Sys2Proof.Machine

/-! SUPPORT. The fault queue, RESUME and page walks (R176, R216, R359, R360, R362, R363): what a RESUME command comes to
once it names a record. -/

namespace Sys2Proof.Machine

/-- The state in which a RESUME at the head of a queue begins: the command is read and its queue has had its turn. -/
def State.resumeHead (s : State) (q : ℕ) : State := (s.readHead q).useTurn q (s.headLevel q)

/-- The state in which a RESUME looks at the record in a slot (R363). -/
def State.resumeSlot (s : State) (q slot : ℕ) : State :=
  (s.resumeHead q).physTouch ((s.resumeHead q).fqPa (q / 8192) slot) false

/-- A record stands in a slot at the TIME that a command names (R363). -/
def State.resumeNames (s : State) (q : ℕ) (ws : List ℕ) (r : FqRec) : Prop :=
  s.d.fq.reverse.find? (fun r => decide (r.die = q / 8192 ∧ r.slot.map (· % s.fqSlots (q / 8192)) = some (ws.getD 2 0)) &&
    decide ((r.words.getD 14 0).toNat = ws.getD 3 0)) = some r

section
variable {s : State} {q : ℕ} {ws : List ℕ} {r : FqRec} (hp : s.picked q = true) (hh : s.headOf q = .cmd 5 ws)
  (hslot : ws.getD 2 0 < (s.resumeHead q).fqSlots (q / 8192))
  (hload : (s.resumeHead q).load ((s.resumeHead q).fqLoc (q / 8192) (ws.getD 2 0) + 56) 4 = ws.getD 3 0)
  (hr : (s.resumeSlot q (ws.getD 2 0)).resumeNames q ws r)
include hp hh hslot hload hr

/-- A RESUME acts on the record that its slot and TIME name (R363). -/
theorem State.resume_eq (fits : State → FqRec → Bool) (act : State → FqRec → State) :
    let t := s.resumeSlot q (ws.getD 2 0)
    s.resume q (ws.getD 4 0) fits act =
      if r.done then t.resumeDone q (ws.getD 4 0) r
      else if fits t r then (act (t.resolve r) r).advance q
      else (s.resumeHead q).queueFail q TASK 4 0 := by
  intro t
  have hload' : t.load ((s.resumeHead q).fqLoc (q / 8192) (ws.getD 2 0) + 56) 4 = ws.getD 3 0 :=
    (congrArg (fun m : Mems => Memory.read m.mem _ 4) (State.physTouch_m ..)).trans hload
  unfold State.resume State.beginHead
  simp only [hp, hh, Bool.not_true, Bool.false_eq_true, if_false, and_self, decide_true, if_true]
  refine (if_neg (Nat.not_le.2 hslot)).trans ((if_neg (not_not.2 hload')).trans ?_)
  split
  next r' hr' =>
    obtain rfl : r' = r := Option.some.inj (hr'.symm.trans hr)
    rfl
  next hnone => exact nomatch hnone.symm.trans hr

theorem State.resume_done {action : ℕ} (ha : ws.getD 4 0 = action) (hdone : r.done = true)
    (fits : State → FqRec → Bool) (act : State → FqRec → State) :
    s.resume q action fits act = (s.resumeSlot q (ws.getD 2 0)).resumeDone q action r := by
  rw [← ha, State.resume_eq hp hh hslot hload hr, if_pos hdone]

theorem State.resume_acts {action : ℕ} (ha : ws.getD 4 0 = action) (hdone : r.done = false)
    {fits : State → FqRec → Bool} (act : State → FqRec → State)
    (hfits : fits (s.resumeSlot q (ws.getD 2 0)) r = true) : s.resume q action fits act =
      (act ((s.resumeSlot q (ws.getD 2 0)).resolve r) r).advance q := by
  rw [← ha, State.resume_eq hp hh hslot hload hr, if_neg (Bool.eq_false_iff.1 hdone), if_pos hfits]

end

/-- A resolved record of held accesses answers to a replay and to a cancel with nothing (R363). -/
theorem State.resumeDone_held {s : State} {q action : ℕ} {r : FqRec} (hheld : r.held = true) (ha : action < 2) :
    s.resumeDone q action r = s.advance q := by
  have hne : action ≠ 4 := by omega
  rw [State.resumeDone, if_neg hne, if_pos ⟨of_decide_eq_true hheld, ha⟩]

/-- An abort of a resolved record aborts its grid if that still runs (R363). -/
theorem State.resumeDone_abort (s : State) (q : ℕ) (r : FqRec) : s.resumeDone q 4 r =
    (match s.grid? r.grid with
      | some g => if g.aborted = true ∨ g.retired = true then s else s.abortGrid r.grid r.words
      | none => s).advance q := by
  rw [State.resumeDone, if_pos rfl]
  cases s.grid? r.grid with
  | none => rfl
  | some g => simp only [Bool.or_eq_true]

theorem execResumeAbort_eq {s : State} {ws : List ℕ} (hh : s.headOf s.u.ev.id = .cmd 5 ws) (ha : ws.getD 4 0 = 4) :
    exec .resumeAbort s = .next (s.resume s.u.ev.id 4
      (fun t r => decide (r.kind ≠ .report) && (t.split? r.sid).isSome) fun t r =>
        t.abortGrid (t.team (t.split r.sid).team).grid r.words) := by
  simp only [exec, execResumeAbort, hh, ha, if_neg (show ¬5 ≤ 4 by decide)]

theorem State.split_of_split? {s : State} {i : ℕ} {p : Split} (h : s.split? i = some p) : s.split i = p := by
  rw [State.split, h]
  rfl

theorem State.replayed_of {s : State} {r : FqRec} {p : Split} {u w : Pc} (hk : r.kind = .replay)
    (hp : s.split? r.sid = some p) (hpark : p.park = .replay u w) : s.replayed r = true := by
  simp only [State.replayed, hk, State.split_of_split? hp, hpark, decide_true, Bool.and_self]

/-! ### Page walks -/

theorem State.mem_addTlb (s : State) (at_ : TlbAt) (asid : ℕ) (lf : Leaf) :
    { at_ := at_, asid := asid, leaf := lf } ∈ (s.addTlb at_ asid lf).k.tlb :=
  List.mem_append_right _ (List.mem_singleton_self _)

/-- Settles O54: the ring takes its oldest record, RESUME acts on the record that it names, and a walk fills the TLBs on its
way. -/
theorem resumeEvents : Obligations.ResumeEvents := by
  unfold Obligations.ResumeEvents
  refine ⟨fun s => ⟨fun r hfull hr => ?report, fun r hfree hr => ?record⟩, fun s ws r => ?resume, fun s core asid va he => ?walk⟩
  case report => simp only [exec, execFaultQueueWrite, hfull, hr, if_true]
  case record => simp only [exec, execFaultQueueWrite, hfree, hr, Bool.false_eq_true, if_false]
  case walk =>
    have hapart := s.walkAll_apart (core / 192) asid va
    refine ⟨fun lf hw => ?_, fun hw => ⟨?_, congrArg Apart.tlb hapart⟩, s.walkAll_mem _ _ _,
      congrArg (fun a : Apart => a.r.v) hapart, fun at_ lf => ⟨_, s.mem_addTlb at_ asid lf, rfl, rfl, rfl⟩⟩
    · simp only [exec, execPageWalk, he, hw]
    · simp only [exec, execPageWalk, he, hw]
  case resume =>
    intro q fresh slot begun t hp hh hslot hload hr
    have hdone := fun action ha hd => @State.resume_done s q ws r hp hh hslot hload hr action ha hd
    have hacts := fun action ha hd => @State.resume_acts s q ws r hp hh hslot hload hr action ha hd
    refine ⟨fun hd => ⟨fun ha => ?doneAbort, fun hheld => ⟨fun ha => ?doneReplay, fun ha => ?doneCancel⟩⟩,
      fun hd ha hheld => ⟨fun hs => ?fetch, fun hs => ?replay⟩, fun hd ha hheld hs => ?cancel,
      fun u w p hd hk hsp hpark => ⟨fun ha => ?unitpc, fun ha hc => ?next⟩, fun hd ha hk hsp => ?abort⟩
    case doneAbort => exact (execResumeAbort_eq hh ha).trans (congrArg _ ((hdone 4 ha hd _ _).trans (State.resumeDone_abort ..)))
    case doneReplay => exact congrArg _ ((hdone 0 ha hd _ _).trans (State.resumeDone_held hheld (by decide)))
    case doneCancel => exact congrArg _ ((hdone 1 ha hd _ _).trans (State.resumeDone_held hheld (by decide)))
    case fetch =>
      refine congrArg _ ((hacts 0 ha hd _ hheld).trans ?_)
      rw [if_pos hs]
      rfl
    case replay =>
      refine congrArg _ ((hacts 0 ha hd _ hheld).trans ?_)
      rw [if_neg hs]
      rfl
    case cancel =>
      refine congrArg _ ((hacts 1 ha hd _ hheld).trans ?_)
      rw [if_neg hs]
      rfl
    case abort =>
      exact (execResumeAbort_eq hh ha).trans (congrArg _ (hacts 4 ha hd _ (Bool.and_eq_true_iff.2 ⟨decide_eq_true hk, hsp⟩)))
    case unitpc =>
      refine ⟨_, congrArg _ (hacts 2 ha hd _ (State.replayed_of hk hsp hpark)), ?_, rfl, rfl⟩
      refine (State.split?_modSplit hsp ?_).trans ?_
      · simp only [hpark]
      · simp only [hpark]
    case next =>
      refine ⟨_, congrArg _ (hacts 3 ha hd _ (State.replayed_of hk hsp hpark)), ?_, rfl, rfl⟩
      refine (State.split?_modSplit hsp ?_).trans ?_
      · simp only [hpark, hc, Bool.false_eq_true, if_false]
      · simp only [hpark, hc, Bool.false_eq_true, if_false]

end Sys2Proof.Machine

/-! SUPPORT. Writes performed and accesses completed (R158 to R162, R253, R334, R376, R423): the bytes that a write leaves, and
what it leaves alone. -/

namespace Sys2Proof.Machine

/-! ### The bytes of a write -/

theorem Memory.read_one (m : List Host.Cell) (a : ℕ) : Memory.read m a 1 = (Memory.get m a).toNat := by
  simp [Memory.read]

/-- What a write leaves in memory depends on memory alone. -/
theorem State.writeBytes_mem_congr {s t : State} (h : s.m.mem = t.m.mem) (a v n : ℕ) :
    (s.writeBytes a v n).m.mem = (t.writeBytes a v n).m.mem := by
  induction n generalizing s t a v with
  | zero => exact h
  | succ n ih => exact ih (congrArg (fun m => Memory.put m a (BitVec.ofNat 8 v)) h) _ _

/-- A write of an access reaches memory but on a retired channel (R162, R391). -/
theorem State.writeFor_mem {s : State} {a : Access} (v : ℕ) (h : ∀ lf, a.leaf = some lf → s.retiredAt lf a.pa = false) :
    (s.writeFor a v).m.mem = (s.writeBytes a.loc v a.size).m.mem := by
  unfold State.writeFor
  dsimp only
  split
  case h_1 => rfl
  case h_2 lf hlf =>
    rw [if_neg (Bool.eq_false_iff.1 (h lf hlf))]
    split
    · rfl
    · split
      · refine State.writeBytes_mem_congr ?_ ..
        split
        · rfl
        · exact s.addSnap_mem _ _
      · rfl
      · rfl

@[simp] theorem State.writeFor_apart (s : State) (a : Access) (v : ℕ) : (s.writeFor a v).apart = s.apart := by
  unfold State.writeFor
  dsimp only
  (repeat' split) <;> simp

theorem State.load_of_mem {s t : State} (h : t.m.mem = s.m.mem) (a n : ℕ) : t.load a n = s.load a n :=
  congrArg (fun m => Memory.read m a n) h

section
variable {s : State} {a : Access} (v : ℕ) (h : ∀ lf, a.leaf = some lf → s.retiredAt lf a.pa = false)
include h

/-- The bytes of a write hold its value (R162). -/
theorem State.writeFor_inside (hw : s.MemWf) {i : ℕ} (hi : i < a.size) :
    (s.writeFor a v).load (a.loc + i) 1 = v / 256 ^ i % 256 := by
  have hmem := State.writeFor_mem v h
  rw [State.load, hmem, Memory.read_one, State.writeBytes_byte _ _ _ _ hw hi, BitVec.toNat_ofNat]

/-- Every byte beside a write reads as before (R162). -/
theorem State.writeFor_outside {b : ℕ} (hb : b < a.loc ∨ a.loc + a.size ≤ b) :
    (s.writeFor a v).load b 1 = s.load b 1 := by
  have hmem := State.writeFor_mem v h
  rw [State.load, hmem, Memory.read_one, State.writeBytes_other _ _ _ _ _ hb, State.load, Memory.read_one]

end

/-! ### What comes before a write -/

@[simp] theorem State.releaseSystem_apart (s : State) (a : Access) : (s.releaseSystem a).apart = s.apart := by
  unfold State.releaseSystem
  split <;> rfl

@[simp] theorem State.acquireCopies_apart (s : State) (a : Access) : (s.acquireCopies a).apart = s.apart := by
  simp [State.acquireCopies]

@[simp] theorem State.poisonEvent_apart (s : State) (lf : Option Leaf) (pa die : ℕ) :
    (s.poisonEvent lf pa die).apart = s.apart := by
  unfold State.poisonEvent
  split
  · split <;> rfl
  · rfl

/-- A page's mode stands apart from the caches (R422). -/
theorem State.modeOf_congr {s t : State} (h : t.f = s.f) (lf : Leaf) : t.modeOf lf = s.modeOf lf := by
  unfold State.modeOf
  rw [h]

/-- Whether a page's channel is retired stands apart from the caches (R391). -/
theorem State.retiredAt_congr {s t : State} (hf : t.f = s.f) (hr : t.m.retiredPc = s.m.retiredPc) (lf : Leaf) (pa : ℕ) :
    t.retiredAt lf pa = s.retiredAt lf pa := by
  unfold State.retiredAt
  rw [State.modeOf_congr hf, hr]

/-- What the state of a write has done before it: a release at system scope, the loads of others undone, copies of other
modules' lines given up (R319, R333, R334). -/
def State.beforeStore (s : State) (a : Access) : State := ((s.releaseSystem a).squash a.lane).acquireCopies a

theorem State.beforeStore_apart (s : State) (a : Access) :
    (s.beforeStore a).apart = { s.apart with acc := ((s.releaseSystem a).squash a.lane).apart.acc } := by
  have hr := s.releaseSystem_apart a
  calc (s.beforeStore a).apart = ((s.releaseSystem a).squash a.lane).apart := State.acquireCopies_apart _ a
    _ = { (s.releaseSystem a).apart with acc := ((s.releaseSystem a).squash a.lane).apart.acc } := rfl
    _ = _ := by rw [hr]

@[simp] theorem State.beforeStore_mem (s : State) (a : Access) : (s.beforeStore a).m.mem = s.m.mem := by
  simp [State.beforeStore]

theorem State.performStore_store {s : State} {a : Access} {nt : Bool} (h : a.kind = .store nt) :
    s.performStore a = (s.beforeStore a).writeFor a a.data := by
  simp only [State.performStore, h, State.beforeStore]

/-! ### Completion -/

theorem State.finish_getC (s : State) (a : Access) (c : SliceId) (n : ℕ) :
    (s.finish a).getC c n = if a.cnt = some n ∧ c = a.lane.slice then s.getC c n - 1 else s.getC c n := by
  unfold State.finish
  cases a.cnt with
  | none => simp only [reduceCtorEq, false_and, if_false]; rfl
  | some m =>
    simp only [State.lowerC, State.getC_setC, Option.some.injEq, Prod.mk.injEq]
    by_cases h : m = n ∧ c = a.lane.slice
    · obtain ⟨rfl, rfl⟩ := h
      rw [if_pos ⟨rfl, rfl⟩, if_pos ⟨rfl, rfl⟩]
      rfl
    · rw [if_neg h, if_neg fun he => h ⟨he.2, he.1.symm⟩]
      rfl

/-- An access that completes is gone, and all but its counter stays (R160). -/
theorem State.finish_rest (s : State) (a : Access) :
    { s.finish a with r.cn := s.r.cn } = { s with k.acc := s.k.acc.filter fun b => decide (b.id ≠ a.id) } := by
  unfold State.finish
  cases a.cnt <;> rfl

theorem Access.isLoad_store {a : Access} {nt : Bool} (hk : a.kind = .store nt) : a.isLoad = false := by
  simp only [Access.isLoad, hk]

section
variable {s : State} {a : Access} {nt : Bool} (ha : s.acc? s.u.ev.id = some a) (hk : a.kind = .store nt)
include ha hk

/-- A store is performed in its window, or at its home once it is acknowledged there (R160, R259). -/
theorem execStorePerformed_performed (h : (a.leaf = none ∧ a.phase = .issued ∧ s.mayPerform a = true) ∨
    ∃ lf, a.leaf = some lf ∧ a.phase = .atHome ∧ s.acked a = true) :
    exec .storePerformed s = .next ((s.performStore a).finish a) := by
  have hload := Access.isLoad_store hk
  rcases h with ⟨hl, hph, hmay⟩ | ⟨lf, hl, hph, hack⟩
  · simp only [exec, execStorePerformed, ha, hload, hl, hph, hmay, Bool.false_eq_true, if_false, if_true]
  · simp only [exec, execStorePerformed, ha, hload, hl, hph, hk, hack, Bool.false_eq_true, if_false, if_true]

/-- A store to a deferred page puts its records into the log (R162, R300). -/
theorem execStorePerformed_append {lf : Leaf} (hl : a.leaf = some lf) (happ : a.append = true) (hph : a.phase = .issued)
    (hmay : s.mayAppend a = true) :
    exec .storePerformed s = .next { s.finish a with e.log := (s.finish a).e.log ++ s.recsOf a lf } := by
  have hload := Access.isLoad_store hk
  simp only [exec, execStorePerformed, ha, hload, hl, hph, happ, hmay, Bool.and_self, Bool.false_eq_true, if_false, if_true]

end

/-- Settles O45: a store writes its bytes and lowers its counter; one to a deferred page ends up in the log. -/
theorem storesPerform : Obligations.StoresPerform := by
  unfold Obligations.StoresPerform
  intro s a nt hw ha hk
  refine ⟨fun h => ?performed, fun lf hl happ hph hmay => ?deferred⟩
  case performed =>
    have hex := execStorePerformed_performed ha hk (h.imp_right fun ⟨lf, hl, hph, hack, _⟩ => ⟨lf, hl, hph, hack⟩)
    have hwf : ((s.performStore a).finish a).MemWf := execStorePerformed_wf hw _ hex
    rw [State.performStore_store hk] at hex hwf
    have hbefore := s.beforeStore_apart a
    have hapart := ((s.beforeStore a).writeFor_apart a a.data).trans hbefore
    have hret : ∀ lf, a.leaf = some lf → (s.beforeStore a).retiredAt lf a.pa = false := fun lf hl => by
      rw [State.retiredAt_congr (congrArg Apart.f hbefore :) (congrArg Apart.retired hbefore :)]
      rcases h with ⟨hn, -⟩ | ⟨lf', hl', -, -, hr⟩
      · exact nomatch hn.symm.trans hl
      · exact Option.some.inj (hl'.symm.trans hl) ▸ hr
    have hrest := ((s.beforeStore a).writeFor a a.data).finish_rest a
    have hmem : (s.beforeStore a).MemWf := State.wf_of_mem hw (s.beforeStore_mem a)
    refine ⟨_, hex, fun i hi => ?_, fun b hb => ?_, fun x hx => ?_, fun c n => ?_, ?_, ?_, ?_, ?_, ?_, hwf⟩
    · rw [State.load_of_mem (State.finish_mem _ a)]
      exact State.writeFor_inside _ hret hmem hi
    · rw [State.load_of_mem (State.finish_mem _ a), State.writeFor_outside _ hret hb]
      exact State.load_of_mem (s.beforeStore_mem a) b 1
    · rw [show (((s.beforeStore a).writeFor a a.data).finish a).k.acc = _ from (congrArg (fun q : State => q.k.acc) hrest :)] at hx
      exact of_decide_eq_true (List.mem_filter.1 hx).2
    · rw [State.finish_getC]
      have hcn : ((s.beforeStore a).writeFor a a.data).getC c n = s.getC c n :=
        congrArg (fun p : Apart => p.r.cn.look (c, n) 0) hapart
      rw [hcn]
    · exact (congrArg (fun q : State => q.r.v) hrest :).trans (congrArg (fun p : Apart => p.r.v) hapart)
    · exact (congrArg (fun q : State => q.r.ve) hrest :).trans (congrArg (fun p : Apart => p.r.ve) hapart)
    · exact (congrArg (fun q : State => q.r.sr) hrest :).trans (congrArg (fun p : Apart => p.r.sr) hapart)
    · exact (congrArg (fun q : State => q.r.mr) hrest :).trans (congrArg (fun p : Apart => p.r.mr) hapart)
    · exact (congrArg (fun q : State => q.x) hrest :).trans (congrArg (fun p : Apart => p.x) hapart)
  case deferred =>
    have hrest := s.finish_rest a
    exact ⟨_, execStorePerformed_append ha hk hl happ hph hmay,
      congrArg (· ++ s.recsOf a lf) (congrArg (fun q : State => q.e.log) hrest :),
      (congrArg (fun q : State => q.m) hrest :), (congrArg (fun q : State => q.r.v) hrest :)⟩

end Sys2Proof.Machine

/-! SUPPORT. Replies landing (R159 to R161, R166, R168, R177, R194, R290, R428): an access by its name, what the touches of an
engine leave apart, and what each kind of reply fills. -/

namespace Sys2Proof.Machine

/-! ### An access by its name -/

theorem State.acc?_id {s : State} {id : ℕ} {a : Access} (h : s.acc? id = some a) : a.id = id := by
  simpa using List.find?_some h

theorem Access.eq_of_unvoided {a b : Access} (h : b.unvoided = a.unvoided) : b = { a with void := b.void } := by
  cases a
  cases b
  simp only [Access.unvoided, Access.mk.injEq] at h ⊢
  simpa using h

/-- Touches of caches and memory leave an access but for its mark of a void fill (R261). -/
theorem State.acc?_of_apart {s t : State} (h : t.apart = s.apart) {id : ℕ} {a : Access} (ha : s.acc? id = some a) :
    ∃ v, t.acc? id = some { a with void := v } := by
  have hfind : ∀ q : State, (q.k.acc.map Access.unvoided).find? (fun b => decide (b.id = id)) =
      (q.acc? id).map Access.unvoided := fun q => List.find?_map
  have hmap : (t.acc? id).map Access.unvoided = some a.unvoided := by
    have hacc : t.k.acc.map Access.unvoided = s.k.acc.map Access.unvoided := congrArg Apart.acc h
    rw [← hfind, hacc, hfind, ha]
    rfl
  obtain ⟨b, hb, hab⟩ := Option.map_eq_some_iff.1 hmap
  exact ⟨b.void, hb.trans (congrArg some (Access.eq_of_unvoided hab))⟩

theorem State.acc?_modAcc {s : State} {id : ℕ} {a : Access} (h : s.acc? id = some a) {f : Access → Access}
    (hf : (f a).id = a.id) : (s.modAcc id f).acc? id = some (f a) := by
  have ha := State.acc?_id h
  simp only [State.acc?, State.modAcc] at h ⊢
  generalize s.k.acc = l at h
  induction l with
  | nil => cases h
  | cons b l ih =>
    by_cases hb : b.id = id
    · obtain rfl : b = a := by simpa [hb] using h
      simp [ha, hf]
    · simp only [List.find?_cons, hb, decide_false] at h
      simpa [hb] using ih h

theorem State.acc?_modAcc_ne (s : State) {id id' : ℕ} (hne : id ≠ id') {f : Access → Access} (hf : ∀ b, (f b).id = b.id) :
    (s.modAcc id' f).acc? id = s.acc? id := by
  simp only [State.acc?, State.modAcc]
  induction s.k.acc with
  | nil => rfl
  | cons b l ih =>
    simp only [List.map_cons, List.find?_cons]
    by_cases hb : b.id = id'
    · have hid : (f b).id ≠ id := fun he => hne (he.symm.trans ((hf b).trans hb))
      have hid' : b.id ≠ id := fun he => hne (he.symm.trans hb)
      simp only [hb, if_true, hid, decide_false, hne.symm, ih]
    · simp only [hb, if_false]
      cases decide (b.id = id) with
      | true => rfl
      | false => exact ih

/-! ### What an engine touches -/

@[simp] theorem State.missWalks_apart (s : State) (core asid : ℕ) (vas : List ℕ) :
    (s.missWalks core asid vas).apart = s.apart := rfl

@[simp] theorem State.breach_apart (s : State) (ag : Agent) (pa : ℕ) (write : Bool) :
    (s.breach ag pa write).apart = s.apart := rfl

@[simp] theorem State.homeTouch_apart (s : State) (ag : Agent) (core : ℕ) (chain : Option (ℕ × ℕ)) (lf : Leaf) (va : ℕ)
    (write : Bool) : (s.homeTouch ag core chain lf va write).apart = s.apart := by
  simp [State.homeTouch]

@[simp] theorem State.engineTouch_apart (s : State) (ag : Agent) (core : ℕ) (chain : Option (ℕ × ℕ)) (lf : Leaf) (va : ℕ)
    (write : Bool) : (s.engineTouch ag core chain lf va write).apart = s.apart := by
  simp [State.engineTouch]

theorem State.apart_withFc (s : State) (l : List L1Line) : State.apart { s with k.fc := l } = s.apart := rfl

@[simp] theorem State.fillFc_apart (s : State) (core : ℕ) (lf : Leaf) (va : ℕ) : (s.fillFc core lf va).apart = s.apart := by
  unfold State.fillFc
  extract_lets pa line
  split
  · rfl
  · split
    · exact s.apart_withFc _
    · exact (State.share_apart ..).trans (s.apart_withFc _)

/-! ### A reply lands -/

section
variable {s : State} {a : Access} (ha : s.acc? s.u.ev.id = some a) (hload : a.isLoad = true)
include ha hload

/-- The reply of a performed access lands, that of a load that went ahead once it may be performed (R159, R319). -/
theorem execReplyLand_performed (hph : a.phase = .performed) (hspec : a.spec = false ∨ s.mayPerform a = true) :
    exec .replyLand s = .next ((s.acquireCopies a).land a) := by
  have hgo : (a.spec && !s.mayPerform a) = false := by rcases hspec with h | h <;> simp [h]
  simp only [exec, execReplyLand, ha, hload, hph, hgo, Bool.not_true, Bool.false_eq_true, if_false]

/-- An access that is performed as it lands (R159). -/
theorem execReplyLand_near {b : Access} (hph : a.phase = .issued) (hnear : s.near a = true)
    (hb : (s.performNear a).acc? a.id = some b) (hbp : b.phase = .performed) :
    exec .replyLand s = .next (((s.performNear a).acquireCopies b).land b) := by
  simp only [exec, execReplyLand, ha, hload, hph, hnear, hb, hbp, Bool.not_true, Bool.false_eq_true, if_false, if_true]

end

/-- A reply with a value fills the registers of its access (R159, R161). -/
theorem State.land_value {s : State} {a : Access} (hf : a.failed = 0) (hp : a.poisoned = false) (hs : a.kind ≠ .mscale)
    (hm : a.kind ≠ .monitor) : s.land a = (s.finish a).setVs a.lane a.dst a.loaded a.dstN := by
  simp only [State.land, hf, hp, hs, hm, ne_eq, not_true_eq_false, Bool.false_eq_true, if_false]

/-- A reply of an MSCALE lane brings the scales of its group (R194). -/
theorem State.land_mscale {s : State} {a : Access} (hf : a.failed = 0) (hp : a.poisoned = false) (hs : a.kind = .mscale) :
    s.land a = ((s.finish a).modGrp a.lane.group fun g => { g with mscBusy := g.mscBusy - 1 }).scaleLand a := by
  simp only [State.land, hf, hp, hs, ne_eq, not_true_eq_false, Bool.false_eq_true, if_false, if_true]

/-- The late fault of an access whose reply brings none of its value (R177, R428). -/
def Access.lateReason (a : Access) : FaultInfo :=
  if a.failed ≠ 0 then a.fabricFault
  else { code := POISON, addr := a.gaddr, info := a.kind.info, unitPc := a.unitPc }

/-- The state in which a reply's access is complete, an MSCALE's also for its group (R160, R194). -/
def State.landed (s : State) (a : Access) : State :=
  if a.kind = .mscale then (s.finish a).modGrp a.lane.group fun g => { g with mscBusy := g.mscBusy - 1 } else s.finish a

theorem State.land_fault {s : State} {a : Access} (h : a.failed ≠ 0 ∨ a.poisoned = true) :
    s.land a = ((s.landed a).fillOnly a).lateFault a.sid a.lane a.lateReason := by
  unfold State.land Access.lateReason
  by_cases hf : a.failed ≠ 0
  · rw [if_pos hf, if_pos hf]; rfl
  · rw [if_neg hf, if_neg hf, if_pos (h.resolve_left hf)]; rfl

/-- What an access leaves that completes after its acquire: all registers, memory and execution; it is gone itself. -/
structure State.CompletesTo (s t : State) (a : Access) : Prop where
  v : t.r.v = s.r.v
  ve : t.r.ve = s.r.ve
  sr : t.r.sr = s.r.sr
  mr : t.r.mr = s.r.mr
  gr : t.r.gr = s.r.gr
  x : t.x = s.x
  mem : t.m.mem = s.m.mem
  acc : ∀ b ∈ t.k.acc, b.id ≠ a.id

theorem State.finish_completes (s : State) (a b : Access) : s.CompletesTo ((s.acquireCopies b).finish a) a := by
  have hrest := (s.acquireCopies b).finish_rest a
  have hapart := s.acquireCopies_apart b
  exact {
    v := (congrArg (fun q : State => q.r.v) hrest :).trans (congrArg (fun p : Apart => p.r.v) hapart)
    ve := (congrArg (fun q : State => q.r.ve) hrest :).trans (congrArg (fun p : Apart => p.r.ve) hapart)
    sr := (congrArg (fun q : State => q.r.sr) hrest :).trans (congrArg (fun p : Apart => p.r.sr) hapart)
    mr := (congrArg (fun q : State => q.r.mr) hrest :).trans (congrArg (fun p : Apart => p.r.mr) hapart)
    gr := (congrArg (fun q : State => q.r.gr) hrest :).trans (congrArg (fun p : Apart => p.r.gr) hapart)
    x := (congrArg (fun q : State => q.x) hrest :).trans (congrArg Apart.x hapart)
    mem := (State.finish_mem _ a).trans (s.acquireCopies_mem b)
    acc := fun c hc => by
      have hacc : ((s.acquireCopies b).finish a).k.acc = _ := (congrArg (fun q : State => q.k.acc) hrest :)
      rw [hacc] at hc
      exact of_decide_eq_true (List.mem_filter.1 hc).2 }

/-- The scales of a group once a reply of an MSCALE lane is in place (R194). -/
theorem State.scaleLand_grp (s : State) (a : Access) :
    let g := s.grp a.lane.group
    let h := (s.scaleLand a).grp a.lane.group
    h.sa.getD a.lane.l 0 = BitVec.ofNat 32 a.value ∧ (∀ i, i ≠ a.lane.l → h.sa.getD i 0 = g.sa.getD i 0) ∧
      h.sb = (if a.lane.l = 0 then BitVec.ofNat 32 (a.value / 2 ^ 32) else g.sb) ∧
      { h with sa := g.sa, sb := g.sb } = g := by
  intro g h
  have hh : h = { g with
      sa := (List.range (max g.sa.length (a.lane.l + 1))).map fun i =>
        if i = a.lane.l then BitVec.ofNat 32 a.value else g.sa.getD i 0
      sb := if a.lane.l = 0 then BitVec.ofNat 32 (a.value / 2 ^ 32) else g.sb } := by
    simp only [h, State.scaleLand, State.grp_modGrp, if_true]
    rfl
  have hget : ∀ i, h.sa.getD i 0 = if i = a.lane.l then BitVec.ofNat 32 a.value else g.sa.getD i 0 := fun i => by
    rw [hh]
    by_cases hi : i < max g.sa.length (a.lane.l + 1)
    · simp [List.getD_eq_getElem?_getD, hi]
    · have hlen : g.sa.length ≤ i := by omega
      have hne : i ≠ a.lane.l := by omega
      simp [List.getD_eq_getElem?_getD, hi, hne, hlen]
  exact ⟨(hget _).trans (if_pos rfl), fun i hi => (hget i).trans (if_neg hi), by rw [hh], by rw [hh]⟩

theorem State.lateSplit_congr {s t : State} (h : t.x = s.x) (sid : ℕ) (l : LaneId) :
    t.lateSplit sid l = s.lateSplit sid l := by
  simp only [State.lateSplit, State.splitOf, State.split?, h]

theorem State.markVs_v (s : State) (l : LaneId) (n : ℕ) (e : Bool) (k : ℕ) : (s.markVs l n e k).r.v = s.r.v := by
  induction k generalizing s n with
  | zero => rfl
  | succ k ih => exact ih (s.setEmpty l n e) (n + 1)

theorem State.landed_x (s : State) (a : Access) : (s.landed a).x = (s.finish a).x := by
  unfold State.landed
  split <;> rfl

theorem State.landed_v (s : State) (a : Access) : (s.landed a).r.v = (s.finish a).r.v := by
  unfold State.landed
  split <;> rfl

theorem State.lateFault_some {s : State} {sid : ℕ} {l : LaneId} {p : Split} (h : s.lateSplit sid l = some p)
    (f : FaultInfo) : s.lateFault sid l f = s.modSplit p.sid fun q =>
      { q with late := q.late ++ [{ f with lanes := some [l.l], late := true }] } := by
  simp only [State.lateFault, h]

/-! ### A load of a window -/

theorem State.mates_self {s : State} {a : Access} (hl : a.kind ≠ .ldc) (hc : ∀ op, a.kind ≠ .cache op) :
    s.mates a = [a] := by
  unfold State.mates
  split
  next h => exact absurd h hl
  next op h => exact absurd h (hc op)
  next => rfl

/-- The state in which an SC load at pod or system scope reads: copies of other modules' lines are given up (R333). -/
def State.beforeLoad (s : State) (a : Access) : State := if a.purges then s.dropAway else s

@[simp] theorem State.beforeLoad_apart (s : State) (a : Access) : (s.beforeLoad a).apart = s.apart := by
  simp [State.beforeLoad]

@[simp] theorem State.beforeLoad_mem (s : State) (a : Access) : (s.beforeLoad a).m.mem = s.m.mem := by
  simp [State.beforeLoad]

theorem State.dropAway_poison (s : State) : s.dropAway.m.poison = s.m.poison := by
  have hfold : ∀ (l : List L1Line) (t : State),
      (l.foldl (fun u x => u.triggerCore x.core x.line) t).m.poison = t.m.poison := fun l => by
    induction l with
    | nil => exact fun _ => rfl
    | cons x l ih => exact fun t => ih (t.triggerCore x.core x.line)
  exact hfold _ s

theorem State.beforeLoad_poison (s : State) (a : Access) : (s.beforeLoad a).m.poison = s.m.poison := by
  unfold State.beforeLoad
  split
  · exact s.dropAway_poison
  · rfl

/-- What performing a load leaves of the caches, and the event of a poisoned one (R159, R376). -/
def State.afterRead (u : State) (a : Access) (hit : Bool) : State :=
  if u.poisonFor a then (u.readFor a hit).2.poisonEvent a.leaf a.pa (u.accCore a / 192) else (u.readFor a hit).2

/-- An access performed with what it read. -/
def Access.performedWith (v : ℕ) (bad : Bool) (b : Access) : Access :=
  { b with phase := .performed, value := v, poisoned := bad }

/-- A load that is performed reads after what comes before it; only a MONITOR arms a watch as well (R159, R172). -/
theorem State.fixLoad_eq (s : State) (a : Access) (hit : Bool) : s.fixLoad a hit =
    let u := s.beforeLoad a
    let t := (u.afterRead a hit).modAcc a.id (Access.performedWith (u.readFor a hit).1 (u.poisonFor a))
    if a.kind = .monitor ∧ !u.poisonFor a then t.armRead a.lane.slice a.loc a.id else t := rfl

theorem State.performLoad_self {s : State} {a : Access} (h : s.mates a = [a]) (hit : Bool) :
    s.performLoad a hit = s.fixLoad a hit := by
  simp [State.performLoad, h]

/-- A load of a window is performed by reading memory (R159, R161). -/
theorem State.performNear_window {s : State} {a : Access} {sx : Bool} (hk : a.kind = .load sx) (hl : a.leaf = none)
    (hp : s.poisoned a.loc a.size = false) : s.performNear a =
      (s.beforeLoad a).modAcc a.id (Access.performedWith (s.load a.loc a.size) false) := by
  have hmates : s.mates a = [a] := State.mates_self (by rw [hk]; nofun) fun op => by rw [hk]; nofun
  have hpois : (s.beforeLoad a).poisonFor a = false := by
    simp only [State.poisonFor, State.poisoned, s.beforeLoad_poison] at hp ⊢
    simp only [hp, hl, Bool.or_false]
  have hread : (s.beforeLoad a).readFor a true = (s.load a.loc a.size, s.beforeLoad a) := by
    simp only [State.readFor, hl, State.load_of_mem (s.beforeLoad_mem a)]
  simp only [State.performNear, hk, hl, State.performLoad_self hmates, State.fixLoad_eq, State.afterRead, hread, hpois,
    reduceCtorEq, false_and, Bool.false_eq_true, if_false]

/-! ### A run of the fetch unit -/

/-- The state in which a run of the fetch unit is read: its engine has touched every line of it (R290). -/
def State.fetchTouched (s : State) (a : Access) (f : FetchOp) : State :=
  (s.runLines a f).foldl (fun u x => (u.engineTouch (s.accAgent a) (s.accCore a) (s.chainOf a.lane) x.1 x.2 false).fillFc
    (s.accCore a) x.1 x.2) s

/-- Once a run of the fetch unit is read, its access holds the run that its memory shows, and the run is no longer in
flight (R290). -/
theorem State.readFetch_run (s : State) (a : Access) (f : FetchOp) : ∃ (q : State) (g : Access → Access),
    s.readFetch a f = q.modAcc a.id g ∧ q.apart = s.apart ∧ (∀ x ∈ q.e.fetches, x.acc ≠ a.id) ∧
    ∀ b, (g b).id = b.id ∧ (g b).phase = .performed ∧ (g b).value = f.run ((s.fetchTouched a f).viewByte (s.accCore a)
      (s.launch a.lane.t).asid a.id) (Config.freeWord a.id) ∧ (g b).dst = b.dst ∧ (g b).dstN = b.dstN ∧
      (g b).lane = b.lane := by
  unfold State.readFetch
  extract_lets core asid free ls t view bad t2 lost t3 e t4
  have ht : t.apart = s.apart := State.foldl_apart _ _ s fun u x => by simp
  have ht2 : t2.apart = t.apart := by
    simp only [t2]
    cases bad with
    | none => rfl
    | some x => exact State.poisonEvent_apart ..
  have ht3 : t3.apart = t2.apart := State.foldl_apart _ _ t2 fun _ _ => rfl
  exact ⟨t4, _, rfl, ht3.trans (ht2.trans ht), fun x hx => of_decide_eq_true (List.mem_filter.1 hx).2,
    fun b => ⟨rfl, rfl, rfl, rfl, rfl, rfl⟩⟩

/-- Settles O46: a reply that lands leaves its access complete and fills its registers alone; the touches of caches before it
leave the registers and the access. -/
theorem repliesLand : Obligations.RepliesLand := by
  unfold Obligations.RepliesLand
  intro s a ha hload
  refine ⟨fun hph hspec => ?landing, fun sx hk hl hph hf hmay hp => ?window,
    fun f hl hk hph hfind => ⟨fun hmay hper => ?waits, fun hmay hfault => ?run⟩⟩
  case landing =>
    have hex := execReplyLand_performed ha hload hph hspec
    have hdone := s.finish_completes a a
    refine ⟨hex, fun hf hp hs hm => ⟨_, hex, ?value⟩, fun hf hp hs => ⟨_, hex, ?scale⟩, fun hbad p hpl => ⟨_, hex, ?fault⟩⟩
    case value =>
      rw [State.land_value hf hp hs hm]
      have hrest := ((s.acquireCopies a).finish a).setVs_rest a.lane a.dst a.loaded a.dstN
      have hout : ∀ x n, x ≠ a.lane ∨ n < a.dst ∨ a.dst + a.dstN ≤ n →
          ¬(a.lane = x ∧ a.dst ≤ n ∧ n < a.dst + a.dstN) := fun x n hx ⟨he, h1, h2⟩ =>
        hx.elim (fun hne => hne he.symm) fun h => by omega
      refine ⟨fun n hn => ?_, fun n hn hn' => ?_, fun x n hx => ⟨?_, ?_⟩, ?_, ?_, ?_, ?_, ?_⟩
      · rw [State.getV_setVs, if_pos ⟨rfl, by omega, by omega⟩, Nat.add_sub_cancel_left, BitVec.toNat_ofNat]
        rfl
      · rw [State.isEmpty_setVs, if_pos ⟨rfl, hn, hn'⟩]
      · rw [State.getV_setVs, if_neg (hout x n hx)]
        exact congrArg (fun t => t.look (x, n) 0) hdone.v
      · rw [State.isEmpty_setVs, if_neg (hout x n hx)]
        exact congrArg (fun t => t.look (x, n) false) hdone.ve
      · exact fun b hb => hdone.acc b ((congrArg (fun q : State => q.k.acc) hrest :) ▸ hb)
      · exact (congrArg (fun q : State => q.m.mem) hrest :).trans hdone.mem
      · exact (congrArg (fun q : State => q.x) hrest :).trans hdone.x
      · exact (congrArg (fun q : State => q.r.sr) hrest :).trans hdone.sr
      · exact (congrArg (fun q : State => q.r.mr) hrest :).trans hdone.mr
    case scale =>
      rw [State.land_mscale hf hp hs]
      set t := (s.acquireCopies a).finish a
      have hgrp : ∀ q, t.grp q = s.grp q := fun q => congrArg (fun g => g.look q {}) hdone.gr
      set u := t.modGrp a.lane.group fun g => { g with mscBusy := g.mscBusy - 1 }
      have hu : u.grp a.lane.group = { s.grp a.lane.group with mscBusy := (s.grp a.lane.group).mscBusy - 1 } := by
        rw [State.grp_modGrp, if_pos rfl, hgrp]
      obtain ⟨hself, hothers, hsb, hrest⟩ := u.scaleLand_grp a
      rw [hu] at hothers hsb hrest
      refine ⟨⟨?_, hself, hothers, hsb, ?_⟩, fun q hq => ?_, hdone.v, hdone.ve, hdone.mem, hdone.x⟩
      · exact congrArg Group.mscBusy hrest
      · exact congrArg (fun g : Group => { g with mscBusy := (s.grp a.lane.group).mscBusy }) hrest
      · rw [State.scaleLand, State.grp_modGrp, if_neg hq.symm, State.grp_modGrp, if_neg hq.symm, hgrp]
    case fault =>
      rw [State.land_fault hbad]
      have hmarks := ((s.acquireCopies a).landed a).markVs_rest a.lane a.dst false a.dstN
      obtain ⟨hrest, -, hempty⟩ := hmarks
      have hx : (((s.acquireCopies a).landed a).fillOnly a).x = s.x :=
        (congrArg (fun q : State => q.x) hrest :).trans ((State.landed_x _ a).trans hdone.x)
      have hv : (((s.acquireCopies a).landed a).fillOnly a).r.v = s.r.v :=
        (State.markVs_v ..).trans ((State.landed_v _ a).trans hdone.v)
      rw [State.lateFault_some ((State.lateSplit_congr hx a.sid a.lane).trans hpl)]
      refine ⟨hv, fun n hn hn' => (hempty a.lane n).trans (if_pos ⟨rfl, hn, hn'⟩), ?_⟩
      simp only [State.modSplit, hx]
      rfl
  case window =>
    have hnear : s.near a = true := by simp only [State.near, hl, hmay, Bool.or_true]
    have hid := State.acc?_id ha
    obtain ⟨v, hv⟩ := State.acc?_of_apart (s.beforeLoad_apart a) (hid ▸ ha : s.acc? a.id = some a)
    have hperf := State.performNear_window hk hl hp
    obtain ⟨b, hb, hbp, hbk, hbl, hbd, hbn, hbf, hbq, hbv⟩ : ∃ b, (s.performNear a).acc? a.id = some b ∧
        b.phase = .performed ∧ b.kind = a.kind ∧ b.lane = a.lane ∧ b.dst = a.dst ∧ b.dstN = a.dstN ∧ b.failed = 0 ∧
        b.poisoned = false ∧ b.loaded = ({ a with value := s.load a.loc a.size } : Access).loaded := by
      have hb := State.acc?_modAcc hv (f := Access.performedWith (s.load a.loc a.size) false) rfl
      rw [← hperf] at hb
      exact ⟨_, hb, rfl, rfl, rfl, rfl, rfl, hf, rfl, rfl⟩
    have hex := execReplyLand_near ha hload hph hnear hb hbp
    rw [State.land_value hbf hbq (by rw [hbk, hk]; nofun) (by rw [hbk, hk]; nofun)] at hex
    rw [← hbv, ← hbl, ← hbd, ← hbn]
    refine ⟨_, hex, State.getVs_setVs .., fun n hn hn' => ?_, ?_⟩
    · rw [State.isEmpty_setVs, if_pos ⟨rfl, hn, hn'⟩]
    · have hrest := (((s.performNear a).acquireCopies b).finish b).setVs_rest b.lane b.dst b.loaded b.dstN
      calc _ = (((s.performNear a).acquireCopies b).finish b).m.mem := (congrArg (fun q : State => q.m.mem) hrest :)
        _ = (s.performNear a).m.mem := ((s.performNear a).finish_completes b b).mem
        _ = (s.beforeLoad a).m.mem := by rw [hperf]; rfl
        _ = s.m.mem := s.beforeLoad_mem a
  case waits =>
    simp only [exec, execHomeAccess, ha, hl, hph, hk, if_true, State.performFetch, hfind, hmay, hper, Bool.not_false,
      Bool.false_eq_true, if_false]
  case run =>
    intro t
    have hex : exec .homeAccess s = .next (s.readFetch a f) := by
      simp only [exec, execHomeAccess, ha, hl, hph, hk, if_true, State.performFetch, hfind, hmay, hfault, Bool.not_true,
        Bool.false_eq_true, if_false]
    obtain ⟨q, g, hq, hapart, hgone, hg⟩ := s.readFetch_run a f
    obtain ⟨v, hv⟩ := State.acc?_of_apart hapart (State.acc?_id ha ▸ ha : s.acc? a.id = some a)
    obtain ⟨hid, hperf, hval, hdst, hn, hlane⟩ := hg { a with void := v }
    rw [hq] at hex
    exact ⟨_, _, hex, State.acc?_modAcc hv hid, hperf, hval, hdst, hn, hlane, hgone,
      congrArg (fun p : Apart => p.r.v) hapart⟩

end Sys2Proof.Machine

/-! SUPPORT. Accesses at their homes (R166, R259, R261, R287, R375, R415, R416, R420 to R423, R428): when one may reach its home,
what it meets there, what a load takes and an atomic leaves. -/

namespace Sys2Proof.Machine

/-! ### The way to the home -/

/-- No request of its path stands before an access to a home of the module itself (R415, R416). -/
theorem State.pathAhead_own {s : State} {a : Access} (h : a.dev = s.f.dev) : s.pathAhead a = false := by
  simp [State.pathAhead, State.replaying, h]

/-- An access waits while the port of its path replays (log entry 72). -/
theorem State.pathAhead_replaying {s : State} {a : Access} {n : ℕ} (hdev : a.dev ≠ s.f.dev)
    (hport : s.pathPort (s.accCore a) a.dev = some n) (hreplay : s.f.replays.look n 0 ≠ 0) : s.pathAhead a = true := by
  simp [State.pathAhead, State.replaying, hdev, hport, hreplay]

/-- An access waits behind an earlier request of its path that may be performed (R416). -/
theorem State.pathAhead_request {s : State} {a b : Access} {lf : Leaf} (hmem : b ∈ s.k.acc) (hph : b.phase = .issued)
    (hdev : b.dev = a.dev) (haway : a.dev ≠ s.f.dev) (hcore : s.accCore b = s.accCore a)
    (htier : b.kind.traffic.tier = a.kind.traffic.tier) (hbefore : b.before a = true) (happ : b.append = false)
    (hmay : s.mayPerform b = true) (hl : b.leaf = some lf) (hhit : s.hits b lf = false) : s.pathAhead a = true := by
  unfold State.pathAhead
  rw [Bool.or_eq_true, Bool.and_eq_true]
  exact .inr ⟨decide_eq_true haway, List.any_eq_true.2
    ⟨b, hmem, by simp [hph, hdev, hcore, htier, hbefore, happ, hmay, hl, hhit]⟩⟩

section
variable {s : State} {a : Access} {lf : Leaf}

theorem State.mayReach_cache {op : ℕ} (h : a.kind = .cache op) (early : Bool) :
    s.mayReach a early = (s.mates a).all fun b => s.mayPerform b := by
  simp only [State.mayReach, h]

theorem State.mayReach_ldc (h : a.kind = .ldc) (hl : a.leaf = some lf) (early : Bool) :
    s.mayReach a early = (((s.mates a).all fun b => s.mayPerform b) && !s.pathAhead a && !s.hits a lf) := by
  simp only [State.mayReach, h, hl]

theorem State.mayReach_access (hc : ∀ op, a.kind ≠ .cache op) (hl : a.kind ≠ .ldc) :
    s.mayReach a false = (s.mayPerform a && !s.pathAhead a) := by
  unfold State.mayReach
  split
  next op h => exact absurd h (hc op)
  next h => exact absurd h hl
  next => rfl

theorem execHomeAccess_issued (ha : s.acc? s.u.ev.id = some a) (hl : a.leaf = some lf) (hph : a.phase = .issued)
    (happ : a.append = false) : exec .homeAccess s =
      if s.mayReach a (decide (s.u.ev.n ≠ 0)) = false then .next s
      else if s.mayReach a false then .next (s.reachHome a lf)
      else .next ((s.modAcc a.id fun b => { b with spec := true }).reachHome { a with spec := true } lf) := by
  simp only [exec, execHomeAccess, ha, hl, hph, happ, Bool.false_or, Bool.not_eq_true']

theorem State.reachHome_cache {op : ℕ} (h : a.kind = .cache op) : s.reachHome a lf = s.serveCache a lf op := by
  simp only [State.reachHome, h]

theorem State.reachHome_access (hc : ∀ op, a.kind ≠ .cache op) : s.reachHome a lf =
    if s.reachable (s.devOf lf) = false ∧ s.guestServes a lf = false then
      s.modMates a fun b => { b with phase := .performed, failed := 1 }
    else
      let hs := if s.modeOf lf = 0 then s.recallers (s.accAgent a) a.pa a.writes else []
      let t := if s.modeOf lf = 0 then s.breach (s.accAgent a) a.pa a.writes else s
      if hs = [] then (t.serve a lf).modMates a fun b => { b with sent := b.sent <|> some s.u.clk }
      else if s.holding (homeDie lf.il a.pa) (homeSlice a.pa) < 64 then
        t.modMates a fun b => { b with phase := .recalled, time := s.u.seqNo, holders := hs.map (·.holder) }
      else t.modMates a fun b => { b with phase := .retry (s.u.clk + 256) } := by
  unfold State.reachHome
  split
  next op h => exact absurd h (hc op)
  next => simp only [State.meetTenure, ne_eq, ite_not, Bool.and_eq_true, Bool.not_eq_true', List.isEmpty_iff]

end

/-! ### What a load takes -/

theorem State.serve_load {s : State} {a : Access} {lf : Leaf} (hk : (∃ sx, a.kind = .load sx) ∨ a.kind = .ldc) :
    s.serve a lf = (s.serveCommon a lf).performLoad a false := by
  have hw : a.writes = false := by
    obtain ⟨sx, h⟩ | h := hk <;> simp only [Access.writes, h, Bool.and_false]
  obtain ⟨sx, h⟩ | h := hk <;> simp only [State.serve, hw, h, Bool.false_eq_true, false_and, if_false]

section
variable {s : State} {a : Access} {lf : Leaf} (hl : a.leaf = some lf)
include hl

theorem State.readFor_home (h : lf.df = true ∨ inHost a.pa = true ∨ s.modeOf lf = 1 ∨ s.modeOf lf = 3) :
    s.readFor a false = (s.load a.loc a.size, s) := by
  simp only [State.readFor, hl, State.missValue, h, Bool.false_eq_true, if_false, if_true]

theorem State.readFor_own (hdf : lf.df = false) (hh : inHost a.pa = false) (hm : s.modeOf lf = 0) :
    (s.readFor a false).1 = s.homeLoad a := by
  have hno : ¬(lf.df = true ∨ inHost a.pa = true ∨ s.modeOf lf = 1 ∨ s.modeOf lf = 3) := by simp [hdf, hh, hm]
  simp only [State.readFor, hl, Bool.false_eq_true, if_false]
  rw [State.missValue, if_neg hno]
  simp only [hm, if_true]
  split <;> rfl

theorem State.readFor_ldc (hdf : lf.df = false) (hh : inHost a.pa = false) (hm : s.modeOf lf = 0 ∨ s.modeOf lf = 2)
    (hk : a.kind = .ldc) : (s.readFor a false).2 = s.keepCopy (s.constOf a) (a.loc / 128) := by
  have h1 : s.modeOf lf ≠ 1 := by omega
  have h3 : s.modeOf lf ≠ 3 := by omega
  simp only [State.readFor, hl, State.missValue, hdf, hh, h1, h3, hk, Bool.false_eq_true, if_false, if_true, or_self]

end

/-! ### What a read leaves apart -/

@[simp] theorem State.keepCopy_apart (s : State) (h : Holder) (line : ℕ) : (s.keepCopy h line).apart = s.apart := by
  unfold State.keepCopy
  extract_lets t mine src u
  have hu : u.apart = s.apart := by
    simp only [u]
    split
    · split <;> rfl
    · rfl
  exact (State.addSnap_apart ..).trans hu

@[simp] theorem State.fillL1_apart (s : State) (core : ℕ) (lf : Leaf) (pa loc : ℕ) (nt : Bool) :
    (s.fillL1 core lf pa loc nt).apart = s.apart := by
  unfold State.fillL1
  split
  · dsimp only
    split <;> simp
  · rw [State.guest_apart]
    split <;> simp

@[simp] theorem State.fillFor_apart (s : State) (a : Access) (lf : Leaf) : (s.fillFor a lf).apart = s.apart := by
  unfold State.fillFor
  dsimp only
  split
  · exact State.fillL1_apart ..
  · split
    · rfl
    · exact State.guest_apart ..

@[simp] theorem State.fillAway_apart (s : State) (core dev pa loc : ℕ) (nt : Bool) :
    (s.fillAway core dev pa loc nt).apart = s.apart := by
  unfold State.fillAway
  split <;> simp

@[simp] theorem State.guestAway_apart (s : State) (core dev pa loc : ℕ) (nt : Bool) :
    (s.guestAway core dev pa loc nt).apart = s.apart := by
  simp [State.guestAway]

theorem State.apart_withSnaps (s : State) (l : List Snap) : State.apart { s with m.snaps := l } = s.apart := rfl

@[simp] theorem State.fillRemote_apart (s : State) (a : Access) : (s.fillRemote a).2.apart = s.apart := by
  unfold State.fillRemote
  extract_lets core line g nt
  split
  · split
    · dsimp only
      split
      · exact State.fillAway_apart ..
      · exact (State.apart_withSnaps _ _).trans (State.fillAway_apart ..)
    · simp
  · simp

@[simp] theorem State.missValue_apart (s : State) (a : Access) (lf : Leaf) : (s.missValue a lf).2.apart = s.apart := by
  unfold State.missValue
  split
  · rfl
  · split
    · exact State.keepCopy_apart ..
    · split
      · exact State.fillFor_apart ..
      · exact State.fillRemote_apart ..
      · rfl

@[simp] theorem State.readFor_apart (s : State) (a : Access) (hit : Bool) : (s.readFor a hit).2.apart = s.apart := by
  unfold State.readFor
  split
  · rfl
  · split
    · rfl
    · exact State.missValue_apart ..

@[simp] theorem State.afterRead_apart (s : State) (a : Access) (hit : Bool) : (s.afterRead a hit).apart = s.apart := by
  unfold State.afterRead
  split <;> simp

/-! ### The accesses that a read performs -/

theorem State.acc?_of_acc {s t : State} (h : t.k.acc = s.k.acc) (id : ℕ) : t.acc? id = s.acc? id :=
  congrArg (List.find? fun b : Access => decide (b.id = id)) h

theorem State.armRead_acc (s : State) (c : SliceId) (loc n : ℕ) : (s.armRead c loc n).k.acc = s.k.acc := by
  unfold State.armRead
  split
  · split <;> rfl
  · rfl

theorem State.fixLoad_acc? (s : State) (a : Access) (hit : Bool) (id : ℕ) : (s.fixLoad a hit).acc? id =
    let u := s.beforeLoad a
    ((u.afterRead a hit).modAcc a.id (Access.performedWith (u.readFor a hit).1 (u.poisonFor a))).acc? id := by
  rw [State.fixLoad_eq]
  dsimp only
  split
  · exact State.acc?_of_acc (State.armRead_acc ..) id
  · rfl

/-- A load that is performed holds what it read (R159, R376). -/
theorem State.fixLoad_same {s : State} {a b : Access} (h : s.acc? a.id = some b) (hit : Bool) :
    let u := s.beforeLoad a
    ∃ c, (s.fixLoad a hit).acc? a.id = some c ∧ c.phase = .performed ∧ c.value = (u.readFor a hit).1 ∧
      c.poisoned = u.poisonFor a := by
  intro u
  have hapart : (u.afterRead a hit).apart = s.apart := by simp [u]
  obtain ⟨v, hv⟩ := State.acc?_of_apart hapart h
  have hid : ({ b with void := v } : Access).id = a.id := State.acc?_id hv
  rw [State.fixLoad_acc?]
  exact ⟨_, State.acc?_modAcc hv rfl, rfl, rfl, rfl⟩

/-- A load that is performed leaves every other access in its phase (R159). -/
theorem State.fixLoad_other {s : State} {a b : Access} {id : ℕ} (h : s.acc? id = some b) (hne : id ≠ a.id) (hit : Bool) :
    ∃ c, (s.fixLoad a hit).acc? id = some c ∧ c.phase = b.phase := by
  have hapart : ((s.beforeLoad a).afterRead a hit).apart = s.apart := by simp
  obtain ⟨v, hv⟩ := State.acc?_of_apart hapart h
  rw [State.fixLoad_acc?]
  dsimp only
  rw [State.acc?_modAcc_ne _ hne (f := Access.performedWith _ _) fun _ => rfl]
  exact ⟨_, hv, rfl⟩

/-- Loads performed one after the other: one that is there is performed in the end, if it was before or is among them. -/
theorem State.foldl_fixLoad {l : List Access} {s : State} {id : ℕ} {b : Access} (h : s.acc? id = some b)
    (hb : b.phase = .performed ∨ id ∈ l.map Access.id) :
    ∃ c, (l.foldl (fun (t : State) x => t.fixLoad x true) s).acc? id = some c ∧ c.phase = .performed := by
  induction l generalizing s b with
  | nil => exact ⟨b, h, hb.resolve_right List.not_mem_nil⟩
  | cons x l ih =>
    by_cases hx : id = x.id
    · obtain ⟨c, hc, hp, -⟩ := State.fixLoad_same (hx ▸ h) true
      exact ih (hx ▸ hc) (.inl hp)
    · obtain ⟨c, hc, hp⟩ := State.fixLoad_other h hx true
      exact ih hc (hb.imp hp.trans fun hm => (List.mem_cons.1 hm).resolve_left hx)

theorem State.acc?_of_mem {s : State} {b : Access} (h : b ∈ s.k.acc) : ∃ c, s.acc? b.id = some c :=
  Option.isSome_iff_exists.1 (List.find?_isSome.2 ⟨b, h, decide_eq_true rfl⟩)

/-- With an LDC every lane that shares its line is performed (R166). -/
theorem State.performLoad_mates {s : State} {a b : Access} (hmem : b ∈ s.k.acc) (hm : b ∈ s.mates a) (hne : b.id ≠ a.id)
    (hit : Bool) : ∃ c, (s.performLoad a hit).acc? b.id = some c ∧ c.phase = .performed := by
  obtain ⟨c, hc⟩ := State.acc?_of_mem hmem
  obtain ⟨d, hd, -⟩ := State.fixLoad_other hc hne hit
  exact State.foldl_fixLoad hd (.inr (List.mem_map_of_mem (List.mem_filter.2 ⟨hm, decide_eq_true hne⟩)))

theorem State.mates_load {s : State} {a : Access} {sx : Bool} (h : a.kind = .load sx) : s.mates a = [a] :=
  State.mates_self (by rw [h]; nofun) fun op => by rw [h]; nofun

theorem State.mem_of_mem_mates {s : State} {a b : Access} (h : a.kind = .ldc) (hb : b ∈ s.mates a) : b ∈ s.k.acc := by
  simp only [State.mates, h] at hb
  exact (List.mem_filter.1 hb).1

/-! ### An atomic at its home -/

/-- What the state of an atomic has done before it reads its word: a release at system scope, the loads of others undone
(R319, R334). -/
def State.beforeAtom (s : State) (a : Access) : State := (s.releaseSystem a).squash a.lane

theorem State.beforeAtom_keeps (s : State) (a : Access) : (s.beforeAtom a).m.mem = s.m.mem ∧
    (s.beforeAtom a).m.poison = s.m.poison ∧ (s.beforeAtom a).m.retiredPc = s.m.retiredPc ∧ (s.beforeAtom a).f = s.f ∧
    (s.beforeAtom a).u = s.u ∧ (s.beforeAtom a).x = s.x ∧ (s.beforeAtom a).r = s.r := by
  unfold State.beforeAtom State.releaseSystem
  split <;> exact ⟨rfl, rfl, rfl, rfl, rfl, rfl, rfl⟩

theorem State.releaseSystem_acc (s : State) (a : Access) : (s.releaseSystem a).k.acc = s.k.acc := by
  unfold State.releaseSystem
  split <;> rfl

/-- Undoing the loads that went ahead leaves the accesses of the lane itself (R319). -/
theorem State.acc?_squash {s : State} {id : ℕ} {a : Access} (h : s.acc? id = some a) : (s.squash a.lane).acc? id = some a := by
  have hl : ∀ l : List Access, l.find? (fun b => decide (b.id = id)) = some a → (l.map fun b =>
      if some b.lane ≠ some a.lane ∧ (b.lane.t = a.lane.t ∨ s.coreOf b.lane.group / 8 = s.coreOf a.lane.group / 8) ∧
        s.runsAhead b then { b with phase := .issued, spec := false, sent := none } else b).find?
      (fun b => decide (b.id = id)) = some a := fun l => by
    induction l with
    | nil => exact fun h => h
    | cons b l ih =>
      intro h
      rw [List.map_cons]
      by_cases hb : b.id = id
      · obtain rfl : b = a := by simpa [hb] using h
        simp [hb]
      · simp only [List.find?_cons, hb, decide_false] at h
        rw [List.find?_cons_of_neg, ih h]
        split <;> simpa using hb
  exact hl _ h

theorem State.acc?_beforeAtom {s : State} {id : ℕ} {a : Access} (h : s.acc? id = some a) :
    (s.beforeAtom a).acc? id = some a :=
  State.acc?_squash ((State.acc?_of_acc (s.releaseSystem_acc a) id).trans h)

/-- The line that a home keeps against an access is no copy of the memory-side cache, so that a release leaves it (R334). -/
theorem State.snapOf_releaseSystem (s : State) (a : Access) (pa line : ℕ) :
    (s.releaseSystem a).snapOf (.atPa pa) line = s.snapOf (.atPa pa) line := by
  unfold State.releaseSystem
  split
  · simp only [State.snapOf, State.dropSnaps, List.find?_filter]
    congr 1
    funext c
    by_cases hc : c.holder = .atPa pa
    · simp [hc]
    · simp [hc]
  · rfl

/-- What comes before an atomic leaves the word that it reads (R160, R334). -/
theorem State.homeLoad_beforeAtom (s : State) (a : Access) : (s.beforeAtom a).homeLoad a = s.homeLoad a := by
  obtain ⟨hmem, -, -, -, hu, -, -⟩ := s.beforeAtom_keeps a
  have hload := State.load_of_mem hmem a.loc a.size
  have hvia : (s.beforeAtom a).viaSnap (.atPa (a.pa / 128 * 128)) a.loc a.size =
      s.viaSnap (.atPa (a.pa / 128 * 128)) a.loc a.size := by
    unfold State.viaSnap
    rw [show (s.beforeAtom a).snapOf _ _ = _ from s.snapOf_releaseSystem a _ _, hload, hmem]
  have hchoose : (s.beforeAtom a).choose a.id = s.choose a.id := by simp only [State.choose, hu]
  unfold State.homeLoad
  rw [hchoose, hvia, hload]

theorem State.poisonFor_beforeAtom (s : State) (a : Access) : (s.beforeAtom a).poisonFor a = s.poisonFor a := by
  obtain ⟨-, hp, hr, hf, hu, -, -⟩ := s.beforeAtom_keeps a
  simp only [State.poisonFor, State.poisoned, hp, hu, State.retiredAt_congr hf hr]

theorem State.store_acc (s : State) (a v n : ℕ) : (s.store a v n).k.acc = s.k.acc := by
  have hbytes : (s.writeBytes a v n).k.acc = s.k.acc := by
    induction n generalizing s a v with
    | zero => rfl
    | succ n ih => exact ih (s.writeByte a _) _ _
  exact hbytes

theorem State.addSnap_acc (s : State) (h : Holder) (line : ℕ) : (s.addSnap h line).k.acc = s.k.acc := by
  unfold State.addSnap
  split <;> rfl

theorem State.writeFor_acc (s : State) (a : Access) (v : ℕ) : (s.writeFor a v).k.acc = s.k.acc := by
  unfold State.writeFor
  dsimp only
  split
  · exact State.store_acc ..
  · split
    · rfl
    · split
      · exact State.store_acc ..
      · split
        · refine (State.store_acc ..).trans ?_
          split
          · rfl
          · exact State.addSnap_acc ..
        · exact State.store_acc ..
        · exact State.store_acc ..

/-- The word that an atomic at its home reads (R160, R259). -/
def State.atomOld (s : State) (a : Access) (lf : Leaf) : ℕ :=
  if s.modeOf lf = 0 ∧ inHost a.pa = false then s.homeLoad a else s.load a.loc a.size

/-- An atomic reads its word and writes its result in one step (R160). -/
theorem State.performAtom_write {s : State} {a : Access} {lf : Leaf} (hl : a.leaf = some lf) (hp : s.poisonFor a = false)
    (op : AtomOp) : s.performAtom a op =
      ((s.beforeAtom a).writeFor a (atomResult op (8 * a.size) (s.atomOld a lf) a.data a.data2)).modAcc a.id
        (Access.performedWith (s.atomOld a lf) false) := by
  obtain ⟨hmem, -, -, hf, -, -, -⟩ := s.beforeAtom_keeps a
  have hold : s.atomOld a lf = if (s.beforeAtom a).modeOf lf = 0 ∧ (!inHost a.pa) = true then (s.beforeAtom a).homeLoad a
      else (s.beforeAtom a).load a.loc a.size := by
    simp only [State.modeOf_congr hf, s.homeLoad_beforeAtom, State.load_of_mem hmem, Bool.not_eq_true', State.atomOld]
  have hbad := (s.poisonFor_beforeAtom a).trans hp
  have hbefore : (s.releaseSystem a).squash a.lane = s.beforeAtom a := rfl
  simp only [State.performAtom, hl, hbefore, hbad, ← hold, Bool.false_eq_true, if_false]
  rfl

/-! ### The events of an access at its home -/

section
variable {s : State} {a : Access} {lf : Leaf} (ha : s.acc? s.u.ev.id = some a)
include ha

theorem execRecallRelease_done (hl : a.leaf = some lf) (hph : a.phase = .recalled) (hdone : s.recallDone a = true) :
    exec .recallRelease s = .next (s.serve a lf) := by
  simp only [exec, execRecallRelease, ha, hl, hph, hdone, if_true]

theorem execRecallRetry_due {u : ℕ} (hph : a.phase = .retry u) (hu : u ≤ s.u.clk) :
    exec .recallRetry s = .next (s.modMates a fun b => { b with phase := .issued }) := by
  simp only [exec, execRecallRetry, ha, hph, hu, if_true]

theorem execRemoteStoreAck_remote (hph : a.phase = .remote) :
    exec .remoteStoreAck s = .next ((s.acquireCopies a).finish a) := by
  simp only [exec, execRemoteStoreAck, ha, hph, if_true]

theorem execDeliveryTimeout_late {c : ℕ} (hsent : a.sent = some c) (hdev : a.dev ≠ s.f.dev) (hheld : a.isHeld = false)
    (hfail : a.failed = 0) (hk : a.kind ≠ .fetch) (hlate : c + 2 ^ 24 ≤ s.u.clk) :
    exec .deliveryTimeout s = .next (s.modAcc a.id fun b => { b with phase := .performed, failed := 2 }) := by
  have hgo : ¬(a.dev = s.f.dev ∨ a.isHeld = true ∨ a.failed ≠ 0 ∨ s.u.clk < c + 2 ^ 24) := by
    simp only [hdev, hheld, hfail, Nat.not_lt.2 hlate, Bool.false_eq_true, ne_eq, not_true_eq_false, or_self,
      not_false_eq_true]
  simp only [exec, execDeliveryTimeout, ha, hsent, if_neg hgo, hk, if_false]

theorem execHomeAccess_atom (hl : a.leaf = some lf) {op : AtomOp} (hph : a.phase = .atHome) (hack : s.acked a = true)
    (hk : a.kind = .atom op) : exec .homeAccess s = .next (s.performAtom a op) := by
  simp only [exec, execHomeAccess, ha, hl, hph, hack, hk, Bool.not_true, Bool.false_eq_true, if_false]

end

/-- Settles O47: an access at its home goes the way that its kind, its path and the tenures there leave it; a load holds what
its home shows, and an atomic changes exactly its word. -/
theorem homeAccesses : Obligations.HomeAccesses := by
  unfold Obligations.HomeAccesses
  intro s a lf ha hl
  have hid := State.acc?_id ha
  have haid : s.acc? a.id = some a := hid ▸ ha
  refine ⟨fun hph happ => ?reach, fun op hk => State.reachHome_cache hk, fun hc => ?home, fun hk => ?load,
    execRecallRelease_done ha hl, fun u => execRecallRetry_due ha, execRemoteStoreAck_remote ha,
    fun c => execDeliveryTimeout_late ha, fun op => execHomeAccess_atom ha hl, fun op hw hph hack hk hp => ?atom⟩
  case reach =>
    have hex := execHomeAccess_issued ha hl hph happ
    refine ⟨fun hno => hex.trans (if_pos hno), fun hall hmay => ?_, fun hnot hmay => ?_, fun op hk => State.mayReach_cache hk _,
      fun hk => State.mayReach_ldc hk hl _, State.mayReach_access, State.pathAhead_own,
      fun n hdev hport => State.pathAhead_replaying hdev hport, fun b c hb hbph hbdev haway hcore htier hbefore hbapp hmay hbl =>
        State.pathAhead_request hb hbph hbdev haway hcore htier hbefore hbapp hmay hbl⟩
    · simpa only [hmay, hall, Bool.true_eq_false, if_false, if_true] using hex
    · simpa only [hmay, hnot, Bool.true_eq_false, Bool.false_eq_true, if_false] using hex
  case home =>
    have hreach := State.reachHome_access (s := s) (lf := lf) hc
    refine ⟨fun hno hguest => hreach.trans (if_pos ⟨hno, hguest⟩), fun hgo => ?_⟩
    have hserved : ¬(s.reachable (s.devOf lf) = false ∧ s.guestServes a lf = false) := fun ⟨hr, hg⟩ =>
      hgo.elim (fun h => nomatch h.symm.trans hr) fun h => nomatch h.symm.trans hg
    rw [if_neg hserved] at hreach
    exact ⟨fun hnone => hreach.trans (if_pos hnone), fun hsome hroom => hreach.trans ((if_neg hsome).trans (if_pos hroom)),
      fun hsome hfull => hreach.trans ((if_neg hsome).trans (if_neg (Nat.not_lt.2 hfull)))⟩
  case load =>
    refine ⟨State.serve_load hk, fun hit => State.fixLoad_same haid hit, State.readFor_home hl, State.readFor_own hl,
      State.readFor_ldc hl, fun hit b hb hne => ?_⟩
    obtain ⟨sx, hload⟩ | hldc := hk
    · exact absurd (congrArg Access.id (List.mem_singleton.1 (State.mates_load hload ▸ hb))) hne
    · exact State.performLoad_mates (State.mem_of_mem_mates hldc hb) hb hne hit
  case atom =>
    intro old v
    have hex := execHomeAccess_atom ha hl hph hack hk
    rw [State.performAtom_write hl hp] at hex
    obtain ⟨hmem, -, hr, hf, -, hx, hregs⟩ := s.beforeAtom_keeps a
    have hapart := (s.beforeAtom a).writeFor_apart a v
    have hret : ∀ lf', a.leaf = some lf' → (s.beforeAtom a).retiredAt lf' a.pa = false := fun lf' hl' => by
      rw [State.retiredAt_congr hf hr]
      simp only [State.poisonFor, hl', Bool.or_eq_false_iff] at hp
      exact hp.2.1
    have hacc : ((s.beforeAtom a).writeFor a v).acc? a.id = some a :=
      (State.acc?_of_acc (State.writeFor_acc _ a v) a.id).trans (State.acc?_beforeAtom haid)
    refine ⟨_, hex, State.acc?_modAcc hacc rfl, fun i hi => ?_, fun b hb => ?_, ?_, ?_, ?_, ?_⟩
    · exact State.writeFor_inside v hret (State.wf_of_mem hw hmem) hi
    · exact (State.writeFor_outside v hret hb).trans (State.load_of_mem hmem b 1)
    · exact (congrArg (fun p : Apart => p.r.v) hapart :).trans (congrArg Regs.v hregs :)
    · exact (congrArg (fun p : Apart => p.r.sr) hapart :).trans (congrArg Regs.sr hregs :)
    · exact (congrArg (fun p : Apart => p.r.mr) hapart :).trans (congrArg Regs.mr hregs :)
    · exact (congrArg Apart.x hapart :).trans hx

end Sys2Proof.Machine

/-! SUPPORT. The other instructions of majors 0x17 and 0x18 (R189, R191, R194 to R202): the outcomes of their units' bodies. -/

namespace Sys2Proof.Machine

/-! ### The format register (R200) -/

/-- The loop that writes F slice by slice. -/
theorem State.foldl_setF (v : BitVec 3) (cs : List SliceId) (t0 : State) :
    let t := cs.foldl (fun u c => u.modSlc c fun x => { x with f := v }) t0
    (∀ x, t.slc x = if x ∈ cs then { t0.slc x with f := v } else t0.slc x) ∧ { t with r.sl := t0.r.sl } = t0 := by
  induction cs generalizing t0 with
  | nil => exact ⟨fun _ => (if_neg List.not_mem_nil).symm, rfl⟩
  | cons a cs ih =>
    obtain ⟨hslc, hrest⟩ := ih (t0.modSlc a fun x => { x with f := v })
    refine ⟨fun x => (hslc x).trans ?_, congrArg (fun u : State => { u with r.sl := t0.r.sl }) hrest⟩
    rw [State.slc_modSlc]
    by_cases hax : a = x
    · simp [hax]
    · simp [hax, Ne.symm hax]

theorem meanSetfmt_body (n : OpImm) (s : State) :
    ∃ t, (meanSetfmt n s).body s.issued = .ok t ∧ (∀ x ∈ s.slices, (t.slc x).f = BitVec.ofNat 3 (s.immU n.imm)) ∧
      (∀ x, { t.slc x with f := (s.slc x).f } = s.slc x) ∧ { t with r.sl := s.r.sl } = s.issued := by
  obtain ⟨hslc, hrest⟩ := State.foldl_setF (BitVec.ofNat 3 (s.immU n.imm)) s.issued.slices s.issued
  refine ⟨_, rfl, fun x hx => ?_, fun x => ?_, hrest⟩
  · rw [← State.issued_slices] at hx
    exact congrArg Slice.f ((hslc x).trans (if_pos hx))
  · refine (congrArg (fun y : Slice => { y with f := (s.slc x).f }) (hslc x)).trans ?_
    split <;> rfl

/-! ### MSCALE (R194) -/

/-- Accesses that are issued leave the records of the groups. -/
theorem State.memBody_groups {s t : State} {o : MemOp} (h : s.memBody o = .ok t) : t.r.gr = s.r.gr := by
  simp only [State.memBody] at h
  split at h
  · cases h
  · cases h
    obtain ⟨⟨_, _, _, _, _, _, _, _, _, hissue⟩, -⟩ := s.issueAccesses_spec o (s.plans o)
    rw [hissue]

theorem meanMscale_fault {s : State} {m : OpMC} {f : FaultInfo}
    (h : State.memFault (mscaleOp m) (s.plans (mscaleOp m)) = some f) : (meanMscale m s).body s.issued = .trap f := by
  simp only [meanMscale, State.memBody, State.issued_plans, h]

theorem meanMscale_arms {s : State} {m : OpMC} (h : State.memFault (mscaleOp m) (s.plans (mscaleOp m)) = none) :
    ∃ t, (meanMscale m s).body s.issued = .ok t ∧ s.Accesses { t with r.gr := s.r.gr } (mscaleOp m) ∧
      t.grp s.gid = { s.grp s.gid with armed := true, mscBusy := (s.grp s.gid).mscBusy + s.elanes.length } ∧
      ∀ g, g ≠ s.gid → t.grp g = s.grp g := by
  obtain ⟨v, hv, hacc⟩ := s.memBody_accesses (mscaleOp m) h
  have hgr : v.r.gr = s.r.gr := (State.memBody_groups hv :)
  have hgrp : v.grp = s.grp := by
    funext g
    simp only [State.grp, hgr]
  refine ⟨v.modGrp s.gid fun g => { g with armed := true, mscBusy := g.mscBusy + s.elanes.length }, ?_, ?_, ?_,
    fun g hg => ?_⟩
  · simp only [meanMscale, hv, State.issued_elanes]
    rfl
  · have hback : { v.modGrp s.gid fun g => { g with armed := true, mscBusy := g.mscBusy + s.elanes.length } with
        r.gr := s.r.gr } = v := congrArg (fun gr => { v with r.gr := gr }) hgr.symm
    rwa [hback]
  · rw [State.grp_modGrp, if_pos rfl, hgrp]
  · rw [State.grp_modGrp, if_neg (Ne.symm hg), hgrp]

/-! ### CONSORT (R191) -/

theorem meanConsort_ok {s : State} {c : OpConsort} (h : s.consortOk (s.getVs (s.lane 0) c.va.toNat 2) = true) :
    (meanConsort c s).body s.issued =
      .ok (s.issued.modGrp s.gid fun g => { g with consort := BitVec.ofNat 48 (s.getVs (s.lane 0) c.va.toNat 2) }) := by
  rw [← State.issued_getVs] at h ⊢
  exact if_pos h

theorem meanConsort_bad {s : State} {c : OpConsort} (h : s.consortOk (s.getVs (s.lane 0) c.va.toNat 2) = false) :
    (meanConsort c s).body s.issued = .trap { code := RENDEZVOUS } := by
  rw [← State.issued_getVs] at h
  exact if_neg (Bool.eq_false_iff.1 h)

/-! ### XQT (R198) -/

theorem meanXqt_format {s : State} {a : OpA1} (hty : s.ty = tyDx)
    (h : s.sameF = false ∨ s.dxOf = none ∨ s.dxOf = some 0) :
    (meanXqt a s).body s.issued = .trap { code := FORMAT } := by
  refine if_pos ⟨hty, ?_⟩
  change s.dxOf = none ∨ s.dxOf.getD 0 = 0 ∨ (!s.sameF) = true
  rcases h with h | h | h <;> simp [h]

/-- The transpose of INT4 elements. -/
theorem meanXqt_int4 {s : State} {a : OpA1} (hty : s.ty = tyS4) :
    (meanXqt a s).body s.issued =
      .ok (s.issued.startMat (s.coreOf s.gid) s.gid a.vd.toNat 8 (occupancy 4 s.gw) 12
        ((List.range s.gw).map fun i => (i, joinElems 4 (fun j =>
          elem (rowOf (s.fragRegs s.gid a.va.toNat 8) (transposed s.gw 64 i j).1) (transposed s.gw 64 i j).2 4) 64))) := by
  have hdx : ¬ (s.ty = tyDx ∧ (s.dxOf = none ∨ s.dxOf.getD 0 = 0 ∨ (!s.sameF) = true)) := fun h => by
    simp [hty] at h
  refine (if_neg hdx).trans ?_
  simp only [hty, if_true]
  rfl

/-- Micro-block b of row i of the transpose of DX elements, encoded anew: its elements and its exponent entry. -/
def State.xqtBlock (s : State) (a : OpA1) (k i b : Nat) : Nat × Nat :=
  dxPack k (s.dxPolicy (s.slice 0)) (fun _ => (s.roundOf s.lead).mode)
    ((List.range 32).map fun j => matElem tyDx k
      (rowOf (s.fragRegs s.gid a.va.toNat (aRegs tyDx k)) (transposed s.gw 64 i (32 * b + j)).1)
      (transposed s.gw 64 i (32 * b + j)).2)

theorem meanXqt_dx {s : State} {a : OpA1} {k : Nat} (hty : s.ty = tyDx) (hf : s.sameF = true) (hk : s.dxOf = some k)
    (h0 : k ≠ 0) :
    (meanXqt a s).body s.issued =
      .ok (s.issued.startMat (s.coreOf s.gid) s.gid a.vd.toNat (aRegs tyDx k) (occupancy 4 s.gw) 12
        ((List.range s.gw).map fun i => (i, joinElems (32 * aRegs tyDx k / 2)
          (fun b => (s.xqtBlock a k i b).1 + 2 ^ (32 * (aRegs tyDx k / 2 - 1)) * (s.xqtBlock a k i b).2) 2))) := by
  have hok : ¬ (s.ty = tyDx ∧ (s.dxOf = none ∨ s.dxOf.getD 0 = 0 ∨ (!s.sameF) = true)) := by
    simp [hf, hk, h0]
  refine (if_neg hok).trans ?_
  have h4 : ¬ tyDx = tyS4 := by decide
  simp only [hty, hk, Option.getD_some, if_neg h4, State.issued_lead]
  rfl

/-- Settles O35: the instructions that give registers deliver by State.deliverAll, SETFMT and MSCALE by their own loops, and
each of the others does what its body's case says. -/
theorem matrixControl : Obligations.MatrixControl := by
  unfold Obligations.MatrixControl
  intro s p a o d n c m
  refine ⟨runsTo_writesV rfl rfl fun l => ?spcmp, runsTo_writesV rfl rfl fun l => ?smxacc,
    runsTo_writesV rfl rfl fun l => rfl, runsTo_writesV rfl rfl fun l => rfl, runsTo_of rfl fun _ => meanSetfmt_body n s,
    fun h => runsTo_of rfl fun _ => ⟨_, meanConsort_ok h, rfl⟩, fun h hrun => exec_trap rfl hrun (meanConsort_bad h),
    fun h => runsTo_of rfl fun _ => meanMscale_arms h, fun f h hrun => exec_trap rfl hrun (meanMscale_fault h),
    runsTo_of rfl fun _ => ⟨_, rfl, rfl⟩, runsTo_of rfl fun _ => ⟨_, rfl, rfl⟩,
    fun hty h hrun => exec_trap rfl hrun (meanXqt_format hty h),
    fun hty => runsTo_of rfl fun _ => ⟨_, meanXqt_int4 hty, rfl⟩,
    fun k hty hf hk h0 => runsTo_of rfl fun _ => ⟨_, meanXqt_dx hty hf hk h0, rfl⟩, runsTo_of rfl fun _ => ⟨_, rfl, rfl⟩⟩
  case spcmp =>
    rw [State.issued_getVs]
    rfl
  case smxacc =>
    have hone : fp32.bias * 2 ^ fp32.fb = 0x3F800000 := by decide
    rw [hone]
    rfl

end Sys2Proof.Machine

/-! SUPPORT. A discarded deposit whose group has exited (R193, R217): its late RENDEZVOUS finds no split to take it. -/

namespace Sys2Proof.Machine

/-- Under ABORT_GRID a deposit's late RENDEZVOUS that finds no split takes the splits of its grid with it (R217). -/
theorem State.rendezvousLate_orphan {s : State} {d : Deposit} (row : Nat)
    (hnone : (s.x.splits.find? fun p => decide (p.team = d.team ∧ p.group = d.group)) = none)
    (hpolicy : (s.launch d.team).policy = .abortGrid) :
    (s.rendezvousLate row d).x.splits = s.x.splits.filter fun p => !s.inGrid (s.team d.team).grid p.team := by
  simp only [State.rendezvousLate, hnone, State.orphanFault, hpolicy, if_true]
  rfl

/-- Discarding a consort's one deposit gives its group the late RENDEZVOUS. -/
theorem State.discardLatch_single {s : State} {d : Deposit} (hlatch : s.e.latch = [d]) (row : Nat) :
    (s.discardLatch d.team d.consort row).x.splits = (s.rendezvousLate row d).x.splits := by
  have hsame : sameConsort d.consort d.consort = true := by simp [sameConsort]
  have hmine : [d].filter (fun x => decide (x.team = d.team) && sameConsort x.consort d.consort) = [d] := by simp [hsame]
  simp only [State.discardLatch, hlatch, hmine, List.foldl_cons, List.foldl_nil]

/-- What group 0 of team 2 has deposited for its consort with group 1. -/
def leftDeposit : Deposit :=
  { team := 2, group := 0, sid := 1, unitPc := 0, consort := BitVec.ofNat 48 (2 * 2 ^ 42 + 2 ^ 7), key := [], dx := 0
    a := [], b := [], meta_ := [], vd := 0, vc := 0, since := 0 }

/-- Team 2, under ABORT_GRID, when its group 0 has deposited and exited while its group 1 runs on. -/
def depositorGone : State :=
  { State.reset with
    x.grids := [{ uid := 1, launch := { lanes := 32, policy := .abortGrid } }]
    x.teams := [{ uid := 2, grid := 1 }]
    x.splits := [{ sid := 3, team := 2, group := 1, tix := 0, pc := 0, slices := [0, 1, 2, 3] }]
    e.latch := [leftDeposit] }

/-- The discard in that state leaves the split table empty. -/
theorem depositorGone_discarded : (depositorGone.discardLatch 2 leftDeposit.consort 4).x.splits = [] :=
  (State.discardLatch_single (d := leftDeposit) rfl 4).trans
    (State.rendezvousLate_orphan (s := depositorGone) (d := leftDeposit) 4 rfl rfl)

/-- Refutes O49: where a depositing group has exited, no split takes its late RENDEZVOUS, and under ABORT_GRID the grid is
aborted (R217), so the split of the team's other group does not stay in the split table as the last clause says without a
condition on the deposits. -/
theorem not_matrixEvents : ¬ Obligations.MatrixEvents := by
  unfold Obligations.MatrixEvents
  intro h
  obtain ⟨-, -, -, hdiscard⟩ := h depositorGone
  obtain ⟨-, -, hsplits, -⟩ := hdiscard 2 4 leftDeposit.consort
  rw [depositorGone_discarded] at hsplits
  exact absurd hsplits.symm (List.cons_ne_nil _ _)

end Sys2Proof.Machine

/-! SUPPORT. Taking a fault other than under HANDLER (R217, R219): one lemma per outcome. -/

namespace Sys2Proof.Machine

section
variable {s : State} {p : Split} (f : FaultInfo) (next : Pc) (hp : s.split? p.sid = some p)
include hp

/-- With DBGEN the group stops where the split resumes, under every policy (R219). -/
theorem State.takeFault_dbgen (hd : (s.team p.team).dbgen = true) :
    s.takeFault p.sid f next = ((s.latchRec p (s.faultWords p f (s.inHandler p))).stop p).modSplit p.sid fun x =>
      { x with pc := f.resume next, waitFrom := none, park := .run } := by
  simp only [State.takeFault, hp, hd, if_true]

/-- A fault in handler mode is nested, and ends the grid under every policy (R217). -/
theorem State.takeFault_nested (hd : (s.team p.team).dbgen = false) (hn : s.inHandler p = true) :
    s.takeFault p.sid f next =
      (s.latchRec p (s.faultWords p f true)).abortGrid (s.team p.team).grid (s.faultWords p f true) := by
  simp only [State.takeFault, hp, hd, hn, Bool.false_eq_true, if_false, if_true]

variable (hd : (s.team p.team).dbgen = false) (hn : s.inHandler p = false)
include hd hn

theorem State.takeFault_abortGrid (hpol : (s.launch p.team).policy = .abortGrid) :
    s.takeFault p.sid f next =
      (s.latchRec p (s.faultWords p f false)).abortGrid (s.team p.team).grid (s.faultWords p f false) := by
  simp only [State.takeFault, hp, hd, hn, hpol, Bool.false_eq_true, if_false]

/-- A HANDLER policy without a TRAP_PC acts as ABORT_GRID (R339). -/
theorem State.takeFault_noTrapPc (hpol : (s.launch p.team).policy = .handler) (ht : (s.launch p.team).trapPc = 0) :
    s.takeFault p.sid f next =
      (s.latchRec p (s.faultWords p f false)).abortGrid (s.team p.team).grid (s.faultWords p f false) := by
  simp only [State.takeFault, hp, hd, hn, hpol, ht, Bool.false_eq_true, if_false, if_true]

theorem State.takeFault_replay (hpol : (s.launch p.team).policy = .replay) :
    s.takeFault p.sid f next =
      ((s.latchRec p (s.faultWords p f false)).modSplit p.sid fun x =>
        { x with park := .replay f.unitPc (if f.late then f.resume next else next), pc := f.unitPc, waitFrom := none }).postFq
        { die := s.coreOf ⟨p.team, p.group⟩ / 192, words := s.faultWords p f false, kind := .replay, sid := p.sid
          code := f.code } := by
  simp only [State.takeFault, hp, hd, hn, hpol, Bool.false_eq_true, if_false]

end

/-- Settles O24: the record is latched first, and each outcome of State.takeFault is a lemma above. -/
theorem faultPolicies : Obligations.FaultPolicies := by
  unfold Obligations.FaultPolicies
  intro s p f next hp
  refine ⟨s.latchRec_all p _, State.takeFault_dbgen f next hp, fun hd => ⟨fun hn => ?nested, fun hn => ?first⟩⟩
  case nested =>
    rw [hn]
    exact State.takeFault_nested f next hp hd hn
  case first =>
    rw [hn]
    exact ⟨State.takeFault_abortGrid f next hp hd hn, State.takeFault_noTrapPc f next hp hd hn,
      State.takeFault_replay f next hp hd hn⟩

end Sys2Proof.Machine

/-! SUPPORT. Arrivals at rounds (R204, R311, R345, R430): the bodies of BAR, GRIDSYNC, PODSYNC and the SETTLEs. -/

namespace Sys2Proof.Machine

@[simp] theorem State.issued_myGrid (s : State) : s.issued.myGrid = s.myGrid := rfl
@[simp] theorem State.issued_jobOf (s : State) : s.issued.jobOf = s.jobOf := rfl

/-- SETTLE.L parks the split for its executing lanes' records, without an arrival (R311). -/
theorem meanSettleL_body {s : State} (o : OpD) (h : s.issues (meanSettleL o s).use = true) :
    (meanSettleL o s).body s.issued = .ok
      ((if s.zi = true then (s.act.filter fun l => !s.maskOk l).foldl (fun u l => u.setV (s.lane l) o.vd.toNat 0) s.issued
        else s.issued).modSplit s.u.iss.sid fun p =>
          { p with park := .settle 0 o.vd.toNat s.elanes s.u.seqNo s.u.iss.unitPc true }) := by
  simp only [meanSettleL, (State.issued_cur_sid h).1, State.issued_act, State.issued_elanes]
  rfl

theorem meanSettleT_body (s : State) (o : OpD) :
    (meanSettleT o s).body s.issued = .ok (s.issued.arriveAt (.settleT s.u.iss.team)
      (.settle 1 o.vd.toNat s.act s.u.seqNo s.u.iss.unitPc false)) := by
  simp only [meanSettleT, State.issued_act]
  rfl

/-! ### Rounds of a grid: only a co-operative one has them -/

section
variable {s : State} (o : OpD)

theorem meanGridsync_coop (h : s.myGrid.launch.coop = true) :
    (meanGridsync s).body s.issued = .ok (s.issued.arriveAt (.gridsync s.myGrid.uid) (.gridsync s.u.iss.unitPc)) :=
  if_pos h

theorem meanGridsync_notCoop (h : s.myGrid.launch.coop = false) :
    (meanGridsync s).body s.issued = .trap { code := NOT_COOP } :=
  if_neg (Bool.eq_false_iff.1 h)

theorem meanSettleG_coop (h : s.myGrid.launch.coop = true) :
    (meanSettleG o s).body s.issued = .ok (s.issued.arriveAt (.settleG s.myGrid.uid)
      (.settle 2 o.vd.toNat s.act s.u.seqNo s.u.iss.unitPc false)) := by
  simp only [meanSettleG, State.issued_act, State.issued_myGrid, h, if_true]
  rfl

theorem meanSettleG_notCoop (h : s.myGrid.launch.coop = false) :
    (meanSettleG o s).body s.issued = .trap { code := NOT_COOP } :=
  if_neg (Bool.eq_false_iff.1 h)

/-! ### Rounds of a pod job: only a grid of a registered job has them -/

theorem meanPodsync_job {j : PodJob} (h : s.jobOf s.myGrid = some j) :
    (meanPodsync s).body s.issued = .ok (s.issued.arriveAt (.podsync j.num) (.podsync s.u.iss.unitPc)) := by
  simp only [meanPodsync, State.issued_jobOf, State.issued_myGrid, h]
  rfl

theorem meanPodsync_noJob (h : s.jobOf s.myGrid = none) :
    (meanPodsync s).body s.issued = .trap { code := NOT_COOP } := by
  simp only [meanPodsync, State.issued_jobOf, State.issued_myGrid, h]

theorem meanSettleP_job {j : PodJob} (h : s.jobOf s.myGrid = some j) :
    (meanSettleP o s).body s.issued = .ok (s.issued.arriveAt (.settleP j.num)
      (.settle 3 o.vd.toNat s.act s.u.seqNo s.u.iss.unitPc false)) := by
  simp only [meanSettleP, State.issued_jobOf, State.issued_myGrid, State.issued_act, h]
  rfl

theorem meanSettleP_noJob (h : s.jobOf s.myGrid = none) :
    (meanSettleP o s).body s.issued = .trap { code := NOT_COOP } := by
  simp only [meanSettleP, State.issued_jobOf, State.issued_myGrid, h]

end

/-- Settles O31: each unit's body arrives at its round, or traps where its grid has no such round. -/
theorem arrivalsAtRounds : Obligations.ArrivalsAtRounds := by
  unfold Obligations.ArrivalsAtRounds
  intro s o
  refine ⟨?bar, ?gridsync, ?gridsyncTrap, ?podsync, ?podsyncTrap, ?settleL, ?settleT, ?settleG, ?settleGTrap, ?settleP,
    ?settlePTrap⟩
  case bar => exact runsTo_of rfl fun _ => ⟨_, rfl, rfl⟩
  case gridsync => exact fun h => runsTo_of rfl fun _ => ⟨_, meanGridsync_coop h, rfl⟩
  case gridsyncTrap => exact fun h hr => exec_trap rfl hr (meanGridsync_notCoop h)
  case podsync => exact fun j h => runsTo_of rfl fun _ => ⟨_, meanPodsync_job h, rfl⟩
  case podsyncTrap => exact fun h hr => exec_trap rfl hr (meanPodsync_noJob h)
  case settleL => exact runsTo_of rfl fun h => ⟨_, meanSettleL_body o h, rfl⟩
  case settleT => exact runsTo_of rfl fun _ => ⟨_, meanSettleT_body s o, rfl⟩
  case settleG => exact fun h => runsTo_of rfl fun _ => ⟨_, meanSettleG_coop o h, rfl⟩
  case settleGTrap => exact fun h hr => exec_trap rfl hr (meanSettleG_notCoop o h)
  case settleP => exact fun j h => runsTo_of rfl fun _ => ⟨_, meanSettleP_job o h, rfl⟩
  case settlePTrap => exact fun h hr => exec_trap rfl hr (meanSettleP_noJob o h)

end Sys2Proof.Machine

/-! SUPPORT. Rounds (R204, R219, R311, R345, R429 to R431): who takes part, who has arrived, and what completing a round
leaves. -/

namespace Sys2Proof

/-- The entry of a name in a table where the entries of that name have changed and kept it. -/
theorem find?_map_update {α : Type} (key : α → Nat) {f : α → α} {i : Nat} (hf : ∀ x, key (f x) = key x) (l : List α) :
    (l.map fun x => if key x = i then f x else x).find? (fun x => decide (key x = i)) =
      (l.find? fun x => decide (key x = i)).map f := by
  induction l with
  | nil => rfl
  | cons a l ih =>
    by_cases ha : key a = i
    · simp [ha, hf]
    · simp [ha, ih]

/-- A key that a table forgets is not listed in it. -/
theorem Tab.has_drop {κ α : Type} [DecidableEq κ] (t : Tab κ α) (k : κ) : (t.drop k).has k = false := by
  induction t with
  | nil => rfl
  | cons p t ih =>
    by_cases h : p.1 = k
    · simpa [Tab.drop, h] using ih
    · have hdrop : Tab.drop (p :: t) k = p :: Tab.drop t k := List.filter_cons_of_pos (by simpa using h)
      rw [hdrop]
      exact (if_neg h).trans ih

end Sys2Proof

namespace Sys2Proof.Machine

theorem State.team?_modTeam (s : State) (i : Nat) {f : Team → Team} (hf : ∀ x, (f x).uid = x.uid) :
    (s.modTeam i f).team? i = (s.team? i).map f :=
  find?_map_update Team.uid hf s.x.teams

theorem State.grid?_modGrid (s : State) (i : Nat) {f : Grid → Grid} (hf : ∀ x, (f x).uid = x.uid) :
    (s.modGrid i f).grid? i = (s.grid? i).map f :=
  find?_map_update Grid.uid hf s.x.grids

/-- A team after a change that a blank one stands unchanged. -/
theorem State.team_modTeam (s : State) (i : Nat) {f : Team → Team} (hf : ∀ x, (f x).uid = x.uid)
    (hblank : f { uid := i, grid := 0 } = { uid := i, grid := 0 }) : (s.modTeam i f).team i = f (s.team i) := by
  rw [State.team, State.team, s.team?_modTeam i hf]
  cases s.team? i with
  | none => exact hblank.symm
  | some x => rfl

theorem State.grid_modGrid (s : State) (i : Nat) {f : Grid → Grid} (hf : ∀ x, (f x).uid = x.uid)
    (hblank : f { uid := i, launch := {} } = { uid := i, launch := {} }) : (s.modGrid i f).grid i = f (s.grid i) := by
  rw [State.grid, State.grid, s.grid?_modGrid i hf]
  cases s.grid? i with
  | none => exact hblank.symm
  | some x => rfl

/-! ### Who takes part, and who has arrived -/

section
variable {s : State} {r : Round} {n t : Nat}

theorem State.mem_roundTeams_team (hr : r = .bar n ∨ r = .settleT n) : t ∈ s.roundTeams r ↔ t = n := by
  rcases hr with rfl | rfl <;> exact List.mem_singleton

theorem State.mem_roundTeams_grid (hr : r = .gridsync n ∨ r = .settleG n) :
    t ∈ s.roundTeams r ↔ ∃ x ∈ s.x.teams, x.uid = t ∧ x.grid = n := by
  rcases hr with rfl | rfl <;> simp [State.roundTeams, and_assoc, and_comm]

theorem State.mem_roundTeams_job {j : PodJob} (hj : s.job? n = some j) (hr : r = .podsync n ∨ r = .settleP n) :
    t ∈ s.roundTeams r ↔ ∃ x ∈ s.x.teams, x.uid = t ∧ ∃ g ∈ s.x.grids, g.uid = x.grid ∧ g.launch.asid = j.asid ∧
      g.launch.coop = true ∧ g.retired = false ∧ g.aborted = false := by
  have hteams : s.roundTeams r = (s.x.teams.filter fun x =>
      ((s.jobGrids j).filter fun g => !g.retired && !g.aborted).any fun g => decide (g.uid = x.grid)).map (·.uid) := by
    rcases hr with rfl | rfl <;> simp only [State.roundTeams, hj]
  simp only [hteams, State.jobGrids, List.mem_map, List.mem_filter, List.any_eq_true, Bool.and_eq_true, Bool.not_eq_true',
    decide_eq_true_eq, and_assoc]
  constructor
  · rintro ⟨x, hx, ⟨g, hg, hasid, hcoop, hret, hab, huid⟩, ht⟩
    exact ⟨x, hx, ht, g, hg, huid, hasid, hcoop, hret, hab⟩
  · rintro ⟨x, hx, ht, g, hg, huid, hasid, hcoop, hret, hab⟩
    exact ⟨x, hx, ⟨g, hg, hasid, hcoop, hret, hab, huid⟩, ht⟩

/-- A SETTLE leaves out the matrix role's groups (R311). -/
theorem State.takesPart_iff {g : Nat} : s.takesPart r t g = true ↔
    ((∃ n, r = .settleT n ∨ r = .settleG n ∨ r = .settleP n) → (s.grp ⟨t, g⟩).role ≠ .matrix) := by
  cases r <;> simp [State.takesPart]

/-- A split waits in a round. -/
def State.waitsIn (s : State) (r : Round) (p : Split) : Bool := decide (p.team ∈ s.roundTeams r) && r.parks p

theorem State.waiters_isEmpty : (s.waiters r).isEmpty = true ↔ ∀ p ∈ s.x.splits, s.waitsIn r p = false := by
  rw [List.isEmpty_iff, State.waiters, List.filter_eq_nil_iff]
  exact forall₂_congr fun p _ => by rw [Bool.not_eq_true]; rfl

theorem State.mem_haveArrived {g l : Nat} : (⟨t, g, l⟩ : LaneId) ∈ s.haveArrived r ↔
    ∃ p ∈ s.x.splits, s.waitsIn r p = true ∧ p.team = t ∧ p.group = g ∧ l ∈ s.active p := by
  simp only [State.haveArrived, State.waiters, List.mem_flatMap, List.mem_map, List.mem_filter, LaneId.mk.injEq]
  constructor
  · rintro ⟨p, ⟨hp, hw⟩, l', hl, rfl, rfl, rfl⟩
    exact ⟨p, hp, hw, rfl, rfl, hl⟩
  · rintro ⟨p, hp, hw, rfl, rfl, hl⟩
    exact ⟨p, ⟨hp, hw⟩, l, hl, rfl, rfl, rfl⟩

/-- Every live lane on this module has arrived, no team of the round being halted (R204, R219). -/
theorem State.allHere_iff : s.allHere r = true ↔ (∀ t ∈ s.roundTeams r, s.teamHalted t = false) ∧
    ∀ t ∈ s.roundTeams r, ∀ g ∈ s.groups t,
      ((∃ n, r = .settleT n ∨ r = .settleG n ∨ r = .settleP n) → (s.grp ⟨t, g⟩).role ≠ .matrix) →
      ∀ l ∈ s.liveLanes t g, ∃ p ∈ s.x.splits, s.waitsIn r p = true ∧ p.team = t ∧ p.group = g ∧ l ∈ s.active p := by
  have hlanes : ((s.mustArrive r).all fun l => decide (l ∈ s.haveArrived r)) = true ↔
      ∀ t ∈ s.roundTeams r, ∀ g ∈ s.groups t, s.takesPart r t g = true →
        ∀ l ∈ s.liveLanes t g, (⟨t, g, l⟩ : LaneId) ∈ s.haveArrived r := by
    simp only [State.mustArrive, List.all_eq_true, decide_eq_true_eq, List.mem_flatMap, List.mem_map, List.mem_filter]
    exact ⟨fun h t ht g hg hp l hl => h _ ⟨t, ht, g, ⟨hg, hp⟩, l, hl, rfl⟩,
      fun h _ ⟨t, ht, g, ⟨hg, hp⟩, l, hl, he⟩ => he ▸ h t ht g hg hp l hl⟩
  simp only [State.allHere, Bool.and_eq_true, Bool.not_eq_true', List.any_eq_false, Bool.not_eq_true, hlanes,
    State.takesPart_iff, State.mem_haveArrived]

end

/-! ### Completion -/

/-- A split after the round that it waited in: ready at its next unit, or on its way to a SETTLE's records, those of
program-order numbers below `n` (R204, R311). -/
def Split.released (n : Nat) (p : Split) : Split :=
  match p.park with
  | .settle k vd ls _ pc _ => { p with park := .settle k vd ls n pc true, waitFrom := none }
  | _ => { p with park := .run, waitFrom := none }

/-- A round's acquire touches copies of lines only (R333). -/
theorem State.roundAcquire_apart (s : State) (r : Round) : (s.roundAcquire r).apart = s.apart := by
  cases r with
  | podsync j => exact s.dropAway_apart
  | _ => rfl

section
variable (s : State) (r : Round)

theorem State.complete_splits : (s.complete r).x.splits =
    s.x.splits.map fun p => if s.waitsIn r p then p.released s.u.seqNo else p := by
  have hx : (s.roundAcquire r).x = s.x := congrArg Apart.x (s.roundAcquire_apart r)
  have hu : (s.roundAcquire r).u = s.u := congrArg Apart.u (s.roundAcquire_apart r)
  have hbase : (s.complete r).x.splits =
      (s.roundAcquire r).x.splits.map fun p => if s.waitsIn r p then p.released (s.roundAcquire r).u.seqNo else p := by
    cases r <;> rfl
  rw [hbase, hx, hu]

theorem State.complete_registers : (s.complete r).r.v = s.r.v ∧ (s.complete r).r.ve = s.r.ve ∧
    (s.complete r).r.sr = s.r.sr ∧ (s.complete r).r.mr = s.r.mr := by
  have hr : { (s.roundAcquire r).r with sl := [] } = { s.r with sl := [] } := congrArg Apart.r (s.roundAcquire_apart r)
  have hbase : (s.complete r).r = (s.roundAcquire r).r := by cases r <;> rfl
  rw [hbase]
  exact ⟨(congrArg Regs.v hr :), (congrArg Regs.ve hr :), (congrArg Regs.sr hr :), (congrArg Regs.mr hr :)⟩

/-- What a pod job keeps of a completed round: neither its arrivals nor its clock (R429 to R431). -/
def PodJob.cleared (k : Nat) (x : PodJob) : PodJob :=
  { x with from_ := x.from_.drop k, told := x.told.filter fun y => decide (y ≠ k)
           arrived := x.arrived.filter fun y => decide (y.2 ≠ k), settled := if k = 1 then [] else x.settled }

theorem State.complete_job? {n : Nat} (hr : r = .podsync n ∨ r = .settleP n) :
    (s.complete r).job? n = (s.job? n).map (PodJob.cleared r.podIndex) := by
  have hf : (s.roundAcquire r).f = s.f := congrArg Apart.f (s.roundAcquire_apart r)
  have hjobs : (s.complete r).f.jobs =
      (s.roundAcquire r).f.jobs.map fun x => if x.num = n then x.cleared r.podIndex else x := by
    rcases hr with rfl | rfl <;> rfl
  rw [State.job?, hjobs, hf]
  exact find?_map_update PodJob.num (f := PodJob.cleared r.podIndex) (fun _ => rfl) s.f.jobs

/-- A completed round's clock is cleared. -/
theorem State.complete_roundFrom : (s.complete r).roundFrom r = none := by
  have pod : ∀ n, r = .podsync n ∨ r = .settleP n → (match (s.complete r).job? n with
      | some x => if x.from_.has r.podIndex then some (x.from_.look r.podIndex 0) else none
      | none => none) = none := fun n hr => by
    rw [s.complete_job? r hr]
    cases s.job? n with
    | none => rfl
    | some x => exact if_neg (Bool.eq_false_iff.1 (x.from_.has_drop r.podIndex))
  cases r with
  | bar t =>
    exact (congrArg Team.barFrom (State.team_modTeam _ t (f := fun x => { x with barFrom := none }) (fun _ => rfl) rfl) :)
  | settleT t =>
    exact (congrArg Team.settleFrom (State.team_modTeam _ t (f := fun x => { x with settleFrom := none }) (fun _ => rfl) rfl) :)
  | gridsync g =>
    exact (congrArg Grid.syncFrom (State.grid_modGrid _ g (f := fun x => { x with syncFrom := none }) (fun _ => rfl) rfl) :)
  | settleG g =>
    exact (congrArg Grid.settleFrom (State.grid_modGrid _ g (f := fun x => { x with settleFrom := none }) (fun _ => rfl) rfl) :)
  | podsync n => exact pod n (.inl rfl)
  | settleP n => exact pod n (.inr rfl)

end

/-! ### When a round is complete -/

section
variable {s : State} {r : Round}

/-- A round of a team or a grid completes once someone waits in it and everyone has arrived (R204, R345). -/
theorem State.checkRound_local (h : ∀ n, r ≠ .podsync n ∧ r ≠ .settleP n) :
    s.checkRound r = if (s.waiters r).isEmpty || !s.allHere r then s else s.complete r := by
  cases r with
  | podsync n => exact absurd rfl (h n).1
  | settleP n => exact absurd rfl (h n).2
  | _ => rfl

theorem State.checkRound_completes (h : ∀ n, r ≠ .podsync n ∧ r ≠ .settleP n)
    (hw : ∃ p ∈ s.x.splits, s.waitsIn r p = true) (ha : s.allHere r = true) : s.checkRound r = s.complete r := by
  have hsome : (s.waiters r).isEmpty ≠ true := fun he => by
    obtain ⟨p, hp, hwaits⟩ := hw
    exact absurd (State.waiters_isEmpty.1 he p hp) (by simp [hwaits])
  rw [State.checkRound_local h, if_neg (by simpa [ha] using hsome)]

theorem State.checkRound_stays (h : ∀ n, r ≠ .podsync n ∧ r ≠ .settleP n)
    (hs : (∀ p ∈ s.x.splits, s.waitsIn r p = false) ∨ s.allHere r ≠ true) : s.checkRound r = s := by
  rw [State.checkRound_local h, if_pos]
  rcases hs with hnone | hmissing
  · simp [State.waiters_isEmpty.2 hnone]
  · simp [Bool.eq_false_iff.2 hmissing]

/-- Every lane of a pod job's participants on this module has arrived, and what they did is performed (R429, R430). -/
def State.podReady (s : State) (r : Round) (j : PodJob) : Bool := s.jobStarted j && s.allHere r && s.podClear r

theorem State.podReady_iff {j : PodJob} : s.podReady r j = true ↔
    s.allHere r = true ∧ (j.devs.filter fun d => decide (d = s.f.dev)).length ≤ (s.jobGrids j).length ∧
      ∀ a ∈ s.k.acc, a.append = true ∨ a.lane.t ∉ s.roundTeams r := by
  simp only [State.podReady, State.jobStarted, State.podClear, Bool.and_eq_true, Bool.or_eq_true, List.all_eq_true,
    decide_eq_true_eq, and_assoc, and_left_comm]

/-- Every module of a pod job has told its leader of a round (R429). -/
def State.podTold (s : State) (r : Round) (j : PodJob) : Bool :=
  s.podOpen r j && j.devs.all fun d => decide (d = s.f.dev ∨ (d, r.podIndex) ∈ j.arrived)

theorem State.podTold_iff {j : PodJob} : s.podTold r j = true ↔
    ((∃ p ∈ s.x.splits, s.waitsIn r p = true) ∨ ∃ x ∈ j.arrived, x.2 = r.podIndex) ∧
      ∀ d ∈ j.devs, d ≠ s.f.dev → (d, r.podIndex) ∈ j.arrived := by
  have hwaiters : (!(s.waiters r).isEmpty) = true ↔ ∃ p ∈ s.x.splits, s.waitsIn r p = true := by
    rw [Bool.not_eq_true', ← Bool.not_eq_true, State.waiters_isEmpty]
    simp
  simp only [State.podTold, State.podOpen, Bool.and_eq_true, Bool.or_eq_true, hwaiters, List.any_eq_true, List.all_eq_true,
    decide_eq_true_eq, or_iff_not_imp_left (a := (_ : Nat) = s.f.dev), ne_eq]

variable {j : PodJob} {n : Nat} (hj : s.job? n = some j) (hr : r = .podsync n ∨ r = .settleP n)
include hj hr

theorem State.checkRound_pod : s.checkRound r =
    if !s.jobStarted j || !s.allHere r || !s.podClear r then s
    else if j.leader = s.f.dev then if s.podTold r j then s.complete r else s
    else { s with f.jobs := s.f.jobs.map fun (x : PodJob) =>
        if x.num = n then { x with told := (r.podIndex :: x.told).eraseDups } else x } := by
  rcases hr with rfl | rfl <;> simp only [State.checkRound, hj] <;> rfl

theorem State.checkRound_podNotReady (hp : s.podReady r j ≠ true) : s.checkRound r = s := by
  rw [State.checkRound_pod hj hr, if_pos]
  simpa only [State.podReady, ← Bool.not_and, Bool.not_eq_true', Bool.not_eq_true] using hp

theorem State.checkRound_podReady (hp : s.podReady r j = true) : s.checkRound r =
    if j.leader = s.f.dev then if s.podTold r j then s.complete r else s
    else { s with f.jobs := s.f.jobs.map fun (x : PodJob) =>
        if x.num = n then { x with told := (r.podIndex :: x.told).eraseDups } else x } := by
  rw [State.checkRound_pod hj hr, if_neg]
  simpa only [State.podReady, ← Bool.not_and, Bool.not_eq_true', Bool.not_eq_false] using hp

end

/-- Settles O32: State.checkRound by who has arrived, and what State.complete leaves. -/
theorem barRounds : Obligations.BarRounds := by
  unfold Obligations.BarRounds
  intro s r mine here done
  have hcomplete : done (s.complete r) := by
    obtain ⟨hv, hve, hsr, hmr⟩ := s.complete_registers r
    exact ⟨s.complete_splits r, s.complete_roundFrom r, hv, hve, hsr, hmr, s.complete_mem r⟩
  have hhere : s.allHere r = true ↔ here := State.allHere_iff
  refine ⟨fun n tm => ⟨State.mem_roundTeams_team, State.mem_roundTeams_grid, fun j => State.mem_roundTeams_job⟩,
    fun hlocal => ⟨fun hw ha => ?completes, fun hs => ?stays⟩, fun n j hj hr => ?pod⟩
  case completes => exact (State.checkRound_completes hlocal hw (hhere.2 ha)).symm ▸ hcomplete
  case stays => exact State.checkRound_stays hlocal (hs.imp_right fun h ha => h (hhere.1 ha))
  case pod =>
    intro k ready
    have hready : s.podReady r j = true ↔ ready := State.podReady_iff.trans (and_congr_left' hhere)
    refine ⟨fun hn => State.checkRound_podNotReady hj hr (mt hready.1 hn), fun hp hl => ?tells, fun hp hl => ?leads⟩
    case tells => rw [State.checkRound_podReady hj hr (hready.2 hp), if_neg hl]
    case leads =>
      rw [State.checkRound_podReady hj hr (hready.2 hp), if_pos hl]
      refine ⟨fun ht => ?told, fun ht => ?waits⟩
      case told => exact (if_pos (State.podTold_iff.2 ht)).symm ▸ hcomplete
      case waits => exact if_neg (mt State.podTold_iff.1 ht)

end Sys2Proof.Machine

/-! SUPPORT. Barrier operations and loads performed in front of an acquire (R209, R319): the write of a barrier word undoes
them. -/

namespace Sys2Proof.Machine

/-- BINVAL writes the word as a write of its unit (R209, R319). -/
theorem meanBinval_writes {s : State} {o : OpX1} {loc : Nat} (hf : s.wordFault (s.leadAddr o.sa.toNat) 4 true = none)
    (hl : s.scratchLoc (s.leadAddr o.sa.toNat) true = some loc) (ho : s.owesAt loc 4 = false) :
    let r := barOp 5 (s.load loc 4) 0
    (meanBinval o s).body s.issued = .ok ((s.issued.unitWrite loc r.1 4).setSAll o.sd.toNat r.2) := by
  simp [meanBinval, barUnit, hf, hl, ho]

theorem State.setSAll_apart_acc (s : State) (n : Nat) (w : Word) : (s.setSAll n w).apart.acc = s.apart.acc :=
  (congrArg (fun q : State => q.apart.acc) (s.setSAll_rest n w) :)

/-- A write of the unit leaves of the accesses in flight what undoing the early loads leaves (R319). -/
theorem State.unitWrite_apart_acc (s : State) (loc v n : Nat) :
    (s.unitWrite loc v n).apart.acc = (s.squashBy none s.u.iss.team (s.coreOf s.gid)).apart.acc := by
  rw [State.unitWrite, State.store_apart]

/-- An acquiring load of team scope of lane 0 of team 2, still in flight. -/
def acquireLoad : Access :=
  { id := 4, sid := 3, lane := ⟨2, 0, 0⟩, unitPc := 0x80000, seq := 1, kind := .load false, gaddr := 0x1000, size := 4
    order := .acquire, scope := .team, loc := 0x1000, pa := 0x1000, leaf := some { size := 0x10000, r := true } }

/-- A later load of the lane that has been performed in front of it (R319). -/
def earlyLoad : Access :=
  { acquireLoad with id := 5, seq := 2, order := .relaxed, gaddr := 0x2000, loc := 0x2000, pa := 0x2000, phase := .performed
                     spec := true }

/-- Team 2, with these two loads in flight, at a unit whose pair S4 holds the address of a scratchpad word. -/
def loadedEarly : State :=
  { State.reset with
    x.grids := [{ uid := 1, launch := { scratch := 65536 } }]
    x.teams := [{ uid := 2, grid := 1 }]
    x.splits := [{ sid := 3, team := 2, group := 0, tix := 0, pc := 0x80010, slices := [0, 1, 2, 3] }]
    r.sr := [((⟨2, 0, 0⟩, 4), 64), ((⟨2, 0, 0⟩, 5), 0xFFFFE000)]
    k.acc := [acquireLoad, earlyLoad]
    u.iss := { sid := 3, team := 2, group := 0, unitPc := 0x80010, wordPc := 0x80010, nextPc := 0x80014 }
    u.uid := 6, u.seqNo := 3 }

/-- BINVAL on that word. -/
def binvalWord : OpX1 := { sa := 4, sd := 8 }

theorem loadedEarly_runs : Runs (.binval binvalWord) loadedEarly := by decide

theorem loadedEarly_word :
    loadedEarly.wordFault (loadedEarly.leadAddr binvalWord.sa.toNat) 4 true = none ∧
    loadedEarly.scratchLoc (loadedEarly.leadAddr binvalWord.sa.toNat) true = some (locScr 2 64) ∧
    loadedEarly.owesAt (locScr 2 64) 4 = false := by decide

/-- The early load is undone there. -/
theorem loadedEarly_undone : (loadedEarly.issued.squashBy none 2 0).apart.acc ≠ loadedEarly.apart.acc := by decide

/-- Refutes O37: the write of a barrier word is a write of its unit, which undoes the loads that were performed in front of an
acquire of narrow scope (R319); so BINVAL changes an access in flight too, and not only the word and Sd. -/
theorem not_barriers : ¬ Obligations.Barriers := by
  unfold Obligations.Barriers
  intro h
  obtain ⟨hf, hl, ho⟩ := loadedEarly_word
  obtain ⟨-, -, hbinval, -⟩ := h loadedEarly { sb := 0, sa := 4, sd := 8 } binvalWord
  obtain ⟨t, hstated, rfl⟩ := hbinval _ hf hl ho loadedEarly_runs
  obtain ⟨u, hrun, rfl⟩ := runsTo_of (P := (· = _)) rfl (fun _ => ⟨_, meanBinval_writes hf hl ho, rfl⟩) loadedEarly_runs
  have hacc := congrArg (fun q : State => q.apart.acc) (Host.Outcome.next.inj (hrun.symm.trans hstated))
  simp only [State.setSAll_apart_acc, State.unitWrite_apart_acc, State.store_apart] at hacc
  exact loadedEarly_undone hacc

end Sys2Proof.Machine

/-! SUPPORT. Stage rings (R213, R214): the outcomes of RPUSH, RPOP and RWAIT. -/

namespace Sys2Proof.Machine

/-- An examination that finds nothing stalls past SYS_BARWATCH, and waits until then (R205). -/
theorem State.stallOr_stalled {s : State} (info : Nat) (h : s.stalled = true) :
    s.issued.stallOr s.cur.waitFrom info = .trap { code := BARRIER_STALL, info := info } :=
  if_pos (of_decide_eq_true h)

theorem State.stallOr_waits {s : State} (info : Nat) (h : s.stalled = false) :
    s.issued.stallOr s.cur.waitFrom info = .wait :=
  if_neg (of_decide_eq_false h)

/-! ### RPUSH and RPOP -/

theorem meaningOf_ring {s : State} {o : OpX1} {i : Instr} (hi : i ∈ [Instr.rpush o, .rpop o]) :
    ∃ pop, meaningOf i s = some (ringUnit pop o s) := by
  simp only [List.mem_cons, List.not_mem_nil, or_false] at hi
  rcases hi with rfl | rfl
  · exact ⟨false, rfl⟩
  · exact ⟨true, rfl⟩

section
variable {s : State} {o : OpX1} {pop : Bool} {loc : Nat}

theorem ringUnit_fault {f : FaultInfo} (hf : s.wordFault (s.leadAddr o.sa.toNat) 16 false = some f) :
    (ringUnit pop o s).body s.issued = .trap f := by
  simp [ringUnit, hf]

variable (hf : s.wordFault (s.leadAddr o.sa.toNat) 16 false = none)
  (hl : s.scratchLoc (s.leadAddr o.sa.toNat) false = some loc)
include hf hl

/-- Both release, and so wait for the accesses of the split's own lanes (R214, R323). -/
theorem ringUnit_releases (hr : s.owesRelease = true) : (ringUnit pop o s).body s.issued = .wait := by
  simp [ringUnit, hf, hl, hr]

variable (hr : s.owesRelease = false)
include hr

theorem ringUnit_badRing (hb : (s.ringAt loc).bad = true) :
    (ringUnit pop o s).body s.issued = .ok (s.issued.setSAll o.sd.toNat (barStatus 0 0 0 8)) := by
  simp [ringUnit, hf, hl, hr, hb]

variable (hb : (s.ringAt loc).bad = false)
include hb

theorem rpush_full (hbit : bit (s.ringAt loc).ph (s.ringAt loc).head = true) :
    (ringUnit false o s).body s.issued = .ok (s.issued.setSAll o.sd.toNat (barStatus 0 0 0 6)) := by
  simp [ringUnit, hf, hl, hr, hb, hbit]

theorem rpush_fills (hbit : bit (s.ringAt loc).ph (s.ringAt loc).head = false) :
    let r := s.ringAt loc
    (ringUnit false o s).body s.issued = .ok
      ((s.issued.setRing loc ((r.head + 1) % r.n) r.tail (r.ph + 2 ^ r.head)).setSAll o.sd.toNat
        (barStatus 0 0 r.head 0)) := by
  simp [ringUnit, hf, hl, hr, hb, hbit]

theorem rpop_empty (hbit : bit (s.ringAt loc).ph (s.ringAt loc).tail = false) :
    (ringUnit true o s).body s.issued = .ok (s.issued.setSAll o.sd.toNat (barStatus 0 0 0 7)) := by
  simp [ringUnit, hf, hl, hr, hb, hbit]

theorem rpop_frees (hbit : bit (s.ringAt loc).ph (s.ringAt loc).tail = true) :
    let r := s.ringAt loc
    (ringUnit true o s).body s.issued = .ok
      ((s.issued.setRing loc r.head ((r.tail + 1) % r.n) (r.ph - 2 ^ r.tail)).setSAll o.sd.toNat
        (barStatus 0 0 r.tail 0)) := by
  simp [ringUnit, hf, hl, hr, hb, hbit]

end

/-! ### RWAIT -/

section
variable {s : State} {x : OpX} {loc : Nat}

/-- The slot that an RWAIT is about: HEAD for the producer, TAIL for the consumer (R214). -/
def State.waitSlot (s : State) (x : OpX) (loc : Nat) : Nat := if x.sb = 0 then (s.ringAt loc).head else (s.ringAt loc).tail

theorem meanRwait_fault {f : FaultInfo} (hf : s.wordFault (s.leadAddr x.sa.toNat) 16 false = some f) :
    (meanRwait x s).body s.issued = .trap f := by
  simp [meanRwait, hf]

variable (hf : s.wordFault (s.leadAddr x.sa.toNat) 16 false = none)
  (hl : s.scratchLoc (s.leadAddr x.sa.toNat) false = some loc)
include hf hl

theorem meanRwait_owes (ho : s.owesAt loc 16 = true) : (meanRwait x s).body s.issued = .wait := by
  simp [meanRwait, hf, hl, ho]

variable (ho : s.owesAt loc 16 = false)
include ho

theorem meanRwait_badRing (hb : (s.ringAt loc).bad = true) :
    (meanRwait x s).body s.issued = .ok (s.issued.setSPair x.sd.toNat 0) := by
  simp [meanRwait, hf, hl, ho, hb, State.setSPair]

variable (hb : (s.ringAt loc).bad = false)
include hb

theorem meanRwait_found (hbit : bit (s.ringAt loc).ph (s.waitSlot x loc) = decide (x.sb ≠ 0)) :
    (meanRwait x s).body s.issued = .ok (s.issued.setSPair x.sd.toNat
      (scratchWindow + (s.ringAt loc).base + (s.ringAt loc).slot * s.waitSlot x loc)) := by
  unfold State.waitSlot at hbit ⊢
  simp only [meanRwait, State.issued_leadAddr, State.issued_wordFault, State.issued_scratchLoc, State.issued_owesAt,
    State.issued_ringAt, hf, hl, ho, hb, hbit, if_true, Bool.false_eq_true, if_false]

theorem meanRwait_notFound (hbit : bit (s.ringAt loc).ph (s.waitSlot x loc) ≠ decide (x.sb ≠ 0)) :
    (meanRwait x s).body s.issued = s.issued.stallOr s.cur.waitFrom 2 := by
  unfold State.waitSlot at hbit
  simp only [meanRwait, State.issued_leadAddr, State.issued_wordFault, State.issued_scratchLoc, State.issued_owesAt,
    State.issued_ringAt, hf, hl, ho, hb, hbit, Bool.false_eq_true, if_false]

end

/-- Settles O38: the outcomes of the three units' bodies, in the order of their tests. -/
theorem stageRings : Obligations.StageRings := by
  unfold Obligations.StageRings
  intro s o x
  refine ⟨?fault, ?waitFault, fun loc hf hl => ⟨?releases, ?badRing, fun hr hb => ⟨?full, ?fills, ?empty, ?frees⟩⟩,
    fun loc hf hl => ⟨?owes, ?waitBadRing, fun ho hb => ⟨?found, ?waits, ?stalls⟩⟩⟩
  case fault =>
    intro f hf i hi hrun
    obtain ⟨pop, hm⟩ := meaningOf_ring hi
    exact exec_trap hm hrun (ringUnit_fault hf)
  case waitFault => exact fun f hf hrun => exec_trap rfl hrun (meanRwait_fault hf)
  case releases =>
    intro hr i hi hrun
    obtain ⟨pop, hm⟩ := meaningOf_ring hi
    exact exec_wait hm hrun (ringUnit_releases hf hl hr)
  case badRing =>
    intro hr hb i hi
    obtain ⟨pop, hm⟩ := meaningOf_ring hi
    exact runsTo_of hm fun _ => ⟨_, ringUnit_badRing hf hl hr hb, rfl⟩
  case full => exact fun hbit => runsTo_of rfl fun _ => ⟨_, rpush_full hf hl hr hb hbit, rfl⟩
  case fills => exact fun hbit => runsTo_of rfl fun _ => ⟨_, rpush_fills hf hl hr hb hbit, rfl⟩
  case empty => exact fun hbit => runsTo_of rfl fun _ => ⟨_, rpop_empty hf hl hr hb hbit, rfl⟩
  case frees => exact fun hbit => runsTo_of rfl fun _ => ⟨_, rpop_frees hf hl hr hb hbit, rfl⟩
  case owes => exact fun ho hrun => exec_wait rfl hrun (meanRwait_owes hf hl ho)
  case waitBadRing => exact fun ho hb => runsTo_of rfl fun _ => ⟨_, meanRwait_badRing hf hl ho hb, rfl⟩
  case found => exact fun hbit => runsTo_of rfl fun _ => ⟨_, meanRwait_found hf hl ho hb hbit, rfl⟩
  case waits =>
    exact fun hbit hs hrun => exec_wait rfl hrun ((meanRwait_notFound hf hl ho hb hbit).trans (State.stallOr_waits 2 hs))
  case stalls =>
    exact fun hbit hs hrun => exec_trap rfl hrun ((meanRwait_notFound hf hl ho hb hbit).trans (State.stallOr_stalled 2 hs))

end Sys2Proof.Machine

/-! SUPPORT. Halting, stepping and resuming groups (R116, R219, R220): what a stop changes of the state, and the outcomes of the
debugger's events. -/

namespace Sys2Proof.Machine

/-! ### The SFU results of a team land before its groups stop -/

/-- What landing several SFU operations can do (R116). -/
theorem State.foldl_landSfu (os : List SfuOp) (s : State) :
    let u := os.foldl (fun t o => t.landSfu o) s
    (∀ q, q ∈ u.e.sfu ↔ q ∈ s.e.sfu ∧ ∀ o ∈ os, q.id ≠ o.id) ∧
    (∀ y n, u.getV y n ≠ s.getV y n → ∃ o ∈ os, o.team = y.t ∧ o.group = y.g ∧ o.vd = n) ∧
    { u with r.v := s.r.v, r.ve := s.r.ve, e.sfu := s.e.sfu } = s := by
  induction os generalizing s with
  | nil => exact ⟨fun q => by simp, fun y n h => absurd rfl h, rfl⟩
  | cons o os ih =>
    obtain ⟨hflight, hwrites, hrest⟩ := ih (s.landSfu o)
    obtain ⟨-, hothers, hone, hfilter⟩ := s.landSfu_spec o
    refine ⟨fun q => ?_, fun y n hne => ?_,
      (congrArg (fun t : State => { t with r.v := s.r.v, r.ve := s.r.ve, e.sfu := s.e.sfu }) hrest).trans hone⟩
    · rw [List.foldl_cons, hflight, hfilter, List.mem_filter, decide_eq_true_eq, List.forall_mem_cons, and_assoc]
    · by_cases hlater : (os.foldl (fun t o => t.landSfu o) (s.landSfu o)).getV y n = (s.landSfu o).getV y n
      · have hnow : ¬ ∀ r ∈ o.results, (y, n) ≠ (⟨o.team, o.group, r.1⟩, o.vd) := fun h =>
          hne (hlater.trans (hothers y n h).1)
        simp only [not_forall, not_not] at hnow
        obtain ⟨r, -, he⟩ := hnow
        obtain ⟨rfl, rfl⟩ := Prod.mk.inj he
        exact ⟨o, List.mem_cons_self, rfl, rfl, rfl⟩
      · obtain ⟨q, hq, h⟩ := hwrites y n hlater
        exact ⟨q, List.mem_cons_of_mem _ hq, h⟩

section
variable (s : State) (t : Nat)

theorem State.landTeamSfu_rest : { s.landTeamSfu t with r.v := s.r.v, r.ve := s.r.ve, e.sfu := s.e.sfu } = s :=
  (State.foldl_landSfu _ s).2.2

/-- What stays in flight. -/
theorem State.landTeamSfu_sfu (q : SfuOp) : q ∈ (s.landTeamSfu t).e.sfu ↔
    q ∈ s.e.sfu ∧ ∀ o ∈ s.e.sfu, o.team = t → q.id ≠ o.id := by
  refine ((State.foldl_landSfu _ s).1 q).trans (and_congr_right fun _ => ?_)
  simp only [List.mem_filter, decide_eq_true_eq, and_imp]

/-- No operation of the team is left in flight. -/
theorem State.landTeamSfu_landed : ∀ o ∈ (s.landTeamSfu t).e.sfu, o.team ≠ t := fun o ho hteam =>
  ((s.landTeamSfu_sfu t o).1 ho).2 o ((s.landTeamSfu_sfu t o).1 ho).1 hteam rfl

/-- The other teams' operations stay in flight. -/
theorem State.landTeamSfu_others (hn : (s.e.sfu.map (·.id)).Nodup) :
    ∀ o ∈ s.e.sfu, o.team ≠ t → o ∈ (s.landTeamSfu t).e.sfu := fun o ho hteam =>
  (s.landTeamSfu_sfu t o).2 ⟨ho, fun _ hq hqt hid => hteam (List.inj_on_of_nodup_map hn ho hq hid ▸ hqt)⟩

/-- Only results of the team's operations are written, where they belong. -/
theorem State.landTeamSfu_writes (y : LaneId) (n : Nat) (h : (s.landTeamSfu t).getV y n ≠ s.getV y n) :
    y.t = t ∧ ∃ o ∈ s.e.sfu, o.team = t ∧ o.group = y.g ∧ o.vd = n := by
  obtain ⟨o, ho, hteam, hgroup, hvd⟩ := (State.foldl_landSfu _ s).2.1 y n h
  obtain ⟨hin, hmine⟩ := List.mem_filter.1 ho
  have ht : o.team = t := of_decide_eq_true hmine
  exact ⟨hteam.symm.trans ht, o, hin, ht, hgroup, hvd⟩

/-- With none of the team's operations in flight nothing lands. -/
theorem State.landTeamSfu_idle {s : State} {t : Nat} (h : ∀ o ∈ s.e.sfu, o.team ≠ t) : s.landTeamSfu t = s := by
  have hnone : (s.e.sfu.filter fun o => decide (o.team = t)) = [] := List.filter_eq_nil_iff.2 fun o ho => by simp [h o ho]
  rw [State.landTeamSfu, hnone]
  rfl

@[simp] theorem State.landTeamSfu_grp (x : GroupId) : (s.landTeamSfu t).grp x = s.grp x :=
  (congrArg (fun q : State => q.grp x) (s.landTeamSfu_rest t) :)

@[simp] theorem State.landTeamSfu_groupSplits (x : GroupId) : (s.landTeamSfu t).groupSplits x = s.groupSplits x :=
  (congrArg (fun q : State => q.groupSplits x) (s.landTeamSfu_rest t) :)

@[simp] theorem State.landTeamSfu_groups (k : Nat) : (s.landTeamSfu t).groups k = s.groups k :=
  (congrArg (fun q : State => q.groups k) (s.landTeamSfu_rest t) :)

@[simp] theorem State.landTeamSfu_m : (s.landTeamSfu t).m = s.m :=
  (congrArg (fun q : State => q.m) (s.landTeamSfu_rest t) :)

end

/-! ### What a stop changes -/

/-- A stop changes nothing but the records of groups and slices and the split table (R173, R219). -/
abbrev State.StopsTo (s t : State) : Prop := { t with r.gr := s.r.gr, r.sl := s.r.sl, x.splits := s.x.splits } = s

namespace State.StopsTo
variable {s t u : State}

theorem refl (s : State) : s.StopsTo s := rfl

theorem trans (h : s.StopsTo t) (h' : t.StopsTo u) : s.StopsTo u :=
  (congrArg (fun q : State => { q with r.gr := s.r.gr, r.sl := s.r.sl, x.splits := s.x.splits }) h').trans h

theorem m_eq (h : s.StopsTo t) : t.m = s.m := (congrArg (fun q : State => q.m) h :)

theorem v_eq (h : s.StopsTo t) : t.r.v = s.r.v := (congrArg (fun q : State => q.r.v) h :)

theorem sfu_eq (h : s.StopsTo t) : t.e.sfu = s.e.sfu := (congrArg (fun q : State => q.e.sfu) h :)

theorem groups_eq (h : s.StopsTo t) (k : Nat) : t.groups k = s.groups k := (congrArg (fun q : State => q.groups k) h :)

end State.StopsTo

section
variable (s : State)

theorem State.disarm_rest (p : Split) : { s.disarm p with r.sl := s.r.sl } = s :=
  (State.foldSlc p.team p.group (fun _ x => { x with watch := none }) p.slices s).2.2

theorem State.foldl_disarm_rest (ps : List Split) : { ps.foldl (fun t p => t.disarm p) s with r.sl := s.r.sl } = s := by
  induction ps generalizing s with
  | nil => rfl
  | cons p ps ih => exact (congrArg (fun t : State => { t with r.sl := s.r.sl }) (ih (s.disarm p))).trans (s.disarm_rest p)

/-- Waking splits touches watches and the split table only (R173). -/
theorem State.wakeAll_rest (f : Split → Bool) : { s.wakeAll f with r.sl := s.r.sl, x.splits := s.x.splits } = s :=
  congrArg (fun t : State => { t with x.splits := s.x.splits })
    (s.foldl_disarm_rest (s.x.splits.filter fun p => f p && p.asleep))

/-- A halted group's record, and every other's (R219). -/
theorem State.grp_haltGroup (g x : GroupId) (sid : Option Nat) : (s.haltGroup g sid).grp x =
    if g = x then { s.grp g with halted := true, stopped := sid <|> (s.grp g).stopped, stepping := false } else s.grp x :=
  (congrArg (fun q : State => q.grp x) (State.wakeAll_rest _ _)).trans (State.grp_modGrp _ _ _ _)

theorem State.haltGroup_stopsTo (g : GroupId) (sid : Option Nat) : s.StopsTo (s.haltGroup g sid) :=
  congrArg (fun t : State => { t with r.gr := s.r.gr }) (State.wakeAll_rest (s.modGrp g _) _)

theorem State.recordStop_rest (p : Split) : { s.recordStop p with r.sl := s.r.sl } = s := (s.latchRec_spec p _).2.2

@[simp] theorem State.recordStop_grp (p : Split) (x : GroupId) : (s.recordStop p).grp x = s.grp x :=
  (congrArg (fun q : State => q.grp x) (s.recordStop_rest p) :)

theorem State.recordStop_stopsTo (p : Split) : s.StopsTo (s.recordStop p) :=
  congrArg (fun t : State => { t with r.gr := s.r.gr, x.splits := s.x.splits }) (s.recordStop_rest p)

/-- Halting those of some groups that still run leaves the others as they are (R219). -/
theorem State.haltRunning_spec (t : Nat) (ks : List Nat) :
    let u := ks.foldl (fun u k => if (u.grp ⟨t, k⟩).halted then u else u.haltGroup ⟨t, k⟩ none) s
    (∀ k ∈ ks, (u.grp ⟨t, k⟩).halted = true) ∧ (∀ x, (s.grp x).halted = true → u.grp x = s.grp x) ∧ s.StopsTo u := by
  induction ks generalizing s with
  | nil => exact ⟨by simp, fun _ _ => rfl, .refl s⟩
  | cons a ks ih =>
    rw [List.foldl_cons]
    set v := if (s.grp ⟨t, a⟩).halted = true then s else s.haltGroup ⟨t, a⟩ none with hv
    have hnow : (v.grp ⟨t, a⟩).halted = true := by
      rw [hv]
      split
      · assumption
      · rw [State.grp_haltGroup, if_pos rfl]
    have hkept : ∀ x, (s.grp x).halted = true → v.grp x = s.grp x := fun x hx => by
      rw [hv]
      split
      · rfl
      · next hrun => rw [State.grp_haltGroup, if_neg fun (he : (⟨t, a⟩ : GroupId) = x) => hrun (he ▸ hx)]
    have hstops : s.StopsTo v := by
      rw [hv]
      split
      · exact .refl s
      · exact s.haltGroup_stopsTo _ _
    obtain ⟨hlater, hlaterKept, hlaterStops⟩ := ih v
    refine ⟨fun k hk => ?_, fun x hx => ?_, hstops.trans hlaterStops⟩
    · rcases List.mem_cons.1 hk with rfl | hk
      · rw [hlaterKept _ hnow, hnow]
      · exact hlater k hk
    · rw [hlaterKept x (hkept x hx ▸ hx), hkept x hx]

/-- A team halts once its SFU results have landed; the groups halted before stay as they are (R116, R219). -/
theorem State.haltTeam_spec (t : Nat) :
    (∀ k ∈ s.groups t, ((s.haltTeam t).grp ⟨t, k⟩).halted = true) ∧
    (∀ x, (s.grp x).halted = true → (s.haltTeam t).grp x = s.grp x) ∧ (s.landTeamSfu t).StopsTo (s.haltTeam t) := by
  obtain ⟨hall, hkept, hstops⟩ := (s.landTeamSfu t).haltRunning_spec t (s.groups t)
  simp only [State.landTeamSfu_grp] at hkept
  exact ⟨hall, hkept, hstops⟩

end

/-! ### DEBUG_HALT -/

section
variable {s : State} {t g : Nat}

theorem exec_debugHalt_group (hl : s.u.ev.list = [t, g]) (hf : s.u.ev.flag = false) (hs : (s.team t).teamStop = false) :
    exec .debugHalt s = .next (s.requestHalt ⟨t, g⟩) := by
  change execDebugHalt s = _
  simp [execDebugHalt, hl, hf, hs]

theorem exec_debugHalt_team (hl : s.u.ev.list = [t, g]) (hf : s.u.ev.flag = true ∨ (s.team t).teamStop = true) :
    exec .debugHalt s = .next ((s.requestHalt ⟨t, g⟩).haltTeam t) := by
  change execDebugHalt s = _
  simp only [execDebugHalt, hl, hf, if_true]

theorem State.requestHalt_halted {x : GroupId} (h : (s.grp x).halted = true) : s.requestHalt x = s := if_pos h

theorem State.requestHalt_first {p : Split} {ps : List Split} (h : (s.grp ⟨t, g⟩).halted = false)
    (hp : s.groupSplits ⟨t, g⟩ = p :: ps) :
    s.requestHalt ⟨t, g⟩ = ((s.landTeamSfu t).haltGroup ⟨t, g⟩ (some p.sid)).recordStop p := by
  simp only [State.requestHalt, h, State.landTeamSfu_groupSplits, hp, Bool.false_eq_true, if_false]

theorem State.requestHalt_empty (h : (s.grp ⟨t, g⟩).halted = false) (hp : s.groupSplits ⟨t, g⟩ = []) :
    s.requestHalt ⟨t, g⟩ = (s.landTeamSfu t).haltGroup ⟨t, g⟩ none := by
  simp only [State.requestHalt, h, State.landTeamSfu_groupSplits, hp, Bool.false_eq_true, if_false]

/-- A halt of the team after its SFU results have landed and its groups, or some of them, have stopped. -/
theorem State.haltTeam_of_stopsTo {u : State} (hu : (s.landTeamSfu t).StopsTo u) :
    (∀ k ∈ s.groups t, ((u.haltTeam t).grp ⟨t, k⟩).halted = true) ∧ (∀ o ∈ (u.haltTeam t).e.sfu, o.team ≠ t) ∧
      (u.haltTeam t).m = s.m ∧ (u.haltTeam t).r.v = (s.landTeamSfu t).r.v := by
  obtain ⟨hall, -, hstops⟩ := u.haltTeam_spec t
  have hlanded : ∀ o ∈ u.e.sfu, o.team ≠ t := hu.sfu_eq ▸ s.landTeamSfu_landed t
  rw [State.landTeamSfu_idle hlanded] at hstops
  have hboth := hu.trans hstops
  rw [hu.groups_eq, State.landTeamSfu_groups] at hall
  exact ⟨hall, hboth.sfu_eq ▸ s.landTeamSfu_landed t, hboth.m_eq.trans (s.landTeamSfu_m t), hboth.v_eq⟩

end

/-! ### The other events -/

section
variable {s : State} {p : Split}

theorem exec_singleStep (hp : s.split? s.u.ev.id = some p) (hh : (s.grp ⟨p.team, p.group⟩).halted = true)
    (hs : (s.grp ⟨p.team, p.group⟩).stopped = some p.sid) :
    exec .singleStep s = .next (s.modGrp ⟨p.team, p.group⟩ fun x => { x with stepping := true }) := by
  change execSingleStep s = _
  simp only [execSingleStep, hp, hh, hs, and_self, if_true]

theorem exec_stepCancel (hp : s.split? s.u.ev.id = some p) :
    exec .stepCancel s = .next (s.modGrp ⟨p.team, p.group⟩ fun x =>
      if x.stopped = some p.sid then { x with stepping := false } else x) := by
  change execStepCancel s = _
  simp only [execStepCancel, hp]

end

/-- Settles O56, one event at a time. -/
theorem debugEvents : Obligations.DebugEvents := by
  unfold Obligations.DebugEvents
  intro s
  refine ⟨fun t g p ps hl hh hp => ?first, fun t g hl hh => ?halted, fun t g hl hh hp => ?empty, fun p hp hh hs => ?step,
    fun t g hl => ?resume, fun x hx => ?write⟩
  case first =>
    have hstops := ((s.landTeamSfu t).haltGroup_stopsTo ⟨t, g⟩ (some p.sid)).trans (State.recordStop_stopsTo _ p)
    refine ⟨s.landTeamSfu_landed t, s.landTeamSfu_others t, s.landTeamSfu_writes t, ?_, ?_,
      hstops.m_eq.trans (s.landTeamSfu_m t), hstops.v_eq, fun hf hs => ?_, fun hf => ?_⟩
    · rw [State.recordStop_grp, State.grp_haltGroup, if_pos rfl]
    · rw [State.recordStop_grp, State.grp_haltGroup, if_pos rfl]
      rfl
    · rw [exec_debugHalt_group hl hf hs, State.requestHalt_first hh hp]
    · exact ⟨_, by rw [exec_debugHalt_team hl hf, State.requestHalt_first hh hp], State.haltTeam_of_stopsTo hstops⟩
  case halted =>
    obtain ⟨hall, hkept, hstops⟩ := s.haltTeam_spec t
    refine ⟨fun hf hs => ?_, fun hf => ⟨s.haltTeam t, ?_, hall, ?_, ?_, hstops.m_eq.trans (s.landTeamSfu_m t), hstops.v_eq⟩⟩
    · rw [exec_debugHalt_group hl hf hs, State.requestHalt_halted hh]
    · rw [exec_debugHalt_team hl hf, State.requestHalt_halted hh]
    · exact hstops.sfu_eq ▸ s.landTeamSfu_landed t
    · rw [hkept _ hh]
  case empty =>
    have hstops := (s.landTeamSfu t).haltGroup_stopsTo ⟨t, g⟩ none
    have hhalted : (((s.landTeamSfu t).haltGroup ⟨t, g⟩ none).grp ⟨t, g⟩).halted = true := by
      rw [State.grp_haltGroup, if_pos rfl]
    by_cases hf : s.u.ev.flag = true ∨ (s.team t).teamStop = true
    · obtain ⟨-, hlanded, hm, hv⟩ := State.haltTeam_of_stopsTo hstops
      obtain ⟨-, hkept, -⟩ := ((s.landTeamSfu t).haltGroup ⟨t, g⟩ none).haltTeam_spec t
      exact ⟨_, by rw [exec_debugHalt_team hl hf, State.requestHalt_empty hh hp], by rw [hkept _ hhalted, hhalted], hlanded,
        hm, hv⟩
    · obtain ⟨hflag, hstop⟩ := not_or.1 hf
      exact ⟨_, by rw [exec_debugHalt_group hl (Bool.eq_false_iff.2 hflag) (Bool.eq_false_iff.2 hstop),
        State.requestHalt_empty hh hp], hhalted, hstops.sfu_eq ▸ s.landTeamSfu_landed t,
        hstops.m_eq.trans (s.landTeamSfu_m t), hstops.v_eq⟩
  case step => exact ⟨exec_singleStep hp hh hs, exec_stepCancel hp⟩
  case resume =>
    refine ⟨?_, ?_, ?_⟩
    · change execDebugResume s = _
      simp only [execDebugResume, hl]
    · rw [State.grp_modGrp, if_pos rfl]
    · rw [State.grp_modGrp, if_pos rfl]
  case write =>
    refine ⟨_, rfl, ?_, rfl⟩
    refine (s.team?_modTeam _ (f := fun x => { x with dbgen := bit s.u.ev.value 0, teamStop := bit s.u.ev.value 1 })
      fun _ => rfl).trans ?_
    rw [hx]
    rfl

end Sys2Proof.Machine

/-! SUPPORT. Copy commands at issue (R238, R240 to R242, R244): the command that a unit captures, and what its issue leaves
alone. -/

namespace Sys2Proof.Machine

/-- The command of an issue before its checks: the operands `c`, with what the state says of the unit (R240). -/
def State.draftCopy (s : State) (c : Copy) : Copy :=
  { c with
    id := s.u.uid, sid := s.u.iss.sid, team := s.u.iss.team, group := s.u.iss.group, core := s.coreOf s.gid
    seq := s.u.seqNo, lanes := s.elanes, act := s.act, vs := s.copyVs, slanes := if s.copyVs.isSome then s.elanes else [] }

/-- The command as it is captured: with the code of its checks, and if they pass, its barriers (R212, R244). -/
def State.captureCopy (s : State) (c : Copy) : Copy :=
  { s.draftCopy c with
    bad := s.copyCheck (s.draftCopy c)
    incs := if s.copyCheck (s.draftCopy c) = 0 then s.copyIncs (s.draftCopy c) else []
    members := (s.targets (s.draftCopy c)).filterMap id }

/-- The request for tenure of a captured command; none where a check fails or no page takes one (R242). -/
def State.copyTenure (s : State) (c : Copy) : List Tenure :=
  let pages := if s.copyCheck (s.draftCopy c) = 0 then s.tenurePages (s.draftCopy c) else []
  if pages.isEmpty then []
  else [{ holder := .copy s.u.uid, team := s.u.iss.team, write := true
          foot := { recs := (s.captureCopy c).records, pages := pages }, since := s.u.clk }]

/-- The status register of a copy command is empty in the executing lanes (R244). -/
def State.emptyStatus (s : State) : State :=
  match s.copyVs with
  | some v => s.elanes.foldl (fun t l => t.setEmpty (s.lane l) v true) s
  | none => s

theorem State.foldl_setEmpty_v (s : State) (f : ℕ → LaneId) (n : ℕ) (e : Bool) (ls : List ℕ) :
    (ls.foldl (fun t l => t.setEmpty (f l) n e) s).r.v = s.r.v := by
  induction ls generalizing s with
  | nil => rfl
  | cons l ls ih => exact ih (s.setEmpty (f l) n e)

/-- Emptying the status register changes nothing else (R244). -/
theorem State.emptyStatus_spec (s : State) :
    { s.emptyStatus with r.v := s.r.v, r.ve := s.r.ve } = s ∧ (∀ x n, s.emptyStatus.getV x n = s.getV x n) ∧
    (∀ v, s.copyVs = some v → ∀ l ∈ s.elanes, s.emptyStatus.isEmpty (s.lane l) v = true) ∧
    ∀ x n, (∀ l ∈ s.elanes, x = s.lane l → s.copyVs ≠ some n) → s.emptyStatus.isEmpty x n = s.isEmpty x n := by
  unfold State.emptyStatus
  cases s.copyVs with
  | none => exact ⟨rfl, fun _ _ => rfl, nofun, fun _ _ _ => rfl⟩
  | some v =>
    obtain ⟨hempty, -, hkept, hrest⟩ := State.foldEmpty s v 1 (fun _ => true) (fun _ => false) s.elanes s
    refine ⟨hrest, fun x n => congrArg (fun t => t.look (x, n) 0) (State.foldl_setEmpty_v ..), fun w hw l hl => ?_,
      fun x n hx => ?_⟩
    · obtain rfl := Option.some.inj hw
      exact (hempty l hl rfl v le_rfl v.lt_succ_self).1
    · refine (hkept x n fun l hl _ he => ?_).2
      have hne : v ≠ n := fun h => hx l hl he (congrArg some h)
      omega

/-- What the issue of a copy command leaves: its command, its request, and the empty status register (R240, R242). -/
theorem State.issueCopy_eq (s : State) (c : Copy) :
    s.issueCopy c = { s.emptyStatus with
      e.copies := s.e.copies ++ [s.captureCopy c], e.reqs := s.e.reqs ++ s.copyTenure c
      u.uid := s.u.uid + 1, u.seqNo := s.u.seqNo + 1 } := by
  obtain ⟨hrest, -⟩ := s.emptyStatus_spec
  have he : s.emptyStatus.e = s.e := (congrArg (fun q : State => q.e) hrest :)
  have hu : s.emptyStatus.u = s.u := (congrArg (fun q : State => q.u) hrest :)
  rw [← he, ← hu]
  rfl

/-- The four instructions are one unit, of a kind and the alignments of its operands (R237). -/
theorem meaningOf_copy {s : State} {o : OpX} {i : Instr} {kind : CopyKind} {d r : ℕ}
    (h : (i, kind, d, r) ∈ [(Instr.cpy o, CopyKind.cpy, 2, 2), (.tcpy o, .tcpy, 8, 8), (.tcpym o, .tcpym, 8, 8),
      (.tstore o, .tstore, 8, 2)]) : meaningOf i s = some (copyUnit kind d r o s) := by
  simp only [List.mem_cons, Prod.mk.injEq, List.not_mem_nil, or_false] at h
  obtain ⟨rfl, rfl, rfl, rfl⟩ | ⟨rfl, rfl, rfl, rfl⟩ | ⟨rfl, rfl, rfl, rfl⟩ | ⟨rfl, rfl, rfl, rfl⟩ := h <;> rfl

/-- The operands of a copy command: an address, or a record where the alignment is 8 (R237). -/
def State.copyOperands (s : State) (kind : CopyKind) (d r : ℕ) (o : OpX) : Copy :=
  { id := 0, kind := kind, sid := 0, team := 0, group := 0, core := 0, seq := 0
    dst := if d = 8 then s.recordAt o.sd.toNat else { base := s.leadAddr o.sd.toNat : Layout }
    src := if r = 8 then s.recordAt o.sa.toNat else { base := s.leadAddr o.sa.toNat : Layout }
    pattern := s.leadAddr o.sa.toNat, ctl := s.leadS o.sb.toNat }

theorem copyUnit_body (s : State) (kind : CopyKind) (d r : ℕ) (o : OpX) :
    (copyUnit kind d r o s).body s.issued = .ok (s.issued.issueCopy (s.copyOperands kind d r o)) := by
  simp only [copyUnit, State.copyOperands, State.issued_recordAt, State.issued_leadAddr, State.issued_leadS]

/-- Settles O36: the four instructions are one unit, whose body is State.issueCopy on their operands. -/
theorem copyIssue : Obligations.CopyIssue := by
  unfold Obligations.CopyIssue
  intro s o i kind d r hi
  refine runsTo_of (meaningOf_copy hi) fun _ =>
    ⟨_, (copyUnit_body s kind d r o).trans (congrArg Res.ok (State.issueCopy_eq ..)), ?_⟩
  set c := s.copyOperands kind d r o
  obtain ⟨hrest, hv, hstatus, hempty⟩ := s.issued.emptyStatus_spec
  rw [State.issued_elanes] at hstatus hempty
  refine ⟨⟨s.issued.captureCopy c, rfl, rfl, rfl, rfl, rfl, rfl, rfl, rfl, rfl, rfl, rfl, rfl, rfl, rfl, rfl, s.issued_elanes,
    s.issued_act, rfl, rfl, fun hb => if_pos hb, fun hb => ?request, fun hb => ⟨if_neg hb, ?none⟩⟩, hv, hstatus, hempty,
    (congrArg (fun q : State => q.r.sr) hrest :), (congrArg (fun q : State => q.r.mr) hrest :),
    (congrArg (fun q : State => q.r.sl) hrest :), (congrArg (fun q : State => q.m) hrest :),
    (congrArg (fun q : State => q.x) hrest :), (congrArg (fun q : State => q.e.tens) hrest :)⟩
  case request =>
    have hcheck : s.issued.copyCheck (s.issued.draftCopy c) = 0 := hb
    simp only [State.copyTenure, hcheck, if_true]
    rfl
  case none =>
    have hcheck : s.issued.copyCheck (s.issued.draftCopy c) ≠ 0 := hb
    have htenure : s.issued.copyTenure c = [] := by
      unfold State.copyTenure
      rw [if_neg hcheck]
      rfl
    exact (congrArg (s.e.reqs ++ ·) htenure).trans (List.append_nil _)

end Sys2Proof.Machine

/-! SUPPORT. The fetch unit (R243, R290 to R294): what the issue of a command leaves, the elements of its runs, and the pattern
numbers of structured sparsity (R189, R190). -/

namespace Sys2Proof

/-- The first number of a reversed range that passes a test is the largest that does. -/
theorem find?_reverse_range {P : ℕ → Bool} {n p : ℕ} (h : (List.range n).reverse.find? P = some p) :
    P p = true ∧ ∀ q, p < q → q < n → P q = false := by
  induction n with
  | zero => cases h
  | succ n ih =>
    rw [List.range_succ, List.reverse_append, List.reverse_singleton, List.singleton_append, List.find?_cons] at h
    split at h
    next hn =>
      obtain rfl := Option.some.inj h
      exact ⟨hn, fun q hq hq' => by omega⟩
    next hn =>
      obtain ⟨hp, hlast⟩ := ih h
      refine ⟨hp, fun q hq hq' => ?_⟩
      rcases Nat.lt_succ_iff_lt_or_eq.1 hq' with hlt | rfl
      · exact hlast q hq hlt
      · exact hn

end Sys2Proof

namespace Sys2Proof.Machine

/-! ### Pattern numbers -/

theorem binom_eq_choose : ∀ n k, binom n k = n.choose k
  | _, 0 => by rw [binom, Nat.choose_zero_right]
  | 0, _ + 1 => rfl
  | n + 1, k + 1 => by rw [binom, Nat.choose_succ_succ, binom_eq_choose n k, binom_eq_choose n (k + 1)]

/-- The last position of a pattern of k + 1 is the largest p for which C(p, k + 1) is at most the number; what is left is a
number of a pattern of k below p (R189). -/
theorem patternOf_last {k n m : ℕ} (hm : m ≤ 8) (hn : n < m.choose (k + 1)) :
    ∃ p, p < m ∧ p.choose (k + 1) ≤ n ∧ n - p.choose (k + 1) < p.choose k ∧
      patternOf (k + 1) n = patternOf k (n - p.choose (k + 1)) ++ [p] := by
  obtain ⟨p, hp⟩ : ∃ p, (List.range 8).reverse.find? (fun p => decide (binom p (k + 1) ≤ n)) = some p :=
    Option.isSome_iff_exists.1 (List.find?_isSome.2 ⟨0, by simp, by simp [binom]⟩)
  obtain ⟨hle, hlast⟩ := find?_reverse_range hp
  simp only [binom_eq_choose, decide_eq_true_eq, decide_eq_false_iff_not, not_le] at hle hlast
  have hpm : p < m := by
    by_contra hge
    exact absurd (hn.trans_le (Nat.choose_le_choose _ (not_lt.1 hge))) (not_lt.2 hle)
  have hnext : n < (p + 1).choose (k + 1) := by
    rcases lt_or_ge (p + 1) 8 with hlt | hge
    · exact hlast (p + 1) p.lt_succ_self hlt
    · exact hn.trans_le (Nat.choose_le_choose _ (by omega))
  refine ⟨p, hpm, hle, ?_, ?_⟩
  · rw [Nat.choose_succ_succ'] at hnext
    omega
  · rw [patternOf, hp, Option.getD_some, binom_eq_choose]

/-- A pattern number below C(m, h) stands for h positions below m, in ascending order, and is the sum of the C(p, i + 1) of its
positions p in their order (R189). -/
theorem patternOf_spec {h n m : ℕ} (hm : m ≤ 8) (hn : n < m.choose h) :
    (patternOf h n).length = h ∧ (patternOf h n).Pairwise (· < ·) ∧ (∀ p ∈ patternOf h n, p < m) ∧
      ((patternOf h n).mapIdx fun i p => p.choose (i + 1)).sum = n := by
  induction h generalizing n m with
  | zero =>
    obtain rfl : n = 0 := by simpa using hn
    exact ⟨rfl, .nil, nofun, rfl⟩
  | succ k ih =>
    obtain ⟨p, hpm, hle, hrest, heq⟩ := patternOf_last hm hn
    obtain ⟨hlen, hsorted, hbelow, hsum⟩ := ih (hpm.le.trans hm) hrest
    rw [heq]
    refine ⟨by rw [List.length_append, hlen, List.length_singleton], ?_, fun q hq => ?_, ?_⟩
    · exact List.pairwise_append.2 ⟨hsorted, List.pairwise_singleton .., fun a ha b hb =>
        List.mem_singleton.1 hb ▸ hbelow a ha⟩
    · rcases List.mem_append.1 hq with hq | hq
      · exact (hbelow q hq).trans hpm
      · exact List.mem_singleton.1 hq ▸ hpm
    · rw [List.mapIdx_concat, List.sum_append, hsum, hlen, List.sum_singleton]
      omega

theorem patternOf_four {n : ℕ} (hn : n ≤ 69) : ∃ a b c d, patternOf 4 n = [a, b, c, d] ∧ a < b ∧ b < c ∧ c < d ∧ d < 8 ∧
    n = a + b.choose 2 + c.choose 3 + d.choose 4 := by
  obtain ⟨hlen, hsorted, hbelow, hsum⟩ := patternOf_spec (h := 4) (m := 8) le_rfl (Nat.lt_succ_of_le hn : n < 70)
  obtain ⟨a, b, c, d, heq⟩ := List.length_eq_four.1 hlen
  simp only [heq, List.pairwise_cons, List.mem_cons, List.not_mem_nil, or_false, forall_eq_or_imp, forall_eq]
    at hsorted hbelow
  simp only [heq, List.mapIdx_cons, List.mapIdx_nil, List.sum_cons, List.sum_nil, zero_add, Nat.reduceAdd,
    Nat.choose_one_right] at hsum
  exact ⟨a, b, c, d, heq, by omega, by omega, by omega, by omega, by omega⟩

theorem patternOf_two {n : ℕ} (hn : n ≤ 5) : ∃ a b, patternOf 2 n = [a, b] ∧ a < b ∧ b < 4 ∧ n = a + b.choose 2 := by
  obtain ⟨hlen, hsorted, hbelow, hsum⟩ := patternOf_spec (h := 2) (m := 4) (by decide) (Nat.lt_succ_of_le hn : n < 6)
  obtain ⟨a, b, heq⟩ := List.length_eq_two.1 hlen
  simp only [heq, List.pairwise_cons, List.mem_cons, List.not_mem_nil, or_false, forall_eq_or_imp, forall_eq]
    at hsorted hbelow
  simp only [heq, List.mapIdx_cons, List.mapIdx_nil, List.sum_cons, List.sum_nil, zero_add, Nat.reduceAdd,
    Nat.choose_one_right] at hsum
  exact ⟨a, b, heq, by omega, by omega, by omega⟩

/-! ### The elements of a run -/

section
variable {f : FetchOp} {g : ℕ → ℕ} {free : Word} {j : ℕ}

/-- The coordinates that the lane's registers name for output element j (R290). -/
def FetchOp.coordOf (f : FetchOp) (j : ℕ) : Coord := (f.x.getD 0 0 + j, f.x.getD 1 0, f.x.getD 2 0, f.x.getD 3 0)

theorem FetchOp.element_none (hm : f.minor ≠ 2) (hc : f.coord g j = none) : f.element g free j = 0 := by
  simp only [FetchOp.element, hm, if_false, hc]

theorem FetchOp.element_some {c : Coord} (hm : f.minor ≠ 2) (hc : f.coord g j = some c) : f.element g free j =
    if f.data.inside c = true then
      if f.minor = 0 ∧ fmtDx f.data.fmt = true then
        roundTo f.target { mode := modeOf f.mode 0, sat := f.sat, sat8 := f.sat8 } (f.dxAt g c)
      else f.data.elemIn g c
    else 0 := by
  simp only [FetchOp.element, hm, if_false, hc]
  cases f.data.inside c <;> rfl

theorem FetchOp.coord_tile (hm : f.minor ≠ 1) : f.coord g j = some (f.coordOf j) := if_neg hm

theorem FetchOp.element_dense (hm : f.minor = 0) (hdx : fmtDx f.data.fmt = false) : f.element g free j =
    if f.data.inside (f.coordOf j) = true then f.data.elemIn g (f.coordOf j) else 0 := by
  have hcoord : f.coord g j = some (f.coordOf j) := FetchOp.coord_tile (by omega)
  simp only [FetchOp.element_some (by omega) hcoord, hdx, Bool.false_eq_true, and_false, if_false]

theorem FetchOp.element_dx (hm : f.minor = 0) (hdx : fmtDx f.data.fmt = true) : f.element g free j =
    if f.data.inside (f.coordOf j) = true then
      roundTo f.target { mode := modeOf f.mode 0, sat := f.sat, sat8 := f.sat8 } (f.dxAt g (f.coordOf j))
    else 0 := by
  have hcoord : f.coord g j = some (f.coordOf j) := FetchOp.coord_tile (by omega)
  simp only [FetchOp.element_some (by omega) hcoord, hm, hdx, and_self, if_true]

/-- The index of a gather (R293). -/
def FetchOp.indexIn (f : FetchOp) (g : ℕ → ℕ) : ℕ := f.aux.elemIn g (f.x.getD 4 0, 0, 0, 0)

/-- The coordinates in the row that a gather's index names (R293). -/
def FetchOp.rowCoord (f : FetchOp) (g : ℕ → ℕ) (j : ℕ) : Coord := (f.x.getD 0 0 + j, f.indexIn g, f.x.getD 2 0, 0)

/-- A gather reads nothing outside its list, at a negative index, or outside extent 1 (R293). -/
theorem FetchOp.element_gather_outside (hm : f.minor = 1)
    (h : f.aux.e 0 ≤ f.x.getD 4 0 ∨ f.aux.fmt = 0x07 ∧ 2 ^ 31 ≤ f.indexIn g ∨ f.data.e 1 ≤ f.indexIn g) :
    f.element g free j = 0 := by
  refine FetchOp.element_none (by omega) ?_
  rw [FetchOp.coord, if_pos hm]
  by_cases hp : f.x.getD 4 0 < f.aux.e 0
  · have hindex : f.index (f.indexIn g) = none := by
      rcases h with hlist | hneg | hext
      · omega
      · exact if_pos hneg
      · rw [FetchOp.index, if_neg (not_lt.2 hext), ite_self]
    rw [if_pos hp, ← FetchOp.indexIn, hindex]
    rfl
  · exact if_neg hp

theorem FetchOp.element_gather_inside (hm : f.minor = 1) (hp : f.x.getD 4 0 < f.aux.e 0)
    (hs : f.aux.fmt = 0x07 → f.indexIn g < 2 ^ 31) (hv : f.indexIn g < f.data.e 1) : f.element g free j =
      if f.data.inside (f.rowCoord g j) = true then f.data.elemIn g (f.rowCoord g j) else 0 := by
  have hindex : f.index (f.indexIn g) = some (f.indexIn g) := by
    rw [FetchOp.index, if_neg fun h => absurd h.2 (not_le.2 (hs h.1)), if_pos hv]
  have hcoord : f.coord g j = some (f.rowCoord g j) := by
    rw [FetchOp.coord, if_pos hm, if_pos hp, ← FetchOp.indexIn, hindex]
    rfl
  simp only [FetchOp.element_some (by omega) hcoord, hm, one_ne_zero, false_and, if_false]

/-! ### Structured sparsity -/

theorem sparseShape_eq (p24 : Bool) : sparseShape p24 = (if p24 = true then 4 else 8, if p24 = true then 10 else 4,
    if p24 = true then 3 else 7, if p24 = true then 5 else 69) := by
  unfold sparseShape
  split <;> rfl

theorem FetchOp.element_pruned (hm : f.minor = 2) (hk : f.kept g free (f.coordOf j) = none) : f.element g free j = 0 := by
  simp only [FetchOp.coordOf] at hk
  simp only [FetchOp.element, FetchOp.at_, hm, if_true, hk]

theorem FetchOp.element_kept {c : Coord} (hm : f.minor = 2) (hk : f.kept g free (f.coordOf j) = some c) :
    f.element g free j = if f.data.inside c = true then f.data.elemIn g c else 0 := by
  simp only [FetchOp.coordOf] at hk
  simp only [FetchOp.element, FetchOp.at_, hm, if_true, hk]

theorem FetchOp.kept_outside {x : Coord} (h : f.keptInside x = false) : f.kept g free x = none := by
  simp only [FetchOp.kept, h, Bool.not_false, Bool.true_or, if_true]

theorem FetchOp.kept_malformed {x : Coord} (h : metaBad f.alt (f.metaWord g free x) = true) : f.kept g free x = none := by
  simp only [FetchOp.kept, h, Bool.or_true, if_true]

/-- The positions that the metadata of a logical element keeps in its group (R189, R292). -/
def FetchOp.positions (f : FetchOp) (g : ℕ → ℕ) (free : Word) (x : Coord) : List ℕ :=
  patternOf ((sparseShape f.alt).1 / 2) (metaNumber f.alt (f.metaWord g free x) (metaAt f.alt x).2)

/-- Kept value k of a logical element's group (R292). -/
def FetchOp.keptAt (f : FetchOp) (x : Coord) (k : ℕ) : Coord :=
  (x.1 / (sparseShape f.alt).1 * ((sparseShape f.alt).1 / 2) + k, x.2)

theorem FetchOp.kept_wellFormed {x : Coord} (hi : f.keptInside x = true) (hw : metaBad f.alt (f.metaWord g free x) = false) :
    f.kept g free x = ((f.positions g free x).findIdx? fun p => decide (p = x.1 % (sparseShape f.alt).1)).map (f.keptAt x) := by
  simp only [FetchOp.kept, hi, hw, Bool.not_true, Bool.or_self, Bool.false_eq_true, if_false]
  change (match (f.positions g free x).findIdx? _ with | some j => some (f.keptAt x j) | none => none) = _
  cases (f.positions g free x).findIdx? fun p => decide (p = x.1 % (sparseShape f.alt).1) <;> rfl

theorem FetchOp.metaWord_inside {x : Coord} (h : f.aux.inside (metaAt f.alt x).1 = true) :
    f.metaWord g free x = f.aux.elemIn g (metaAt f.alt x).1 := if_pos h

/-- The clause of a structured-sparse element, for a group of n, `per` numbers of `bits` bits a word (R292). -/
theorem FetchOp.element_sparse {n per bits top : ℕ} (hm : f.minor = 2) (hs : sparseShape f.alt = (n, per, bits, top)) :
    let x := f.coordOf j
    let q := x.1 / n
    let m : Coord := (q / per, x.2)
    let w := f.aux.elemIn g m
    let ps := patternOf (n / 2) (w / 2 ^ (bits * (q % per)) % 2 ^ bits)
    let at_ := fun (k : ℕ) => ((q * (n / 2) + k, x.2) : Coord)
    (f.data.inside (at_ 0) = false → f.element g free j = 0) ∧
    (f.data.inside (at_ 0) = true → f.aux.inside m = true →
      (metaBad f.alt w = true → f.element g free j = 0) ∧
      (metaBad f.alt w = false →
        (x.1 % n ∉ ps → f.element g free j = 0) ∧
        ∀ k, ps.findIdx? (fun p => decide (p = x.1 % n)) = some k →
          f.element g free j = if f.data.inside (at_ k) = true then f.data.elemIn g (at_ k) else 0)) := by
  intro x q m w ps at_
  have hmeta : metaAt f.alt x = (m, q % per) := by simp only [metaAt, hs, m, q]
  have hinside : f.keptInside x = f.data.inside (at_ 0) := by simp only [FetchOp.keptInside, hs, at_, q, Nat.add_zero]
  refine ⟨fun hi => FetchOp.element_pruned hm (FetchOp.kept_outside (hinside.trans hi)), fun hi ha => ?_⟩
  have hword : f.metaWord g free x = w := by rw [FetchOp.metaWord_inside (by rw [hmeta]; exact ha), hmeta]
  refine ⟨fun hw => FetchOp.element_pruned hm (FetchOp.kept_malformed (by rw [hword]; exact hw)), fun hw => ?_⟩
  have hpos : f.positions g free x = ps := by simp only [FetchOp.positions, hmeta, hword, hs, metaNumber, ps]
  have hkept := FetchOp.kept_wellFormed (g := g) (free := free) (hinside.trans hi) (by rw [hword]; exact hw)
  rw [hpos, hs] at hkept
  refine ⟨fun hnot => FetchOp.element_pruned hm ?_, fun k hk => FetchOp.element_kept hm ?_⟩
  · have hnone : (ps.findIdx? fun p => decide (p = x.1 % n)) = none :=
      List.findIdx?_eq_none_iff.2 fun p hp => decide_eq_false fun he => hnot (he ▸ hp)
    rw [hkept, hnone]
    rfl
  · rw [hkept, hk]
    simp only [Option.map_some, FetchOp.keptAt, hs, at_, q]

end

/-! ### Issue of a command -/

/-- The destination of a unit whose results land later: empty in the executing lanes, zero in the masked ones under zi (R61,
R73). -/
def State.emptyDest (s : State) (vd k : ℕ) : State :=
  s.act.foldl (fun t l =>
    if s.maskOk l then t.markVs (s.lane l) vd true k else if s.zi then t.setVs (s.lane l) vd 0 k else t) s

theorem State.emptyDest_spec (s : State) (vd k : ℕ) :
    (∀ l ∈ s.elanes, ∀ n, vd ≤ n → n < vd + k → (s.emptyDest vd k).isEmpty (s.lane l) n = true ∧
      (s.emptyDest vd k).getV (s.lane l) n = s.getV (s.lane l) n) ∧
    (s.zi = true → ∀ l ∈ s.act, s.maskOk l = false → ∀ n, vd ≤ n → n < vd + k →
      (s.emptyDest vd k).getV (s.lane l) n = 0) ∧
    (∀ x n, (∀ l ∈ s.wlanes, x = s.lane l → n < vd ∨ vd + k ≤ n) →
      (s.emptyDest vd k).getV x n = s.getV x n ∧ (s.emptyDest vd k).isEmpty x n = s.isEmpty x n) := by
  obtain ⟨hempty, hzero, hkept, -⟩ := State.foldEmpty s vd k s.maskOk (fun _ => s.zi) s.act s
  refine ⟨fun l hl => ?_, fun hz l ha hm => hzero l ha hm hz, fun x n hx => hkept x n fun l hl hw => ?_⟩
  · obtain ⟨ha, hm⟩ := State.mem_elanes.1 hl
    exact hempty l ha hm
  · exact hx l (State.mem_wlanes.2 ⟨hl, Bool.or_eq_true_iff.1 hw⟩)

/-- Emptying a destination changes V registers alone (R73). -/
theorem State.emptyDest_rest (s : State) (vd k : ℕ) : { s.emptyDest vd k with r.v := s.r.v, r.ve := s.r.ve } = s := by
  obtain ⟨-, -, -, hrest⟩ := State.foldEmpty s vd k s.maskOk (fun _ => s.zi) s.act s
  exact hrest

theorem State.emptyDest_regs (s : State) (vd k : ℕ) : (s.emptyDest vd k).r.sr = s.r.sr ∧
    (s.emptyDest vd k).r.mr = s.r.mr ∧ (s.emptyDest vd k).r.sl = s.r.sl := by
  have hrest := s.emptyDest_rest vd k
  exact ⟨(congrArg (fun q : State => q.r.sr) hrest :), (congrArg (fun q : State => q.r.mr) hrest :),
    (congrArg (fun q : State => q.r.sl) hrest :)⟩

/-- The runs of a command, one for each executing lane, with their lanes (R290). -/
def State.fetchRuns (s : State) (minor va : ℕ) (data aux : Layout) : List (ℕ × FetchOp) :=
  s.elanes.mapIdx fun i l => (l, s.fetchOf minor va data aux (s.u.uid + i) l)

/-- The access that stands for a run, held where its translation fails (R176, R290). -/
def State.fetchAccess (s : State) (vd : ℕ) (data : Layout) (x : ℕ × FetchOp) : Access :=
  let bad := s.runFault (s.coreOf s.gid) s.asid x.2 x.1
  { id := x.2.acc, sid := s.u.iss.sid, lane := s.lane x.1, unitPc := s.u.iss.unitPc, seq := s.u.seqNo
    kind := .fetch, gaddr := (bad.map (·.1)).getD data.base, size := 0, dst := vd, dstN := 4
    phase := match bad with | some b => .held b.2 | none => .issued
    born := s.u.clk }

/-- Runs and their accesses come to be in flight (R290). -/
def State.addRuns (s : State) (as : List Access) (fs : List (ℕ × FetchOp)) : State :=
  { s with
    k.acc := s.k.acc ++ as, e.fetches := s.e.fetches ++ fs.map Prod.snd, u.uid := s.u.uid + fs.length
    u.seqNo := s.u.seqNo + 1 }

/-- The state in which a command's runs are in flight and their destinations empty (R290). -/
def State.fetchStarted (s : State) (minor vd va : ℕ) (data aux : Layout) : State :=
  (s.emptyDest vd 4).addRuns ((s.fetchRuns minor va data aux).map (s.fetchAccess vd data)) (s.fetchRuns minor va data aux)

/-- Behind the runs, an issue only counts the chunks that they read and reports those held (R176, R424). -/
theorem State.issueFetch_eq (s : State) (minor vd va : ℕ) (data aux : Layout) : ∃ fq f,
    s.issueFetch minor vd va data aux = { s.fetchStarted minor vd va data aux with d.fq := fq, f := f } := by
  obtain ⟨f, hf⟩ := (s.fetchStarted minor vd va data aux).countChunks_rest (s.coreOf s.gid) s.asid
    (s.runPlaces (s.coreOf s.gid) s.asid ((s.fetchRuns minor va data aux).map Prod.snd))
  obtain ⟨fq, hq⟩ := State.postHeld_rest { s.fetchStarted minor vd va data aux with f := f } s.u.iss.sid s.u.seqNo
  exact ⟨fq, f, (congrArg (fun t : State => t.postHeld s.u.iss.sid s.u.seqNo) hf).trans hq⟩

/-- What the issue of a fetch leaves: registers with the destination empty, memory and execution as they were, and its runs and
their accesses behind those in flight (R290). -/
theorem State.issueFetch_leaves (s : State) (minor vd va : ℕ) (data aux : Layout) :
    let t := s.issueFetch minor vd va data aux
    t.r = (s.emptyDest vd 4).r ∧ t.m = s.m ∧ t.x = s.x ∧
    t.e.fetches = s.e.fetches ++ (s.fetchRuns minor va data aux).map Prod.snd ∧
    t.k.acc = s.k.acc ++ (s.fetchRuns minor va data aux).map (s.fetchAccess vd data) := by
  intro t
  obtain ⟨fq, f, heq⟩ := s.issueFetch_eq minor vd va data aux
  have hrest := s.emptyDest_rest vd 4
  rw [show t = _ from heq]
  exact ⟨rfl, (congrArg (fun q : State => q.m) hrest :), (congrArg (fun q : State => q.x) hrest :),
    congrArg (· ++ _) (congrArg (fun q : State => q.e.fetches) hrest :),
    congrArg (· ++ _) (congrArg (fun q : State => q.k.acc) hrest :)⟩

theorem State.fetchRuns_snd (s : State) (minor va : ℕ) (data aux : Layout) : (s.fetchRuns minor va data aux).map Prod.snd =
    s.elanes.mapIdx fun i l => s.fetchOf minor va data aux (s.u.uid + i) l := by
  simp only [State.fetchRuns, List.mapIdx_eq_zipIdx_map, List.map_map]
  rfl

theorem State.fetchRuns_access (s : State) (minor vd va : ℕ) (data aux : Layout) :
    ((s.fetchRuns minor va data aux).map (s.fetchAccess vd data)).map (fun a => (a.id, a.lane, a.kind, a.dst, a.dstN)) =
      s.elanes.mapIdx fun i l => (s.u.uid + i, s.lane l, .fetch, vd, 4) := by
  simp only [State.fetchRuns, List.mapIdx_eq_zipIdx_map, List.map_map]
  rfl

@[simp] theorem State.issued_fetchOf (s : State) : s.issued.fetchOf = s.fetchOf := by
  funext minor va data aux acc l
  simp only [State.fetchOf, State.issued_lead]
  rfl

/-! ### The units -/

section
variable {s : State} {o : OpA} {minor : ℕ}

theorem meaningOf_fetch {i : Instr} (h : (i, minor) ∈ [(Instr.fetch o, 0), (.fetchx o, 1), (.fetchs o, 2)]) :
    meaningOf i s = some (fetchUnit minor o s) := by
  simp only [List.mem_cons, Prod.mk.injEq, List.not_mem_nil, or_false] at h
  obtain ⟨rfl, rfl⟩ | ⟨rfl, rfl⟩ | ⟨rfl, rfl⟩ := h <;> rfl

/-- The record of a fetch's data tile (R290). -/
def State.fetchData (s : State) (o : OpA) : Layout := (s.tileOf (s.lowV o.vb.toNat)).layout

/-- The registers of the handles that a fetch uses (R290). -/
def State.fetchHandles (s : State) (minor : ℕ) (o : OpA) : List ℕ :=
  if fetchAux minor (s.fetchData o) = true then [o.vb.toNat, s.vc o.vd.toNat] else [o.vb.toNat]

/-- The record of a fetch's second tile (R291 to R293). -/
def State.fetchSecond (s : State) (minor : ℕ) (o : OpA) : Layout :=
  if fetchAux minor (s.fetchData o) = true then (s.tileOf (s.lowV (s.vc o.vd.toNat))).layout else {}

theorem fetchUnit_idle (h : s.elanes = []) : (fetchUnit minor o s).body s.issued =
    .ok (s.issued.issueFetch minor o.vd.toNat o.va.toNat {} {}) := by
  simp only [fetchUnit, State.issued_elanes, h, List.isEmpty_nil, if_true]

theorem State.issued_fetchData (s : State) : s.issued.fetchData o = s.fetchData o := by
  rw [State.fetchData, State.issued_tileOf, State.issued_lowV, State.fetchData]

theorem State.issued_fetchHandles (s : State) : s.issued.fetchHandles minor o = s.fetchHandles minor o := by
  rw [State.fetchHandles, s.issued_fetchData, State.issued_vc, State.fetchHandles]

theorem State.issued_fetchSecond (s : State) : s.issued.fetchSecond minor o = s.fetchSecond minor o := by
  rw [State.fetchSecond, s.issued_fetchData, State.issued_vc, State.issued_tileOf, State.issued_lowV, State.fetchSecond]

/-- With an executing lane a fetch goes first by its handles, then by its format (R290). -/
theorem fetchUnit_body (h : s.elanes ≠ []) : (fetchUnit minor o s).body s.issued =
    (s.handlesV (s.fetchHandles minor o)).elim
      (if s.fetchFormat minor (s.fetchData o) (s.fetchSecond minor o) = true then .trap { code := FORMAT }
      else .ok (s.issued.issueFetch minor o.vd.toNat o.va.toNat (s.fetchData o) (s.fetchSecond minor o))) Res.trap := by
  have hlanes : ¬s.issued.elanes.isEmpty = true := by rwa [State.issued_elanes, List.isEmpty_iff]
  have hhandles : s.issued.handlesV (s.issued.fetchHandles minor o) = s.handlesV (s.fetchHandles minor o) := by
    rw [State.issued_handlesV, s.issued_fetchHandles]
  refine (if_neg hlanes).trans ?_
  split
  next f hf =>
    rw [hhandles.symm.trans hf]
    rfl
  next hf =>
    rw [hhandles.symm.trans hf]
    change (if s.issued.fetchFormat minor (s.issued.fetchData o) (s.issued.fetchSecond minor o) = true then _ else
      Res.ok (s.issued.issueFetch minor o.vd.toNat o.va.toNat (s.issued.fetchData o) (s.issued.fetchSecond minor o))) = _
    rw [State.issued_fetchFormat, s.issued_fetchData, s.issued_fetchSecond]
    rfl

end

section
variable {s : State} {o : OpFinv}

/-- A fetch-unit line that FINV drops: the core's, where its address in some page of the tile lies in the tile's bounding
interval (R294). -/
def State.finvHits (s : State) (o : OpFinv) (y : L1Line) : Bool :=
  let x := s.tileOf (s.lowV o.vb.toNat)
  let inside := fun va => decide (x.layout.base < va + 128 ∧ va < x.layout.top)
  decide (y.core = s.coreOf s.gid) && (inside y.va || x.foot.pages.any fun lf =>
    decide (lf.frame ≤ y.pa ∧ y.pa < lf.frame + lf.size) && inside (lf.va + (y.pa - lf.frame)))

theorem State.finvHits_iff {y : L1Line} (hc : y.core = s.coreOf s.gid) : s.finvHits o y = true ↔
    let x := s.tileOf (s.lowV o.vb.toNat)
    (x.layout.base < y.va + 128 ∧ y.va < x.layout.top) ∨
      ∃ lf ∈ x.foot.pages, lf.frame ≤ y.pa ∧ y.pa < lf.frame + lf.size ∧
        x.layout.base < lf.va + (y.pa - lf.frame) + 128 ∧ lf.va + (y.pa - lf.frame) < x.layout.top := by
  simp [State.finvHits, hc, and_assoc]

theorem meanFinv_idle (h : s.elanes = []) : (meanFinv o s).body s.issued = .ok s.issued := by
  simp only [meanFinv, State.issued_elanes, h, List.isEmpty_nil, if_true]

theorem meanFinv_badHandle {f : FaultInfo} (h : s.elanes ≠ []) (hf : s.handlesV [o.vb.toNat] = some f) :
    (meanFinv o s).body s.issued = .trap f := by
  simp only [meanFinv, State.issued_elanes, List.isEmpty_iff, h, if_false, State.issued_handlesV, hf]

theorem meanFinv_drops (h : s.elanes ≠ []) (hf : s.handlesV [o.vb.toNat] = none) : (meanFinv o s).body s.issued =
    .ok { s.issued with k.fc := s.k.fc.filter fun y => !s.finvHits o y } := by
  simp only [meanFinv, State.issued_elanes, List.isEmpty_iff, h, if_false, State.issued_handlesV, hf, State.issued_tileOf,
    State.issued_lowV, State.issued_coreOf, State.issued_gid, State.finvHits]
  rfl

end

/-- Settles O42: a fetch's body goes by its handles and format and then issues its runs; an element by the lemma of its kind; and
the pattern numbers as the combinatorial number system. -/
theorem fetchUnitInstructions : Obligations.FetchUnit := by
  unfold Obligations.FetchUnit
  refine ⟨fun s o i minor hi => ⟨fun h => ?idle, fun h => ?fetch⟩, fun s o => ⟨fun h => ?finvIdle, fun f h hf => ?finvFault,
    fun h hf => ?finv⟩, fun f g free j => ?elements, fun n hn => ?four, fun n hn => ?two⟩
  case idle =>
    refine runsTo_of (meaningOf_fetch hi) fun _ => ⟨_, fetchUnit_idle h, ?_⟩
    obtain ⟨hr, hm, -, hfetches, hacc⟩ := s.issued.issueFetch_leaves minor o.vd.toNat o.va.toNat {} {}
    have hruns : s.issued.fetchRuns minor o.va.toNat {} {} = [] := by
      rw [State.fetchRuns, State.issued_elanes, h, List.mapIdx_nil]
    rw [hruns, List.map_nil, List.append_nil] at hfetches hacc
    obtain ⟨hsr, -, -⟩ := s.issued.emptyDest_regs o.vd.toNat 4
    exact ⟨hfetches, hacc, hm, (congrArg Regs.sr hr).trans hsr⟩
  case fetch =>
    intro d uses rs x
    refine ⟨fun f hf hr => exec_trap (meaningOf_fetch hi) hr
        ((fetchUnit_body h).trans (congrArg (Option.elim · _ _) hf)),
      fun hf hx hr => exec_trap (meaningOf_fetch hi) hr
        ((fetchUnit_body h).trans ((congrArg (Option.elim · _ _) hf).trans (if_pos hx))),
      fun hf hx => runsTo_of (meaningOf_fetch hi) fun _ => ⟨s.issued.issueFetch minor o.vd.toNat o.va.toNat d x,
        (fetchUnit_body h).trans ((congrArg (Option.elim · _ _) hf).trans (if_neg (Bool.eq_false_iff.1 hx))), ?_⟩⟩
    obtain ⟨hr, hm, hrun, hfetches, hacc⟩ := s.issued.issueFetch_leaves minor o.vd.toNat o.va.toNat d x
    obtain ⟨hempty, hzero, hkept⟩ := s.issued.emptyDest_spec o.vd.toNat 4
    obtain ⟨hsr, hmr, hsl⟩ := s.issued.emptyDest_regs o.vd.toNat 4
    have hmap := s.issued.fetchRuns_access minor o.vd.toNat o.va.toNat d x
    rw [State.issued_elanes] at hempty hmap
    rw [State.issued_act] at hzero
    rw [State.issued_wlanes] at hkept
    rw [State.fetchRuns_snd, State.issued_elanes, State.issued_fetchOf] at hfetches
    generalize s.issued.issueFetch minor o.vd.toNat o.va.toNat d x = t at *
    generalize s.issued.emptyDest o.vd.toNat 4 = u at *
    have hv : ∀ y n, t.getV y n = u.getV y n := fun y n => congrArg (fun r : Regs => r.v.look (y, n) 0) hr
    have he : ∀ y n, t.isEmpty y n = u.isEmpty y n := fun y n => congrArg (fun r : Regs => r.ve.look (y, n) false) hr
    refine ⟨hfetches, ⟨_, hacc, hmap⟩, fun l hl n hn hn' => ?empty, fun hz l hl hm => ?zero, fun y n hy => ?kept, hm,
      (congrArg Regs.sr hr).trans hsr, (congrArg Regs.mr hr).trans hmr, (congrArg Regs.sl hr).trans hsl, hrun⟩
    case empty =>
      rw [hv, he]
      exact hempty l hl n hn hn'
    case zero =>
      refine (State.getVs_of_bytes _ _ _ _ 0 fun n hn hn' => ?_).trans (Nat.zero_mod _)
      rw [hv, Nat.zero_div]
      exact hzero hz l hl hm n hn hn'
    case kept =>
      rw [hv, he]
      exact hkept y n hy
  case finvIdle => exact runsTo_of rfl fun _ => ⟨_, meanFinv_idle h, rfl⟩
  case finvFault => exact fun hr => exec_trap rfl hr (meanFinv_badHandle h hf)
  case finv =>
    refine runsTo_of rfl fun _ => ⟨_, meanFinv_drops h hf, rfl, fun y hy => (List.mem_filter.1 hy).1, fun y hy hc => ?_,
      fun y hy hc => ?_⟩
    · exact List.mem_filter.2 ⟨hy, by simp [State.finvHits, hc]⟩
    · exact Iff.trans (by simp [hy]) (State.finvHits_iff hc)
  case elements =>
    intro x1 x2 x3 c
    refine ⟨fun hj => elem_joinElems _ _ hj, fun hm hdx => ⟨?shape, FetchOp.element_dense hm hdx⟩,
      fun hm hdx => ⟨?shapeDx, fun hi => (FetchOp.element_dx hm hdx).trans (if_neg (Bool.eq_false_iff.1 hi)),
        fun hi => (FetchOp.element_dx hm hdx).trans (if_pos hi)⟩,
      fun hm => ⟨FetchOp.element_gather_outside hm, FetchOp.element_gather_inside hm⟩, fun hm => ?sparse⟩
    case shape => simp only [FetchOp.shape, hdx, Bool.false_eq_true, and_false, if_false]
    case shapeDx => simp only [FetchOp.shape, hm, hdx, and_self, if_true]
    case sparse => exact FetchOp.element_sparse hm (sparseShape_eq f.alt)
  case four => exact patternOf_four hn
  case two => exact patternOf_two hn

end Sys2Proof.Machine

/-! SUPPORT. What evictions and touches of the second level leave of the whole state (R253, R254, R261, R264). -/

namespace Sys2Proof.Machine

/-- A state without its caches, the copies of their lines, the watches on them and the reports: what no eviction and no touch of
the second level changes. -/
def State.uncached (s : State) : State := { s with r.sl := [], m.snaps := [], k := {}, d := {} }

theorem State.foldl_uncached {α : Type} {f : State → α → State} (hf : ∀ t x, (f t x).uncached = t.uncached) (l : List α)
    (s : State) : (l.foldl f s).uncached = s.uncached := by
  induction l generalizing s with
  | nil => rfl
  | cons x l ih => exact (ih _).trans (hf s x)

@[simp] theorem State.uncached_ite (c : Prop) [Decidable c] (a b : State) :
    (if c then a else b).uncached = if c then a.uncached else b.uncached := apply_ite ..

@[simp] theorem State.addSnap_uncached (s : State) (h : Holder) (line : ℕ) : (s.addSnap h line).uncached = s.uncached := by
  unfold State.addSnap
  split <;> rfl

@[simp] theorem State.dropRegion_uncached (s : State) (slice base lg core : ℕ) :
    (s.dropRegion slice base lg core).uncached = s.uncached :=
  State.foldl_uncached (f := fun t (x : L1Line) => t.triggerCore x.core x.line) (fun _ _ => rfl) _ s

@[simp] theorem State.dropSharers_uncached (s : State) (die pa : ℕ) : (s.dropSharers die pa).uncached = s.uncached := by
  unfold State.dropSharers
  split
  · exact State.foldl_uncached (fun t c => t.dropRegion_uncached _ _ _ c) _ s
  · rfl

@[simp] theorem State.dropGuests_uncached (s : State) (pa : ℕ) (f : ℕ → Bool) : (s.dropGuests pa f).uncached = s.uncached :=
  rfl

@[simp] theorem State.writeBack_uncached (s : State) (line : ℕ) : (s.writeBack line).uncached = s.uncached := rfl

@[simp] theorem State.purgeLine_uncached (s : State) (pa : ℕ) : (s.purgeLine pa).uncached = s.uncached :=
  State.foldl_uncached (fun t d => t.dropSharers_uncached d pa) _ s

@[simp] theorem State.evictL2_uncached (s : State) (x : L2Line) : (s.evictL2 x).uncached = s.uncached := by
  change State.uncached (if x.guest then s else _) = s.uncached
  split
  · rfl
  · exact State.foldl_uncached (fun t d => t.dropSharers_uncached d x.pa) _ _

@[simp] theorem State.evictOne_uncached (s : State) (die pa : ℕ) (f : L2Line → Bool) :
    (s.evictOne die pa f).uncached = s.uncached := by
  unfold State.evictOne
  split
  · exact s.evictL2_uncached _
  · rfl

@[simp] theorem State.shrinkWays_uncached (s : State) (die ways : ℕ) : (s.shrinkWays die ways).uncached = s.uncached :=
  State.foldl_uncached (fun t x => by simp) _ s

@[simp] theorem State.resCount_uncached (s : State) (die pa : ℕ) : (s.resCount die pa).1.uncached = s.uncached := by
  unfold State.resCount
  split <;> rfl

@[simp] theorem State.l2Hit_uncached (s : State) (die pa : ℕ) (tracked : Bool) (cls : Option ℕ) (y : L2Line) :
    (s.l2Hit die pa tracked cls y).uncached = s.uncached := by
  unfold State.l2Hit
  extract_lets t
  change t.uncached = s.uncached
  simp only [t]
  split <;> simp

@[simp] theorem State.l2Miss_uncached (s : State) (die pa loc : ℕ) (tracked nt guest : Bool) (cls : Option ℕ) :
    (s.l2Miss die pa loc tracked nt guest cls).uncached = s.uncached := by
  unfold State.l2Miss
  extract_lets room t
  have ht : t.uncached = s.uncached := by
    simp only [t]
    split <;> simp
  split <;> exact ht

@[simp] theorem State.l2Place_uncached (s : State) (die pa loc : ℕ) (tracked nt guest : Bool) :
    (s.l2Place die pa loc tracked nt guest).uncached = s.uncached := by
  unfold State.l2Place
  dsimp only
  split <;> simp

@[simp] theorem State.postFq_uncached (s : State) (r : FqRec) : (s.postFq r).uncached = s.uncached := rfl

@[simp] theorem State.aliasCheck_uncached (s : State) (die pa : ℕ) (tracked : Bool) (core asid : ℕ) :
    (s.aliasCheck die pa tracked core asid).uncached = s.uncached := by
  unfold State.aliasCheck
  split <;> simp

@[simp] theorem State.noteAlias_uncached (s : State) (pa loc : ℕ) : (s.noteAlias pa loc).uncached = s.uncached :=
  State.foldl_uncached (fun t x => by simp) _ s

@[simp] theorem State.l2Touch_uncached (s : State) (die pa loc : ℕ) (tracked nt : Bool) (core asid : ℕ) :
    (s.l2Touch die pa loc tracked nt core asid).uncached = s.uncached := by
  simp [State.l2Touch]

end Sys2Proof.Machine

/-! SUPPORT. Invalidations, directory regions and requests of peers (R259 to R262, R287, R333, R381, R419, R420). -/

namespace Sys2Proof.Machine

/-! ### Invalidations and merges -/

/-- Drops of lines change of the caches their lists alone (R259). -/
theorem State.dropData_k (s : State) (f : L1Line → Bool) :
    (s.dropData f).k = { s.k with l1 := s.k.l1.filter fun x => !f x } := by
  have hfold : ∀ (l : List L1Line) (t : State), (l.foldl (fun u x => u.triggerCore x.core x.line) t).k = t.k := fun l => by
    induction l with
    | nil => exact fun _ => rfl
    | cons x l ih => exact fun t => ih (t.triggerCore x.core x.line)
  exact congrArg (fun k : Caches => { k with l1 := k.l1.filter fun x => !f x }) (hfold _ s)

theorem State.dropRegion_invs (s : State) (slice base lg core : ℕ) : (s.dropRegion slice base lg core).k.invs = s.k.invs := by
  simp only [State.dropRegion, State.voidFills, State.dropL1, State.dropData_k]

/-- An L1 that drops a region keeps every line outside it, and other cores keep theirs (R259). -/
theorem State.mem_dropRegion_l1 (s : State) (slice base lg core : ℕ) (x : L1Line) :
    x ∈ (s.dropRegion slice base lg core).k.l1 ↔
      x ∈ s.k.l1 ∧ ¬(x.core = core ∧ homeSlice x.pa = slice ∧ base ≤ x.pa ∧ x.pa < base + 2 ^ lg) := by
  simp only [State.dropRegion, State.voidFills, State.dropL1, State.dropData_k, List.mem_filter, Bool.not_eq_true',
    decide_eq_false_iff_not]

section
variable {s : State} {i : Inv} (hi : s.k.invs.find? (fun x => decide (x.id = s.u.ev.id)) = some i)
include hi

theorem execInvalidation_l1 {c : ℕ} (hc : i.core = some c) : exec .invalidation s = .next
    (({ s with k.invs := s.k.invs.filter fun x => decide (x.id ≠ i.id) } : State).dropRegion i.slice i.base i.log c) := by
  simp only [exec, execInvalidation, hi, hc]

/-- A guest slice acknowledges once no core of its die has the access's invalidation before it (R261). -/
theorem execInvalidation_guest (hc : i.core = none)
    (hquiet : ∀ x ∈ s.k.invs, x.access = i.access → x.die = i.die → x.core = none) : exec .invalidation s = .next
    (({ s with k.invs := s.k.invs.filter fun x => decide (x.id ≠ i.id) } : State).dropGuests i.base
      fun d => decide (d = i.die)) := by
  have hany : (s.k.invs.any fun x => decide (x.access = i.access ∧ x.die = i.die ∧ x.core.isSome)) = false :=
    List.any_eq_false.2 fun x hx => by
      simpa using fun ha hd => hquiet x hx ha hd
  simp only [exec, execInvalidation, hi, hc, hany, Bool.false_eq_true, if_false]

end

/-- The parent of two buddy regions, with the sharers of both (R260). -/
def Region.parent (a b : Region) (par : ℕ) : Region :=
  { a with base := par, log := a.log + 1, sharers := (a.sharers ++ b.sharers).eraseDups,
           conflictAt := max a.conflictAt b.conflictAt }

/-- Two quiet buddies become their parent (R260). -/
theorem execRegionMerge_quiet {s : State} {die slice base lg : ℕ} {a b : Region} (he : s.u.ev.list = [die, slice, base, lg])
    (ha : s.k.regions.find? (fun r => decide (r.die = die ∧ r.slice = slice ∧
      r.base = base / 2 ^ (lg + 1) * 2 ^ (lg + 1) ∧ r.log = lg)) = some a)
    (hb : s.k.regions.find? (fun r => decide (r.die = die ∧ r.slice = slice ∧
      r.base = base / 2 ^ (lg + 1) * 2 ^ (lg + 1) + 2 ^ lg ∧ r.log = lg)) = some b)
    (hgo : (s.dieReg die 0xC1).toNat ≠ 0 ∧ lg < 16 ∧ a.conflictAt + (s.dieReg die 0xC1).toNat ≤ s.u.clk ∧
      b.conflictAt + (s.dieReg die 0xC1).toNat ≤ s.u.clk) :
    exec .regionMerge s = .next { s with k.regions := (s.k.regions.filter fun r => decide (r ≠ a ∧ r ≠ b)) ++
      [a.parent b (base / 2 ^ (lg + 1) * 2 ^ (lg + 1))] } := by
  obtain ⟨-, -, -, rfl⟩ : a.die = die ∧ a.slice = slice ∧ _ ∧ a.log = lg := by simpa using List.find?_some ha
  simp only [exec, execRegionMerge, he, ha, hb, if_pos hgo, Region.parent]

/-! ### Requests of peers -/

/-- A request served at another module writes its bytes there, or nothing (R333). -/
theorem State.peerWrite_eq (s : State) (dev : ℕ) (r : Request) (pa size v : ℕ) :
    s.peerWrite dev r pa size v = s ∨ ∃ w, s.peerWrite dev r pa size v = s.store (locPa dev 0 r.il pa) w size := by
  unfold State.peerWrite
  dsimp only
  split
  · exact .inr ⟨_, rfl⟩
  · exact .inr ⟨_, rfl⟩
  · split
    · exact .inl rfl
    · exact .inr ⟨_, rfl⟩
  · exact .inl rfl

theorem State.peerWrite_store (s : State) (dev : ℕ) {r : Request} (hr : r.kind = 1) (pa size v : ℕ) :
    s.peerWrite dev r pa size v = s.store (locPa dev 0 r.il pa) v size := by
  simp only [State.peerWrite, hr]

theorem State.load_store_other (s : State) (a v n : ℕ) {b : ℕ} (hb : b < a ∨ a + n ≤ b) :
    (s.store a v n).load b 1 = s.load b 1 := by
  rw [State.load, Memory.read_one, State.store_other _ _ _ _ _ hb, State.load, Memory.read_one]

theorem State.load_store_byte {s : State} (hw : s.MemWf) (a v : ℕ) {n i : ℕ} (hi : i < n) :
    (s.store a v n).load (a + i) 1 = v / 256 ^ i % 256 := by
  rw [State.load, Memory.read_one, State.store_mem, State.writeBytes_byte _ _ _ _ hw hi, BitVec.toNat_ofNat]

theorem State.load_peerWrite_other (s : State) (dev : ℕ) (r : Request) (pa size v : ℕ) {b : ℕ}
    (hb : b < locPa dev 0 r.il pa ∨ locPa dev 0 r.il pa + size ≤ b) :
    (s.peerWrite dev r pa size v).load b 1 = s.load b 1 := by
  obtain h | ⟨w, h⟩ := s.peerWrite_eq dev r pa size v
  · rw [h]
  · rw [h, s.load_store_other _ w _ hb]

/-- A touch under the key that a line is stored under changes nothing in memory but the copies of lines (R381). -/
theorem State.homeTouch_sameKey {s : State} {lf : Leaf} {va : ℕ}
    (hkey : s.keyAt (s.locOf lf (lf.pa va) / 128) = s.keyId (s.locOf lf (lf.pa va) / 128) lf.key) (ag : Agent) (core : ℕ)
    (chain : Option (ℕ × ℕ)) (write : Bool) :
    { (s.homeTouch ag core chain lf va write).m with snaps := [] } = { s.m with snaps := [] } := by
  have hrekey : s.rekey (s.locOf lf (lf.pa va)) (lf.pa va) lf.key = s := if_pos hkey
  have hmsc := congrArg (fun m : Mems => { m with snaps := [] })
    (s.mscTouch_m (s.locOf lf (lf.pa va)) (lf.pa va) lf.key chain write)
  unfold State.homeTouch
  dsimp only
  rw [hrekey]
  split
  · rfl
  · split
    · rfl
    · split
      · exact hmsc
      · exact (congrArg State.m (State.l2Touch_uncached ..)).trans hmsc

/-- A peer's access is to a page of this module (R420). -/
theorem State.locOf_request (s : State) (r : Request) (pa : ℕ) : s.locOf r.leaf pa = s.locHere r.il pa := by
  have hmode : s.modeOf r.leaf = 0 := by
    unfold State.modeOf
    split
    · rfl
    · rfl
  have hdev : s.devOf r.leaf = s.f.dev := if_pos hmode
  exact congrArg (locPa · s.p.hostBase r.il pa) hdev

theorem Request.leaf_pa (r : Request) (pa : ℕ) : r.leaf.pa pa = pa := Nat.zero_add pa

/-- A read of a peer answers with the bytes at home (R420). -/
theorem State.serveRemote_read {s : State} {r : Request} {pa size : ℕ} (hk : r.kind = 0)
    (hp : s.poisoned (s.locHere r.il pa) size = false) (hret : s.retiredAt r.leaf pa = false)
    (hkey : s.keyAt (s.locHere r.il pa / 128) = s.keyId (s.locHere r.il pa / 128) r.key) (v : ℕ) :
    (s.serveRemote r pa size v).1 = some (s.load (s.locHere r.il pa) size) := by
  have hkey' : s.keyAt (s.locOf r.leaf (r.leaf.pa pa) / 128) = s.keyId (s.locOf r.leaf (r.leaf.pa pa) / 128) r.leaf.key := by
    rw [Request.leaf_pa, s.locOf_request]
    exact hkey
  have htouch := State.homeTouch_sameKey hkey' r.agent r.core none r.write
  have hmem : (s.homeTouch r.agent r.core none r.leaf pa r.write).m.mem = s.m.mem := (congrArg Mems.mem htouch :)
  have hpoison : (s.homeTouch r.agent r.core none r.leaf pa r.write).m.poison = s.m.poison := 
    (congrArg Mems.poison htouch :)
  have hapart := s.homeTouch_apart r.agent r.core none r.leaf pa r.write
  have hbad : ((s.homeTouch r.agent r.core none r.leaf pa r.write).poisoned (s.locHere r.il pa) size ||
      (s.homeTouch r.agent r.core none r.leaf pa r.write).retiredAt r.leaf pa) = false := by
    rw [State.retiredAt_congr (congrArg Apart.f hapart :) (congrArg Apart.retired hapart :), hret, Bool.or_false,
      State.poisoned, hpoison]
    exact hp
  simp only [State.serveRemote, hk, hbad, State.load_of_mem hmem, Bool.false_eq_true, if_false]

section
variable {s : State} (hn : s.u.ev.size ≠ 0) (hline : s.u.ev.id % 128 + s.u.ev.size ≤ 128)
include hn hline

theorem execRemoteAccess_elsewhere (hdev : s.servedAt ≠ s.f.dev) (hpa : s.u.ev.id < hostWindow) :
    exec .remoteAccess s = .next (s.peerWrite s.servedAt s.u.ev.request s.u.ev.id s.u.ev.size s.u.ev.value) :=
  if_pos ⟨hdev, Nat.pos_of_ne_zero hn, hline, hpa⟩

/-- A request at home is served, or held by the recalls of the write tenures it meets (R287, R419). -/
theorem execRemoteAccess_here (hdev : s.servedAt = s.f.dev) (hpa : s.u.ev.id < 2 ^ 40) :
    let e := s.u.ev
    let hs := s.recallers e.request.agent e.id e.request.write
    exec .remoteAccess s = .next (if hs.isEmpty then s.answerPeer e.request e.id e.size e.value
      else s.holdPeer e.request e.id e.size e.value hs) := by
  have haway : ¬(s.servedAt ≠ s.f.dev ∧ 1 ≤ s.u.ev.size ∧ s.u.ev.id % 128 + s.u.ev.size ≤ 128 ∧ s.u.ev.id < hostWindow) :=
    fun h => h.1 hdev
  have hgood : ¬(s.u.ev.size = 0 ∨ 128 < s.u.ev.id % 128 + s.u.ev.size ∨ 2 ^ 40 ≤ s.u.ev.id) := by omega
  exact (if_neg haway).trans (if_neg hgood)

end

/-- The write tenures that recall an access, but for an engine's reads (R287). -/
theorem State.mem_recallers (s : State) (ag : Agent) (pa : ℕ) (write : Bool) (h : Tenure) :
    h ∈ s.recallers ag pa write ↔ h ∈ s.tenuresOn pa ∧ h.write = true ∧ h.heldBy ag = false ∧
      (ag.engine = none ∨ write = true) := by
  unfold State.recallers
  split
  next hread =>
    obtain ⟨hengine, rfl⟩ : ag.engine.isSome = true ∧ write = false := by simpa using hread
    simp [Option.isSome_iff_ne_none.1 hengine]
  next hread =>
    have hgo : ag.engine = none ∨ write = true := by
      cases write with
      | false => exact .inl (by simpa using hread)
      | true => exact .inr rfl
    simp [hgo]

theorem State.holdPeer_room {s : State} {r : Request} {pa : ℕ} (h : s.holding (homeDie r.il pa) (homeSlice pa) < 64)
    (size v : ℕ) (hs : List Tenure) :
    s.holdPeer r pa size v hs =
      { s.breach r.agent pa r.write with
        f.retried := false
        f.peerHeld := s.f.peerHeld ++
          [{ id := s.u.uid, req := r, pa := pa, size := size, value := v, holders := hs.map (·.holder), time := s.u.seqNo }]
        u.uid := s.u.uid + 1 } := if_pos h

theorem State.holdPeer_full {s : State} {r : Request} {pa : ℕ} (h : 64 ≤ s.holding (homeDie r.il pa) (homeSlice pa))
    (size v : ℕ) (hs : List Tenure) :
    s.holdPeer r pa size v hs = { s.breach r.agent pa r.write with f.retried := true } := if_neg (Nat.not_lt.2 h)

theorem execRecallRelease_peer {s : State} {q : PeerReq} (hacc : s.acc? s.u.ev.id = none)
    (hq : s.f.peerHeld.find? (fun x => decide (x.id = s.u.ev.id)) = some q) (hdone : s.peerDone q = true) :
    exec .recallRelease s = .next
      (({ s with f.peerHeld := s.f.peerHeld.filter fun x => decide (x.id ≠ q.id) } : State).answerPeer q.req q.pa q.size
        q.value) := by
  simp only [exec, execRecallRelease, hacc, hq, hdone, if_true]

/-- Settles O48, one event at a time. -/
theorem coherenceEvents : Obligations.CoherenceEvents := by
  unfold Obligations.CoherenceEvents
  intro s
  refine ⟨fun i c hi hc => ?l1, fun i hi hc => execInvalidation_guest hi hc, ?merge, ⟨?elsewhere, ?here⟩,
    fun q => execRecallRelease_peer⟩
  case l1 =>
    have hapart := State.dropRegion_apart { s with k.invs := s.k.invs.filter fun x => decide (x.id ≠ i.id) } i.slice i.base
      i.log c
    exact ⟨_, execInvalidation_l1 hi hc, State.dropRegion_invs .., State.mem_dropRegion_l1 _ _ _ _ _,
      State.dropRegion_mem .., (congrArg (fun p : Apart => p.r.v) hapart :), (congrArg Apart.x hapart :)⟩
  case merge =>
    intro die slice base lg a b he par quiet ha hb hquiet hlg hac hbc
    obtain ⟨-, -, -, rfl⟩ : a.die = die ∧ a.slice = slice ∧ a.base = par ∧ a.log = lg := by simpa using List.find?_some ha
    obtain ⟨-, -, -, hblog⟩ : b.die = die ∧ b.slice = slice ∧ _ ∧ b.log = a.log := by simpa using List.find?_some hb
    refine ⟨_, execRegionMerge_quiet he ha hb ⟨hquiet, hlg, hac, hbc⟩, rfl, ?_, ?_, a.parent b par, by simp [par], rfl, rfl, rfl,
      rfl, fun c => by simp [Region.parent]⟩
    · have hne : a ≠ a.parent b par := fun h => absurd (congrArg Region.log h) (Nat.succ_ne_self _).symm
      simpa [par] using hne
    · have hne : b ≠ a.parent b par := fun h => absurd (hblog ▸ congrArg Region.log h) (Nat.succ_ne_self _).symm
      simpa [par] using hne
  case elsewhere =>
    intro hdev hn hline hpa hw
    refine ⟨execRemoteAccess_elsewhere hn hline hdev hpa, fun b hb => s.load_peerWrite_other _ _ _ _ _ hb, fun hk i hi => ?_⟩
    rw [s.peerWrite_store _ hk]
    exact State.load_store_byte hw _ _ hi
  case here =>
    intro hdev hn hline hpa
    have hex := execRemoteAccess_here hn hline hdev hpa
    refine ⟨s.mem_recallers _ _ _, fun hnone => ?_, fun hk hp hret hkey => State.serveRemote_read hk hp hret hkey _,
      fun hsome hroom => ?_, fun hsome hfull => ?_⟩
    · exact hex.trans (congrArg Host.Outcome.next (if_pos (List.isEmpty_iff.2 hnone)))
    · have hheld := hex.trans (congrArg Host.Outcome.next (if_neg (mt List.isEmpty_iff.1 hsome)))
      rw [State.holdPeer_room hroom] at hheld
      exact ⟨_, hheld, List.mem_append_right _ (List.mem_singleton_self _), rfl, rfl, rfl, rfl, rfl, rfl⟩
    · have hretry := hex.trans (congrArg Host.Outcome.next (if_neg (mt List.isEmpty_iff.1 hsome)))
      rw [State.holdPeer_full hfull] at hretry
      exact ⟨_, hretry, rfl, rfl, rfl, rfl, rfl, rfl, rfl⟩

end Sys2Proof.Machine

/-! SUPPORT. The host's registers, carving, residency, BAR2 accesses and keys (R254, R256, R334, R381 to R386, R392, R393). -/

namespace Sys2Proof.Machine

/-! ### BAR0 -/

section
variable {s : State} (hbad : s.barBad s.u.ev.id s.u.ev.size = true)
include hbad

theorem execHostRegWrite_bad (hf : s.u.ev.flag = false) : exec .hostRegWrite s = .next s.badAccess := by
  simp only [exec, execHostRegWrite, hbad, hf, Bool.false_eq_true, if_false, if_true]

theorem execBar0BadAccess_badWrite (hf : s.u.ev.flag = false) : exec .bar0BadAccess s = .next s.badAccess := by
  simp only [exec, execBar0BadAccess, hbad, hf, Bool.false_eq_true, if_false, if_true]

theorem execBar0BadAccess_badRead (hf : s.u.ev.flag = true) :
    exec .bar0BadAccess s = .next ({ s with p.hostRead := some 0 } : State).badAccess := by
  simp only [exec, execBar0BadAccess, hbad, hf, if_true]

end

section
variable {s : State} (hgood : s.barBad s.u.ev.id s.u.ev.size = false)
include hgood

theorem execBar0BadAccess_read (hf : s.u.ev.flag = true) :
    exec .bar0BadAccess s = .next { s with p.hostRead := some (s.barRead s.u.ev.id s.u.ev.size) } := by
  simp only [exec, execBar0BadAccess, hgood, hf, Bool.false_eq_true, if_false, if_true]

theorem execBar0BadAccess_write (hf : s.u.ev.flag = false) : exec .bar0BadAccess s = .next s := by
  simp only [exec, execBar0BadAccess, hgood, hf, Bool.false_eq_true, if_false]

theorem execHostRegWrite_dword (hf : s.u.ev.flag = false) (hn : s.u.ev.size = 4) :
    exec .hostRegWrite s = .next (s.barWrite s.u.ev.id (s.u.ev.value % 2 ^ 32)) := by
  have h8 : s.u.ev.size ≠ 8 := by omega
  simp only [exec, execHostRegWrite, hgood, hf, h8, Bool.false_eq_true, if_false]

theorem execHostRegWrite_qword (hf : s.u.ev.flag = false) (hn : s.u.ev.size = 8) :
    exec .hostRegWrite s = .next ((s.barWrite s.u.ev.id (s.u.ev.value % 2 ^ 32)).barWrite (s.u.ev.id + 4)
      (s.u.ev.value / 2 ^ 32)) := by
  simp only [exec, execHostRegWrite, hgood, hf, Bool.false_eq_true, if_false]
  exact if_pos hn

end

theorem State.barWrite_hostAsid (s : State) (v : ℕ) :
    s.barWrite 0x10 (v % 2 ^ 32) = { s with p.hostAsid := v % 2 ^ 16 } := by
  have hv : v % 2 ^ 32 % 2 ^ 16 = v % 2 ^ 16 := by omega
  exact congrArg (fun n => ({ s with p.hostAsid := n } : State)) hv

/-- The two halves of a value, written one after the other, are the value. -/
theorem setHalf_halves (x : ℕ) {v : ℕ} (hv : v < 2 ^ 64) : setHalf (setHalf x false (v % 2 ^ 32)) true (v / 2 ^ 32) = v := by
  simp only [setHalf, Bool.false_eq_true, if_false, if_true]
  omega

theorem State.barWrite_hostBase (s : State) {v : ℕ} (hv : v < 2 ^ 64) :
    (s.barWrite 0x20 (v % 2 ^ 32)).barWrite (0x20 + 4) (v / 2 ^ 32) = { s with p.hostBase := v } :=
  congrArg (fun n => ({ s with p.hostBase := n } : State)) (setHalf_halves s.p.hostBase hv)

theorem State.barRead_status (s : State) : s.barRead 0 4 = s.statusWord := by
  have hsize : (4 : ℕ) ≠ 8 := by decide
  simp only [State.barRead, State.barDword, hsize, if_false, if_true, Nat.add_zero]

/-- BAR0_STATUS holds each of its fields (R393). -/
theorem State.barRead_status_fields (s : State) : let w := s.barRead 0 4
    bit w 31 = s.p.ready ∧ bit w 30 = s.p.degraded ∧ bit w 29 = s.p.failed ∧ w / 2 ^ 26 % 8 = s.p.stage % 8 ∧
      w / 2 ^ 24 % 4 = s.p.upd % 4 ∧ w / 2 ^ 16 % 256 = s.p.code % 256 ∧ w / 2 ^ 8 % 256 = 0 ∧
      w % 256 = s.p.badAcc % 256 := by
  have hbit : ∀ b : Bool, ∃ n, (if b = true then 1 else 0) = n ∧ n < 2 ∧ b = decide (n = 1) := fun b => by
    cases b <;> exact ⟨_, rfl, by decide, by decide⟩
  obtain ⟨r, hr, hr2, hready⟩ := hbit s.p.ready
  obtain ⟨d, hd, hd2, hdegraded⟩ := hbit s.p.degraded
  obtain ⟨f, hf, hf2, hfailed⟩ := hbit s.p.failed
  have hw : s.barRead 0 4 = r * 2 ^ 31 + d * 2 ^ 30 + f * 2 ^ 29 + s.p.stage % 8 * 2 ^ 26 + s.p.upd % 4 * 2 ^ 24 +
      s.p.code % 256 * 2 ^ 16 + s.p.badAcc % 256 := by
    rw [s.barRead_status, ← hr, ← hd, ← hf]
    rfl
  intro w
  simp only [w, hw, bit]
  rw [hready, hdegraded, hfailed]
  refine ⟨decide_eq_decide.2 ?_, decide_eq_decide.2 ?_, decide_eq_decide.2 ?_, ?_, ?_, ?_, ?_, ?_⟩
  all_goals omega

/-! ### Carving and residency -/

theorem execChipcarveWrite_early {s : State} (h : s.p.ready = false) : exec .chipcarveWrite s = .next s.badAccess := by
  simp only [exec, execChipcarveWrite, h, Bool.not_false, if_true]

section
variable {s : State} (hready : s.p.ready = true)
include hready

theorem execChipcarveWrite_waits (hdie : s.u.ev.id < 4) (hk : s.u.ev.value % 8 ≤ 4) :
    exec .chipcarveWrite s = .next { s with g.carveWait := s.g.carveWait.put s.u.ev.id (s.u.ev.value % 8) } := by
  have hgo : ¬(4 < s.u.ev.value % 8 ∨ 4 ≤ s.u.ev.id) := by omega
  simp only [exec, execChipcarveWrite, hready, hgo, Bool.not_true, Bool.false_eq_true, if_false]

theorem execChipcarveWrite_reserved (hk : 4 < s.u.ev.value % 8) : exec .chipcarveWrite s = .next s := by
  simp only [exec, execChipcarveWrite, hready, hk, true_or, Bool.not_true, Bool.false_eq_true, if_false, if_true]

end

theorem execChipcarveApply_busy {s : State} (h : s.chipBusy s.u.ev.id = true) : exec .chipcarveApply s = .next s := by
  simp only [exec, execChipcarveApply, h, Bool.or_true, if_true]

/-- The state in which a new carving is set: the lines that it leaves no ways for are gone (R254). -/
def State.beforeCarve (s : State) (die : ℕ) : State :=
  let t : State := { s with g.carveWait := s.g.carveWait.drop die }
  if s.carve die < s.g.carveWait.look die 0 then t.shrinkWays die (16 - 2 * s.g.carveWait.look die 0) else t

theorem State.beforeCarve_uncached (s : State) (die : ℕ) :
    (s.beforeCarve die).uncached = { s.uncached with g.carveWait := s.g.carveWait.drop die } := by
  unfold State.beforeCarve
  extract_lets t
  split
  · exact State.shrinkWays_uncached ..
  · rfl

theorem execChipcarveApply_idle {s : State} (hwait : s.g.carveWait.has s.u.ev.id = true)
    (hidle : s.chipBusy s.u.ev.id = false) : exec .chipcarveApply s = .next
      ((s.beforeCarve s.u.ev.id).setDieReg s.u.ev.id 0xC0 (BitVec.ofNat 32 (s.g.carveWait.look s.u.ev.id 0))) := by
  simp only [exec, execChipcarveApply, hwait, hidle, Bool.not_true, Bool.or_false, Bool.false_eq_true, if_false]
  rfl

section
variable {s : State} {die n : ℕ} {w : Word} (he : s.u.ev.list = [die, n]) (hready : s.p.ready = true)
  (hw : w = BitVec.ofNat 32 ((if bit s.u.ev.value 31 then 2 ^ 31 else 0) + s.u.ev.value % 2 ^ 12))
include he hready hw

/-- A residency control that breaks a limit is ignored as a whole (R256). -/
theorem execResctlWrite_ignored
    (hbad : (bit s.u.ev.value 31 = true ∧ (s.u.ev.value % 16 = 0 ∨ s.resLim die n < s.resBase die n)) ∨
      12 - 2 * s.carve die < (s.setDieReg die (0xD2 + 3 * n) w).reserved die) : exec .resctlWrite s = .next s := by
  have hgo : 4 ≤ die ∨ 16 ≤ n ∨
      (bit s.u.ev.value 31 && decide (s.u.ev.value % 16 = 0 ∨ s.resLim die n < s.resBase die n)) = true ∨
      12 - 2 * s.carve die < (s.setDieReg die (0xD2 + 3 * n) w).reserved die := by
    rw [Bool.and_eq_true, decide_eq_true_eq]
    exact .inr (.inr hbad)
  subst hw
  simp only [exec, execResctlWrite, he, hready, Bool.not_true, Bool.false_eq_true, if_false]
  exact if_pos hgo

/-- One within its limits takes effect, and may free the lines of its range (R256, R257). -/
theorem execResctlWrite_taken (hdie : die < 4) (hn : n < 16)
    (hgood : ¬(bit s.u.ev.value 31 = true ∧ (s.u.ev.value % 16 = 0 ∨ s.resLim die n < s.resBase die n)))
    (hroom : ¬12 - 2 * s.carve die < (s.setDieReg die (0xD2 + 3 * n) w).reserved die) :
    exec .resctlWrite s = .next (s.setDieReg die (0xD2 + 3 * n) w) ∨
      exec .resctlWrite s = .next ((s.setDieReg die (0xD2 + 3 * n) w).freeRange die n) := by
  have hgo : ¬(4 ≤ die ∨ 16 ≤ n ∨
      (bit s.u.ev.value 31 && decide (s.u.ev.value % 16 = 0 ∨ s.resLim die n < s.resBase die n)) = true ∨
      12 - 2 * s.carve die < (s.setDieReg die (0xD2 + 3 * n) w).reserved die) := by
    rw [Bool.and_eq_true, decide_eq_true_eq]
    rintro (h | h | h | h)
    · exact absurd hdie (Nat.not_lt.2 h)
    · exact absurd hn (Nat.not_lt.2 h)
    · exact hgood h
    · exact hroom h
  subst hw
  simp only [exec, execResctlWrite, he, hready, Bool.not_true, Bool.false_eq_true, if_false]
  rw [if_neg hgo]
  split
  · exact .inr rfl
  · exact .inl rfl

end

/-! ### BAR2 -/

theorem execHostBar2Read_beyond {s : State} (h : s.p.bar2 < s.u.ev.id + s.u.ev.size) :
    exec .hostBar2Read s = .next { s with p.hostRead := none } := if_pos h

theorem execHostBar2Write_beyond {s : State} (h : s.p.bar2 < s.u.ev.id + s.u.ev.size) : exec .hostBar2Write s = .next s :=
  if_pos h

/-- What a host reads is what the MSC holds, or what the home does once its line is written back (R321, R334). -/
theorem State.hostBytes_cases (s : State) (loc n : ℕ) :
    s.hostBytes loc n = (s.loadMsc loc n, s) ∨ s.hostBytes loc n = (s.load loc n, s.writeBack (loc / 128)) :=
  ite_eq_or_eq ..

section
variable {s : State} (hin : s.u.ev.id + s.u.ev.size ≤ s.p.bar2)
include hin

theorem execHostBar2Read_faults {c : ℕ} (hseek : s.dieSeek 0 s.p.hostAsid (s.p.hostVa + s.u.ev.id) false = .inr c) :
    exec .hostBar2Read s = .next (({ s with p.hostRead := none } : State).hostFault c (s.p.hostVa + s.u.ev.id) 4) := by
  simp only [exec, execHostBar2Read, Nat.not_lt.2 hin, hseek, if_false]

theorem execHostBar2Write_faults {c : ℕ} (hseek : s.dieSeek 0 s.p.hostAsid (s.p.hostVa + s.u.ev.id) true = .inr c) :
    exec .hostBar2Write s = .next (s.hostFault c (s.p.hostVa + s.u.ev.id) 5) := by
  simp only [exec, execHostBar2Write, Nat.not_lt.2 hin, hseek, if_false]

section
variable {lf : Leaf} (hn : s.u.ev.size ≠ 0) (hline : (s.p.hostVa + s.u.ev.id) % 128 + s.u.ev.size ≤ 128)
include hn hline

section
variable (hseek : s.dieSeek 0 s.p.hostAsid (s.p.hostVa + s.u.ev.id) false = .inl lf)
include hseek

theorem execHostBar2Read_recalled (hrec : s.unrecalled s.p.hostAsid lf (s.p.hostVa + s.u.ev.id) false = false) :
    exec .hostBar2Read s = .next (s.dieCall s.p.hostAsid lf (s.p.hostVa + s.u.ev.id) false) := by
  simp only [exec, execHostBar2Read, Nat.not_lt.2 hin, hseek, hn, Nat.not_lt.2 hline, hrec, Bool.not_false, or_self, if_false,
    if_true]

/-- A read answers with its bytes, but not with poison, nor where host memory answers with an error (R177, R376, R385). -/
theorem execHostBar2Read_answers (hrec : s.unrecalled s.p.hostAsid lf (s.p.hostVa + s.u.ev.id) false = true) :
    let va := s.p.hostVa + s.u.ev.id
    let t := s.dieTouch 0 s.p.hostAsid lf va false
    let loc := t.locOf lf (lf.pa va)
    let x := t.hostBytes loc s.u.ev.size
    exec .hostBar2Read s = .next
      (if t.poisoned loc s.u.ev.size = true ∨ t.retiredAt lf (lf.pa va) = true ∨ (inHost (lf.pa va) = true ∧ s.u.ev.flag = true)
        then { x.2.poisonEvent (some lf) (lf.pa va) 0 with p.hostRead := none }
        else { x.2 with p.hostRead := some x.1 }) := by
  intro va t loc x
  simp only [exec, execHostBar2Read, Nat.not_lt.2 hin, hseek, hn, Nat.not_lt.2 hline, hrec, Bool.not_true, or_self,
    Bool.false_eq_true, if_false, Bool.or_eq_true, Bool.and_eq_true, or_assoc]
  split <;> rfl

end

section
variable (hseek : s.dieSeek 0 s.p.hostAsid (s.p.hostVa + s.u.ev.id) true = .inl lf)
include hseek

theorem execHostBar2Write_recalled (hrec : s.unrecalled s.p.hostAsid lf (s.p.hostVa + s.u.ev.id) true = false) :
    exec .hostBar2Write s = .next (s.dieCall s.p.hostAsid lf (s.p.hostVa + s.u.ev.id) true) := by
  simp only [exec, execHostBar2Write, Nat.not_lt.2 hin, hseek, hn, Nat.not_lt.2 hline, hrec, Bool.not_false, or_self, if_false,
    if_true]

/-- A write reaches its home, but for a retired channel (R385, R391). -/
theorem execHostBar2Write_writes (hrec : s.unrecalled s.p.hostAsid lf (s.p.hostVa + s.u.ev.id) true = true) :
    exec .hostBar2Write s = .next (if s.retiredAt lf (lf.pa (s.p.hostVa + s.u.ev.id)) = true then s
      else s.hostWrite lf (s.p.hostVa + s.u.ev.id) s.u.ev.value s.u.ev.size s.u.ev.list) := by
  simp only [exec, execHostBar2Write, Nat.not_lt.2 hin, hseek, hn, Nat.not_lt.2 hline, hrec, Bool.not_true, or_self,
    Bool.false_eq_true, if_false]
  split <;> rfl

end
end
end

/-! ### Keys -/

/-- The state after a load of a key: the lines under its index are dropped, and the index names new material (R382). -/
def State.loadKey (s : State) (k : ℕ) : State :=
  { s with
    k.msc := s.k.msc.filter fun m => decide (m.key ≠ k)
    k.keyGen := s.k.keyGen.put k (s.k.keyGen.look k 0 + 1) }

theorem execKeyLoad_ready {s : State} (hready : s.p.ready = true) (hk : s.u.ev.id < 8192) :
    exec .keyLoad s = .next (s.loadKey s.u.ev.id) := by
  simp only [exec, execKeyLoad, State.message, hready, Nat.not_le.2 hk, if_false, if_true]
  rfl

theorem execKeyLoad_early {s : State} (h : s.p.ready = false) : exec .keyLoad s = .next s.spdmError := by
  simp only [exec, execKeyLoad, State.message, h, Bool.false_eq_true, if_false]

theorem State.mem_loadKey_msc (s : State) (k : ℕ) (m : MscLine) : m ∈ (s.loadKey k).k.msc ↔ m ∈ s.k.msc ∧ m.key ≠ k := by
  simp [State.loadKey]

/-- Keys of another module's lines are that module's own affair (log entry 73). -/
theorem State.keyId_loadKey_away {s : State} {line : ℕ} (h : s.lineAway line = true) (k k' : ℕ) :
    (s.loadKey k).keyId line k' = s.keyId line k' := (if_pos h).trans (if_pos h).symm

theorem State.keyId_loadKey_other (s : State) (line : ℕ) {k k' : ℕ} (h : k' ≠ k) :
    (s.loadKey k).keyId line k' = s.keyId line k' :=
  congrArg (fun n => if s.lineAway line then 2 * (8192 * (line / 2 ^ 33) + k') + 1
    else 2 * (8192 * (s.k.keyBase + n) + k')) (Tab.look_put_ne _ _ _ h.symm)

theorem State.keyId_loadKey_self {s : State} {line : ℕ} (h : s.lineAway line = false) (k : ℕ) :
    (s.loadKey k).keyId line k ≠ s.keyId line k := by
  have hold : s.keyId line k = 2 * (8192 * (s.k.keyBase + s.k.keyGen.look k 0) + k) := if_neg (Bool.eq_false_iff.1 h)
  have hnew : (s.loadKey k).keyId line k = 2 * (8192 * (s.k.keyBase + (s.k.keyGen.look k 0 + 1)) + k) :=
    (if_neg (Bool.eq_false_iff.1 h)).trans (by simp only [State.loadKey, Tab.look_put_self])
  omega

/-- Settles O57, one event at a time. -/
theorem hostEvents : Obligations.HostEvents := by
  unfold Obligations.HostEvents
  intro s e
  refine ⟨fun hbad => ⟨fun hf => ⟨execHostRegWrite_bad hbad hf, execBar0BadAccess_badWrite hbad hf⟩,
      execBar0BadAccess_badRead hbad⟩, fun hgood => execBar0BadAccess_read hgood, s.barRead_status_fields, fun hf => if_pos hf,
    fun hgood hf => ⟨execBar0BadAccess_write hgood hf, execHostRegWrite_dword hgood hf, execHostRegWrite_qword hgood hf,
      fun hn hid => ?asid, fun hn hid hv => ?base⟩,
    execChipcarveWrite_early, execChipcarveWrite_waits, execChipcarveWrite_reserved, fun hwait hidle => ?carve,
    execChipcarveApply_busy, ?residency, ⟨fun h => ⟨execHostBar2Read_beyond h, execHostBar2Write_beyond h⟩,
      fun c hin => execHostBar2Read_faults hin, fun c hin => execHostBar2Write_faults hin, ?read,
      fun lf hin hseek hn hline => execHostBar2Read_recalled hin hn hline hseek,
      fun lf hin hseek hn hline => execHostBar2Write_recalled hin hn hline hseek, ?write⟩, ?key, execKeyLoad_early⟩
  case asid =>
    have hex := execHostRegWrite_dword hgood hf hn
    rw [hid, s.barWrite_hostAsid] at hex
    exact hex
  case base =>
    have hex := execHostRegWrite_qword hgood hf hn
    rw [hid, s.barWrite_hostBase hv] at hex
    exact hex
  case carve =>
    have hu := s.beforeCarve_uncached e.id
    refine ⟨_, execChipcarveApply_idle hwait hidle, ?_, ?_, (congrArg (fun u : State => u.m.mem) hu :),
      (congrArg (fun u : State => u.r.v) hu :), (congrArg (fun u : State => u.r.sr) hu :)⟩
    · rw [State.dieReg_setDieReg, if_pos rfl]
    · exact (congrArg (fun u : State => u.g.carveWait.has e.id) hu :).trans (Tab.has_drop _ _)
  case residency =>
    intro die n he hready hdie hn w tooMany bad
    refine ⟨execResctlWrite_ignored he hready rfl, fun hgood hroom => ?_⟩
    have hreg : (s.setDieReg die (0xD2 + 3 * n) w).dieReg die (0xD2 + 3 * n) = w := by rw [State.dieReg_setDieReg, if_pos rfl]
    obtain h | h := execResctlWrite_taken he hready rfl hdie hn hgood hroom
    · exact ⟨_, h, hreg, rfl, rfl⟩
    · exact ⟨_, h, hreg, rfl, rfl⟩
  case read =>
    intro lf hin hseek hn hline hrec t loc x bad
    have hex := execHostBar2Read_answers hin hn hline hseek hrec
    exact ⟨t.hostBytes_cases _ _, fun hgood => hex.trans (congrArg Host.Outcome.next (if_neg hgood)),
      fun hbad => hex.trans (congrArg Host.Outcome.next (if_pos hbad))⟩
  case write =>
    intro lf hin hseek hn hline hrec
    have hex := execHostBar2Write_writes hin hn hline hseek hrec
    refine ⟨fun hret => hex.trans (congrArg Host.Outcome.next (if_pos hret)), fun hret => ?_⟩
    rw [if_neg (Bool.eq_false_iff.1 hret)] at hex
    simpa only [State.hostWrite, List.isEmpty_iff] using hex
  case key =>
    exact fun hk hready => ⟨_, execKeyLoad_ready hready hk, fun m hm => ((s.mem_loadKey_msc e.id m).1 hm).2,
      fun m hm hne => (s.mem_loadKey_msc e.id m).2 ⟨hm, hne⟩,
      fun line k h => h.elim (s.keyId_loadKey_other line) fun haway => State.keyId_loadKey_away haway _ _,
      fun line hhere => State.keyId_loadKey_self hhere _, rfl⟩

end Sys2Proof.Machine

/-! SUPPORT. Tile entries (R269 to R271, R275, R276, R281, R282): the outcomes of the bodies of TMINT, TFREE, TSPLIT and
TMERGE. -/

namespace Sys2Proof.Machine

/-! ### A unit on one handle (R270) -/

section
variable {s : State} {legal : Bool} {sa : BitVec 6} {body : State → Tile → Res}

theorem tileUnit_badHandle {f : FaultInfo} (hf : s.handleS sa.toNat = some f) :
    (tileUnit legal sa body s).body s.issued = .trap f := by
  simp [tileUnit, hf]

theorem tileUnit_body (hf : s.handleS sa.toNat = none) :
    (tileUnit legal sa body s).body s.issued = body s.issued (s.tileOf (s.leadS sa.toNat)) := by
  simp [tileUnit, hf]

end

/-- A tile that is split, held or waited for is not freed (R276, R282). -/
def State.tileBusy (s : State) (y : Tile) : Bool := y.isSplit || !(s.holders y).isEmpty || decide (s.waitingOn y ≠ 0)

theorem State.tileBusy_iff {s : State} {y : Tile} :
    s.tileBusy y = true ↔ y.isSplit = true ∨ s.holders y ≠ [] ∨ s.waitingOn y ≠ 0 := by
  simp [State.tileBusy, or_assoc]

/-! ### TMINT -/

/-- The pages of the record that a TMINT names (R275). -/
def State.mintPages (s : State) (o : OpX1) : Option (List Leaf) :=
  let r := s.recordAt o.sa.toNat
  if r.valid then s.issued.pagesOf (s.coreOf s.gid) s.asid r else none

/-- The state in which a TMINT has walked for the pages of its record (R275). -/
def State.mintWalked (s : State) (o : OpX1) : State :=
  let r := s.recordAt o.sa.toNat
  if r.valid = true then s.issued.missWalks (s.coreOf s.gid) s.asid r.steps else s.issued

theorem State.mintWalked_eq (s : State) (o : OpX1) : ∃ ws, s.mintWalked o = { s.issued with k.walks := ws } := by
  simp only [State.mintWalked]
  split
  · exact ⟨_, rfl⟩
  · exact ⟨s.k.walks, rfl⟩

theorem State.mintWalked_freeEntry (s : State) (o : OpX1) : (s.mintWalked o).freeEntry = s.freeEntry := by
  obtain ⟨ws, h⟩ := s.mintWalked_eq o
  rw [h]
  rfl

theorem State.mintWalked_asid (s : State) (o : OpX1) : (s.mintWalked o).asid = s.asid := by
  obtain ⟨ws, h⟩ := s.mintWalked_eq o
  rw [h]
  rfl

/-- The code that a TMINT answers (R275). -/
def State.mintAnswer (s : State) (o : OpX1) : ℕ := s.issued.mintCode (s.recordAt o.sa.toNat) (s.mintPages o)

theorem meanTmint_refused {s : State} {o : OpX1} (h : s.mintAnswer o ≠ 0) :
    (meanTmint o s).body s.issued = .ok (((s.mintWalked o).setSAll o.sd.toNat
      (tileStatus (s.mintAnswer o))).setSAll (o.sd.toNat + 1) 0) := by
  simp only [State.mintAnswer, State.mintPages, State.mintWalked, meanTmint, State.issued_recordAt] at h ⊢
  split
  next hcode _ => exact absurd hcode h
  next => rfl

/-- The entry of a minted tile (R275). -/
def State.mintTile (s : State) (o : OpX1) (e : Tile) : Tile :=
  { e with live := true, asid := s.asid, foot := { recs := [s.recordAt o.sa.toNat], pages := (s.mintPages o).getD [] } }

theorem meanTmint_enters {s : State} {o : OpX1} {e : Tile} (h : s.mintAnswer o = 0)
    (he : s.freeEntry (s.coreOf s.gid / 192) none = some e) :
    (meanTmint o s).body s.issued = .ok ((((s.mintWalked o).putTile (s.mintTile o e)).setSAll o.sd.toNat
      (tileStatus 0)).setSAll (o.sd.toNat + 1) (BitVec.ofNat 32 (s.mintTile o e).handle)) := by
  rw [← s.mintWalked_freeEntry o] at he
  rw [State.mintTile, ← s.mintWalked_asid o]
  simp only [State.mintAnswer, State.mintPages, State.mintWalked, meanTmint, State.issued_recordAt] at h he ⊢
  split
  next e' _ he' =>
    cases he'.symm.trans he
    rfl
  next hno => exact absurd he (hno e h)

/-! ### TFREE -/

section
variable {s : State} {o : OpX1} (hn : s.handleS o.sa.toNat = none)
include hn

theorem meanTfree_busy (hb : s.tileBusy (s.tileOf (s.leadS o.sa.toNat)) = true) :
    (meanTfree o s).body s.issued =
      .ok (s.issued.setSAll o.sd.toNat (tileStatus 1 (child := (s.tileOf (s.leadS o.sa.toNat)).child))) :=
  (tileUnit_body hn).trans (if_pos hb)

variable (hb : s.tileBusy (s.tileOf (s.leadS o.sa.toNat)) = false)
include hb

theorem meanTfree_child (hc : (s.tileOf (s.leadS o.sa.toNat)).child = true) :
    (meanTfree o s).body s.issued = .ok (s.issued.setSAll o.sd.toNat (tileStatus 13 (child := true))) :=
  (tileUnit_body hn).trans ((if_neg (Bool.eq_false_iff.1 hb)).trans (if_pos hc))

theorem meanTfree_frees (hc : (s.tileOf (s.leadS o.sa.toNat)).child = false) :
    (meanTfree o s).body s.issued = .ok ((s.issued.modTile (s.tileOf (s.leadS o.sa.toNat)).key fun z =>
      z.free s.u.clk).setSAll o.sd.toNat (tileStatus 0)) :=
  (tileUnit_body hn).trans ((if_neg (Bool.eq_false_iff.1 hb)).trans (if_neg (Bool.eq_false_iff.1 hc)))

end

/-! ### TSPLIT -/

/-- A child of a split: the entry that it takes, with its half of the record (R281). -/
def State.splitKid (s : State) (y e : Tile) (q : Layout) : Tile :=
  { e with live := true, asid := s.asid, foot := { recs := [q], pages := y.foot.pages }, isSplit := false, parent := some y.key }

/-- What a split makes of a tenure: one on its own tile becomes one on each child (R281). -/
def Tenure.onKids (h : Tenure) (y a b : Tile) : List Tenure :=
  if h.tile = some y.key then
    [{ h with tile := some a.key, foot := a.foot }, { h with tile := some b.key, foot := b.foot }]
  else [h]

/-- The directory and the tenures behind a split into children `a` and `b` (R281). -/
def State.splitInto (s : State) (y a b : Tile) : State :=
  let t := ((s.putTile a).putTile b).modTile y.key fun z => { z with isSplit := true }
  { t with e.tens := t.e.tens.flatMap fun h => h.onKids y a b }

theorem State.putTile_eq (s : State) (y : Tile) : ∃ ts, s.putTile y = { s with e.tiles := ts } := by
  unfold State.putTile
  split <;> exact ⟨_, rfl⟩

theorem State.splitInto_rest (s : State) (y a b : Tile) :
    (s.splitInto y a b).e.tens = s.e.tens.flatMap (fun h => h.onKids y a b) ∧
    ∃ ts hs, s.splitInto y a b = { s with e.tiles := ts, e.tens := hs } := by
  unfold State.splitInto
  obtain ⟨ta, ha⟩ := s.putTile_eq a
  rw [ha]
  obtain ⟨tb, hb⟩ := ({ s with e.tiles := ta } : State).putTile_eq b
  rw [hb]
  exact ⟨rfl, _, _, rfl⟩

/-- The state with the three words that a TSPLIT answers (R281). -/
def State.splitAnswer (s : State) (sd : ℕ) (y a b : Tile) : State :=
  ((s.setSAll sd (tileStatus 0 (child := y.child))).setSAll (sd + 1) (BitVec.ofNat 32 a.handle)).setSAll (sd + 2)
    (BitVec.ofNat 32 b.handle)

/-- A TSPLIT goes by its refusal: the code that refuses it, or its children in two entries that are free (R281). -/
theorem State.tsplit_outcome (s : State) (sd : BitVec 6) (y : Tile) (arg : ℕ) :
    (∃ code, s.splitRefusal y arg = some code ∧
      s.issued.tsplit sd y arg = .ok (s.issued.setSAll sd.toNat (tileStatus code (child := y.child)))) ∨
    (s.splitRefusal y arg = none ∧ ∃ a b, s.freeEntry (s.coreOf s.gid / 192) none = some a ∧
      s.freeEntry (s.coreOf s.gid / 192) (some a.entry) = some b ∧
      let hv := y.layout.halves (arg % 4) (arg / 2 ^ 16)
      let a' := s.splitKid y a hv.1
      let b' := s.splitKid y b hv.2
      s.issued.tsplit sd y arg = .ok ((s.issued.splitInto y a' b').splitAnswer sd.toNat y a' b')) := by
  generalize hr : s.splitRefusal y arg = r
  simp only [State.splitRefusal] at hr
  split at hr
  next h1 => exact .inl ⟨_, hr.symm, if_pos h1⟩
  next h1 =>
  split at hr
  next h2 => exact .inl ⟨_, hr.symm, (if_neg h1).trans (if_pos h2)⟩
  next h2 =>
  split at hr
  next h3 => exact .inl ⟨_, hr.symm, (if_neg h1).trans ((if_neg h2).trans (if_pos h3))⟩
  next h3 =>
  have hbody : s.issued.tsplit sd y arg = _ := (if_neg h1).trans ((if_neg h2).trans (if_neg h3))
  simp only [State.issued_freeEntry, State.issued_coreOf, State.issued_gid] at hbody
  split at hr
  next ha => exact .inl ⟨_, hr.symm, hbody.trans (by rw [ha]; rfl)⟩
  next a ha =>
  simp only [ha] at hbody
  split at hr
  next hb => exact .inl ⟨_, hr.symm, hbody.trans (by rw [Option.isNone_iff_eq_none.1 hb]; rfl)⟩
  next hb =>
  obtain ⟨b, hb⟩ := Option.ne_none_iff_exists'.1 (mt Option.isNone_iff_eq_none.2 hb)
  simp only [hb] at hbody
  split at hr
  next hc => exact .inl ⟨_, hr.symm, hbody.trans (if_pos hc)⟩
  next hc => exact .inr ⟨hr.symm, a, b, ha, hb, hbody.trans (if_neg hc)⟩

theorem State.setSAll_eq (s : State) (n : ℕ) (w : Word) : ∃ sr, s.setSAll n w = { s with r.sr := sr } :=
  ⟨_, (congrArg (fun q : State => { q with r.sr := (s.setSAll n w).r.sr }) (s.setSAll_rest n w) :)⟩

theorem State.setSAll_slices (s : State) (n : ℕ) (w : Word) : (s.setSAll n w).slices = s.slices := by
  obtain ⟨sr, h⟩ := s.setSAll_eq n w
  rw [h]
  rfl

/-- The three words of a split's answer stand in three registers of every slice (R281). -/
theorem State.splitAnswer_getS (s : State) (sd : ℕ) (y a b : Tile) {c : SliceId} (hc : c ∈ s.slices) :
    (s.splitAnswer sd y a b).getS c sd = tileStatus 0 (child := y.child) ∧
    (s.splitAnswer sd y a b).getS c (sd + 1) = BitVec.ofNat 32 a.handle ∧
    (s.splitAnswer sd y a b).getS c (sd + 2) = BitVec.ofNat 32 b.handle := by
  simp [State.splitAnswer, State.setSAll_getS, State.setSAll_slices, hc]

theorem State.splitAnswer_eq (s : State) (sd : ℕ) (y a b : Tile) :
    ∃ sr, s.splitAnswer sd y a b = { s with r.sr := sr } := by
  obtain ⟨r0, h0⟩ := s.setSAll_eq sd (tileStatus 0 (child := y.child))
  obtain ⟨r1, h1⟩ := (s.setSAll sd (tileStatus 0 (child := y.child))).setSAll_eq (sd + 1) (BitVec.ofNat 32 a.handle)
  obtain ⟨r2, h2⟩ := ((s.setSAll sd (tileStatus 0 (child := y.child))).setSAll (sd + 1)
    (BitVec.ofNat 32 a.handle)).setSAll_eq (sd + 2) (BitVec.ofNat 32 b.handle)
  exact ⟨r2, h2.trans (by rw [h1, h0])⟩

/-- What a split and its answer leave of the state: the directory and the tenures changed, three S registers written (R281). -/
theorem State.splitAnswer_splitInto (s : State) (sd : ℕ) (y a b : Tile) :
    let t := (s.splitInto y a b).splitAnswer sd y a b
    t.e.tiles = (((s.putTile a).putTile b).modTile y.key fun z => { z with isSplit := true }).e.tiles ∧
    t.e.tens = s.e.tens.flatMap (fun h => h.onKids y a b) ∧
    (∀ c ∈ s.slices, t.getS c sd = tileStatus 0 (child := y.child) ∧ t.getS c (sd + 1) = BitVec.ofNat 32 a.handle ∧
      t.getS c (sd + 2) = BitVec.ofNat 32 b.handle) ∧
    t.r.v = s.r.v ∧ t.r.mr = s.r.mr ∧ t.m = s.m ∧ t.e.reqs = s.e.reqs ∧ t.x = s.x := by
  intro t
  obtain ⟨htens, ts, hs, hsplit⟩ := s.splitInto_rest y a b
  obtain ⟨sr, hanswer⟩ := (s.splitInto y a b).splitAnswer_eq sd y a b
  have hslices : (s.splitInto y a b).slices = s.slices := by rw [hsplit]; rfl
  have hwords : ∀ c ∈ s.slices, _ := fun c hc => State.splitAnswer_getS (s.splitInto y a b) sd y a b (hslices ▸ hc)
  have ht : t = _ := hanswer
  refine ⟨ht ▸ rfl, ht ▸ htens, hwords, ?_⟩
  rw [ht, hsplit]
  exact ⟨rfl, rfl, rfl, rfl, rfl⟩

/-- The tenures behind a split: others as they were, and one on each child for every one on the tile (R281). -/
theorem Tenure.mem_onKids {hs : List Tenure} {y a b : Tile} {h : Tenure} (hh : h ∈ hs) :
    (h.tile ≠ some y.key → h ∈ hs.flatMap (fun h => h.onKids y a b)) ∧
    (h.tile = some y.key → { h with tile := some a.key, foot := a.foot } ∈ hs.flatMap (fun h => h.onKids y a b) ∧
      { h with tile := some b.key, foot := b.foot } ∈ hs.flatMap (fun h => h.onKids y a b)) := by
  refine ⟨fun hne => List.mem_flatMap.2 ⟨h, hh, ?_⟩,
    fun he => ⟨List.mem_flatMap.2 ⟨h, hh, ?_⟩, List.mem_flatMap.2 ⟨h, hh, ?_⟩⟩⟩
  · simp [Tenure.onKids, hne]
  · simp [Tenure.onKids, he]
  · simp [Tenure.onKids, he]

section
variable {s : State} {x : OpX} (hn : s.handleS x.sa.toNat = none)
include hn

theorem meanTsplit_body : (meanTsplit x s).body s.issued =
    s.issued.tsplit x.sd (s.tileOf (s.leadS x.sa.toNat)) (s.leadS x.sb.toNat) :=
  (tileUnit_body hn).trans (by rw [State.issued_leadS])

/-! ### TMERGE -/

theorem meanTmerge_badSecond {f : FaultInfo} (hf : s.handleS x.sb.toNat = some f) :
    (meanTmerge x s).body s.issued = .trap f :=
  (tileUnit_body hn).trans (by simp [hf])

variable (hm : s.handleS x.sb.toNat = none)
include hm

theorem meanTmerge_noChild (hp : (s.tileOf (s.leadS x.sa.toNat)).parent = none) :
    (meanTmerge x s).body s.issued = .ok (s.issued.setSAll x.sd.toNat (tileStatus 14)) :=
  (tileUnit_body hn).trans (by simp only [State.issued_handleS, hm, hp]; rfl)

variable {k : ℕ × ℕ} (hp : (s.tileOf (s.leadS x.sa.toNat)).parent = some k)
include hp

theorem meanTmerge_twoParents (hq : (s.tileOf (s.leadS x.sb.toNat)).parent ≠ some k ∨
    (s.tileOf (s.leadS x.sa.toNat)).key = (s.tileOf (s.leadS x.sb.toNat)).key) :
    (meanTmerge x s).body s.issued = .ok (s.issued.setSAll x.sd.toNat (tileStatus 14 (child := true))) :=
  (tileUnit_body hn).trans (by
    simp only [State.issued_handleS, hm, hp, State.issued_leadS, State.issued_tileOf]
    exact if_pos hq)

variable (hq : (s.tileOf (s.leadS x.sb.toNat)).parent = some k)
  (hk : (s.tileOf (s.leadS x.sa.toNat)).key ≠ (s.tileOf (s.leadS x.sb.toNat)).key)
include hq hk

/-- The children of one split are merged where neither is busy (R282). -/
theorem meanTmerge_children : (meanTmerge x s).body s.issued =
    let y := s.tileOf (s.leadS x.sa.toNat)
    let z := s.tileOf (s.leadS x.sb.toNat)
    .ok (if (s.tileBusy y || s.tileBusy z) = true then s.issued.setSAll x.sd.toNat (tileStatus 1 (child := true))
      else (((s.issued.modTile y.key fun u => u.free s.u.clk).modTile z.key fun u => u.free s.u.clk).modTile k
        fun u => { u with isSplit := false }).setSAll x.sd.toNat (tileStatus 0 (child := true))) := by
  refine (tileUnit_body hn).trans ?_
  simp only [State.issued_handleS, hm, hp, State.issued_leadS, State.issued_tileOf]
  refine (if_neg (not_or.2 ⟨not_not.2 hq, hk⟩)).trans ?_
  cases hb : s.tileBusy (s.tileOf (s.leadS x.sa.toNat)) || s.tileBusy (s.tileOf (s.leadS x.sb.toNat))
  · exact if_neg (Bool.eq_false_iff.1 hb)
  · exact if_pos hb

end

/-- Settles O40: the outcomes of the four units' bodies, in the order of their tests. -/
theorem tileEntries : Obligations.TileEntries := by
  unfold Obligations.TileEntries
  intro s o x
  refine ⟨fun f hf hr => exec_trap rfl hr (tileUnit_badHandle hf), fun f hf i hi hr => ?fault, ⟨fun h => ?refused,
    fun e h he => ?enters⟩, fun hn => ⟨fun hb => ?busy, fun hs hh hw => ⟨fun hc => ?child, fun hc => ?frees⟩⟩,
    fun y now => ⟨rfl, rfl⟩, fun hn => ⟨fun code h => ?splitRefused, fun a b h ha hb => ?splits⟩,
    fun hn => ⟨fun f hf hr => exec_trap rfl hr (meanTmerge_badSecond hn hf), fun hm => ⟨fun hp => ?noChild,
      fun k hp => ⟨fun hq => ?twoParents, fun hq hk hb => ?mergeBusy, fun hq hk hb => ?merges⟩⟩⟩⟩
  case fault =>
    simp only [List.mem_cons, List.not_mem_nil, or_false] at hi
    rcases hi with rfl | rfl <;> exact exec_trap rfl hr (tileUnit_badHandle hf)
  case refused => exact runsTo_of rfl fun _ => ⟨_, meanTmint_refused h, rfl⟩
  case enters => exact runsTo_of rfl fun _ => ⟨_, meanTmint_enters h he, rfl⟩
  case busy => exact runsTo_of rfl fun _ => ⟨_, meanTfree_busy hn (State.tileBusy_iff.2 hb), rfl⟩
  case child =>
    have hb : s.tileBusy (s.tileOf (s.leadS o.sa.toNat)) = false := by simp [State.tileBusy, hs, hh, hw]
    exact runsTo_of rfl fun _ => ⟨_, meanTfree_child hn hb hc, rfl⟩
  case frees =>
    have hb : s.tileBusy (s.tileOf (s.leadS o.sa.toNat)) = false := by simp [State.tileBusy, hs, hh, hw]
    exact runsTo_of rfl fun _ => ⟨_, meanTfree_frees hn hb hc, rfl⟩
  case splitRefused =>
    rcases s.tsplit_outcome x.sd (s.tileOf (s.leadS x.sa.toNat)) (s.leadS x.sb.toNat) with ⟨c, hc, hb⟩ | ⟨hc, -⟩
    · cases hc.symm.trans h
      exact runsTo_of rfl fun _ => ⟨_, (meanTsplit_body hn).trans hb, rfl⟩
    · cases hc.symm.trans h
  case splits =>
    rcases s.tsplit_outcome x.sd (s.tileOf (s.leadS x.sa.toNat)) (s.leadS x.sb.toNat) with ⟨c, hc, -⟩ | ⟨-, a', b', ha', hb', h⟩
    · cases hc.symm.trans ‹s.splitRefusal _ _ = none›
    cases ha'.symm.trans ha
    cases hb'.symm.trans hb
    refine runsTo_of rfl fun _ => ⟨_, (meanTsplit_body hn).trans h, ?_⟩
    obtain ⟨htiles, htens, hwords, hv, hm, hmem, hreqs, hx⟩ := s.issued.splitAnswer_splitInto x.sd.toNat _ _ _
    rw [State.issued_slices] at hwords
    exact ⟨htiles, fun h hh hne => htens ▸ (Tenure.mem_onKids hh).1 hne, fun h hh he => htens ▸ (Tenure.mem_onKids hh).2 he,
      hwords, hv, hm, hmem, hreqs, hx⟩
  case noChild => exact runsTo_of rfl fun _ => ⟨_, meanTmerge_noChild hn hm hp, rfl⟩
  case twoParents => exact runsTo_of rfl fun _ => ⟨_, meanTmerge_twoParents hn hm hp hq, rfl⟩
  case mergeBusy =>
    refine runsTo_of rfl fun _ => ⟨_, meanTmerge_children hn hm hp hq hk, if_pos ?_⟩
    rw [Bool.or_eq_true, State.tileBusy_iff, State.tileBusy_iff]
    exact hb
  case merges =>
    refine runsTo_of rfl fun _ => ⟨_, meanTmerge_children hn hm hp hq hk, if_neg ?_⟩
    rw [Bool.or_eq_true, State.tileBusy_iff, State.tileBusy_iff]
    exact hb

end Sys2Proof.Machine

/-! SUPPORT. Tile tenure (R274, R277 to R280, R284, R285): the outcomes of the bodies of TACQ, TREL, TDOWN and TSTAT, and the two
events of the arrival order. -/

namespace Sys2Proof.Machine

/-! ### TACQ -/

/-- The state of a tile goes by whether each tenure on it writes (R274). -/
theorem State.tileState_map_tens (s : State) (y : Tile) (f : Tenure → Tenure) (htile : ∀ h, (f h).tile = h.tile)
    (hwrite : ∀ h, (f h).write = h.write) :
    ({ s with e.tens := s.e.tens.map f } : State).tileState y = s.tileState y := by
  have hholders : ({ s with e.tens := s.e.tens.map f } : State).holders y = (s.holders y).map f := by
    simp only [State.holders, List.filter_map]
    congr 1
    exact List.filter_congr fun h _ => by simp [htile]
  simp only [State.tileState, hholders]
  cases s.holders y with
  | nil => rfl
  | cons h hs => simp [hwrite, Function.comp_def]

section
variable {s : State} {x : OpX} {y : Tile} {sd : BitVec 6} {mode : ℕ}

theorem meanTacq_body (hn : s.handleS x.sa.toNat = none) : (meanTacq x s).body s.issued =
    s.issued.tacq x.sd (s.tileOf (s.leadS x.sa.toNat)) (s.leadS x.sb.toNat) :=
  (tileUnit_body hn).trans (by rw [State.issued_leadS])

/-- A tenure whose grant a TACQ has waited for is waited for no longer (R277). -/
def Tenure.taken (h z : Tenure) : Tenure := if z = h then { z with sid := 0 } else z

theorem State.tacq_granted {h : Tenure} (hg : s.granted y = some h) : s.issued.tacq sd y mode =
    .ok (({ s.issued with e.tens := s.e.tens.map h.taken } : State).setSAll sd.toNat
      (tileStatus 0 (s.tileState y) (child := y.child))) := by
  have hstate := s.tileState_map_tens y h.taken (fun z => by unfold Tenure.taken; split <;> rfl)
    fun z => by unfold Tenure.taken; split <;> rfl
  rw [← hstate]
  simp only [State.tacq, State.issued_granted, hg]
  rfl

variable (hg : s.granted y = none)
include hg

theorem State.tacq_waits {w : Tenure} (hw : s.myRequest y = some w) (hb : w.brch = false) :
    s.issued.tacq sd y mode = .wait := by
  simp [State.tacq, hg, hw, hb]

theorem State.tacq_timedOut {w : Tenure} (hw : s.myRequest y = some w) (hb : w.brch = true) :
    s.issued.tacq sd y mode = .ok (({ s.issued with e.reqs := s.e.reqs.filter fun z => decide (z ≠ w) } : State).setSAll
      sd.toNat (tileStatus 16 (s.tileState y) (child := y.child))) := by
  simp only [State.tacq, State.issued_granted, State.issued_myRequest, hg, hw, hb, if_true]
  rfl

variable (hw : s.myRequest y = none)
include hw

/-- Without a grant and without a request a TACQ goes by its mode and the tile (R277). -/
theorem State.tacq_fresh : s.issued.tacq sd y mode =
    (let st := fun code => Res.ok (s.issued.setSAll sd.toNat (tileStatus code (s.tileState y) (child := y.child)))
    let q := s.requestFor y (decide (mode % 2 = 1))
    if 4 ≤ mode then st 17
    else if (s.mine y s.u.iss.team).isSome then st 9
    else if y.isSplit then st 12
    else if s.grantable q s.e.reqs then
      let t : State := { s.issued with e.tens := s.e.tens ++ [{ q with sid := 0 }] }
      .ok (t.setSAll sd.toNat (tileStatus 0 (t.tileState y) (child := y.child)))
    else if bit mode 1 then st 15
    else .hold fun t => { t with e.reqs := t.e.reqs ++ [q] }) := by
  simp only [State.tacq, State.issued_granted, State.issued_myRequest, hg, hw, State.issued_mine, State.issued_grantable]
  rfl

end

/-! ### TREL, TDOWN and TSTAT -/

section
variable {s : State} {o : OpX1}

theorem tileUnit_oneHandle_badHandle {f : FaultInfo} {i : Instr} (hf : s.handleS o.sa.toNat = some f)
    (hi : i ∈ [Instr.trel o, .tdown o, .tstat o]) (hr : Runs i s) : exec i s = .next (s.fault f) := by
  simp only [List.mem_cons, List.not_mem_nil, or_false] at hi
  rcases hi with rfl | rfl | rfl <;> exact exec_trap rfl hr (tileUnit_badHandle hf)

variable (hn : s.handleS o.sa.toNat = none)
include hn

theorem meanTstat_body : (meanTstat o s).body s.issued =
    let y := s.tileOf (s.leadS o.sa.toNat)
    let m := s.mine y s.u.iss.team
    .ok (s.issued.setSAll o.sd.toNat (tileStatus 0 (s.tileState y) (brch := (m.map (·.brch)).getD false)
      (lines := (m.map (·.lines.length)).getD 0) (wait := s.waitingOn y) (mine := m.isSome) (child := y.child))) :=
  tileUnit_body hn

theorem meanTrel_none (hm : s.mine (s.tileOf (s.leadS o.sa.toNat)) s.u.iss.team = none) :
    (meanTrel o s).body s.issued =
      .ok (s.issued.setSAll o.sd.toNat (tileStatus 10 (child := (s.tileOf (s.leadS o.sa.toNat)).child))) :=
  (tileUnit_body hn).trans (by simp only [State.issued_mine, State.issued_iss, hm]; rfl)

theorem meanTdown_none (hm : s.mine (s.tileOf (s.leadS o.sa.toNat)) s.u.iss.team = none) :
    (meanTdown o s).body s.issued =
      let y := s.tileOf (s.leadS o.sa.toNat)
      .ok (s.issued.setSAll o.sd.toNat (tileStatus 10 (s.tileState y) (child := y.child))) :=
  (tileUnit_body hn).trans (by simp only [State.issued_mine, State.issued_iss, hm]; rfl)

variable {h : Tenure} (hm : s.mine (s.tileOf (s.leadS o.sa.toNat)) s.u.iss.team = some h)
include hm

theorem meanTrel_releases : (meanTrel o s).body s.issued =
    .ok ((s.issued.release h s.actLanes).setSAll o.sd.toNat (tileStatus 0 (brch := h.brch) (lines := h.lines.length)
      (child := (s.tileOf (s.leadS o.sa.toNat)).child))) :=
  (tileUnit_body hn).trans (by simp only [State.issued_mine, State.issued_iss, hm, State.issued_actLanes]; rfl)

theorem meanTdown_read (hw : h.write = false) : (meanTdown o s).body s.issued =
    let y := s.tileOf (s.leadS o.sa.toNat)
    .ok (s.issued.setSAll o.sd.toNat (tileStatus 11 (s.tileState y) (child := y.child))) :=
  (tileUnit_body hn).trans (by simp only [State.issued_mine, State.issued_iss, hm, hw, Bool.not_false, if_true]; rfl)

theorem meanTdown_write (hw : h.write = true) : (meanTdown o s).body s.issued =
    .ok ((({ s.issued with e.tens := s.e.tens.map fun z =>
        if z = h then { z with write := false, brch := false, lines := [] } else z } : State).startDrain h.team h.foot
          true s.actLanes).setSAll o.sd.toNat
      (tileStatus 0 1 (brch := h.brch) (lines := h.lines.length) (child := (s.tileOf (s.leadS o.sa.toNat)).child))) := by
  refine (tileUnit_body hn).trans ?_
  simp only [State.issued_mine, State.issued_iss, hm, State.issued_actLanes]
  exact if_neg (by simp [hw])

end

/-! ### The arrival order -/

theorem State.grantAt_grants {s : State} {i : ℕ} {q : Tenure} (hq : s.e.reqs[i]? = some q) (hb : q.brch = false)
    (hg : s.grantable q (s.e.reqs.take i) = true) :
    s.grantAt i = { s with e.reqs := s.e.reqs.eraseIdx i, e.tens := s.e.tens ++ [q] } := by
  simp only [State.grantAt, hq, hb, hg, Bool.not_false, Bool.and_self, if_true]

theorem execTenureGrant_grants {s : State} {q : Tenure} (hq : s.e.reqs[s.u.ev.id]? = some q)
    (hc : ∀ n, q.holder ≠ .copy n) (hb : q.brch = false) (hg : s.grantable q (s.e.reqs.take s.u.ev.id) = true) :
    execTenureGrant s = .next { s with e.reqs := s.e.reqs.eraseIdx s.u.ev.id, e.tens := s.e.tens ++ [q] } := by
  rw [← State.grantAt_grants hq hb hg]
  simp only [execTenureGrant, hq]

theorem execTenureTimeout_withdraws {s : State} {q : Tenure} {tm : ℕ} (hq : s.e.reqs[s.u.ev.id]? = some q)
    (ht : q.holder = .team tm) (hw : (s.team q.team).barWatch.toNat ≠ 0)
    (hlate : q.since + (s.team q.team).barWatch.toNat < s.u.clk) : execTenureTimeout s =
      .next { s with e.reqs := s.e.reqs.modify s.u.ev.id fun z => { z with brch := true } } := by
  simp only [execTenureTimeout, hq, ht]
  exact if_pos ⟨hw, hlate⟩

/-- Settles O41: the outcomes of the four units' bodies in the order of their tests, and the two events'. -/
theorem tileTenure : Obligations.TileTenure := by
  unfold Obligations.TileTenure
  intro s o x
  refine ⟨fun f hf i hi hr => tileUnit_oneHandle_badHandle hf hi hr, fun f hf hr => exec_trap rfl hr (tileUnit_badHandle hf),
    fun hn => ⟨fun h hg => ?granted, fun w hg hw => ⟨fun hb hr => ?waits, fun hb => ?timedOut⟩, fun hg hw => ?fresh⟩,
    fun hn => ⟨fun hm => ⟨?relNone, ?downNone⟩, fun h hm => ⟨?releases, fun hw => ?downRead, fun hw => ?downWrite⟩, ?stat⟩,
    fun q hq hc hb hg => execTenureGrant_grants hq hc hb hg, fun q tm hq ht hw hlate => execTenureTimeout_withdraws hq ht hw hlate⟩
  case granted =>
    refine runsTo_of rfl fun _ => ⟨_, (meanTacq_body hn).trans (State.tacq_granted hg), ?_⟩
    obtain ⟨sr, heq⟩ := ({ s.issued with e.tens := s.e.tens.map h.taken } : State).setSAll_eq x.sd.toNat
      (tileStatus 0 (s.tileState (s.tileOf (s.leadS x.sa.toNat))) (child := (s.tileOf (s.leadS x.sa.toNat)).child))
    refine ⟨heq ▸ rfl, fun c hc => ?_, heq ▸ rfl, heq ▸ rfl, heq ▸ rfl⟩
    rw [State.setSAll_getS, if_pos ⟨s.issued_slices.symm ▸ hc, rfl⟩]
  case waits => exact exec_wait rfl hr ((meanTacq_body hn).trans (State.tacq_waits hg hw hb))
  case timedOut => exact runsTo_of rfl fun _ => ⟨_, (meanTacq_body hn).trans (State.tacq_timedOut hg hw hb), rfl⟩
  case fresh =>
    have hbody := (meanTacq_body hn).trans (State.tacq_fresh (sd := x.sd) (mode := s.leadS x.sb.toNat) hg hw)
    refine ⟨fun h4 => runsTo_of rfl fun _ => ⟨_, hbody.trans (if_pos h4), rfl⟩, fun h4 hm => ?held, fun h4 hm hs => ?split,
      fun h4 hm hs => ?grantable⟩
    case' held => have htest := hbody.trans (if_neg (not_le.2 h4))
    case held => exact runsTo_of rfl fun _ => ⟨_, htest.trans (if_pos hm), rfl⟩
    case' split | grantable =>
      have htest := hbody.trans ((if_neg (not_le.2 h4)).trans (if_neg (by rw [hm]; exact Bool.false_ne_true)))
    case split => exact runsTo_of rfl fun _ => ⟨_, htest.trans (if_pos hs), rfl⟩
    case' grantable => have htest := htest.trans (if_neg (Bool.eq_false_iff.1 hs))
    case grantable =>
    refine ⟨fun hq => ?grants, fun hq hb => ?wouldWait, fun hq hb hr => ?joins⟩
    case grants =>
      refine runsTo_of rfl fun _ => ⟨_, htest.trans (if_pos hq), ?_⟩
      generalize hu : ({ s.issued with e.tens := _ } : State) = u
      obtain ⟨sr, heq⟩ := u.setSAll_eq x.sd.toNat
        (tileStatus 0 (u.tileState (s.tileOf (s.leadS x.sa.toNat))) (child := (s.tileOf (s.leadS x.sa.toNat)).child))
      have hslices : u.slices = s.slices := by rw [← hu]; exact s.issued_slices
      refine ⟨heq ▸ hu ▸ rfl, fun c hc => ?_, heq ▸ hu ▸ rfl, heq ▸ hu ▸ rfl, heq ▸ hu ▸ rfl⟩
      rw [State.setSAll_getS, if_pos ⟨hslices ▸ hc, rfl⟩, heq]
      rfl
    case wouldWait =>
      exact runsTo_of rfl fun _ => ⟨_, htest.trans ((if_neg (Bool.eq_false_iff.1 hq)).trans (if_pos hb)), rfl⟩
    case joins =>
      exact exec_hold rfl hr (htest.trans ((if_neg (Bool.eq_false_iff.1 hq)).trans (if_neg (Bool.eq_false_iff.1 hb))))
  case relNone => exact runsTo_of rfl fun _ => ⟨_, meanTrel_none hn hm, rfl⟩
  case downNone => exact runsTo_of rfl fun _ => ⟨_, meanTdown_none hn hm, rfl⟩
  case releases => exact runsTo_of rfl fun _ => ⟨_, meanTrel_releases hn hm, rfl⟩
  case downRead => exact runsTo_of rfl fun _ => ⟨_, meanTdown_read hn hm hw, rfl⟩
  case downWrite => exact runsTo_of rfl fun _ => ⟨_, meanTdown_write hn hm hw, rfl⟩
  case stat => exact runsTo_of rfl fun _ => ⟨_, meanTstat_body hn, rfl⟩

end Sys2Proof.Machine

/-! SUPPORT. Task and queue instructions (R346, R348 to R354): the outcomes of the bodies of SPAWN, JOIN, JOIN.POLL, TASKEND,
LAUNCH and QSTAT. -/

namespace Sys2Proof.Machine

theorem State.team_uid (s : State) (t : ℕ) : (s.team t).uid = t := by
  unfold State.team
  cases h : s.team? t with
  | none => rfl
  | some x => simpa using List.find?_some h

@[simp] theorem State.dieWalks_apart (s : State) (die asid va : ℕ) : (s.dieWalks die asid va).apart = s.apart := by
  unfold State.dieWalks
  split <;> rfl

/-- A task operation's reads of blocks leave what stands apart from the caches (R257, R346). -/
@[simp] theorem State.touchBlocks_apart (s : State) (w : TaskAt) (g : Grid) (xs : List (ℕ × Bool)) :
    (s.touchBlocks w g xs).apart = s.apart := by
  refine State.foldl_apart xs _ s fun t x => ?_
  split
  · cases w.core <;> simp
  · rfl

/-- Where a task operation runs stands apart from the caches. -/
theorem State.taskHere_congr {s t : State} (h : t.apart = s.apart) : t.taskHere = s.taskHere := by
  have hx : t.x = s.x := congrArg Apart.x h
  have hu : t.u = s.u := congrArg Apart.u h
  have hgr : t.r.gr = s.r.gr := congrArg (fun p : Apart => p.r.gr) h
  simp only [State.taskHere, State.coreOf, State.gid, State.team, State.team?, State.grp, hx, hu, hgr]
  rfl

/-! ### JOIN and JOIN.POLL -/

section
variable {s : State} {d : OpSd} {poll : Bool}

theorem meaningOf_join {j : Instr} (hj : j ∈ [Instr.joinTask d, .joinPoll d]) :
    ∃ poll, meaningOf j s = some (joinUnit poll d s) := by
  simp only [List.mem_cons, List.not_mem_nil, or_false] at hj
  rcases hj with rfl | rfl
  · exact ⟨false, rfl⟩
  · exact ⟨true, rfl⟩

theorem joinUnit_noArena (h : (s.arena s.u.iss.team).launch.taskBase = 0) :
    (joinUnit poll d s).body s.issued = .trap { code := TASK } :=
  if_pos h

variable (hbase : (s.arena s.u.iss.team).launch.taskBase ≠ 0)
include hbase

theorem joinUnit_unreachable {k : ℕ} (hk : s.blockFault (s.arena s.u.iss.team) [s.ownBlock] false = some k) :
    (joinUnit poll d s).body s.issued = .trap { code := TASK, addr := (s.arena s.u.iss.team).block k } := by
  refine (if_neg hbase).trans ?_
  simp only [State.issued_arena, State.issued_iss, State.issued_blockFault, State.issued_ownBlock, hk]
  rfl

variable (hreach : s.blockFault (s.arena s.u.iss.team) [s.ownBlock] false = none)
include hreach

/-- A JOIN's answer from its block (R351). -/
def State.joinAnswer (s : State) (poll : Bool) (d : OpSd) (g : Grid) (me : ℕ) (w : TaskAt) : Res :=
  let n := s.joinOf w g me
  if n ≠ 0 ∧ !poll then .wait else .ok (s.setSAll d.sd.toNat (taskStatus (if n = 0 then 0 else 1) n))

/-- A JOIN whose block can be reached acts once no recall holds the block back (R287, R351). -/
theorem joinUnit_onBlocks : (joinUnit poll d s).body s.issued =
    s.issued.onBlocks (s.arena s.u.iss.team) [(s.ownBlock, false)] fun t =>
      t.joinAnswer poll d (s.arena s.u.iss.team) s.ownBlock t.taskHere := by
  refine (if_neg hbase).trans ?_
  simp only [State.issued_arena, State.issued_iss, State.issued_blockFault, State.issued_ownBlock, hreach]
  rfl

end

/-- A task operation whose blocks are held back calls for them (R287). -/
theorem State.onBlocks_held {s : State} {g : Grid} {xs : List (ℕ × Bool)} (body : State → Res)
    (h : s.issued.blocksClear s.taskHere g xs = false) :
    s.issued.onBlocks g xs body = .hold fun t => t.callBlocks s.taskHere g xs :=
  if_neg (Bool.eq_false_iff.1 h)

/-- A task operation whose blocks are clear acts once it has read them. -/
theorem State.onBlocks_clear {s : State} {g : Grid} {xs : List (ℕ × Bool)} (body : State → Res)
    (h : s.issued.blocksClear s.taskHere g xs = true) :
    s.issued.onBlocks g xs body = body (s.issued.touchBlocks s.taskHere g xs) :=
  if_pos h

section
variable {s : State} {d : OpSd} (poll : Bool) (hbase : (s.arena s.u.iss.team).launch.taskBase ≠ 0)
  (hreach : s.blockFault (s.arena s.u.iss.team) [s.ownBlock] false = none)
  (hclear : s.issued.blocksClear s.taskHere (s.arena s.u.iss.team) [(s.ownBlock, false)] = true)
include hbase hreach hclear

/-- The state in which a JOIN has read its block (R351). -/
def State.joinRead (s : State) : State :=
  s.issued.touchBlocks s.taskHere (s.arena s.u.iss.team) [(s.ownBlock, false)]

theorem joinUnit_reads : (joinUnit poll d s).body s.issued =
    s.joinRead.joinAnswer poll d (s.arena s.u.iss.team) s.ownBlock s.taskHere := by
  have hhere : s.joinRead.taskHere = s.taskHere := (State.taskHere_congr (s.issued.touchBlocks_apart ..)).trans rfl
  exact (joinUnit_onBlocks hbase hreach).trans ((State.onBlocks_clear _ hclear).trans (congrArg _ hhere))

theorem joinUnit_noChildren (hn : s.joinRead.joinOf s.taskHere (s.arena s.u.iss.team) s.ownBlock = 0) :
    (joinUnit poll d s).body s.issued = .ok (s.joinRead.setSAll d.sd.toNat (taskStatus 0 0)) := by
  rw [joinUnit_reads poll hbase hreach hclear, State.joinAnswer, hn]
  rfl

variable (hn : s.joinRead.joinOf s.taskHere (s.arena s.u.iss.team) s.ownBlock ≠ 0)
include hn

theorem meanJoin_children : (meanJoin d s).body s.issued = .wait :=
  (joinUnit_reads false hbase hreach hclear).trans (if_pos ⟨hn, rfl⟩)

theorem meanJoinPoll_children : (meanJoinPoll d s).body s.issued = .ok (s.joinRead.setSAll d.sd.toNat
    (taskStatus 1 (s.joinRead.joinOf s.taskHere (s.arena s.u.iss.team) s.ownBlock))) :=
  (joinUnit_reads true hbase hreach hclear).trans ((if_neg (by simp)).trans (by rw [if_neg hn]))

end

/-! ### SPAWN -/

section
variable {s : State} {o : OpX1}

theorem meanSpawn_noBlock (h : (s.arena s.u.iss.team).launch.taskBase = 0 ∨
    (s.arena s.u.iss.team).launch.taskN ≤ s.leadS o.sa.toNat) :
    (meanSpawn o s).body s.issued = .trap { code := TASK } := by
  refine if_pos ?_
  rw [State.issued_leadS]
  exact h

variable (hbase : (s.arena s.u.iss.team).launch.taskBase ≠ 0)
  (hi : s.leadS o.sa.toNat < (s.arena s.u.iss.team).launch.taskN)
include hbase hi

theorem meanSpawn_unreachable {k : ℕ}
    (hk : s.blockFault (s.arena s.u.iss.team) [s.leadS o.sa.toNat, s.ownBlock] true = some k) :
    (meanSpawn o s).body s.issued = .trap { code := TASK, addr := (s.arena s.u.iss.team).block k } := by
  simp only [meanSpawn, State.issued_arena, State.issued_iss, State.issued_blockFault, State.issued_ownBlock,
    State.issued_leadS, hk]
  exact if_neg (not_or.2 ⟨hbase, not_le.2 hi⟩)

variable (hreach : s.blockFault (s.arena s.u.iss.team) [s.leadS o.sa.toNat, s.ownBlock] true = none)
include hreach

/-- SPAWN's effect on the blocks that it has read, block i being the child's (R350). -/
def State.spawnAnswer (s : State) (sd : ℕ) (g : Grid) (i me : ℕ) (w : TaskAt) : Res :=
  let st := fun (u : State) code => Res.ok (u.setSAll sd (taskStatus code (u.joinOf w g me)))
  if i < g.launch.teams ∨ s.stateOf w g i ≠ 0 then st s 3
  else if s.joinOf w g me = 65535 then st s 2
  else
    let u := (s.setBlockWord w g i 9 me).setLow w g me 7 (s.joinOf w g me + 1)
    st (if u.pred w g i = 0 then u.pushTask w g i else u.setBlockState w g i 1) 0

/-- A SPAWN whose blocks can be reached releases, and then acts once no recall holds them back (R287, R350). -/
theorem meanSpawn_onBlocks : (meanSpawn o s).body s.issued =
    if s.owesRelease then .wait
    else s.issued.onBlocks (s.arena s.u.iss.team) [(s.leadS o.sa.toNat, true), (s.ownBlock, true)] fun t =>
      t.spawnAnswer o.sd.toNat (s.arena s.u.iss.team) (s.leadS o.sa.toNat) s.ownBlock s.taskHere := by
  simp only [meanSpawn, State.issued_arena, State.issued_iss, State.issued_blockFault, State.issued_ownBlock,
    State.issued_leadS, State.issued_owesRelease, hreach]
  exact if_neg (not_or.2 ⟨hbase, not_le.2 hi⟩)

end

/-! ### TASKEND -/

@[simp] theorem State.issued_retireBlocks (s : State) : s.issued.retireBlocks = s.retireBlocks := by
  funext w g i
  simp only [State.retireBlocks, State.parentOf, State.issued_succs, State.issued_blockWord]
  rfl

section
variable {s : State} {d : OpSd}

theorem meanTaskend_noArena (h : (s.arena s.u.iss.team).launch.taskBase = 0) :
    (meanTaskend d s).body s.issued = .trap { code := TASK } := by
  refine if_pos ?_
  rw [State.team_uid]
  exact h

variable (hbase : (s.arena s.u.iss.team).launch.taskBase ≠ 0)
include hbase

theorem meanTaskend_noTask (hy : (s.team s.u.iss.team).isTask = false) :
    (meanTaskend d s).body s.issued = .ok (s.issued.setSAll d.sd.toNat (taskStatus 5 0)) := by
  simp only [meanTaskend, State.issued_team, State.issued_arena, State.issued_iss, State.team_uid, hbase, hy, if_false,
    Bool.not_false, if_true]

variable (hy : (s.team s.u.iss.team).isTask = true)
include hy

theorem meanTaskend_done (hd : (s.team s.u.iss.team).taskDone = true) :
    (meanTaskend d s).body s.issued = .ok (s.issued.setSAll d.sd.toNat (taskStatus 6 0)) := by
  simp only [meanTaskend, State.issued_team, State.issued_arena, State.issued_iss, State.team_uid, hbase, hy, hd, if_false,
    Bool.not_true, Bool.false_eq_true, if_true]

variable (hd : (s.team s.u.iss.team).taskDone = false)
include hd

theorem meanTaskend_unreachable {k : ℕ}
    (hk : s.retireFault s.taskHere (s.arena s.u.iss.team) (s.team s.u.iss.team).taskBlk = some k) :
    (meanTaskend d s).body s.issued = .trap { code := TASK, addr := (s.arena s.u.iss.team).block k } := by
  simp only [meanTaskend, State.issued_team, State.issued_arena, State.issued_iss, State.issued_taskHere,
    State.issued_retireFault, State.team_uid, hbase, hy, hd, hk, if_false, Bool.not_true, Bool.false_eq_true]
  rfl

/-- A TASKEND whose blocks can be reached releases, and then acts once no recall holds them back (R287, R353). -/
theorem meanTaskend_onBlocks
    (hreach : s.retireFault s.taskHere (s.arena s.u.iss.team) (s.team s.u.iss.team).taskBlk = none) :
    (meanTaskend d s).body s.issued =
      let g := s.arena s.u.iss.team
      let y := s.team s.u.iss.team
      if s.owesRelease then .wait
      else s.issued.onBlocks g (s.retireBlocks s.taskHere g y.taskBlk) fun t =>
        .ok (((t.retireTask s.taskHere g y.taskBlk 4).modTeam y.uid fun z => { z with taskDone := true }).setSAll
          d.sd.toNat (taskStatus 0 0)) := by
  simp only [meanTaskend, State.issued_team, State.issued_arena, State.issued_iss, State.issued_taskHere,
    State.issued_retireFault, State.issued_retireBlocks, State.issued_owesRelease, State.team_uid, hbase, hy, hd, hreach,
    if_false, Bool.not_true, Bool.false_eq_true]

end

/-! ### LAUNCH and QSTAT -/

section
variable {s : State} {x : OpX}

theorem meanLaunch_releases (h : s.owesRelease = true) : (meanLaunch x s).body s.issued = .wait := by
  refine if_pos ?_
  rw [State.issued_owesRelease]
  exact h

variable (ho : s.owesRelease = false)
include ho

theorem meanLaunch_noQueue (hq : 32768 ≤ s.leadS x.sb.toNat) :
    (meanLaunch x s).body s.issued = .ok (s.issued.setSAll x.sd.toNat (taskStatus 4 0)) := by
  simp only [meanLaunch, State.issued_owesRelease, State.issued_leadS, ho, Bool.false_eq_true, if_false, hq, if_true]

variable (hq : s.leadS x.sb.toNat < 32768)
include hq

theorem meanLaunch_refused (hr : (s.queueRec (s.leadS x.sb.toNat)).en = false ∨ (s.queueRec (s.leadS x.sb.toNat)).err = true ∨
    (s.queueRec (s.leadS x.sb.toNat)).asid ≠ s.asid) : (meanLaunch x s).body s.issued =
      .ok ((s.issued.readQueue (s.leadS x.sb.toNat)).setSAll x.sd.toNat (taskStatus 4 0)) := by
  simp only [meanLaunch, State.issued_owesRelease, State.issued_leadS, State.issued_queueRec, State.issued_asid, ho,
    Bool.false_eq_true, if_false, not_le.2 hq]
  exact if_pos (by simpa using hr)

variable (hen : (s.queueRec (s.leadS x.sb.toNat)).en = true) (herr : (s.queueRec (s.leadS x.sb.toNat)).err = false)
  (hasid : (s.queueRec (s.leadS x.sb.toNat)).asid = s.asid)
include hen herr hasid

theorem meanLaunch_full (hp : (s.queueRec (s.leadS x.sb.toNat)).pend = 2 ^ (s.queueRec (s.leadS x.sb.toNat)).logn) :
    (meanLaunch x s).body s.issued =
      .ok ((s.issued.readQueue (s.leadS x.sb.toNat)).setSAll x.sd.toNat (taskStatus 2 0)) := by
  simp only [meanLaunch, State.issued_owesRelease, State.issued_leadS, State.issued_queueRec, State.issued_asid, ho,
    Bool.false_eq_true, if_false, not_le.2 hq, hen, herr, hasid, hp, Bool.not_true, ne_eq, not_true, or_self, if_true]

variable (hp : (s.queueRec (s.leadS x.sb.toNat)).pend ≠ 2 ^ (s.queueRec (s.leadS x.sb.toNat)).logn)
include hp

theorem meanLaunch_noSlot {c : ℕ} (hc : s.dieSeek (s.leadS x.sb.toNat / 8192) (s.queueRec (s.leadS x.sb.toNat)).asid
    ((s.queueRec (s.leadS x.sb.toNat)).slot (s.queueRec (s.leadS x.sb.toNat)).tail) true = .inr c) :
    (meanLaunch x s).body s.issued =
      .ok ((s.issued.readQueue (s.leadS x.sb.toNat)).setSAll x.sd.toNat (taskStatus 4 0)) := by
  simp only [meanLaunch, State.issued_owesRelease, State.issued_leadS, State.issued_queueRec, State.issued_asid, ho,
    Bool.false_eq_true, if_false, not_le.2 hq, hen, herr, hasid, hp, Bool.not_true, ne_eq, not_true, or_self,
    State.issued_dieSeek, hasid ▸ hc]

/-- A LAUNCH to a queue with room whose slot can be written waits for recalls of its line, and then appends its command (R287,
R352). -/
theorem meanLaunch_slot {lf : Leaf} (hlf : s.dieSeek (s.leadS x.sb.toNat / 8192) (s.queueRec (s.leadS x.sb.toNat)).asid
    ((s.queueRec (s.leadS x.sb.toNat)).slot (s.queueRec (s.leadS x.sb.toNat)).tail) true = .inl lf) :
    (meanLaunch x s).body s.issued =
      let q := s.leadS x.sb.toNat
      let r := s.queueRec q
      let va := r.slot r.tail
      let core := s.coreOf s.gid
      let ag : Agent := { team := some s.u.iss.team, core := some core, asid := r.asid }
      if (!s.issued.recallClear ag lf va true) = true then .hold fun u => u.callLine ag lf va true
      else
        let u := (s.issued.readQueue q).coreWrite ag (core / 192) (s.chainOf (s.lane 0)) lf va
          (1 + 2 ^ 64 * s.leadAddr x.sa.toNat) 64
        .ok (((u.physStore (u.queuePa q + 16) (r.tail + 1) 4).ring q).setSAll x.sd.toNat (taskStatus 0 0)) := by
  simp only [meanLaunch, State.issued_owesRelease, State.issued_leadS, State.issued_queueRec, State.issued_asid, ho,
    Bool.false_eq_true, if_false, not_le.2 hq, hen, herr, hasid, hp, Bool.not_true, ne_eq, not_true, or_self,
    State.issued_dieSeek, State.issued_leadAddr, hasid ▸ hlf]
  rfl

end

theorem meanQstat_body (s : State) (o : OpX1) : (meanQstat o s).body s.issued =
    let q := s.leadS o.sa.toNat
    let r := s.queueRec q
    .ok ((if q < 32768 then s.issued.readQueue q else s.issued).setSAll o.sd.toNat
      (if q < 32768 then taskStatus (if r.asid ≠ s.asid ∨ r.err then 4 else 0) r.pend
      else if q = 0xFFFFFFFF then taskStatus 0 (s.d.taskQ.filter fun k =>
        decide (k.die = s.coreOf s.gid / 192 ∧ (s.grid k.grid).launch.asid = s.asid)).length
      else taskStatus 4 0)) := by
  simp only [meanQstat, State.issued_leadS]
  rfl

/-- Settles O43: the outcomes of the units' bodies, in the order of their tests. -/
theorem taskInstructions : Obligations.TaskInstructions := by
  unfold Obligations.TaskInstructions
  intro s o d x g w me i
  refine ⟨fun hb j hj hr => ?noArena, fun hi hr => exec_trap rfl hr (meanSpawn_noBlock (.inr hi)),
    fun hb => ⟨fun k hk j hj hr => ?joinFault, fun hk => ⟨fun hc j hj hr => ?joinHeld, fun hc => ⟨fun hn j hj => ?noChildren,
      fun hn => ⟨fun hr => ?joinWaits, ?polls⟩⟩⟩, fun hi => ⟨fun k hk hr => exec_trap rfl hr (meanSpawn_unreachable hb hi hk),
      fun hk => ⟨fun ho hr => ?spawnReleases, fun ho hc hr => ?spawnHeld, fun ho hc => ⟨fun ht => ?notFree,
        fun ht hst => ⟨fun hn => ?countFull, fun hn => ?spawns⟩⟩⟩⟩, fun hy => ?noTask, fun hy hd => ?done,
      fun hy hd => ⟨fun k hk hr => exec_trap rfl hr (meanTaskend_unreachable hb hy hd hk), fun hk => ⟨fun ho hr => ?endReleases,
        fun ho hc hr => ?endHeld, fun ho hc => ?retires⟩⟩⟩,
    ⟨fun ho hr => exec_wait rfl hr (meanLaunch_releases ho), fun ho => ⟨fun hq => ?noQueue, fun hq hr => ?refused,
      fun hq hen herr hasid => ⟨fun hp => ?full, fun c hp hc => ?noSlot, fun lf hp hlf => ⟨fun hc hr => ?launchHeld,
        fun hc => ?launches⟩⟩⟩⟩, fun hq => ?queue, fun hq => ?tasks, fun hq hq' => ?badQueue⟩
  case noArena =>
    simp only [List.mem_cons, List.not_mem_nil, or_false] at hj
    rcases hj with rfl | rfl | rfl | rfl
    · exact exec_trap rfl hr (meanSpawn_noBlock (.inl hb))
    · exact exec_trap rfl hr (joinUnit_noArena (poll := false) hb)
    · exact exec_trap rfl hr (joinUnit_noArena (poll := true) hb)
    · exact exec_trap rfl hr (meanTaskend_noArena hb)
  case joinFault =>
    obtain ⟨poll, hm⟩ := meaningOf_join hj
    exact exec_trap hm hr (joinUnit_unreachable hb hk)
  case joinHeld =>
    obtain ⟨poll, hm⟩ := meaningOf_join hj
    exact exec_hold hm hr ((joinUnit_onBlocks hb hk).trans (State.onBlocks_held _ hc))
  case noChildren =>
    obtain ⟨poll, hm⟩ := meaningOf_join hj
    exact runsTo_of hm fun _ => ⟨_, joinUnit_noChildren poll hb hk hc hn, rfl⟩
  case joinWaits => exact exec_wait rfl hr (meanJoin_children hb hk hc hn)
  case polls => exact runsTo_of rfl fun _ => ⟨_, meanJoinPoll_children hb hk hc hn, rfl⟩
  case spawnReleases => exact exec_wait rfl hr ((meanSpawn_onBlocks hb hi hk).trans (if_pos ho))
  case' spawnHeld | notFree | countFull | spawns =>
    have hblocks := (meanSpawn_onBlocks (o := o) hb hi hk).trans (if_neg (Bool.eq_false_iff.1 ho))
  case spawnHeld => exact exec_hold rfl hr (hblocks.trans (State.onBlocks_held _ hc))
  case' notFree | countFull | spawns => have hanswer := hblocks.trans (State.onBlocks_clear _ hc)
  case notFree => exact runsTo_of rfl fun _ => ⟨_, hanswer.trans (if_pos ht), rfl⟩
  case' countFull | spawns => have hfree := hanswer.trans (if_neg (not_or.2 ⟨not_lt.2 ht, not_not.2 hst⟩))
  case countFull => exact runsTo_of rfl fun _ => ⟨_, hfree.trans (if_pos hn), congrArg _ (congrArg (taskStatus 2) hn)⟩
  case spawns => exact runsTo_of rfl fun _ => ⟨_, hfree.trans (if_neg hn), rfl⟩
  case noTask => exact runsTo_of rfl fun _ => ⟨_, meanTaskend_noTask hb hy, rfl⟩
  case done => exact runsTo_of rfl fun _ => ⟨_, meanTaskend_done hb hy hd, rfl⟩
  case endReleases => exact exec_wait rfl hr ((meanTaskend_onBlocks hb hy hd hk).trans (if_pos ho))
  case' endHeld | retires =>
    have hblocks := (meanTaskend_onBlocks (d := d) hb hy hd hk).trans (if_neg (Bool.eq_false_iff.1 ho))
  case endHeld => exact exec_hold rfl hr (hblocks.trans (State.onBlocks_held _ hc))
  case retires => exact runsTo_of rfl fun _ => ⟨_, hblocks.trans (State.onBlocks_clear _ hc), rfl⟩
  case noQueue => exact runsTo_of rfl fun _ => ⟨_, meanLaunch_noQueue ho hq, rfl⟩
  case refused => exact runsTo_of rfl fun _ => ⟨_, meanLaunch_refused ho hq hr, rfl⟩
  case full => exact runsTo_of rfl fun _ => ⟨_, meanLaunch_full ho hq hen herr hasid hp, rfl⟩
  case noSlot => exact runsTo_of rfl fun _ => ⟨_, meanLaunch_noSlot ho hq hen herr hasid hp hc, rfl⟩
  case launchHeld =>
    exact exec_hold rfl hr ((meanLaunch_slot ho hq hen herr hasid hp hlf).trans (if_pos (by rw [hc]; rfl)))
  case launches =>
    exact runsTo_of rfl fun _ => ⟨_, (meanLaunch_slot ho hq hen herr hasid hp hlf).trans (if_neg (by rw [hc]; simp)), rfl⟩
  case queue =>
    refine runsTo_of rfl fun _ => ⟨_, meanQstat_body s o, ?_⟩
    have hcode : (if (s.queueRec (s.leadS o.sa.toNat)).asid ≠ s.asid ∨ (s.queueRec (s.leadS o.sa.toNat)).err = true then 4
        else 0) = if (s.queueRec (s.leadS o.sa.toNat)).asid = s.asid ∧ (s.queueRec (s.leadS o.sa.toNat)).err = false then 0
        else 4 := by
      by_cases h : (s.queueRec (s.leadS o.sa.toNat)).asid = s.asid <;>
        cases (s.queueRec (s.leadS o.sa.toNat)).err <;> simp [h]
    simp only [hq, if_true, hcode]
  case tasks =>
    refine runsTo_of rfl fun _ => ⟨_, meanQstat_body s o, ?_⟩
    simp [hq]
  case badQueue =>
    refine runsTo_of rfl fun _ => ⟨_, meanQstat_body s o, ?_⟩
    simp only [not_lt.2 hq, hq', if_false]

end Sys2Proof.Machine

/-! SUPPORT. PEERID, MIGRATE, RSHARD and RSPOLL (R425 to R427, R442, R443, R448): the outcomes of their units' bodies. -/

namespace Sys2Proof.Machine

/-! ### MIGRATE -/

/-- The state in which a MIGRATE has walked for its page (R425). -/
def State.migWalked (s : State) (va : ℕ) : State :=
  if va < 2 ^ 56 then s.issued.missWalks (s.coreOf s.gid) s.asid [va] else s.issued

theorem State.migWalked_f (s : State) (va : ℕ) : (s.migWalked va).f = s.f := by
  unfold State.migWalked
  split <;> rfl

/-- Migrations join the die's queue (R425). -/
def State.queueMigs (s : State) (ms : List Mig) : State := { s with f.migQ := s.f.migQ ++ ms }

theorem State.queueMigs_nil (s : State) : s.queueMigs [] = s := by
  rw [State.queueMigs, List.append_nil]

theorem meanMigrate_body (s : State) (o : OpX1) : (meanMigrate o s).body s.issued =
    .ok (((s.migWalked (s.leadAddr o.sa.toNat)).queueMigs
      (s.issued.migrateCode (s.coreOf s.gid) s.asid (s.leadAddr o.sa.toNat)).2).setSAll o.sd.toNat
        (BitVec.ofNat 32 (s.issued.migrateCode (s.coreOf s.gid) s.asid (s.leadAddr o.sa.toNat)).1)) := by
  simp only [meanMigrate, State.issued_leadAddr]
  rfl

/-- A MIGRATE that queues nothing writes Sd alone (R425). -/
theorem meanMigrate_refuses {s : State} {o : OpX1} {code : ℕ}
    (h : s.issued.migrateCode (s.coreOf s.gid) s.asid (s.leadAddr o.sa.toNat) = (code, [])) :
    (meanMigrate o s).body s.issued =
      .ok ((s.migWalked (s.leadAddr o.sa.toNat)).setSAll o.sd.toNat (BitVec.ofNat 32 code)) := by
  rw [meanMigrate_body, h, State.queueMigs_nil]

theorem meanMigrate_queues {s : State} {o : OpX1} {m : Mig}
    (h : s.issued.migrateCode (s.coreOf s.gid) s.asid (s.leadAddr o.sa.toNat) = (0, [m])) :
    (meanMigrate o s).body s.issued =
      .ok (({ s.migWalked (s.leadAddr o.sa.toNat) with f.migQ := s.f.migQ ++ [m] } : State).setSAll o.sd.toNat 0) := by
  rw [meanMigrate_body, h, ← s.migWalked_f (s.leadAddr o.sa.toNat)]
  rfl

section
variable {s : State} {core asid va : ℕ}

theorem State.migrateCode_noPage (h : 2 ^ 56 ≤ va ∨ s.translate core asid va 0 = none) :
    s.migrateCode core asid va = (3, []) := by
  have hnone : (if va < 2 ^ 56 then s.translate core asid va 0 else none) = none := by
    rcases h with h | h
    · exact if_neg (not_lt.2 h)
    · rw [h, ite_self]
  simp only [State.migrateCode, hnone]

variable {lf : Leaf} (hva : va < 2 ^ 56) (hlf : s.translate core asid va 0 = some lf)
include hva hlf

/-- The code of a MIGRATE of a page, by its mode and the die's queue (R425). -/
theorem State.migrateCode_page : s.migrateCode core asid va =
    if s.modeOf lf ≠ 3 then (1, [])
    else if s.migQueued asid lf.va then (2, [])
    else if 64 ≤ (s.f.migQ.filter fun m => decide (m.die = core / 192)).length then (4, [])
    else (0, [{ die := core / 192, asid := asid, va := lf.va }]) := by
  simp only [State.migrateCode, hva, hlf, if_true]

end

/-! ### RSHARD -/

/-- A register of the executing lanes becomes empty, its contents unchanged (R82). -/
def State.emptyAll (s : State) (v : ℕ) : State := s.elanes.foldl (fun t l => t.setEmpty (s.lane l) v true) s

theorem State.emptyAll_spec (s : State) (v : ℕ) :
    (∀ l ∈ s.elanes, (s.emptyAll v).isEmpty (s.lane l) v = true) ∧ ∃ ve, s.emptyAll v = { s with r.ve := ve } := by
  have key : ∀ (ls : List ℕ) (t : State),
      let u := ls.foldl (fun t l => t.setEmpty (s.lane l) v true) t
      (∀ l, l ∈ ls ∨ t.isEmpty (s.lane l) v = true → u.isEmpty (s.lane l) v = true) ∧ ∃ ve, u = { t with r.ve := ve } := by
    intro ls
    induction ls with
    | nil => exact fun t => ⟨fun l h => h.elim (absurd · List.not_mem_nil) id, t.r.ve, rfl⟩
    | cons a ls ih =>
      intro t
      obtain ⟨hempty, ve, hve⟩ := ih (t.setEmpty (s.lane a) v true)
      refine ⟨fun l hl => hempty l ?_, ve, hve⟩
      rw [State.isEmpty_setEmpty]
      rcases hl with hl | hl
      · rcases List.mem_cons.1 hl with rfl | hl
        · exact .inr (if_pos rfl)
        · exact .inl hl
      · rw [hl, ite_self]
        exact .inr rfl
  obtain ⟨hempty, hrest⟩ := key s.elanes s
  exact ⟨fun l hl => hempty l (.inl hl), hrest⟩

/-- The command that an RSHARD hands to its engine (R442). -/
def State.rshCommand (s : State) (x : OpX) : Rsh :=
  { id := s.u.uid, sid := s.u.iss.sid, team := s.u.iss.team, group := s.u.iss.group, core := s.coreOf s.gid
    seq := s.u.seqNo, sd := x.sd.toNat, srcVa := s.leadAddr x.sa.toNat, dstVa := s.leadAddr x.sb.toNat
    vs := s.copyVs, slanes := if s.copyVs.isSome then s.elanes else [] }

/-- The state in which the status register of an RSHARD, if it names one, is empty (R442). -/
def State.rshEmptied (s : State) : State := s.copyVs.elim s s.emptyAll

theorem State.rshEmptied_spec (s : State) :
    (∀ v, s.copyVs = some v → ∀ l ∈ s.elanes, s.rshEmptied.isEmpty (s.lane l) v = true) ∧
    ∃ ve, s.rshEmptied = { s with r.ve := ve } := by
  unfold State.rshEmptied
  cases s.copyVs with
  | none => exact ⟨fun v h => (nomatch h), s.r.ve, rfl⟩
  | some v => exact ⟨fun w h => Option.some.inj h ▸ (s.emptyAll_spec v).1, (s.emptyAll_spec v).2⟩

/-- A command joins its engine's (R442). -/
def State.addRsh (s : State) (r : Rsh) : State := { s with e.rsh := s.e.rsh ++ [r], u.uid := s.u.uid + 1 }

theorem meanRshard_body (s : State) (x : OpX) : (meanRshard x s).body s.issued =
    .ok ((s.issued.rshEmptied.addRsh (s.issued.rshCommand x)).modSplit s.u.iss.sid fun p =>
      { p with park := .rshard s.u.uid }) := by
  unfold State.rshEmptied State.rshCommand
  simp only [meanRshard]
  cases h : s.issued.copyVs <;> rfl

/-! ### RSPOLL -/

section
variable {s : State} {o : OpX1}

/-- The page of an address that an RSPOLL reads (R448). -/
def State.pollLeaf (s : State) (va : ℕ) : Option Leaf :=
  if va < 2 ^ 56 then
    match s.seek (s.coreOf s.gid) s.asid va 0 false with
    | .inl lf => some lf
    | .inr _ => none
  else none

theorem State.pollLeaf_eq_some {va : ℕ} {lf : Leaf} : s.pollLeaf va = some lf ↔
    va < 2 ^ 56 ∧ s.issued.seek (s.coreOf s.gid) s.asid va 0 false = .inl lf := by
  rw [State.issued_seek, State.pollLeaf]
  split
  next hva => cases s.seek (s.coreOf s.gid) s.asid va 0 false <;> simp [-Nat.reducePow, hva]
  next hva => simp [-Nat.reducePow, hva]

theorem State.pollLeaf_eq_none {va : ℕ} : s.pollLeaf va = none ↔
    ∀ lf, ¬ (va < 2 ^ 56 ∧ s.issued.seek (s.coreOf s.gid) s.asid va 0 false = .inl lf) := by
  rw [Option.eq_none_iff_forall_ne_some]
  exact forall_congr' fun lf => not_congr State.pollLeaf_eq_some

/-- Two words to the pair that an RSPOLL names. -/
def State.pollPut (s : State) (sd : ℕ) (a b : Word) : Res := .ok ((s.setSAll sd a).setSAll (sd + 1) b)

/-- The place of the poison that an RSPOLL meets first (log entry 82). -/
def State.pollPoison (s : State) (va : ℕ) (lf lg : Leaf) : Option (Leaf × ℕ) :=
  if s.badRead lf va 4 then some (lf, va) else if s.badRead lg (va + 16) 4 then some (lg, va + 16) else none

theorem State.pollPoison_first {va : ℕ} {lf : Leaf} (lg : Leaf) (h : s.badRead lf va 4 = true) :
    s.pollPoison va lf lg = some (lf, va) := if_pos h

theorem State.pollPoison_second {va : ℕ} {lf lg : Leaf} (h : s.badRead lf va 4 = false)
    (h' : s.badRead lg (va + 16) 4 = true) : s.pollPoison va lf lg = some (lg, va + 16) :=
  (if_neg (Bool.eq_false_iff.1 h)).trans (if_pos h')

theorem State.pollPoison_none {va : ℕ} {lf lg : Leaf} (h : s.badRead lf va 4 = false)
    (h' : s.badRead lg (va + 16) 4 = false) : s.pollPoison va lf lg = none :=
  (if_neg (Bool.eq_false_iff.1 h)).trans (if_neg (Bool.eq_false_iff.1 h'))

/-- The agent of an RSPOLL's reads (R287). -/
def State.pollAgent (s : State) : Agent := { team := some s.u.iss.team, core := some (s.coreOf s.gid), asid := s.asid }

/-- The state in which an RSPOLL has read its two words (R448). -/
def State.pollTouched (s : State) (va : ℕ) (lf lg : Leaf) : State :=
  (s.engineTouch s.pollAgent (s.coreOf s.gid) (s.chainOf (s.lane 0)) lf va false).engineTouch s.pollAgent (s.coreOf s.gid)
    (s.chainOf (s.lane 0)) lg (va + 16) false

/-- The answer of an RSPOLL that reads a record itself, from its two pages (R448; log entry 82). -/
def State.pollRead (s : State) (sd va : ℕ) (lf lg : Leaf) : Res :=
  if !(s.recallClear s.pollAgent lf va false && s.recallClear s.pollAgent lg (va + 16) false) then
    .hold fun u => (u.callLine s.pollAgent lf va false).callLine s.pollAgent lg (va + 16) false
  else
    match s.pollPoison va lf lg with
    | some x =>
      .fail (fun u => u.poisonEvent (some x.1) (x.1.pa x.2) (s.coreOf s.gid / 192)) { code := POISON, addr := x.2 }
    | none =>
      let u := s.pollTouched va lf lg
      u.pollPut sd (BitVec.ofNat 32 (u.load (u.locOf lf (lf.pa va)) 4))
        (BitVec.ofNat 32 (u.load (u.locOf lg (lg.pa (va + 16))) 4))

/-- The answer of an RSPOLL from the two pages that it finds (R448). -/
def State.pollAnswer (s : State) (sd va : ℕ) : Option Leaf → Option Leaf → Res
  | some lf, some lg =>
    match s.rshOwner (s.locOf lf (lf.pa va)) with
    | some r => s.pollPut sd (BitVec.ofNat 32 r.step) (s.rshStatus r true)
    | none => s.pollRead sd va lf lg
  | _, _ => s.pollPut sd 0 2

theorem meanRspoll_body (s : State) (o : OpX1) : (meanRspoll o s).body s.issued =
    s.issued.pollAnswer o.sd.toNat (s.leadAddr o.sa.toNat) (s.pollLeaf (s.leadAddr o.sa.toNat))
      (s.pollLeaf (s.leadAddr o.sa.toNat + 16)) := by
  simp only [meanRspoll, State.issued_leadAddr]
  rfl

theorem State.pollAnswer_noPage {sd va : ℕ} {f g : Option Leaf} (h : f = none ∨ g = none) :
    s.pollAnswer sd va f g = s.pollPut sd 0 2 := by
  rcases h with rfl | rfl
  · rfl
  · cases f <;> rfl

variable {sd va : ℕ} {lf lg : Leaf}

theorem State.pollAnswer_owner {r : Rsh} (h : s.rshOwner (s.locOf lf (lf.pa va)) = some r) :
    s.pollAnswer sd va (some lf) (some lg) = s.pollPut sd (BitVec.ofNat 32 r.step) (s.rshStatus r true) := by
  simp only [State.pollAnswer, h]

theorem State.pollAnswer_noOwner (h : s.rshOwner (s.locOf lf (lf.pa va)) = none) :
    s.pollAnswer sd va (some lf) (some lg) = s.pollRead sd va lf lg := by
  simp only [State.pollAnswer, h]

/-- No recall keeps an RSPOLL from either line (R287). -/
def State.pollClear (s : State) (va : ℕ) (lf lg : Leaf) : Prop :=
  s.recallClear s.pollAgent lf va false = true ∧ s.recallClear s.pollAgent lg (va + 16) false = true

theorem State.pollRead_held (h : ¬ s.pollClear va lf lg) : s.pollRead sd va lf lg =
    .hold fun u => (u.callLine s.pollAgent lf va false).callLine s.pollAgent lg (va + 16) false :=
  if_pos (by simpa [State.pollClear, Decidable.imp_iff_not_or] using h)

variable (hc : s.pollClear va lf lg)
include hc

theorem State.pollRead_poison {x : Leaf × ℕ} (h : s.pollPoison va lf lg = some x) : s.pollRead sd va lf lg =
    .fail (fun u => u.poisonEvent (some x.1) (x.1.pa x.2) (s.coreOf s.gid / 192)) { code := POISON, addr := x.2 } := by
  rw [State.pollRead, if_neg (by simpa [State.pollClear] using hc), h]

theorem State.pollRead_reads (h : s.pollPoison va lf lg = none) : s.pollRead sd va lf lg =
    let u := s.pollTouched va lf lg
    u.pollPut sd (BitVec.ofNat 32 (u.load (u.locOf lf (lf.pa va)) 4))
      (BitVec.ofNat 32 (u.load (u.locOf lg (lg.pa (va + 16))) 4)) := by
  rw [State.pollRead, if_neg (by simpa [State.pollClear] using hc), h]

end

/-- Settles O44: the outcomes of the five units' bodies, in the order of their tests. -/
theorem fabricInstructions : Obligations.FabricInstructions := by
  unfold Obligations.FabricInstructions
  intro s d o x
  refine ⟨runsTo_of rfl fun _ => ⟨_, rfl, rfl⟩, ?query, ⟨fun h => ?noPage, fun lf hva hlf => ⟨fun hmode => ?notMoc,
    fun hmode hq => ?pending, fun hmode hq => ⟨fun hfull => ?full, fun hroom => ?queues⟩⟩⟩, ?rshard, ⟨fun h => ?pollNoPage,
    fun lf lg hf hg => ⟨fun r hr => ?owner, fun hr => ⟨fun hc hrun => ?pollHeld, fun hc hb hrun => ?firstPoison,
      fun hc hb hb' hrun => ?secondPoison, fun hc hb hb' => ?reads⟩⟩⟩⟩
  case query =>
    refine runsTo_of rfl fun _ => ⟨_, rfl, ?_⟩
    rw [State.issued_leadS]
    rfl
  case noPage => exact runsTo_of rfl fun _ => ⟨_, meanMigrate_refuses (State.migrateCode_noPage h), rfl⟩
  case' notMoc | pending | full | queues =>
    have hcode := State.migrateCode_page (s := s.issued) (core := s.coreOf s.gid) (asid := s.asid) hva hlf
  case notMoc => exact runsTo_of rfl fun _ => ⟨_, meanMigrate_refuses (hcode.trans (if_pos hmode)), rfl⟩
  case' pending | full | queues => have hcode := hcode.trans (if_neg (not_not.2 hmode))
  case pending => exact runsTo_of rfl fun _ => ⟨_, meanMigrate_refuses (hcode.trans (if_pos hq)), rfl⟩
  case' full | queues => have hcode := hcode.trans (if_neg (Bool.eq_false_iff.1 hq))
  case full => exact runsTo_of rfl fun _ => ⟨_, meanMigrate_refuses (hcode.trans (if_pos hfull)), rfl⟩
  case queues => exact runsTo_of rfl fun _ => ⟨_, meanMigrate_queues (hcode.trans (if_neg (not_le.2 hroom))), rfl⟩
  case rshard =>
    refine runsTo_of rfl fun _ => ⟨_, meanRshard_body s x, ?_⟩
    obtain ⟨hempty, ve, hve⟩ := s.issued.rshEmptied_spec
    rw [State.issued_copyVs, State.issued_elanes] at hempty
    have hcommand : (s.issued.rshCommand x).srcVa = s.leadAddr x.sa.toNat ∧
        (s.issued.rshCommand x).dstVa = s.leadAddr x.sb.toNat ∧
        (s.issued.rshCommand x).slanes = if s.copyVs.isSome = true then s.elanes else [] := by
      simp only [State.rshCommand, State.issued_leadAddr, State.issued_elanes, State.issued_copyVs, and_self]
    obtain ⟨hsrc, hdst, hlanes⟩ := hcommand
    refine ⟨⟨s.issued.rshCommand x, hve ▸ rfl, rfl, rfl, rfl, rfl, rfl, rfl, hsrc, hdst, rfl, rfl, rfl, hlanes⟩, hve ▸ rfl,
      fun y n => hve ▸ rfl, hempty, hve ▸ rfl, hve ▸ rfl, hve ▸ rfl, hve ▸ rfl⟩
  case' pollNoPage | owner | pollHeld | firstPoison | secondPoison | reads => have hbody := meanRspoll_body s o
  case pollNoPage =>
    refine runsTo_of rfl fun _ => ⟨_, hbody.trans (State.pollAnswer_noPage ?_), rfl⟩
    exact h.imp State.pollLeaf_eq_none.2 State.pollLeaf_eq_none.2
  case' owner | pollHeld | firstPoison | secondPoison | reads =>
    rw [State.pollLeaf_eq_some.2 hf, State.pollLeaf_eq_some.2 hg] at hbody
  case owner => exact runsTo_of rfl fun _ => ⟨_, hbody.trans (State.pollAnswer_owner hr), rfl⟩
  case' pollHeld | firstPoison | secondPoison | reads =>
    replace hbody := hbody.trans (State.pollAnswer_noOwner hr)
  case pollHeld => exact exec_hold rfl hrun (hbody.trans (State.pollRead_held hc))
  case firstPoison =>
    have hfail := hbody.trans (State.pollRead_poison hc (State.pollPoison_first lg hb))
    exact (exec_fail rfl hrun hfail :)
  case secondPoison =>
    have hfail := hbody.trans (State.pollRead_poison hc (State.pollPoison_second hb hb'))
    exact (exec_fail rfl hrun hfail :)
  case reads =>
    exact runsTo_of rfl fun _ => ⟨_, hbody.trans (State.pollRead_reads hc (State.pollPoison_none hb hb')), rfl⟩

end Sys2Proof.Machine

/-! SUPPORT. EVENT_WRITE (R334, R337, R383): its outcomes, in the order of its tests. -/

namespace Sys2Proof.Machine

/-- The queue of an EVENT is served (R336, R396). -/
def State.serves (s : State) (q : ℕ) : Prop :=
  (s.queueRec q).en = true ∧ (s.queueRec q).err = false ∧ q / 8192 ∉ s.d.hold

section
variable {s : State} {e : QEvent} (he : s.d.events[s.u.ev.id]? = some e) (hg : e.grids = [])
include he hg

theorem execEventWrite_unserved (h : ¬ s.serves e.q) : execEventWrite s = .next s := by
  simp only [execEventWrite, he]
  refine if_pos ?_
  by_contra hn
  simp only [hg, List.isEmpty_nil, Bool.not_true, Bool.false_eq_true, false_or, not_or, Bool.not_eq_true,
    Bool.not_eq_false'] at hn
  exact h hn

variable (h : s.serves e.q)
include h

/-- The state in which an EVENT has left those that wait. -/
def State.eventTaken (s : State) : State := { s with d.events := s.d.events.eraseIdx s.u.ev.id }

theorem execEventWrite_gone {c : ℕ} (hc : s.dieSeek (e.q / 8192) (s.queueRec e.q).asid e.va true = .inr c) :
    execEventWrite s = .next (s.eventTaken.queueFail e.q c 1 e.va) := by
  obtain ⟨hen, herr, hhold⟩ := h
  simp only [execEventWrite, he, hc]
  exact if_neg (by simp [hg, hen, herr, hhold])

variable {lf : Leaf} (hlf : s.dieSeek (e.q / 8192) (s.queueRec e.q).asid e.va true = .inl lf)
include hlf

theorem execEventWrite_recalled (hr : s.unrecalled (s.queueRec e.q).asid lf e.va true = false) :
    execEventWrite s = .next (s.dieCall (s.queueRec e.q).asid lf e.va true) := by
  obtain ⟨hen, herr, hhold⟩ := h
  simp only [execEventWrite, he, hlf, hr]
  exact if_neg (by simp [hg, hen, herr, hhold])

/-- An EVENT's value is written as a release at system scope, its vector raised and its command consumed (R334, R337). -/
theorem execEventWrite_writes (hr : s.unrecalled (s.queueRec e.q).asid lf e.va true = true) : execEventWrite s =
    let u := (s.eventTaken.dropSnaps fun c => decide (c.holder = .msc)).dieWrite (e.q / 8192) (s.queueRec e.q).asid lf e.va
      e.value 8
    .next ((e.irq.elim u u.raiseIrq).advance e.q) := by
  obtain ⟨hen, herr, hhold⟩ := h
  simp only [execEventWrite, he, hlf, hr]
  refine (if_neg (by simp [hg, hen, herr, hhold])).trans ?_
  cases e.irq <;> rfl

end

/-- Settles O53: the write's outcome by the page of its address, once its queue is served. -/
theorem eventWrites : Obligations.EventWrites := by
  unfold Obligations.EventWrites
  intro s e he hg die asid t served
  refine ⟨execEventWrite_unserved he hg, fun hs => ⟨fun c hc => execEventWrite_gone he hg hs hc,
    fun lf hlf hr => execEventWrite_recalled he hg hs hlf hr, fun lf hlf hr => ⟨fun hirq => ?plain, fun v hirq => ?vector⟩⟩⟩
  all_goals
    have hwrite := execEventWrite_writes he hg hs hlf hr
    rw [hirq] at hwrite
    exact hwrite

end Sys2Proof.Machine

/-! SUPPORT. Doorbells and the commands that a queue's controller begins (R336, R337, R342, R343, R361, R387, R389): what stands
at a queue's head when its controller begins it, and what a tear-down leaves of an ASID. -/

namespace Sys2Proof.Machine

/-! ### The command at a queue's head -/

section
variable {s : State} {q : ℕ} (hp : s.picked q = true)
include hp

theorem State.beginHead_error {c i a : ℕ} (hh : s.headOf q = .error c i a) (mine : ℕ → List ℕ → Bool)
    (body : State → List ℕ → State) : s.beginHead q mine body = s.queueFail q c i a := by
  simp only [State.beginHead, hp, hh, Bool.not_true, Bool.false_eq_true, if_false]

theorem State.beginHead_unsealed (hh : s.headOf q = .unsealed) (mine : ℕ → List ℕ → Bool)
    (body : State → List ℕ → State) : s.beginHead q mine body = (s.readHead q).sealWait q := by
  simp only [State.beginHead, hp, hh, Bool.not_true, Bool.false_eq_true, if_false]

theorem State.beginHead_cmd {op : ℕ} {ws : List ℕ} (hh : s.headOf q = .cmd op ws) {mine : ℕ → List ℕ → Bool}
    (hmine : mine op ws = true) (body : State → List ℕ → State) :
    s.beginHead q mine body = body (s.resumeHead q) ws := by
  simp only [State.beginHead, hp, hh, hmine, Bool.not_true, Bool.false_eq_true, if_false, if_true, State.resumeHead]

end

@[simp] theorem wordsOf_length (v n : ℕ) : (wordsOf v n).length = n := by
  induction n generalizing v with
  | zero => rfl
  | succ n ih => simp only [wordsOf, List.length_cons, ih]

/-- A command has the sixteen words of its ring slot (R337). -/
theorem State.length_of_headOf_cmd {s : State} {q op : ℕ} {ws : List ℕ} (h : s.headOf q = .cmd op ws) : ws.length = 16 := by
  unfold State.headOf at h
  grind [wordsOf_length]

/-! ### What a tear-down leaves of an ASID (R272, R361) -/

@[simp] theorem State.mscTouch_e (s : State) (loc pa key : ℕ) (chain : Option (ℕ × ℕ)) (dirty : Bool) :
    (s.mscTouch loc pa key chain dirty).e = s.e := by
  unfold State.mscTouch
  dsimp only
  split <;> rfl

@[simp] theorem State.physTouch_e (s : State) (pa : ℕ) (write : Bool) : (s.physTouch pa write).e = s.e := by
  unfold State.physTouch
  split <;> simp

@[simp] theorem State.writeBytes_e (s : State) (a v n : ℕ) : (s.writeBytes a v n).e = s.e := by
  induction n generalizing s a v with
  | zero => rfl
  | succ n ih => exact ih (s.writeByte a _) _ _

@[simp] theorem State.physStore_e (s : State) (pa v n : ℕ) : (s.physStore pa v n).e = s.e := by
  unfold State.physStore
  split
  · rfl
  · exact (State.writeBytes_e ..).trans (s.physTouch_e pa true)

@[simp] theorem State.physStore_apart (s : State) (pa v n : ℕ) : (s.physStore pa v n).apart = s.apart := by
  unfold State.physStore
  split
  · rfl
  · exact (State.store_apart ..).trans (s.physTouch_apart pa true)

theorem State.foldl_keeps {α β : Type} {f : State → α → State} {F : State → β} (hf : ∀ t x, F (f t x) = F t) (l : List α)
    (s : State) : F (l.foldl f s) = F s := by
  induction l generalizing s with
  | nil => rfl
  | cons x l ih => exact (ih _).trans (hf s x)

/-- Clearing context entries keeps what a hardware store keeps. -/
theorem State.clearContext_keeps {β : Type} {F : State → β} (hF : ∀ t pa v n, F (State.physStore t pa v n) = F t) (s : State)
    (asid : ℕ) : F (s.clearContext asid) = F s := by
  unfold State.clearContext
  exact State.foldl_keeps (fun t d => hF t _ _ _) _ s

theorem State.clearContext_e (s : State) (asid : ℕ) : (s.clearContext asid).e = s.e :=
  State.clearContext_keeps State.physStore_e s asid

theorem State.clearContext_apart (s : State) (asid : ℕ) : (s.clearContext asid).apart = s.apart :=
  State.clearContext_keeps State.physStore_apart s asid

/-- A tear-down's INVAL covers its ASID whole (R361). -/
def tearWords (ws : List ℕ) : List ℕ := ws.set 2 (invalAsid ws + 2 ^ 16)

theorem invalAsid_lt (ws : List ℕ) : invalAsid ws < 2 ^ 16 := Nat.mod_lt _ (by decide)

theorem invalAsid_tearWords {ws : List ℕ} (h : 2 < ws.length) : invalAsid (tearWords ws) = invalAsid ws := by
  have hlt := invalAsid_lt ws
  rw [invalAsid, tearWords, List.getD_eq_getElem _ _ (by simpa using h), List.getElem_set_self, Nat.add_mod_right,
    Nat.mod_eq_of_lt hlt]

theorem invalAll_tearWords {ws : List ℕ} (h : 2 < ws.length) : invalAll (tearWords ws) = true := by
  have hlt := invalAsid_lt ws
  have hdiv : (invalAsid ws + 2 ^ 16) / 2 ^ 16 = 1 := by omega
  rw [invalAll, tearWords, List.getD_eq_getElem _ _ (by simpa using h), List.getElem_set_self, bit, hdiv]
  rfl

/-- A tear-down drops every translation of its ASID, whatever its leaf. -/
theorem State.asid_of_mem_dropTlb {s : State} {ws : List ℕ} (h : 2 < ws.length) {x : TlbEntry}
    (hx : x ∈ (s.dropTlb (tearWords ws)).k.tlb) : x.asid ≠ invalAsid ws := by
  intro he
  have hkept := (List.mem_filter.1 hx).2
  rw [invalAsid_tearWords h, invalCovers, invalAll_tearWords h, he] at hkept
  simp at hkept

theorem Tab.has_put_self {κ α : Type} [DecidableEq κ] (t : Tab κ α) (k : κ) (v : α) : (t.put k v).has k = true := by
  induction t with
  | nil => exact if_pos rfl
  | cons p t ih =>
    by_cases h : p.1 = k
    · rw [Tab.put, if_pos h, Tab.has, if_pos rfl]
    · rw [Tab.put, if_neg h, Tab.has, if_neg h, ih]

/-- A tile after the tear-down of an ASID: a live one of that ASID is freed (R272). -/
def Tile.tornDown (asid now : ℕ) (x : Tile) : Tile := if x.live && decide (x.asid = asid) then x.free now else x

theorem Tile.tornDown_dead {asid now : ℕ} (x : Tile) (h : (x.tornDown asid now).asid = asid) :
    (x.tornDown asid now).live = false := by
  unfold Tile.tornDown at h ⊢
  by_cases hc : (x.live && decide (x.asid = asid)) = true
  · rw [if_pos hc]
    rfl
  · rw [if_neg hc] at h ⊢
    simpa [h] using hc

theorem Tile.tornDown_of_ne {asid now : ℕ} {x : Tile} (h : x.asid ≠ asid) : x.tornDown asid now = x := by
  simp [Tile.tornDown, h]

/-- The module's handles, tenures and requests with those of an ASID gone (R272). -/
def State.tornTiles (t : State) (asid : ℕ) : State :=
  let mine := fun (h : Tenure) => t.e.tiles.any fun x => decide (h.tile = some x.key ∧ x.asid = asid)
  { t with
    e.tens := t.e.tens.filter fun h => !mine h
    e.reqs := t.e.reqs.filter fun h => !mine h
    e.tiles := t.e.tiles.map fun x => x.tornDown asid t.u.clk }

/-- An instruction or constant cache's copy of an ASID's line. -/
def Snap.ofCode (asid : ℕ) (c : Snap) : Bool :=
  match c.holder with
  | .icache _ a _ => decide (a = asid)
  | .ccache _ a _ => decide (a = asid)
  | _ => false

/-- The tear-down of an ASID: its handles, its cached code, its translations and its context entries go (R272, R361). -/
def State.tearDown (t : State) (ws : List ℕ) : State :=
  ((((t.tornTiles (invalAsid ws)).dropSnaps (Snap.ofCode (invalAsid ws))).dropTlb (tearWords ws)).clearContext (invalAsid ws))

theorem State.tlb_of_apart {s t : State} (h : s.apart = t.apart) : s.k.tlb = t.k.tlb := congrArg Apart.tlb h

theorem State.v_of_apart {s t : State} (h : s.apart = t.apart) : s.r.v = t.r.v := congrArg (fun a : Apart => a.r.v) h

theorem State.sr_of_apart {s t : State} (h : s.apart = t.apart) : s.r.sr = t.r.sr := congrArg (fun a : Apart => a.r.sr) h

theorem State.tearDown_e (t : State) (ws : List ℕ) : (t.tearDown ws).e = (t.tornTiles (invalAsid ws)).e :=
  State.clearContext_e _ _

theorem State.tearDown_apart (t : State) (ws : List ℕ) : (t.tearDown ws).apart = (t.dropTlb (tearWords ws)).apart :=
  State.clearContext_apart _ _

theorem State.mem_tearDown_tiles {t : State} {ws : List ℕ} {y : Tile} :
    y ∈ (t.tearDown ws).e.tiles ↔ ∃ x ∈ t.e.tiles, x.tornDown (invalAsid ws) t.u.clk = y := by
  rw [State.tearDown_e]
  exact List.mem_map

theorem State.dead_of_mem_tearDown {t : State} {ws : List ℕ} {y : Tile} (hy : y ∈ (t.tearDown ws).e.tiles)
    (h : y.asid = invalAsid ws) : y.live = false := by
  obtain ⟨x, hx, rfl⟩ := State.mem_tearDown_tiles.1 hy
  exact x.tornDown_dead h

theorem State.mem_tearDown_of_ne {t : State} {ws : List ℕ} {x : Tile} (hx : x ∈ t.e.tiles) (h : x.asid ≠ invalAsid ws) :
    x ∈ (t.tearDown ws).e.tiles :=
  State.mem_tearDown_tiles.2 ⟨x, hx, Tile.tornDown_of_ne h⟩

theorem State.tearDown_tlb (t : State) (ws : List ℕ) : (t.tearDown ws).k.tlb = (t.dropTlb (tearWords ws)).k.tlb :=
  State.tlb_of_apart (t.tearDown_apart ws)

theorem State.tearDown_v (t : State) (ws : List ℕ) : (t.tearDown ws).r.v = t.r.v :=
  (State.v_of_apart (t.tearDown_apart ws)).trans rfl

theorem State.tearDown_sr (t : State) (ws : List ℕ) : (t.tearDown ws).r.sr = t.r.sr :=
  (State.sr_of_apart (t.tearDown_apart ws)).trans rfl

/-- The controller's wait for what an INVAL covers begins now (R361). -/
def State.inWait (u : State) (q : ℕ) : State := { u with d.wait := u.d.wait.put q u.u.clk }

@[simp] theorem State.inWait_e (u : State) (q : ℕ) : (u.inWait q).e = u.e := rfl

@[simp] theorem State.inWait_k (u : State) (q : ℕ) : (u.inWait q).k = u.k := rfl

@[simp] theorem State.inWait_r (u : State) (q : ℕ) : (u.inWait q).r = u.r := rfl

theorem State.inWait_has (u : State) (q : ℕ) : (u.inWait q).d.wait.has q = true := Tab.has_put_self ..

theorem execInvalTeardown_eq {s b : State} {q : ℕ} {ws : List ℕ} (hq : s.u.ev.id = q) (hb : s.resumeHead q = b)
    (hp : s.picked q = true) (hh : s.headOf q = .cmd 4 ws) (ht : invalTear ws = true) :
    exec .invalTeardown s = .next ((b.tearDown ws).inWait q) := by
  subst hq hb
  exact congrArg Host.Outcome.next (State.beginHead_cmd hp hh (by simp [ht]) _)

theorem execInvalTeardown_frees {s b : State} {q : ℕ} {ws : List ℕ} (hq : s.u.ev.id = q) (hb : s.resumeHead q = b)
    (hp : s.picked q = true) (hh : s.headOf q = .cmd 4 ws) (ht : invalTear ws = true) :
    ∃ t, exec .invalTeardown s = .next t ∧ (∀ x ∈ t.e.tiles, x.asid = invalAsid ws → x.live = false) ∧
      (∀ x ∈ b.e.tiles, x.asid ≠ invalAsid ws → x ∈ t.e.tiles) ∧ (∀ x ∈ t.k.tlb, x.asid ≠ invalAsid ws) ∧
      t.d.wait.has q = true ∧ t.r.v = b.r.v ∧ t.r.sr = b.r.sr := by
  have hlen : 2 < ws.length := by rw [State.length_of_headOf_cmd hh]; decide
  refine ⟨_, execInvalTeardown_eq hq hb hp hh ht, ?_⟩
  rw [State.inWait_e, State.inWait_k, State.inWait_r, State.tearDown_tlb, State.tearDown_v, State.tearDown_sr]
  exact ⟨fun y hy => State.dead_of_mem_tearDown hy, fun x => State.mem_tearDown_of_ne,
    fun x hx => State.asid_of_mem_dropTlb hlen hx, State.inWait_has .., rfl, rfl⟩

/-! ### Each event -/

theorem execDoorbell_accepted {s : State} (hr : s.p.ready = true) (hs : s.u.ev.size = 4) (hq : s.u.ev.id < 32768) :
    let r := s.queueRec s.u.ev.id
    let v := s.u.ev.value % 2 ^ 32
    let back := (r.tail + 2 ^ 32 - v) % 2 ^ 32
    exec .doorbell s = if (1 ≤ back ∧ back ≤ 2 ^ 31) ∨ 2 ^ r.logn < (v + 2 ^ 32 - r.head) % 2 ^ 32 then
        .next (s.queueFail s.u.ev.id TASK 5 0)
      else .next ((s.physStore (s.queuePa s.u.ev.id + 16) v 4).ring s.u.ev.id) := by
  have hq' : ¬32768 ≤ s.u.ev.id := by omega
  simp only [exec, execDoorbell, hr, hs, hq', Bool.not_true, Bool.false_eq_true, ne_eq, not_true, false_and, or_false, if_false]

theorem execWaitRecheck_waiting {s : State} {ws : List ℕ} (hh : s.headOf s.u.ev.id = .cmd 3 ws)
    (hw : s.d.wait.has s.u.ev.id = true) : exec .waitRecheck s = .next (s.readWait s.u.ev.id ws) := by
  simp only [exec, execWaitRecheck, hh, hw, if_true]

theorem execQueueInval_done {s : State} {ws : List ℕ} (hh : s.headOf s.u.ev.id = .cmd 4 ws)
    (hw : s.d.wait.has s.u.ev.id = true) (hdone : s.invalDone ws (s.d.wait.look s.u.ev.id 0) = true) :
    exec .queueInval s = .next (({ s with d.wait := s.d.wait.drop s.u.ev.id } : State).advance s.u.ev.id) := by
  simp only [exec, execQueueInval, hh, hw, hdone, if_true]

theorem execQueueInval_begins {s b : State} {q : ℕ} {ws : List ℕ} (hq : s.u.ev.id = q) (hb : s.resumeHead q = b)
    (hp : s.picked q = true) (hh : s.headOf q = .cmd 4 ws) (ht : invalTear ws = false) (hw : s.d.wait.has q = false) :
    exec .queueInval s = .next { b.dropTlb ws with d.wait := (b.dropTlb ws).d.wait.put q (b.dropTlb ws).u.clk } := by
  simp only [exec, execQueueInval, hq, hw, Bool.false_eq_true, if_false]
  exact congrArg Host.Outcome.next ((State.beginHead_cmd hp hh (by simp [ht]) _).trans (by rw [hb]))

theorem execQueueLaunch_refused {s : State} {ws : List ℕ} {c i a : ℕ} (hp : s.picked s.u.ev.id = true)
    (hh : s.headOf s.u.ev.id = .cmd 1 ws) (hl : (s.resumeHead s.u.ev.id).launchAt s.u.ev.id ws = .bad c i a) :
    exec .queueLaunch s = .next ((s.resumeHead s.u.ev.id).queueFail s.u.ev.id c i a) :=
  congrArg Host.Outcome.next ((State.beginHead_cmd hp hh rfl _).trans (by rw [hl]))

theorem execQueueLaunch_admits {s u : State} {ws : List ℕ} {g : Grid} (hp : s.picked s.u.ev.id = true)
    (hh : s.headOf s.u.ev.id = .cmd 1 ws) (hl : (s.resumeHead s.u.ev.id).launchAt s.u.ev.id ws = .ok g)
    (hu : ((s.resumeHead s.u.ev.id).readRecord (s.u.ev.id / 8192) ((s.resumeHead s.u.ev.id).queueRec s.u.ev.id).asid
      (cmdPair ws 2)).admission g = some u) : exec .queueLaunch s = .next (u.advance s.u.ev.id) :=
  congrArg Host.Outcome.next ((State.beginHead_cmd hp hh rfl _).trans (by simp only [hl, hu]))

/-- The EVENT that a command puts into its queue (R337). -/
def eventOf (t : State) (q : ℕ) (ws : List ℕ) : QEvent :=
  { q := q, va := cmdPair ws 2, value := cmdPair ws 4
    irq := if bit (ws.getD 6 0) 31 then some (ws.getD 6 0 % 2 ^ 11) else none
    grids := (t.x.grids.filter fun g => decide (g.queue = q ∧ g.parent = none) && !g.retired).map (·.uid) }

theorem execQueueEvent_misaligned {s : State} {ws : List ℕ} (hp : s.picked s.u.ev.id = true)
    (hh : s.headOf s.u.ev.id = .cmd 2 ws) (ha : cmdPair ws 2 % 8 ≠ 0) :
    exec .queueEvent s = .next ((s.resumeHead s.u.ev.id).queueFail s.u.ev.id TASK 2 0) :=
  congrArg Host.Outcome.next ((State.beginHead_cmd hp hh rfl _).trans (if_pos ha))

theorem execQueueEvent_faults {s : State} {ws : List ℕ} {c : ℕ} (hp : s.picked s.u.ev.id = true)
    (hh : s.headOf s.u.ev.id = .cmd 2 ws) (ha : cmdPair ws 2 % 8 = 0)
    (hc : (s.resumeHead s.u.ev.id).dieSeek (s.u.ev.id / 8192) ((s.resumeHead s.u.ev.id).queueRec s.u.ev.id).asid
      (cmdPair ws 2) true = .inr c) :
    exec .queueEvent s = .next ((s.resumeHead s.u.ev.id).queueFail s.u.ev.id c 1 (cmdPair ws 2)) :=
  congrArg Host.Outcome.next ((State.beginHead_cmd hp hh rfl _).trans ((if_neg (not_not.2 ha)).trans (by rw [hc])))

theorem execQueueEvent_joins {s : State} {ws : List ℕ} {lf : Leaf} (hp : s.picked s.u.ev.id = true)
    (hh : s.headOf s.u.ev.id = .cmd 2 ws) (ha : cmdPair ws 2 % 8 = 0)
    (hlf : (s.resumeHead s.u.ev.id).dieSeek (s.u.ev.id / 8192) ((s.resumeHead s.u.ev.id).queueRec s.u.ev.id).asid
      (cmdPair ws 2) true = .inl lf) :
    let t := s.resumeHead s.u.ev.id
    exec .queueEvent s = .next { t with d.events := t.d.events ++ [eventOf t s.u.ev.id ws] } :=
  congrArg Host.Outcome.next ((State.beginHead_cmd hp hh rfl _).trans ((if_neg (not_not.2 ha)).trans (by rw [hlf]; rfl)))

theorem execSealRetry_reads {s : State} {q n c : ℕ} (hq : s.u.ev.id = q) (htry : s.d.sealTry.has q = true)
    (hlook : s.d.sealTry.look q (0, 0) = (n, c)) (hclk : c ≤ s.u.clk) (hh : s.headOf q = .unsealed) :
    exec .sealRetry s = if s.sealCount (q / 8192) ≤ n + 1 then
        .next (({ s.readHead q with d.sealTry := (s.readHead q).d.sealTry.drop q } : State).queueFail q TASK 6 0)
      else .next
        { s.readHead q with d.sealTry := (s.readHead q).d.sealTry.put q (n + 1, s.u.clk + s.sealDelay (q / 8192)) } := by
  simp only [exec, execSealRetry, hq, htry, hlook, hh, Nat.not_lt.2 hclk, Bool.not_true, Bool.false_eq_true, if_false]

/-- A read of a WAIT's word whose page is there (R337). -/
theorem State.readWait_of_leaf {s : State} {q : ℕ} {ws : List ℕ} {lf : Leaf} (ha : cmdPair ws 2 % 8 = 0)
    (hlf : s.dieSeek (q / 8192) (s.queueRec q).asid (cmdPair ws 2) false = .inl lf) :
    let asid := (s.queueRec q).asid
    let t : State := { s with d.wait := s.d.wait.drop q }
    let again : State := { s with d.wait := s.d.wait.put q s.u.clk }
    s.readWait q ws = if s.unrecalled asid lf (cmdPair ws 2) false = false then again.dieCall asid lf (cmdPair ws 2) false
      else if s.badRead lf (cmdPair ws 2) 8 = true then t.queueFail q POISON 0 (cmdPair ws 2)
      else if cmdPair ws 4 ≤ s.peek lf (cmdPair ws 2) 8
      then (t.dieTouch (q / 8192) asid lf (cmdPair ws 2) false).advance q
      else again.dieTouch (q / 8192) asid lf (cmdPair ws 2) false := by
  simp only [State.readWait, ha, ne_eq, not_true, if_false, hlf, Bool.not_eq_true']

/-- Settles O52: each event of a queue is its branch of the controller at the queue's head, and a tear-down's stores to the
context tables touch neither handles nor translations. -/
theorem queueEvents : Obligations.QueueEvents := by
  unfold Obligations.QueueEvents
  intro s q r v begun
  refine ⟨fun hr hs hq => ⟨fun hbad => ?refused, fun hback hahead => ?stored⟩, fun hr hs hq => ?wide, fun hd => ?dropped,
    fun hp => ⟨fun c i a hh => ?error, fun hh => ?unsealed, fun ws hh => ?nop,
      fun ws hh => ⟨fun c i a hl => ?launchBad, fun g u hl hu => ?launch⟩,
      fun ws hh => ⟨fun ha => ?eventMisaligned, fun lf ha hlf => ?event, fun c ha hc => ?eventFault⟩,
      fun ws hh => ?wait, fun ws hh ht hw => ?inval, fun ws hh ht => ?tear⟩,
    fun ws hh hw hdone => ?invalDone, fun ws hh hw => ?recheck, fun ws lf ha hlf => ?readWait,
    fun n c htry hlook hclk hh => ⟨fun hn => ?sealLast, fun hn => ?sealAgain⟩⟩
  case tear => exact execInvalTeardown_frees rfl rfl hp hh ht
  case refused => exact (execDoorbell_accepted hr hs hq).trans (if_pos hbad)
  case stored =>
    exact (execDoorbell_accepted hr hs hq).trans (if_neg fun hbad => hbad.elim (fun h => hback.elim
      (fun h0 => Nat.one_le_iff_ne_zero.1 h.1 h0) fun h1 => Nat.not_le.2 h1 h.2) (Nat.not_lt.2 hahead))
  case wide =>
    have hq' : ¬32768 ≤ s.u.ev.id := Nat.not_le.2 hq
    simp [exec, execDoorbell, hr, hs, hq']
  case dropped => exact if_pos (by simpa using hd)
  case error =>
    intro e he
    have hfail := State.beginHead_error hp hh
    fin_cases he <;> exact congrArg Host.Outcome.next (hfail _ _)
  case unsealed =>
    intro e he
    have hwait := State.beginHead_unsealed hp hh
    fin_cases he <;> exact congrArg Host.Outcome.next (hwait _ _)
  case nop => exact congrArg Host.Outcome.next (State.beginHead_cmd hp hh rfl _)
  case launchBad => exact execQueueLaunch_refused hp hh hl
  case launch => exact execQueueLaunch_admits hp hh hl hu
  case eventMisaligned => exact execQueueEvent_misaligned hp hh ha
  case event => exact execQueueEvent_joins hp hh ha hlf
  case eventFault => exact execQueueEvent_faults hp hh ha hc
  case wait => exact congrArg Host.Outcome.next (State.beginHead_cmd hp hh rfl _)
  case inval => exact execQueueInval_begins rfl rfl hp hh ht hw
  case invalDone => exact execQueueInval_done hh hw hdone
  case recheck => exact execWaitRecheck_waiting hh hw
  case readWait => exact State.readWait_of_leaf ha hlf
  case sealLast => rw [execSealRetry_reads rfl htry hlook hclk hh, if_pos hn]
  case sealAgain => rw [execSealRetry_reads rfl htry hlook hclk hh, if_neg (Nat.not_le.2 hn)]

end Sys2Proof.Machine

/-! SUPPORT. The way of a deferred record (R298 to R308, R316 to R318, R379, R380) and SETTLE's completion (R311 to R313): bins,
the words that records change, APPEND's descriptor, and what a SETTLE delivers. -/

namespace Sys2Proof.Machine

/-! ### Bins -/

/-- The key of a record's bin: its module, or its pseudo-channel (R304). -/
def State.binKey (s : State) (r : Rec) : ℕ := if decide (r.dev ≠ s.f.dev) = true then r.dev else channelOf r.il r.pa

/-- An open bin of the unit that takes a record on a die (R304). -/
def State.openFor (s : State) (die : ℕ) (r : Rec) (b : Bin) : Bool :=
  decide (b.die = die ∧ b.unit = s.binKey r % 8 ∧ b.phase = .open_)

/-- The open bin that a record joins (R304). -/
def State.takes (s : State) (die : ℕ) (r : Rec) (b : Bin) : Bool :=
  s.openFor die r b && decide (b.toDev = decide (r.dev ≠ s.f.dev) ∧ b.key = s.binKey r)

/-- A bin opened for a record (R304, R305). -/
def State.newBin (s : State) (die : ℕ) (r : Rec) : Bin :=
  { id := s.u.uid, die := die, unit := s.binKey r % 8, toDev := decide (r.dev ≠ s.f.dev), key := s.binKey r, from_ := s.f.dev,
    recs := [r], opened := s.u.clk }

/-- A state with one more bin. -/
def State.addBin (s : State) (b : Bin) : State := { s with e.bins := s.e.bins ++ [b], u.uid := s.u.uid + 1 }

/-- A full unit ships its first open bin (R304). -/
def State.binRoom (s : State) (die : ℕ) (r : Rec) : State :=
  if (s.e.bins.filter (s.openFor die r)).length < 1024 then s
  else match s.e.bins.find? (s.openFor die r) with
    | some b => s.shipIf fun x => decide (x.id = b.id)
    | none => s

section
variable {s : State} {die : ℕ} {r : Rec}

theorem State.binRecord_eq (s : State) (die : ℕ) (r : Rec) : s.binRecord die r =
    State.shipFull (match s.e.bins.find? (s.takes die r) with
      | some b => s.modBin b.id fun x => x.join r
      | none =>
        let t := s.binRoom die r
        t.addBin { s.newBin die r with id := t.u.uid, from_ := t.f.dev, opened := t.u.clk }) die := rfl

theorem State.newBin_binRoom (s : State) (die : ℕ) (r : Rec) : let t := s.binRoom die r
    ({ s.newBin die r with id := t.u.uid, from_ := t.f.dev, opened := t.u.clk } : Bin) = s.newBin die r := by
  unfold State.binRoom
  (repeat' split) <;> rfl

theorem State.binRecord_joins {b : Bin} (h : s.e.bins.find? (s.takes die r) = some b) :
    s.binRecord die r = (s.modBin b.id fun x => x.join r).shipFull die := by
  rw [State.binRecord_eq, h]

theorem State.binRecord_fresh (h : s.e.bins.find? (s.takes die r) = none) :
    s.binRecord die r = ((s.binRoom die r).addBin (s.newBin die r)).shipFull die := by
  have hbin := s.newBin_binRoom die r
  rw [State.binRecord_eq, h]
  exact congrArg (fun b => ((s.binRoom die r).addBin b).shipFull die) hbin

theorem State.binRecord_opens (h : s.e.bins.find? (s.takes die r) = none)
    (hroom : (s.e.bins.filter (s.openFor die r)).length < 1024) :
    s.binRecord die r = (s.addBin (s.newBin die r)).shipFull die := by
  rw [State.binRecord_fresh h, State.binRoom, if_pos hroom]

end

theorem Bin.join_merges {b : Bin} {r x : Rec} (h : b.recs.find? (fun y => y.merges r) = some x) :
    b.join r = { b with recs := b.recs.erase x ++ [x.merge r] } := by
  rw [Bin.join, h]

theorem Bin.join_appends {b : Bin} {r : Rec} (h : b.recs.find? (fun y => y.merges r) = none) :
    b.join r = { b with recs := b.recs ++ [r] } := by
  rw [Bin.join, h]

/-- A bin that a record joins keeps its owners' claims on it (R306). -/
theorem Bin.join_owners (b : Bin) (r : Rec) : ∃ x ∈ (b.join r).recs, ∀ o ∈ r.owners, o ∈ x.owners := by
  cases h : b.recs.find? (fun y => y.merges r) with
  | some x =>
    rw [Bin.join_merges h]
    exact ⟨x.merge r, List.mem_append_right _ (List.mem_singleton_self _), fun o ho => List.mem_append_right _ ho⟩
  | none =>
    rw [Bin.join_appends h]
    exact ⟨r, List.mem_append_right _ (List.mem_singleton_self _), fun o ho => ho⟩

@[simp] theorem Bin.join_die (b : Bin) (r : Rec) : (b.join r).die = b.die := by
  unfold Bin.join
  split <;> rfl

/-! ### Bins that ship -/

/-- A bin after those of a test have shipped at a clk (R305). -/
def Bin.ship (f : Bin → Bool) (clk : ℕ) (b : Bin) : Bin :=
  if b.phase = .open_ ∧ f b then { b with phase := .shipped, sent := clk } else b

theorem State.shipIf_bins (s : State) (f : Bin → Bool) : (s.shipIf f).e.bins = s.e.bins.map (Bin.ship f s.u.clk) := rfl

@[simp] theorem Bin.ship_die (f : Bin → Bool) (clk : ℕ) (b : Bin) : (b.ship f clk).die = b.die := by
  unfold Bin.ship
  split <;> rfl

@[simp] theorem Bin.ship_recs (f : Bin → Bool) (clk : ℕ) (b : Bin) : (b.ship f clk).recs = b.recs := by
  unfold Bin.ship
  split <;> rfl

theorem State.shipFull_bins (s : State) (die : ℕ) : (s.shipFull die).e.bins = s.e.bins.map (fun b =>
    if b.phase = .open_ ∧ b.die = die ∧ (128 ≤ b.recs.length ∨ s.dieReg die 0xC2 = 0) then
      { b with phase := .shipped, sent := s.u.clk } else b) := by
  refine List.map_congr_left fun b _ => ?_
  simp only [decide_eq_true_eq]

/-- The state in which a record has left its core's log (R303). -/
def State.drainRec (s : State) (r : Rec) : State := { s with e.log := s.e.log.erase r }

/-- A state without its bins, and without the count that names new ones. -/
def State.binless (s : State) : State := { s with e.bins := [], u.uid := 0 }

theorem State.binRoom_binless (s : State) (die : ℕ) (r : Rec) : (s.binRoom die r).binless = s.binless := by
  unfold State.binRoom
  (repeat' split) <;> rfl

theorem State.binRecord_binless (s : State) (die : ℕ) (r : Rec) : (s.binRecord die r).binless = s.binless := by
  cases h : s.e.bins.find? (s.takes die r) with
  | some b => rw [State.binRecord_joins h]; rfl
  | none => rw [State.binRecord_fresh h]; exact s.binRoom_binless die r

/-- A record that is binned stands in a bin of its die (R304, R306). -/
theorem State.binRecord_holds (s : State) (die : ℕ) (r : Rec) :
    ∃ b ∈ (s.binRecord die r).e.bins, b.die = die ∧ ∃ x ∈ b.recs, ∀ o ∈ r.owners, o ∈ x.owners := by
  have hship : ∀ (t : State) (b : Bin), b ∈ t.e.bins → b.die = die → (∃ x ∈ b.recs, ∀ o ∈ r.owners, o ∈ x.owners) →
      ∃ c ∈ (t.shipFull die).e.bins, c.die = die ∧ ∃ x ∈ c.recs, ∀ o ∈ r.owners, o ∈ x.owners := fun t b hb hd hx =>
    ⟨Bin.ship _ _ b, List.mem_map_of_mem hb, (Bin.ship_die _ _ b).trans hd, by rwa [Bin.ship_recs]⟩
  cases h : s.e.bins.find? (s.takes die r) with
  | some b =>
    have htakes := List.find?_some h
    simp only [State.takes, State.openFor, Bool.and_eq_true, decide_eq_true_eq] at htakes
    rw [State.binRecord_joins h]
    refine hship _ (b.join r) (List.mem_map.2 ⟨b, List.mem_of_find?_eq_some h, if_pos rfl⟩) ?_ (b.join_owners r)
    exact (b.join_die r).trans htakes.1.1
  | none =>
    rw [State.binRecord_fresh h]
    exact hship _ _ (List.mem_append_right _ (List.mem_singleton_self _)) rfl
      ⟨r, List.mem_singleton_self _, fun o ho => ho⟩

/-- A bin at its age limit ships, and no other (R305). -/
theorem execBinAgeExpiry_ships {s : State} {b : Bin} (hb : b ∈ s.e.bins) (hid : b.id = s.u.ev.id) (hph : b.phase = .open_)
    (hage : b.opened + (s.dieReg b.die 0xC2).toNat ≤ s.u.clk) : ∃ t, exec .binAgeExpiry s = .next t ∧
      { b with phase := .shipped, sent := s.u.clk } ∈ t.e.bins ∧
        (∀ c ∈ s.e.bins, c.id ≠ s.u.ev.id → c ∈ t.e.bins) ∧ { t with e.bins := s.e.bins } = s := by
  refine ⟨_, rfl, List.mem_map.2 ⟨b, hb, if_pos ⟨hph, decide_eq_true ⟨hid, hage⟩⟩⟩, fun c hc hne => List.mem_map.2 ⟨c, hc, ?_⟩, rfl⟩
  exact if_neg fun h => hne (of_decide_eq_true h.2).1

/-! ### Clearing engines -/

/-- A bin has its turn when none of its key stands before it or is being applied (R379). -/
theorem State.binTurn_of {s : State} {b : Bin} (h : ∀ c ∈ s.e.bins, c.id ≠ b.id → c.toDev = b.toDev → c.key = b.key →
    ¬ (c.die = b.die ∧ c.id < b.id ∧ c.phase = .shipped) ∧
    ¬ (b.toDev = false ∧ c.phase = .shipped ∧ ∃ x ∈ c.recs, x.applied = true)) : s.binTurn b = true := by
  refine List.all_eq_true.2 fun c hc => ?_
  by_cases hk : c.id ≠ b.id ∧ c.toDev = b.toDev ∧ c.key = b.key
  · obtain ⟨hfirst, hbegun⟩ := h c hc hk.1 hk.2.1 hk.2.2
    have hbegun' : (!b.toDev && c.begun) = false := by
      refine Bool.eq_false_iff.2 fun hb => hbegun ?_
      simpa only [Bin.begun, Bool.and_eq_true, Bool.not_eq_true', decide_eq_true_eq, List.any_eq_true] using hb
    rw [decide_eq_false hfirst, hbegun', Bool.or_false, Bool.and_false, Bool.not_false]
  · rw [decide_eq_false hk, Bool.false_and, Bool.not_false]

section
variable {s : State} {b : Bin} (hb : s.e.bins.find? (fun x => decide (x.id = s.u.ev.id)) = some b) (hph : b.phase = .shipped)
  (hturn : s.binTurn b = true)
include hb hph hturn

/-- The bin of a module out of reach is discarded after the delivery limit (R308, R428). -/
theorem execBinApply_discards (hd : b.toDev = true) (hlost : s.reachable b.key = false ∨ s.u.ev.flag = true)
    (hlim : b.sent + 2 ^ 24 ≤ s.u.clk) : exec .binApply s = .next
      ((b.recs.foldl (fun t r => t.discard r) s).modBin b.id fun x => { x with phase := .applied }) := by
  have hgone : b.toDev = true ∧ (!s.reachable b.key || s.u.ev.flag) = true := ⟨hd, by simpa using hlost⟩
  simp only [exec, execBinApply, hb, hph, hturn, ne_eq, not_true_eq_false, Bool.not_true, Bool.false_eq_true, or_self, if_false]
  exact (if_pos hgone).trans (if_pos hlim)

theorem execBinApply_applies (hd : b.toDev = false ∨ (s.reachable b.key = true ∧ s.u.ev.flag = false)) :
    exec .binApply s = match b.nextRec (s.u.ev.list.headD 0) with
      | none => .next (s.modBin b.id fun x => { x with phase := .applied })
      | some k => .next ((match b.recs[k]? with | some r => s.applyRec r | none => s).modBin b.id fun x =>
          { x with recs := x.recs.modify k fun r => { r with applied := true } }) := by
  have hthere : ¬(b.toDev = true ∧ (!s.reachable b.key || s.u.ev.flag) = true) := by
    rintro ⟨h1, h2⟩
    obtain h | ⟨h3, h4⟩ := hd
    · exact nomatch h.symm.trans h1
    · simp [h3, h4] at h2
  simp only [exec, execBinApply, hb, hph, hturn, ne_eq, not_true_eq_false, Bool.not_true, Bool.false_eq_true, or_self, if_false]
  exact if_neg hthere

end

theorem mem_packetsGone {old new : List Bin} {k : ℕ × ℕ} : k ∈ packetsGone old new ↔
    (∃ b ∈ old, ∃ r ∈ b.recs, k ∈ r.pkts) ∧ ∀ b ∈ new, ∀ r ∈ b.recs, k ∉ r.pkts := by
  simp [packetsGone, List.mem_eraseDups]

/-! ### Refusal notices -/

section
variable {s : State} {n : Notice} (hn : s.e.notices[s.u.ev.id]? = some n)
include hn

theorem execRefusalNotice_eq : exec .refusalNotice s =
    let t : State := { s with e.notices := s.e.notices.eraseIdx s.u.ev.id }
    if (s.team? n.lane.t).isSome ∧ !(s.grid (s.team n.lane.t).grid).aborted ∧ n.lane.l ∈ s.liveLanes n.lane.t n.lane.g then
      .next (t.modLan n.lane fun x =>
        { x with refused := min (x.refused + 1) 0xFFFF, rsat := x.rsat || decide (x.refused = 0xFFFF),
                 badq := x.badq || n.bad })
    else .next t := by
  simp only [exec, execRefusalNotice, hn]

end

theorem State.notify_rest (s : State) (r : Rec) (bad : Bool) : { s.notify r bad with e.notices := s.e.notices } = s := rfl

/-! ### The words that records change -/

/-- Memory with `n` bytes of a value written to it: those bytes hold the value, and every other reads as before. -/
theorem State.load_written {s t : State} {loc v n : ℕ} (hw : s.MemWf) (h : t.m.mem = (s.writeBytes loc v n).m.mem) :
    (∀ i, i < n → t.load (loc + i) 1 = v / 256 ^ i % 256) ∧ ∀ b, b < loc ∨ loc + n ≤ b → t.load b 1 = s.load b 1 := by
  refine ⟨fun i hi => ?_, fun b hb => ?_⟩
  · exact (State.load_of_mem h _ _).trans (State.load_store_byte hw loc v hi)
  · exact (State.load_of_mem h _ _).trans (State.load_store_other s loc v n hb)

theorem State.rekey_same {s : State} {loc key : ℕ} (h : s.keyAt (loc / 128) = s.keyId (loc / 128) key) (pa : ℕ) :
    s.rekey loc pa key = s := if_pos h

/-- A state with other lines in its MSCs. -/
def State.withMsc (s : State) (l : List MscLine) : State := { s with k.msc := l }

theorem State.mscTouch_eq (s : State) (loc pa key : ℕ) (chain : Option (ℕ × ℕ)) (dirty : Bool) :
    ∃ l, s.mscTouch loc pa key chain dirty = s.withMsc l := by
  unfold State.mscTouch
  dsimp only
  split <;> exact ⟨_, rfl⟩

/-- An APPEND's access under the key that a line is stored under changes nothing but the MSC (R377, R381). -/
theorem State.appendTouch_eq {s : State} {r : Rec} {pa : ℕ}
    (h : s.keyAt (s.recLoc r pa / 128) = s.keyId (s.recLoc r pa / 128) r.key) (write : Bool) :
    ∃ l, s.appendTouch r pa write = s.withMsc l := by
  unfold State.appendTouch
  rw [State.rekey_same h]
  dsimp only
  split
  · exact State.mscTouch_eq ..
  · exact ⟨s.k.msc, rfl⟩

theorem State.homeWrite_mem {s : State} {lf : Leaf} {pa : ℕ} (h : s.retiredAt lf pa = false) (loc v n : ℕ) (msc : Bool) :
    (s.homeWrite lf pa loc v n msc).m.mem = (s.writeBytes loc v n).m.mem := by
  unfold State.homeWrite
  rw [if_neg (Bool.eq_false_iff.1 h)]
  have hquiet : (if lf.ut then s else s.conflictNow pa).m.mem = s.m.mem := by
    split
    · rfl
    · exact s.conflictNow_mem pa
  split
  · rfl
  · split
    · refine State.writeBytes_mem_congr ?_ ..
      cases msc with
      | true => exact hquiet
      | false => exact (State.addSnap_mem ..).trans hquiet
    · rfl

/-- A word of an APPEND is stored where its page's channel is there and it is not poisoned (R317). -/
theorem State.appendWord_mem {s : State} {r : Rec} {pa : ℕ} (hret : s.retiredAt r.leaf pa = false)
    (hkey : s.keyAt (s.recLoc r pa / 128) = s.keyId (s.recLoc r pa / 128) r.key)
    (hpoison : s.poisoned (s.recLoc r pa) 4 = false) (v : ℕ) :
    (s.appendWord r pa v).m.mem = (s.writeBytes (s.recLoc r pa) v 4).m.mem := by
  obtain ⟨l, hl⟩ := State.appendTouch_eq hkey true
  have hp : (s.withMsc l).poisoned (s.recLoc r pa) 4 = false := hpoison
  have hr : (s.withMsc l).retiredAt r.leaf pa = false := hret
  have hmem : (s.withMsc l).m.mem = s.m.mem := rfl
  unfold State.appendWord
  rw [hl]
  dsimp only
  rw [if_neg (Bool.eq_false_iff.1 hp), State.homeWrite_mem hr]
  exact State.writeBytes_mem_congr hmem ..

/-- A record is discarded at a pseudo-channel that failed training (R391). -/
theorem State.applyRec_discards {s : State} {r : Rec} (hdev : r.dev = s.f.dev) (hret : channelOf r.il r.pa ∈ s.m.retiredPc) :
    s.applyRec r = s.discard r := if_pos ⟨hdev, hret⟩

/-- A record is applied at the word of its home, whose line the MSC may hold (R299, R316, R379). -/
theorem State.applyRec_eq {s : State} {r : Rec} (hret : r.dev ≠ s.f.dev ∨ channelOf r.il r.pa ∉ s.m.retiredPc)
    (hkey : s.keyAt (s.recLoc r r.pa / 128) = s.keyId (s.recLoc r r.pa / 128) r.key) : ∃ l,
    s.applyRec r = if r.op = 7 then (s.withMsc l).applyAppend r
      else if s.poisoned (s.recLoc r r.pa) (recBytes r.wid) then s.withMsc l
      else ((s.withMsc l).writeBack (s.recLoc r r.pa / 128)).store (s.recLoc r r.pa)
        (recWord r.op r.wid (s.load (s.recLoc r r.pa) (recBytes r.wid)) r.val) (recBytes r.wid) := by
  have hno : ¬(r.dev = s.f.dev ∧ channelOf r.il r.pa ∈ s.m.retiredPc) := fun h => hret.elim (· h.1) (· h.2)
  have hmsc : ∃ l, (if (s.k.msc.any fun m => decide (m.line = s.recLoc r r.pa / 128 ∧ m.pa = r.pa / 128 * 128)) = true ∧
      r.dev = s.f.dev then s.mscTouch (s.recLoc r r.pa) r.pa r.key none true else s) = s.withMsc l := by
    split
    · exact s.mscTouch_eq ..
    · exact ⟨s.k.msc, rfl⟩
  obtain ⟨l, hl⟩ := hmsc
  unfold State.applyRec
  dsimp only
  rw [if_neg hno, State.rekey_same hkey, hl]
  exact ⟨l, rfl⟩

/-- A record changes exactly its word, by its operator (R299, R379). -/
theorem State.applyRec_word {s : State} {r : Rec} (hop : r.op ≠ 7)
    (hret : r.dev ≠ s.f.dev ∨ channelOf r.il r.pa ∉ s.m.retiredPc)
    (hkey : s.keyAt (s.recLoc r r.pa / 128) = s.keyId (s.recLoc r r.pa / 128) r.key)
    (hpoison : s.poisoned (s.recLoc r r.pa) (recBytes r.wid) = false) :
    (s.applyRec r).m.mem = (s.writeBytes (s.recLoc r r.pa)
      (recWord r.op r.wid (s.load (s.recLoc r r.pa) (recBytes r.wid)) r.val) (recBytes r.wid)).m.mem := by
  obtain ⟨l, hl⟩ := State.applyRec_eq hret hkey
  rw [hl, if_neg hop, if_neg (Bool.eq_false_iff.1 hpoison)]
  have hmem : ((s.withMsc l).writeBack (s.recLoc r r.pa / 128)).m.mem = s.m.mem := rfl
  exact State.writeBytes_mem_congr hmem ..

/-! ### APPEND's descriptor -/

/-- The state in which an APPEND reads its descriptor (R317). -/
def State.appendReads (s : State) (r : Rec) : State := (s.appendTouch r r.pa false).appendTouch r (r.pa + 28) false

theorem State.appendReads_eq {s : State} {r : Rec}
    (h : ∀ pa, pa = r.pa ∨ pa = r.pa + 28 → s.keyAt (s.recLoc r pa / 128) = s.keyId (s.recLoc r pa / 128) r.key) :
    ∃ l, s.appendReads r = s.withMsc l := by
  obtain ⟨l, hl⟩ := State.appendTouch_eq (h r.pa (.inl rfl)) false
  have hkey : (s.withMsc l).keyAt ((s.withMsc l).recLoc r (r.pa + 28) / 128) =
      (s.withMsc l).keyId ((s.withMsc l).recLoc r (r.pa + 28) / 128) r.key := h (r.pa + 28) (.inr rfl)
  obtain ⟨l', hl'⟩ := State.appendTouch_eq hkey false
  refine ⟨l', ?_⟩
  rw [State.appendReads, hl, hl']
  rfl

theorem State.writeBytes_p (s : State) (a v n : ℕ) : (s.writeBytes a v n).p = s.p := by
  induction n generalizing s a v with
  | zero => rfl
  | succ n ih => exact ih (s.writeByte a _) _ _

theorem State.withLineKey_p (s : State) (l : Tab ℕ ℕ) : State.p { s with k.lineKey := l } = s.p := rfl

theorem State.rekey_p (s : State) (loc pa key : ℕ) : (s.rekey loc pa key).p = s.p := by
  unfold State.rekey
  extract_lets line old new
  split
  · rfl
  · exact (State.withLineKey_p _ _).trans (s.writeBytes_p ..)

theorem State.appendReads_recLoc (s : State) (r q : Rec) (pa : ℕ) : (s.appendReads r).recLoc q pa = s.recLoc q pa := by
  have hp : ∀ (t : State) (a : ℕ), (t.appendTouch r a false).p = t.p := fun t a => by
    unfold State.appendTouch
    dsimp only
    split
    · obtain ⟨l, hl⟩ := (t.rekey (t.recLoc r a) a r.key).mscTouch_eq (t.recLoc r a) a r.key none false
      rw [hl]
      exact t.rekey_p _ _ _
    · exact t.rekey_p _ _ _
  unfold State.recLoc State.appendReads
  rw [hp, hp]

/-- The words of an APPEND's descriptor (R316). -/
def State.descWord (s : State) (r : Rec) (i : ℕ) : ℕ := (s.appendReads r).load (s.recLoc r (r.pa + 4 * i)) 4

/-- A region of a descriptor's page: no words, or words behind the descriptor that end with its page (R316). -/
def Rec.region (r : Rec) (off cap : ℕ) : Bool :=
  decide (off % 4 = 0 ∧ (cap = 0 ∨ (32 ≤ off ∧ r.pa + off + 4 * cap ≤ r.pa / r.psize * r.psize + r.psize)))

/-- A descriptor of these words is well formed (R316). -/
def Rec.descOk (r : Rec) (w : ℕ → ℕ) : Bool :=
  decide (r.pa % 64 = 0 ∧ 1 ≤ w 1 ∧ w 1 ≤ 2 ^ 24 ∧ w 3 ≤ 2 ^ 24) && r.region (w 0) (w 1) && r.region (w 2) (w 3)

/-- An APPEND that is refused counts in REFUSED and sends its notices (R317, R318). -/
def State.refuses (s : State) (r : Rec) (bad : Bool) : State :=
  ((s.appendReads r).appendWord r (r.pa + 28) (min (s.descWord r 7 + 1) (2 ^ 32 - 1))).notify r bad

theorem Rec.descOk_iff (r : Rec) (w : ℕ → ℕ) :
    let top := r.pa / r.psize * r.psize + r.psize
    let region := fun (off cap : ℕ) => off % 4 = 0 ∧ (cap = 0 ∨ (32 ≤ off ∧ r.pa + off + 4 * cap ≤ top))
    r.descOk w = true ↔ r.pa % 64 = 0 ∧ 1 ≤ w 1 ∧ w 1 ≤ 2 ^ 24 ∧ w 3 ≤ 2 ^ 24 ∧ region (w 0) (w 1) ∧ region (w 2) (w 3) := by
  simp only [Rec.descOk, Rec.region, Bool.and_eq_true, decide_eq_true_eq, and_assoc]

theorem State.applyAppend_eq (s : State) (r : Rec) :
    let t := s.appendReads r
    let w := s.descWord r
    s.applyAppend r = if !r.descOk w then s.refuses r true
      else if (w 4 + 2 ^ 32 - w 5) % 2 ^ 32 < w 1 then
        (t.appendWord r (r.pa + w 0 + 4 * (w 4 % w 1)) r.val).appendWord r (r.pa + 16) (w 4 + 1)
      else if w 6 < w 3 then (t.appendWord r (r.pa + w 2 + 4 * w 6) r.val).appendWord r (r.pa + 24) (w 6 + 1)
      else s.refuses r false := by
  have hword : s.descWord r = fun i => (s.appendReads r).load ((s.appendReads r).recLoc r (r.pa + 4 * i)) 4 :=
    funext fun i => by rw [State.descWord, State.appendReads_recLoc]
  unfold State.refuses
  rw [hword]
  rfl

section
variable {s : State} {r : Rec}

theorem State.applyAppend_malformed (h : ¬r.descOk (s.descWord r) = true) : s.applyAppend r = s.refuses r true := by
  rw [State.applyAppend_eq, if_pos (by simpa using h)]

theorem State.applyAppend_eq_of_ok (hok : r.descOk (s.descWord r) = true) :
    let t := s.appendReads r
    let w := s.descWord r
    s.applyAppend r = if (w 4 + 2 ^ 32 - w 5) % 2 ^ 32 < w 1 then
        (t.appendWord r (r.pa + w 0 + 4 * (w 4 % w 1)) r.val).appendWord r (r.pa + 16) (w 4 + 1)
      else if w 6 < w 3 then (t.appendWord r (r.pa + w 2 + 4 * w 6) r.val).appendWord r (r.pa + 24) (w 6 + 1)
      else s.refuses r false := by
  rw [State.applyAppend_eq, hok, Bool.not_true, if_neg Bool.false_ne_true]

end

theorem State.performDst_append {s : State} {a : Access} {lf : Leaf} (hl : a.leaf = some lf) (wid : ℕ) :
    s.performDst a 7 wid =
      if s.poisonFor a = true then s else (s.recsOf a lf).foldl (fun t r => t.applyAppend r) s := by
  simp only [State.performDst, hl, if_true]

/-! ### A DST on a page without the deferred bit -/

theorem State.beforeStore_poison (s : State) (a : Access) : (s.beforeStore a).m.poison = s.m.poison := by
  have hrel : ((s.releaseSystem a).squash a.lane).m.poison = s.m.poison := by
    unfold State.releaseSystem
    split <;> rfl
  unfold State.beforeStore State.acquireCopies
  split
  · exact (State.dropAway_poison _).trans hrel
  · exact hrel

theorem State.beforeStore_u (s : State) (a : Access) : (s.beforeStore a).u = s.u := congrArg Apart.u (s.beforeStore_apart a)

theorem State.beforeStore_retiredAt (s : State) (a : Access) (lf : Leaf) (pa : ℕ) :
    (s.beforeStore a).retiredAt lf pa = s.retiredAt lf pa :=
  State.retiredAt_congr (congrArg Apart.f (s.beforeStore_apart a)) (congrArg Apart.retired (s.beforeStore_apart a)) lf pa

theorem State.beforeStore_poisonFor (s : State) (a : Access) : (s.beforeStore a).poisonFor a = s.poisonFor a := by
  unfold State.poisonFor State.poisoned
  rw [s.beforeStore_poison a, s.beforeStore_u a]
  cases a.leaf with
  | none => rfl
  | some lf => simp only [s.beforeStore_retiredAt a lf a.pa]

theorem State.retiredAt_of_poisonFor {s : State} {a : Access} (h : s.poisonFor a = false) {lf : Leaf} (hl : a.leaf = some lf) :
    s.retiredAt lf a.pa = false := by
  simp only [State.poisonFor, hl, Bool.or_eq_false_iff] at h
  exact h.2.1

section
variable {s : State} {a : Access} {op wid : ℕ} (hk : a.kind = .dst op wid)
include hk

theorem State.performStore_dst : s.performStore a = (s.beforeStore a).performDst a op wid := by
  simp only [State.performStore, hk, State.beforeStore]

theorem execStorePerformed_dst {lf : Leaf} (ha : s.acc? s.u.ev.id = some a) (hl : a.leaf = some lf) (hph : a.phase = .atHome)
    (hack : s.acked a = true) : exec .storePerformed s = .next ((s.performStore a).finish a) := by
  have hload : a.isLoad = false := by simp only [Access.isLoad, hk]
  simp only [exec, execStorePerformed, ha, hload, hl, hph, hk, hack, Bool.false_eq_true, if_false, if_true]

end

theorem State.performDst_apart {s : State} {a : Access} {op : ℕ} (wid : ℕ) (hop : op ≠ 7) :
    (s.performDst a op wid).apart = s.apart := by
  unfold State.performDst
  rw [if_neg hop]
  split
  · rfl
  · exact s.writeFor_apart a _

theorem State.performDst_poisoned {s : State} {a : Access} (op wid : ℕ) (h : s.poisonFor a = true) :
    s.performDst a op wid = s := if_pos h

theorem State.performDst_word {s : State} {a : Access} {op : ℕ} (wid : ℕ) (hop : op ≠ 7) (h : s.poisonFor a = false) :
    s.performDst a op wid = s.writeFor a (recWord op wid (s.load a.loc a.size) a.data) := by
  rw [State.performDst, if_neg (Bool.eq_false_iff.1 h), if_neg hop]

/-- A direct DST changes its word by its operator, or nothing where it meets poison (R302, R308; log entry 48). -/
theorem State.performStore_word {s : State} {a : Access} {op wid : ℕ} (hk : a.kind = .dst op wid) (hop : op ≠ 7)
    (h : s.poisonFor a = false) : (s.performStore a).m.mem =
      (s.writeBytes a.loc (recWord op wid (s.load a.loc a.size) a.data) a.size).m.mem := by
  have hp : (s.beforeStore a).poisonFor a = false := (s.beforeStore_poisonFor a).trans h
  have hload : (s.beforeStore a).load a.loc a.size = s.load a.loc a.size := State.load_of_mem (s.beforeStore_mem a) ..
  rw [State.performStore_dst hk, State.performDst_word wid hop hp, hload,
    State.writeFor_mem _ fun lf hl => State.retiredAt_of_poisonFor hp hl]
  exact State.writeBytes_mem_congr (s.beforeStore_mem a) ..

theorem State.performStore_poisoned {s : State} {a : Access} {op wid : ℕ} (hk : a.kind = .dst op wid)
    (h : s.poisonFor a = true) : (s.performStore a).m.mem = s.m.mem := by
  rw [State.performStore_dst hk, State.performDst_poisoned op wid ((s.beforeStore_poisonFor a).trans h)]
  exact s.beforeStore_mem a

/-- A direct DST leaves every register but its counter (R302). -/
theorem State.performStore_regs {s : State} {a : Access} {op wid : ℕ} (hk : a.kind = .dst op wid) (hop : op ≠ 7) :
    (s.performStore a).r.v = s.r.v ∧ (s.performStore a).r.ve = s.r.ve ∧ (s.performStore a).r.sr = s.r.sr ∧
      (s.performStore a).r.mr = s.r.mr := by
  have hapart := (State.performDst_apart (s := s.beforeStore a) (a := a) wid hop).trans (s.beforeStore_apart a)
  rw [State.performStore_dst hk]
  exact ⟨congrArg (fun p : Apart => p.r.v) hapart, congrArg (fun p : Apart => p.r.ve) hapart,
    congrArg (fun p : Apart => p.r.sr) hapart, congrArg (fun p : Apart => p.r.mr) hapart⟩

theorem State.finish_regs (s : State) (a : Access) : (s.finish a).r.v = s.r.v ∧ (s.finish a).r.ve = s.r.ve ∧
    (s.finish a).r.sr = s.r.sr ∧ (s.finish a).r.mr = s.r.mr := by
  have hrest := s.finish_rest a
  exact ⟨(congrArg (fun q : State => q.r.v) hrest :), (congrArg (fun q : State => q.r.ve) hrest :),
    (congrArg (fun q : State => q.r.sr) hrest :), (congrArg (fun q : State => q.r.mr) hrest :)⟩

theorem State.finish_gone {s : State} {a x : Access} (hx : x ∈ (s.finish a).k.acc) : x.id ≠ a.id := by
  have hacc : (s.finish a).k.acc = _ := (congrArg (fun q : State => q.k.acc) (s.finish_rest a) :)
  rw [hacc] at hx
  exact of_decide_eq_true (List.mem_filter.1 hx).2

theorem execStorePerformed_direct {s : State} {a : Access} {lf : Leaf} {op wid : ℕ} (hw : s.MemWf)
    (ha : s.acc? s.u.ev.id = some a) (hk : a.kind = .dst op wid) (hl : a.leaf = some lf) (hph : a.phase = .atHome)
    (hack : s.acked a = true) (hop : op ≠ 7) : ∃ t, exec .storePerformed s = .next t ∧
      (s.poisonFor a = true → t.m.mem = s.m.mem) ∧
      (s.poisonFor a = false → ∀ i, i < a.size →
        t.load (a.loc + i) 1 = recWord op wid (s.load a.loc a.size) a.data / 256 ^ i % 256) ∧
      (∀ b, b < a.loc ∨ a.loc + a.size ≤ b → t.load b 1 = s.load b 1) ∧ (∀ x ∈ t.k.acc, x.id ≠ a.id) ∧
      t.r.v = s.r.v ∧ t.r.ve = s.r.ve ∧ t.r.sr = s.r.sr ∧ t.r.mr = s.r.mr := by
  have hmem := State.finish_mem (s.performStore a) a
  have hword := fun h => State.load_written hw (hmem.trans (State.performStore_word hk hop h))
  obtain ⟨fv, fve, fsr, fmr⟩ := (s.performStore a).finish_regs a
  obtain ⟨pv, pve, psr, pmr⟩ := State.performStore_regs (s := s) hk hop
  refine ⟨_, execStorePerformed_dst hk ha hl hph hack, fun h => hmem.trans (State.performStore_poisoned hk h),
    fun h => (hword h).1, fun b hb => ?_, fun x => State.finish_gone, fv.trans pv, fve.trans pve, fsr.trans psr, fmr.trans pmr⟩
  cases h : s.poisonFor a with
  | true => exact State.load_of_mem (hmem.trans (State.performStore_poisoned hk h)) b 1
  | false => exact (hword h).2 b hb

/-! ### SETTLE completes -/

/-- A lane whose status a SETTLE has delivered (R313). -/
def Lane.settled (x : Lane) : Lane := { x with refused := 0, rsat := false, lost := false, badq := false }

/-- The state once the statuses of some lanes of a group are delivered to a register (R313). -/
def State.settleAll (s : State) (g : GroupId) (vd : ℕ) (ls : List ℕ) : State :=
  ls.foldl (fun t l => t.settleDeliver ⟨g.t, g.g, l⟩ vd) s

theorem State.getV_settleDeliver (s : State) (l x : LaneId) (vd m : ℕ) : (s.settleDeliver l vd).getV x m =
    if (l, vd) = (x, m) then (s.lan l).settleStatus else s.getV x m := State.getV_setV ..

theorem State.isEmpty_settleDeliver (s : State) (l x : LaneId) (vd m : ℕ) : (s.settleDeliver l vd).isEmpty x m =
    if (l, vd) = (x, m) then false else s.isEmpty x m := State.isEmpty_setV ..

theorem State.lan_settleDeliver (s : State) (l x : LaneId) (vd : ℕ) : (s.settleDeliver l vd).lan x =
    if l = x then (s.lan l).settled else s.lan x := State.lan_modLan ..

section
variable {s : State} {g : GroupId} {vd : ℕ} {ls : List ℕ}

/-- A lane that a SETTLE does not cover keeps its registers and its record. -/
theorem State.settleAll_other {x : LaneId} (h : x.t ≠ g.t ∨ x.g ≠ g.g ∨ x.l ∉ ls) (m : ℕ) :
    (s.settleAll g vd ls).getV x m = s.getV x m ∧ (s.settleAll g vd ls).isEmpty x m = s.isEmpty x m ∧
      (s.settleAll g vd ls).lan x = s.lan x := by
  induction ls generalizing s with
  | nil => exact ⟨rfl, rfl, rfl⟩
  | cons l ls ih =>
    have hne : (⟨g.t, g.g, l⟩ : LaneId) ≠ x := by
      rintro rfl
      simp at h
    obtain ⟨hv, he, hl⟩ := ih (s := s.settleDeliver ⟨g.t, g.g, l⟩ vd) (by simp only [List.mem_cons, not_or] at h; tauto)
    exact ⟨hv.trans ((State.getV_settleDeliver ..).trans (if_neg fun e => hne (Prod.mk.inj e).1)),
      he.trans ((State.isEmpty_settleDeliver ..).trans (if_neg fun e => hne (Prod.mk.inj e).1)),
      hl.trans ((State.lan_settleDeliver ..).trans (if_neg hne))⟩

/-- A register that a SETTLE does not name keeps its value. -/
theorem State.settleAll_register {x : LaneId} {m : ℕ} (h : m ≠ vd) : (s.settleAll g vd ls).getV x m = s.getV x m := by
  induction ls generalizing s with
  | nil => rfl
  | cons l ls ih =>
    exact ih.trans ((State.getV_settleDeliver ..).trans (if_neg fun e => h (Prod.mk.inj e).2.symm))

/-- A covered lane's register takes its status, and its flags are cleared (R313). -/
theorem State.settleAll_covered (hnd : ls.Nodup) {l : ℕ} (hl : l ∈ ls) :
    (s.settleAll g vd ls).getV ⟨g.t, g.g, l⟩ vd = (s.lan ⟨g.t, g.g, l⟩).settleStatus ∧
      (s.settleAll g vd ls).isEmpty ⟨g.t, g.g, l⟩ vd = false ∧
      (s.settleAll g vd ls).lan ⟨g.t, g.g, l⟩ = (s.lan ⟨g.t, g.g, l⟩).settled := by
  induction ls generalizing s with
  | nil => cases hl
  | cons i ls ih =>
    obtain ⟨hi, hnd'⟩ := List.nodup_cons.1 hnd
    by_cases he : i = l
    · subst he
      obtain ⟨hv, hem, hla⟩ := State.settleAll_other (s := s.settleDeliver ⟨g.t, g.g, i⟩ vd) (g := g) (vd := vd) (ls := ls)
        (x := ⟨g.t, g.g, i⟩) (.inr (.inr hi)) vd
      exact ⟨hv.trans ((State.getV_settleDeliver ..).trans (if_pos rfl)),
        hem.trans ((State.isEmpty_settleDeliver ..).trans (if_pos rfl)),
        hla.trans ((State.lan_settleDeliver ..).trans (if_pos rfl))⟩
    · have hlan : (s.settleDeliver ⟨g.t, g.g, i⟩ vd).lan ⟨g.t, g.g, l⟩ = s.lan ⟨g.t, g.g, l⟩ :=
        (State.lan_settleDeliver ..).trans (if_neg fun e => he (congrArg LaneId.l e))
      obtain ⟨hv, hem, hla⟩ := ih (s := s.settleDeliver ⟨g.t, g.g, i⟩ vd) hnd' (List.mem_of_ne_of_mem (Ne.symm he) hl)
      exact ⟨hv.trans (congrArg _ hlan), hem, hla.trans (congrArg _ hlan)⟩

/-- What a SETTLE's delivery cannot touch. -/
def State.beyondLanes (s : State) : State := { s with r.v := [], r.ve := [], r.ln := [] }

theorem State.settleAll_beyond : (s.settleAll g vd ls).beyondLanes = s.beyondLanes := by
  induction ls generalizing s with
  | nil => rfl
  | cons l ls ih => exact ih

end

/-- The state in which a SETTLE's split is made ready: copies of other modules' lines are given up for `.P` (R312, R333). -/
def State.settled (s : State) (k : ℕ) : State := if k = 3 then s.dropAway else s

theorem State.settled_apart (s : State) (k : ℕ) : (s.settled k).apart = s.apart := by
  unfold State.settled
  split
  · exact s.dropAway_apart
  · rfl

theorem State.settled_mem (s : State) (k : ℕ) : (s.settled k).m.mem = s.m.mem := by
  unfold State.settled
  split
  · exact s.dropAway_mem
  · rfl

theorem execSettleComplete_ready {s : State} {p : Split} {k vd : ℕ} {ls : List ℕ} {n : ℕ} {q : Pc}
    (hp : s.split? s.u.ev.id = some p) (hpark : p.park = .settle k vd ls n q true) (hpod : s.podSettled p k = true)
    (howes : s.owes (s.covers p k ls) n = false) : exec .settleComplete s =
      .next (((s.settleAll ⟨p.team, p.group⟩ vd ls).settled k).modSplit p.sid fun x => { x with park := .run }) := by
  simp only [exec, execSettleComplete, hp, hpark, hpod, howes, Bool.not_true, Bool.or_self, Bool.false_eq_true, if_false]
  rfl

theorem State.lan_of_apart {s t : State} (h : t.apart = s.apart) (l : LaneId) : t.lan l = s.lan l :=
  congrArg (fun a : Apart => a.r.ln.look l {}) h

theorem State.getV_of_apart {s t : State} (h : t.apart = s.apart) (l : LaneId) (n : ℕ) : t.getV l n = s.getV l n :=
  congrArg (fun a : Apart => a.r.v.look (l, n) 0) h

theorem State.isEmpty_of_apart {s t : State} (h : t.apart = s.apart) (l : LaneId) (n : ℕ) : t.isEmpty l n = s.isEmpty l n :=
  congrArg (fun a : Apart => a.r.ve.look (l, n) false) h

/-- A SETTLE that nothing holds up delivers its lanes' statuses and makes its split ready (R311 to R313). -/
theorem execSettleComplete_delivers {s : State} {p : Split} {k vd : ℕ} {ls : List ℕ} {n : ℕ} {q : Pc}
    (hp : s.split? s.u.ev.id = some p) (hpark : p.park = .settle k vd ls n q true) (hpod : s.podSettled p k = true)
    (howes : s.owes (s.covers p k ls) n = false) (hnd : ls.Nodup) : ∃ t, exec .settleComplete s = .next t ∧
      (∀ l ∈ ls, t.getV ⟨p.team, p.group, l⟩ vd = (s.lan ⟨p.team, p.group, l⟩).settleStatus ∧
        t.isEmpty ⟨p.team, p.group, l⟩ vd = false ∧
        t.lan ⟨p.team, p.group, l⟩ = (s.lan ⟨p.team, p.group, l⟩).settled) ∧
      (∀ x m, x.t ≠ p.team ∨ x.g ≠ p.group ∨ x.l ∉ ls ∨ m ≠ vd → t.getV x m = s.getV x m) ∧
      t.split? p.sid = some { p with park := .run } ∧ t.m.mem = s.m.mem ∧ t.r.sr = s.r.sr ∧ t.r.mr = s.r.mr := by
  have ha := (s.settleAll ⟨p.team, p.group⟩ vd ls).settled_apart k
  have hbeyond := State.settleAll_beyond (s := s) (g := ⟨p.team, p.group⟩) (vd := vd) (ls := ls)
  have hsplit : ((s.settleAll ⟨p.team, p.group⟩ vd ls).settled k).split? p.sid = some p := by
    have hx : ((s.settleAll ⟨p.team, p.group⟩ vd ls).settled k).x = s.x :=
      (congrArg Apart.x ha).trans (congrArg State.x hbeyond :)
    rw [State.split?, hx]
    exact State.split?_sid hp ▸ hp
  refine ⟨_, execSettleComplete_ready hp hpark hpod howes, fun l hl => ?_, fun x m h => ?_,
    State.split?_modSplit hsplit rfl, ?_, ?_, ?_⟩
  · obtain ⟨hv, he, hlan⟩ := State.settleAll_covered (s := s) (g := ⟨p.team, p.group⟩) (vd := vd) hnd hl
    exact ⟨(State.getV_of_apart ha ..).trans hv, (State.isEmpty_of_apart ha ..).trans he, (State.lan_of_apart ha _).trans hlan⟩
  · refine (State.getV_of_apart ha x m).trans ?_
    by_cases hm : m = vd
    · exact (State.settleAll_other (by tauto) m).1
    · exact State.settleAll_register hm
  · exact (State.settled_mem _ k).trans (congrArg (fun t : State => t.m.mem) hbeyond :)
  · exact (State.sr_of_apart ha).trans (congrArg (fun t : State => t.r.sr) hbeyond :)
  · exact (congrArg (fun a : Apart => a.r.mr) ha).trans (congrArg (fun t : State => t.r.mr) hbeyond :)

/-- Settles O51: each event is its branch of the model, and every store of a record or an APPEND writes exactly its word. -/
theorem deferredEvents : Obligations.DeferredEvents := by
  unfold Obligations.DeferredEvents
  refine ⟨fun s => ⟨fun r hr => ?drain, fun die r => ⟨fun b hb => ?joins, fun hn hroom => ?opens⟩,
    fun b r => ⟨fun x hx => Bin.join_merges hx, fun hx => Bin.join_appends hx⟩, fun die => ⟨s.shipFull_bins die, rfl⟩,
    fun r hr => ?drained, fun b hb hid hph hage => execBinAgeExpiry_ships hb hid hph hage, rfl, fun b hb hph hfree => ?apply,
    fun r => ?word, fun r => ⟨fun hd hc => State.applyRec_discards hd hc, fun hop hret hkey => ?appendRec⟩,
    fun r => ?append, fun r bad => ⟨rfl, s.notify_rest r bad⟩, fun r pa v => ?appendWord,
    fun a lf op wid hw ha hk hl hph hack => ⟨fun hop => ?directAppend, execStorePerformed_direct hw ha hk hl hph hack⟩,
    ⟨rfl, fun k => mem_packetsGone⟩, fun n hn => ⟨fun ht hg hl => ?noticed, fun hgone => ?discarded⟩⟩,
    fun s p k vd ls n q hp hpark hpod howes hnd => execSettleComplete_delivers hp hpark hpod howes hnd⟩
  case drain => simp only [exec, execLogDrain, hr]
  case joins => exact State.binRecord_joins hb
  case opens => exact State.binRecord_opens hn hroom
  case drained =>
    have hrest := (s.drainRec r).binRecord_binless (r.src / 192) r
    exact ⟨(s.drainRec r).binRecord (r.src / 192) r, by simp only [exec, execLogDrain, hr]; rfl,
      (congrArg (fun t : State => t.e.log) hrest :), State.binRecord_holds .., (congrArg State.m hrest :),
      (congrArg State.r hrest :), (congrArg State.x hrest :), (congrArg State.k hrest :)⟩
  case apply =>
    have hturn := State.binTurn_of hfree
    refine ⟨fun hd hlost hlim => execBinApply_discards hb hph hturn hd hlost hlim,
      fun hd => ⟨fun hn => ?_, fun k r hn hr => ?_⟩⟩
    · rw [execBinApply_applies hb hph hturn hd, hn]
    · rw [execBinApply_applies hb hph hturn hd, hn]
      simp only [hr]
  case word =>
    intro loc n hw hop hret hkey hpoison
    exact State.load_written hw (State.applyRec_word hop hret hkey hpoison)
  case appendRec =>
    obtain ⟨l, hl⟩ := State.applyRec_eq hret hkey
    exact ⟨s.withMsc l, hl.trans (if_pos hop), rfl, rfl, rfl, rfl⟩
  case append =>
    intro t w top region ok held refused
    have hok : r.descOk (s.descWord r) = true ↔ ok := r.descOk_iff _
    refine ⟨fun hkey => ?_, fun h hroom => ?_, fun h hfull hover => ?_, fun h hfull hover => ?_, fun h => ?_⟩
    · obtain ⟨l, hl⟩ := State.appendReads_eq hkey
      exact ⟨(congrArg (fun u : State => u.m.mem) hl :), (congrArg State.e hl :), (congrArg State.r hl :), (congrArg State.x hl :)⟩
    · exact (State.applyAppend_eq_of_ok (hok.2 h)).trans (if_pos hroom)
    · exact (State.applyAppend_eq_of_ok (hok.2 h)).trans ((if_neg (Nat.not_lt.2 hfull)).trans (if_pos hover))
    · exact (State.applyAppend_eq_of_ok (hok.2 h)).trans
        ((if_neg (Nat.not_lt.2 hfull)).trans (if_neg (Nat.not_lt.2 hover)))
    · exact State.applyAppend_malformed fun hd => h (hok.1 hd)
  case appendWord =>
    intro loc hw hret hkey hpoison
    exact State.load_written hw (State.appendWord_mem hret hkey hpoison v)
  case directAppend =>
    subst hop
    exact State.performDst_append hl wid
  case noticed =>
    rw [execRefusalNotice_eq hn]
    exact if_pos ⟨ht, by rw [hg]; rfl, hl⟩
  case discarded =>
    rw [execRefusalNotice_eq hn]
    refine if_neg fun h => ?_
    obtain ⟨ht, hg, hl⟩ := h
    obtain h | h | h := hgone
    · rw [h] at ht
      exact nomatch ht
    · rw [h] at hg
      exact nomatch hg
    · exact h hl

end Sys2Proof.Machine

/-! SUPPORT. What an engine's touch under a line's own key, and a write at its home, leave of the engines' lists and of the keys
(R257, R259, R287, R381, R439). -/

namespace Sys2Proof.Machine

/-! ### Keys -/

/-- The keys that lines are stored under, and those that indices name (R381). -/
structure Keyring where
  line : Tab ℕ ℕ
  gen : Tab ℕ ℕ
  base : ℕ

/-- The keys of a state. -/
def State.keyring (s : State) : Keyring := { line := s.k.lineKey, gen := s.k.keyGen, base := s.k.keyBase }

@[simp] theorem State.keyring_ite (c : Prop) [Decidable c] (a b : State) :
    (if c then a else b).keyring = if c then a.keyring else b.keyring := apply_ite ..

@[simp] theorem State.addSnap_keyring (s : State) (h : Holder) (line : ℕ) : (s.addSnap h line).keyring = s.keyring := by
  unfold State.addSnap
  split <;> rfl

@[simp] theorem State.dropRegion_keyring (s : State) (slice base lg core : ℕ) :
    (s.dropRegion slice base lg core).keyring = s.keyring :=
  State.foldl_keeps (f := fun t (x : L1Line) => t.triggerCore x.core x.line) (F := State.keyring) (fun _ _ => rfl) _ s

@[simp] theorem State.dropSharers_keyring (s : State) (die pa : ℕ) : (s.dropSharers die pa).keyring = s.keyring := by
  unfold State.dropSharers
  split
  · exact State.foldl_keeps (fun t c => State.dropRegion_keyring t _ _ _ c) _ s
  · rfl

@[simp] theorem State.purgeLine_keyring (s : State) (pa : ℕ) : (s.purgeLine pa).keyring = s.keyring :=
  State.foldl_keeps (F := State.keyring) (fun t d => t.dropSharers_keyring d pa) _ s

@[simp] theorem State.evictL2_keyring (s : State) (x : L2Line) : (s.evictL2 x).keyring = s.keyring := by
  change State.keyring (if x.guest then s else _) = s.keyring
  split
  · rfl
  · exact State.foldl_keeps (F := State.keyring) (fun t d => t.dropSharers_keyring d x.pa) _ (s.writeBack (x.loc / 128))

@[simp] theorem State.evictOne_keyring (s : State) (die pa : ℕ) (f : L2Line → Bool) :
    (s.evictOne die pa f).keyring = s.keyring := by
  unfold State.evictOne
  split
  · exact s.evictL2_keyring _
  · rfl

@[simp] theorem State.resCount_keyring (s : State) (die pa : ℕ) : (s.resCount die pa).1.keyring = s.keyring := by
  unfold State.resCount
  split <;> rfl

@[simp] theorem State.l2Hit_keyring (s : State) (die pa : ℕ) (tracked : Bool) (cls : Option ℕ) (y : L2Line) :
    (s.l2Hit die pa tracked cls y).keyring = s.keyring := by
  unfold State.l2Hit
  extract_lets t
  change t.keyring = s.keyring
  simp only [t]
  split <;> simp

@[simp] theorem State.l2Miss_keyring (s : State) (die pa loc : ℕ) (tracked nt guest : Bool) (cls : Option ℕ) :
    (s.l2Miss die pa loc tracked nt guest cls).keyring = s.keyring := by
  unfold State.l2Miss
  extract_lets room t
  have ht : t.keyring = s.keyring := by
    simp only [t]
    split <;> simp
  split <;> exact ht

@[simp] theorem State.l2Place_keyring (s : State) (die pa loc : ℕ) (tracked nt guest : Bool) :
    (s.l2Place die pa loc tracked nt guest).keyring = s.keyring := by
  unfold State.l2Place
  dsimp only
  split <;> simp

@[simp] theorem State.aliasCheck_keyring (s : State) (die pa : ℕ) (tracked : Bool) (core asid : ℕ) :
    (s.aliasCheck die pa tracked core asid).keyring = s.keyring := by
  unfold State.aliasCheck
  split
  · split
    · rfl
    · exact s.purgeLine_keyring pa
  · rfl

@[simp] theorem State.noteAlias_keyring (s : State) (pa loc : ℕ) : (s.noteAlias pa loc).keyring = s.keyring :=
  State.foldl_keeps (F := State.keyring) (fun t x => by simp) _ s

@[simp] theorem State.l2Touch_keyring (s : State) (die pa loc : ℕ) (tracked nt : Bool) (core asid : ℕ) :
    (s.l2Touch die pa loc tracked nt core asid).keyring = s.keyring := by
  simp [State.l2Touch]

theorem State.keyAt_congr {s t : State} (hk : t.keyring = s.keyring) (hf : t.f = s.f) (line : ℕ) :
    t.keyAt line = s.keyAt line := by
  have hl : t.k.lineKey = s.k.lineKey := congrArg Keyring.line hk
  have hb : t.k.keyBase = s.k.keyBase := congrArg Keyring.base hk
  unfold State.keyAt State.lineAway
  rw [hl, hb, hf]

theorem State.keyId_congr {s t : State} (hk : t.keyring = s.keyring) (hf : t.f = s.f) (line k : ℕ) :
    t.keyId line k = s.keyId line k := by
  have hg : t.k.keyGen = s.k.keyGen := congrArg Keyring.gen hk
  have hb : t.k.keyBase = s.k.keyBase := congrArg Keyring.base hk
  unfold State.keyId State.lineAway
  rw [hg, hb, hf]

/-! ### A touch under a line's own key -/

/-- A state without its caches and its tenures: what a touch under a line's own key leaves. -/
def State.untouched (s : State) : State := { s.uncached with e.tens := [] }

theorem State.untouched_of_uncached {s t : State} (h : t.uncached = s.uncached) : t.untouched = s.untouched :=
  congrArg (fun q : State => { q with e.tens := [] }) h

theorem State.mscTouch_untouched (s : State) (loc pa key : ℕ) (chain : Option (ℕ × ℕ)) (dirty : Bool) :
    (s.mscTouch loc pa key chain dirty).untouched = s.untouched := by
  obtain ⟨l, hl⟩ := s.mscTouch_eq loc pa key chain dirty
  rw [hl]
  rfl

theorem State.mscTouch_keyring (s : State) (loc pa key : ℕ) (chain : Option (ℕ × ℕ)) (dirty : Bool) :
    (s.mscTouch loc pa key chain dirty).keyring = s.keyring := by
  obtain ⟨l, hl⟩ := s.mscTouch_eq loc pa key chain dirty
  rw [hl]
  rfl

/-- An access to a page stands under the key of its line, or in host memory, which has none (R381). -/
def State.keyed? (s : State) (lf : Leaf) (va : ℕ) : Prop :=
  inHost (lf.pa va) = true ∨ s.keyAt (s.locOf lf (lf.pa va) / 128) = s.keyId (s.locOf lf (lf.pa va) / 128) lf.key

section
variable {s : State} {lf : Leaf} {va : ℕ} (h : s.keyed? lf va) (ag : Agent) (core : ℕ) (chain : Option (ℕ × ℕ)) (write : Bool)
include h

/-- A touch under a line's own key is one of the caches and the tenures alone (R257, R287, R381). -/
theorem State.homeTouch_keeps {β : Type} {F : State → β}
    (hmsc : ∀ t loc pa key chain dirty, F (State.mscTouch t loc pa key chain dirty) = F t)
    (hbreach : ∀ t ag pa write, F (State.breach t ag pa write) = F t)
    (hl2 : ∀ t die pa loc tracked nt core asid, F (State.l2Touch t die pa loc tracked nt core asid) = F t) :
    F (s.homeTouch ag core chain lf va write) = F s := by
  unfold State.homeTouch
  dsimp only
  obtain h | h := h
  · rw [if_pos h, hbreach]
  · rw [State.rekey_same h]
    split
    · exact hbreach ..
    · split
      · rfl
      · split
        · exact (hbreach ..).trans (hmsc ..)
        · exact (hl2 ..).trans ((hbreach ..).trans (hmsc ..))

theorem State.engineTouch_untouched : (s.engineTouch ag core chain lf va write).untouched = s.untouched :=
  State.homeTouch_keeps (s := s.missWalks core ag.asid [va]) h ag core chain write State.mscTouch_untouched
    (fun _ _ _ _ => rfl) fun t _ _ _ _ _ _ _ => State.untouched_of_uncached (t.l2Touch_uncached ..)

theorem State.engineTouch_keyring : (s.engineTouch ag core chain lf va write).keyring = s.keyring :=
  State.homeTouch_keeps (s := s.missWalks core ag.asid [va]) h ag core chain write State.mscTouch_keyring
    (fun _ _ _ _ => rfl) fun t _ _ _ _ _ _ _ => t.l2Touch_keyring ..

end

/-! ### The engines' lists -/

/-- The engines' lists but for the tenures, whose lines a breach notes (R288). -/
def State.engines (s : State) : Engines := { s.e with tens := [] }

theorem State.rekey_e (s : State) (loc pa key : ℕ) : (s.rekey loc pa key).e = s.e := by
  have hkey : ∀ (t : State) (l : Tab ℕ ℕ), State.e { t with k.lineKey := l } = t.e := fun _ _ => rfl
  unfold State.rekey
  extract_lets line old new
  split
  · rfl
  · exact (hkey _ _).trans (s.writeBytes_e ..)

theorem State.e_of_uncached {s t : State} (h : t.uncached = s.uncached) : t.e = s.e := (congrArg State.e h :)

theorem State.engines_of_uncached {s t : State} (h : t.uncached = s.uncached) : t.engines = s.engines :=
  congrArg (fun q : State => { q.e with tens := [] }) h

theorem State.engines_of_e {s t : State} (h : t.e = s.e) : t.engines = s.engines :=
  congrArg (fun e : Engines => { e with tens := [] }) h

theorem State.homeTouch_engines (s : State) (ag : Agent) (core : ℕ) (chain : Option (ℕ × ℕ)) (lf : Leaf) (va : ℕ)
    (write : Bool) : (s.homeTouch ag core chain lf va write).engines = s.engines := by
  have hkey := State.engines_of_e (s.rekey_e (s.locOf lf (lf.pa va)) (lf.pa va) lf.key)
  have hbreach : ∀ (t : State) (ag : Agent) (pa : ℕ) (write : Bool), (t.breach ag pa write).engines = t.engines :=
    fun _ _ _ _ => rfl
  unfold State.homeTouch
  dsimp only
  split
  · exact hbreach ..
  · split
    · exact hkey
    · have hmsc := (hbreach ((s.rekey (s.locOf lf (lf.pa va)) (lf.pa va) lf.key).mscTouch (s.locOf lf (lf.pa va)) (lf.pa va)
        lf.key chain write) ag (lf.pa va) write).trans ((State.engines_of_e (State.mscTouch_e ..)).trans hkey)
      split
      · exact hmsc
      · exact (State.engines_of_uncached (State.l2Touch_uncached ..)).trans hmsc

theorem State.engineTouch_engines (s : State) (ag : Agent) (core : ℕ) (chain : Option (ℕ × ℕ)) (lf : Leaf) (va : ℕ)
    (write : Bool) : (s.engineTouch ag core chain lf va write).engines = s.engines := by
  exact (s.missWalks core ag.asid [va]).homeTouch_engines ag core chain lf va write

@[simp] theorem State.entryRoom_uncached (s : State) (die slice : ℕ) (keep : Region → Bool) :
    (s.entryRoom die slice keep).uncached = s.uncached := by
  have hentry : ∀ r : Region, (s.dropEntry r).uncached = s.uncached := fun r =>
    State.foldl_uncached (fun t c => t.dropRegion_uncached _ _ _ c) r.sharers s
  unfold State.entryRoom
  dsimp only
  split
  · rfl
  · split
    · exact hentry _
    · rfl

@[simp] theorem State.splitFor_uncached (s : State) (writer : Option ℕ) (die pa : ℕ) :
    (s.splitFor writer die pa).1.uncached = s.uncached := by
  have hregions : ∀ (t : State) (l : List Region), State.uncached { t with k.regions := l } = t.uncached := fun _ _ => rfl
  unfold State.splitFor
  split
  · rfl
  · dsimp only
    split
    · rfl
    · refine (hregions _ _).trans ?_
      split <;> simp

theorem State.conflictNow_uncached (s : State) (pa : ℕ) : (s.conflictNow pa).uncached = s.uncached :=
  (State.dropGuests_uncached ..).trans (State.foldl_uncached (fun t d =>
    (State.foldl_uncached (fun u c => u.dropRegion_uncached _ _ _ c) _ _).trans (t.splitFor_uncached none d pa)) _ s)

theorem State.store_e (s : State) (a v n : ℕ) : (s.store a v n).e = s.e := by
  have htrigger : ∀ (t : State) (line : ℕ), (t.triggerLine line).e = t.e := fun _ _ => rfl
  exact (htrigger _ _).trans (s.writeBytes_e a v n)

theorem State.homeWrite_e (s : State) (lf : Leaf) (pa loc v n : ℕ) (msc : Bool) :
    (s.homeWrite lf pa loc v n msc).e = s.e := by
  have hstore : ∀ t : State, (t.store loc v n).e = t.e := fun t => t.store_e loc v n
  have hstoreAt : ∀ (t : State) (upd : Holder → Bool), (t.storeAt loc v n upd).e = t.e := fun t _ => hstore t
  have hquiet : (if lf.ut then s else s.conflictNow pa).e = s.e := by
    split
    · rfl
    · exact State.e_of_uncached (s.conflictNow_uncached pa)
  unfold State.homeWrite
  split
  · exact hstore s
  · split
    · rfl
    · split
      · refine (hstoreAt _ _).trans ?_
        cases msc with
        | true => exact hquiet
        | false => exact (State.e_of_uncached (State.addSnap_uncached ..)).trans hquiet
      · exact hstoreAt _ _

end Sys2Proof.Machine

/-! SUPPORT. The re-shard engine's commands (R438 to R446): acceptance, the bytes of a row, the record, and the end. -/

namespace Sys2Proof.Machine

/-! ### Bytes and words of the engine -/

theorem State.modeOf_untouched {s t : State} (h : t.untouched = s.untouched) (lf : Leaf) : t.modeOf lf = s.modeOf lf :=
  State.modeOf_congr (congrArg State.f h :) lf

theorem State.locOf_untouched {s t : State} (h : t.untouched = s.untouched) (lf : Leaf) (pa : ℕ) :
    t.locOf lf pa = s.locOf lf pa := by
  have hf : t.f = s.f := (congrArg State.f h :)
  have hp : t.p = s.p := (congrArg State.p h :)
  unfold State.locOf State.devOf
  rw [State.modeOf_untouched h, hf, hp]

theorem State.mem_untouched {s t : State} (h : t.untouched = s.untouched) : t.m.mem = s.m.mem :=
  (congrArg (fun q : State => q.m.mem) h :)

theorem State.retiredAt_untouched {s t : State} (h : t.untouched = s.untouched) (lf : Leaf) (pa : ℕ) :
    t.retiredAt lf pa = s.retiredAt lf pa :=
  State.retiredAt_congr (congrArg State.f h :) (congrArg (fun q : State => q.m.retiredPc) h :) lf pa

theorem State.keyed?_untouched {s t : State} (h : t.untouched = s.untouched) (hk : t.keyring = s.keyring) {lf : Leaf} {va : ℕ}
    (hs : s.keyed? lf va) : t.keyed? lf va := by
  have hf : t.f = s.f := (congrArg State.f h :)
  unfold State.keyed?
  rw [State.locOf_untouched h, State.keyAt_congr hk hf, State.keyId_congr hk hf]
  exact hs

theorem State.poisonBytes_poisoned (s : State) (a : ℕ) : (s.poisonBytes a 1).poisoned a 1 = true := by
  refine List.any_eq_true.2 ⟨a, ?_, by simp⟩
  change a ∈ (if a ∈ s.m.poison then s.m.poison else s.m.poison ++ [a])
  split
  · assumption
  · simp

/-- A byte of an engine written to a page (R291, R445). -/
theorem State.engineByte_mem {s : State} {lf : Leaf} {pa : ℕ} (h : s.retiredAt lf pa = false) (team core loc v : ℕ)
    (poison : Bool) : (s.engineByte team core (loc, some lf) pa v poison).m.mem = (s.writeBytes loc v 1).m.mem := by
  have hret : (s.squashBy none team core).retiredAt lf pa = false := h
  have hwrite := (State.homeWrite_mem hret loc v 1 false).trans
    (State.writeBytes_mem_congr (t := s) (rfl : (s.squashBy none team core).m.mem = s.m.mem) loc v 1)
  cases poison with
  | true => exact (State.poisonBytes_mem ..).trans hwrite
  | false => exact hwrite

theorem State.load_one_lt (s : State) (a : ℕ) : s.load a 1 < 256 := by
  rw [State.load, Memory.read_one]
  exact BitVec.isLt _

/-- A byte of a row that can be read without poison reads so as the engine meets it (R445). -/
theorem State.rshBad_of_leaf {s : State} {r : Rsh} {va : ℕ} {a : Leaf} (h : s.rshSeek r va false = some a) :
    (s.rshBad r va).isSome = (s.poisoned (s.locOf a (a.pa va)) 1 || s.retiredAt a (a.pa va) ||
      (inHost (a.pa va) && decide (s.u.ev.value = 1))) := by
  unfold State.rshBad
  rw [h, Option.filter_some]
  split <;> simp_all

/-- The state in which a row's byte is written: its source and its destination have been touched (R257, R439). -/
def State.rshTouched (s : State) (r : Rsh) (a d : Leaf) (b : ℕ × ℕ) : State :=
  (s.engineTouch (s.rshAgent r) r.core (s.rshChain r) a b.2 false).engineTouch (s.rshAgent r) r.core (s.rshChain r) d b.1 true

section
variable {s : State} {r : Rsh} {b : ℕ × ℕ} {a d : Leaf}

theorem State.rshTouched_untouched (ha : s.keyed? a b.2) (hd : s.keyed? d b.1) :
    (s.rshTouched r a d b).untouched = s.untouched := by
  have h1 := State.engineTouch_untouched ha (s.rshAgent r) r.core (s.rshChain r) false
  have hk := State.engineTouch_keyring ha (s.rshAgent r) r.core (s.rshChain r) false
  exact (State.engineTouch_untouched (State.keyed?_untouched h1 hk hd) ..).trans h1

variable (ha : s.rshSeek r b.2 false = some a) (hd : s.rshSeek r b.1 true = some d) (hka : s.keyed? a b.2)
  (hkd : s.keyed? d b.1) (hret : s.retiredAt d (d.pa b.1) = false)
include ha hd hka hkd hret

/-- A byte of a row is read at its source and written at its destination (R438, R445). -/
theorem State.rshByte_eq : s.rshByte r b =
    let u := (s.rshTouched r a d b).engineByte r.team r.core (s.locOf d (d.pa b.1), some d) (d.pa b.1)
      (s.load (s.locOf a (a.pa b.2)) 1) (s.rshBad r b.2).isSome
    if (s.rshBad r b.2).isSome then u.modRsh r.id fun x => { x with poison := true } else u := by
  have h1 := State.engineTouch_untouched hka (s.rshAgent r) r.core (s.rshChain r) false
  have h2 := State.rshTouched_untouched (r := r) (b := b) hka hkd
  have hret' : (s.rshTouched r a d b).retiredAt d (d.pa b.1) = false := (State.retiredAt_untouched h2 ..).trans hret
  have hload := State.load_of_mem (State.mem_untouched h1) (s.locOf a (a.pa b.2)) 1
  unfold State.rshByte
  rw [ha, hd]
  dsimp only
  rw [show (s.engineTouch (s.rshAgent r) r.core (s.rshChain r) a b.2 false).engineTouch (s.rshAgent r) r.core (s.rshChain r) d b.1
    true = s.rshTouched r a d b from rfl, hret', State.locOf_untouched h1, State.locOf_untouched h2, hload]
  rfl

theorem State.rshByte_mem : (s.rshByte r b).m.mem =
    (s.writeBytes (s.locOf d (d.pa b.1)) (s.load (s.locOf a (a.pa b.2)) 1) 1).m.mem := by
  have h2 := State.rshTouched_untouched (r := r) (b := b) hka hkd
  have hret' : (s.rshTouched r a d b).retiredAt d (d.pa b.1) = false := (State.retiredAt_untouched h2 ..).trans hret
  have hmod : ∀ (t : State) (f : Rsh → Rsh), (t.modRsh r.id f).m = t.m := fun _ _ => rfl
  have hbyte := fun bad => (State.engineByte_mem hret' r.team r.core (s.locOf d (d.pa b.1)) (s.load (s.locOf a (a.pa b.2)) 1)
    bad).trans (State.writeBytes_mem_congr (State.mem_untouched h2) _ _ 1)
  rw [State.rshByte_eq ha hd hka hkd hret]
  dsimp only
  split
  · rw [hmod]
    exact hbyte _
  · exact hbyte _

/-- A poisoned source byte poisons its destination and the command (R445). -/
theorem State.rshByte_poisons (hbad : (s.rshBad r b.2).isSome = true) :
    (s.rshByte r b).poisoned (s.locOf d (d.pa b.1)) 1 = true ∧
      ∀ x ∈ (s.rshByte r b).e.rsh, x.id = r.id → x.poison = true := by
  have hmod : ∀ (t : State) (f : Rsh → Rsh) (p n : ℕ), (t.modRsh r.id f).poisoned p n = t.poisoned p n := fun _ _ _ _ => rfl
  rw [State.rshByte_eq ha hd hka hkd hret, hbad]
  refine ⟨(hmod _ _ _ _).trans (State.poisonBytes_poisoned ..), fun x hx hid => ?_⟩
  obtain ⟨y, -, rfl⟩ := List.mem_map.1 hx
  split
  · rfl
  · next hy => exact absurd (by rwa [if_neg hy] at hid) hy

end

/-! ### The record -/

/-- Memory whose bytes hold a value reads as that value (R15). -/
theorem Memory.read_of_bytes {m : List Host.Cell} {a v n : ℕ}
    (h : ∀ i, i < n → Memory.read m (a + i) 1 = v / 256 ^ i % 256) : Memory.read m a n = v % 256 ^ n := by
  induction n generalizing a v with
  | zero => simp [Memory.read, Nat.mod_one]
  | succ n ih =>
    have h0 : (Memory.get m a).toNat = v % 256 := by simpa [Memory.read_one] using h 0 n.succ_pos
    have hrest : Memory.read m (a + 1) n = v / 256 % 256 ^ n := ih fun i hi => by
      have := h (i + 1) (by omega)
      rw [Nat.pow_succ', ← Nat.div_div_eq_div_mul] at this
      rwa [Nat.add_assoc, Nat.add_comm 1 i]
    rw [Memory.read, h0, hrest, Nat.pow_succ', Nat.mod_mul]

section
variable {s : State} {r : Rsh} {i : ℕ}

theorem State.setRec_mem (hret : s.retiredAt r.page (r.page.pa (r.recVa + 4 * i)) = false)
    (hkey : s.keyed? r.page (r.recVa + 4 * i)) (v : ℕ) : (s.setRec r i v).m.mem =
      (s.writeBytes (s.locOf r.page (r.page.pa (r.recVa + 4 * i))) v 4).m.mem := by
  have h := State.engineTouch_untouched hkey (s.rshAgent r) r.core (s.rshChain r) true
  exact (State.homeWrite_mem ((State.retiredAt_untouched h ..).trans hret) ..).trans
    (State.writeBytes_mem_congr (State.mem_untouched h) _ v 4)

/-- A word of the record is written, and no other byte changes (R441). -/
theorem State.setRec_word (hw : s.MemWf) (hret : s.retiredAt r.page (r.page.pa (r.recVa + 4 * i)) = false)
    (hkey : s.keyed? r.page (r.recVa + 4 * i)) (v : ℕ) :
    let loc := s.locOf r.page (r.page.pa (r.recVa + 4 * i))
    (s.setRec r i v).load loc 4 = v % 2 ^ 32 ∧ ∀ b, b < loc ∨ loc + 4 ≤ b → (s.setRec r i v).load b 1 = s.load b 1 := by
  obtain ⟨hin, hout⟩ := State.load_written hw (State.setRec_mem hret hkey v)
  exact ⟨Memory.read_of_bytes hin, hout⟩

end

theorem State.setRec_engines (s : State) (r : Rsh) (i v : ℕ) : (s.setRec r i v).engines = s.engines :=
  (State.engines_of_e (State.homeWrite_e ..)).trans (State.engineTouch_engines ..)

/-! ### A command begins -/

theorem State.rshAnswer_eq {s : State} {r : Rsh} {p : Split} (hp : s.split? r.sid = some p) (code : ℕ) : s.rshAnswer r code =
    (p.slices.foldl (fun t c => t.setS ⟨p.team, p.group, c⟩ r.sd (BitVec.ofNat 32 code)) s).modSplit r.sid
      fun x => { x with park := .run } := by
  simp only [State.rshAnswer, hp]

/-- A value written to a register of some slices stands in each of them. -/
theorem State.foldl_setS_getS {cs : List ℕ} {c t g n : ℕ} {w : Word} (s : State) (h : c ∈ cs ∨ s.getS ⟨t, g, c⟩ n = w) :
    (cs.foldl (fun u i => u.setS ⟨t, g, i⟩ n w) s).getS ⟨t, g, c⟩ n = w := by
  induction cs generalizing s with
  | nil => exact h.resolve_left (List.not_mem_nil)
  | cons i cs ih =>
    refine ih _ ?_
    rw [State.getS_setS]
    by_cases hi : i = c
    · exact .inr (if_pos (by rw [hi]))
    · refine (h.imp (fun hc => List.mem_of_ne_of_mem (Ne.symm hi) hc) fun hs => ?_)
      rwa [if_neg fun e => hi (congrArg (fun q : SliceId × ℕ => q.1.s) e)]

/-- Everything but the S registers. -/
def State.beyondS (s : State) : State := { s with r.sr := [] }

theorem State.foldl_setS_beyond (cs : List ℕ) (t g n : ℕ) (w : Word) (s : State) :
    (cs.foldl (fun u i => u.setS ⟨t, g, i⟩ n w) s).beyondS = s.beyondS :=
  State.foldl_keeps (f := fun u i => u.setS ⟨t, g, i⟩ n w) (F := State.beyondS) (fun _ _ => rfl) cs s

/-- The engine's answer stands in Sd of every slice of the split, which waits no more (R443). -/
theorem State.rshAnswer_answers {s : State} {r : Rsh} {p : Split} (hp : s.split? r.sid = some p) (code : ℕ) :
    (∀ c ∈ p.slices, (s.rshAnswer r code).getS ⟨p.team, p.group, c⟩ r.sd = BitVec.ofNat 32 code) ∧
      (s.rshAnswer r code).split? r.sid = some { p with park := .run } ∧ (s.rshAnswer r code).m = s.m := by
  have hbeyond := State.foldl_setS_beyond p.slices p.team p.group r.sd (BitVec.ofNat 32 code) s
  have hx : (p.slices.foldl (fun u i => u.setS ⟨p.team, p.group, i⟩ r.sd (BitVec.ofNat 32 code)) s).x = s.x :=
    (congrArg State.x hbeyond :)
  rw [State.rshAnswer_eq hp]
  refine ⟨fun c hc => State.foldl_setS_getS s (.inl hc), State.split?_modSplit ?_ rfl, (congrArg State.m hbeyond :)⟩
  rw [State.split?, hx]
  exact hp

theorem State.rshAnswer_e (s : State) (r : Rsh) (code : ℕ) : (s.rshAnswer r code).e = s.e := by
  cases hp : s.split? r.sid with
  | none => simp only [State.rshAnswer, hp]
  | some p =>
    rw [State.rshAnswer_eq hp]
    exact (congrArg State.e (State.foldl_setS_beyond p.slices p.team p.group r.sd (BitVec.ofNat 32 code) s) :)

/-- A change of commands that keeps what a command is, up to its phase and its last write. -/
def Rsh.begun (x y : Rsh) : Prop :=
  y.id = x.id ∧ y.step = x.step ∧ y.bytes = x.bytes ∧ y.resumed = x.resumed ∧ y.phase ≠ .asked

theorem State.rshPromote_reqs (s : State) (die : ℕ) : (s.rshPromote die).e.reqs = s.e.reqs := by
  unfold State.rshPromote
  dsimp only
  (repeat' split) <;> rfl

theorem State.rshPromote_begun {s : State} {x : Rsh} (hx : x ∈ s.e.rsh) (hph : x.phase ≠ .asked) (die : ℕ) :
    ∃ y ∈ (s.rshPromote die).e.rsh, x.begun y := by
  unfold State.rshPromote
  dsimp only
  split
  · exact ⟨x, hx, rfl, rfl, rfl, rfl, hph⟩
  · split
    · next q _ =>
      refine ⟨_, List.mem_map_of_mem hx, ?_⟩
      split
      · exact ⟨rfl, rfl, rfl, rfl, by simp⟩
      · exact ⟨rfl, rfl, rfl, rfl, hph⟩
    · exact ⟨x, hx, rfl, rfl, rfl, rfl, hph⟩

theorem State.writeProgress_engines (s : State) (r : Rsh) : (s.writeProgress r).engines =
    (s.modRsh r.id fun x => { x with lastWrite := s.u.clk }).engines := by
  have hrecs := ((((s.setRec r 0 r.step).setRec r 1 r.steps).setRec r 2 (r.bytes % 2 ^ 32)).setRec_engines r 3
    (r.bytes / 2 ^ 32)).trans ((State.setRec_engines ..).trans ((State.setRec_engines ..).trans (State.setRec_engines ..)))
  exact congrArg (fun e : Engines =>
    { e with rsh := e.rsh.map fun (x : Rsh) => if x.id = r.id then { x with lastWrite := s.u.clk } else x }) hrecs

theorem State.rsh_of_engines {s t : State} (h : t.engines = s.engines) : t.e.rsh = s.e.rsh := (congrArg Engines.rsh h :)

theorem State.reqs_of_engines {s t : State} (h : t.engines = s.engines) : t.e.reqs = s.e.reqs := (congrArg Engines.reqs h :)

/-- The state in which a command has joined its engine's and, for a tenure of its own, the arrival order (R439, R444). -/
def State.rshQueued (s : State) (x : Rsh) (ask : List Tenure) : State :=
  { s with e.rsh := (s.e.rsh.filter fun y => decide (y.id ≠ x.id)) ++ [x], e.reqs := s.e.reqs ++ ask }

/-- A command that has joined its engine is there once its record and its answer are written (R444). -/
theorem State.rshQueued_begins {s : State} {x : Rsh} {ask : List Tenure} (hph : x.phase ≠ .asked) (v : ℕ) :
    let t := ((((s.rshQueued x ask).setRec x 4 v).writeProgress x).rshAnswer x 0).rshPromote x.die
    (∃ y ∈ t.e.rsh, x.begun y) ∧ t.e.reqs = s.e.reqs ++ ask := by
  intro t
  have hanswer : ((((s.rshQueued x ask).setRec x 4 v).writeProgress x).rshAnswer x 0).engines =
      (((s.rshQueued x ask).setRec x 4 v).modRsh x.id
        fun y => { y with lastWrite := ((s.rshQueued x ask).setRec x 4 v).u.clk }).engines :=
    (State.engines_of_e (State.rshAnswer_e ..)).trans (State.writeProgress_engines ..)
  have hrec := (s.rshQueued x ask).setRec_engines x 4 v
  have hrsh : ((s.rshQueued x ask).setRec x 4 v).e.rsh = (s.e.rsh.filter fun y => decide (y.id ≠ x.id)) ++ [x] :=
    State.rsh_of_engines hrec
  have hreqs : ((s.rshQueued x ask).setRec x 4 v).e.reqs = s.e.reqs ++ ask := State.reqs_of_engines hrec
  refine ⟨?_, (State.rshPromote_reqs ..).trans ((State.reqs_of_engines hanswer).trans hreqs)⟩
  have hmem : { x with lastWrite := ((s.rshQueued x ask).setRec x 4 v).u.clk } ∈
      ((((s.rshQueued x ask).setRec x 4 v).writeProgress x).rshAnswer x 0).e.rsh := by
    rw [State.rsh_of_engines hanswer]
    refine List.mem_map.2 ⟨x, ?_, if_pos rfl⟩
    rw [hrsh]
    exact List.mem_append_right _ (List.mem_singleton_self x)
  obtain ⟨y, hy, h⟩ := State.rshPromote_begun hmem hph x.die
  exact ⟨y, hy, h⟩

/-- An accepted command whose record says that it has ended ends at once (R444). -/
theorem State.rshBegin_done {s : State} {r : Rsh} (h : s.rshDone r = true) : s.rshBegin r =
    (((s.setRec r 4 (s.recWordAt r 4)).rshAnswer r 0).rshDeliver r (some (BitVec.ofNat 32 (s.recWordAt r 4)))).dropRsh r :=
  if_pos h

/-- A command as it begins, afresh or from its recorded progress (R444). -/
def State.rshFresh (s : State) (r : Rsh) : Rsh :=
  let w := s.recWordAt r
  let again := decide (w 5 = r.crc ∧ w 1 = r.steps)
  { r with
    phase := .queued, step := if again then w 0 else 0, bytes := if again then w 2 + 2 ^ 32 * w 3 else 0
    resumed := again, lastWrite := s.u.clk }

/-- The request for a tenure of a command's own (R439). -/
def State.rshAsks (s : State) (r : Rsh) : List Tenure :=
  if r.own then [{ holder := .reshard r.id, team := r.team, write := true, tile := some (s.tileOf r.handle).key
                   foot := (s.tileOf r.handle).foot, since := s.u.clk }]
  else []

theorem State.rshBegin_fresh {s : State} {r : Rsh} (h : s.rshDone r = false) : s.rshBegin r =
    ((((s.rshQueued (s.rshFresh r) (s.rshAsks r)).setRec (s.rshFresh r) 4 (s.recWordAt r 4 ||| 2 ^ 28)).writeProgress
      (s.rshFresh r)).rshAnswer (s.rshFresh r) 0).rshPromote (s.rshFresh r).die := by
  unfold State.rshBegin
  dsimp only
  rw [if_neg (Bool.eq_false_iff.1 h)]
  rfl

/-- Another begins, afresh or from its recorded progress, and asks for its tenure (R439, R444). -/
theorem State.rshBegin_begins {s : State} {r : Rsh} (h : s.rshDone r = false) :
    let w := s.recWordAt r
    let again := decide (w 5 = r.crc ∧ w 1 = r.steps)
    let t := s.rshBegin r
    (∃ x ∈ t.e.rsh, x.id = r.id ∧ x.step = (if again = true then w 0 else 0) ∧
      x.bytes = (if again = true then w 2 + 2 ^ 32 * w 3 else 0) ∧ x.resumed = again ∧ x.phase ≠ .asked) ∧
    t.e.reqs = s.e.reqs ++ s.rshAsks r := by
  intro w again t
  have hph : (s.rshFresh r).phase ≠ .asked := nofun
  obtain ⟨⟨y, hy, hid, hstep, hbytes, hres, hy'⟩, hreqs⟩ := State.rshQueued_begins (s := s) (ask := s.rshAsks r) hph
    (w 4 ||| 2 ^ 28)
  have ht : t = _ := State.rshBegin_fresh h
  rw [ht]
  exact ⟨⟨y, hy, hid, hstep, hbytes, hres, hy'⟩, hreqs⟩

/-! ### Steps -/

theorem Rsh.mayStart_iff (s : State) (r : Rsh) (k : ℕ) : s.rshMayStart r k = true ↔ r.todo k = true ∧
    ((∃ j ∈ s.rshRecalled r, r.todo j = true) → k ∈ s.rshRecalled r) := by
  simp only [State.rshMayStart, Bool.and_eq_true, Bool.or_eq_true, List.isEmpty_iff, List.filter_eq_nil_iff, decide_eq_true_eq,
    List.mem_filter]
  refine and_congr_right fun hk => ⟨?_, fun h => ?_⟩
  · rintro (h | h) ⟨j, hj, hjt⟩
    · exact absurd hjt (h j hj)
    · exact h.1
  · by_cases hex : ∃ j ∈ s.rshRecalled r, r.todo j = true
    · exact .inr ⟨h hex, hk⟩
    · exact .inl fun j hj hjt => hex ⟨j, hj, hjt⟩

theorem State.rshOwes_iff (s : State) (r : Rsh) (pa : ℕ) :
    s.rshOwes r pa = true ↔ ∃ k ∈ s.rshSteps r pa, r.stop = none ∨ ∃ x ∈ r.started, x.1 = k := by
  simp only [State.rshOwes, List.any_eq_true, Bool.or_eq_true, Option.isNone_iff_eq_none, decide_eq_true_eq]

/-- A stopped command with no step in flight owes nothing (R440). -/
theorem State.rshOwes_stopped {s : State} {r : Rsh} (hstop : r.stop.isSome = true) (hstart : r.started = []) (pa : ℕ) :
    s.rshOwes r pa = false := by
  refine Bool.eq_false_iff.2 fun h => ?_
  obtain ⟨k, -, hnone | ⟨x, hx, -⟩⟩ := (s.rshOwes_iff r pa).1 h
  · rw [hnone] at hstop
    exact nomatch hstop
  · rw [hstart] at hx
    exact nomatch hx

/-- A recall waits for the steps that are to write to its line (R287, R440). -/
theorem State.holderClear_owed {s : State} {r : Rsh} {ag : Agent} {pa : ℕ} (hr : r ∈ s.e.rsh) (hag : ag.engine = none)
    (howes : s.rshOwes r pa = true) (loc seq : ℕ) : s.holderClear ag r.holding pa loc seq = false := by
  unfold State.holderClear Rsh.holding
  cases hown : r.own with
  | true =>
    rw [if_pos rfl, hag]
    refine List.all_eq_false.2 ⟨r, hr, ?_⟩
    simp [howes]
  | false =>
    rw [if_neg Bool.false_ne_true, hag]
    refine Bool.and_eq_false_iff.2 (.inr (List.all_eq_false.2 ⟨r, hr, ?_⟩))
    simp [hown, howes]

/-- The event of poison that a row meets leaves everything but the lifetime counts (R400). -/
theorem State.poisonEvent_life (s : State) (lf : Option Leaf) (pa die : ℕ) :
    { s.poisonEvent lf pa die with p.life := s.p.life } = s := by
  unfold State.poisonEvent
  split
  · split <;> rfl
  · rfl

/-- A row moves byte by byte, after the event of the poison it meets (R400, R438). -/
theorem State.rshRow_bytes (s : State) (r : Rsh) (m : RowMove) :
    ∃ u, s.rshRow r m = (rowBytes m).foldl (fun (t : State) b => t.rshByte r b) u ∧ { u with p.life := s.p.life } = s ∧
      ((∀ b ∈ rowBytes m, s.rshBad r b.2 = none) → u = s) := by
  cases h : (rowBytes m).findSome? fun b => (s.rshBad r b.2).map fun lf => (lf, b.2) with
  | some x =>
    refine ⟨s.poisonEvent (some x.1) (x.1.pa x.2) r.die, by rw [State.rshRow, h], s.poisonEvent_life .., fun hnone => ?_⟩
    obtain ⟨b, hb, hx⟩ := List.exists_of_findSome?_eq_some h
    rw [hnone b hb] at hx
    exact nomatch hx
  | none => exact ⟨s, by rw [State.rshRow, h], rfl, fun _ => rfl⟩

section
variable {s : State} {r : Rsh} (hr : s.rsh? s.u.ev.id = some r)
include hr

theorem State.mem_of_rsh? : r ∈ s.e.rsh := List.mem_of_find?_eq_some hr

theorem execReshardAccept_eq (hph : r.phase = .asked) : exec .reshardAccept s =
    if (s.split? r.sid).isNone then .next (s.dropRsh r)
    else if !s.rshBehind r then .next s
    else
      let t := s.rshReads r
      let a := t.acceptance r
      if a.1 = 0 then .next (t.rshBegin a.2) else .next (((t.rshAnswer r a.1).rshDeliver r none).dropRsh r) := by
  simp only [exec, execReshardAccept, hr, hph, ne_eq, not_true_eq_false, if_false]

theorem execReshardStep_full (hflag : s.u.ev.flag = true) (hfull : 64 ≤ s.rshFlying r.die) :
    exec .reshardStepComplete s = .next s := by
  have hno : decide (s.rshFlying r.die < 64) = false := decide_eq_false (Nat.not_lt.2 hfull)
  simp only [exec, execReshardStepComplete, hr, hflag, hno, Bool.and_false, Bool.false_eq_true, if_false, if_true]

theorem execReshardStep_starts (hflag : s.u.ev.flag = true) (hgo : s.rshGoes r = true)
    (hmay : s.rshMayStart r s.u.ev.n = true) (hroom : s.rshFlying r.die < 64) : exec .reshardStepComplete s =
      .next (s.modRsh r.id fun x => { x with started := x.started ++ [(s.u.ev.n, s.u.clk)] }) := by
  simp only [exec, execReshardStepComplete, hr, hflag, hgo, hmay, decide_eq_true hroom, Bool.and_self, if_true]

theorem execReshardStep_eq {m : RowMove} {x : ℕ × ℕ} (hflag : s.u.ev.flag = false) (hm : r.plan[s.u.ev.n]? = some m)
    (hx : r.started.find? (fun x => decide (x.1 = s.u.ev.n)) = some x) : exec .reshardStepComplete s =
      let gone := fun (t : State) => t.modRsh r.id fun y => { y with started := y.started.erase x }
      if s.stepCode r m ≠ 0 then .next ((gone s).modRsh r.id fun y => { y with stop := some (y.stop.getD (s.stepCode r m)) })
      else if s.rshMayWrite r m = false then
        .next ((s.rshTargets r m).foldl (fun (t : State) x => t.callLine (s.rshAgent r) x.1 x.2 true) s)
      else .next ((gone (s.rshRow r m)).modRsh r.id fun y =>
        Rsh.settle { y with complete := y.complete ++ [s.u.ev.n] } r.plan (y.complete.length + 1)) := by
  simp only [exec, execReshardStepComplete, hr, hflag, hm, hx, Bool.not_eq_true', Bool.false_eq_true, if_false]

theorem execProgressWrite_writes (hph : r.phase ≠ .asked) : exec .progressWrite s = .next (s.writeProgress r) := by
  simp only [exec, execProgressWrite, hr, hph, if_false]

theorem execReshardStop_saves (hph : r.phase ≠ .asked) (hflag : s.u.ev.flag = false)
    (h : s.rshAborted r = true ∨ (s.team r.team).status = .saving) :
    exec .reshardStop s = .next (s.modRsh r.id fun x => { x with stop := some (x.stop.getD 1) }) := by
  simp only [exec, execReshardStop, hr, hph, hflag, Bool.false_eq_true, if_false]
  exact if_pos h

theorem execReshardStop_limit {x : ℕ × ℕ} (hph : r.phase ≠ .asked) (hflag : s.u.ev.flag = true)
    (hx : r.started.find? (fun x => decide (x.1 = s.u.ev.n)) = some x) : exec .reshardStop s =
      if x.2 + 2 ^ 24 ≤ s.u.clk && (r.plan[x.1]?).any (s.rshAway r) then
        .next (s.modRsh r.id fun y => { y with started := y.started.erase x, stop := some (y.stop.getD 4) })
      else .next s := by
  simp only [exec, execReshardStop, hr, hph, hflag, hx, if_false, if_true]

end

/-! ### The end of a command -/

/-- A status word's number: DONE, the flags, the lines and the code (R441). -/
theorem Rsh.status_bits (b c : Bool) (n code : ℕ) :
    let v := 2 ^ 31 + (if b then 2 ^ 30 else 0) + (if c then 2 ^ 29 else 0) + min n 4095 * 2 ^ 16 + code % 16
    (BitVec.ofNat 32 v).getLsbD 31 = true ∧ (BitVec.ofNat 32 v).toNat % 16 = code % 16 := by
  intro v
  have hflags : v = 2 ^ 31 + (if b then 2 ^ 30 else 0) + (if c then 2 ^ 29 else 0) + min n 4095 * 2 ^ 16 + code % 16 := rfl
  have hb : (if b then 2 ^ 30 else 0 : ℕ) = 0 ∨ (if b then 2 ^ 30 else 0 : ℕ) = 2 ^ 30 := by cases b <;> simp
  have hc : (if c then 2 ^ 29 else 0 : ℕ) = 0 ∨ (if c then 2 ^ 29 else 0 : ℕ) = 2 ^ 29 := by cases c <;> simp
  have hn : min n 4095 ≤ 4095 := Nat.min_le_right ..
  have hdiv : v / 2 ^ 31 = 1 := by omega
  refine ⟨?_, ?_⟩
  · rw [BitVec.getLsbD_ofNat, Nat.testBit_eq_decide_div_mod_eq, hdiv]
    rfl
  · rw [BitVec.toNat_ofNat]
    omega

theorem State.rshStatus_bits (s : State) (r : Rsh) :
    (s.rshStatus r false).getLsbD 31 = true ∧ (s.rshStatus r false).toNat % 16 = r.code % 16 := Rsh.status_bits ..

theorem State.rshPromote_rest (s : State) (die : ℕ) :
    { s.rshPromote die with e.rsh := s.e.rsh } = s ∧ ∀ x ∈ (s.rshPromote die).e.rsh, ∃ y ∈ s.e.rsh, x.id = y.id := by
  have hmod : ∀ (i : ℕ) (f : Rsh → Rsh), (∀ y, (f y).id = y.id) → ∀ x ∈ (s.modRsh i f).e.rsh, ∃ y ∈ s.e.rsh, x.id = y.id := by
    intro i f hf x hx
    obtain ⟨y, hy, rfl⟩ := List.mem_map.1 hx
    refine ⟨y, hy, ?_⟩
    split
    · exact hf y
    · rfl
  unfold State.rshPromote
  dsimp only
  split
  · exact ⟨rfl, fun x hx => ⟨x, hx, rfl⟩⟩
  · split
    · exact ⟨rfl, hmod _ _ fun _ => rfl⟩
    · exact ⟨rfl, fun x hx => ⟨x, hx, rfl⟩⟩

/-- A command that is forgotten is gone, with its tenure and its request (R439, R446). -/
theorem State.dropRsh_gone (s : State) (r : Rsh) : (∀ x ∈ (s.dropRsh r).e.rsh, x.id ≠ r.id) ∧
    (∀ h ∈ (s.dropRsh r).e.tens, h.holder ≠ .reshard r.id) ∧ (∀ h ∈ (s.dropRsh r).e.reqs, h.holder ≠ .reshard r.id) ∧
    (s.dropRsh r).r = s.r := by
  obtain ⟨hrest, hrsh⟩ := State.rshPromote_rest ({ s with
    e.rsh := s.e.rsh.filter fun x => decide (x.id ≠ r.id)
    e.tens := s.e.tens.filter fun h => decide (h.holder ≠ .reshard r.id)
    e.reqs := s.e.reqs.filter fun h => decide (h.holder ≠ .reshard r.id) } : State) r.die
  have htens : (s.dropRsh r).e.tens = s.e.tens.filter fun h => decide (h.holder ≠ .reshard r.id) :=
    (congrArg (fun q : State => q.e.tens) hrest :)
  have hreqs : (s.dropRsh r).e.reqs = s.e.reqs.filter fun h => decide (h.holder ≠ .reshard r.id) :=
    (congrArg (fun q : State => q.e.reqs) hrest :)
  refine ⟨fun x hx => ?_, fun h hh => ?_, fun h hh => ?_, (congrArg State.r hrest :)⟩
  · obtain ⟨y, hy, hid⟩ := hrsh x hx
    exact hid ▸ of_decide_eq_true (List.mem_filter.1 hy).2
  · rw [htens] at hh
    exact of_decide_eq_true (List.mem_filter.1 hh).2
  · rw [hreqs] at hh
    exact of_decide_eq_true (List.mem_filter.1 hh).2

/-- A value written to a register of some lanes stands in each of them, full. -/
theorem State.foldl_setV_getV {ls : List ℕ} {l t g v : ℕ} {w : Word} (s : State)
    (h : l ∈ ls ∨ (s.getV ⟨t, g, l⟩ v = w ∧ s.isEmpty ⟨t, g, l⟩ v = false)) :
    let u := ls.foldl (fun u i => u.setV ⟨t, g, i⟩ v w) s
    u.getV ⟨t, g, l⟩ v = w ∧ u.isEmpty ⟨t, g, l⟩ v = false := by
  induction ls generalizing s with
  | nil => exact h.resolve_left (List.not_mem_nil)
  | cons i ls ih =>
    refine ih _ ?_
    rw [State.getV_setV, State.isEmpty_setV]
    by_cases hi : i = l
    · exact .inr ⟨if_pos (by rw [hi]), if_pos (by rw [hi])⟩
    · have hne : ¬((⟨t, g, i⟩ : LaneId), v) = (⟨t, g, l⟩, v) := fun e => hi (congrArg (fun q : LaneId × ℕ => q.1.l) e)
      rw [if_neg hne, if_neg hne]
      exact h.imp_left fun hl => List.mem_of_ne_of_mem (Ne.symm hi) hl

/-- The state in which a command's record is final (R446). -/
def State.rshFinal (s : State) (r : Rsh) : State :=
  ((((s.writeProgress r).setRec r 4 (s.rshStatus r false).toNat).setRec r 5 r.crc).setRec r 6
    (s.f.dev % 512 + r.die * 512)).setRec r 7 0

section
variable {s : State} {r : Rsh} (hr : s.rsh? s.u.ev.id = some r) (hph : r.phase ≠ .asked) (hstart : r.started = [])
  (hend : (r.phase = .running ∧ r.steps ≤ r.step) ∨ r.stop.isSome = true)
include hr hph hstart hend

theorem execReshardEnd_ends : exec .reshardEnd s = .next ((if s.rshAborted r = true then s.rshFinal r
    else (s.rshFinal r).rshDeliver r (some (s.rshStatus r false))).dropRsh r) := by
  have hgo : ¬(r.phase = .asked ∨ r.started ≠ [] ∨
      ¬(decide (r.phase = .running ∧ r.steps ≤ r.step) = true ∨ r.stop.isSome = true)) := by
    rintro (h | h | h)
    · exact hph h
    · exact h hstart
    · exact h (hend.imp_left decide_eq_true)
  simp only [exec, execReshardEnd, hr]
  exact if_neg hgo

/-- A command that has ended is gone with its tenure, its status delivered unless its grid was aborted (R446). -/
theorem execReshardEnd_delivers : ∃ t, exec .reshardEnd s = .next t ∧ (∀ x ∈ t.e.rsh, x.id ≠ r.id) ∧
    (∀ h ∈ t.e.tens, h.holder ≠ .reshard r.id) ∧ (∀ h ∈ t.e.reqs, h.holder ≠ .reshard r.id) ∧
    (∀ v, r.vs = some v → s.rshAborted r = false → ∀ l ∈ r.slanes,
      t.getV ⟨r.team, r.group, l⟩ v = s.rshStatus r false ∧ t.isEmpty ⟨r.team, r.group, l⟩ v = false) := by
  obtain ⟨hrsh, htens, hreqs, hregs⟩ := State.dropRsh_gone (if s.rshAborted r = true then s.rshFinal r
    else (s.rshFinal r).rshDeliver r (some (s.rshStatus r false))) r
  refine ⟨_, execReshardEnd_ends hr hph hstart hend, hrsh, htens, hreqs, fun v hv hab l hl => ?_⟩
  unfold State.getV State.isEmpty
  rw [hregs, if_neg (Bool.eq_false_iff.1 hab), State.rshDeliver, hv]
  exact State.foldl_setV_getV _ (.inl hl)

end

/-- Settles O60: each event is its branch of the engine's, whose touches under a line's own key leave memory and keys as they
are. -/
theorem reshardEvents : Obligations.ReshardEvents := by
  unfold Obligations.ReshardEvents
  intro s r hr
  refine ⟨fun hph hsp hb => ?behind, by simp [State.rshBehind], fun hph hsp hb => ?accept, fun hph hsp => ?gone,
    ⟨fun hd => State.rshBegin_done hd, fun hd => State.rshBegin_begins hd⟩, fun b a d hw ha hd => ?byte,
    fun i v hw hkey hret => State.setRec_word hw hret hkey v, fun p code hp => State.rshAnswer_answers hp code,
    fun k => Rsh.mayStart_iff s r k, fun pa => ⟨s.rshOwes_iff r pa, fun hs hst => State.rshOwes_stopped hs hst pa⟩,
    fun ag pa loc seq hag ho => State.holderClear_owed (State.mem_of_rsh? hr) hag ho loc seq,
    fun hf hfull => execReshardStep_full hr hf hfull, fun hf hgo hmay hroom => execReshardStep_starts hr hf hgo hmay hroom,
    fun m x hf hm hx => ?step, fun m => s.rshRow_bytes r m, fun hph => execProgressWrite_writes hr hph,
    fun hph hf h => execReshardStop_saves hr hph hf h, fun x hph hf hx => ?limit,
    fun hph hst he => execReshardEnd_ends hr hph hst he, fun hph hst he => execReshardEnd_delivers hr hph hst he,
    s.rshStatus_bits r⟩
  case behind => exact (execReshardAccept_eq hr hph).trans (by rw [Option.isNone_eq_false_iff.2 hsp, hb]; rfl)
  case accept =>
    intro t a
    have hacc := (execReshardAccept_eq hr hph).trans (by rw [Option.isNone_eq_false_iff.2 hsp, hb])
    exact ⟨fun h => hacc.trans (if_pos h), fun h => hacc.trans (if_neg h)⟩
  case gone => exact (execReshardAccept_eq hr hph).trans (if_pos (Option.isNone_iff_eq_none.2 (by simpa using hsp)))
  case byte =>
    intro ls ld hka hkd hret t
    obtain ⟨hin, hout⟩ := State.load_written hw (State.rshByte_mem ha hd hka hkd hret)
    refine ⟨?_, fun x hx => hout x (by omega), fun hbad => State.rshByte_poisons ha hd hka hkd hret ?_⟩
    · have hv := hin 0 Nat.one_pos
      rwa [Nat.pow_zero, Nat.div_one, Nat.mod_eq_of_lt (s.load_one_lt ls)] at hv
    · rw [State.rshBad_of_leaf ha]
      simpa [or_assoc] using hbad
  case step =>
    intro gone
    have hstep := execReshardStep_eq hr hf hm hx
    refine ⟨fun hc => hstep.trans (if_pos hc), fun hc hno => ?_, fun hc hmay => ?_⟩
    · exact hstep.trans ((if_neg (not_not.2 hc)).trans (if_pos hno))
    · exact hstep.trans ((if_neg (not_not.2 hc)).trans (if_neg (by simp [hmay])))
  case limit =>
    have hlim := execReshardStop_limit hr hph hf hx
    refine ⟨fun ⟨m, hm, haway⟩ ht => hlim.trans (if_pos ?_), fun hnone => hlim.trans (if_neg ?_)⟩
    · rw [decide_eq_true ht, hm, Option.any_some, haway, Bool.and_self]
    · cases hm : r.plan[x.1]? with
      | none => simp
      | some m => simp [hnone m hm]

end Sys2Proof.Machine

/-! SUPPORT. Module controllers (R377, R390 to R401, R418): what a loss of power leaves, bring-up's stages, clocks, the controllers'
records, lifetime counts and the SPDM responder. -/

namespace Sys2Proof.Machine

/-! ### Controllers' records and lifetime counts -/

theorem State.ctrl_setCtrl (s : State) (c k : ℕ) (x : Ctrl) :
    (s.setCtrl c x).ctrl k = if c = k then x else s.ctrl k := by
  simp only [State.ctrl, State.setCtrl, Tab.look_put]

@[simp] theorem State.ctrl_setCtrl_self (s : State) (c : ℕ) (x : Ctrl) : (s.setCtrl c x).ctrl c = x :=
  (s.ctrl_setCtrl c c x).trans (if_pos rfl)

theorem bumpLife_self (t : Tab (ℕ × ℕ × ℕ) ℕ) (k : ℕ × ℕ × ℕ) :
    (bumpLife t k).look k 0 = min (t.look k 0 + 1) (lifeMax k.1) := Tab.look_put_self ..

theorem bumpLife_other (t : Tab (ℕ × ℕ × ℕ) ℕ) {k l : ℕ × ℕ × ℕ} (h : k ≠ l) : (bumpLife t k).look l 0 = t.look l 0 :=
  Tab.look_put_ne _ _ _ h

/-! ### Power goes -/

theorem Memory.get_filter (m : List Host.Cell) (f : ℕ → Bool) (a : ℕ) :
    Memory.get (m.filter fun x => f x.1) a = if f a then Memory.get m a else 0 := by
  induction m with
  | nil => simp [Memory.get]
  | cons x m ih =>
    obtain ⟨k, b⟩ := x
    by_cases hk : k = a
    · subst hk
      cases hf : f k <;> simp [hf, Memory.get, ih]
    · cases hf : f k <;> simp [hf, Memory.get, hk, ih]

/-- What is left of a module and its records without power (R377, R390, R395). -/
structure State.Dark (s t : State) : Prop where
  r : t.r = {}
  x : t.x = {}
  e : t.e = {}
  ready : t.p.ready = false
  powered : t.p.powered = false
  ctrl : ∀ k < 7, t.ctrl k = { s.ctrl k with running := none, upd := none }
  mem : ∀ a, t.load a 1 = if (2 ^ 64 ≤ a ∧ a < 2 ^ 65) ∨ (a < 2 ^ 64 ∧ a / 2 ^ 40 ≠ s.f.dev) then s.load a 1 else 0

theorem State.powerOff_dark (s : State) : s.Dark s.powerOff where
  r := rfl
  x := rfl
  e := rfl
  ready := rfl
  powered := rfl
  ctrl k hk := by interval_cases k <;> rfl
  mem a := by
    rw [State.load, Memory.read_one, State.load, Memory.read_one]
    refine (congrArg BitVec.toNat (Memory.get_filter s.m.mem (Machine.apart s.f.dev) a)).trans ?_
    simp only [Machine.apart, decide_eq_true_eq]
    split <;> rfl

/-- A state that differs in its lifetime counts alone goes dark the same way. -/
theorem State.Dark.of_life {s u t : State} (h : u.Dark t) (he : { u with p.life := s.p.life, p.lifeNv := s.p.lifeNv } = s) :
    s.Dark t where
  r := h.r
  x := h.x
  e := h.e
  ready := h.ready
  powered := h.powered
  ctrl k hk := he ▸ h.ctrl k hk
  mem a := he ▸ h.mem a

/-! ### Bring-up -/

/-- A state without what a stage of bring-up settles. -/
def State.unstaged (s : State) : State :=
  { s with f.down := [], m.retiredPc := [], p.degraded := false, p.life := [], p.stage := 0, p.stageAt := 0 }

theorem State.bumpAll_keeps {β : Type} {F : State → β} (hF : ∀ t k, F (State.bump t k) = F t) (l : List ℕ) (s : State) :
    F (l.foldl (fun t k => t.bump (9, k, 0)) s) = F s := State.foldl_keeps (fun t _ => hF t _) l s

/-- The ports that stage 1 leaves down (R391). -/
def State.dropPorts (s : State) (e : EventArg) (n : ℕ) : State :=
  if s.p.stage < 2 ∧ 2 ≤ n then
    { s with f.down := s.f.down ++ (e.list.filter fun x => decide (2 ^ 16 ≤ x ∧ x < 2 ^ 20)).map (· - 2 ^ 16) }
  else s

/-- Pseudo-channels are retired, each of which is counted (R391, R400). -/
def State.retireAll (s : State) (bad : List ℕ) : State :=
  bad.foldl (fun t k => t.bump (9, k, 0)) { s with m.retiredPc := bad, p.degraded := !bad.isEmpty }

/-- The stage entered begins. -/
def State.enterStage (s : State) (n clk : ℕ) : State := { s with p.stage := n, p.stageAt := clk }

theorem State.passStages_eq (s : State) (e : EventArg) (n : ℕ) : s.passStages e n =
    (if s.p.stage < 3 ∧ 3 ≤ n then (s.dropPorts e n).retireAll (s.m.retiredPc ++ e.list.filter (· < 768)).eraseDups
      else s.dropPorts e n).enterStage n (if s.p.stage < n then s.u.clk else s.p.stageAt) := rfl

@[simp] theorem State.enterStage_unstaged (s : State) (n clk : ℕ) : (s.enterStage n clk).unstaged = s.unstaged := rfl

@[simp] theorem State.enterStage_m (s : State) (n clk : ℕ) : (s.enterStage n clk).m = s.m := rfl

theorem State.dropPorts_unstaged (s : State) (e : EventArg) (n : ℕ) : (s.dropPorts e n).unstaged = s.unstaged := by
  unfold State.dropPorts
  split <;> rfl

theorem State.retireAll_unstaged (s : State) (bad : List ℕ) : (s.retireAll bad).unstaged = s.unstaged :=
  State.bumpAll_keeps (F := State.unstaged) (fun _ _ => rfl) bad _

theorem State.retireAll_retiredPc (s : State) (bad : List ℕ) : (s.retireAll bad).m.retiredPc = bad :=
  State.bumpAll_keeps (F := fun t : State => t.m.retiredPc) (fun _ _ => rfl) bad _

theorem State.passStages_unstaged (s : State) (e : EventArg) (n : ℕ) : (s.passStages e n).unstaged = s.unstaged := by
  rw [State.passStages_eq, State.enterStage_unstaged]
  split
  · exact (State.retireAll_unstaged ..).trans (s.dropPorts_unstaged e n)
  · exact s.dropPorts_unstaged e n

/-- The stages before the third's end retire the pseudo-channels that fail training (R391). -/
theorem State.passStages_retires {s : State} (e : EventArg) {n : ℕ} (hs : s.p.stage < 3) (hn : 3 ≤ n) :
    (s.passStages e n).m.retiredPc = (s.m.retiredPc ++ e.list.filter (· < 768)).eraseDups := by
  rw [State.passStages_eq, State.enterStage_m, if_pos ⟨hs, hn⟩, State.retireAll_retiredPc]

section
variable {s : State} (hon : 2 ^ 30 ∈ s.u.ev.list)
include hon

theorem execBringUp_idle (h : s.p.starting = false) : exec .bringUp s = .next s := by
  simp only [exec, execBringUp, decide_eq_true hon, h, Bool.not_false, Bool.and_self, if_true]

theorem execBringUp_late (hs : s.p.starting = true) (h : s.stageLate = true) :
    exec .bringUp s = .next (s.bringUpFail s.p.stage 4) := by
  simp only [exec, execBringUp, decide_eq_true hon, hs, h, Bool.not_true, Bool.and_false, Bool.false_eq_true, Bool.and_self,
    if_false, if_true]

theorem execBringUp_goes (hs : s.p.starting = true) (h : s.stageLate = false) :
    let n := max s.p.stage (min s.u.ev.n 5)
    let t := s.passStages s.u.ev n
    exec .bringUp s = if n ≤ 4 ∧ s.u.ev.value ≠ 0 then .next (t.bringUpFail n (stageCode n s.u.ev.value))
      else if n ≤ 3 ∨ (n = 4 ∧ s.u.ev.flag) then .next t else .next t.startAll := by
  simp only [exec, execBringUp, decide_eq_true hon, hs, h, Bool.not_true, Bool.and_false, Bool.false_eq_true,
    if_false, if_true]

end

theorem execBringUp_starts {s : State} (hoff : 2 ^ 30 ∉ s.u.ev.list) :
    let n := min s.u.ev.n 5
    let t := (s.bringUpStart s.u.ev).passStages s.u.ev n
    exec .bringUp s = if n ≤ 4 ∧ s.u.ev.value ≠ 0 then .next (t.bringUpFail n (stageCode n s.u.ev.value))
      else if n ≤ 3 ∨ (n = 4 ∧ s.u.ev.flag) then .next t else .next t.startAll := by
  have hstage : max (s.bringUpStart s.u.ev).p.stage (min s.u.ev.n 5) = min s.u.ev.n 5 := Nat.max_eq_right (Nat.zero_le _)
  simp only [exec, execBringUp, decide_eq_false hoff, Bool.false_and, Bool.false_eq_true, if_false, hstage]

/-! ### Images start -/

theorem State.startImage_authentic {s : State} {c : ℕ} {b : Bool} {i : Image} (h : s.startImage c = some (b, i)) :
    i.authentic c = true := by
  have hgood : ∀ (o : Option Image), (o.filter fun i => i.authentic c && decide (s.floorOf c ≤ i.version)) = some i →
      i.authentic c = true := fun o ho => by
    obtain ⟨-, hi⟩ := Option.filter_eq_some_iff.1 ho
    exact (Bool.and_eq_true_iff.1 hi).1
  unfold State.startImage at h
  dsimp only at h
  split at h
  · next j hj =>
    obtain rfl : j = i := congrArg Prod.snd (Option.some.inj h)
    exact hgood _ hj
  · obtain ⟨j, hj, hji⟩ := Option.map_eq_some_iff.1 h
    obtain rfl : j = i := congrArg Prod.snd hji
    exact hgood _ hj

/-- The image that a controller's slots give starts (R395). -/
def State.startOne (s t : State) (c : ℕ) : State :=
  match s.startImage c with
  | some (b, i) => t.setCtrl c { t.ctrl c with activeB := b, running := some i }
  | none => t

theorem State.startOne_running {s : State} {k : ℕ} {b : Bool} {i : Image} (hk : s.startImage k = some (b, i)) (t : State) (c : ℕ)
    (h : c = k ∨ (t.ctrl k).running = some i) : ((s.startOne t c).ctrl k).running = some i := by
  by_cases hc : c = k
  · subst hc
    rw [State.startOne, hk]
    exact congrArg Ctrl.running (State.ctrl_setCtrl_self ..)
  · have hr := h.resolve_left hc
    unfold State.startOne
    split
    · rwa [State.ctrl_setCtrl, if_neg hc]
    · exact hr

/-- Starting images one after the other gives each controller its own (R390). -/
theorem State.foldl_startOne_running {s : State} {cs : List ℕ} {k : ℕ} {b : Bool} {i : Image}
    (hk : s.startImage k = some (b, i)) (t : State) (h : k ∈ cs ∨ (t.ctrl k).running = some i) :
    ((cs.foldl s.startOne t).ctrl k).running = some i := by
  induction cs generalizing t with
  | nil => exact h.resolve_left List.not_mem_nil
  | cons c cs ih =>
    refine ih _ ?_
    by_cases hc : c = k
    · exact .inr (State.startOne_running hk t c (.inl hc))
    · exact h.imp (List.mem_of_ne_of_mem (Ne.symm hc)) fun hr => State.startOne_running hk t c (.inr hr)

/-- A state without its controllers' records. -/
def State.ctrlless (s : State) : State := { s with p.ctrl := [] }

theorem State.foldl_startOne_ctrlless (s : State) (cs : List ℕ) (t : State) :
    (cs.foldl s.startOne t).ctrlless = t.ctrlless :=
  State.foldl_keeps (fun t c => by unfold State.startOne; split <;> rfl) cs t

/-- Bring-up that its images start is through: READY is set. -/
def State.setReady (s : State) : State := { s with p.ready := true, p.stage := 5 }

/-- The controllers. -/
def controllers : List ℕ := [0, 1, 2, 3, 4, 5, 6]

theorem mem_controllers {k : ℕ} : k ∈ controllers ↔ k < 7 := by
  simp only [controllers, List.mem_cons, List.not_mem_nil, or_false]
  omega

theorem State.startAll_eq (s : State) : s.startAll =
    match controllers.find? fun c => (s.startImage c).isNone with
    | some c => s.bringUpFail 4 (if s.underFloor c then 0x06 else 0x05)
    | none => (controllers.foldl s.startOne s).setReady := rfl

/-- Stage 4 starts an authentic image in every controller, or bring-up stops (R390, R395). -/
theorem State.startAll_outcome {s : State} (h : s.p.ready = false) : (s.startAll).m = s.m ∧ s.startAll.f = s.f ∧
    ((s.startAll.p.ready = true ∧ s.startAll.p.stage = 5 ∧
        ∀ k < 7, ∃ i, (s.startAll.ctrl k).running = some i ∧ i.authentic k = true) ∨
      (s.startAll.p.ready = false ∧ s.startAll.p.failed = true ∧ s.startAll.p.stage = 4 ∧
        (s.startAll.p.code = 5 ∨ s.startAll.p.code = 6))) := by
  rw [State.startAll_eq]
  cases hfind : controllers.find? fun c => (s.startImage c).isNone with
  | some c =>
    refine ⟨rfl, rfl, .inr ⟨h, rfl, rfl, ?_⟩⟩
    by_cases hu : s.underFloor c = true
    · exact .inr (if_pos hu)
    · exact .inl (if_neg hu)
  | none =>
    have hrest := s.foldl_startOne_ctrlless controllers s
    refine ⟨(congrArg State.m hrest :), (congrArg State.f hrest :), .inl ⟨rfl, rfl, fun k hk => ?_⟩⟩
    have hsome : s.startImage k ≠ none := fun he =>
      List.find?_eq_none.1 hfind k (mem_controllers.2 hk) (by rw [he]; rfl)
    obtain ⟨⟨b, i⟩, hbi⟩ := Option.ne_none_iff_exists'.1 hsome
    exact ⟨i, State.foldl_startOne_running hbi s (.inl (mem_controllers.2 hk)), State.startImage_authentic hbi⟩

/-! ### Clocks (R394) -/

theorem State.psSince_steady {s : State} (h : s.p.clocks = []) (since : ℕ) :
    s.psSince since = (s.u.clk - since) * 10 ^ 6 / s.p.mhz := by
  rw [State.psSince, h, clockPs]

/-- A clock that changes notes when the one before it ended. -/
theorem State.setClock_eq (s : State) (mhz : ℕ) : s.setClock mhz =
    { s with p.mhz := mhz, p.clocks := if mhz = s.p.mhz then s.p.clocks else (s.u.clk, s.p.mhz) :: s.p.clocks } := by
  unfold State.setClock
  by_cases h : mhz = s.p.mhz
  · rw [if_pos h, if_pos h, h]
  · rw [if_neg h, if_neg h]

/-- A state whose clock has changed, with the clk at which a limit was last found exceeded (R394). -/
def State.clocked (s : State) (mhz hotAt : ℕ) : State :=
  { s with
    p.mhz := mhz
    p.clocks := if mhz = s.p.mhz then s.p.clocks else (s.u.clk, s.p.mhz) :: s.p.clocks
    p.hotAt := hotAt }

section
variable {s : State}

theorem execClockLower_hot (h : s.tooHot = true) : exec .clockLower s =
    .next (s.clocked (max 470 (s.p.mhz - 20)) s.u.clk) :=
  congrArg Host.Outcome.next ((if_pos h).trans (by rw [State.setClock_eq]; rfl))

theorem execClockLower_cool (h : ¬s.tooHot = true) : exec .clockLower s = .next s := congrArg Host.Outcome.next (if_neg h)

theorem execClockRaise_hot (h : s.tooHot = true) : exec .clockRaise s = .next { s with p.hotAt := s.u.clk } :=
  congrArg Host.Outcome.next (if_pos h)

theorem execClockRaise_cool (h : ¬s.tooHot = true) : exec .clockRaise s =
    .next (if s.took s.p.hotAt 100 then s.clocked (min 940 (s.p.mhz + 20)) s.p.hotAt else s) :=
  congrArg Host.Outcome.next ((if_neg h).trans (by rw [State.setClock_eq]; rfl))

end

/-! ### Updates (R396 to R398) -/

theorem State.updateLate_iff (s : State) (x : Ctrl) : s.updateLate x = true ↔
    ∃ since, (x.upd = some (.held since) ∧ s.within since 20 = false) ∨
      (x.upd = some (.imported since) ∧ s.within since 500 = false) := by
  unfold State.updateLate
  cases x.upd with
  | none => simp
  | some u => cases u <;> simp

theorem State.noUpdate_iff (s : State) : s.noUpdate = true ↔ ∀ k < 7, (s.ctrl k).upd = none := by
  have hall : s.noUpdate = controllers.all fun c => decide ((s.ctrl c).upd = none) := rfl
  simp only [hall, List.all_eq_true, mem_controllers, decide_eq_true_eq]

theorem State.mem_holdDispatch (s : State) (c : ℕ) : c ∈ (s.holdDispatch c).d.hold := by
  unfold State.holdDispatch
  by_cases h : c ∉ s.d.hold
  · rw [if_pos h]
    exact List.mem_append_right _ (List.mem_singleton_self c)
  · rw [if_neg h]
    exact not_not.1 h

theorem State.freeDispatch_notMem (s : State) (c : ℕ) : c ∉ (s.freeDispatch c).d.hold := fun h =>
  of_decide_eq_true (List.mem_filter.1 h).2 rfl

theorem State.holdDispatch_p (s : State) (c : ℕ) : (s.holdDispatch c).p = s.p := by
  unfold State.holdDispatch
  split <;> rfl

/-- The words of a block and the sections that an image takes of it (R397). -/
theorem State.handover_spec (s : State) (c : ℕ) (r : Image) : let h := s.handover c r
    h.major = r.hi ∧ h.minor = r.minor ∧ h.kind = kindOf c ∧
      h.image = [h.major, h.minor, h.kind, 4 * (6 + h.body.length), h.sections.length, h.crc] ++ h.body ∧
      (r.minor = 0 → h.sections.map (·.num) = if c < 4 then [1, 2] else if c = 4 then [3, 4, 5, 6] else []) ∧
      ∀ (i : Image) (y : Section), y ∈ i.takes h ↔ y ∈ h.sections ∧ y.minor ≤ i.minor := by
  intro h
  refine ⟨rfl, rfl, rfl, rfl, fun hm => ?_, fun i y => by simp [Image.takes]⟩
  simp only [h, State.handover, hm, if_true, List.append_nil]
  split
  · rfl
  · split <;> rfl

theorem imageOf_version {l : List ℕ} {i : Image} (h : imageOf l = some i) : i.version < 2 ^ 32 := by
  unfold imageOf at h
  split at h
  · cases h
    exact Nat.mod_lt _ (by decide)
  · cases h

section
variable {s : State} (hready : s.p.ready = true)
include hready

theorem State.message_ready (t : State) : s.message t = .next t := congrArg _ (if_pos hready)

/-- An image goes to the inactive slot of its controller (R396). -/
theorem execFwImageWrite_writes {i : Image} (hi : imageOf s.u.ev.list = some i) (hc : s.u.ev.id < 7)
    (hu : (s.ctrl s.u.ev.id).upd = none) : ∃ t, exec .fwImageWrite s = .next t ∧
      (t.ctrl s.u.ev.id).inactive = some { i with minor := s.u.ev.value } ∧
      (t.ctrl s.u.ev.id).active = (s.ctrl s.u.ev.id).active ∧
      (t.ctrl s.u.ev.id).running = (s.ctrl s.u.ev.id).running ∧ t.m = s.m ∧ t.d = s.d := by
  have hex : exec .fwImageWrite s = .next (s.setCtrl s.u.ev.id (if (s.ctrl s.u.ev.id).activeB then
      { s.ctrl s.u.ev.id with slotA := some { i with minor := s.u.ev.value } }
    else { s.ctrl s.u.ev.id with slotB := some { i with minor := s.u.ev.value } })) := by
    simp only [exec, execFwImageWrite, hi, State.message_ready hready]
    exact congrArg _ (if_pos ⟨hc, hu⟩)
  refine ⟨_, hex, ?_, ?_, ?_, rfl, rfl⟩
  all_goals rw [State.ctrl_setCtrl_self]
  all_goals cases hb : (s.ctrl s.u.ev.id).activeB <;> simp [Ctrl.inactive, Ctrl.active, hb]

/-- A request for an update is heard where no update runs and its image takes the running one's block (R396). -/
theorem execLiveUpdate_request {i r : Image} (hflag : s.u.ev.flag = false) (hi : (s.ctrl s.u.ev.id).inactive = some i)
    (hr : (s.ctrl s.u.ev.id).running = some r) (hc : s.u.ev.id < 7) : exec .liveUpdate s =
      if s.noUpdate && i.authentic s.u.ev.id && i.imports (s.handover s.u.ev.id r) then
        .next (State.holdDispatch { s.setCtrl s.u.ev.id { s.ctrl s.u.ev.id with upd := some (.held s.u.clk) } with p.upd := 1 }
          s.u.ev.id)
      else .next s := by
  simp only [exec, execLiveUpdate, hready, hflag, hi, hr, Nat.not_le.2 hc, Bool.not_true, Bool.false_eq_true, if_false]

end

/-- A request is refused while an update runs, or where its image does not take the running one's block (R396, R397). -/
theorem execLiveUpdate_refused {s : State} {i r : Image} (hready : s.p.ready = true) (hflag : s.u.ev.flag = false)
    (hi : (s.ctrl s.u.ev.id).inactive = some i) (hr : (s.ctrl s.u.ev.id).running = some r)
    (h : s.noUpdate = true → i.imports (s.handover s.u.ev.id r) = false) : exec .liveUpdate s = .next s := by
  by_cases hc : s.u.ev.id < 7
  · refine (execLiveUpdate_request hready hflag hi hr hc).trans (if_neg fun hgo => ?_)
    obtain ⟨hgo, himp⟩ := Bool.and_eq_true_iff.1 hgo
    exact Bool.false_ne_true ((h (Bool.and_eq_true_iff.1 hgo).1).symm.trans himp)
  · simp only [exec, execLiveUpdate, hready, Nat.not_lt.1 hc, Bool.not_true, Bool.false_eq_true, if_false, if_true]

/-- A state with the progress of an update noted for BAR0. -/
def State.setUpd (s : State) (n : ℕ) : State := { s with p.upd := n }

@[simp] theorem State.setUpd_ctrl (s : State) (n c : ℕ) : (s.setUpd n).ctrl c = s.ctrl c := rfl

@[simp] theorem State.freeDispatch_ctrl (s : State) (c k : ℕ) : (s.freeDispatch c).ctrl k = s.ctrl k := rfl

@[simp] theorem State.holdDispatch_ctrl (s : State) (c k : ℕ) : (s.holdDispatch c).ctrl k = s.ctrl k := by
  unfold State.ctrl
  rw [State.holdDispatch_p]

@[simp] theorem State.bumpStored_ctrl (s : State) (k : ℕ × ℕ × ℕ) (c : ℕ) : (s.bumpStored k).ctrl c = s.ctrl c := rfl

section
variable {s : State} {since : ℕ}

/-- The new image runs once it has imported the block in time (R396). -/
theorem execLiveUpdate_imports {i : Image} (hready : s.p.ready = true) (hc : s.u.ev.id < 7) (hflag : s.u.ev.flag = true)
    (hi : (s.ctrl s.u.ev.id).inactive = some i) (hu : (s.ctrl s.u.ev.id).upd = some (.held since))
    (hw : s.within since 20 = true) : exec .liveUpdate s = .next (((s.setCtrl s.u.ev.id { s.ctrl s.u.ev.id with
      running := some i, upd := some (.imported s.u.clk) }).setUpd 2).freeDispatch s.u.ev.id) := by
  simp only [exec, execLiveUpdate, hready, hflag, hi, hu, hw, Nat.not_le.2 hc, Bool.not_true, Bool.false_eq_true, if_false,
    if_true]
  rfl

theorem execAliveMsg_alive (hu : (s.ctrl s.u.ev.id).upd = some (.imported since)) (hw : s.within since 500 = true) :
    exec .aliveMsg s = .next ((s.setCtrl s.u.ev.id { s.ctrl s.u.ev.id with
      upd := none, activeB := !(s.ctrl s.u.ev.id).activeB }).setUpd 0) := by
  simp only [exec, execAlive, hu, hw, if_true]
  rfl

/-- A late update rolls back to the image of the active slot, and is counted in the store (R398, R401). -/
theorem execUpdateRollback_late (hflag : s.u.ev.flag = false) (hl : s.updateLate (s.ctrl s.u.ev.id) = true) :
    exec .updateRollback s = .next ((((s.setCtrl s.u.ev.id { s.ctrl s.u.ev.id with
      running := (s.ctrl s.u.ev.id).active, upd := some (.rolling s.u.clk) }).setUpd 3).holdDispatch s.u.ev.id).bumpStored
        (7, s.u.ev.id, 0)) := by
  simp only [exec, execUpdateRollback, hflag, hl, Bool.false_eq_true, if_false, if_true]
  rfl

theorem execUpdateRollback_intime (hflag : s.u.ev.flag = false) (hl : s.updateLate (s.ctrl s.u.ev.id) = false) :
    exec .updateRollback s = .next s := by
  simp only [exec, execUpdateRollback, hflag, hl, Bool.false_eq_true, if_false]

theorem execUpdateRollback_ends (hflag : s.u.ev.flag = true) (hu : (s.ctrl s.u.ev.id).upd = some (.rolling since)) :
    exec .updateRollback s = .next ((s.setCtrl s.u.ev.id { s.ctrl s.u.ev.id with upd := none }).freeDispatch s.u.ev.id) := by
  simp only [exec, execUpdateRollback, hflag, State.endRollback, hu, if_true]

end

/-- The floor of a controller's kind rises to the running version (R395). -/
theorem execFloorRaise_raises {s : State} {i : Image} (hi : (s.ctrl s.u.ev.id).running = some i) (hready : s.p.ready = true)
    (hc : s.u.ev.id < 7) : ∃ t, exec .floorRaise s = .next t ∧
      t.floorOf s.u.ev.id = max (s.floorOf s.u.ev.id) i.version ∧ t.m = s.m := by
  refine ⟨s.setCtrl (if s.u.ev.id < 4 then 0 else s.u.ev.id) { s.ctrl (if s.u.ev.id < 4 then 0 else s.u.ev.id) with
    floor := max (s.ctrl (if s.u.ev.id < 4 then 0 else s.u.ev.id)).floor i.version }, ?_, ?_, rfl⟩
  · simp only [exec, execFloorRaise, hi, State.message_ready hready]
    exact congrArg _ (if_pos hc)
  · exact congrArg Ctrl.floor (State.ctrl_setCtrl_self ..)

/-! ### Lifetime records (R400) -/

theorem State.bump_life (s : State) (k : ℕ × ℕ × ℕ) : { s.bump k with p.life := s.p.life } = s := rfl

/-- A state without its lifetime counts. -/
def State.lifeless (s : State) : State := { s with p.life := [] }

theorem State.eq_of_lifeless {s t : State} (h : t.lifeless = s.lifeless) : { t with p.life := s.p.life } = s :=
  (congrArg (fun q : State => { q with p.life := s.p.life }) h :)

theorem State.corrected_lifeless (s : State) (parts : List ℕ) : (s.corrected parts).lifeless = s.lifeless :=
  State.foldl_keeps (fun t x => by
    split
    · rfl
    · split <;> rfl) parts s

theorem State.corrected_core (s : State) {k : ℕ} (h : k < 768) : s.corrected [k] = s.bump (0, k, 0) := if_pos h

theorem State.corrected_stack (s : State) {k : ℕ} (h : 768 ≤ k) (h' : k < 780) :
    s.corrected [k] = s.bump (1, k - 768, 0) := (if_neg (Nat.not_lt.2 h)).trans (if_pos h')

/-- A minute's temperature and voltage bins are counted (R400). -/
def State.binned (s : State) (kind : ℕ) (l : List ℕ) : State :=
  l.zipIdx.foldl (fun (t : State) x => t.bump (kind, x.2, min x.1 15)) s

theorem State.binned_lifeless (s : State) (kind : ℕ) (l : List ℕ) : (s.binned kind l).lifeless = s.lifeless :=
  State.foldl_keeps (f := fun (t : State) (x : ℕ × ℕ) => t.bump (kind, x.2, min x.1 15)) (F := State.lifeless)
    (fun _ _ => rfl) l.zipIdx s

/-- A minute of the hour under way is over (R400). -/
def State.minute (s : State) : State :=
  if s.p.life.look (11, 0, 0) 0 = 59 then
    ({ s with p.life := s.p.life.put (11, 0, 0) 0 } : State).bump (10, 0, 0)
  else s.bump (11, 0, 0)

theorem State.minute_lifeless (s : State) : s.minute.lifeless = s.lifeless := by
  unfold State.minute
  split <;> rfl

theorem execHistogramMinute_eq (s : State) : exec .histogramMinute s =
    .next (((s.binned 4 (s.u.ev.list.take 4)).binned 5 (s.u.ev.list.drop 4)).minute) := rfl

theorem execHistogramMinute_none {s : State} (h : s.u.ev.list = []) : exec .histogramMinute s = .next s.minute := by
  rw [execHistogramMinute_eq, h]
  rfl

theorem State.minute_counts {s : State} (h : s.p.life.look (11, 0, 0) 0 < 59) :
    s.minute.p.life.look (11, 0, 0) 0 = s.p.life.look (11, 0, 0) 0 + 1 := by
  rw [State.minute, if_neg (Nat.ne_of_lt h)]
  refine (bumpLife_self ..).trans (Nat.min_eq_left ?_)
  rw [show lifeMax 11 = 2 ^ 32 - 1 from rfl]
  omega

theorem State.minute_hour {s : State} (h : s.p.life.look (11, 0, 0) 0 = 59) : s.minute.p.life.look (11, 0, 0) 0 = 0 ∧
    s.minute.p.life.look (10, 0, 0) 0 = min (s.p.life.look (10, 0, 0) 0 + 1) (2 ^ 32 - 1) := by
  have hne : ((10, 0, 0) : ℕ × ℕ × ℕ) ≠ (11, 0, 0) := by decide
  rw [State.minute, if_pos h]
  refine ⟨(bumpLife_other _ hne).trans (Tab.look_put_self ..), (bumpLife_self ..).trans ?_⟩
  rw [Tab.look_put_ne _ _ _ hne.symm]
  rfl

/-! ### Messages (R392, R399, R418) -/

theorem State.spdm_ready {s : State} {need : ℕ} (h : s.p.ready = true) (hn : need ≤ s.p.spdm) (stage code : ℕ) (data : List ℕ) :
    s.spdm need stage code data = s.reply stage code data := if_pos ⟨h, hn⟩

theorem State.spdm_early {s : State} {need : ℕ} (h : ¬(s.p.ready = true ∧ need ≤ s.p.spdm)) (stage code : ℕ) (data : List ℕ) :
    s.spdm need stage code data = s.spdmError := if_neg h

theorem State.message_notReady {s : State} (h : s.p.ready = false) (t : State) : s.message t = .next s.spdmError :=
  congrArg _ (if_neg (Bool.eq_false_iff.1 h))

/-- Before READY every message is answered with an error (R392; log entry 30). -/
theorem exec_notReady {s : State} (h : s.p.ready = false) : ∀ i ∈ [Instr.setPowerCap, .lifetimeRead, .fwImageWrite, .liveUpdate,
    .floorRaise, .setArrears, .migrationPool, .getVersion, .getCapabilities, .negotiateAlgorithms, .getDigests, .getCertificate,
    .challenge, .getMeasurements], exec i s = .next s.spdmError := by
  have hmsg := fun t => State.message_notReady h t
  have hspdm : ∀ need stage code data, (.next (s.spdm need stage code data) : Host.Outcome State Fault Refusal) =
      .next s.spdmError := fun need stage code data => congrArg _ (State.spdm_early (by simp [h]) ..)
  simp only [List.forall_mem_cons, List.not_mem_nil, false_implies, implies_true, and_true]
  refine ⟨hmsg _, hmsg _, ?write, ?update, ?floor, hmsg _, hmsg _, hspdm .., hspdm .., hspdm .., hspdm .., hspdm .., hspdm ..,
    hspdm ..⟩
  case write =>
    simp only [exec, execFwImageWrite]
    split <;> exact hmsg _
  case update => simp only [exec, execLiveUpdate, h, Bool.not_false, if_true]
  case floor =>
    simp only [exec, execFloorRaise]
    split <;> exact hmsg _

theorem State.coreReg_setCoreReg (s : State) {m n : ℕ} (hm : m = 0x82 ∨ m = 0x83 ∨ m = 0x84) (v : Word) (k : ℕ) :
    (s.setCoreReg 0 m v).coreReg k n = if n = m then v else s.coreReg k n := by
  have hhome : ∀ c, regHome c m = 0 := fun c => if_pos hm
  unfold State.coreReg State.setCoreReg
  rw [Tab.look_put, hhome]
  by_cases h : n = m
  · subst h
    rw [hhome, if_pos rfl, if_pos rfl]
  · rw [if_neg h, if_neg fun e => h (Prod.mk.inj e).2.symm]

/-- Thresholds are the same in every core (R418, R424). -/
theorem execSetArrears_sets {s : State} (h : s.p.ready = true) : ∃ t, exec .setArrears s = .next t ∧
    { t with g.core := s.g.core } = s ∧
    (s.u.ev.flag = false → ∀ k, t.coreReg k 0x82 = BitVec.ofNat 32 (s.u.ev.id % 2 ^ 16) ∧
      t.coreReg k 0x83 = BitVec.ofNat 32 (s.u.ev.value % 2 ^ 16) ∧ t.coreReg k 0x84 = s.coreReg k 0x84) ∧
    (s.u.ev.flag = true → ∀ k, t.coreReg k 0x84 = BitVec.ofNat 32 (s.u.ev.n % 2 ^ 16) ∧
      t.coreReg k 0x82 = s.coreReg k 0x82 ∧ t.coreReg k 0x83 = s.coreReg k 0x83) := by
  refine ⟨_, State.message_ready h _, ?_, fun hf k => ?_, fun hf k => ?_⟩
  · split <;> rfl
  · rw [hf, if_neg Bool.false_ne_true]
    simp [State.coreReg_setCoreReg]
  · rw [hf, if_pos rfl]
    simp [State.coreReg_setCoreReg]

/-- Settles O58: each event is its branch of the controllers'; what it keeps is what its one or two changes of the state do not
touch. -/
theorem managementEvents : Obligations.ManagementEvents := by
  unfold Obligations.ManagementEvents
  intro s e c x
  refine ⟨fun t ht => ?dark, ⟨_, rfl, rfl, rfl⟩, ⟨_, rfl, rfl, rfl⟩, fun h => if_neg (Nat.not_le.2 h),
    fun h => ⟨_, if_pos h, bumpLife_self ..⟩, fun hoff hn hv => ?fails, fun hon hs => execBringUp_idle hon hs,
    fun hon hs hl => execBringUp_late hon hs hl, fun hon hs hl => ?goes, fun hoff hn hv hf => ?through,
    ⟨by simp [Pkg.starting, and_assoc], by simp [State.stageLate, stageLimit]⟩, fun hs hl => ?late, fun h => ?early,
    fun hc since ms => ?steady, fun hr h1 h2 => ?cap, fun hr => exec_notReady hr, ⟨fun hot => ?hot, fun hot => ?cool⟩,
    fun i hi => imageOf_version hi, fun i hi hr hc hu => execFwImageWrite_writes hr hi hc hu, fun r => s.handover_spec c r,
    fun i r hr hc hf hi hrun hno hlo hhi => ?request, fun i r hr hf hi hrun h => ?refused,
    fun i since hr hc hf hi hu hw => ?imports, fun since hu hw => ?alive, fun hf hl => ?rolls, fun hf hl => ?intime,
    ⟨s.updateLate_iff x, s.noUpdate_iff⟩, fun since hf hu => ?ends, fun i hi hr hc => execFloorRaise_raises hi hr hc,
    fun hr => State.message_ready hr _, fun hf => ?persist, fun hf => ?corrected, ?minute, fun hr => ?spdm,
    fun hr => execSetArrears_sets hr, fun hr => State.message_ready hr _⟩
  case dark =>
    have hdark : s.Dark t := by
      obtain h | h | ⟨h120, h⟩ := ht
      · exact Host.Outcome.next.inj h ▸ s.powerOff_dark
      · exact Host.Outcome.next.inj h ▸ s.persist.powerOff_dark.of_life rfl
      · exact Host.Outcome.next.inj ((if_pos h120).symm.trans h) ▸ (s.bumpStored (8, 0, 0)).powerOff_dark.of_life rfl
    refine ⟨hdark.r, hdark.x, hdark.e, hdark.ready, hdark.powered, fun k hk => ?_, hdark.mem⟩
    rw [hdark.ctrl k hk]
    exact ⟨rfl, rfl, rfl, rfl, rfl⟩
  case fails =>
    have hstage : min s.u.ev.n 5 = s.u.ev.n := Nat.min_eq_left (Nat.le_succ_of_le hn)
    have hex := (execBringUp_starts hoff).trans (if_pos ⟨by rw [hstage]; exact hn, hv⟩)
    have hrest := (s.bringUpStart s.u.ev).passStages_unstaged s.u.ev (min s.u.ev.n 5)
    refine ⟨_, hex, rfl, hstage, ?_, (congrArg (fun q : State => q.p.ready) hrest :)⟩
    rw [hstage]
    rfl
  case goes =>
    intro n t
    have hex := execBringUp_goes hon hs hl
    refine ⟨rfl, rfl, fun h1 h2 => State.passStages_retires e h1 h2, fun h1 h2 => hex.trans (if_pos ⟨h1, h2⟩),
      fun h1 h2 => ?_, fun h1 h2 h3 => ?_⟩
    · exact hex.trans ((if_neg fun h => h.2 h1).trans (if_pos h2))
    · refine hex.trans ((if_neg fun h => h.2 h1).trans (if_neg fun h => h.elim (fun h4 => ?_) h3))
      exact absurd h2 (Nat.not_le.2 (Nat.lt_succ_of_le h4))
  case through =>
    have h4 : 4 ≤ min s.u.ev.n 5 := le_min hn (by decide)
    have hgo : ¬(min s.u.ev.n 5 ≤ 3 ∨ (min s.u.ev.n 5 = 4 ∧ s.u.ev.flag = true)) := fun h =>
      h.elim (fun h3 => absurd h4 (Nat.not_le.2 (Nat.lt_succ_of_le h3))) fun hfl => Bool.false_ne_true (hf.symm.trans hfl.2)
    have hex := (execBringUp_starts hoff).trans ((if_neg fun h => h.2 hv).trans (if_neg hgo))
    have hrest := (s.bringUpStart s.u.ev).passStages_unstaged s.u.ev (min s.u.ev.n 5)
    have hpc := State.passStages_retires (s := s.bringUpStart s.u.ev) s.u.ev (n := min s.u.ev.n 5) (by decide : 0 < 3)
      (Nat.le_of_succ_le h4)
    obtain ⟨hm, hfab, hout⟩ := State.startAll_outcome
      (s := (s.bringUpStart s.u.ev).passStages s.u.ev (min s.u.ev.n 5)) (congrArg (fun q : State => q.p.ready) hrest :)
    refine ⟨_, hex, (congrArg Mems.retiredPc hm).trans hpc, ?_, ?_, hout⟩
    · exact (congrArg Fab.dev hfab).trans (congrArg (fun q : State => q.f.dev) hrest :)
    · exact (congrArg Fab.podSize hfab).trans (congrArg (fun q : State => q.f.podSize) hrest :)
  case late => exact if_pos (by rw [hs, hl]; rfl)
  case early => exact if_neg (by rcases h with h | h <;> simp [h])
  case steady => simp [State.within, State.took, State.psSince_steady hc]
  case cap => exact (State.message_ready hr _).trans (congrArg _ (if_pos ⟨h1, h2⟩))
  case hot =>
    have htoo : s.tooHot = true := decide_eq_true hot
    refine ⟨execClockRaise_hot htoo, _, execClockLower_hot htoo, rfl, rfl, rfl, Nat.le_max_left _ _, fun h => ?_⟩
    exact Nat.max_eq_right (by omega)
  case cool =>
    have hcool : ¬s.tooHot = true := fun h => hot (of_decide_eq_true h)
    have hraise := execClockRaise_cool hcool
    refine ⟨execClockLower_cool hcool, fun h => hraise.trans (by rw [h]; rfl), fun h => ?_⟩
    rw [h, if_pos rfl] at hraise
    exact ⟨_, hraise, rfl, rfl, Nat.min_le_left _ _, fun h => Nat.min_eq_right (by omega)⟩
  case request =>
    have hex := execLiveUpdate_request hr hf hi hrun hc
    have himp : i.imports (s.handover s.u.ev.id r) = true := decide_eq_true ⟨hlo, hhi⟩
    rw [hno, himp, Bool.true_and, Bool.and_true] at hex
    cases ha : i.authentic c with
    | true => exact hex.trans (if_pos ha)
    | false => exact hex.trans (if_neg (Bool.eq_false_iff.1 ha))
  case refused =>
    refine execLiveUpdate_refused hr hf hi hrun fun hno => ?_
    have himp : i.imports (s.handover s.u.ev.id r) = decide (i.lo ≤ r.hi ∧ r.hi ≤ i.hi) := rfl
    rw [himp]
    exact decide_eq_false fun ⟨hlo, hhi⟩ => h.elim (fun h => Bool.false_ne_true (h.symm.trans hno)) fun h => h.elim
      (Nat.not_lt.2 hlo) (Nat.not_lt.2 hhi)
  case imports =>
    have hself := fun y => s.ctrl_setCtrl_self c y
    exact ⟨_, execLiveUpdate_imports hr hc hf hi hu hw, congrArg Ctrl.running (hself _), congrArg Ctrl.upd (hself _),
      State.freeDispatch_notMem _ _, rfl, rfl, rfl⟩
  case alive =>
    have hself := fun y => s.ctrl_setCtrl_self c y
    exact ⟨_, execAliveMsg_alive hu hw, congrArg Ctrl.activeB (hself _), congrArg Ctrl.upd (hself _), rfl, rfl, rfl⟩
  case rolls =>
    have hself := fun y => (State.holdDispatch_ctrl ((s.setCtrl c y).setUpd 3) c c).trans (s.ctrl_setCtrl_self c y)
    have hp := fun y => State.holdDispatch_p ((s.setCtrl c y).setUpd 3) c
    exact ⟨_, execUpdateRollback_late hf hl, congrArg Ctrl.running (hself _), congrArg Ctrl.upd (hself _),
      congrArg Pkg.upd (hp _), State.mem_holdDispatch _ _,
      (bumpLife_self _ _).trans ((congrArg (fun p : Pkg => min (p.lifeNv.look (7, c, 0) 0 + 1) (2 ^ 16 - 1)) (hp _)).trans rfl)⟩
  case intime => exact execUpdateRollback_intime hf hl
  case ends =>
    have hself := fun y => s.ctrl_setCtrl_self c y
    exact ⟨_, execUpdateRollback_ends hf hu, State.freeDispatch_notMem _ _, congrArg Ctrl.upd (hself _),
      (congrArg Ctrl.running (hself _)).trans rfl, rfl⟩
  case persist => exact congrArg _ (if_neg (Bool.eq_false_iff.1 hf))
  case corrected =>
    refine ⟨_, congrArg Host.Outcome.next (if_pos hf), State.eq_of_lifeless (s.corrected_lifeless _), fun k hk hlt => ?_, fun k hk h1 h2 => ?_⟩
    · rw [show s.u.ev.list = [k] from hk, State.corrected_core s hlt]
      exact bumpLife_self ..
    · rw [show s.u.ev.list = [k] from hk, State.corrected_stack s h1 h2]
      exact bumpLife_self ..
  case minute =>
    refine ⟨_, execHistogramMinute_eq s, State.eq_of_lifeless ?_, fun hl hlt => ?_, fun hl h59 => ?_⟩
    · exact (State.minute_lifeless _).trans ((State.binned_lifeless ..).trans (State.binned_lifeless ..))
    · rw [show s.u.ev.list = [] from hl]
      exact State.minute_counts hlt
    · rw [show s.u.ev.list = [] from hl]
      exact State.minute_hour h59
  case spdm =>
    have hsp := fun need hn stage code data => State.spdm_ready (s := s) (need := need) hr hn stage code data
    refine ⟨congrArg _ (hsp 0 (Nat.zero_le _) ..), fun h1 => congrArg _ (hsp 1 h1 ..), fun h2 => congrArg _ (hsp 2 h2 ..),
      fun h3 => ⟨congrArg _ (hsp 3 h3 ..), congrArg _ (hsp 3 h3 ..), congrArg _ (hsp 3 h3 ..), congrArg _ (hsp 3 h3 ..)⟩,
      fun h => ?_⟩
    have herr := fun stage code data => congrArg (Host.Outcome.next (φ := Fault) (ρ := Refusal))
      (State.spdm_early (s := s) (need := 3) (fun h3 => Nat.not_le.2 h h3.2) stage code data)
    simp only [List.forall_mem_cons, List.not_mem_nil, false_implies, implies_true, and_true]
    exact ⟨herr .., herr .., herr .., herr ..⟩

end Sys2Proof.Machine

/-! SUPPORT. The fabric's events (R414 to R418, R424, R429 to R432): ports and planes, the port of a path, arrears, pod jobs
and the hold of a page. -/

namespace Sys2Proof.Machine

/-! ### Ports and planes (R414, R415) -/

theorem State.failLostAll_nil {s : State} (h : s.f.jobs = []) : s.failLostAll = s := by
  rw [State.failLostAll, h, List.foldl_nil]

/-- A state with one port down. -/
def State.downed (s : State) (port : ℕ) : State :=
  { s with
    f.down := if port ∈ s.f.down then s.f.down else s.f.down ++ [port]
    f.replays := s.f.replays.put port 0 }

theorem State.portDown_nil {s : State} (h : s.f.jobs = []) (port : ℕ) : s.portDown port = s.downed port :=
  State.failLostAll_nil (s := s.downed port) h

theorem State.downed_portUp (s : State) (port n : ℕ) : (s.downed port).portUp n = (s.portUp n && decide (n ≠ port)) := by
  have hdown : n ∈ (s.downed port).f.down ↔ n ∈ s.f.down ∨ n = port := by
    change n ∈ (if port ∈ s.f.down then s.f.down else s.f.down ++ [port]) ↔ _
    split
    · next h => exact ⟨.inl, fun hn => hn.elim id fun e => e ▸ h⟩
    · rw [List.mem_append, List.mem_singleton]
  rw [State.portUp, State.portUp, ← Bool.decide_and]
  exact decide_eq_decide.2 (by rw [hdown, not_or, and_assoc])

/-- A port that goes down while no job waits is down, and nothing else changes but its failures (R415). -/
theorem State.portDown_down {s : State} (h : s.f.jobs = []) (port : ℕ) :
    let t := s.portDown port
    (∀ n, t.portUp n = (s.portUp n && decide (n ≠ port))) ∧ t.f.replays.look port 0 = 0 ∧ t.f.planes = s.f.planes ∧
      t.f.jobs = [] ∧ t.r = s.r ∧ t.m = s.m := by
  intro t
  have ht : t = s.downed port := State.portDown_nil h port
  rw [ht]
  exact ⟨s.downed_portUp port, Tab.look_put_self .., rfl, h, rfl, rfl⟩

theorem State.mem_planesTo {s : State} {d n : ℕ} : n ∈ s.planesTo d ↔ s.portUp n = true ∧ n ∈ s.f.planes.look d [] := by
  simp only [State.planesTo, List.mem_filter, List.mem_range, Bool.and_eq_true, decide_eq_true_eq, and_iff_right_iff_imp,
    and_imp]
  intro hup _
  exact (of_decide_eq_true hup).1

/-- A state in which some peers' ends of a plane are down. -/
def State.farDowned (s : State) (port : ℕ) (peers : List ℕ) : State :=
  { s with f.planes := s.f.planes.map fun (x : ℕ × List ℕ) => (x.1, if x.1 ∈ peers then x.2.filter (· ≠ port) else x.2) }

theorem State.look_farDowned (s : State) (port : ℕ) (peers : List ℕ) (d : ℕ) : (s.farDowned port peers).f.planes.look d [] =
    if d ∈ peers then (s.f.planes.look d []).filter (· ≠ port) else s.f.planes.look d [] := by
  change Tab.look (s.f.planes.map _) d [] = _
  induction s.f.planes with
  | nil => simp [Tab.look]
  | cons x l ih =>
    by_cases hx : x.1 = d
    · simp [Tab.look, hx]
    · simpa [Tab.look, hx] using ih

theorem State.mem_planesTo_farDowned {s : State} {port : ℕ} {peers : List ℕ} {d n : ℕ} :
    n ∈ (s.farDowned port peers).planesTo d ↔ n ∈ s.planesTo d ∧ ¬(d ∈ peers ∧ n = port) := by
  have hup : (s.farDowned port peers).portUp n = s.portUp n := rfl
  rw [State.mem_planesTo, State.mem_planesTo, hup, State.look_farDowned, and_assoc]
  refine and_congr_right fun _ => ?_
  by_cases hd : d ∈ peers
  · simp [hd]
  · simp [hd]

theorem State.fabricHeld_iff (s : State) : s.fabricHeld = true ↔
    ∃ c, (s.ctrl 4).upd = some (.held c) ∨ (s.ctrl 4).upd = some (.rolling c) := by
  unfold State.fabricHeld
  cases (s.ctrl 4).upd with
  | none => simp
  | some u => cases u <;> simp

theorem State.applyPorts_held {s : State} (h : s.fabricHeld = true) : s.applyPorts = s := if_pos (by rw [h, Bool.or_true])

theorem State.applyPorts_one {s : State} {port : ℕ} (h : s.fabricHeld = false) (hw : s.f.portWait = [(port, [])]) :
    s.applyPorts = ({ s with f.portWait := [] } : State).portDown port := by
  unfold State.applyPorts
  rw [if_neg (by rw [h, hw]; exact Bool.false_ne_true), hw]
  rfl

theorem State.portEvent_held {s : State} (h : s.fabricHeld = true) (port : ℕ) (peers : List ℕ) :
    s.portEvent port peers = { s with f.portWait := s.f.portWait ++ [(port, peers)] } := if_pos h

theorem State.portEvent_now {s : State} (h : s.fabricHeld = false) (port : ℕ) (peers : List ℕ) :
    s.portEvent port peers = s.portChange port peers := if_neg (Bool.eq_false_iff.1 h)

section
variable {s : State}

/-- A link whose replays are spent retrains, which is counted (R415). -/
theorem execLinkRetrain_spent (hsize : s.u.ev.size ≠ 1) (hid : s.u.ev.id < 64) (hspent : 17 ≤ s.f.replays.look s.u.ev.id 0)
    (hdown : s.u.ev.id ∉ s.f.down) (hwait : (s.u.ev.id, []) ∉ s.f.portWait) : exec .linkRetrain s = .next
      (if s.u.ev.flag then { s.bump (6, s.u.ev.id, 0) with f.replays := s.f.replays.put s.u.ev.id 0 }
        else (s.bump (6, s.u.ev.id, 0)).portEvent s.u.ev.id []) := by
  have hgo : ¬(64 ≤ s.u.ev.id ∨ (!s.linkSpent s.u.ev.id) = true ∨ s.u.ev.id ∈ s.f.down ∨ (s.u.ev.id, []) ∈ s.f.portWait) := by
    have hsp : s.linkSpent s.u.ev.id = true := decide_eq_true hspent
    rw [hsp]
    rintro (h | h | h | h)
    · exact Nat.not_le.2 hid h
    · exact Bool.false_ne_true h
    · exact hdown h
    · exact hwait h
  simp only [exec, execLinkRetrain, hsize, if_false]
  exact if_neg hgo

theorem execLinkRetrain_quiet (hsize : s.u.ev.size ≠ 1) (h : s.f.replays.look s.u.ev.id 0 < 17) :
    exec .linkRetrain s = .next s := by
  have hsp : s.linkSpent s.u.ev.id = false := decide_eq_false (Nat.not_le.2 h)
  simp only [exec, execLinkRetrain, hsize, if_false]
  exact if_pos (.inr (.inl (by rw [hsp]; rfl)))

theorem execLinkRetrain_peers (hsize : s.u.ev.size = 1) : exec .linkRetrain s =
    .next (if s.u.ev.list.isEmpty then s else s.portEvent s.u.ev.id s.u.ev.list) := by
  simp only [exec, execLinkRetrain, hsize, if_true]

/-- The ends that peers have of a plane go down, and nothing else changes while no job waits (R414). -/
theorem execLinkRetrain_farDown (hsize : s.u.ev.size = 1) (hheld : s.fabricHeld = false) (hjobs : s.f.jobs = []) :
    ∃ t, exec .linkRetrain s = .next t ∧ t.f.down = s.f.down ∧ t.r = s.r ∧ t.m = s.m ∧
      ∀ d n, n ∈ t.planesTo d ↔ n ∈ s.planesTo d ∧ ¬(d ∈ s.u.ev.list ∧ n = s.u.ev.id) := by
  have hex := execLinkRetrain_peers hsize
  cases hl : s.u.ev.list with
  | nil => exact ⟨s, hex.trans (by rw [hl]; rfl), rfl, rfl, rfl, by simp⟩
  | cons x l =>
    rw [hl] at hex
    have hport : s.portEvent s.u.ev.id (x :: l) = s.farDowned s.u.ev.id (x :: l) :=
      (State.portEvent_now hheld ..).trans (State.failLostAll_nil (s := s.farDowned s.u.ev.id (x :: l)) hjobs)
    exact ⟨_, hex.trans (congrArg _ hport), rfl, rfl, rfl, fun _ _ => State.mem_planesTo_farDowned⟩

end

/-! ### The port of a path (R416) -/

/-- The ports of a die in the order in which a path from a core to a module tries them. -/
def pathPorts (core dev d : ℕ) : List ℕ := (List.range 16).map fun i => 16 * d + (core + dev + i) % 16

/-- The first of a die's ports that reaches a module. -/
def State.diePort (s : State) (core dev d : ℕ) : Option ℕ := (pathPorts core dev d).find? fun n => decide (n ∈ s.planesTo dev)

theorem State.pathPort_eq (s : State) (core dev : ℕ) :
    s.pathPort core dev = (core / 192 :: [0, 1, 2, 3]).findSome? (s.diePort core dev) := rfl

theorem mem_pathPorts {core dev d p : ℕ} : p ∈ pathPorts core dev d ↔ p / 16 = d := by
  simp only [pathPorts, List.mem_map, List.mem_range]
  refine ⟨fun ⟨i, _, hi⟩ => by omega, fun h => ⟨(p % 16 + 16 - (core + dev) % 16) % 16, by omega, by omega⟩⟩

/-- The first port of a die that reaches a module, in the path's order. -/
theorem State.diePort_some {s : State} {core dev d p : ℕ} (h : s.diePort core dev d = some p) :
    p ∈ s.planesTo dev ∧ p / 16 = d ∧ ∃ i < 16, p = 16 * d + (core + dev + i) % 16 ∧
      ∀ j < i, 16 * d + (core + dev + j) % 16 ∉ s.planesTo dev := by
  have hfind : (pathPorts core dev d).find? (fun n => decide (n ∈ s.planesTo dev)) = some p := h
  have hreach := List.find?_some hfind
  refine ⟨of_decide_eq_true hreach, mem_pathPorts.1 (List.mem_of_find?_eq_some hfind), ?_⟩
  obtain ⟨-, i, hi, hp, hfirst⟩ := List.find?_eq_some_iff_getElem.1 h
  have hlen : (pathPorts core dev d).length = 16 := by simp [pathPorts]
  refine ⟨i, hlen ▸ hi, by simpa [pathPorts] using hp.symm, fun j hj => ?_⟩
  simpa [pathPorts] using hfirst j hj

theorem State.diePort_isSome {s : State} {core dev d : ℕ} :
    (s.diePort core dev d).isSome = true ↔ ∃ q ∈ s.planesTo dev, q / 16 = d := by
  simp only [State.diePort, List.find?_isSome, mem_pathPorts, decide_eq_true_eq]
  exact ⟨fun ⟨q, h1, h2⟩ => ⟨q, h2, h1⟩, fun ⟨q, h1, h2⟩ => ⟨q, h2, h1⟩⟩

theorem State.planesTo_lt {s : State} {d n : ℕ} (h : n ∈ s.planesTo d) : n < 64 :=
  List.mem_range.1 (List.mem_filter.1 h).1

theorem State.pathPort_isSome {s : State} {core dev : ℕ} :
    (s.pathPort core dev).isSome = true ↔ ∃ q, q ∈ s.planesTo dev := by
  rw [State.pathPort_eq, List.findSome?_isSome_iff]
  refine ⟨fun ⟨d, _, hd⟩ => ?_, fun ⟨q, hq⟩ => ⟨q / 16, ?_, State.diePort_isSome.2 ⟨q, hq, rfl⟩⟩⟩
  · obtain ⟨q, hq, -⟩ := State.diePort_isSome.1 hd
    exact ⟨q, hq⟩
  · have := State.planesTo_lt hq
    simp only [List.mem_cons, List.not_mem_nil, or_false]
    omega

/-- A die without a port has none that reaches the module. -/
theorem State.ne_of_diePort_none {s : State} {core dev d q : ℕ} (h : s.diePort core dev d = none) (hq : q ∈ s.planesTo dev) :
    q / 16 ≠ d := fun he => by
  have hsome : (s.diePort core dev d).isSome = true := State.diePort_isSome.2 ⟨q, hq, he⟩
  exact Bool.false_ne_true ((congrArg Option.isSome h).symm.trans hsome)

/-- The first of a die's ports in an ascending list of dies is of the lowest-numbered die that has one (R416). -/
theorem State.findSome_diePort {s : State} {core dev p : ℕ} {dies : List ℕ} (hsorted : dies.Pairwise (· ≤ ·))
    (h : dies.findSome? (s.diePort core dev) = some p) :
    s.diePort core dev (p / 16) = some p ∧ ∀ q ∈ s.planesTo dev, q / 16 ∈ dies → p / 16 ≤ q / 16 := by
  induction dies with
  | nil => exact nomatch h
  | cons d dies ih =>
    obtain ⟨hd, hrest⟩ := List.pairwise_cons.1 hsorted
    rw [List.findSome?_cons] at h
    cases hown : s.diePort core dev d with
    | some r =>
      rw [hown] at h
      obtain rfl : r = p := Option.some.inj h
      obtain ⟨-, hdie, -⟩ := State.diePort_some hown
      subst hdie
      refine ⟨hown, fun q _ hmem => ?_⟩
      rcases List.mem_cons.1 hmem with he | hmem
      · exact he.ge
      · exact hd _ hmem
    | none =>
      rw [hown] at h
      obtain ⟨hfound, hleast⟩ := ih hrest h
      refine ⟨hfound, fun q hq hmem => ?_⟩
      rcases List.mem_cons.1 hmem with he | hmem
      · exact absurd he (State.ne_of_diePort_none hown hq)
      · exact hleast q hq hmem

/-- The port of a path is the first of its die's, or else of the lowest-numbered die's that has one (R416). -/
theorem State.pathPort_first {s : State} {core dev p : ℕ} (h : s.pathPort core dev = some p) :
    s.diePort core dev (p / 16) = some p ∧ ((∃ q ∈ s.planesTo dev, q / 16 = core / 192) → p / 16 = core / 192) ∧
      ((∀ q ∈ s.planesTo dev, q / 16 ≠ core / 192) → ∀ q ∈ s.planesTo dev, p / 16 ≤ q / 16) := by
  rw [State.pathPort_eq, List.findSome?_cons] at h
  cases hown : s.diePort core dev (core / 192) with
  | some q =>
    rw [hown] at h
    obtain rfl : q = p := Option.some.inj h
    obtain ⟨hq, hdie, -⟩ := State.diePort_some hown
    exact ⟨hdie ▸ hown, fun _ => hdie, fun hno => absurd hdie (hno q hq)⟩
  | none =>
    rw [hown] at h
    obtain ⟨hfound, hleast⟩ := State.findSome_diePort (dies := [0, 1, 2, 3]) (by decide) h
    refine ⟨hfound, fun ⟨q, hq, he⟩ => absurd he (State.ne_of_diePort_none hown hq), fun _ q hq => hleast q hq ?_⟩
    have := State.planesTo_lt hq
    simp only [List.mem_cons, List.not_mem_nil, or_false]
    omega

theorem State.reachable_iff_pathPort {s : State} (core : ℕ) {d : ℕ} (hd : d ≠ s.f.dev) :
    s.reachable d = true ↔ (s.pathPort core d).isSome = true := by
  rw [State.pathPort_isSome, State.reachable, decide_eq_false hd, Bool.false_or, Bool.not_eq_true', List.isEmpty_eq_false_iff]
  exact ⟨List.exists_mem_of_ne_nil _, fun ⟨_, hq⟩ => List.ne_nil_of_mem hq⟩

theorem State.pathPort_facts {s : State} {core d p : ℕ} (h : s.pathPort core d = some p) :
    p ∈ s.planesTo d ∧ s.portUp p = true ∧ p ∈ s.f.planes.look d [] ∧
      (∃ i < 16, p = 16 * (p / 16) + (core + d + i) % 16 ∧ ∀ j < i, 16 * (p / 16) + (core + d + j) % 16 ∉ s.planesTo d) ∧
      ((∃ q ∈ s.planesTo d, q / 16 = core / 192) → p / 16 = core / 192) ∧
      ((∀ q ∈ s.planesTo d, q / 16 ≠ core / 192) → ∀ q ∈ s.planesTo d, p / 16 ≤ q / 16) := by
  obtain ⟨hfound, hown, hleast⟩ := State.pathPort_first h
  obtain ⟨hmem, -, horder⟩ := State.diePort_some hfound
  obtain ⟨hup, hplane⟩ := State.mem_planesTo.1 hmem
  exact ⟨hmem, hup, hplane, horder, hown, hleast⟩

/-! ### Tiers and arrears (R417, R418) -/

theorem Traffic.channel_eq_iff (x y : Traffic) (a b : Bool) : x.channel a = y.channel b ↔ x.tier = y.tier ∧ a = b :=
  Prod.mk.injEq .. ▸ Iff.rfl

/-- A state with other arrears. -/
def State.owing (s : State) (a : Tab (ℕ × ℕ) ℕ) : State := { s with f.arrears := a }

/-- The arrears of a point after one tier has waited. -/
def waitedTier (point clks : ℕ) (waiting : List ℕ) (a : Tab (ℕ × ℕ) ℕ) (k : ℕ) : Tab (ℕ × ℕ) ℕ :=
  if k ∈ waiting then a.put (point, k) (a.look (point, k) 0 + clks) else a

theorem look_waitedTier (point clks : ℕ) (waiting : List ℕ) (a : Tab (ℕ × ℕ) ℕ) (k p n : ℕ) :
    (waitedTier point clks waiting a k).look (p, n) 0 =
      a.look (p, n) 0 + if p = point ∧ n = k ∧ n ∈ waiting then clks else 0 := by
  unfold waitedTier
  split
  · next hk =>
    rw [Tab.look_put]
    by_cases he : (point, k) = (p, n)
    · obtain ⟨rfl, rfl⟩ := Prod.mk.inj he
      simp [hk]
    · have hne : ¬(p = point ∧ n = k ∧ n ∈ waiting) := fun ⟨h1, h2, _⟩ => he (by rw [h1, h2])
      rw [if_neg he, if_neg hne, Nat.add_zero]
  · next hk =>
    have hne : ¬(p = point ∧ n = k ∧ n ∈ waiting) := fun ⟨_, h2, h3⟩ => hk (h2 ▸ h3)
    rw [if_neg hne, Nat.add_zero]

theorem State.addArrears_eq (s : State) (point clks : ℕ) (waiting : List ℕ) : s.addArrears point clks waiting =
    s.owing (waitedTier point clks waiting (waitedTier point clks waiting s.f.arrears 1) 2) := by
  unfold State.addArrears waitedTier
  simp only [List.foldl_cons, List.foldl_nil]
  by_cases h1 : 1 ∈ waiting <;> by_cases h2 : 2 ∈ waiting <;> simp only [h1, h2, if_true, if_false] <;> rfl

/-- The counters of the tiers that wait rise (R418). -/
theorem State.look_addArrears (s : State) (point clks : ℕ) (waiting : List ℕ) (p n : ℕ) :
    (s.addArrears point clks waiting).f.arrears.look (p, n) 0 =
      s.f.arrears.look (p, n) 0 + if p = point ∧ (n = 1 ∨ n = 2) ∧ n ∈ waiting then clks else 0 := by
  rw [State.addArrears_eq]
  change (waitedTier point clks waiting (waitedTier point clks waiting s.f.arrears 1) 2).look (p, n) 0 = _
  rw [look_waitedTier, look_waitedTier, Nat.add_assoc]
  by_cases h1 : n = 1
  · subst h1; simp
  · simp [h1]

theorem State.addArrears_frame (s : State) (point clks : ℕ) (waiting : List ℕ) :
    { s.addArrears point clks waiting with f.arrears := s.f.arrears } = s := by
  rw [State.addArrears_eq]
  rfl

theorem State.addArrears_limit (s : State) (point clks : ℕ) (waiting : List ℕ) (n : ℕ) :
    (s.addArrears point clks waiting).arrearsLimit n = s.arrearsLimit n := by
  rw [State.addArrears_eq]
  rfl

section
variable {s : State} {point : ℕ} {waiting : List ℕ}

theorem State.inArrears_iff {n : ℕ} : s.inArrears point n = true ↔ s.arrearsLimit n ≤ s.f.arrears.look (point, n) 0 :=
  decide_eq_true_iff

theorem State.grantTier_one (hw : 1 ∈ waiting) (ho : s.inArrears point 1 = true) : s.grantTier point waiting = some 1 :=
  if_pos ⟨hw, ho⟩

theorem State.grantTier_two (h1 : ¬(1 ∈ waiting ∧ s.inArrears point 1 = true)) (hw : 2 ∈ waiting)
    (ho : s.inArrears point 2 = true) : s.grantTier point waiting = some 2 := (if_neg h1).trans (if_pos ⟨hw, ho⟩)

theorem State.grantTier_strict (h1 : ¬(1 ∈ waiting ∧ s.inArrears point 1 = true))
    (h2 : ¬(2 ∈ waiting ∧ s.inArrears point 2 = true)) : s.grantTier point waiting =
      if 0 ∈ waiting then some 0 else if 1 ∈ waiting then some 1 else if 2 ∈ waiting then some 2 else none := by
  refine (if_neg h1).trans ((if_neg h2).trans ?_)
  simp only [List.find?_cons, List.find?_nil]
  by_cases w0 : 0 ∈ waiting
  · simp [w0]
  · by_cases w1 : 1 ∈ waiting
    · simp [w0, w1]
    · by_cases w2 : 2 ∈ waiting <;> simp [w0, w1, w2]
end

section
variable {s : State} {waiting : List ℕ} {k : ℕ}

theorem execArrearsWin_quiet (hw : (s.u.ev.list.map fun n => (Traffic.ofNum n).tier) = waiting)
    (h : s.u.ev.flag = false ∨ (s.addArrears s.u.ev.id s.u.ev.value waiting).grantTier s.u.ev.id waiting = none) :
    exec .arrearsWin s = .next (s.addArrears s.u.ev.id s.u.ev.value waiting) := by
  simp only [exec, execArrearsWin, hw]
  cases hflag : s.u.ev.flag with
  | false => rfl
  | true =>
    rw [h.resolve_left (by rw [hflag]; exact Bool.noConfusion)]
    rfl

/-- A state in which a point has granted a tier. -/
def State.withGrant (s : State) (point k : ℕ) : State := { s with f.grants := s.f.grants.put point k }

/-- A grant, and the counter of a tier that wins it by its arrears starts again (R418). -/
theorem execArrearsWin_grant (hw : (s.u.ev.list.map fun n => (Traffic.ofNum n).tier) = waiting) (hflag : s.u.ev.flag = true)
    (h : (s.addArrears s.u.ev.id s.u.ev.value waiting).grantTier s.u.ev.id waiting = some k) : exec .arrearsWin s =
      let t := s.addArrears s.u.ev.id s.u.ev.value waiting
      .next ((t.withGrant s.u.ev.id k).owing
        (if k ≠ 0 ∧ t.inArrears s.u.ev.id k = true then t.f.arrears.put (s.u.ev.id, k) 0 else t.f.arrears)) := by
  simp only [exec, execArrearsWin, hw, hflag, h]
  by_cases hk : k ≠ 0 ∧ (s.addArrears s.u.ev.id s.u.ev.value waiting).inArrears s.u.ev.id k = true
  · simp only [if_pos hk]; rfl
  · simp only [if_neg hk]; rfl
end

/-! ### Pod jobs (R429 to R431) -/

/-- A state with one more job. -/
def State.withJob (s : State) (j : PodJob) : State := { s with f.jobs := s.f.jobs ++ [j] }

/-- A state in which the jobs of a number have changed. -/
def State.mapJob (s : State) (num : ℕ) (f : PodJob → PodJob) : State :=
  { s with f.jobs := s.f.jobs.map fun x => if x.num = num then f x else x }

section
variable {s : State}

theorem execPodJobRegister_new (hid : s.u.ev.id < 65536) (hv : s.u.ev.value < 65536) (h2 : 2 ≤ s.u.ev.list.length)
    (hmax : s.u.ev.list.length ≤ 512) (hdev : s.f.dev ∈ s.u.ev.list)
    (hfree : ∀ j ∈ s.f.jobs, j.asid ≠ s.u.ev.value ∧ j.num ≠ s.u.ev.id) :
    exec .podJobRegister s = .next (s.withJob { num := s.u.ev.id, asid := s.u.ev.value, devs := s.u.ev.list }) :=
  if_pos ⟨hid, hv, h2, hmax, hdev, List.all_eq_true.2 fun j hj => decide_eq_true (hfree j hj)⟩

theorem execPodJobRegister_taken {j : PodJob} (hj : j ∈ s.f.jobs) (ha : j.asid = s.u.ev.value) :
    exec .podJobRegister s = .next s :=
  if_neg fun ⟨_, _, _, _, _, hall⟩ => (of_decide_eq_true (List.all_eq_true.1 hall j hj)).1 ha

variable {j : PodJob} (hj : s.job? s.u.ev.id = some j)
include hj

theorem execPodArrivalMsg_settled (h2 : s.u.ev.size = 2) : exec .podArrivalMsg s =
    .next (s.mapJob j.num fun x => { x with settled := (s.u.ev.value :: x.settled).eraseDups }) := by
  simp only [exec, execPodArrivalMsg, hj, h2, if_true]
  rfl

theorem execPodCompletionMsg_settled (h2 : s.u.ev.size = 2) : exec .podCompletionMsg s =
    .next (s.mapJob j.num fun x => { x with settled := x.devs }) := by
  simp only [exec, execPodCompletionMsg, hj, h2, if_true]
  rfl

theorem execPodArrivalMsg_own (h2 : s.u.ev.size ≠ 2) (hv : s.u.ev.value = s.f.dev) :
    exec .podArrivalMsg s = .next (s.checkRound s.u.ev.podRound) := by
  simp only [exec, execPodArrivalMsg, hj, if_neg h2, if_pos hv]

theorem execPodArrivalMsg_peer (h2 : s.u.ev.size ≠ 2) (hlead : j.leader = s.f.dev) (hv : s.u.ev.value ≠ s.f.dev)
    (hmem : s.u.ev.value ∈ j.devs) : exec .podArrivalMsg s =
      .next ((s.mapJob j.num fun x =>
        { x with arrived := ((s.u.ev.value, min s.u.ev.size 1) :: x.arrived).eraseDups }).checkRound s.u.ev.podRound) := by
  simp only [exec, execPodArrivalMsg, hj, if_neg h2, if_neg hv]
  exact if_pos ⟨hlead, hmem⟩

theorem execPodCompletionMsg_told (h2 : s.u.ev.size ≠ 2) (ht : min s.u.ev.size 1 ∈ j.told) :
    exec .podCompletionMsg s = .next (s.complete s.u.ev.podRound) := by
  simp only [exec, execPodCompletionMsg, hj, if_neg h2, if_pos ht]

end

/-! ### Migration (R424, R425) -/

section
variable {s : State} {asid page dest : ℕ} (hl : s.u.ev.list = [asid, page, dest])

/-- A state whose hold of a migration has begun. -/
def State.migBegun (s : State) (asid page : ℕ) : State :=
  { s with
    f.migQ := s.f.migQ.filter fun m => decide (m.asid ≠ asid ∨ m.va ≠ page)
    f.migFar := s.f.migFar.filter (· ≠ (asid, page))
    f.migHold := s.f.migHold ++ [(asid, page)] }

/-- A state that knows other pages to be queued by other modules. -/
def State.withMigFar (s : State) (l : List (ℕ × ℕ)) : State := { s with f.migFar := l }

/-- The destination takes the page from its queue and holds it (R424). -/
theorem State.migrationHold_asked (hfree : (asid, page) ∉ s.f.migHold) (hpool : s.f.migPool ≠ [])
    (hasked : ∃ m ∈ s.f.migQ, m.asid = asid ∧ m.va = page) : s.migrationHold asid page s.f.dev = s.migBegun asid page := by
  have hq : (s.f.migQ.any fun m => decide (m.asid = asid ∧ m.va = page)) = true := by
    obtain ⟨m, hm, he⟩ := hasked
    exact List.any_eq_true.2 ⟨m, hm, decide_eq_true he⟩
  have hp : s.f.migPool.isEmpty = false := List.isEmpty_eq_false_iff.2 hpool
  unfold State.migrationHold
  simp only [if_neg hfree, if_true, hq, Bool.not_true, Bool.false_eq_true, if_false, hp]
  rfl

theorem State.migBegun_takes (s : State) (asid page : ℕ) : (asid, page) ∈ (s.migBegun asid page).f.migHold ∧
    ∀ m ∈ (s.migBegun asid page).f.migQ, ¬(m.asid = asid ∧ m.va = page) := by
  refine ⟨List.mem_append_right _ List.mem_cons_self, fun m hm => ?_⟩
  exact not_and_or.2 (of_decide_eq_true (List.mem_filter.1 hm).2)

include hl

theorem execMigrationRun_hold (hn : s.u.ev.n = 0) : exec .migrationRun s = .next (s.migrationHold asid page dest) := by
  simp only [exec, execMigrationRun, hl, hn]

theorem execMigrationRun_end (hn : s.u.ev.n = 1) (hh : (asid, page) ∈ s.f.migHold) (hb : s.migBusy asid page = false) :
    exec .migrationRun s = .next (s.migrationEnd asid page dest s.u.ev.value) := by
  simp only [exec, execMigrationRun, hl, hn]
  exact if_pos ⟨hh, by rw [hb]; rfl⟩

theorem execMigrationRun_release (hn : s.u.ev.n = 2) (hh : (asid, page) ∈ s.f.migHold) : exec .migrationRun s =
    .next (s.releaseHold asid page (((s.anyWalk asid page).map (·.size)).getD 65536)) := by
  simp only [exec, execMigrationRun, hl, hn]
  exact if_pos hh

theorem execMigrationRun_far (hn : s.u.ev.n = 3) : exec .migrationRun s =
    .next (s.withMigFar (if (asid, page) ∈ s.f.migFar then s.f.migFar else s.f.migFar ++ [(asid, page)])) := by
  simp only [exec, execMigrationRun, hl, hn]
  rfl

theorem execMigrationRun_near (hn : s.u.ev.n = 4) : exec .migrationRun s =
    .next (s.withMigFar (s.f.migFar.filter (· ≠ (asid, page)))) := by
  simp only [exec, execMigrationRun, hl, hn]
  rfl

end

theorem mem_insert_once {α : Type} {a x : α} {l : List α} [Decidable (a ∈ l)] :
    (x ∈ if a ∈ l then l else l ++ [a]) ↔ x = a ∨ x ∈ l := by
  split
  · next h => exact ⟨.inr, fun hx => hx.elim (fun e => e ▸ h) id⟩
  · rw [List.mem_append, List.mem_singleton, or_comm]

section
variable {s : State}

theorem linkRetrain_clause (hsize : s.u.ev.size ≠ 1) (hid : s.u.ev.id < 64) (hspent : 17 ≤ s.f.replays.look s.u.ev.id 0)
    (hdown : s.u.ev.id ∉ s.f.down) (hwait : (s.u.ev.id, []) ∉ s.f.portWait) :
    let e := s.u.ev
    let counted := s.bump (6, e.id, 0)
    counted.p.life.look (6, e.id, 0) 0 = min (s.p.life.look (6, e.id, 0) 0 + 1) (2 ^ 32 - 1) ∧
      (e.flag = true → exec .linkRetrain s = .next { counted with f.replays := s.f.replays.put e.id 0 }) ∧
      (e.flag = false → s.fabricHeld = false → exec .linkRetrain s = .next (counted.portDown e.id)) ∧
      (e.flag = false → s.fabricHeld = true → exec .linkRetrain s = .next
        { counted with f.portWait := s.f.portWait ++ [(e.id, [])] }) := by
  have hex := execLinkRetrain_spent hsize hid hspent hdown hwait
  refine ⟨bumpLife_self .., fun hf => hex.trans (by rw [if_pos hf]), fun hf hh => ?_, fun hf hh => ?_⟩
  · have hnow := State.portEvent_now (s := s.bump (6, s.u.ev.id, 0)) hh s.u.ev.id []
    exact hex.trans (by rw [if_neg (Bool.eq_false_iff.1 hf), hnow]; rfl)
  · have hheld := State.portEvent_held (s := s.bump (6, s.u.ev.id, 0)) hh s.u.ev.id []
    exact hex.trans (by rw [if_neg (Bool.eq_false_iff.1 hf), hheld]; rfl)

theorem arrears_clause (s : State) :
    let e := s.u.ev
    let waiting := e.list.map fun n => (Traffic.ofNum n).tier
    let t := s.addArrears e.id e.value waiting
    let owed := fun n => s.arrearsLimit n ≤ t.f.arrears.look (e.id, n) 0
    let grant := t.grantTier e.id waiting
    (1 ∈ waiting → owed 1 → grant = some 1) ∧
      (¬ (1 ∈ waiting ∧ owed 1) → 2 ∈ waiting → owed 2 → grant = some 2) ∧
      (¬ (1 ∈ waiting ∧ owed 1) → ¬ (2 ∈ waiting ∧ owed 2) → grant =
        if 0 ∈ waiting then some 0 else if 1 ∈ waiting then some 1 else if 2 ∈ waiting then some 2 else none) ∧
      (e.flag = false ∨ grant = none → exec .arrearsWin s = .next t) ∧
      ∀ k, e.flag = true → grant = some k → exec .arrearsWin s = .next { t with
        f.grants := t.f.grants.put e.id k
        f.arrears := if k ≠ 0 ∧ owed k then t.f.arrears.put (e.id, k) 0 else t.f.arrears } := by
  intro e waiting t owed grant
  have howed : ∀ n, t.inArrears e.id n = true ↔ owed n := fun n => by
    rw [State.inArrears_iff, State.addArrears_limit]
  refine ⟨fun hw ho => State.grantTier_one hw ((howed 1).2 ho), fun h1 hw ho => ?_, fun h1 h2 => ?_,
    execArrearsWin_quiet rfl, fun k hf hg => ?_⟩
  · exact State.grantTier_two (fun h => h1 ⟨h.1, (howed 1).1 h.2⟩) hw ((howed 2).2 ho)
  · exact State.grantTier_strict (fun h => h1 ⟨h.1, (howed 1).1 h.2⟩) (fun h => h2 ⟨h.1, (howed 2).1 h.2⟩)
  · refine (execArrearsWin_grant rfl hf hg).trans (congrArg Host.Outcome.next ?_)
    have hif : (if k ≠ 0 ∧ t.inArrears e.id k = true then t.f.arrears.put (e.id, k) 0 else t.f.arrears) =
        if k ≠ 0 ∧ owed k then t.f.arrears.put (e.id, k) 0 else t.f.arrears :=
      if_congr (and_congr_right fun _ => howed k) rfl rfl
    exact congrArg (t.withGrant e.id k).owing hif

theorem migrationRun_clause {asid page dest : ℕ} (hl : s.u.ev.list = [asid, page, dest]) :
    let e := s.u.ev
    (e.n = 0 → exec .migrationRun s = .next (s.migrationHold asid page dest)) ∧
      (e.n = 0 → (asid, page) ∉ s.f.migHold → dest = s.f.dev → s.f.migPool ≠ [] →
        (∃ m ∈ s.f.migQ, m.asid = asid ∧ m.va = page) → ∃ t, exec .migrationRun s = .next t ∧
          (asid, page) ∈ t.f.migHold ∧ (∀ m ∈ t.f.migQ, ¬ (m.asid = asid ∧ m.va = page)) ∧ t.m = s.m ∧ t.r = s.r) ∧
      (e.n = 1 → (asid, page) ∈ s.f.migHold → s.migBusy asid page = false →
        exec .migrationRun s = .next (s.migrationEnd asid page dest e.value)) ∧
      (e.n = 2 → (asid, page) ∈ s.f.migHold → ∃ t, exec .migrationRun s = .next t ∧
        t = s.releaseHold asid page (((s.anyWalk asid page).map (·.size)).getD 65536)) ∧
      (e.n = 3 → ∃ t, exec .migrationRun s = .next t ∧ { t with f.migFar := s.f.migFar } = s ∧
        ∀ x, x ∈ t.f.migFar ↔ x = (asid, page) ∨ x ∈ s.f.migFar) ∧
      (e.n = 4 → ∃ t, exec .migrationRun s = .next t ∧ { t with f.migFar := s.f.migFar } = s ∧
        ∀ x, x ∈ t.f.migFar ↔ x ≠ (asid, page) ∧ x ∈ s.f.migFar) := by
  refine ⟨execMigrationRun_hold hl, fun hn hfree hdest hpool hasked => ?_, execMigrationRun_end hl,
    fun hn hh => ⟨_, execMigrationRun_release hl hn hh, rfl⟩,
    fun hn => ⟨_, execMigrationRun_far hl hn, rfl, fun x => mem_insert_once⟩,
    fun hn => ⟨_, execMigrationRun_near hl hn, rfl, fun x => ?_⟩⟩
  · subst hdest
    obtain ⟨hheld, hqueue⟩ := s.migBegun_takes asid page
    have hex := (execMigrationRun_hold hl hn).trans (congrArg _ (State.migrationHold_asked hfree hpool hasked))
    exact ⟨_, hex, hheld, hqueue, rfl, rfl⟩
  · exact List.mem_filter.trans (and_comm.trans (and_congr_left fun _ => decide_eq_true_iff))

end

/-- Settles O59: links and their replays, the port of a path, tiers and arrears, pod jobs, and migration. -/
theorem fabricEvents : Obligations.FabricEvents := by
  intro s
  refine ⟨fun hid => if_neg (Nat.not_le.2 hid), linkRetrain_clause, execLinkRetrain_quiet,
    fun port hj => State.portDown_down hj port, ?farWaits, execLinkRetrain_farDown,
    ⟨State.fabricHeld_iff s, State.applyPorts_held, fun port => State.applyPorts_one⟩,
    fun core d hd => ⟨State.reachable_iff_pathPort core hd, fun p => State.pathPort_facts⟩,
    by decide, by decide, by decide, Traffic.channel_eq_iff, ?arrears, execPodJobRegister_new,
    fun j hj ha => execPodJobRegister_taken hj ha, ?jobs, fun asid page dest hl => migrationRun_clause hl⟩
  case farWaits =>
    intro hsize hlist hheld
    refine (execLinkRetrain_peers hsize).trans ?_
    rw [if_neg (Bool.eq_false_iff.1 (List.isEmpty_eq_false_iff.2 hlist)), State.portEvent_held hheld]
  case arrears =>
    exact ⟨s.look_addArrears _ _ _, s.addArrears_frame _ _ _, ⟨rfl, rfl⟩, arrears_clause s⟩
  case jobs =>
    exact fun j hj => ⟨fun h2 => ⟨execPodArrivalMsg_settled hj h2, execPodCompletionMsg_settled hj h2⟩,
      execPodArrivalMsg_own hj, execPodArrivalMsg_peer hj, execPodCompletionMsg_told hj⟩

end Sys2Proof.Machine
